-- ==== Sys2Proof/Word.lean ====
section
/-!
DEFINITION. The plain value types of the model: bytes, header words, 64-bit register words, byte lists, packets and
command requests.
-/
namespace Sys2Proof

/-- One byte of a packet, a tile, the keep file or a command payload. -/
abbrev Byte := BitVec 8

/-- One 32-bit header or trailer word (R83). -/
abbrev Word := BitVec 32

/-- One 64-bit word: a register of the control space, an engine register, the FTC. -/
abbrev Word64 := BitVec 64

/-- Bytes in wire order: the first element is the byte at the lowest offset. -/
abbrev Bytes := List Byte

/-- A packet header: the eight words W0 to W7 of *Header words* (R85). -/
structure Hdr where
  w0 : Word := 0
  w1 : Word := 0
  w2 : Word := 0
  w3 : Word := 0
  w4 : Word := 0
  w5 : Word := 0
  w6 : Word := 0
  w7 : Word := 0
deriving DecidableEq, Repr, Inhabited

/-- A packet (R83): header, payload and the trailer words T0 and T1, with the port it arrived on, the VC that it arrived on
where it has entered Calm here since, and, in a COLL_JOIN that an engine emitted to its own module, the landing object of the
emitting run (R370; 0: the run has none). -/
structure Pkt where
  h : Hdr := {}
  pl : Bytes := []
  t0 : Word := 0
  t1 : Word := 0
  port : Option Nat := none
  vcIn : Option Nat := none
  land : Option Nat := none
deriving DecidableEq, Repr, Inhabited

/-- A command as the Vane controller takes it (R427, R428): its master, the fields of W6 and W7, its parameters, and
where its replies go. -/
structure CmdReq where
  /-- `true`: the side-band; `false`: the main host (R431). -/
  side : Bool := false
  opcode : Nat := 0
  /-- CMD_VERSION, W7 [19:16]. -/
  ver : Nat := 1
  tag : Nat := 0
  /-- SRC_CHIP of a host command. -/
  chip : Nat := 0
  /-- Source address (4 or 16 bytes) and UDP port of a side-band datagram. -/
  addr : Bytes := []
  udp : Nat := 0
  /-- The payload: the command's parameters. -/
  body : Bytes := []
  /-- For a host command that came by a Directed path: its arrival port, PATH_LEN and PATH (R99). -/
  directed : Bool := false
  port : Nat := 0
  pathLen : Nat := 0
  path : Nat := 0
deriving DecidableEq, Repr, Inhabited

/-- What a cold start, a restart or a wake of the memories observes (R304, R305, R479, R496): unit `u` is stack Hu for
`u` below 16 and socket DM(u − 16) above. -/
structure StartIn where
  /-- Bank A and bank B verify, and the die supervisors' images verify. -/
  bankA : Bool := true
  bankB : Bool := true
  supervisors : Bool := true
  /-- The seed that the boot ROM reconstructs, and the check value in the helper data (R474). -/
  seed : Bytes := []
  check : Bytes := []
  /-- The input voltage once the Vane controller is ready (R517). -/
  vinMv : Nat := 48000
  /-- Bit u: the unit trains, or leaves self-refresh, well. -/
  trainOk : Nat := 2 ^ 32 - 1
  /-- Bit u: the check pattern of unit u passes with the stored values. -/
  keptOk : Nat := 0
  /-- Identity as read (8 bytes) and training values (24 bytes) of each unit, for the keep file. -/
  training : List Bytes := []
  /-- For sockets DM0 to DM15: capacity in GiB (0: not populated) and transfer rate. -/
  dimms : List (Nat × Nat) := []
  /-- For each switch die, the buffer cells that the self-test finds unusable. -/
  badCells : List (List Nat) := []
deriving DecidableEq, Repr, Inhabited

/-- One sample of the carrier's sensors (R523, R531, R532). -/
structure SensorIn where
  vinMv : Nat := 48000
  iinDeciA : Nat := 0
  inletDeciC : Nat := 300
  outletDeciC : Nat := 300
  flowDeciLpm : Nat := 80
  dpKpa : Nat := 40
  /-- Temperatures in °C of the optical engines OE0 to OE15 and of the stacks H0 to H15, and the hottest junction. -/
  oeC : List Nat := []
  stackC : List Nat := []
  tjC : Nat := 30
  /-- Bit k: the laser feed of OEk is out of range; bit k: LSk reports an error. -/
  feedBad : Nat := 0
  laserBad : Nat := 0
  /-- Lane optical power words (R532), as (4 × port + lane, word). -/
  lanes : List (Nat × Nat) := []
deriving DecidableEq, Repr, Inhabited

/-- What the pace loop measures for one core rail in one update (R40, *Software bounds*). -/
structure RailIn where
  /-- Pace-monitor rate in per mille of the slow corner. -/
  mon : Nat := 1000
  tj : Nat := 40
  /-- The lowest voltage in mV that carries the measured demand. -/
  need : Nat := 620
  /-- The lowest voltage in mV that meets the performance floor on this die. -/
  floorMv : Nat := 620
  /-- The port datapath of the rail's dies is idle. -/
  idle : Bool := true
deriving DecidableEq, Repr, Inhabited

/-- One update of the pace loop. -/
structure PaceIn where
  /-- The sample of the input power, in watts. -/
  watts : Nat := 0
  rails : List RailIn := []
deriving DecidableEq, Repr, Inhabited

/-- One segment received (R55 to R57): what the lanes carried in the window of the frame that holds it. -/
structure SegIn where
  /-- The PAM4 levels, 0 to 3, received on lanes 0 to 3 in the frame's window, each from the link's common start of the
  lanes before deskew. -/
  lanes : List (List Nat) := []
  /-- Place of the segment in the frame, 0 to 4. -/
  idx : Nat := 0
  /-- FTC at the frame-marker reference instant of the frame (R80). -/
  refAt : Nat := 0
  /-- The segment leaves the receive synchronising FIFO more than half full (R33). -/
  fifoHigh : Bool := false
deriving DecidableEq, Repr, Inhabited

/-- One PTP offset measurement (R416): offset and path delay of an accepted Sync exchange, in FTC units. -/
structure PtpIn where
  /-- Source address of the message, for the allow list. -/
  addr : Bytes := []
  domain : Nat := 0
  transport : Nat := 0
  theta : Int := 0
deriving DecidableEq, Repr, Inhabited

/-- An Announce whose sender the best master clock algorithm has selected (R416): the master, the domain and the transport. -/
structure PtpAnn where
  master : Nat := 0
  domain : Nat := 0
  transport : Nat := 0
deriving DecidableEq, Repr, Inhabited

/-- One side-band datagram fragment (R428). `total` is the whole UDP payload's length, `off` the fragment's offset. -/
structure SbFrag where
  addr : Bytes := []
  udp : Nat := 0
  ident : Nat := 0
  total : Nat := 0
  off : Nat := 0
  data : Bytes := []
deriving DecidableEq, Repr, Inhabited

/-- What has befallen the memory since the last such operand (R306): tiles by their key (log entry 101), each with 1 for an
error of one symbol, 2 for an error that ECC cannot correct, 3 for content that no longer matches its CRC-32C; and the cells
of packet buffers in which a single bit has changed (R135), as (die, cell). -/
structure EccIn where
  hits : List (Nat × Nat) := []
  cells : List (Nat × Nat) := []
deriving DecidableEq, Repr, Inhabited

end Sys2Proof
end

