-- ==== Sys2Proof/Syntax.lean ====
section
/-!
DEFINITION. The commands of the module: one constructor for each row of spec/opcode_table.json, in the table's order.
A row that reports an event of the outside world carries what that event brings (a header, a sample); a row that
marks an instant carries the unit it concerns; a software command's row carries the request `r`. A row of a received stream
names what it takes from there, and takes nothing where something else stands there (log entry 11).
-/
namespace Sys2Proof

/-- The commands (the rows of the opcode table). -/
inductive Instr
  | standbyPowerOn (flagGood crcGood : Bool)
  | coldStart (start : StartIn)
  | standbyPowerOff
  | brownout
  | inputRestored (start : StartIn)
  | hardwareTrip
  | leakDetected (own board : Bool)
  | sensorSample (inp : SensorIn)
  | batterySample (mv : Nat)
  | sidebandLinkChange (up : Bool)
  | paceUpdate (inp : PaceIn)
  | stickyClear (v : Nat)
  | limitUpdatesClear (v : Nat)
  | syncFifoResume (p : Nat)
  | enable (p : Nat) (on : Bool)
  | retrain (p : Nat)
  | widthLimit (p v : Nat)
  | downTimerExpiry (p : Nat)
  | tuningDone (p : Nat)
  | lightReceived (p : Nat)
  | lanesLocked (p : Nat)
  | equaliseTimeout (p lanes : Nat)
  | frameMarkersFound (p : Nat) (lanes : List (List Nat)) (frame : Nat)
  | alignTimeout (p : Nat)
  | hello (p : Nat) (pk : Pkt)
  | switchFrameReached (p : Nat)
  | helloTimeout (p : Nat)
  | swapHoldExpiry (p : Nat)
  | helloTransmit (p : Nat)
  | timeTransmit (p txFrame rxFrame tTx tRx : Nat)
  | helloLost (p : Nat)
  | segmentReceived (p : Nat) (inp : SegIn)
  | replayTimeout (p : Nat)
  | replayLimitReached (p lane : Nat)
  | lockLoss (p lane : Nat)
  | laneSerExceeded (p lane ppm : Nat)
  | markerLoss (p : Nat)
  | rerouteQueued (p : Nat)
  | packetArrival (p : Nat) (h : Hdr)
  | mcastReplication (id : Nat)
  | packetTailArrival (p : Nat) (pl : Bytes) (t0 t1 : Word)
  | localDelivery (d idx : Nat)
  | reorderCommit (src : Nat)
  | windowOffer (d : Nat)
  | gapTimeout (src : Nat)
  | write (p : Pkt) (c : EccIn)
  | readReq (p : Pkt) (c : EccIn)
  | fetchAdd (p : Pkt) (c : EccIn)
  | fetchAnd (p : Pkt) (c : EccIn)
  | fetchOr (p : Pkt) (c : EccIn)
  | fetchXor (p : Pkt) (c : EccIn)
  | fetchMaxS (p : Pkt) (c : EccIn)
  | fetchMinS (p : Pkt) (c : EccIn)
  | fetchMaxU (p : Pkt) (c : EccIn)
  | fetchMinU (p : Pkt) (c : EccIn)
  | swap (p : Pkt) (c : EccIn)
  | compareSwap (p : Pkt) (c : EccIn)
  | fence (p : Pkt)
  | restartFence (p : Pkt)
  | fenceAckReceived (p : Pkt)
  | headwindReceived (p : Pkt)
  | headwindHoldExpiry (d idx : Nat)
  | egressStart (p : Nat)
  | packetSent (p : Nat)
  | originatedPacketWait (idx : Nat)
  | rebalancerStep (d : Nat)
  | poolConversionDone (d : Nat)
  | recover (d : Nat)
  | calmEntry (q : Nat)
  | calmHoldExpiry (p : Nat)
  | calmSinkDelivery (d idx : Nat)
  | shaperRefill
  | timingWheelSlot (d : Nat)
  | resetRing (d : Nat)
  | admitSet (d mask : Nat)
  | counterClear (blk off : Nat)
  | cmdArrival (p : Pkt)
  | sidebandDatagram (f : SbFrag)
  | reassemblyTimeout (idx : Nat)
  | assemblyTimeout (idx : Nat)
  | eventSend (slot : Nat)
  | identify (r : CmdReq)
  | keepRead (r : CmdReq)
  | keepWrite (r : CmdReq)
  | portConfig (r : CmdReq)
  | portStatus (r : CmdReq)
  | cablingLoad (r : CmdReq)
  | routeWrite (r : CmdReq)
  | eddySetWrite (r : CmdReq)
  | routeRead (r : CmdReq)
  | pinWrite (r : CmdReq)
  | pinRemove (r : CmdReq)
  | calmWrite (r : CmdReq)
  | partitionConfig (r : CmdReq)
  | vcConfig (r : CmdReq)
  | shaperConfig (r : CmdReq)
  | policerConfig (r : CmdReq)
  | redProfile (r : CmdReq)
  | windsockConfig (r : CmdReq)
  | groupCreate (r : CmdReq)
  | groupMembers (r : CmdReq)
  | groupPlan (r : CmdReq)
  | groupDelete (r : CmdReq)
  | mcastConfig (r : CmdReq)
  | storeCreate (r : CmdReq)
  | storeResize (r : CmdReq)
  | storePlace (r : CmdReq)
  | storeMigrate (r : CmdReq)
  | migrationSegmentDone (entry : Nat) (c : EccIn)
  | storeCommit (r : CmdReq)
  | storeSeal (r : CmdReq)
  | sealDigestDone (handle : Nat) (c : EccIn)
  | storeUnseal (r : CmdReq)
  | storeDigest (r : CmdReq)
  | digestDone (handle : Nat) (c : EccIn)
  | storeDelete (r : CmdReq)
  | tileRetire (r : CmdReq)
  | scrubTile (handle tile : Nat) (e : EccIn)
  | heatHalving
  | programLoad (r : CmdReq)
  | programUnload (r : CmdReq)
  | kernelRun (r : CmdReq)
  | kernelInvoke (p : Pkt)
  | runDispatch (d : Nat)
  | launchReached
  | runTimeLimit (e : Nat)
  | engineAccessDone (e idx : Nat) (c : EccIn)
  | waitcDone (e : Nat)
  | halt (e : Nat)
  | trap (e : Nat)
  | alu (e : Nat)
  | addi (e : Nat)
  | andi (e : Nat)
  | ori (e : Nat)
  | xori (e : Nat)
  | shi (e : Nat)
  | lih (e : Nat)
  | beq (e : Nat)
  | bne (e : Nat)
  | blt (e : Nat)
  | bltu (e : Nat)
  | jmp (e : Nat)
  | loop (e : Nat)
  | rdftc (e : Nat)
  | waitc (e : Nat)
  | verq (e : Nat)
  | ldt (e : Nat)
  | stt (e : Nat)
  | movts (e : Nat)
  | movst (e : Nat)
  | mac (e : Nat)
  | vchain (e : Nat)
  | scan (e : Nat)
  | red (e : Nat)
  | cvt (e : Nat)
  | maskop (e : Nat)
  | mpop (e : Nat)
  | mrange (e : Nat)
  | movm (e : Nat)
  | fenceInstr (e : Nat)
  | acq (e : Nat)
  | emit (e : Nat)
  | tcopy (e : Nat)
  | strm (e : Nat)
  | attnPartial (e : Nat)
  | attnFinal (e : Nat)
  | updateSgdm (e : Nat)
  | updateAdamw (e : Nat)
  | gather (e : Nat)
  | compact (e : Nat)
  | convert (e : Nat)
  | collJoin (p : Pkt)
  | contrib (p : Pkt)
  | collMask (p : Pkt)
  | partialPiece (p : Pkt)
  | anchorUp (p : Pkt)
  | summary (p : Pkt)
  | collGather (p : Pkt)
  | tileStepAdmit (d : Nat)
  | resultTile (p : Pkt)
  | resultMask (p : Pkt)
  | anchorDown (p : Pkt)
  | checked (p : Pkt)
  | complete (p : Pkt)
  | lossNotice (p : Pkt)
  | collAck (p : Pkt)
  | subtreeDone (p : Pkt)
  | failureNotice (p : Pkt)
  | noContextAnswer (p : Pkt)
  | xchgSend (p : Pkt)
  | xchgCarry (p : Pkt)
  | xchgRow (p : Pkt)
  | xchgColumn (p : Pkt)
  | joinTimeout (handle : Nat)
  | dataTimeout (handle plane : Nat)
  | ackTimeout (handle plane off : Nat)
  | probeTimer (handle plane : Nat)
  | timeSample (p : Nat) (pk : Pkt) (t1 t4 : Nat)
  | ptpSync (inp : PtpIn)
  | ptpAnnounce (addr : Bytes) (master : PtpAnn)
  | ptpMasterLost
  | candidateLoss (p : Nat)
  | sourceSwitch
  | holdoverExpiry
  | acquireTimeout
  | stepNow
  | ppsPulse
  | timeConfig (r : CmdReq)
  | timeStatus (r : CmdReq)
  | powerCap (r : CmdReq)
  | paceConfig (r : CmdReq)
  | lullEnter (r : CmdReq)
  | lullIdleSet (r : CmdReq)
  | lullIdleExpiry
  | lullEntryDone
  | lullWake
  | lullWakeCount
  | wakeComplete
  | resetWarm (r : CmdReq) (start : StartIn)
  | resetWarmStoreKept (r : CmdReq) (start : StartIn)
  | resetPort (r : CmdReq)
  | resetCold (r : CmdReq) (start : StartIn)
  | faultRaise (src blk detail : Nat)
  | graceExpiry
  | faultStatus (r : CmdReq)
  | faultHistory (r : CmdReq)
  | faultClear (r : CmdReq)
  | severitySet (r : CmdReq)
  | attest (r : CmdReq)
  | firmwareStage (r : CmdReq)
  | firmwareActivate (r : CmdReq) (start : StartIn)
  | ownershipTake (r : CmdReq)
  | ownershipGrant (r : CmdReq)
  | ownershipRevoke (r : CmdReq)
  | opStatus (r : CmdReq)
  | opAbort (r : CmdReq)
  | entryFinish (idx : Nat)
  | countersRead (r : CmdReq)
  | regRead (r : CmdReq)
  | regWrite (r : CmdReq)
  | eventSubscribe (r : CmdReq)
  | eventUnsubscribe (r : CmdReq)
  | eventList (r : CmdReq)
  | testModeEnter (r : CmdReq)
  | faultInject (r : CmdReq)
  | candidateAppears (p : Nat) (pk : Pkt)
  | levelSourceInactive (src blk : Nat)
deriving DecidableEq, Repr

end Sys2Proof
end

