-- ==== Sys2Proof/Machine/Bits.lean ====
section
/-!
DEFINITION. Bit fields of numbers, byte order (R3, R4, R84), the exact arithmetic of R13 and list helpers.
-/
namespace Sys2Proof.Machine

/-- The field `[hi:lo]` of a number (R3). -/
def bits (v hi lo : Nat) : Nat := v / 2 ^ lo % 2 ^ (hi + 1 - lo)

/-- Bit `n` of a number (R3). -/
def bitAt (v n : Nat) : Bool := v / 2 ^ n % 2 == 1

/-- The number with its field `[hi:lo]` replaced. -/
def setBits (v hi lo x : Nat) : Nat :=
  v - bits v hi lo * 2 ^ lo + x % 2 ^ (hi + 1 - lo) * 2 ^ lo

/-- `1` for `true`, `0` for `false`. -/
def b2n (b : Bool) : Nat := if b then 1 else 0

/-- The number with bit `n` set or cleared. -/
def setBit (v n : Nat) (b : Bool) : Nat := setBits v n n (b2n b)

/-- The bits of a mask up to `n`, as the list of the set positions. -/
def onesOf (v n : Nat) : List Nat := (List.range n).filter (bitAt v)

/-- Bits set in a mask below `n`. -/
def popcount (v n : Nat) : Nat := (onesOf v n).length

/-- `n` bytes of a number, most significant byte first (R84). -/
def beBytes : Nat → Nat → Bytes
  | 0, _ => []
  | n + 1, v => BitVec.ofNat 8 (v / 256 ^ n) :: beBytes n v

/-- The number that bytes spell, most significant byte first (R84). -/
def beNat (l : Bytes) : Nat := l.foldl (fun a b => a * 256 + b.toNat) 0

/-- `n` bytes of a number, least significant byte first (R4). -/
def leBytes : Nat → Nat → Bytes
  | 0, _ => []
  | n + 1, v => BitVec.ofNat 8 v :: leBytes n (v / 256)

/-- The number that bytes spell, least significant byte first (R4). -/
def leNat : Bytes → Nat
  | [] => 0
  | b :: l => b.toNat + 256 * leNat l

/-- The slice of `n` bytes at offset `o`; a place past the end reads as 0. -/
def slice (l : Bytes) (o n : Nat) : Bytes :=
  let s := (l.drop o).take n
  s ++ List.replicate (n - s.length) 0

/-- The big-endian field of bytes `o` to `o + n - 1`. -/
def fieldBE (l : Bytes) (o n : Nat) : Nat := beNat (slice l o n)

/-- The byte at offset `o`, 0 past the end. -/
def byteAt (l : Bytes) (o : Nat) : Nat := (l.getD o 0).toNat

/-- Whether every byte of a list is zero. -/
def allZero (l : Bytes) : Bool := l.all (· == 0)

/-- Zero bytes. -/
def zeros (n : Nat) : Bytes := List.replicate n 0

/-- Bytes padded with zeros to a multiple of 16 (R427, R447). -/
def pad16 (l : Bytes) : Bytes := l ++ zeros ((16 - l.length % 16) % 16)

/-- Bytes padded with zeros (or cut) to `n`. -/
def padTo (n : Nat) (l : Bytes) : Bytes := (l ++ zeros (n - l.length)).take n

/-- A list with the bytes from offset `o` replaced. -/
def splice (l : Bytes) (o : Nat) (d : Bytes) : Bytes :=
  l.take o ++ d ++ l.drop (o + d.length)

/-- `n` rounded up to a multiple of `k`. -/
def roundUp (n k : Nat) : Nat := (n + k - 1) / k * k

/-- Division that rounds up. -/
def ceilDiv (n k : Nat) : Nat := (n + k - 1) / k

/-- Two's complement reading of the low `w` bits. -/
def toSigned (w v : Nat) : Int :=
  if v % 2 ^ w < 2 ^ (w - 1) then (v % 2 ^ w : Nat) else (v % 2 ^ w : Nat) - (2 ^ w : Nat)

/-- The low `w` bits of an integer, as two's complement. -/
def ofSigned (w : Nat) (i : Int) : Nat := (i % ((2 ^ w : Nat) : Int)).toNat

/-- `sat` of R13. -/
def satInt (x lo hi : Int) : Int := if x < lo then lo else if hi < x then hi else x

/-- `RNE` of R13 for the quotient `n / d` with `d > 0`: the nearest integer, a tie going to the even one. -/
def rneDiv (n : Int) (d : Nat) : Int :=
  let q := Int.fdiv n d
  let r := n - q * d
  if 2 * r < d then q else if (d : Int) < 2 * r then q + 1 else if q % 2 == 0 then q else q + 1

/-- The floor of the base-2 logarithm; 0 for 0. -/
def log2 (n : Nat) : Nat := Nat.log2 n

/-- The elements of a list with element `i` replaced. -/
def setAt {α : Type} (l : List α) (i : Nat) (a : α) : List α := l.set i a

/-- The elements of a list with element `i` changed by a function. -/
def modAt {α : Type} (l : List α) (i : Nat) (f : α → α) : List α := l.modify i f

/-- The list cut into pieces of `k` (`fuel` bounds the number of pieces). -/
def chunksAux {α : Type} (k : Nat) : Nat → List α → List (List α)
  | 0, _ => []
  | fuel + 1, l => if l.isEmpty then [] else l.take k :: chunksAux k fuel (l.drop k)

/-- The list cut into pieces of `k` elements. -/
def chunks {α : Type} (k : Nat) (l : List α) : List (List α) := chunksAux k l.length l

/-- The first element that meets a test, with its position. -/
def findIdx1 {α : Type} (p : α → Bool) (l : List α) : Option Nat :=
  let i := l.findIdx p
  if i < l.length then some i else none

/-- The least natural below `n` that meets a test. -/
def leastBelow (n : Nat) (p : Nat → Bool) : Option Nat := (List.range n).find? p

/-- Insertion into a list in rising order of a key. -/
def insertBy {α : Type} (k : α → Nat) (a : α) : List α → List α
  | [] => [a]
  | b :: l => if k a < k b then a :: b :: l else b :: insertBy k a l

/-- A list in rising order of a key; equal keys keep their order. -/
def sortBy {α : Type} (k : α → Nat) (l : List α) : List α :=
  l.reverse.foldl (fun acc a => insertLe k a acc) []
where
  insertLe {α : Type} (k : α → Nat) (a : α) : List α → List α
    | [] => [a]
    | b :: l => if k a ≤ k b then a :: b :: l else b :: insertLe k a l

end Sys2Proof.Machine
end

