-- ==== Sys2Proof/Machine/Tab.lean ====
section
/-!
DEFINITION. A sparse table: the entries of a table whose rows mostly hold one default value, kept as a list of
key and value pairs in ONE canonical form (keys strictly rising, no value equal to the default), so that equal
tables are equal data.
-/
namespace Sys2Proof.Machine

/-- A sparse table. -/
structure Tab (α : Type) where
  cells : List (Nat × α) := []
deriving DecidableEq, Repr, Inhabited

/-- The value in a list of cells, or `d`. -/
def lookupCell {α : Type} (d : α) (k : Nat) : List (Nat × α) → α
  | [] => d
  | c :: l => if c.1 == k then c.2 else lookupCell d k l

/-- The cells with key `k` erased. -/
def eraseCell {α : Type} (k : Nat) : List (Nat × α) → List (Nat × α)
  | [] => []
  | c :: l => if c.1 == k then eraseCell k l else c :: eraseCell k l

/-- The cells with key `k` set, kept in rising order. -/
def insertCell {α : Type} (k : Nat) (a : α) : List (Nat × α) → List (Nat × α)
  | [] => [(k, a)]
  | c :: l => if k < c.1 then (k, a) :: c :: l else if c.1 == k then (k, a) :: l else c :: insertCell k a l

/-- The value of row `k`: the default where the row is not listed. -/
def Tab.get {α : Type} [Inhabited α] (t : Tab α) (k : Nat) : α := lookupCell default k t.cells

/-- Row `k` set to a value; setting the default removes the row. -/
def Tab.put {α : Type} [Inhabited α] [DecidableEq α] (t : Tab α) (k : Nat) (a : α) : Tab α :=
  ⟨if a = default then eraseCell k t.cells else insertCell k a t.cells⟩

/-- Row `k` changed by a function. -/
def Tab.upd {α : Type} [Inhabited α] [DecidableEq α] (t : Tab α) (k : Nat) (f : α → α) : Tab α :=
  t.put k (f (t.get k))

/-- Row `k` at its default again. -/
def Tab.del {α : Type} (t : Tab α) (k : Nat) : Tab α := ⟨eraseCell k t.cells⟩

/-- The keys of the listed rows, rising. -/
def Tab.keys {α : Type} (t : Tab α) : List Nat := t.cells.map (·.1)

/-- The rows that meet a test, the others at their default. -/
def Tab.keep {α : Type} (t : Tab α) (p : Nat → α → Bool) : Tab α := ⟨t.cells.filter fun c => p c.1 c.2⟩

/-- Keys strictly rising. -/
def risingKeys {α : Type} : List (Nat × α) → Bool
  | [] => true
  | [_] => true
  | a :: b :: l => a.1 < b.1 && risingKeys (b :: l)

/-- The canonical form of a sparse table. -/
def Tab.wf {α : Type} [Inhabited α] [DecidableEq α] (t : Tab α) : Bool :=
  risingKeys t.cells && t.cells.all fun c => c.2 != default

end Sys2Proof.Machine
end

