-- ==== Sys2Proof/Machine/Mem.lean ====
section
/-!
DEFINITION. Memory: the bytes of the HBM4 stacks, the RDIMMs and the fabric reserve as a list of (address, byte) cells
in one canonical form: addresses strictly rising, no byte listed that equals what an unlisted address reads as (0, log
entry 4). Addresses are the physical places of Store; the fabric reserve stands at its own offsets.
-/
namespace Sys2Proof.Machine

/-- Memory: a sparse table of bytes whose default is 0. -/
abbrev Memory := Tab Byte

namespace Memory

/-- The cells as the host's cells. -/
def list (m : Memory) : List Host.Cell := m.cells

/-- The canonical form. -/
def wf (m : Memory) : Bool := Tab.wf m

/-- One byte read: 0 where nothing is listed. -/
def byte (m : Memory) (a : Nat) : Byte := Tab.get m a

/-- `n` bytes read from an address. -/
def read (m : Memory) (a n : Nat) : Bytes :=
  let l := m.cells.filter fun c => a ≤ c.1 && c.1 < a + n
  (List.range n).map fun i => lookupCell 0 (a + i) l

/-- The listed cells of bytes written from an address: the zero bytes are not listed. -/
def listed (a : Nat) : Bytes → List (Nat × Byte)
  | [] => []
  | b :: l => if b = 0 then listed (a + 1) l else (a, b) :: listed (a + 1) l

/-- Bytes written from an address. -/
def write (m : Memory) (a : Nat) (l : Bytes) : Memory :=
  ⟨m.cells.filter (fun c => c.1 < a) ++ listed a l ++ m.cells.filter (fun c => a + l.length ≤ c.1)⟩

/-- The cells of a range of addresses erased: they read as 0 again. -/
def erase (m : Memory) (a n : Nat) : Memory := ⟨m.cells.filter fun c => !(a ≤ c.1 && c.1 < a + n)⟩

end Memory

end Sys2Proof.Machine
end

