-- ==== Sys2Proof/Machine/State.lean ====
section
/-!
DEFINITION. The state of the module as plain data: every register, table, queue, buffer, counter, mode and pin that
the spec gives it, and the queue of the commands that are waiting.
-/
namespace Sys2Proof.Machine

/-! ### Ports and the Penida link (R48 to R82) -/

/-- What the last HELLO of the neighbour said, and the exchange of HELLOs of the training in progress (R69, R70). -/
structure Nbr where
  chip : Nat := 131071
  port : Nat := 0
  kind : Nat := 0
  hash : Nat := 0
  coord : Nat := 0xFFFFFF
  timeCapable : Bool := false
  /-- A HELLO has been received since training or the last check began. -/
  seen : Bool := false
  /-- The neighbour's CHIP, PORT and SERIAL_HASH before the width retrain in progress (R535). -/
  before : Option (Nat × Nat × Nat) := none
  /-- The neighbour has echoed this side's hash, chip and port. -/
  echoed : Bool := false
  mySwitch : Option Nat := none
  peerSwitch : Option Nat := none
  /-- FTC of the last HELLO received and whether HELLO_LOST was reported since (R78). -/
  helloAt : Nat := 0
  lost : Bool := false
  /-- FTC of the last HELLO and TIME sent. -/
  helloSent : Nat := 0
  timeSent : Nat := 0
deriving DecidableEq, Repr, Inhabited

/-- A numbered segment in the replay buffer (R61): what its head holds beside its place in a frame, and its payload. -/
structure Seg where
  seq : Nat := 0
  /-- FIRST_START. -/
  first : Nat := 0x3FF
  pay : Bytes := []
deriving DecidableEq, Repr, Inhabited

/-- One port link (R67 to R82): its training state and cabling result. -/
structure Link where
  st : Nat := 0
  /-- The training in progress began in DOWN (otherwise it is a width retrain). -/
  fromDown : Bool := true
  tuned : Bool := false
  width : Nat := 0
  rxGood : Nat := 0
  peerGood : Nat := 0
  /-- The lanes in use, and the width that the retrain in progress may not exceed (R73). -/
  lanes : Nat := 0
  cap : Nat := 4
  checkResult : Nat := 0
  swapPort : Nat := 0
  foundValid : Bool := false
  /-- FTC at which the present state was entered. -/
  since : Nat := 0
  /-- FTC at which the hold of a mismatching port ends (R77). -/
  holdUntil : Option Nat := none
  /-- For each lane, the levels by which it arrives later than the earliest (R55). -/
  skew : List Nat := []
  isolated : Bool := false
  nb : Nbr := {}
deriving DecidableEq, Repr, Inhabited

/-- The frames, the numbered stream and the credits of a port (R52 to R66, R80). -/
structure Wire where
  /-- Words of the sent stream that no segment holds yet, and the byte offsets of the packet starts among them. -/
  txq : Bytes := []
  starts : List Nat := []
  /-- LINK_LOCAL packets that wait behind the packet being sent (R121). -/
  llq : List Pkt := []
  /-- The frame being sent: its FRAME_NUM, the segments of it sent so far and their number; FTC at which the next segment
  is due. -/
  txFrame : Nat := 0
  frame : Bytes := []
  segIdx : Nat := 0
  segAt : Nat := 0
  /-- FRAME_NUM of the frame being received. -/
  rxFrame : Nat := 0
  /-- The last 64 frames sent and received, newest last: FRAME_NUM and FTC of the reference instant (R80). -/
  txFrames : List (Nat × Nat) := []
  rxFrames : List (Nat × Nat) := []
  /-- Words of the received stream not yet taken, and bytes still to come of a packet discarded at its header. -/
  rxq : Bytes := []
  rxSkip : Nat := 0
  txSeq : Nat := 0
  rxSeq : Nat := 0
  rxAny : Bool := false
  replay : List Seg := []
  acked : Nat := 65535
  ackAt : Nat := 0
  lastNack : Option Nat := none
  nackOut : Bool := false
  replays : Nat := 0
  /-- The credit registers as they stood when the training in progress began in DOWN (R66). -/
  cfg : List Nat := []
  /-- Credits advertised in the last HELLO: D_0 to D_7 and S; and the neighbour's. -/
  adv : List Nat := []
  peerAdv : List Nat := []
  used : List Nat := [0, 0, 0, 0, 0, 0, 0, 0]
  prevRet : List Nat := [0, 0, 0, 0, 0, 0, 0, 0]
  ret : List Nat := [0, 0, 0, 0, 0, 0, 0, 0]
  /-- Cells freed whose return is withheld, or delayed by a pause or a retrain (R33, R67, R68, R132). -/
  held : List Nat := [0, 0, 0, 0, 0, 0, 0, 0]
  /-- Cells of the die's buffer charged to this port (R131). -/
  charged : Nat := 0
  /-- Credit returns paused by the receive FIFO (R33). -/
  paused : Bool := false
  /-- The packet whose header has arrived and whose payload and trailer are to come; `filling`: a FILL packet. -/
  arriving : Option Nat := none
  filling : Bool := false
  /-- The packet the transmitter is sending. -/
  sending : Option Nat := none
deriving DecidableEq, Repr, Inhabited

/-- The scheduler of a port (R177, R178). -/
structure Sched where
  /-- The VC whose turn the rotation has reached, and whether its turn has begun. -/
  turn : Nat := 2
  inTurn : Bool := false
  deficit : List Nat := [0, 0, 0, 0, 0, 0, 0, 0]
  vtime : List Nat := [0, 0, 0, 0, 0, 0, 0, 0]
  /-- Finish tags by 64 × VC + flow queue. -/
  tags : Tab Nat := {}
deriving DecidableEq, Repr, Inhabited

/-- One optical port: its link, its stream and its scheduler. -/
structure Port where
  link : Link := {}
  wire : Wire := {}
  sched : Sched := {}
  /-- TIME: FTC of the last TIME received, and what it said (R411). -/
  timeAt : Option Nat := none
  timeHops : Nat := 0xFF
  timeValid : Bool := false
  linkDelay : Nat := 0
deriving DecidableEq, Repr, Inhabited

/-! ### Switch dies, packet buffers, routing and traffic (R118 to R192) -/

/-- One copy of a buffered packet: an egress port with VC and flow queue. -/
structure Copy where
  port : Nat := 0
  vc : Nat := 0
  fq : Nat := 0
  h : Hdr := {}
  begun : Bool := false
  /-- On hold in its Calm queue since this FTC (R160). -/
  hold : Option Nat := none
  /-- Its egress port is fixed by its origin: a Directed reply, a collective packet for a local member. -/
  fixed : Bool := false
  /-- Its port went DOWN while it was queued: *Routing decisions* are still to be applied to it again (R172). -/
  due : Bool := false
  /-- Depth q of its output queue in cells at its enqueue. -/
  q : Nat := 0
deriving DecidableEq, Repr, Inhabited

/-- A packet in a die's buffer (R119 to R127). -/
structure BPkt where
  id : Nat := 0
  die : Nat := 0
  pkt : Pkt := {}
  /-- Its cells, in the order of the chain (R127). -/
  chain : List Nat := []
  /-- The port its cells are charged to; `none` for a packet the module originated. -/
  inPort : Option Nat := none
  /-- The trailer has arrived. -/
  whole : Bool := false
  bad : Bool := false
  /-- It is sent only when whole (R120). -/
  store : Bool := false
  copies : List Copy := []
  /-- It waits for its local target. -/
  here : Bool := false
  /-- The reorder unit holds it (R399). -/
  parked : Bool := false
  /-- An MCAST_DATA whose replication is still to be done. -/
  mcast : Bool := false
  ftc : Nat := 0
  captured : Bool := false
  /-- Its sample and match reasons for Windsock, until step 6. -/
  why : Nat := 0
  /-- It is found bad while its trailer is still to come: the BAD_REASON that marks it then (R106, R125). -/
  mark : Option Nat := none
  /-- FTC from which it is the head of its local-target queue (R158). -/
  headSince : Nat := 0
  /-- Header words as they arrived, for Windsock and for BAD_HOP. -/
  asArrived : Hdr := {}
deriving DecidableEq, Repr, Inhabited

/-- The head of a queue: FTC from which its wait counts, wait counted before, and whether a shaper suspends it (R158, R182). -/
structure Head where
  since : Nat := 0
  waited : Nat := 0
  suspended : Bool := false
deriving DecidableEq, Repr, Inhabited

/-- An injection limit that a HEADWIND set (R167). -/
structure Throttle where
  dest : Nat := 0
  vc : Nat := 0
  part : Nat := 0
  rate : Nat := 0
  until_ : Nat := 0
  /-- The limit covers everything the die originates on the VC. -/
  whole : Bool := false
deriving DecidableEq, Repr, Inhabited

/-- The capture ring of a die (R140 to R142). -/
structure Ring where
  base : Nat := 0
  sizeLog2 : Nat := 0
  seq : Nat := 0
  written : Nat := 0
  lost : Nat := 0
  stopped : Bool := false
  /-- FTC of the last record. -/
  last : Option Nat := none
  /-- Headers counted for sampling, by port group. -/
  headers : List Nat := [0, 0, 0, 0]
deriving DecidableEq, Repr, Inhabited

/-- Where an early packet that is queued for want of a window waits (R399): in the buffer, by its identifier, or in the Calm
sink, by its slot. -/
inductive Early
  | buf (id : Nat)
  | sink (slot : Nat)
deriving DecidableEq, Repr, Inhabited

/-- One switch die. -/
structure Die where
  /-- MODE of the pool manager: 0 bitmap, 1 converting, 2 stack (R133). -/
  mode : Nat := 0
  /-- The bitmap of free cells, bit c for cell c, while MODE is 0 or 1. -/
  bitmap : BitVec 262144 := 0
  /-- The stacks of free chains, top first, while MODE is 2: cells of the small pool, chains of four and of nine. -/
  small : List Nat := []
  medium : List (List Nat) := []
  large : List (List Nat) := []
  /-- Cells out of use since the cold start (R135). -/
  retired : List Nat := []
  /-- Cells in which a single bit has changed since they were written, not read since (R135). -/
  soft : List Nat := []
  unbacked : Bool := false
  withholding : Bool := false
  /-- Packets that cross the HUB from this die and to this die, in the order they entered: channel, packet, egress port
  (R124). -/
  hubOut : List (Nat × Nat × Nat) := []
  hubIn : List (Nat × Nat × Nat) := []
  /-- Early-detection and Eddy generators: four port groups and the one of R537. -/
  redGen : List Nat := [0xACE10000, 0xACE10001, 0xACE10002, 0xACE10003, 0xACE10004]
  eddyGen : List Nat := [0x5EED0000, 0x5EED0001, 0x5EED0002, 0x5EED0003, 0x5EED0004]
  /-- Average depth in cells by 8 × local port + VC (R137). -/
  avg : Tab Nat := {}
  /-- Packets that wait for a local target, in arrival order. -/
  localQ : List Nat := []
  /-- The Calm sink: packets in arrival order, each with its slot (R161). -/
  sink : List (Nat × Pkt) := []
  /-- HEADWIND holdoff cache, oldest first: source chip, VC and FTC (R165). -/
  hwCache : List (Nat × Nat × Nat) := []
  throttles : List Throttle := []
  ring : Ring := {}
  /-- Local ports fenced for multicast copies (R265). -/
  mcFenced : Nat := 0
  /-- Early ordered packets that wait on the die for want of a window, in arrival order (R399). -/
  early : List Early := []
deriving DecidableEq, Repr, Inhabited

/-- A packet that the module originates and that waits for cells (R131, R537). -/
structure Orig where
  pkt : Pkt := {}
  /-- The die of R537, where the block fixes it. -/
  die : Option Nat := none
  /-- A Directed reply leaves by this port. -/
  out : Option Nat := none
  /-- Event of a subscription slot, for its counters. -/
  ev : Bool := false
  /-- Further copies that share its buffer (R123): the fixed port, or none, and the header of each. -/
  outs : List (Option Nat × Hdr) := []
deriving DecidableEq, Repr, Inhabited

/-- A shaper's tokens and the rates in force (R184 to R186). -/
structure Shaper where
  on : Bool := false
  incr : Nat := 0
  burst : Nat := 2088
  tokens : Int := 0
  /-- The refill boundary of its timing-wheel slot, and whether it is parked there beyond the horizon. -/
  slot : Option Nat := none
  parked : Bool := false
deriving DecidableEq, Repr, Inhabited

/-- A policer's tokens and the rates in force (R189). -/
structure Policer where
  on : Bool := false
  cir : Nat := 0
  pir : Nat := 0
  cbs : Nat := 2088
  pbs : Nat := 2088
  tc : Nat := 0
  tp : Nat := 0
deriving DecidableEq, Repr, Inhabited

/-- A pinned-flow entry (R154). -/
structure Pin where
  src : Nat := 0
  dst : Nat := 0
  part : Nat := 0
  vc : Nat := 0
  any : Bool := false
  port : Nat := 0
  /-- The PIN_BROKEN event of the present loss of its egress was sent (R156). -/
  broken : Bool := false
deriving DecidableEq, Repr, Inhabited

/-- A multicast entry (R257). -/
structure MEntry where
  word0 : Nat := 2 * 2 ^ 12
  ports : Nat := 0
deriving DecidableEq, Repr, Inhabited

/-- Buffers, queues, tables of the packet path. -/
structure Net where
  pkts : List BPkt := []
  nextId : Nat := 1
  /-- Queue of packet identifiers by (8 × port + VC) × 64 + flow queue. -/
  queues : Tab (List Nat) := {}
  heads : Tab Head := {}
  /-- Packets that the module originates, oldest first. -/
  orig : List Orig := []
  /-- Packets handed to a local target, oldest first (R119). -/
  handed : List Pkt := []
  /-- Bit p: port p may be a route candidate (R172). -/
  admitted : Nat := 0
  /-- Route entries by chip number; all eight dies hold this copy (R150). -/
  route : Tab Nat := {}
  eddySize : Tab Nat := {}
  /-- Position 1,024 × set + i of the Eddy sets; `none` is 131,071. -/
  eddyChip : Tab (Option Nat) := {}
  pins : Tab (List Pin) := {}
  mcast : Tab MEntry := {}
  shapers : Tab Shaper := {}
  policers : Tab Policer := {}
  /-- The last refill boundary taken, as FTC / 4,096. -/
  refill : Nat := 0
  /-- For each switch die, the time its credit returns of VC2 to VC7 are withheld by R132. -/
  short : Nat := 0
deriving DecidableEq, Repr, Inhabited

/-! ### Power, start-up and Lull (R31 to R47, R492 to R532) -/

/-- Domains, module state, pace loop, Lull controller and sensors. -/
structure Pwr where
  standby : Bool := true
  /-- The Vane controller, or the recovery loader, is ready. -/
  booted : Bool := false
  main : Bool := false
  /-- FTC at which the main domain came up last. -/
  upAt : Nat := 0
  /-- Module state code of R493. -/
  st : Nat := 0
  /-- 0 awake, 1 entering, 2 in Lull, 3 waking. -/
  lull : Nat := 0
  wakeCause : Nat := 0
  /-- FTC at which the wake in progress was recorded. -/
  wakeAt : Nat := 0
  selfRefresh : Bool := false
  /-- FTC of the last packet or command, for IDLE_MS (R504). -/
  activeAt : Nat := 0
  /-- The wake count named by LULL_ENTER has passed (R423). -/
  wakeUsed : Bool := false
  hwTrip : Bool := false
  /-- The input has risen to where the main domain may run, and has not left it since (R517, R518). -/
  inputOk : Bool := false
  /-- Supervisors run verified firmware; the built-in kernels are resident (R494). -/
  supervisors : Bool := false
  kernels : Bool := false
  trained : Bool := false
  /-- The pace loop: rail voltages, monitor rates, temperatures, acting thermal protection, throttle level. -/
  railMv : List Nat := [620, 620, 620, 620, 620, 620, 620, 620, 620]
  railMon : List Nat := [0, 0, 0, 0, 0, 0, 0, 0, 0]
  railTj : List Nat := [0, 0, 0, 0, 0, 0, 0, 0, 0]
  thermal : List Bool := [false, false, false, false, false, false, false, false, false]
  throttle : List Nat := [0, 0, 0, 0, 0, 0, 0, 0, 0]
  powerW : Nat := 0
  /-- The samples of the input power in the window of CAP_WINDOW_MS, newest first (R45). -/
  samples : List Nat := []
  paceBits : Nat := 0
deriving DecidableEq, Repr, Inhabited

/-- The carrier's sensors and pins (R515, R523, R531). -/
structure Sensors where
  vin : Nat := 0
  iin : Nat := 0
  inlet : Nat := 0
  outlet : Nat := 0
  flow : Nat := 0
  dp : Nat := 0
  stackC : List Nat := []
  leakOwn : Bool := false
  leakBoard : Bool := false
  batMv : Nat := 0
  /-- Lane optical power words by 4 × port + lane; `none` is the reset word. -/
  lanes : Tab (Option Nat) := {}
  /-- Pins: THERM_ALERT_N, MAIN_ON_N and LEAK_N driven low; PPS_OUT high. -/
  thermAlert : Bool := false
  mainOn : Bool := false
  leakLow : Bool := false
  pps : Bool := false
  /-- The side-band port has its Ethernet link. -/
  sideLink : Bool := false
deriving DecidableEq, Repr, Inhabited

/-- The keep file (R510 to R512). -/
structure Keep where
  /-- Stored bytes by offset; `none` is the byte's reset value. -/
  bytes : Tab (Option Byte) := {}
  valid : Bool := false
  /-- The battery-good flag as found at this start, and the flag itself. -/
  battGood : Bool := false
  flag : Bool := false
  batLow : Bool := false
deriving DecidableEq, Repr, Inhabited

/-! ### Fabric time (R407 to R425) -/

/-- The time block. -/
structure Time where
  ftc : Nat := 0
  /-- What the steps of the FTC have added to it since the standby domain came up (R420, R421). -/
  stepSum : Int := 0
  st : Nat := 0
  /-- The module has been LOCKED since its standby domain came up (R409). -/
  everLocked : Bool := false
  /-- It has been LOCKED since its last cold start (R413). -/
  locked : Bool := false
  /-- A step of this acquisition has been made. -/
  stepped : Bool := false
  /-- The source: port 0 to 255, or 256 for PTP; and the last source taken. -/
  source : Option Nat := none
  last : Nat := 0
  ptpMaster : Option Nat := none
  offset : Int := 0
  freq : Int := 0
  offsetLarge : Bool := false
  /-- Accepted samples within ±20 units in a row, and the last 16 accepted δ in half units. -/
  good : Nat := 0
  deltas : List Int := []
  hops : Nat := 0xFF
  /-- The candidate that has been better than the source, and since when. -/
  better : Option (Nat × Nat) := none
  since : Nat := 0
  /-- The second of the last PPS edge, and when the pulse ends on the clock of durations. -/
  second : Nat := 0
  ppsUntil : Nat := 0
deriving DecidableEq, Repr, Inhabited

/-! ### Commands, events and the tracker (R426 to R452) -/

/-- One reply as cached and sent: status and reply data after the header's fields. -/
structure Reply where
  status : Nat := 0
  pl : Bytes := []
deriving DecidableEq, Repr, Inhabited

/-- An entry of a reply cache (R433). -/
structure Cached where
  chip : Nat := 0
  tag : Nat := 0
  opcode : Nat := 0
  body : Bytes := []
  first : Option Reply := none
  final : List Reply := []
deriving DecidableEq, Repr, Inhabited

/-- A queued event (R447). -/
structure Ev where
  code : Nat := 0
  pl : Bytes := []
deriving DecidableEq, Repr, Inhabited

/-- A subscription slot (R446). -/
structure Sub where
  used : Bool := false
  side : Bool := false
  mask : Nat := 0
  tag : Nat := 0
  chip : Nat := 0
  udp : Nat := 0
  addr : Bytes := []
  queue : List Ev := []
  seq : Nat := 0
  dropped : Nat := 0
deriving DecidableEq, Repr, Inhabited

/-- An image being gathered (R444): the units already filled, by unit index. -/
structure Asm where
  side : Bool := false
  /-- 0 a program, 1 a firmware image, 2 a test token. -/
  kind : Nat := 0
  digest : Bytes := []
  total : Nat := 0
  units : Tab (Option Nat) := {}
  at_ : Nat := 0
deriving DecidableEq, Repr, Inhabited

/-- A datagram being reassembled (R428). -/
structure Reasm where
  addr : Bytes := []
  udp : Nat := 0
  ident : Nat := 0
  total : Nat := 0
  bytes : Tab (Option Byte) := {}
  at_ : Nat := 0
deriving DecidableEq, Repr, Inhabited

/-- The Vane controller. -/
structure Vane where
  hostQ : List CmdReq := []
  sideQ : List CmdReq := []
  hostCache : List Cached := []
  sideCache : List Cached := []
  subs : Tab Sub := {}
  /-- Owners by unit identifier: `some true` the side-band, `some false` the host. -/
  owners : Tab (Option Bool) := {}
  grants : List Nat := []
  asms : List Asm := []
  reasms : List Reasm := []
deriving DecidableEq, Repr, Inhabited

/-- A tracker entry (R448 to R451). -/
structure TEnt where
  handle : Nat := 0
  kind : Nat := 0
  /-- 1 OPEN, 2 COMPLETING, 3 DONE, 4 ABORTING, 5 ABORTED. -/
  st : Nat := 0
  status : Nat := 0
  side : Bool := false
  key : Nat := 0
  keyChip : Nat := 131071
  ftcOpen : Nat := 0
  ftcEnd : Nat := 0
  /-- PROGRESS by kind. -/
  a : Nat := 0
  b : Nat := 0
  c : Nat := 0
  d : Nat := 0
  /-- The command whose final reply the entry's end sends, and that reply's data (for ATTEST and FIRMWARE_STAGE until
  their work is done, what it works on). -/
  req : Option CmdReq := none
  data : Bytes := []
  /-- The parts of a run's result (R445). -/
  parts : List (Nat × Bytes) := []
  /-- The commands OP_ABORT that wait for ABORTED. -/
  aborts : List CmdReq := []
  /-- It waits only for its launch count (R504). -/
  waiting : Bool := false
  /-- The operation's own part is over: its last report may be sent. -/
  ended : Bool := false
deriving DecidableEq, Repr, Inhabited

/-- The operation tracker. -/
structure Trk where
  ents : Tab TEnt := {}
  /-- Generation last given to an index; 0: never used. -/
  gens : Tab Nat := {}
  /-- Finished entries, oldest first. -/
  done : List Nat := []
deriving DecidableEq, Repr, Inhabited

/-! ### The context store (R303 to R331) -/

/-- A segment of an object: its placement (0 spread, 1 die-local, 2 DDR5) and its 16 extents as (unit, extent), with a
second set where the object retains (R312). -/
structure Segm where
  placement : Nat := 0
  die : Nat := 0
  a : List (Nat × Nat) := []
  b : List (Nat × Nat) := []
deriving DecidableEq, Repr, Inhabited

/-- A job open on an object: 1 migration, 2 seal, 3 digest (R315, R322, R323). -/
structure Job where
  kind : Nat := 0
  /-- Its tracker handle. -/
  entry : Nat := 0
  /-- Segments to move, the first being copied: segment, placement, die. -/
  todo : List (Nat × Nat × Nat) := []
  /-- Destination extents of the segment being copied. -/
  destA : List (Nat × Nat) := []
  destB : List (Nat × Nat) := []
  moved : Nat := 0
  asked : Nat := 0
  bad : Nat := 0
  /-- PLACEMENT, LOCAL_DIE and SPLIT_SEGS that STORE_PLACE gives the object once every segment has moved (R315). -/
  place : Option (Nat × Nat × Nat) := none
  version : Nat := 0
  changed : Bool := false
  /-- Its rate in GB/s; the tiles of the segment that are copied, or those that a digest has read; FTC from which the next
  may follow; what the digest has read. -/
  rate : Nat := 100
  pos : Nat := 0
  due : Nat := 0
  got : Bytes := []
deriving DecidableEq, Repr, Inhabited

/-- A store object (*Object record*). -/
structure Obj where
  handle : Nat := 0
  part : Nat := 0
  base : Nat := 0
  max : Nat := 0
  size : Nat := 0
  placement : Nat := 0
  localDie : Nat := 0
  split : Nat := 0
  retain : Bool := false
  version : Nat := 0
  dirty : Bool := false
  prevHeld : Bool := false
  sealed_ : Bool := false
  digest : Bytes := []
  segs : List Segm := []
  /-- Tiles whose present copy lies in the second set of extents. -/
  flip : Tab Bool := {}
  /-- Tiles written since the last commit, and tiles written between the two commits before. -/
  wr : Tab Bool := {}
  prev : Tab Bool := {}
  /-- A tile was retired since the last commit (R327). -/
  cut : Bool := false
  /-- Engines whose runs hold a write claim (R319). -/
  claims : List Nat := []
  /-- The migration open on it, and the seal or digest. -/
  job : Option Job := none
  dig : Option Job := none
deriving DecidableEq, Repr, Inhabited

/-- A memory unit: stack Hu for u below 16, socket DM(u − 16) above. -/
structure MUnit where
  train : Nat := 0
  fromKept : Bool := false
  populated : Bool := false
  inUse : Bool := false
  gib : Nat := 0
  speed : Nat := 0
  retired : Nat := 0
deriving DecidableEq, Repr, Inhabited

/-- The context store. -/
structure Store where
  /-- Objects by index; the generation that an index takes next (0: never used, next is 1). -/
  objs : Tab Obj := {}
  gens : Tab Nat := {}
  units : Tab MUnit := {}
  /-- DDR5 channels in use, as units, in the order of *DDR5 population*. -/
  chans : List Nat := []
  /-- Extents in use or retired, and tiles poisoned. -/
  used : Tab Bool := {}
  poisoned : Tab Bool := {}
  /-- Tiles whose content an error has reached and no use has found yet: 1, 2 or 3 as in `EccIn` (R306). -/
  damaged : Tab Nat := {}
  /-- Extents of the fabric reserve out of use (R329). -/
  resOut : Tab Bool := {}
  /-- Write-error records by source chip: first status and count (R114). -/
  werr : Tab (Nat × Nat) := {}
  /-- Heat counters by segment of the offset space (R325), and the last halving as FTC / 2^32. -/
  heat : Tab Nat := {}
  heatAt : Nat := 0
deriving DecidableEq, Repr, Inhabited

/-! ### Ordering (R389 to R401) -/

/-- A parked packet: its sequence number, and the buffered packet whose cells it keeps. -/
structure Park where
  seq : Nat := 0
  pkt : Pkt := {}
  id : Option Nat := none
deriving DecidableEq, Repr, Inhabited

/-- The state of a source in its reorder unit (R393). -/
structure Src where
  sync : Bool := false
  e : Nat := 0
  parked : List Park := []
  /-- FTC at which the gap timer last started, and its limit then. -/
  timer : Nat := 0
  limit : Nat := 0
deriving DecidableEq, Repr, Inhabited

/-- Sending sequence to a destination (R397): restart FENCE sent, acknowledged, next number. -/
structure Dst where
  asked : Bool := false
  up : Bool := false
  next : Nat := 1
  /-- Ordered packets sent and confirmed (R395), and the FENCEs out: tag, and how many it confirms. -/
  sent : Nat := 0
  conf : Nat := 0
  out : List (Nat × Nat) := []
deriving DecidableEq, Repr, Inhabited

/-- Reorder windows by source chip and sending sequences by destination chip. -/
structure Ord where
  srcs : Tab Src := {}
  dsts : Tab Dst := {}
  /-- System-scope FENCEs of engines so far: each has a TAG of its own. -/
  fences : Nat := 0
deriving DecidableEq, Repr, Inhabited

/-! ### Collectives (R193 to R302) -/

/-- The three counters of a reduction (R219). -/
structure Cnt where
  sat : Nat := 0
  flush : Nat := 0
  inv : Nat := 0
deriving DecidableEq, Repr, Inhabited

/-- The partial of one element or SMX record: presence, invalid flag, exact words (R220). -/
structure PEl where
  pres : Bool := false
  inv : Bool := false
  v : List Int := []
deriving DecidableEq, Repr, Inhabited

/-- The partial of a tile. -/
structure Part where
  els : List PEl := []
  cnt : Cnt := {}
deriving DecidableEq, Repr, Inhabited

/-- A child of a plan entry. -/
structure Child where
  chip : Nat := 0
  lo : Nat := 0
  hi : Nat := 0
deriving DecidableEq, Repr, Inhabited

/-- A local member: PORT 256 is a run on one of the module's own engines. -/
structure Loc where
  member : Nat := 0
  chip : Nat := 0
  port : Nat := 0
deriving DecidableEq, Repr, Inhabited

/-- *Plan entry*. -/
structure Plan where
  nplanes : Nat := 1
  parent : Nat := 131071
  kids : List Child := []
  locals : List Loc := []
  base : Nat := 0
  spread : Nat := 0
deriving DecidableEq, Repr, Inhabited

/-- *Group record*. -/
structure Group where
  used : Bool := false
  part : Nat := 0
  vc : Nat := 2
  epoch : Nat := 0
  n : Nat := 0
  low : Nat := 0
  plans : Tab (Option Plan) := {}
  /-- Numbers at or above LOW that are done; those answered OK_EMPTY with their SIG_DIGEST; those refused. -/
  done : List Nat := []
  empties : List (Nat × Bytes) := []
  refused : List Nat := []
deriving DecidableEq, Repr, Inhabited

/-- A tile or a mask that waits for the other (R239). -/
structure Half where
  chip : Nat := 0
  port : Nat := 0
  off : Nat := 0
  mask : Bool := false
  absent : Bool := false
  bytes : Bytes := []
deriving DecidableEq, Repr, Inhabited

/-- A contribution kept as received. -/
structure Raw where
  member : Nat := 0
  /-- Its tile of the staging area, while it waits there. -/
  place : Option Nat := none
  absent : Bool := false
  mask : Option Nat := none
  bytes : Bytes := []
deriving DecidableEq, Repr, Inhabited

/-- A tile step (R242). -/
structure TStep where
  tile : Nat := 0
  admitted : Bool := false
  raws : List Raw := []
  got : List Nat := []
  kidAnch : List (Nat × List Nat) := []
  anchSent : Bool := false
  agreed : Option (List Nat) := none
  part : Part := {}
  pieces : List (Nat × Nat × Bytes) := []
  kids : List Nat := []
  sent : Bool := false
deriving DecidableEq, Repr, Inhabited

/-- A destination of a retained tile: role 0 local member, 1 child, 2 parent; when it was last sent and is due. -/
structure RDst where
  role : Nat := 0
  id : Nat := 0
  due : Option Nat := none
  acked : Bool := false
  resends : Nat := 0
  /-- Given up without an OK (R291). -/
  lost : Bool := false
deriving DecidableEq, Repr, Inhabited

/-- A retained result tile (R250). -/
structure Ret where
  tile : Nat := 0
  /-- Its tile of the retention area. -/
  place : Nat := 0
  absent : Bool := false
  mask : Option Nat := none
  bytes : Bytes := []
  /-- Its CRC-32C and its tile digest. -/
  crc : Word := 0
  dig : Bytes := []
  /-- Bytes of its mask's payload as received, at a module that holds no signature (R249). -/
  maskLen : Nat := 0
  dsts : List RDst := []
deriving DecidableEq, Repr, Inhabited

/-- An exchange tile that waits: source and destination member and tile of the block; while its row is not complete, its
tile of the send buffer stands in place of the last two. -/
structure XTile where
  src : Nat := 0
  dst : Nat := 0
  b : Nat := 0
  bytes : Bytes := []
  /-- Its tile of the staging area, while it waits there. -/
  place : Option Nat := none
deriving DecidableEq, Repr, Inhabited

/-- One plane of a context at this module. -/
structure Plane where
  on : Bool := false
  ended : Bool := false
  joined : List Nat := []
  first : Option Bytes := none
  /-- Children's SUMMARYs: chip, MEMBERS_BELOW, ROW_SUM, COL_SUM. -/
  sums : List (Nat × Nat × Nat × Nat) := []
  /-- A child's SUMMARY had 64 bytes (R273). -/
  wide : Bool := false
  summary : Bool := false
  checked : Bool := false
  /-- Terminal status noticed or recorded. -/
  fail : Option Nat := none
  /-- Chunks neither sent nor awaited any more; chunks whose loss notice has come; chunks whose chunk notice was passed on
  or recorded. -/
  gone : List Nat := []
  told : List Nat := []
  lost : List Nat := []
  delivered : Nat := 0
  steps : List TStep := []
  /-- Tile steps that are over, by input tile. -/
  stepsDone : Tab Bool := {}
  /-- The root has recorded CHUNK_LOST. -/
  clost : Bool := false
  halves : List Half := []
  rets : List Ret := []
  fin : Tab Bool := {}
  digs : Tab Bytes := {}
  cnt : Cnt := {}
  /-- Children's SUBTREE_DONEs and plane notices: chip and status. -/
  kidsDone : List (Nat × Nat) := []
  /-- Status of the SUBTREE_DONE or plane notice sent. -/
  sub : Option Nat := none
  probes : Nat := 0
  probeDue : Option Nat := none
  /-- The data timer has started (R290), and when it expires. -/
  dataOn : Bool := false
  dataDue : Option Nat := none
  xwait : List XTile := []
  /-- SEND tiles sent on, as member and tile; DELIVER tiles sent and not acknowledged, and those acknowledged. -/
  xsent : List (Nat × Nat) := []
  xout : List (Nat × Nat) := []
  xacked : List (Nat × Nat) := []
  /-- DELIVER tiles given up; and whether DATA_TIMEOUT has given up every tile that was still awaited (R290). -/
  xgone : List (Nat × Nat) := []
  xlost : Bool := false
deriving DecidableEq, Repr, Inhabited

/-- A declaration tile of ALL_TO_ALLV: member, tile, payload. -/
structure Decl where
  member : Nat := 0
  k : Nat := 0
  bytes : Bytes := []
deriving DecidableEq, Repr, Inhabited

/-- A collective context (R231 to R235). -/
structure Ctx where
  used : Bool := false
  handle : Nat := 0
  group : Nat := 0
  seq : Nat := 0
  n : Nat := 0
  /-- The first join's signature. -/
  sig : Option Bytes := none
  entry : Nat := 0
  launched : Bool := true
  aborted : Bool := false
  joinDue : Option Nat := none
  plans : Tab (Option Plan) := {}
  planes : List Plane := []
  /-- Packets that came before the first join. -/
  early : List Pkt := []
  /-- SEND tiles whose row is not complete (R271). -/
  xpark : List XTile := []
  rows : List Decl := []
  cols : List Decl := []
  /-- Members refused for a bad declaration. -/
  barred : List Nat := []
  /-- Engine members (R370): member, engine and handle of the landing object (0: none). -/
  binds : List (Nat × Nat × Nat) := []
  /-- First status other than OK with which a plane ended. -/
  status : Nat := 0
  retained : Nat := 0
  acks : Nat := 0
deriving DecidableEq, Repr, Inhabited

/-- The collective engine. -/
structure Coll where
  groups : Tab Group := {}
  ctxs : Tab Ctx := {}
  /-- FTC of the last failure notice under R298, by handle. -/
  noticed : Tab Nat := {}
deriving DecidableEq, Repr, Inhabited

/-! ### Engines and kernels (R333 to R388) -/

/-- A resident program (R335): a user program's words, or a built-in kernel's code (R364). -/
structure Prog where
  used : Bool := false
  builtin : Nat := 0
  digest : Bytes := []
  words : List Word := []
deriving DecidableEq, Repr, Inhabited

/-- *Run descriptor*, with the invocation it came by. -/
structure Desc where
  prog : Bytes := []
  part : Nat := 0
  params : List Word64 := []
  writes : List Nat := []
  launch : Nat := 0
  limit : Nat := 0
  audit : Bool := false
  inline : Bytes := []
  input : Bytes := []
  chip : Nat := 131071
  tag : Nat := 0
  vc : Nat := 3
  /-- Submitted by KERNEL_RUN, whose final reply carries the result. -/
  cmd : Bool := false
deriving DecidableEq, Repr, Inhabited

/-- A queued run. -/
structure QRun where
  handle : Nat := 0
  slot : Nat := 0
  desc : Desc := {}
deriving DecidableEq, Repr, Inhabited

/-- A pending access (R347): 0 LDT, 1 STT, 2 EMIT, 3 ACQ. -/
structure Access where
  kind : Nat := 0
  pc : Nat := 0
  /-- Tile buffer of LDT, scalar register of ACQ. -/
  reg : Nat := 0
  handle : Nat := 0
  tile : Nat := 0
  ver : Option Nat := none
  /-- The first access of the run that names its object: it records the version that it reads (R340). -/
  first : Bool := false
  /-- Stream port of an LDT that takes from a stream. -/
  port : Option Nat := none
  word : Nat := 0
  scope : Nat := 0
  /-- Data captured at issue, and the header of an EMIT. -/
  bytes : Bytes := []
  hdr : Hdr := {}
deriving DecidableEq, Repr, Inhabited

/-- A tile that a stream has fetched: the status of the fetch, its key and the error that its copy carries (0: none), and its
bytes. -/
structure STile where
  st : Nat := 0
  key : Nat := 0
  hurt : Nat := 0
  bytes : Bytes := []
deriving DecidableEq, Repr, Inhabited

/-- A stream port (R349). -/
structure Stream where
  handle : Nat := 0
  next : Nat := 0
  left : Nat := 0
  tiles : List STile := []
deriving DecidableEq, Repr, Inhabited

/-- A read-set entry (R340); `seen` once its version is recorded. -/
structure ReadEnt where
  handle : Nat := 0
  version : Nat := 0
  flags : Nat := 0
  digest : Bytes := []
  seen : Bool := false
deriving DecidableEq, Repr, Inhabited

/-- A merge that a run joined (R377): the join's tag, sequence number and payload, and the tiles it has contributed. -/
structure Merge where
  tag : Nat := 0
  seq : Nat := 0
  vc : Nat := 2
  pl : Bytes := []
  sent : List Nat := []
deriving DecidableEq, Repr, Inhabited

/-- How a run is ending. -/
structure RunEnd where
  status : Nat := 0
  pc : Nat := 0
  len : Nat := 0
  quiet : Bool := false
deriving DecidableEq, Repr, Inhabited

/-- A run on an engine. -/
structure Run where
  handle : Nat := 0
  slot : Nat := 0
  desc : Desc := {}
  writes : List Nat := []
  start : Nat := 0
  /-- FTC at which its time limit passes. -/
  due : Nat := 0
  reads : List ReadEnt := []
  /-- Objects into which it has executed an STT. -/
  stored : List Nat := []
  pend : List Access := []
  /-- A WAITC in progress; a FENCE in progress, with the chips whose FENCE_ACK it awaits once it has asked them. -/
  wait : Option Nat := none
  fence : Option Nat := none
  asked : Bool := false
  acks : List Nat := []
  /-- TAG of the FENCEs that it has sent. -/
  ftag : Nat := 0
  /-- The FENCE is the one that an EMIT to a 65th destination performs (R401). -/
  redo : Bool := false
  /-- Destination chips of ordered packets since the last system-scope FENCE. -/
  dests : List Nat := []
  merges : List Merge := []
  tiles : Nat := 0
  ending : Option RunEnd := none
  /-- EMPTY and DIRTY_READ of its result (R368). -/
  empty : Bool := false
  dirty : Bool := false
  /-- Step of a built-in kernel, its position and the values it keeps. -/
  phase : Nat := 0
  cur : Nat := 0
  aux : List Nat := []
deriving DecidableEq, Repr, Inhabited

/-- A memory-side engine (*Engine state*). -/
structure Engine where
  run : Option Run := none
  s : List Word64 := List.replicate 32 0
  t : List (BitVec 16384) := List.replicate 6 0
  a : List (BitVec 131072) := List.replicate 2 0
  masks : List (BitVec 4096) := List.replicate 4 0
  pc : BitVec 14 := 0
  cnt : Cnt := {}
  streams : List Stream := [{}, {}]
deriving DecidableEq, Repr, Inhabited

/-- The dispatcher of a die (R343): its queue, oldest first, the partition last visited, and the deficits in FTC units as
they stood at an FTC. -/
structure Dsp where
  queue : List QRun := []
  rot : Nat := 4095
  deficit : Tab Int := {}
  at_ : Nat := 0
deriving DecidableEq, Repr, Inhabited

/-- Program memory and dispatchers. -/
structure Kern where
  progs : Tab Prog := {}
  dsps : Tab Dsp := {}
deriving DecidableEq, Repr, Inhabited

/-! ### Faults (R453 to R471) -/

/-- One instance of a record (R456). -/
structure Inst where
  src : Nat := 0
  blk : Nat := 0
  detail : Nat := 0
  sev : Nat := 0
  isolated : Bool := false
  injected : Bool := false
deriving DecidableEq, Repr, Inhabited

/-- A fault record (R455 to R459). -/
structure Rec where
  num : Nat := 0
  sev : Nat := 0
  step : Nat := 0
  isOpen : Bool := true
  acked : Bool := false
  inject : Bool := false
  test : Bool := false
  first : Nat := 0
  sources : Nat := 0
  /-- Every source merged while the record was open (R468). -/
  ever : Nat := 0
  active : Nat := 0
  ftcOpen : Nat := 0
  ftcLast : Nat := 0
  deadline : Nat := 0
  fenced : Nat := 0
  /-- Dies unlisted by severity, as (die index, source, severity). -/
  unlisted : List (Nat × Nat × Nat) := []
  merged : Nat := 0
  lost : Nat := 0
  counts : Tab Nat := {}
  insts : List Inst := []
  ftcFatal : Nat := 0
  slot : Option Nat := none
deriving DecidableEq, Repr, Inhabited

/-- The fault collector. -/
structure Flt where
  cur : Option Rec := none
  last : Option Rec := none
  num : Nat := 0
  /-- Active level sources as (source, block). -/
  levels : List (Nat × Nat) := []
  /-- Bit d: die index d is fenced. -/
  fenced : Nat := 0
  /-- Bit p: port p is isolated by the record; bit e: engine e. -/
  ports : Nat := 0
  engines : Nat := 0
  /-- The module is held; only RESET of kind 0, 1 or 3 ends it, a brownout does not (R462, R518). -/
  held : Bool := false
deriving DecidableEq, Repr, Inhabited

/-! ### Security (R472 to R491) -/

/-- A firmware bank in the flash; `factory`: it holds what the module was delivered with. -/
structure Bank where
  factory : Bool := true
  /-- 0 empty, 1 invalid, 2 valid, 3 staging. -/
  st : Nat := 0
  image : Bytes := []
deriving DecidableEq, Repr, Inhabited

/-- A flash record of the anti-rollback minimum (R482). Its signature is held as what it is a signature of: the bytes signed,
and the seed of the identity that signed them (DESIGN CHOICE, log entry 121). -/
structure FlashRec where
  format : Nat := 1
  version : Nat := 0
  count : Nat := 0
  signed : Bytes := []
  signer : Bytes := []
deriving DecidableEq, Repr, Inhabited

/-- The security block. -/
structure Sec where
  banks : List Bank := [{}, {}]
  /-- The two slots of the anti-rollback record. -/
  slots : List (Option FlashRec) := [none, none]
  /-- The seed S of the identity, from a start of the standby domain to its end (R474). -/
  seed : Bytes := []
  running : Nat := 0
  fallback : Bool := false
  /-- Neither bank passed: the recovery loader runs. -/
  recovery : Bool := false
  identityOk : Bool := false
  testMode : Bool := false
  auditSum : Bytes := []
  auditCount : Nat := 0
  auditSince : Nat := 0
deriving DecidableEq, Repr, Inhabited

/-- What leaves the module: the record of its outputs, newest first (the model's own field). -/
inductive Out
  | packet (port : Nat) (p : Pkt)
  | linkLocal (port : Nat) (p : Pkt)
  | segment (port : Nat) (b : Bytes)
  /-- What the lanes of a port carry for a frame or in training: each lane with its PAM4 levels (R51). -/
  | line (port : Nat) (lanes : List (Nat × List Nat))
  | datagram (addr : Bytes) (udp : Nat) (p : Pkt)
  /-- A fragment of a datagram whose path does not carry it whole (R428). -/
  | fragment (f : SbFrag)
  | ptpRequest
deriving DecidableEq, Repr

/-- Everything but the queue of commands. -/
structure Module where
  regs : Tab (Option Word64) := {}
  /-- HBM4, DDR5 and the fabric reserve, byte by byte. -/
  mem : Memory := {}
  ports : Tab Port := {}
  dies : Tab Die := {}
  net : Net := {}
  pwr : Pwr := {}
  sens : Sensors := {}
  keep : Keep := {}
  time : Time := {}
  vane : Vane := {}
  trk : Trk := {}
  store : Store := {}
  ord : Ord := {}
  coll : Coll := {}
  engs : Tab Engine := {}
  kern : Kern := {}
  flt : Flt := {}
  sec : Sec := {}
  out : List Out := []
  /-- Free values taken so far (the model's own field). -/
  fresh : Nat := 0
deriving DecidableEq, Repr, Inhabited

/-- The state: the waiting commands, first in, first out, and the module. -/
structure State where
  pending : List Instr := []
  m : Module := {}
deriving DecidableEq, Repr

/-- The reasons a step ends in a fault. -/
inductive Fault
  /-- Raised by nobody: no command of the table ends in a fault, because the spec gives every one of them an effect.
  Safe: the type only fills the host's interface. -/
  | unreachable
deriving DecidableEq, Repr

/-- The reasons a step is refused. -/
inductive Refusal
  /-- Raised by exec's arm of a command that has no meaning yet, with the row's mnemonic. Safe: the machine stops. -/
  | notModelled (mnemonic : String)
deriving DecidableEq, Repr

/-- The state right after reset: the standby domain has just come up, before the cold start (R496, log entry 1). -/
def State.reset : State := { pending := [], m := {} }

/-- The state with its module changed. -/
def State.withM (s : State) (f : Module → Module) : State := { s with m := f s.m }

end Sys2Proof.Machine
end

