-- ==== Sys2Proof/Machine/Arith.lean ====
section
/-!
DEFINITION. Reduction arithmetic (R193 to R221), with no configuration: decoding of elements, admission, anchors, exact
partials and the one rounding of the result.
-/
namespace Sys2Proof.Machine

/-- Counters added, saturating (R219). -/
def Cnt.add (a b : Cnt) : Cnt :=
  { sat := min (a.sat + b.sat) (2 ^ 32 - 1), flush := min (a.flush + b.flush) (2 ^ 32 - 1),
    inv := min (a.inv + b.inv) (2 ^ 32 - 1) }

def oneSat : Cnt := { sat := 1 }
def oneFlush : Cnt := { flush := 1 }
def oneInv : Cnt := { inv := 1 }

/-! ### Formats (R195, R198) -/

def fInt4 : Nat := 0
def fInt8 : Nat := 1
def fInt32 : Nat := 2
def fBf16 : Nat := 3
def fFp32 : Nat := 4
def fB8 : Nat := 5
def fB4 : Nat := 6
def fSmx : Nat := 7

def isInt (f : Nat) : Bool := f < 3
def isFloat (f : Nat) : Bool := 3 ≤ f && f < 7

/-- Elements per tile; `d` is D of an SMX record. -/
def perTile (f d : Nat) : Nat := [4096, 2048, 512, 1024, 512, 1984, 3968, 256 / (d + 2)].getD f 1

/-- A value read from an element: NaN, or (−1)^neg × mant × 2^e; mant 0 is a signed zero. -/
inductive Val
  | nan
  | fin (neg : Bool) (mant : Nat) (e : Int)
deriving DecidableEq, Repr

/-- Floor of the base-2 logarithm of a nonzero magnitude. -/
def expOf (mant : Nat) (e : Int) : Int := (log2 mant : Nat) + e

/-- A BF16 (`p` = 8) or FP32 (`p` = 24) bit pattern decoded (R200). -/
def decodeFloat (p v : Nat) : Val :=
  let neg := bitAt v (p + 7)
  let ex := bits v (p + 6) (p - 1)
  let f := bits v (p - 2) 0
  if ex == 255 then (if f == 0 then .fin neg 1 128 else .nan)
  else if ex == 0 then .fin neg f (-126 - ((p - 1 : Nat) : Int))
  else .fin neg (2 ^ (p - 1) + f) ((ex : Nat) - 127 - ((p - 1 : Nat) : Int))

/-- A little-endian field of a tile. -/
def leAt (t : Bytes) (o n : Nat) : Nat := leNat (slice t o n)

/-- Width in bits of an integer format. -/
def intWidth (f : Nat) : Nat := if f == fInt4 then 4 else if f == fInt8 then 8 else 32

/-- The integer of element `i` of an INT4, INT8 or INT32 tile. -/
def intAt (f : Nat) (t : Bytes) (i : Nat) : Int :=
  if f == fInt4 then toSigned 4 (byteAt t (i / 2) / 16 ^ (i % 2))
  else if f == fInt8 then toSigned 8 (byteAt t i)
  else toSigned 32 (leAt t (4 * i) 4)

/-- The value of element `i` of a float tile (R198, R200). -/
def floatAt (f : Nat) (t : Bytes) (i : Nat) : Val :=
  let q (n : Int) (ex bias : Nat) : Val :=
    if ex == 255 then .nan else .fin (n < 0) n.natAbs ((ex : Int) - (bias : Int))
  if f == fBf16 then decodeFloat 8 (leAt t (2 * i) 2)
  else if f == fFp32 then decodeFloat 24 (leAt t (4 * i) 4)
  else if f == fB8 then
    q (toSigned 8 (byteAt t (33 * (i / 32) + i % 32))) (byteAt t (33 * (i / 32) + 32)) 133
  else
    q (toSigned 4 (byteAt t (33 * (i / 64) + i % 64 / 2) / 16 ^ (i % 2))) (byteAt t (33 * (i / 64) + 32)) 129

/-- The first `n` elements of a tile kept byte for byte, the others 0; blocks beyond have E = 0 (R199). -/
def cutTile (f n : Nat) (t : Bytes) : Bytes :=
  let w := if f == fInt4 then 4 else if f == fInt8 then 8 else if f == fBf16 then 16 else 32
  if perTile f 0 ≤ n then t
  else if f == fB8 || f == fB4 then
    let bn := if f == fB4 then 64 else 32
    padTo 2048 ((List.range (ceilDiv n bn)).flatMap fun b =>
      let q := slice t (33 * b) 32
      let k := min bn (n - bn * b)
      leBytes 32 (leNat q % 2 ^ (k * (if f == fB8 then 8 else 4))) ++ slice t (33 * b + 32) 1)
  else leBytes 2048 (leNat t % 2 ^ (n * w))

/-- MAXF with a sign. -/
def maxF (neg : Bool) : Val := .fin neg (2 ^ 24 - 1) 104

/-- The admission of a value of R201. -/
def admitVal (x : Val) : Val × Cnt :=
  match x with
  | .nan => (.nan, oneInv)
  | .fin neg mant e =>
    if mant == 0 then (x, {})
    else if 128 ≤ expOf mant e then (maxF neg, oneSat)
    else if expOf mant e < -126 then (.fin neg 0 0, oneFlush)
    else (x, {})

/-- RNE(n × 2^k) for an integer n. -/
def rneShift (n : Int) (k : Int) : Int := if 0 ≤ k then n * (2 ^ k.toNat : Nat) else rneDiv n (2 ^ (-k).toNat)

/-- A value as an integer multiple: sign applied. -/
def signed (neg : Bool) (n : Nat) : Int := if neg then -(n : Int) else n

/-- `to_anchored` of R207. -/
def toAnchored (x : Val) (a : Int) : Int × Cnt :=
  match x with
  | .nan => (0, {})
  | .fin neg mant e =>
    if mant == 0 then (0, {})
    else if a + 1 ≤ expOf mant e then (signed neg (2 ^ 41), oneSat)
    else
      let q := rneShift (signed neg mant) (e + 40 - a)
      (q, if q == 0 then oneFlush else {})

/-! ### Encoding (R209, R210) -/

/-- floor(log2(n / d)) for n, d > 0. -/
def ratLog (n d : Nat) : Int :=
  let k : Int := (log2 n : Nat) - (log2 d : Nat)
  let ge : Bool := if 0 ≤ k then d * 2 ^ k.toNat ≤ n else d ≤ n * 2 ^ (-k).toNat
  if ge then k else k - 1

/-- RNE(n / d × 2^k). -/
def ratRne (n : Int) (d : Nat) (k : Int) : Int :=
  if 0 ≤ k then rneDiv (n * (2 ^ k.toNat : Nat)) d else rneDiv n (d * 2 ^ (-k).toNat)

/-- The canonical NaN of a format with precision `p`. -/
def canonNan (p : Nat) : Nat := 255 * 2 ^ (p - 1) + 2 ^ (p - 2)

/-- `encode_float` of R209 for x = n / d × 2^e; `none` is NaN. -/
def encodeFloat (p : Nat) (x : Option (Int × Nat × Int)) (zneg : Bool) : Nat × Cnt :=
  match x with
  | none => (canonNan p, {})
  | some (n, d, e) =>
    let sgn (b : Bool) : Nat := b2n b * 2 ^ (p + 7)
    if n == 0 then (sgn zneg, {})
    else
      let neg : Bool := n < 0
      let ex := ratLog n.natAbs d + e
      let mant := (ratRne n.natAbs d (e + ((p - 1 : Nat) : Int) - ex)).toNat
      let (mant, ex) := if mant == 2 ^ p then (2 ^ (p - 1), ex + 1) else (mant, ex)
      if 127 < ex then (sgn neg + 254 * 2 ^ (p - 1) + (2 ^ (p - 1) - 1), oneSat)
      else if ex < -126 then (sgn neg, oneFlush)
      else (sgn neg + (ex + 127).toNat * 2 ^ (p - 1) + (mant - 2 ^ (p - 1)), {})

/-- The exact FP32 pattern of an admitted value (R220). -/
def toFp32 (x : Val) : Nat :=
  match x with
  | .nan => canonNan 24
  | .fin neg mant e => (encodeFloat 24 (some (signed neg mant, 1, e)) neg).1

/-- Rank of an FP32 pattern in the total order of R211. -/
def rank32 (v : Nat) : Int := if bitAt v 31 then -((v % 2 ^ 31 : Nat) : Int) - 1 else (v % 2 ^ 31 : Nat)

/-- The exact value of an FP32 pattern that is finite. -/
def fp32Val (v : Nat) : Int × Nat × Int :=
  match decodeFloat 24 v with
  | .nan => (0, 1, 0)
  | .fin neg mant e => (signed neg mant, 1, e)

/-- One Breeze block encoded (R210): `none` is absent, `some none` is NaN; the elements q, the exponent E, and
the events of the elements that count. -/
def encodeBreeze (b4 : Bool) (xs : List (Option (Option (Int × Nat × Int)))) (counts : Nat → Bool := fun _ => true) :
    List Int × Nat × Cnt :=
  let qmax : Nat := if b4 then 7 else 127
  let g : Int := if b4 then 2 else 6
  let bias : Int := if b4 then 129 else 133
  let zero := xs.map fun _ => (0 : Int)
  if xs.any fun x => x == some none then (zero, 255, {})
  else
    let q (x : Option (Option (Int × Nat × Int))) (e : Int) : Int :=
      match x with
      | some (some (n, d, k)) => ratRne n d (k + bias - e)
      | _ => 0
    let logs := xs.filterMap fun x => match x with
      | some (some (n, d, k)) => if n == 0 then none else some (ratLog n.natAbs d + k)
      | _ => none
    match logs with
    | [] => (zero, 0, {})
    | l :: ls =>
      let mx := ls.foldl max l
      let e := satInt (mx - g + bias) 0 254
      let qs := xs.map fun x => q x e
      let big (l : List Int) : Bool := l.any fun v => qmax < v.natAbs
      let (qs, e) := if big qs && e < 254 then (xs.map fun x => q x (e + 1), e + 1) else (qs, e)
      let r := (xs.zip qs).map fun (x, v) =>
        if qmax < v.natAbs then (satInt v (-(qmax : Int)) qmax, oneSat)
        else match x with
          | some (some (n, _, _)) => (v, if n != 0 && v == 0 then oneFlush else ({} : Cnt))
          | _ => (v, {})
      (r.map (·.1), e.toNat, (r.zipIdx.filter fun x => counts x.2).foldl (fun c x => c.add x.1.2) {})

/-! ### A collective's arithmetic parameters -/

/-- Operation, formats, anchor mode and word, and the group's N. -/
structure Red where
  op : Nat := 0
  inF : Nat := 0
  outF : Nat := 0
  supplied : Bool := false
  word : Nat := 0
  n : Nat := 1
deriving DecidableEq, Repr, Inhabited

def Red.d (r : Red) : Nat := bits r.word 15 8
def Red.os (r : Red) : Int := toSigned 8 r.word
def Red.smx (r : Red) : Bool := r.op == 7
def Red.ei (r : Red) : Nat := perTile r.inF r.d
def Red.eo (r : Red) : Nat := perTile r.outF r.d
/-- A float SUM or MEAN. -/
def Red.anchored (r : Red) : Bool := r.op ≤ 1 && isFloat r.inF
/-- Its tile steps are staged (R242). -/
def Red.staged (r : Red) : Bool := !r.supplied && (r.anchored || r.smx)

/-- Whether operation, formats and ANCHOR_WORD agree (R196, R197). -/
def Red.legal (r : Red) : Bool :=
  if r.op ≤ 3 && isInt r.inF then isInt r.outF && r.word < 32
  else if r.op ≤ 1 && isFloat r.inF then
    isFloat r.outF && (if r.supplied then 2 ≤ r.word && r.word ≤ 255 else r.word == 0)
  else if r.op ≤ 3 && isFloat r.inF then isFloat r.outF && r.word == 0
  else if 4 ≤ r.op && r.op ≤ 6 then isInt r.inF && r.outF == r.inF && r.word == 0
  else if r.op == 7 then
    r.inF == fSmx && r.outF == fSmx && 1 ≤ r.d && r.d ≤ 254 &&
    (if r.supplied then bits r.word 31 16 != 32768 else bits r.word 31 16 == 0)
  else false

/-- Whether element `i` of a contribution is present: an absent mask has every element present. -/
def present (mask : Option Nat) (i : Nat) : Bool :=
  match mask with
  | none => true
  | some k => bitAt k i

/-- The 64-bit word `w` of a tile as an integer. -/
def wordAt (t : Bytes) (w : Nat) : Int := toSigned 64 (leAt t (8 * w) 8)

/-- m of SMX record `i`, or `none` for an invalid record (R212). -/
def smxM (r : Red) (t : Bytes) (i : Nat) : Option Int :=
  let v := wordAt t (i * (r.d + 2))
  if -32767 ≤ v && v ≤ 32767 then some v else none

/-- The anchors of one contribution: an anchor byte for each block of 64 elements (R205, R206), or M + 32,768 for each
SMX record, 0 where none is present and valid (R214). `n` is the number of elements in the tile. -/
def anchorsOf (r : Red) (t : Bytes) (mask : Option Nat) (n : Nat) : List Nat :=
  if r.smx then
    (List.range n).map fun i =>
      if present mask i then (match smxM r t i with | some v => (v + 32768).toNat | none => 0) else 0
  else
    (List.range (ceilDiv n 64)).map fun k =>
      (List.range (min 64 (n - 64 * k))).foldl (fun a j =>
        if present mask (64 * k + j) then
          match (admitVal (floatAt r.inF t (64 * k + j))).1 with
          | .fin _ mant e => if mant == 0 then a else max a (expOf mant e + 128).toNat
          | .nan => a
        else a) 0

/-- Anchors combined by maximum. -/
def maxAnchors (a b : List Nat) : List Nat := (a.zip b).map fun x => max x.1 x.2

/-- The anchors of SUPPLIED mode. -/
def suppliedAnchors (r : Red) (n : Nat) : List Nat :=
  if r.smx then (List.range n).map fun _ => (toSigned 16 (r.word / 2 ^ 16) + 32768).toNat
  else (List.range (ceilDiv n 64)).map fun _ => bits r.word 7 0

/-- `align` of R215 for a word and a distance. -/
def alignWord (w d : Int) : Int × Cnt :=
  let y := rneShift w d
  let lim : Int := 2 ^ 63 - 1
  if lim < y.natAbs then (satInt y (-lim) lim, oneSat) else (y, if w != 0 && y == 0 then oneFlush else {})

/-- The contribution of one element as a partial, with the events of its admission (R201, R207, R213, R215). -/
def elemPart (r : Red) (anch : List Nat) (t : Bytes) (mask : Option Nat) (i : Nat) : PEl × Cnt :=
  if !present mask i then ({}, {})
  else if r.smx then
    match smxM r t i with
    | none => ({ pres := true, inv := true, v := List.replicate (r.d + 1) 0 }, oneInv)
    | some v =>
      let dist := v - ((anch.getD i 0 : Nat) - 32768)
      let l := (List.range (r.d + 1)).map fun j => alignWord (wordAt t (i * (r.d + 2) + 1 + j)) dist
      ({ pres := true, inv := false, v := l.map (·.1) }, l.foldl (fun c x => c.add x.2) {})
  else if isInt r.inF then
    let v := intAt r.inF t i
    ({ pres := true, inv := false, v := [if 4 ≤ r.op then (ofSigned (intWidth r.inF) v : Nat) else v] }, {})
  else
    let (x, c) := admitVal (floatAt r.inF t i)
    match x with
    | .nan => ({ pres := true, inv := true, v := [0] }, c)
    | .fin _ _ _ =>
      if r.anchored then
        let a : Int := (anch.getD (i / 64) 0 : Nat)
        let (q, c2) := if a == 0 then (0, {}) else toAnchored x (a - 128)
        ({ pres := true, inv := false, v := [q] }, c.add c2)
      else ({ pres := true, inv := false, v := [(toFp32 x : Nat)] }, c)

/-- The partial of one contribution of `n` elements. -/
def contribPart (r : Red) (anch : List Nat) (t : Bytes) (mask : Option Nat) (n : Nat) : Part :=
  let l := (List.range n).map (elemPart r anch t mask)
  { els := l.map (·.1), cnt := l.foldl (fun c x => c.add x.2) {} }

/-- Bitwise operation on 32-bit patterns. -/
def bitOp (op : Nat) (a b : Int) : Int :=
  let x := a.toNat
  let y := b.toNat
  ((if op == 4 then x &&& y else if op == 5 then x ||| y else x ^^^ y : Nat) : Int)

/-- Two words of partials combined by an operation. -/
def joinWord (r : Red) (a b : Int) : Int :=
  if r.op ≤ 1 || r.smx then a + b
  else if 4 ≤ r.op then bitOp r.op a b
  else
    let less : Bool := if isInt r.inF then a < b else rank32 a.toNat < rank32 b.toNat
    if r.op == 2 then (if less then b else a) else (if less then a else b)

/-- Two elements' partials combined. -/
def joinEl (r : Red) (a b : PEl) : PEl :=
  if !a.pres then b
  else if !b.pres then a
  else { pres := true, inv := a.inv || b.inv, v := (a.v.zip b.v).map fun x => joinWord r x.1 x.2 }

/-- Two partials of one tile combined (R220). -/
def joinPart (r : Red) (a b : Part) : Part :=
  { els := if a.els.isEmpty then b.els else if b.els.isEmpty then a.els else (a.els.zip b.els).map fun x => joinEl r x.1 x.2,
    cnt := a.cnt.add b.cnt }

/-! ### The result (R202, R208, R211, R215, R217) -/

/-- Range of an integer output format. -/
def intRange (f : Nat) : Int × Int :=
  if f == fInt4 then (-8, 7) else if f == fInt8 then (-128, 127) else (-(2 ^ 31), 2 ^ 31 - 1)

/-- `int_result` of R202; an absent element counts no event. -/
def intResult (r : Red) (s : Int) (absent : Bool) : Int × Cnt :=
  let (lo, hi) := intRange r.outF
  let k := bits r.word 4 0
  let x := rneDiv s (2 ^ k * (if r.op == 1 then r.n else 1))
  (satInt x lo hi, if (x < lo || hi < x) && !absent then oneSat else {})

/-- An integer element of the result, as an integer of its format. -/
def intElem (r : Red) (e : PEl) : Int × Cnt :=
  if 4 ≤ r.op then
    (if e.pres then e.v.getD 0 0 else if r.op == 4 then 2 ^ 32 - 1 else 0, {})
  else if e.pres then intResult r (e.v.getD 0 0) false
  else intResult r (if r.op == 2 then -(2 ^ 31) else if r.op == 3 then 2 ^ 31 - 1 else 0) true

/-- A float element's exact value: `none` absent, `some none` NaN, with the sign of a zero. -/
def floatExact (r : Red) (anch : List Nat) (i : Nat) (e : PEl) : Option (Option (Int × Nat × Int)) × Bool :=
  if !e.pres then (none, false)
  else if e.inv then (some none, false)
  else if r.anchored then
    let a : Int := (anch.getD (i / 64) 0 : Nat)
    (some (some (e.v.getD 0 0, if r.op == 1 then r.n else 1, a - 128 - 40)), false)
  else
    let v := (e.v.getD 0 0).toNat
    (some (some (fp32Val v)), bitAt v 31)

/-- A BF16 or FP32 element of the result: its bits. -/
def floatElem (r : Red) (p : Nat) (x : Option (Option (Int × Nat × Int)) × Bool) : Nat × Cnt :=
  match x.1 with
  | none => (if r.op == 2 then 2 ^ (p + 7) + 255 * 2 ^ (p - 1) else if r.op == 3 then 255 * 2 ^ (p - 1) else 0, {})
  | some v => encodeFloat p v x.2

/-- One SMX record of the result: words m, L, O (R213, R215, R217). -/
def smxRecord (r : Red) (anch : List Nat) (i : Nat) (e : PEl) : List Int × Cnt :=
  let z := List.replicate (r.d + 1) (0 : Int)
  if !e.pres then (0 :: z, {})
  else if e.inv then (-(2 ^ 63) :: z, {})
  else
    let cl := e.v.map fun w => (satInt w (-(2 ^ 63)) (2 ^ 63 - 1), if w < -(2 ^ 63) || 2 ^ 63 - 1 < w then oneSat else ({} : Cnt))
    (((anch.getD i 0 : Nat) - 32768) :: cl.map (·.1), cl.foldl (fun c x => c.add x.2) {})

/-- INT4 nibbles packed two to a byte. -/
def packNibbles : List Nat → Bytes
  | a :: b :: l => BitVec.ofNat 8 (a % 16 + b % 16 * 16) :: packNibbles l
  | [a] => [BitVec.ofNat 8 (a % 16)]
  | [] => []

/-- A result tile from its elements' partials, each with the anchors it was formed under and its index in its input
tile: the 2,048 bytes, the presence mask, and the output events. -/
def resultTile' (r : Red) (els : List (PEl × List Nat × Nat)) : Bytes × Nat × Cnt :=
  let mask := (els.zipIdx).foldl (fun a x => if x.1.1.pres then setBit a x.2 true else a) 0
  let sum (l : List Cnt) : Cnt := l.foldl Cnt.add {}
  let (b, c) : Bytes × Cnt :=
    if r.smx then
      let l := els.map fun x => smxRecord r x.2.1 x.2.2 x.1
      (l.flatMap fun x => x.1.flatMap fun w => leBytes 8 (ofSigned 64 w), sum (l.map (·.2)))
    else if isInt r.outF && (isInt r.inF) then
      let l := els.map fun x => intElem r x.1
      let v := l.map (·.1)
      (if r.outF == fInt4 then packNibbles (v.map (ofSigned 4)) else if r.outF == fInt8 then v.flatMap fun x => leBytes 1 (ofSigned 8 x)
       else v.flatMap fun x => leBytes 4 (ofSigned 32 x), sum (l.map (·.2)))
    else
      let ex := els.map fun x => floatExact r x.2.1 x.2.2 x.1
      if r.outF == fBf16 then
        let l := ex.map (floatElem r 8)
        (l.flatMap fun x => leBytes 2 x.1, sum (l.map (·.2)))
      else if r.outF == fFp32 then
        let l := ex.map (floatElem r 24)
        (l.flatMap fun x => leBytes 4 x.1, sum (l.map (·.2)))
      else
        let b4 := r.outF == fB4
        let n := if b4 then 64 else 32
        let bl := (chunks n (ex.map (·.1))).map fun xs => encodeBreeze b4 (xs ++ List.replicate (n - xs.length) none)
        (bl.flatMap fun x =>
          (if b4 then packNibbles (x.1.map (ofSigned 4)) else x.1.flatMap fun v => leBytes 1 (ofSigned 8 v)) ++ leBytes 1 x.2.1,
         sum (bl.map (·.2.2)))
  (padTo 2048 b, mask, c)

/-! ### Partials on the wire (R220, R240) -/

/-- Width of a partial's element in bytes. -/
def Red.width (r : Red) : Nat := if r.smx then 16 * (r.d + 1) else if r.op ≤ 1 then 8 else 4

/-- Whether R220 states the value of an element in a partial: not where the element is absent, nor where a NaN leaves no
extreme. -/
def Red.stated (r : Red) (e : PEl) : Bool := e.pres && !(e.inv && (r.op == 2 || r.op == 3))

/-- The value pieces of a partial, and its flag piece; a value that R220 does not state is a free one, by its element. -/
def Part.pieces (r : Red) (p : Part) (free : Nat → Nat) : List (Nat × Bytes) :=
  let vals := p.els.zipIdx.flatMap fun (e, i) =>
    if !r.stated e then leBytes r.width (free i)
    else if r.smx then (padTo (16 * (r.d + 1)) (e.v.flatMap fun w => leBytes 16 (ofSigned 128 w)))
    else leBytes r.width (ofSigned (8 * r.width) (e.v.getD 0 0))
  let flags := p.els.zipIdx.foldl (fun a x => a + (b2n x.1.pres + 2 * b2n x.1.inv) * 4 ^ x.2) 0
  ((chunks 2048 vals).zipIdx.map fun x => (x.2, pad16 x.1)) ++
  [(31, pad16 (beBytes 4 p.cnt.sat ++ beBytes 4 p.cnt.flush ++ beBytes 4 p.cnt.inv ++ zeros 4 ++
     leBytes (ceilDiv p.els.length 4) flags))]

/-- The partial that all pieces of a tile of `n` elements spell. -/
def Part.ofPieces (r : Red) (n : Nat) (l : List (Nat × Bytes)) : Part :=
  let vals := (sortBy (·.1) (l.filter fun x => x.1 != 31)).flatMap (·.2)
  let fl := ((l.find? fun x => x.1 == 31).map (·.2)).getD []
  let flags := leNat (slice fl 16 (ceilDiv n 4))
  let w := r.width
  { els := (List.range n).map fun i =>
      let pres := bitAt flags (2 * i)
      let inv := bitAt flags (2 * i + 1)
      let v := if r.smx then (List.range (r.d + 1)).map fun j => toSigned 128 (leNat (slice vals (i * w + 16 * j) 16))
               else
                 let x := leNat (slice vals (i * w) w)
                 [if r.op ≤ 1 || (r.op ≤ 3 && isInt r.inF) then toSigned (8 * w) x else (x : Int)]
      if pres then { pres := true, inv := inv, v := v } else {},
    cnt := { sat := fieldBE fl 0 4, flush := fieldBE fl 4 4, inv := fieldBE fl 8 4 } }

/-- Number of pieces of a partial of `n` elements, the flag piece among them. -/
def Red.npieces (r : Red) (n : Nat) : Nat := ceilDiv (n * r.width) 2048 + 1

/-- An anchor payload (R241). -/
def anchorBytes (r : Red) (l : List Nat) : Bytes :=
  pad16 (if r.smx then l.flatMap fun a => beBytes 2 ((a + 32768) % 65536) else l.flatMap fun a => beBytes 1 a)

/-- The anchors that a payload spells, for a tile of `n` elements. -/
def anchorsFrom (r : Red) (n : Nat) (pl : Bytes) : List Nat :=
  if r.smx then (List.range n).map fun i => (fieldBE pl (2 * i) 2 + 32768) % 65536
  else (List.range (ceilDiv n 64)).map fun i => byteAt pl i

end Sys2Proof.Machine
end

