-- ==== Sys2Proof/Machine/Shake.lean ====
section
/-!
DEFINITION. SHAKE256, the hash that the spec names throughout (R17, R321, R367, R473). The spec names it without
defining it; the permutation and padding here are those of the public standard (PRESUMED, log entry 3).
-/
namespace Sys2Proof.Machine

/-- One step of the round-constant register. -/
def shakeLfsr (r : Nat) : Nat := if r * 2 / 256 == 0 then r * 2 else (r * 2 % 256) ^^^ 0x71

/-- The round constants, from the bit register of the standard. -/
def shakeConsts : List Word64 :=
  (List.range 24).map fun rnd =>
    (List.range 7).foldl (fun (acc : Word64) j =>
      let r := (List.range (7 * rnd + j)).foldl (fun r _ => shakeLfsr r) 1
      if r % 2 == 1 then acc ^^^ BitVec.ofNat 64 (2 ^ (2 ^ j - 1)) else acc) 0

/-- Rotation counts of the lanes, in the order of lane x + 5y. -/
def shakeRot : List Nat :=
  [0, 1, 62, 28, 27, 36, 44, 6, 55, 20, 3, 10, 43, 25, 39, 41, 45, 15, 21, 8, 18, 2, 61, 56, 14]

/-- Lane `i` of the state. -/
def lane (s : List Word64) (i : Nat) : Word64 := s.getD i 0

/-- One round of the permutation. -/
def shakeRound (s : List Word64) (rc : Word64) : List Word64 :=
  let c := (List.range 5).map fun x =>
    lane s x ^^^ lane s (x + 5) ^^^ lane s (x + 10) ^^^ lane s (x + 15) ^^^ lane s (x + 20)
  let d := (List.range 5).map fun x => lane c ((x + 4) % 5) ^^^ (lane c ((x + 1) % 5)).rotateLeft 1
  let t := (List.range 25).map fun i => (lane s i ^^^ lane d (i % 5)).rotateLeft (shakeRot.getD i 0)
  let b := (List.range 25).map fun i =>
    let x := i % 5
    let y := i / 5
    lane t ((x + 3 * y) % 5 + 5 * x)
  let e := (List.range 25).map fun i =>
    let x := i % 5
    let y := i / 5
    lane b i ^^^ (~~~ (lane b ((x + 1) % 5 + 5 * y)) &&& lane b ((x + 2) % 5 + 5 * y))
  e.set 0 (lane e 0 ^^^ rc)

/-- The permutation of 24 rounds. -/
def shakePerm (s : List Word64) : List Word64 := shakeConsts.foldl shakeRound s

/-- Little-endian lanes of a block of 136 bytes. -/
def shakeLanes (b : Bytes) : List Word64 :=
  (List.range 17).map fun i => BitVec.ofNat 64 (leNat (slice b (8 * i) 8))

/-- One block absorbed. -/
def shakeAbsorb (s : List Word64) (b : Bytes) : List Word64 :=
  shakePerm ((List.range 25).map fun i => if i < 17 then lane s i ^^^ lane (shakeLanes b) i else lane s i)

/-- The message with the SHAKE suffix and padding, a multiple of 136 bytes. -/
def shakePad (l : Bytes) : Bytes :=
  let n := 136 - l.length % 136
  if n == 1 then l ++ [0x9F] else l ++ [0x1F] ++ zeros (n - 2) ++ [0x80]

/-- The bytes of a state, lowest lane first. -/
def shakeOut (s : List Word64) : Bytes := (List.range 17).flatMap fun i => leBytes 8 (lane s i).toNat

/-- SHAKE256 of a message; the first 136 bytes of output are enough for every use in the spec (at most 96). -/
def shake256 (l : Bytes) (n : Nat) : Bytes :=
  let s := (chunks 136 (shakePad l)).foldl shakeAbsorb (List.replicate 25 0)
  (shakeOut s).take n

end Sys2Proof.Machine
end

