-- ==== Sys2Proof/Config.lean ====
section
/-!
DEFINITION. What the spec leaves open: free values and functions without a body, of which nothing can be proved.
-/
namespace Sys2Proof

/-- The n-th free value taken, for a value the spec does not state. -/
opaque Config.freeNat : Nat → Nat

/-- Choices that make up the part's label: nothing is known of them. -/
opaque Config.label : Nat → Nat

/-- An ASCII digit, and an upper-case letter of the first `k`. -/
def Config.digit (n : Nat) : Byte := BitVec.ofNat 8 (48 + n % 10)
def Config.letter (k n : Nat) : Byte := BitVec.ofNat 8 (65 + n % k)
/-- An ISO week, 01 to 53. -/
def Config.week (n : Nat) : Nat := 1 + n % 53

/-- The module's serial number, 12 characters: site, year, week and sequence (R15). -/
def Config.serial (i : Nat) : Byte :=
  if i < 2 then Config.letter 26 (Config.label i)
  else if i == 4 then Config.digit (Config.week (Config.label 4) / 10)
  else if i == 5 then Config.digit (Config.week (Config.label 4))
  else Config.digit (Config.label i)
/-- Hardware stepping, a letter from A to H and a digit, and date code, YYWW (R15). -/
def Config.stepping (i : Nat) : Byte := if i == 0 then Config.letter 8 (Config.label 12) else Config.digit (Config.label 13)
def Config.dateCode (i : Nat) : Byte :=
  if i < 2 then Config.digit (Config.label (14 + i))
  else if i == 2 then Config.digit (Config.week (Config.label 16) / 10)
  else Config.digit (Config.week (Config.label 16))
/-- The side-band port's MAC address, 6 bytes (R14). -/
opaque Config.mac : Nat → Byte

/-- SLH-DSA of FIPS 205, which the spec names and does not give (R473): whether a signature verifies, the signature of a
message, and the public key of 64 bytes that key generation forms. `f`: the parameter set SLH-DSA-SHAKE-256f, else -256s. -/
opaque Config.slhVerify (f : Bool) (key ctx msg sig : Bytes) : Bool
opaque Config.slhSign (f : Bool) (skSeed skPrf pkSeed optRand ctx msg : Bytes) : Bytes
opaque Config.slhKey (f : Bool) (skSeed skPrf pkSeed : Bytes) : Nat → Byte
/-- The public keys in the MGT boot ROM, 64 bytes each (R472): Ebwen's firmware key and its factory key. -/
opaque Config.romKey : Nat → Byte
def Config.firmwareKey : Bytes := (List.range 64).map Config.romKey
def Config.factoryKey : Bytes := (List.range 64).map fun i => Config.romKey (64 + i)
/-- The factory key's signature of the identity certificate, written at final test: byte by byte, for what it covers. -/
opaque Config.certSig : Bytes → Nat → Byte
/-- The digest and the SECURITY_VERSION of the image that a bank was delivered with: values of the part. -/
opaque Config.factoryDigest : Nat → Nat → Byte
opaque Config.factoryVersion : Nat → Nat
/-- The host part of the side-band's IPv4 link-local address, chosen under RFC 3927 (R512). -/
opaque Config.linkLocal4 : Nat

/-- The MTU of the path to an address of the side-band network (R428), and the identification that the fragments of a datagram
carry. -/
opaque Config.pathMtu : Bytes → Nat
opaque Config.ipIdent : Nat → Nat

/-- The start of a lane's training pattern (R51: PRBS13Q, independent on each lane), by 4 × port + lane. -/
opaque Config.prbsSeed : Nat → Nat

/-- Whether a die leaves out the record of a sequence number that comes sooner after the last than 100 M records per
second allow (R142: at least that rate). -/
opaque Config.ringSlow : Nat → Nat → Bool

/-- The HUB channel of a packet that the module originates, by its die, TYPE and VC (R124 fixes it by source block and
VC). -/
opaque Config.hubChannel : Nat → Nat → Nat → Nat

/-- The rate correction, in ppb, that the servo answers an offset with (R415): bounded by its users. -/
opaque Config.servo : Int → Int → Int

/-- Whether half a unit is rounded up where an offset or a delay of an odd number of half units is stored (R414 states
no rounding). -/
opaque Config.halfUp : Int → Bool

/-- Whether a register that shows an amount in larger units (MiB, KiB) counts a unit in part (no rounding is stated). -/
opaque Config.unitUp : Nat → Nat → Bool

/-- The layout in which tables and group records enter CONFIG_DIGEST, as a function of what they hold (R485 gives their
order alone). -/
opaque Config.tableImage : Bytes → Bytes

end Sys2Proof
end

