-- ==== Sys2Proof/Machine/Crc.lean ====
section
/-!
DEFINITION. CRC-32C of R104.
-/
namespace Sys2Proof.Machine

/-- The reflected generator of CRC-32C: 0x1EDC_6F41 with its bits reversed (R104). -/
def crcPoly : Word := 0x82F63B78#32

/-- One bit of the reflected CRC register. -/
def crcBit (c : Word) : Word := if c.getLsbD 0 then (c >>> 1) ^^^ crcPoly else c >>> 1

/-- One byte of the reflected CRC register. -/
def crcByte (c : Word) (b : Byte) : Word :=
  crcBit (crcBit (crcBit (crcBit (crcBit (crcBit (crcBit (crcBit (c ^^^ b.zeroExtend 32))))))))

/-- CRC-32C: initial value and final XOR 0xFFFF_FFFF; an empty payload gives 0 (R104). -/
def crc32c (l : Bytes) : Word := l.foldl crcByte 0xFFFFFFFF#32 ^^^ 0xFFFFFFFF#32

end Sys2Proof.Machine
end

