-- ==== Sys2Proof/Machine/RegMap.lean ====
section
/-!
DEFINITION. The register maps of the spec: for every block of *Block agents* (R22) the fields of its window, with
their bits, access code (the table *Access codes*), reset value and range. The keep file's window (R512) and the
cabling plan are byte views and stand in Regs.
-/
namespace Sys2Proof.Machine

/-- The blocks of R22, by kind. -/
inductive Blk
  | portGroup | pool | route | traffic | redUnit | windsock | hubIf | mcastRep | engine | hbm
  | portLink | oeCommon | ddr | mioHub | laser | crossbar | coll | xchg | tracker
  | security | time | fault | sideband | keep | pace | supervisor | vane
deriving DecidableEq, Repr

/-- The block that a block identifier names: die index in bits [12:8], agent in bits [7:0] (R21, R22). -/
def blkKind (blk : Nat) : Option Blk :=
  let d := blk / 256
  let a := blk % 256
  if d < 8 then
    if a < 4 then some .portGroup
    else if a == 4 then some .pool
    else if a == 5 then some .route
    else if a == 6 then some .traffic
    else if a == 7 then some .redUnit
    else if a == 8 then some .windsock
    else if a == 9 then some .hubIf
    else if a == 10 then some .mcastRep
    else if 16 ≤ a && a < 32 then some .engine
    else if a == 32 || a == 33 then some .hbm
    else if a == 255 then some .supervisor else none
  else if d < 24 then
    if a < 16 then some .portLink
    else if a == 16 then some .oeCommon
    else if a == 255 then some .supervisor else none
  else if d < 28 then
    if a < 4 then some .ddr
    else if a == 4 then some .mioHub
    else if a == 255 then some .supervisor else none
  else if d < 30 then
    if a == 0 then some .laser
    else if a == 255 then some .supervisor else none
  else if d == 30 then
    if a == 0 then some .crossbar
    else if a == 1 then some .coll
    else if a == 2 then some .xchg
    else if a == 3 then some .tracker
    else if a == 255 then some .supervisor else none
  else if d == 31 then
    if a == 1 then some .security
    else if a == 2 then some .time
    else if a == 3 then some .fault
    else if a == 4 then some .sideband
    else if a == 5 then some .keep
    else if a == 6 then some .pace
    else if a == 255 then some .vane else none
  else none

/-- Access codes (the table *Access codes*), with the two kinds of counter that R11 names. -/
inductive Acc
  | ro | rw | w1c | wo | kp | wraps | saturates
deriving DecidableEq, Repr

/-- One field of a register map. `off` is its register's offset; a repeated register stands at `off + stride × i`
for the `i` below `n` that `ix` admits. A legal written value lies in `min` to `max`, or is 0 where `zero`. -/
structure Fld where
  off : Nat
  hi : Nat
  lo : Nat
  acc : Acc
  rst : Nat → Nat := fun _ => 0
  stride : Nat := 4
  n : Nat := 1
  ix : Nat → Bool := fun _ => true
  min : Nat := 0
  max : Nat := 2 ^ 64
  zero : Bool := false
  clr : Option (Nat × Nat) := none

/-- A read-only field whose value the module computes. -/
def ro (off hi lo : Nat) : Fld := ⟨off, hi, lo, .ro, fun _ => 0, 4, 1, fun _ => true, 0, 2 ^ 64, false, none⟩
/-- A read-write field with a reset value and a range. -/
def rw (off hi lo rst : Nat) (min : Nat := 0) (max : Nat := 2 ^ 64) (zero : Bool := false) : Fld :=
  { off := off, hi := hi, lo := lo, acc := .rw, rst := fun _ => rst, min := min, max := max, zero := zero }
/-- A wrapping counter of a given width (R11). -/
def cwrap (off w : Nat) : Fld := { off := off, hi := w - 1, lo := 0, acc := .wraps }
/-- A saturating counter of a given width (R11). -/
def csat (off w : Nat) : Fld := { off := off, hi := w - 1, lo := 0, acc := .saturates }
/-- A write-only field. -/
def wo (off hi lo : Nat) : Fld := { off := off, hi := hi, lo := lo, acc := .wo }
/-- A CLEAR register of 64 bits that clears the counters in a range of offsets. -/
def clearReg (off a b : Nat) : Fld := { off := off, hi := 63, lo := 0, acc := .wo, clr := some (a, b) }
/-- A view of a keep-file field (R6, *The keep file*). -/
def kp (off hi lo : Nat) (min : Nat := 0) (max : Nat := 2 ^ 64) : Fld :=
  { off := off, hi := hi, lo := lo, acc := .kp, min := min, max := max }
/-- A field repeated `n` times at a stride. -/
def Fld.rep (f : Fld) (stride n : Nat) : Fld := { f with stride := stride, n := n }
/-- A repeated field with an index filter. -/
def Fld.at (f : Fld) (ix : Nat → Bool) : Fld := { f with ix := ix }

/-- Default severities of sources 0 to 63 (the table *Fault sources*, R453); a reserved source reads 0. -/
def defaultSeverity : List Nat :=
  [1, 1, 1, 2, 2, 3, 2, 1, 1, 1, 1, 2, 2, 2, 3, 0, 1, 1, 2, 2, 2, 1, 3, 3, 3, 3, 2, 2, 1, 1, 3, 2,
   2, 0, 1, 2, 1, 3, 2, 2, 3, 2, 3, 0, 0, 1, 0, 2, 2, 3, 3, 3, 0, 2, 2, 2, 0, 0, 0, 0, 0, 0, 0, 0]

/-- Index `8 j + v` with `v` from 2 to 7. -/
def vc27 (i : Nat) : Bool := 2 ≤ i % 8

/-- The fields of each block's window. -/
def mapOf : Blk → List Fld
  | .portGroup =>
    [csat 0x400 32, csat 0x408 32, csat 0x410 32, csat 0x418 32, csat 0x420 32, cwrap 0x428 48, cwrap 0x430 48,
     clearReg 0x438 0x400 0x430,
     cwrap 0x480 48, cwrap 0x488 48, csat 0x490 32, cwrap 0x498 48, clearReg 0x4A0 0x480 0x498]
  | .pool =>
    [wo 0x000 0 0, ro 0x004 1 0, ro 0x004 2 2, ro 0x004 3 3,
     rw 0x010 18 0 65541 0 262144, rw 0x014 16 0 16384 0 65536, rw 0x018 14 0 14563 1024 29127,
     rw 0x01C 18 0 16384 4096 65536,
     ro 0x020 18 0, ro 0x024 16 0, ro 0x028 14 0, ro 0x02C 18 0, ro 0x030 18 0, ro 0x034 18 0, ro 0x038 18 0,
     cwrap 0x100 48, csat 0x108 32, csat 0x110 32, csat 0x118 16, csat 0x120 32, csat 0x128 32,
     clearReg 0x130 0x100 0x138, csat 0x138 32]
  | .route =>
    [rw 0x000 31 0 0xFFFFFFFF, ro 0x004 31 0, wo 0x008 31 0, rw 0x010 31 0 0, rw 0x014 31 0 0,
     (rw 0x1000 13 0 0x2AAA).rep 4 4096, (rw 0x1000 19 14 0).rep 4 4096, (rw 0x1000 20 20 1).rep 4 4096,
     csat 0x200 32, cwrap 0x208 48, cwrap 0x210 48, csat 0x218 32, cwrap 0x220 48, csat 0x228 32, csat 0x230 32,
     clearReg 0x238 0x200 0x230]
  | .traffic =>
    [(rw 0x800 18 0 0).rep 16 16, (rw 0x804 18 0 0).rep 16 16, (rw 0x808 7 0 0).rep 16 16,
     (rw 0x808 11 8 9).rep 16 16, (rw 0x808 12 12 0).rep 16 16,
     ((rw 0x900 3 0 0).rep 4 256).at vc27, ((rw 0x900 7 4 0).rep 4 256).at vc27,
     ((rw 0x900 11 8 0).rep 4 256).at vc27, ((rw 0x900 29 12 0).rep 4 256).at vc27,
     cwrap 0xF00 48, cwrap 0xF08 48, cwrap 0xF10 48, clearReg 0xF18 0xF00 0xF10,
     rw 0xD00 23 0 50000 500 10000000, rw 0xD04 6 0 0x7F, rw 0xD08 9 0 10 1 1000, rw 0xD0C 17 0 512,
     rw 0xD10 9 0 5 1 1000, rw 0xD10 23 10 20 1 10000, rw 0xD10 27 24 2 1 15, ro 0xD14 15 0, ro 0xD14 16 16,
     cwrap 0xE00 48, csat 0xE08 32, csat 0xE10 32, csat 0xE18 32, cwrap 0xE20 48, cwrap 0xE28 48, cwrap 0xE30 48,
     clearReg 0xE38 0xE00 0xE30,
     { off := 0x2000, hi := 9, lo := 0, acc := .rw, rst := fun i => if i % 8 < 4 then 64 else 32,
       n := 256, ix := vc27, min := 1, max := 1023 },
     ro 0x2400 3 0, rw 0x2400 7 4 0,
     (rw 0x2800 9 0 16 1 1023).rep 4 384,
     { off := 0x4000, hi := 5, lo := 0, acc := .rw, rst := fun k => k % 64, n := 4096 },
     (rw 0x10000 4 0 0).rep 16 2048, (rw 0x10000 7 5 2 2 7).rep 16 2048, (rw 0x10000 13 8 0).rep 16 2048,
     (rw 0x10000 14 14 0).rep 16 2048, (rw 0x10000 15 15 0).rep 16 2048, (rw 0x10004 20 0 0).rep 16 2048,
     (rw 0x10008 23 0 2088 2088 16777215).rep 16 2048, (ro 0x1000C 28 0).rep 16 2048,
     (rw 0x18000 4 0 0).rep 32 2048, (rw 0x18000 5 5 0).rep 32 2048, (rw 0x18000 8 6 2 2 7).rep 32 2048,
     (rw 0x18000 9 9 0).rep 32 2048, (rw 0x18000 21 10 0).rep 32 2048, (rw 0x18000 22 22 0).rep 32 2048,
     (rw 0x18000 23 23 0).rep 32 2048, (rw 0x18000 24 24 0).rep 32 2048,
     (rw 0x18004 20 0 0).rep 32 2048, (rw 0x18008 20 0 0).rep 32 2048,
     (rw 0x1800C 23 0 2088 2088 16777215).rep 32 2048, (rw 0x18010 23 0 2088 2088 16777215).rep 32 2048,
     (ro 0x18014 28 0).rep 32 2048, (ro 0x18018 28 0).rep 32 2048,
     (cwrap 0x30000 48).rep 16 256, (cwrap 0x30008 64).rep 16 256,
     cwrap 0x31000 48, cwrap 0x31008 48, cwrap 0x31010 48, cwrap 0x31018 48, csat 0x31020 32,
     clearReg 0x31028 0x30000 0x31020]
  | .redUnit =>
    [cwrap 0x000 48, cwrap 0x008 48, cwrap 0x010 48, cwrap 0x018 48, cwrap 0x020 48, cwrap 0x028 48, cwrap 0x030 48,
     clearReg 0x038 0x000 0x030, ro 0x100 15 0, ro 0x104 12 0]
  | .windsock =>
    [rw 0x000 0 0 0, rw 0x000 1 1 0, rw 0x000 2 2 1, rw 0x000 3 3 1, rw 0x000 7 4 0, wo 0x000 8 8,
     ro 0x004 0 0, ro 0x008 46 0, ro 0x010 4 0, rw 0x014 23 0 0, rw 0x018 31 0 0xFFFFFFFF,
     ro 0x020 63 0, ro 0x028 31 0,
     (rw 0x100 31 0 0).rep 4 64]
  | .hubIf =>
    [rw 0x000 9 0 20 1 1000, ro 0x004 9 0, ro 0x008 14 0, ro 0x00C 14 0,
     cwrap 0x100 48, cwrap 0x108 48, csat 0x110 32, csat 0x118 32, csat 0x120 32, csat 0x128 32, csat 0x130 32,
     clearReg 0x138 0x100 0x130]
  | .mcastRep =>
    [ro 0x000 31 0, cwrap 0x100 48, csat 0x108 32, csat 0x110 32, csat 0x118 32, csat 0x120 32, csat 0x128 32,
     csat 0x130 32, clearReg 0x138 0x100 0x130]
  | .engine =>
    [ro 0x000 1 0, ro 0x000 15 2, ro 0x000 27 16, ro 0x004 13 0, ro 0x008 7 0,
     cwrap 0x100 48, csat 0x108 32, cwrap 0x110 48, cwrap 0x118 48, cwrap 0x120 48, cwrap 0x128 48, cwrap 0x130 48,
     clearReg 0x138 0x100 0x130]
  | .hbm =>
    [ro 0x000 1 0, ro 0x000 2 2, rw 0x004 7 0 24 1 168 true, ro 0x008 6 0, ro 0x00C 15 0, ro 0x010 31 0, ro 0x014 15 0,
     cwrap 0x100 48, cwrap 0x108 48, csat 0x110 32, csat 0x118 32, cwrap 0x120 48, clearReg 0x128 0x100 0x120]
  | .ddr =>
    [ro 0x000 1 0, ro 0x000 2 2, ro 0x000 3 3, ro 0x000 4 4, ro 0x004 13 0, ro 0x008 8 0, rw 0x00C 7 0 24 1 168 true,
     ro 0x010 17 0, ro 0x014 31 0, ro 0x018 15 0,
     cwrap 0x100 48, cwrap 0x108 48, csat 0x110 32, csat 0x118 32, cwrap 0x120 48, clearReg 0x128 0x100 0x120]
  | .portLink =>
    [rw 0x000 0 0 1, wo 0x000 1 1, kp 0x000 2 2, rw 0x000 4 3 0 0 2,
     ro 0x004 3 0, ro 0x004 6 4, ro 0x004 10 7, ro 0x004 14 11, ro 0x004 17 15, ro 0x004 25 18, ro 0x004 26 26,
     ro 0x008 16 0, ro 0x008 24 17, ro 0x008 26 25, ro 0x010 31 0, ro 0x014 31 0, ro 0x018 23 0,
     { off := 0x020, hi := 11, lo := 0, acc := .rw, rst := fun _ => 32, n := 2, min := 9, max := 4095 },
     { off := 0x028, hi := 11, lo := 0, acc := .rw, rst := fun _ => 64, n := 6 },
     rw 0x040 13 0 3200, rw 0x044 9 0 16 8 1000, rw 0x044 17 10 8 1 255, rw 0x044 27 18 500 10 1000,
     rw 0x048 15 0 1000 10 10000,
     cwrap 0x100 48, csat 0x108 32, csat 0x110 32, csat 0x118 32, csat 0x120 16, csat 0x128 32, csat 0x130 16,
     (cwrap 0x140 48).rep 8 4,
     { off := 0x200, hi := 15, lo := 0, acc := .ro, n := 4 }, { off := 0x200, hi := 31, lo := 16, acc := .ro, n := 4 }]
  | .coll =>
    [rw 0x000 12 0 512 16 4096, rw 0x004 5 0 40 1 60, rw 0x008 5 0 8 1 60, ro 0x010 13 0, ro 0x014 12 0,
     ro 0x018 15 0, ro 0x01C 15 0,
     cwrap 0x100 48, cwrap 0x108 48, cwrap 0x110 48, csat 0x118 32, csat 0x120 32, csat 0x128 32, csat 0x130 32,
     cwrap 0x138 48, cwrap 0x140 48, clearReg 0x148 0x100 0x140,
     rw 0x020 23 0 10000 100 10000000, rw 0x024 21 0 30000 10 3600000 true, rw 0x028 16 0 200 20 100000,
     rw 0x028 20 17 3, rw 0x02C 13 0 10 1 10000, rw 0x02C 17 14 5 1 15,
     csat 0x180 32, cwrap 0x188 48, csat 0x190 32, cwrap 0x198 48, csat 0x1A0 32, cwrap 0x1A8 48, csat 0x1B0 32,
     csat 0x1B8 32, csat 0x1C0 32, csat 0x1C8 32, clearReg 0x1D0 0x180 0x1D8, csat 0x1D8 32]
  | .xchg =>
    [ro 0x000 15 0, cwrap 0x100 48, cwrap 0x108 48, cwrap 0x110 48, csat 0x118 32, csat 0x120 32, cwrap 0x128 48,
     clearReg 0x130 0x100 0x128]
  | .tracker =>
    [ro 0x000 14 0, ro 0x004 13 0, ro 0x008 14 0, ro 0x00C 14 0,
     cwrap 0x100 48, cwrap 0x108 48, csat 0x110 32, csat 0x118 32, csat 0x120 32, clearReg 0x128 0x100 0x120]
  | .security =>
    [ro 0x000 0 0, ro 0x000 1 1, ro 0x000 3 2, ro 0x000 5 4, ro 0x000 6 6, ro 0x000 7 7, ro 0x000 8 8,
     ro 0x004 31 0, ro 0x008 31 0, ro 0x010 63 0, ro 0x018 63 0,
     cwrap 0x100 48, csat 0x108 32, csat 0x110 32, clearReg 0x118 0x100 0x110]
  | .time =>
    [kp 0x000 0 0, kp 0x000 1 1, kp 0x000 2 2, rw 0x000 3 3 0, wo 0x000 4 4, kp 0x004 6 0 0 127, kp 0x004 8 7 0 2,
     rw 0x008 7 0 16 1 254, rw 0x00C 11 0 60 0 3600, rw 0x010 7 0 100 1 200, rw 0x018 47 0 0 1 (2 ^ 48 - 1),
     ro 0x020 2 0, ro 0x020 3 3, ro 0x020 11 4, ro 0x020 19 12, ro 0x020 20 20, ro 0x020 21 21, ro 0x020 22 22,
     ro 0x028 31 0, ro 0x02C 31 0, ro 0x030 63 0,
     (ro 0x100 23 0).rep 4 256, (ro 0x100 24 24).rep 4 256,
     cwrap 0x500 48, csat 0x508 32, csat 0x510 16, cwrap 0x518 48, csat 0x520 16, clearReg 0x528 0x500 0x520]
  | .fault =>
    [ro 0x004 0 0, ro 0x004 1 1, ro 0x004 3 2, ro 0x004 5 4, ro 0x004 6 6, ro 0x004 7 7, ro 0x008 63 0, ro 0x010 63 0,
     ro 0x018 63 0, ro 0x020 31 0, ro 0x024 31 0, rw 0x030 15 0 1000 1 60000 true, rw 0x034 13 0 10 1 10000,
     { off := 0x100, hi := 1, lo := 0, acc := .rw, rst := fun s => defaultSeverity.getD s 0, n := 56 },
     (csat 0x200 32).rep 8 64, cwrap 0x400 48, csat 0x408 32, csat 0x410 32, csat 0x418 32,
     clearReg 0x420 0x400 0x418]
  | .pace =>
    [rw 0x000 0 0 0, rw 0x000 1 1 0, kp 0x004 12 0 2000 4400, rw 0x008 9 0 10 1 1000, rw 0x00C 10 0 1000 500 1500,
     rw 0x010 9 0 750 620 860, rw 0x014 6 0 100 85 100,
     ro 0x020 0 0, ro 0x020 1 1, ro 0x020 2 2, ro 0x020 3 3, ro 0x020 4 4,
     { off := 0x020, hi := 12, lo := 8, acc := .w1c }, ro 0x024 12 0,
     (ro 0x040 9 0).rep 4 9, (ro 0x040 20 10).rep 4 9, (ro 0x040 27 21).rep 4 9,
     { off := 0x080, hi := 31, lo := 0, acc := .w1c },
     ro 0x100 15 0, ro 0x104 11 0, ro 0x108 9 0, ro 0x10C 9 0, ro 0x110 9 0, ro 0x114 8 0,
     ro 0x118 0 0, ro 0x118 1 1, ro 0x118 2 2, ro 0x118 3 3, ro 0x11C 11 0,
     rw 0x120 6 0 60 60 100, rw 0x124 5 0 40 25 40,
     wo 0x300 0 0, ro 0x304 1 0, ro 0x304 4 2, rw 0x308 21 0 0 1 3600000 true, rw 0x310 63 0 0,
     csat 0x320 32, csat 0x328 32, clearReg 0x330 0x320 0x328]
  | .vane =>
    [ro 0x000 6 0, ro 0x004 4 0, ro 0x008 4 0,
     cwrap 0x100 48, cwrap 0x108 48, csat 0x110 32, csat 0x118 32, csat 0x120 32, cwrap 0x128 48, csat 0x130 32,
     clearReg 0x138 0x100 0x130]
  | .oeCommon | .mioHub | .laser | .crossbar | .sideband | .keep | .supervisor => []

/-- The engine dispatcher and kernel counters, which stand in the window of agent 0x10 of each switch die. -/
def dispatcherMap : List Fld :=
  [(rw 0x8000 15 0 100 1 65535).rep 4 4096, (rw 0x8000 20 16 16 1 16).rep 4 4096,
   rw 0xC000 21 0 1000 1 3600000, ro 0xC004 10 0, ro 0xC008 4 0, ro 0xC00C 8 0, ro 0xC010 20 0,
   cwrap 0xC100 48, csat 0xC108 32, clearReg 0xC110 0xC100 0xC108,
   (cwrap 0xC208 48).rep 8 7, cwrap 0xC240 48, csat 0xC248 32, clearReg 0xC250 0xC208 0xC248]

/-- The fields of the window of a block identifier. -/
def fieldsOf (blk : Nat) : List Fld :=
  match blkKind blk with
  | none => []
  | some k => if blk / 256 < 8 && blk % 256 == 16 then mapOf k ++ dispatcherMap else mapOf k

/-- Whether a field occupies an 8-byte register (R439). -/
def Fld.wide (f : Fld) : Bool := 32 ≤ f.hi

/-- The index at which a field stands at a register offset. -/
def Fld.idx (f : Fld) (off : Nat) : Option Nat :=
  if f.n == 1 then (if off == f.off then some 0 else none)
  else if f.off ≤ off && (off - f.off) % f.stride == 0 && (off - f.off) / f.stride < f.n && f.ix ((off - f.off) / f.stride)
  then some ((off - f.off) / f.stride) else none

/-- Whether a value is legal for a field (R8, R12). -/
def Fld.legal (f : Fld) (v : Nat) : Bool := (f.min ≤ v && v ≤ f.max) || (f.zero && v == 0)

/-- Whether the field's value is kept in the register store (the rest is computed or has another home). -/
def Fld.stored (f : Fld) : Bool :=
  match f.acc with
  | .rw | .wraps | .saturates | .w1c => true
  | .ro | .wo | .kp => false

/-- The fields of a block at a register offset, with their index. -/
def fieldsAt (blk off : Nat) : List (Fld × Nat) :=
  (fieldsOf blk).filterMap fun f => (f.idx off).map fun i => (f, i)

/-- The field of a block at an offset and low bit. -/
def fieldAt (blk off lo : Nat) : Option (Fld × Nat) := (fieldsAt blk off).find? fun p => p.1.lo == lo

end Sys2Proof.Machine
end

