-- ==== Sys2Proof/Machine/Regs.lean ====
section
/-!
DEFINITION. The two stores that registers live in: the register store (fields of *Access codes* RW, W1C and counters)
and the keep file with its views (R6, R510, R512); block identifiers (R21), counters (R11) and what a reset clears.
-/
namespace Sys2Proof.Machine

/-! ### Block identifiers (R19, R21, R22) -/

/-- Block of agent `a` on switch die `d`. -/
def swBlk (d a : Nat) : Nat := d * 256 + a
/-- Port link of port `p`: OE(p div 16), agent p mod 16. -/
def portBlk (p : Nat) : Nat := (8 + p / 16) * 256 + p % 16
/-- Port group of port `p`. -/
def pgBlk (p : Nat) : Nat := p / 32 * 256 + p / 8 % 4
/-- Engine `e`. -/
def engBlk (e : Nat) : Nat := e / 16 * 256 + 16 + e % 16
/-- Agent `a` on HUB. -/
def hubBlk (a : Nat) : Nat := 30 * 256 + a
/-- Agent `a` on MGT. -/
def mgtBlk (a : Nat) : Nat := 31 * 256 + a
/-- Memory unit `u`: stack Hu below 16, socket DM(u − 16) above. -/
def memBlk (u : Nat) : Nat := if u < 16 then u / 2 * 256 + 32 + u % 2 else (24 + (u - 16) / 4) * 256 + (u - 16) % 4

/-! ### The register store -/

/-- Key of a field in the register store. -/
def regKey (blk off lo : Nat) : Nat := blk * 2 ^ 32 + off * 64 + lo

/-- Reset value of a field. -/
def regReset (blk off lo : Nat) : Nat :=
  match fieldAt blk off lo with
  | some (f, i) => f.rst i
  | none => 0

/-- A stored field's value: the last value written, or the reset value. -/
def Module.reg (m : Module) (blk off lo : Nat) : Nat :=
  match m.regs.get (regKey blk off lo) with
  | some v => v.toNat
  | none => regReset blk off lo

/-- A stored field set. -/
def Module.setReg (m : Module) (blk off lo v : Nat) : Module :=
  { m with regs := m.regs.put (regKey blk off lo) (if v = regReset blk off lo then none else some (BitVec.ofNat 64 v)) }

/-- A counter advanced by `n`, wrapping or saturating as its map says (R11). -/
def Module.count (m : Module) (blk off : Nat) (n : Nat := 1) : Module :=
  match fieldAt blk off 0 with
  | some (f, _) =>
    let top := 2 ^ (f.hi + 1)
    let v := m.reg blk off 0 + n
    m.setReg blk off 0 (if f.acc = .wraps then v % top else min v (top - 1))
  | none => m

/-- The stored fields of a block in a range of offsets at their reset values. -/
def Module.clearRegs (m : Module) (blk a b : Nat) : Module :=
  { m with regs := m.regs.keep fun k _ => !(k / 2 ^ 32 == blk && a ≤ k % 2 ^ 32 / 64 && k % 2 ^ 32 / 64 ≤ b) }

/-- The stored fields of every block that meets a test at their reset values. -/
def Module.resetBlocks (m : Module) (p : Nat → Bool) : Module :=
  { m with regs := m.regs.keep fun k _ => !p (k / 2 ^ 32) }

/-! ### The keep file -/

/-- The reset word of the keep file at an offset that is a multiple of 4 (*Keep file*). -/
def keepResetWord (o : Nat) : Nat :=
  if o == 0 then 0x10000
  else if o == 0x008 then 131071
  else if o == 0x00C then 0xFFFFFF
  else if o == 0x014 then 4400
  else if o == 0x018 then 2
  else if 0x040 ≤ o && o < 0x060 then 131071
  else if 0x400 ≤ o && o < 0x800 then 2 ^ 25
  else 0

/-- The reset byte of the keep file. -/
def keepResetByte (o : Nat) : Byte := BitVec.ofNat 8 (keepResetWord (o / 4 * 4) / 256 ^ (3 - o % 4))

/-- The byte the keep file stores. -/
def Keep.raw (k : Keep) (o : Nat) : Byte := (k.bytes.get o).getD (keepResetByte o)

/-- The byte set; the reset value is not listed. -/
def Keep.setRaw (k : Keep) (o : Nat) (b : Byte) : Keep :=
  { k with bytes := k.bytes.put o (if b = keepResetByte o then none else some b) }

/-- Bytes stored from an offset. -/
def Keep.setBytes (k : Keep) (o : Nat) (l : Bytes) : Keep :=
  (l.foldl (fun (s : Keep × Nat) b => (s.1.setRaw s.2 b, s.2 + 1)) (k, o)).1

/-- The status word at offset 0x000. -/
def Keep.status (k : Keep) : Nat := b2n k.valid + 2 * b2n k.battGood + 4 * b2n k.batLow + 0x10000

/-- KEEP_CRC over bytes 0x008 to 0xFFF. -/
def Keep.crc (k : Keep) : Nat := (crc32c ((List.range 4088).map fun i => k.raw (i + 8))).toNat

/-- The byte a read returns: the stored byte while KEEP_VALID = 1, the reset value otherwise (R510). -/
def Keep.byte (k : Keep) (o : Nat) : Byte :=
  if o < 4 then BitVec.ofNat 8 (k.status / 256 ^ (3 - o))
  else if k.valid then
    (if o < 8 then BitVec.ofNat 8 (k.crc / 256 ^ (7 - o)) else k.raw o)
  else keepResetByte o

/-- Bytes read from the keep file. -/
def Keep.read (k : Keep) (o n : Nat) : Bytes := (List.range n).map fun i => k.byte (o + i)

/-- A word read from the keep file, most significant byte first. -/
def Keep.word (k : Keep) (o : Nat) : Nat := beNat (k.read o 4)

/-- A field read from the keep file. -/
def Keep.field (k : Keep) (o hi lo : Nat) : Nat := bits (k.word o) hi lo

/-- CHIP_NUMBER, COORD (R100). -/
def Module.chip (m : Module) : Nat := m.keep.field 0x008 16 0
def Module.coord (m : Module) : Nat := m.keep.field 0x00C 23 0
/-- TRUSTED of a port, as kept. -/
def Module.trustedKept (m : Module) (p : Nat) : Bool := bitAt (m.keep.word (0x020 + p / 32 * 4)) (p % 32)
/-- Authorised hosts (R431). -/
def Module.isHost (m : Module) (chip : Nat) : Bool :=
  chip != 131071 && (List.range 8).any fun k => m.keep.field (0x040 + 4 * k) 16 0 == chip
/-- The cabling plan entry of a port (R75). -/
def Module.plan (m : Module) (p : Nat) : Nat := m.keep.word (0x400 + 4 * p)

/-- The ranges of the keep-file fields with a restricted value: offset, bits, least and greatest (R8). -/
def keepRanges : List (Nat × Nat × Nat × Nat × Nat) :=
  [(0x014, 12, 0, 2000, 4400), (0x018, 11, 10, 0, 2), (0x1A4, 5, 0, 0, 32), (0x1C0, 7, 0, 0, 128)]

/-- Whether a keep-file word is legal at its offset; a plan entry with ANY = 0 and EXP_CHIP 131,071 is not (R75). -/
def keepWordLegal (o w : Nat) : Bool :=
  keepRanges.all (fun r => !(r.1 == o) || (r.2.2.2.1 ≤ bits w r.2.1 r.2.2.1 && bits w r.2.1 r.2.2.1 ≤ r.2.2.2.2)) &&
  !(0x400 ≤ o && o < 0x800 && !bitAt w 25 && bits w 16 0 == 131071) &&
  !(0x060 ≤ o && o < 0x1A0 && (o - 0x060) % 20 == 0 && !([0, 4, 6].contains (w / 2 ^ 24)))

/-- The bits of a keep-file word that software writes; the others are reserved or read-only (R5, R7). -/
def keepMask (o : Nat) : Nat :=
  if o < 0x008 then 0
  else if o == 0x008 then 2 ^ 17 - 1
  else if o == 0x00C then 2 ^ 24 - 1
  else if o == 0x010 then 7
  else if o == 0x014 then 2 ^ 13 - 1
  else if o == 0x018 then 2 ^ 12 - 1
  else if o == 0x01C then 0
  else if o < 0x040 then 2 ^ 32 - 1
  else if o < 0x060 then 2 ^ 17 - 1
  else if o < 0x1A0 then (if (o - 0x060) % 20 == 0 then 2 ^ 32 - 2 ^ 16 else 2 ^ 32 - 1)
  else if o == 0x1A0 then 2 ^ 32 - 1
  else if o == 0x1A4 then 2 ^ 6 - 1
  else if o == 0x1A8 then 2 ^ 32 - 1
  else if o == 0x1AC then 0
  else if o < 0x1C0 then 2 ^ 32 - 1
  else if o == 0x1C0 then 2 ^ 8 - 1
  else if o < 0x3F0 then 0
  else if o == 0x3F0 then 1
  else if o == 0x3F4 then 2 ^ 32 - 1
  else if o == 0x3F8 then 15
  else if o < 0x400 then 0
  else if o < 0x800 then 2 ^ 27 - 1
  else 2 ^ 32 - 1

/-- One legal word stored by software, reserved bits as 0. -/
def Keep.setWord (k : Keep) (o w : Nat) : Keep :=
  if o < 0x008 then k else k.setBytes o (beBytes 4 (w &&& keepMask o))

/-- Software's write of words: it sets KEEP_VALID (R510). -/
def Keep.writeWords (k : Keep) (l : List (Nat × Nat)) : Keep :=
  { l.foldl (fun k p => k.setWord p.1 p.2) k with valid := true }

/-- A field of a keep-file word replaced by software (a KP field of another block's map). -/
def Keep.writeField (k : Keep) (o hi lo v : Nat) : Keep := k.writeWords [(o, setBits (k.word o) hi lo v)]

/-- The keep file found invalid at a start: every byte at its reset value, KEEP_VALID clear, the flag set (R510). -/
def Keep.invalidate (k : Keep) : Keep := { k with bytes := {}, valid := false, flag := true }

/-! ### Ports and dies as tables -/

def Module.port (m : Module) (p : Nat) : Port := m.ports.get p
def Module.setPort (m : Module) (p : Nat) (x : Port) : Module := { m with ports := m.ports.put p x }
def Module.link (m : Module) (p : Nat) : Link := (m.port p).link
def Module.wire (m : Module) (p : Nat) : Wire := (m.port p).wire
def Module.setLink (m : Module) (p : Nat) (x : Link) : Module := m.setPort p { m.port p with link := x }
def Module.setWire (m : Module) (p : Nat) (x : Wire) : Module := m.setPort p { m.port p with wire := x }
def Module.setSched (m : Module) (p : Nat) (x : Sched) : Module := m.setPort p { m.port p with sched := x }
def Module.die (m : Module) (d : Nat) : Die := m.dies.get d
def Module.setDie (m : Module) (d : Nat) (x : Die) : Module := { m with dies := m.dies.put d x }
/-- The FTC now. -/
def Module.now (m : Module) : Nat := m.time.ftc
/-- FTC units of a microsecond and a millisecond (R407). -/
def us (n : Nat) : Nat := n * 4000
def ms (n : Nat) : Nat := n * 4000000
/-- The FTC advanced to an instant, if it has not passed it (log entry 5). -/
def Module.reach (m : Module) (t : Nat) : Module := { m with time := { m.time with ftc := max m.time.ftc t } }
/-- The clock of durations: the FTC less what its steps have added, so that no step lengthens or shortens a duration (R421). -/
def Module.ticks (m : Module) : Nat := ((m.time.ftc : Int) - m.time.stepSum).toNat
/-- The FTC advanced until a duration's end `t` on that clock, if it has not passed it (log entry 5). -/
def Module.pass (m : Module) (t : Nat) : Module := { m with time := { m.time with ftc := m.time.ftc + (t - m.ticks) } }
/-- The FTC at which a duration ends that ends at `t` on the clock of durations. -/
def Module.ftcAt (m : Module) (t : Nat) : Nat := (((t : Int) + m.time.stepSum) % (2 ^ 64 : Int)).toNat
/-- Link states by name (R67). -/
def Module.active (m : Module) (p : Nat) : Bool := (m.link p).st == 6
/-- Whether a die is fenced (R461). -/
def Module.dieFenced (m : Module) (d : Nat) : Bool := bitAt m.flt.fenced d
/-- Whether the commands and engines may use the main domain (R493). -/
def Module.ready (m : Module) : Bool := m.pwr.st == 2
/-- A free value: the next one, of a width (Config.freeNat, log entry 6). -/
def Module.tick (m : Module) : Module := { m with fresh := m.fresh + 1 }

end Sys2Proof.Machine
end

