-- ==== Sys2Proof/Machine/Flags.lean ====
section
/-!
DEFINITION. The status codes (R441), event codes (R447), fault sources (R453) and the status flags that a read
computes: EXPOSURE, COMMITTED, FREE_CELLS, SINK_FULL (R130, R131, R161) and the causes of withheld credit (R132).
-/
namespace Sys2Proof.Machine

/-! ### Status codes -/
namespace St
def ok : Nat := 0x0000
def okEmpty : Nat := 0x0001
def alreadyComplete : Nat := 0x0002
def badOpcode : Nat := 0x0010
def badParam : Nat := 0x0011
def notOwner : Nat := 0x0012
def denied : Nat := 0x0013
def noResource : Nat := 0x0014
def busy : Nat := 0x0015
def mismatch : Nat := 0x0020
def memberFenced : Nat := 0x0021
def chunkLost : Nat := 0x0022
def contextLost : Nat := 0x0023
def aborted : Nat := 0x0024
def timeout : Nat := 0x0025
def versionMismatch : Nat := 0x0030
def versionGone : Nat := 0x0031
def poisoned : Nat := 0x0032
def sealed_ : Nat := 0x0033
def notInTestMode : Nat := 0x0040
def signatureBad : Nat := 0x0041
def internal : Nat := 0x00FF
end St

/-- Kind of a source: level sources (the table *Fault sources*). -/
def isLevel (s : Nat) : Bool :=
  [3, 4, 5, 13, 18, 31, 36, 37, 38, 39, 40, 41, 42, 43, 44, 46, 52].contains s

/-- Sources that can be raised while the main rails are down (R463). -/
def standbySource (s : Nat) : Bool := (38 ≤ s && s ≤ 48) || s == 50 || s == 52 || s == 54

/-- The resource column of *Fault sources*. -/
inductive Res
  | port | die | none | context | engine | module
deriving DecidableEq, Repr

/-- The resource of a source. -/
def resOf (s : Nat) : Res :=
  if [0, 1, 2, 6, 7, 8].contains s then .port
  else if [3, 4, 5, 10, 11, 12, 13, 14, 19, 27, 30, 31, 35, 49, 55].contains s then .die
  else if s == 20 || s == 21 then .context
  else if s == 26 then .engine
  else if [22, 23, 24, 25, 37, 40, 42, 50, 51].contains s then .module
  else .none

/-! ### Buffer sums -/

/-- FREE_CELLS of a die: cells in small, medium and large chains; none while the bitmap is in use. -/
def Die.freeCells (x : Die) : Nat := x.small.length + 4 * x.medium.length + 9 * x.large.length

/-- D_0 to D_7 and S as held in the credit registers of a port (R66). -/
def Module.creditRegs (m : Module) (p : Nat) : List Nat :=
  (List.range 8).map (fun v => m.reg (portBlk p) (0x020 + 4 * v) 0) ++ [m.reg (portBlk p) 0x040 0]

/-- The sum of an advertised credit list. -/
def credSum (l : List Nat) : Nat := l.foldl (· + ·) 0

/-- A port's commitment for R130; `up` counts the port as up. -/
def Module.commit130 (m : Module) (p : Nat) (up : Bool := false) : Nat :=
  max (credSum (m.creditRegs p)) (if up || (m.link p).st != 0 then credSum (m.wire p).adv else 0)

/-- The ports of a die. -/
def diePorts (d : Nat) : List Nat := (List.range 32).map (32 * d + ·)

/-- COMMITTED (R130). -/
def Module.committed (m : Module) (d : Nat) (up : Bool := false) : Nat :=
  (diePorts d).foldl (fun a p => a + m.commit130 p up) 0

/-- EXPOSURE (R131). Cells freed whose return is delayed by a pause or a retrain count as withheld, because the neighbour
cannot use them (DESIGN CHOICE, log entry 89). -/
def Module.exposure (m : Module) (d : Nat) : Nat :=
  (diePorts d).foldl (fun a p =>
    if (m.link p).st == 0 then a
    else a + (credSum (m.wire p).adv - (m.wire p).charged - credSum (m.wire p).held)) 0

/-- Whether a VC is lossless on a die (R190). -/
def Module.lossless (m : Module) (d v : Nat) : Bool := v < 4 || !bitAt (m.reg (swBlk d 6) 0x2400 4) (v - 4)

/-- The VCs of a port that the pace loop withholds first, for a throttle level (R43, R179): level 1 withholds engines
only, each further level one VC more, smallest QUANTUM first and the highest VC among equals. The level of CORE8, whose
rail feeds no port and no engine, withholds nothing (DESIGN CHOICE, log entry 51). -/
def Module.paceVcs (m : Module) (p : Nat) : List Nat :=
  let lvl := m.pwr.throttle.getD (p / 32) 0
  let q (v : Nat) := m.reg (swBlk (p / 32) 6) (0x2000 + 4 * (8 * (p % 32) + v)) 0
  ((sortBy (fun v => q v * 8 + (7 - v)) [2, 3, 4, 5, 6, 7])).take (lvl - 1)

/-- Whether some cause withholds the credit returns of a port and VC (R132, R505, R43). -/
def Module.withholds (m : Module) (p v : Nat) : Bool :=
  2 ≤ v && ((m.die (p / 32)).unbacked || m.pwr.lull != 0 || (m.paceVcs p).contains v)

/-- WITHHOLDING of a die: some cause withholds credit returns of VC2 to VC7 on one of its ports (R132, R144). -/
def Module.withholdsAny (m : Module) (d : Nat) : Bool :=
  (m.die d).unbacked || m.pwr.lull != 0 || (diePorts d).any fun p => !(m.paceVcs p).isEmpty

/-- Slots of a Calm sink (R161). -/
def sinkSlots : Nat := 32768

/-- The module's own chip number, where it has one: while it is 131,071, nothing but Directed packets with HOP_COUNT 0 and
LINK_LOCAL packets is delivered (R100). -/
def Module.isOwn (m : Module) (chip : Nat) : Bool := chip == m.chip && chip != 131071

/-- Usable as a route candidate (R148). -/
def Module.usable (m : Module) (p : Nat) : Bool := m.active p && bitAt m.net.admitted p

/-- TRUSTED as R487 applies it: only after a check that gave MATCH or ANY. -/
def Module.trusted (m : Module) (p : Nat) : Bool :=
  m.trustedKept p && ((m.link p).checkResult == 1 || (m.link p).checkResult == 2)

end Sys2Proof.Machine
end

