-- ==== Sys2Proof/Machine/Operands.lean ====
section
/-!
DEFINITION. The operand forms of packets: every header field (R85), the header check (R86), the path of Directed mode
(R95, R96), the legality tests of *Packet types* (R90) and the building of a packet.
-/
namespace Sys2Proof

open Sys2Proof.Machine

/-- A field of a header word. -/
def wbits (w : Word) (hi lo : Nat) : Nat := bits w.toNat hi lo
/-- A header word with a field replaced. -/
def wset (w : Word) (hi lo v : Nat) : Word := BitVec.ofNat 32 (setBits w.toNat hi lo v)

namespace Hdr

/-! ### Fields of *Header words* -/
def type (h : Hdr) : Nat := wbits h.w0 31 24
def vc (h : Hdr) : Nat := wbits h.w0 23 21
def mode (h : Hdr) : Nat := wbits h.w0 20 19
def colour (h : Hdr) : Nat := wbits h.w0 18 17
def dest (h : Hdr) : Nat := wbits h.w0 16 0
def mark (h : Hdr) : Bool := bitAt h.w1.toNat 31
def ordered (h : Hdr) : Bool := bitAt h.w1.toNat 30
def hop (h : Hdr) : Nat := wbits h.w1 29 24
def pathLen (h : Hdr) : Nat := wbits h.w1 20 17
def src (h : Hdr) : Nat := wbits h.w1 16 0
def part (h : Hdr) : Nat := wbits h.w2 31 20
def eddy (h : Hdr) : Nat := wbits h.w2 16 0
def seq (h : Hdr) : Nat := wbits h.w3 31 16
def len (h : Hdr) : Nat := wbits h.w3 15 4
def check (h : Hdr) : Nat := wbits h.w4 31 16
def offset (h : Hdr) : Nat := wbits h.w4 14 0 * 2 ^ 32 + h.w5.toNat
def tag (h : Hdr) : Nat := h.w6.toNat
def tw (h : Hdr) : Nat := h.w7.toNat
/-- PATH of Directed mode: EDDY_CHIP and the offset field (R95). -/
def path (h : Hdr) : Nat := h.eddy * 2 ^ 47 + h.offset

/-! ### Field updates -/
def setVc (h : Hdr) (v : Nat) : Hdr := { h with w0 := wset h.w0 23 21 v }
def setMode (h : Hdr) (v : Nat) : Hdr := { h with w0 := wset h.w0 20 19 v }
def setColour (h : Hdr) (v : Nat) : Hdr := { h with w0 := wset h.w0 18 17 v }
def setDest (h : Hdr) (v : Nat) : Hdr := { h with w0 := wset h.w0 16 0 v }
def setMark (h : Hdr) : Hdr := { h with w1 := wset h.w1 31 31 1 }
def setOrdered (h : Hdr) (b : Bool) : Hdr := { h with w1 := wset h.w1 30 30 (b2n b) }
def setHop (h : Hdr) (v : Nat) : Hdr := { h with w1 := wset h.w1 29 24 v }
def setPathLen (h : Hdr) (v : Nat) : Hdr := { h with w1 := wset h.w1 20 17 v }
def setEddy (h : Hdr) (v : Nat) : Hdr := { h with w2 := wset h.w2 16 0 v }
def setSeq (h : Hdr) (v : Nat) : Hdr := { h with w3 := wset h.w3 31 16 v }
def setLen (h : Hdr) (v : Nat) : Hdr := { h with w3 := wset h.w3 15 4 v }
def setCheck (h : Hdr) (v : Nat) : Hdr := { h with w4 := wset h.w4 31 16 v }
def setOffset (h : Hdr) (v : Nat) : Hdr :=
  { h with w4 := wset h.w4 14 0 (v / 2 ^ 32), w5 := BitVec.ofNat 32 v }
def setPath (h : Hdr) (v : Nat) : Hdr := (h.setEddy (v / 2 ^ 47)).setOffset (v % 2 ^ 47)

/-! ### The header check (R86) -/

/-- The eight words. -/
def words (h : Hdr) : List Word := [h.w0, h.w1, h.w2, h.w3, h.w4, h.w5, h.w6, h.w7]

/-- One step of the ones' complement sum of 16-bit halfwords. -/
def ocAdd (a b : Nat) : Nat := (a + b) % 65536 + (a + b) / 65536

/-- The ones' complement sum of the 16 halfwords. -/
def ocSum (h : Hdr) : Nat :=
  h.words.foldl (fun a w => ocAdd (ocAdd a (wbits w 31 16)) (wbits w 15 0)) 0

/-- A header is intact when its ones' complement sum is 0xFFFF. -/
def intact (h : Hdr) : Bool := h.ocSum == 0xFFFF

/-- The header with HDR_CHECK computed. -/
def sealed (h : Hdr) : Hdr := h.setCheck (0xFFFF - (h.setCheck 0).ocSum)

/-- Its 32 bytes in wire order. -/
def bytes (h : Hdr) : Bytes := h.words.flatMap fun w => beBytes 4 w.toNat

/-- The header that 32 bytes spell. -/
def ofBytes (l : Bytes) : Hdr :=
  let w (i : Nat) : Word := BitVec.ofNat 32 (fieldBE l (4 * i) 4)
  ⟨w 0, w 1, w 2, w 3, w 4, w 5, w 6, w 7⟩

/-! ### Checks of *Ingress checks* -/

/-- The types of *Packet types*, LINK_LOCAL excepted. -/
def typeKnown (t : Nat) : Bool :=
  [1, 2, 3, 4, 5, 6, 7, 0x10, 0x11, 0x12, 0x13, 0x14, 0x15, 0x20, 0x21, 0x22, 0x24, 0x30, 0x31].contains t

/-- The column "Sent on" (R90); any type may also travel on VC0. -/
def vcAllowed (t v : Nat) : Bool :=
  if v == 0 then true
  else if t == 0x20 || t == 0x21 || t == 0x22 || t == 0x24 then v == 1
  else if t == 0x30 then v == 3
  else if t == 6 || t == 7 || t == 0x15 then 2 ≤ v
  else if 0x10 ≤ t && t ≤ 0x14 then v == 2 || 4 ≤ v
  else 3 ≤ v

/-- Check 2 of *Ingress checks*: the header's encodings are illegal. `anyDest` admits DEST_CHIP 131,071 (R428). -/
def illegal (h : Hdr) (anyDest : Bool := false) : Bool :=
  !typeKnown h.type || h.colour == 3 || (h.type == 6 && h.tw % 4 == 3) || 2048 < h.len || h.len % 16 != 0 ||
  !vcAllowed h.type h.vc || (h.vc == 0) != (h.mode == 3) ||
  (h.mode == 2 && !((h.type == 0x20 || h.type == 0x21 || h.type == 0x22) && h.vc == 1)) ||
  (h.dest == 131071 && !(h.type == 0x15 || h.mode == 2 || anyDest))

/-- A packet of `len` payload bytes on the link (R83) and its cells (R64). -/
def linkLen (h : Hdr) : Nat := 40 + h.len
def cells (h : Hdr) : Nat := ceilDiv h.linkLen 256

end Hdr

/-- The flow hash of R148. -/
def flowHash (src dst part vc : Nat) : Nat := (src * 40503 + dst * 1021 + part * 7 + vc) % 65536

namespace Pkt

/-- The trailer's CRC is good and BAD is clear (R108). -/
def good (p : Pkt) : Bool := p.t0 == crc32c p.pl && !bitAt p.t1.toNat 0

/-- A packet complete with payload length, header check and payload CRC (R86, R104, R105). -/
def make (h : Hdr) (pl : Bytes) : Pkt :=
  { h := (h.setLen pl.length).sealed, pl := pl, t0 := crc32c pl, t1 := 0 }

end Pkt

/-- The header of a packet that the module sends: colour green, mode 0, EDDY_CHIP 131,071, HOP_COUNT 0 (R92, R94). -/
def mkHdr (type vc dest src part tag tw : Nat) (off : Nat := 0) : Hdr :=
  let h : Hdr :=
    { w0 := BitVec.ofNat 32 (type * 2 ^ 24 + vc * 2 ^ 21 + dest), w1 := BitVec.ofNat 32 src,
      w2 := BitVec.ofNat 32 (part * 2 ^ 20 + 131071), w6 := BitVec.ofNat 32 tag, w7 := BitVec.ofNat 32 tw }
  h.setOffset off

/-- The tail word of a packet marked bad (R105, R106). -/
def tailWord (reason hop chip : Nat) : Word := BitVec.ofNat 32 (1 + reason * 2 + hop * 16 + chip * 1024)

/-- The bytes of a packet on the link and in a datagram (R83, R428). -/
def Machine.pktBytes (k : Pkt) : Bytes := k.h.bytes ++ k.pl ++ beBytes 4 k.t0.toNat ++ beBytes 4 k.t1.toNat

end Sys2Proof
end

