-- ==== Sys2Proof/Machine/Ops.lean ====
section
/-!
DEFINITION. The operations that many commands share: outputs, waking from Lull, events, raising a fault, packets that
the module originates, replies to commands and the entries of the operation tracker.
-/
namespace Sys2Proof.Machine

/-- An output of the module recorded. -/
def Module.emit (m : Module) (o : Out) : Module := { m with out := o :: m.out }

/-- A wake cause reaches the Lull controller (R505, R507): in Lull it starts a wake, and during entry it turns the entry into a
wake at once. Causes: 1 packet, 2 command, 3 escalation step, 4 LULL_WAKE, 5 wake count (R508). -/
def Module.wake (m : Module) (cause : Nat) : Module :=
  if m.pwr.lull == 1 || m.pwr.lull == 2 then
    { m with pwr := { m.pwr with lull := 3, wakeCause := cause, wakeAt := m.ticks } }
  else m

/-! ### Events (R446, R447) -/

/-- An event for one subscription: queued, or dropped at a full queue of 64. -/
def Module.eventTo (m : Module) (slot code : Nat) (pl : Bytes) : Module :=
  let s := m.vane.subs.get slot
  if s.queue.length < 64 then
    { m with vane := { m.vane with subs := m.vane.subs.put slot { s with queue := s.queue ++ [⟨code, pad16 pl⟩] } } }
  else
    ({ m with vane := { m.vane with subs := m.vane.subs.put slot { s with dropped := s.dropped + 1 } } }).count
      (mgtBlk 255) 0x130

/-- An event to every matching subscription; one for the fabric wakes the module from Lull (R506). -/
def Module.event (m : Module) (code : Nat) (pl : Bytes) : Module :=
  (List.range 16).foldl (fun m slot =>
    let s := m.vane.subs.get slot
    if s.used && bitAt s.mask (code / 256) then
      let m := m.eventTo slot code pl
      if s.side then m else m.wake 1
    else m) m

/-! ### Raising a fault (R453 to R458, R467, R468) -/

/-- ACTIVE: bit s for a level source that is active. -/
def Flt.active (f : Flt) : Nat := f.levels.foldl (fun a p => setBit a p.1 true) 0

/-- The flags byte of a record image. -/
def Rec.flags (r : Rec) : Nat := b2n r.isOpen + 2 * b2n r.acked + 4 * b2n r.inject + 8 * b2n r.test

/-- Bytes 0 to 63 of a record image (*Record image*). -/
def Rec.head (r : Rec) (active : Nat) : Bytes :=
  beBytes 4 r.num ++ beBytes 1 r.sev ++ beBytes 1 r.step ++ beBytes 1 r.flags ++ beBytes 1 r.first ++
  beBytes 8 r.sources ++ beBytes 8 active ++ beBytes 8 r.ftcOpen ++ beBytes 8 r.ftcLast ++ beBytes 8 r.deadline ++
  beBytes 4 r.fenced ++ beBytes 4 (r.unlisted.foldl (fun a u => setBit a u.1 true) 0) ++ beBytes 4 r.merged ++
  beBytes 4 r.lost

/-- The 256-byte record image. -/
def Rec.image (r : Rec) (active : Nat) : Bytes :=
  r.head active ++ (List.range 64).map (fun s => BitVec.ofNat 8 (r.counts.get s)) ++
  padTo 128 (r.insts.flatMap fun i =>
    beBytes 1 i.src ++ beBytes 1 (b2n i.isolated) ++ beBytes 2 i.blk ++ beBytes 4 i.detail)

/-- A record with its deadline as an FTC, as DEADLINE and the image show it. -/
def Module.shown (m : Module) (r : Rec) : Rec := if r.deadline == 0 then r else { r with deadline := m.ftcAt r.deadline }

/-- FAULT_RECORD (R467): the reason, the source concerned, and bytes 0 to 63 of the image. -/
def Module.faultEvent (m : Module) (reason src : Nat) (r : Rec) (active : Nat) : Module :=
  m.event 0x0A01 (beBytes 1 reason ++ beBytes 1 src ++ zeros 14 ++ (m.shown r).head active)

/-- A fatal history entry (*Fatal history entry*). -/
def Rec.history (r : Rec) (close : Nat) : Bytes :=
  let i := r.insts.headD {}
  beBytes 4 r.num ++ beBytes 1 3 ++ beBytes 1 r.step ++ beBytes 1 r.flags ++ beBytes 1 r.first ++ beBytes 8 r.ever ++
  beBytes 8 r.ftcOpen ++ beBytes 8 r.ftcFatal ++ beBytes 8 close ++ beBytes 2 i.blk ++ zeros 2 ++ beBytes 4 i.detail ++
  beBytes 4 r.fenced ++ beBytes 4 r.merged ++ zeros 8

/-- The record's history entry written or updated in its ring slot (R468). -/
def Module.writeHistory (m : Module) (r : Rec) (close : Nat) : Module :=
  match r.slot with
  | some i => { m with keep := m.keep.setBytes (0xC00 + 64 * i) (r.history close) }
  | none => m

/-- Grace time in FTC units for a severity; 0 where none runs (R458). -/
def Module.grace (m : Module) (sev : Nat) : Nat :=
  if sev == 3 then ms (m.reg (mgtBlk 3) 0x034 0) else if sev == 2 then ms (m.reg (mgtBlk 3) 0x030 0) else 0

/-- The grace timer of a record started at this instant. -/
def Module.startGrace (m : Module) (r : Rec) : Rec :=
  { r with deadline := if m.grace r.sev == 0 then 0 else m.ticks + m.grace r.sev }

/-- A record that has just reached Fatal takes the next ring slot of the history. -/
def Module.enterFatal (m : Module) (r : Rec) : Module × Rec :=
  let slot := bits (beNat ((List.range 4).map fun i => m.keep.raw (0x3F8 + i))) 3 0
  let r := { r with slot := some slot, ftcFatal := m.now }
  ({ m with keep := m.keep.setBytes 0x3F8 (beBytes 4 ((slot + 1) % 16)) }, r)

/-- Whether two raises report one resource: source, block and DETAIL. -/
def Inst.same (a b : Inst) : Bool := a.src == b.src && a.blk == b.blk && a.detail == b.detail

/-- An instance listed in a record, or counted as lost beyond 16 (R456). -/
def Rec.list (r : Rec) (i : Inst) : Rec × Bool :=
  if r.insts.any (Inst.same i) then
    ({ r with insts := r.insts.map fun (x : Inst) => if x.same i then { x with sev := max x.sev i.sev } else x }, false)
  else if r.insts.length < 16 then ({ r with insts := r.insts ++ [i] }, false)
  else ({ r with lost := min (r.lost + 1) (2 ^ 32 - 1), unlisted := r.unlisted ++ [(i.blk / 256, i.src, if i.injected then 0 else i.sev)] }, true)

/-- One raise of a source by a block (R455, R458, R467), `inj` for an injected one (R469). -/
def Module.raise (m : Module) (src blk detail : Nat) (inj : Bool := false) : Module :=
  if !m.pwr.standby || (!m.pwr.main && !standbySource src && !inj) then m
  else
    let sev := m.reg (mgtBlk 3) (0x100 + 4 * src) 0
    let m := m.count (mgtBlk 3) (0x200 + 8 * src)
    let i : Inst := { src := src, blk := blk, detail := detail, sev := sev, injected := inj }
    match m.flt.cur with
    | none =>
      let num := if m.flt.num + 1 == 2 ^ 32 then 1 else m.flt.num + 1
      let m := ({ m with flt := { m.flt with num := num } }).count (mgtBlk 3) 0x400
      let r : Rec := { num := num, sev := sev, inject := inj, test := m.sec.testMode, first := src,
                       sources := 2 ^ src, ever := 2 ^ src, ftcOpen := m.now, ftcLast := m.now,
                       counts := ({} : Tab Nat).put src 1, insts := [i] }
      let (m, r) := if sev == 3 then m.enterFatal r else (m, r)
      let r := m.startGrace r
      let m := ({ m with flt := { m.flt with cur := some r } }).writeHistory r 0
      m.faultEvent 1 src r m.flt.active
    | some r =>
      let fresh := !bitAt r.sources src
      let up := r.sev < sev
      let (r, lost) := r.list i
      let m := if lost then m.count (mgtBlk 3) 0x418 else m
      let r := { r with
        sev := max r.sev sev, inject := r.inject || inj, sources := setBit r.sources src true,
        ever := setBit r.ever src true, ftcLast := m.now, merged := min (r.merged + 1) (2 ^ 32 - 1),
        counts := r.counts.put src (min (r.counts.get src + 1) 255), acked := r.acked && !fresh }
      let fatal := up && sev == 3 && r.slot == none
      let (m, r) := if fatal then m.enterFatal r else (m, r)
      let r := if (fresh || up) && !r.acked && 2 ≤ r.sev then m.startGrace r else r
      let m := { m with flt := { m.flt with cur := some r } }
      let m := if fatal then m.writeHistory r 0 else m
      if fresh || up then m.faultEvent 2 src r m.flt.active else m

/-- THERM_ALERT_N and LEAK_N follow their sources (R515). -/
def Module.pins (m : Module) : Module :=
  let a := m.flt.active
  { m with sens := { m.sens with
      thermAlert := m.pwr.standby && (bitAt a 36 || bitAt a 37 || bitAt a 38 || bitAt a 39 || m.pwr.hwTrip),
      mainOn := m.pwr.standby && m.pwr.main,
      leakLow := (m.sens.leakOwn && m.pwr.standby) || m.sens.leakBoard } }

/-- A level source's condition holds or has ended at a block: it is raised when the condition starts (R453). -/
def Module.level (m : Module) (src blk detail : Nat) (on : Bool) : Module :=
  let had := m.flt.levels.contains (src, blk)
  if on && !had then
    if m.pwr.standby && (m.pwr.main || standbySource src) then
      (({ m with flt := { m.flt with levels := m.flt.levels ++ [(src, blk)] } }).raise src blk detail).pins
    else m
  else if !on && had then
    ({ m with flt := { m.flt with levels := m.flt.levels.filter fun p => p != (src, blk) } }).pins
  else m

/-! ### Packets that the module originates (R131, R537) -/

/-- Whether the module can send packets to the fabric at all: READY or in Lull (R492, R493). -/
def Module.fabricUp (m : Module) : Bool := m.pwr.st == 2 || m.pwr.st == 3

/-- A packet of the module's own joins those that wait for cells; in Lull it wakes the module. -/
def Module.originate (m : Module) (p : Pkt) (die : Option Nat := none) (out : Option Nat := none) (ev : Bool := false)
    (outs : List (Option Nat × Hdr) := []) : Module :=
  if m.fabricUp then
    ({ m with net := { m.net with orig := m.net.orig ++ [Orig.mk p die out ev outs] } }).wake 1
  else m

/-- The VC of an answer (R536): that on which the request arrived, or the lowest of its type where it arrived in Calm. -/
def answerVc (q : Pkt) : Nat :=
  let v := q.vcIn.getD q.h.vc
  if v == 0 then (if q.h.type == 6 then 2 else 3) else v

/-- An answer to a request packet: type, TYPE_WORD and payload, to its source, in its partition (R536). -/
def Module.answer (m : Module) (q : Pkt) (type tw : Nat) (pl : Bytes) (die : Option Nat := none) (t0 : Option Word := none) :
    Module :=
  let p := Pkt.make (mkHdr type (answerVc q) q.h.src m.chip q.h.part q.h.tag tw) pl
  m.originate (match t0 with | some t => { p with t0 := t } | none => p) die

/-! ### Replies to commands (R428 to R430, R99) -/

/-- The reply header of *Reply header*. -/
def replyHead (r : CmdReq) (deferred final cached last : Bool) (handle segment part : Nat) : Bytes :=
  beBytes 2 r.opcode ++ beBytes 1 (b2n deferred + 2 * b2n final + 4 * b2n cached + 8 * b2n last) ++
  beBytes 1 (b2n r.side) ++ beBytes 4 handle ++ beBytes 2 segment ++ beBytes 1 part ++ zeros 5

/-- The PATH of a Directed reply: the low n bytes of the arriving PATH in reverse order, at the top (R99). -/
def replyPath (n path : Nat) : Nat :=
  (List.range n).foldl (fun a i => a + path / 256 ^ i % 256 * 256 ^ (7 - i)) 0

/-- The pieces of a UDP payload in fragments that carry `room` bytes each, the first with the UDP header of 8. -/
def pieces (room : Nat) (l : Bytes) : List Bytes := l.take (room - 8) :: chunks room (l.drop (room - 8))

/-- A packet sent in a datagram, newest output first: whole where the path's MTU lets it, and otherwise in fragments, each but
the last of a multiple of 8 bytes (R428; the MTU and the identification are free values, log entry 133). -/
def datagramOut (addr : Bytes) (udp : Nat) (p : Pkt) (n : Nat) : List Out :=
  let l := pktBytes p
  let v4 := addr.length == 4
  let mtu := max (if v4 then 68 else 1280) (Config.pathMtu addr)
  if l.length + (if v4 then 28 else 48) ≤ mtu then [.datagram addr udp p]
  else
    ((pieces ((mtu - (if v4 then 20 else 48)) / 8 * 8) l).foldl (fun (a : List Out × Nat) d =>
      (.fragment { addr := addr, udp := udp, ident := Config.ipIdent n % (if v4 then 2 ^ 16 else 2 ^ 32), total := l.length,
                   off := a.2, data := d } :: a.1, a.2 + d.length)) ([], 0)).1

/-- One CMD_REPLY sent to the command's source. -/
def Module.sendReply (m : Module) (r : CmdReq) (x : Reply) : Module :=
  let pl := pad16 x.pl
  if r.side then
    { m with out := datagramOut r.addr r.udp (Pkt.make (mkHdr 0x21 1 131071 m.chip 0 r.tag x.status) pl) m.out.length ++ m.out }
  else
    let h := mkHdr 0x21 1 r.chip m.chip 0 r.tag x.status
    if r.directed then
      let h := ((((h.setMode 2).setHop r.pathLen).setPathLen r.pathLen).setPath (replyPath r.pathLen r.path))
      m.originate (Pkt.make h pl) (some (r.port / 32)) (some r.port)
    else m.originate (Pkt.make h pl)

/-- The cache of a master. -/
def Vane.cache (v : Vane) (side : Bool) : List Cached := if side then v.sideCache else v.hostCache
def Vane.setCache (v : Vane) (side : Bool) (l : List Cached) : Vane :=
  if side then { v with sideCache := l } else { v with hostCache := l }

/-- Whether a cache entry has a command's key (R433). -/
def Cached.keyOf (c : Cached) (r : CmdReq) : Bool := c.tag == r.tag && (r.side || c.chip == r.chip)

/-- A command's replies put into its master's cache as it executes; the cache holds the last 256 commands (R433). -/
def Module.cachePut (m : Module) (r : CmdReq) (first : Option Reply) (final : List Reply) : Module :=
  let l := m.vane.cache r.side
  let old := (l.find? (·.keyOf r)).getD {}
  let c : Cached := { chip := r.chip, tag := r.tag, opcode := r.opcode, body := r.body,
                      first := if first.isSome then first else if old.body = r.body then old.first else none, final := final }
  let l := (l.filter fun c => !c.keyOf r) ++ [c]
  { m with vane := m.vane.setCache r.side (l.drop (l.length - 256)) }

/-- A final reply's segments: data in parts, each cut into segments of 2,032 bytes of its own, SEGMENT 0 upward over the
whole reply (R429, R430). -/
def replySegs (r : CmdReq) (status handle : Nat) (parts : List (Nat × Bytes)) : List Reply :=
  let l := parts.flatMap fun p => (if p.2.isEmpty then [[]] else chunks 2032 p.2).map fun d => (p.1, d)
  l.zipIdx.map fun (d, i) =>
    { status := status, pl := replyHead r false true false (i + 1 == l.length) handle i d.1 ++ d.2 }

/-- The final reply of a command that is not deferred, in one or more segments, sent and cached; a reply that carries BUSY is
not cached (R433). -/
def Module.replyFinal (m : Module) (r : CmdReq) (status : Nat) (data : Bytes := []) (handle : Nat := 0) : Module :=
  let l := replySegs r status handle [(0, data)]
  let m := l.foldl (fun m x => m.sendReply r x) m
  if status == St.busy then m else m.cachePut r none l

/-- The final reply of a deferred command. Its cache entry takes it where the cache still holds the command: an entry that has
left, or that another command with the key has replaced, stays as it is (R433). -/
def Module.replyLate (m : Module) (r : CmdReq) (status : Nat) (parts : List (Nat × Bytes)) (handle : Nat) : Module :=
  let l := replySegs r status handle parts
  let m := l.foldl (fun m x => m.sendReply r x) m
  let put (c : Cached) : Cached :=
    if c.keyOf r && c.body == r.body && c.final.isEmpty && c.first.any fun x => fieldBE x.pl 4 4 == handle then
      { c with final := l }
    else c
  if status == St.busy then m else { m with vane := m.vane.setCache r.side ((m.vane.cache r.side).map put) }

/-- The first reply of a deferred command: DEFERRED = 1, FINAL = 0 and its handle. -/
def Module.replyDeferred (m : Module) (r : CmdReq) (handle : Nat) (data : Bytes := []) : Module :=
  let x : Reply := { status := St.ok, pl := replyHead r true false false false handle 0 0 ++ data }
  (m.sendReply r x).cachePut r (some x) []

/-! ### The operation tracker (R448 to R451) -/

/-- Entries in use of a kind. -/
def Trk.ofKind (t : Trk) (k : Nat) : Nat := (t.ents.cells.filter fun c => c.2.kind == k && c.2.st != 3 && c.2.st != 5).length
/-- Entries that are not free: OPEN, COMPLETING or ABORTING. -/
def Trk.inUse (t : Trk) : Nat := (t.ents.cells.filter fun c => c.2.st != 3 && c.2.st != 5 && c.2.st != 0).length
/-- Whether an entry is open. -/
def Trk.anyOpen (t : Trk) : Bool := t.ents.cells.any fun c => c.2.st == 1
/-- Entries not free, of kinds 1 and 2, and of kinds 3 and 4. -/
def Trk.main (t : Trk) : Nat := t.ofKind 1 + t.ofKind 2
def Trk.other (t : Trk) : Nat := t.ofKind 3 + t.ofKind 4

/-- Whether an entry of a kind is available: 1,024 of the 16,384 serve only migrations and deferred commands (R448). -/
def Trk.room (t : Trk) (k : Nat) : Bool :=
  t.inUse < 16384 && (k == 3 || k == 4 || t.main + (t.other - 1024) < 15360)

/-- The index the next entry takes: the lowest never used, and then the one that finished first (R451). -/
def Trk.pick (t : Trk) : Option Nat :=
  match leastBelow (t.gens.cells.length + 1) fun i => t.gens.get i == 0 with
  | some i => if i < 16384 then some i else t.done.head?
  | none => t.done.head?

/-- A tracker entry opened (R448), with its handle; `none` where none is available. -/
def Module.openEntry (m : Module) (e : TEnt) : Option (Module × Nat) :=
  if !m.trk.room e.kind then none
  else match m.trk.pick with
    | none => none
    | some i =>
      let g := if m.trk.gens.get i == 2 ^ 18 - 1 then 1 else m.trk.gens.get i + 1
      let h := g * 2 ^ 14 + i
      some (({ m with trk := { m.trk with
                ents := m.trk.ents.put i { e with handle := h, st := 1, ftcOpen := m.now },
                gens := m.trk.gens.put i g,
                done := m.trk.done.filter (· != i) } }).count (hubBlk 3) 0x100, h)

/-- The entry that a handle names, if its generation still matches. -/
def Trk.find (t : Trk) (h : Nat) : Option TEnt :=
  let e := t.ents.get (h % 2 ^ 14)
  if e.handle == h && h != 0 then some e else none

/-- A tracker entry changed. -/
def Module.updEntry (m : Module) (h : Nat) (f : TEnt → TEnt) : Module :=
  { m with trk := { m.trk with ents := m.trk.ents.upd (h % 2 ^ 14) fun e => if e.handle == h then f e else e } }

/-- Completion is requested (R449): an OPEN entry moves to COMPLETING; one already left keeps its course. -/
def Module.requestDone (m : Module) (h : Nat) : Module :=
  m.updEntry h fun e => if e.st == 1 then { e with st := 2, waiting := false } else e

/-- An abort is recorded (R449). -/
def Module.requestAbort (m : Module) (h : Nat) : Module :=
  m.updEntry h fun e => if e.st == 1 then { e with st := 4, waiting := false } else e

/-- The operation's work is over: the status it would report and its reply data are kept for ENTRY_FINISH, and
completion is requested if nothing came first. -/
def Module.workOver (m : Module) (h status : Nat) (data : Bytes := []) : Module :=
  (m.requestDone h).updEntry h fun e =>
    { e with ended := true, data := data, status := if e.st == 4 then St.aborted else status }

/-- Every final report is sent: the entry reaches DONE or ABORTED and becomes free (R449, R451). -/
def Module.closeEntry (m : Module) (h : Nat) : Module :=
  match m.trk.find h with
  | none => m
  | some e =>
    if e.st == 2 || e.st == 4 then
      let ab := e.st == 4
      let m := m.updEntry h fun e => { e with st := if ab then 5 else 3, ftcEnd := m.now,
                                              status := if ab then St.aborted else e.status }
      ({ m with trk := { m.trk with done := m.trk.done ++ [h % 2 ^ 14] } }).count (hubBlk 3) (if ab then 0x110 else 0x108)
    else m

/-- The image of an entry (*Entry image*). -/
def TEnt.image (e : TEnt) : Bytes :=
  beBytes 4 e.handle ++ beBytes 1 e.kind ++ beBytes 1 e.st ++ beBytes 2 (if e.st == 1 then 0 else e.status) ++
  beBytes 1 (b2n e.side) ++ zeros 3 ++ beBytes 4 e.key ++ beBytes 4 e.keyChip ++ zeros 4 ++
  beBytes 8 e.ftcOpen ++ beBytes 8 e.ftcEnd ++
  padTo 24 (if e.kind == 1 then beBytes 8 e.a ++ beBytes 8 e.b ++ beBytes 1 e.c ++ beBytes 1 e.d
    else if e.kind == 2 then beBytes 1 e.a ++ zeros 1 ++ beBytes 2 e.b ++ zeros 4 ++ beBytes 8 e.c
    else if e.kind == 3 then beBytes 4 e.a ++ beBytes 4 e.b ++ beBytes 4 e.c
    else beBytes 2 e.a)

end Sys2Proof.Machine
end

