-- ==== Sys2Proof/Machine/Firmware.lean ====
section
/-!
DEFINITION. Firmware images and banks (R476 to R478) and anti-rollback (R482, R483).
-/
namespace Sys2Proof.Machine

/-- The ASCII codes of a short text. -/
def ascii (s : String) : Bytes := s.toList.map fun c => BitVec.ofNat 8 c.toNat

/-- A use of signatures (*Signatures*): its parameter set (`f`: SLH-DSA-SHAKE-256f), context string and signature bytes. -/
structure SigUse where
  f : Bool := false
  ctx : String := ""
  len : Nat := 29792
deriving DecidableEq, Repr

def sigFirmware : SigUse := { ctx := "EBWEN-PENIDA-FW" }
def sigIdentity : SigUse := { ctx := "EBWEN-PENIDA-ID" }
def sigToken : SigUse := { ctx := "EBWEN-PENIDA-TM" }
def sigRollback : SigUse := { f := true, ctx := "EBWEN-PENIDA-AR", len := 49856 }
def sigReport : SigUse := { f := true, ctx := "EBWEN-PENIDA-AT", len := 49856 }

/-- A signature of R473 over bytes, checked under a public key. -/
def sigOk (key : Bytes) (u : SigUse) (msg sig : Bytes) : Bool :=
  sig.length == u.len && Config.slhVerify u.f key (ascii u.ctx) msg sig

/-! ### The identity (R474 to R476) -/

/-- The reconstruction of the seed is accepted by the check value in the helper data. -/
def seedAccepted (seed check : Bytes) : Bool := seed.length == 32 && shake256 (seed ++ ascii "CHECK") 16 == check

/-- SK.seed, SK.prf and PK.seed of the identity key. -/
def Sec.keySeeds (s : Sec) : Bytes := shake256 (s.seed ++ ascii "EBWEN-IDENTITY") 96

/-- The identity public key, 64 bytes. -/
def Sec.publicKey (s : Sec) : Bytes :=
  let k := s.keySeeds
  (List.range 64).map (Config.slhKey true (k.take 32) (slice k 32 32) (k.drop 64))

/-- A signature of the module under its identity key, with opt_rand equal to PK.seed (R473). -/
def Sec.sign (s : Sec) (u : SigUse) (msg : Bytes) : Bytes :=
  let k := s.keySeeds
  padTo u.len (Config.slhSign u.f (k.take 32) (slice k 32 32) (k.drop 64) (k.drop 64) (ascii u.ctx) msg)

/-- Bytes 0 to 127 of the identity certificate. -/
def Sec.certHead (s : Sec) : Bytes :=
  beBytes 4 1 ++ (List.range 12).map Config.serial ++ (List.range 2).map Config.stepping ++ zeros 2 ++
  (List.range 4).map Config.dateCode ++ s.publicKey ++ zeros 40

/-- The identity certificate in flash: it names the key that the module derives, and the factory key has signed it
(`sigIdentity`). -/
def Sec.certificate (s : Sec) : Bytes := s.certHead ++ (List.range sigIdentity.len).map (Config.certSig s.certHead)

/-! ### Firmware images and banks -/

/-- Section k of an image: type, offset, length, digest. -/
def imgSection (img : Bytes) (k : Nat) : Nat × Nat × Nat × Bytes :=
  let o := 32 + 48 * k
  (byteAt img o, fieldBE img (o + 4) 4, fieldBE img (o + 8) 4, slice img (o + 16) 32)

/-- Whether an image is valid (R477). -/
def imageValid (img : Bytes) : Bool :=
  let n := byteAt img 24
  let secs := (List.range n).map (imgSection img)
  fieldBE img 0 4 == 1 && fieldBE img 16 4 == img.length && 1 ≤ n && n ≤ 8 &&
  (secs.filter fun s => s.1 == 1).length == 1 &&
  secs.all (fun s => s.2.1 % 16 == 0 && s.2.1 + s.2.2.1 ≤ img.length && shake256 (slice img s.2.1 s.2.2.1) 32 == s.2.2.2) &&
  bitAt (byteAt img 20) ((Config.stepping 0).toNat - 65) &&
  sigOk Config.firmwareKey sigFirmware (slice img 0 512) (slice img 512 29792)

/-- SECURITY_VERSION of bank k. -/
def Sec.version (s : Sec) (k : Nat) : Nat :=
  let b := s.banks.getD k {}
  if b.factory then Config.factoryVersion k % 2 ^ 32 else fieldBE b.image 4 4

/-- The firmware digest of bank k. -/
def Sec.digest (s : Sec) (k : Nat) : Bytes :=
  let b := s.banks.getD k {}
  if b.factory then (List.range 32).map (Config.factoryDigest k) else shake256 b.image 32

/-- BANK_STATE of bank k. -/
def Sec.bankSt (s : Sec) (k : Nat) : Nat := (s.banks.getD k {}).st

/-- A bank changed. -/
def Sec.setBank (s : Sec) (k : Nat) (b : Bank) : Sec := { s with banks := s.banks.set k b }

/-- The bytes of a flash record that its signature covers. -/
def FlashRec.bytes (x : FlashRec) : Bytes := beBytes 4 x.format ++ beBytes 4 x.version ++ beBytes 4 x.count

/-- Whether a flash record is valid: its format is known, and the identity key signed these bytes. -/
def Sec.recordOk (s : Sec) (x : FlashRec) : Bool := x.format == 1 && x.signer == s.seed && x.signed == x.bytes

/-- A flash record signed. -/
def Sec.record (s : Sec) (version count : Nat) : FlashRec :=
  let x : FlashRec := { version := version, count := count % 2 ^ 32 }
  { x with signed := x.bytes, signer := s.seed }

/-- The valid record of a slot. -/
def Sec.slotRec (s : Sec) (i : Nat) : Option FlashRec := (s.slots.getD i none).filter s.recordOk

/-- The number of the slot of the flash record in force (R482): the valid one with the higher RECORD_COUNT. -/
def Sec.slot (s : Sec) : Option Nat :=
  match s.slotRec 0, s.slotRec 1 with
  | none, none => none
  | some _, none => some 0
  | none, some _ => some 1
  | some a, some b => some (if a.count < b.count then 1 else 0)

/-- The effective minimum (R482). -/
def Module.minVersion (m : Module) : Nat :=
  let k := if m.keep.valid then some (m.keep.word 0x3F4) else none
  let f := if m.sec.identityOk then
    m.sec.slot.bind fun i => (m.sec.slotRec i).map (·.version) else none
  match k, f with
  | some a, some b => max a b
  | some a, none => a
  | none, some b => b
  | none, none => (List.range 2).foldl (fun a k => if m.sec.bankSt k == 2 then max a (m.sec.version k) else a) 0

/-- At READY the minimum rises to the running image's SECURITY_VERSION: the keep file first, then the flash slot that
is not in force, which the identity key signs (R483, R475). -/
def Module.raiseMinimum (m : Module) : Module :=
  let v := m.sec.version m.sec.running
  if v ≤ m.minVersion then m
  else
    let m := { m with keep := m.keep.setBytes 0x3F4 (beBytes 4 v) }
    if !m.sec.identityOk then m
    else
      let old := m.sec.slot.getD 1
      let n := ((m.sec.slotRec old).map (·.count)).getD 0
      { m with sec := { m.sec with slots := m.sec.slots.set (1 - old) (some (m.sec.record v (n + 1))) } }

/-- The bank that BOOT_BANK names; A while the keep file is invalid (R478). -/
def Module.bootBank (m : Module) : Nat := m.keep.field 0x3F0 0 0

/-- Whether the boot ROM runs bank k: it verifies (`ok`: as read from flash), and it is not below the minimum. -/
def Module.bankPasses (m : Module) (k : Nat) : Bool := m.sec.bankSt k == 2 && m.minVersion ≤ m.sec.version k

/-- Whether the image of a bank is valid as read from flash. `ok`: the delivered image verifies, or a staged one reads well
(R477). -/
def Bank.reads (x : Bank) (ok : Bool) : Bool := ok && (x.factory || imageValid x.image)

/-- The firmware verification of a start, which tests both banks afresh (R478). `a`, `b`: as in `Bank.reads`. -/
def Module.boot (m : Module) (a b : Bool) : Module :=
  let look (x : Bank) (ok : Bool) : Bank := { x with st := if x.reads ok then 2 else 1 }
  let m := { m with sec := { m.sec with banks := [look (m.sec.banks.getD 0 {}) a, look (m.sec.banks.getD 1 {}) b] } }
  let k := m.bootBank
  let refuse (m : Module) : Module := m.count (mgtBlk 1) 0x108
  let m :=
    if m.bankPasses k then { m with sec := { m.sec with running := k, fallback := false, recovery := false } }
    else
      let m := (refuse m).raise 47 (mgtBlk 1) 0
      if m.bankPasses (1 - k) then
        { m with sec := { m.sec with running := 1 - k, fallback := true, recovery := false } }
      else refuse { m with sec := { m.sec with fallback := true, recovery := true } }
  { m with pwr := { m.pwr with booted := true } }

end Sys2Proof.Machine
end

