-- ==== Sys2Proof/Machine/Sources.lean ====
section
/-!
DEFINITION. The choice of the time source (R411 to R413), the states of the time block, and the side-band allow list
(R486), which also guards PTP.
-/
namespace Sys2Proof.Machine

/-! ### The side-band allow list (R486) -/

/-- Whether the first `n` bits of two addresses are equal. -/
def samePrefix (n : Nat) (a b : Bytes) : Bool :=
  beNat (padTo 16 a) / 2 ^ (128 - min n 128) == beNat (padTo 16 b) / 2 ^ (128 - min n 128)

/-- KIND of an address: 4 or 6. -/
def addrKind (a : Bytes) : Nat := if a.length == 4 then 4 else 6

/-- A link-local source: fe80::/10 or 169.254.0.0/16. -/
def linkLocalAddr (a : Bytes) : Bool :=
  if a.length == 4 then byteAt a 0 == 169 && byteAt a 1 == 254
  else byteAt a 0 == 0xFE && byteAt a 1 / 64 == 2

/-- Entry k of the side-band allow list: its 20 bytes. -/
def Module.allowEntry (m : Module) (k : Nat) : Bytes := m.keep.read (0x060 + 20 * k) 20

/-- Whether a source address is admitted. -/
def Module.sideAllowed (m : Module) (a : Bytes) : Bool :=
  let l := ((List.range 16).map m.allowEntry).filter fun e => byteAt e 0 != 0
  if l.isEmpty || !m.keep.valid then linkLocalAddr a
  else l.any fun e => byteAt e 0 == addrKind a && samePrefix (byteAt e 1) (e.drop 4) a

/-- The interface identifier of the side-band port: its MAC address as a modified EUI-64. -/
def sideEui : Bytes :=
  let b := (List.range 6).map Config.mac
  (b.take 1).map (· ^^^ 2) ++ slice b 1 2 ++ [0xFF, 0xFE] ++ b.drop 3

/-- The IP addresses that the side-band port holds: its link-local ones always, and those of the keep file that are set
(R512). -/
def Module.sideAddrs (m : Module) : List Bytes :=
  [[0xFE, 0x80] ++ zeros 6 ++ sideEui,
   [169, 254, BitVec.ofNat 8 (1 + Config.linkLocal4 % 254), BitVec.ofNat 8 (Config.linkLocal4 / 254)]] ++
  ([m.keep.read 0x1A0 4, m.keep.read 0x1B0 16].filter fun a => !allZero a)

/-! ### States and sources -/

/-- SLEW_PPM in ppb: the limit of the rate correction (R409, R415). -/
def Module.slewLim (m : Module) : Int := m.reg (mgtBlk 2) 0x010 0 * 1000
/-- PTP_EN, FABRIC_EN and ROOT_FREE. -/
def Module.ptpEn (m : Module) : Bool := m.keep.field 0x018 0 0 == 1
def Module.fabricEn (m : Module) : Bool := m.keep.field 0x018 1 1 == 1
def Module.rootFree (m : Module) : Bool := m.keep.field 0x018 2 2 == 1

/-- FTC_VALID and HOPS as sent in TIME (*Time states*). -/
def Module.validSent (m : Module) : Bool := m.time.st == 2 || m.time.st == 3 || (m.time.st == 4 && m.rootFree)
def Module.hopsSent (m : Module) : Nat :=
  if m.time.st == 2 || m.time.st == 3 then m.time.hops else if m.time.st == 4 && m.rootFree then 0 else 0xFF

/-- The source shown: the present one, and in HOLDOVER the last. -/
def Time.shown (t : Time) : Nat := match t.source with | some s => s | none => if t.st == 3 then t.last else 0
/-- SOURCE_PTP and SOURCE_PORT. -/
def Time.isPtp (t : Time) : Bool := t.shown == 256
def Time.port (t : Time) : Nat := if t.shown < 256 then t.shown else 0

/-- A change of the time state: one TIME_STATE event (R413), and TIME_UNLOCKED follows it. -/
def Module.timeState (m : Module) (st : Nat) : Module :=
  if m.time.st == st then m
  else
    let old := m.time.st
    let m := { m with time := { m.time with st := st, since := m.ticks, everLocked := m.time.everLocked || st == 2,
                                            locked := m.time.locked || st == 2 } }
    let m := m.event 0x0801 (beBytes 1 old ++ beBytes 1 st ++ beBytes 1 m.hopsSent ++ beBytes 1 m.time.port ++
      beBytes 1 (b2n m.time.isPtp) ++ zeros 11 ++ beBytes 8 m.now)
    m.level 46 (mgtBlk 2) 0 (st == 3 || st == 4)

/-- Whether a neighbour is a candidate source (R411). -/
def Module.candPort (m : Module) (p : Nat) : Bool :=
  let x := m.port p
  m.fabricEn && m.active p && (match x.timeAt with | some t => m.ticks ≤ t + ms 3 | none => false) && x.timeValid &&
  x.timeHops < m.reg (mgtBlk 2) 0x008 0

/-- Whether a source is a candidate: a port, or 256 for PTP. -/
def Module.candidate (m : Module) (s : Nat) : Bool :=
  if s == 256 then m.ptpEn && m.time.ptpMaster.isSome else m.candPort s

/-- The choice of R412: PTP, else the candidate with the lowest HOPS and among equals the lowest port. -/
def Module.bestSource (m : Module) : Option Nat :=
  if m.candidate 256 then some 256
  else (sortBy (fun p => (m.port p).timeHops * 256 + p) (m.ports.keys.filter fun p => p < 256 && m.candPort p)).head?

/-- HOPS under a source. -/
def Module.hopsUnder (m : Module) (s : Nat) : Nat := if s == 256 then 0 else (m.port s).timeHops + 1

/-- A source is taken: SOURCE_CHANGES counts, and the samples of the source before it are forgotten. -/
def Module.takeSource (m : Module) (s : Nat) : Module :=
  let t := { m.time with source := some s, last := s, better := none, good := 0, deltas := [], hops := m.hopsUnder s }
  let m := { m with time := t }
  m.count (mgtBlk 2) 0x510

/-- The module in a state without a source takes one at once (R413). -/
def Module.adopt (m : Module) (s : Nat) : Module :=
  if m.time.st == 1 then m.takeSource s
  else if m.time.st == 3 || (m.time.st == 4 && m.time.locked) then (m.takeSource s).timeState 2
  else if m.time.st == 4 then
    let m := m.takeSource s
    ({ m with time := { m.time with stepped := false } }).timeState 1
  else m

/-- The source dropped: HOLDOVER from LOCKED. -/
def Module.loseSource (m : Module) : Module :=
  let m := { m with time := { m.time with source := none, better := none, good := 0 } }
  if m.time.st == 2 then m.timeState 3
  else if m.time.st == 1 then { m with time := { m.time with since := m.ticks } } else m

/-- The source examined again after a change of the candidates (R411, R412). -/
def Module.reselect (m : Module) : Module :=
  if m.time.st == 0 then m
  else
    let m := match m.time.source with
      | some s => if m.candidate s then m else m.loseSource
      | none => m
    match m.time.source, m.bestSource with
    | none, some s => m.adopt s
    | some s, some b =>
      let m := { m with time := { m.time with hops := m.hopsUnder s } }
      if b == s then { m with time := { m.time with better := none } }
      else
        match m.time.better with
        | some (c, _) => if c == b then m else { m with time := { m.time with better := some (b, m.ticks) } }
        | none => { m with time := { m.time with better := some (b, m.ticks) } }
    | _, none => m

end Sys2Proof.Machine
end

