-- ==== Sys2Proof/Machine/Reserve.lean ====
section
/-!
DEFINITION. Tiles of memory and their checks (R306, R326), and the layout of the fabric reserve: which stack holds which of
its tiles, the slots of the Calm sinks, the places of the Windsock rings, and what is retired of it (R307, R308, R329).
-/
namespace Sys2Proof.Machine

/-! ### Keys -/

/-- Keys: an extent of a unit, a tile of an extent, and the address of a tile's first byte in memory. -/
def extKey (e : Nat × Nat) : Nat := e.1 * 2 ^ 20 + e.2
def tileKey (e : Nat × Nat) (t : Nat) : Nat := e.1 * 2 ^ 29 + e.2 * 2 ^ 10 + t
def tileAddr (k : Nat) : Nat := 2 ^ 48 + k * 2048
/-- The unit that holds a tile key of the store. -/
def tileUnit (k : Nat) : Nat := k / 2 ^ 29
/-- Key of a tile of the fabric reserve. -/
def resKey (tile : Nat) : Nat := 2 ^ 48 + tile

/-! ### The reserve's layout -/

def Module.collReg (m : Module) (off lo : Nat) : Nat := m.reg (hubBlk 1) off lo

/-- First tile of the staging area, which follows the retention area, and the end of the staging area. -/
def Module.stageBase (m : Module) : Nat := m.collReg 0x004 0 * 2 ^ 19
def Module.stageEnd (m : Module) : Nat := m.stageBase + m.collReg 0x008 0 * 2 ^ 19

/-- Bytes of a capture ring of a RING_SIZE_LOG2; 0: no ring. -/
def ringSize (n : Nat) : Nat := if n == 0 then 0 else 2 ^ n

/-- Bytes of a die's ring, and of the Windsock rings together. -/
def Module.ringLen (m : Module) (d : Nat) : Nat := ringSize (m.die d).ring.sizeLog2
def Module.ringBytes (m : Module) : Nat := (List.range 8).foldl (fun a d => a + m.ringLen d) 0

/-- The reserve's first byte, and the tile in which the Calm sinks begin. -/
def resBase : Nat := 0x00F000000000
def sinkTile : Nat := 0xFC0000000 / 2048

/-- The die whose ring holds a tile of the reserve. -/
def Module.ringOf (m : Module) (tile : Nat) : Option Nat :=
  leastBelow 8 fun d => (m.die d).ring.base ≤ resBase + 2048 * tile && resBase + 2048 * tile < (m.die d).ring.base + m.ringLen d

/-- The stack that holds a tile of the reserve: retention, staging and the tables interleave over all 16; a die's Calm sink
and ring over the die's own two (R307; the order of the tiles is log entry 101). -/
def Module.resUnit (m : Module) (tile : Nat) : Nat :=
  if sinkTile ≤ tile then 2 * ((tile - sinkTile) / 65536 % 8) + tile % 2
  else match m.ringOf tile with
    | some d => 2 * d + tile % 2
    | none => tile % 16

/-- The extent of its stack in which a tile of the reserve lies: the upper 2,048 of 32,768. -/
def Module.resExt (m : Module) (tile : Nat) : Nat × Nat :=
  (m.resUnit tile, 30720 + (if sinkTile ≤ tile then 2016 + (tile - sinkTile) % 65536 / 2048 else tile / 16384))

/-- Whether a tile of the reserve lies in a retired extent. -/
def Module.resGone (m : Module) (tile : Nat) : Bool := m.store.resOut.get (extKey (m.resExt tile))

/-- Tiles between two tiles of the interleaved part, multiples of 16,384, that are out of use. -/
def Module.resLack (m : Module) (lo hi : Nat) : Nat :=
  1024 * (m.store.resOut.keys.filter fun k =>
    let i := k % 2 ^ 20 - 30720
    i < 2016 && lo ≤ 16384 * i && 16384 * i < hi).length

/-- The unit that holds a tile of the store or of the reserve. -/
def Module.unitOf (m : Module) (k : Nat) : Nat := if k < 2 ^ 48 then tileUnit k else m.resUnit (k - 2 ^ 48)

/-! ### Accesses and checks -/

/-- A tile read, and a tile written, counted at its controller. -/
def Module.countRead (m : Module) (k : Nat) (n : Nat := 1) : Module := m.count (memBlk (m.unitOf k)) 0x100 n
def Module.countWrite (m : Module) (k : Nat) (n : Nat := 1) : Module := m.count (memBlk (m.unitOf k)) 0x108 n

/-- Whether a tile is poisoned. -/
def Module.isPoisoned (m : Module) (k : Nat) : Bool := m.store.poisoned.get k

/-- Single bits changed in cells of the packet buffers (R135). -/
def Module.strikeCells (m : Module) (l : List (Nat × Nat)) : Module :=
  l.foldl (fun (m : Module) x =>
    let d := x.1 % 8
    m.setDie d { m.die d with soft := if (m.die d).soft.contains x.2 then (m.die d).soft else x.2 :: (m.die d).soft }) m

/-- What has befallen the memory and the packet buffers, as an operand says it. -/
def Module.strike (m : Module) (c : EccIn) : Module :=
  c.hits.foldl (fun (m : Module) x =>
    if 1 ≤ x.2 && x.2 ≤ 3 then { m with store := { m.store with damaged := m.store.damaged.put x.1 x.2 } } else m)
    (m.strikeCells c.cells)

/-- A tile written whole: a new CRC-32C, and no error. -/
def Module.freshTile (m : Module) (k : Nat) : Module :=
  { m with store := { m.store with damaged := m.store.damaged.del k, poisoned := m.store.poisoned.del k } }

/-- A tile found bad at a use: poisoned, counted and reported (R326). -/
def Module.poison (m : Module) (handle tile k use : Nat) : Module :=
  let u := m.unitOf k
  let m := { m with store := { m.store with poisoned := m.store.poisoned.put k true } }
  let m := m.count (memBlk u) 0x118
  (m.event 0x0601 (beBytes 4 handle ++ beBytes 4 tile ++ beBytes 1 u ++ beBytes 1 use ++ zeros 6 ++ beBytes 8 m.now)).raise
    28 (memBlk u) 0

/-- The check of a tile at a use (R306, R326): an error of one symbol is corrected and counted; an error that ECC cannot
correct raises the controller's source, and like a wrong CRC-32C poisons the tile, unless it is poisoned already. -/
def Module.check1 (m : Module) (handle tile k use : Nat) : Module :=
  let u := m.unitOf k
  let d := m.store.damaged.get k
  if d == 0 then m
  else if d == 1 then
    ({ m with store := { m.store with damaged := m.store.damaged.del k } }).count (memBlk u) 0x110
  else if m.isPoisoned k then m
  else (if d == 2 then m.raise (if u < 16 then 29 else 34) (memBlk u) 0 else m).poison handle tile k use

/-- The last user of a tile of the reserve frees it: where it is poisoned, its extent is retired (R329). -/
def Module.freeRes (m : Module) (tile : Nat) : Module :=
  if !m.isPoisoned (resKey tile) then m
  else
    let e := m.resExt tile
    let n := if m.store.resOut.get (extKey e) then 0 else 1
    { m with store := { m.store with
      poisoned := m.store.poisoned.del (resKey tile), damaged := m.store.damaged.del (resKey tile)
      resOut := m.store.resOut.put (extKey e) true
      units := m.store.units.upd e.1 fun u => { u with retired := u.retired + n } } }

/-! ### The Calm sinks (R161) -/

/-- The two tiles of a slot. -/
def slotTile (d s : Nat) : Nat := sinkTile + 65536 * d + 2 * s

/-- The lowest free slot of a die's sink (DESIGN CHOICE, log entry 101). -/
def Module.sinkSlot (m : Module) (d : Nat) : Option Nat :=
  let x := (m.die d).sink
  leastBelow (min sinkSlots (x.length + 1 + 1024 * m.store.resOut.cells.length)) fun s =>
    !x.any (·.1 == s) && !m.resGone (slotTile d s) && !m.resGone (slotTile d s + 1)

/-- Whether a die's sink has no free slot. -/
def Module.sinkFull (m : Module) (d : Nat) : Bool := (m.sinkSlot d).isNone

/-- Tiles of a slot that a packet takes. -/
def slotTiles (d s : Nat) (p : Pkt) : List Nat := (List.range (ceilDiv p.h.linkLen 2048)).map (slotTile d s + ·)

/-- A packet leaves its slot: a poisoned tile of it is retired, and the sink is no longer full. -/
def Module.freeSlot (m : Module) (d s : Nat) : Module :=
  let x := m.die d
  let m := m.setDie d { x with sink := x.sink.filter (·.1 != s), early := x.early.filter (· != .sink s) }
  let m := (m.freeRes (slotTile d s)).freeRes (slotTile d s + 1)
  if m.sinkFull d then m else m.level 18 (swBlk d 6) 0 false

/-! ### The Windsock rings (R308) -/

/-- Where the rings may lie: behind retention and staging, and before the object table (R307). -/
def Module.ringLow (m : Module) : Nat := resBase + 2048 * m.stageEnd
def ringTop : Nat := 0x00FFB0000000

/-- Whether a range of the reserve holds no retired extent. -/
def Module.resWhole (m : Module) (a n : Nat) : Bool :=
  m.store.resOut.cells.isEmpty ||
  (List.range (ceilDiv n (2 ^ 25) + 1)).all fun j =>
    m.store.resOut.keys.all fun k => k % 2 ^ 20 - 30720 != (a - resBase) / 2 ^ 25 + j

/-- The highest place for a die's ring that meets no other ring (DESIGN CHOICE, log entry 9: firmware places the rings). -/
def Module.ringFit (m : Module) (d : Nat) : Option Nat :=
  let size := m.ringLen d
  let rings := ((List.range 8).filter fun k => k != d && m.ringLen k != 0).map fun k =>
    ((m.die k).ring.base, (m.die k).ring.base + m.ringLen k)
  if size == 0 then some 0
  else (((sortBy id (ringTop :: rings.map (·.1))).reverse.map (· - size)).find? fun a =>
    m.ringLow ≤ a && m.resWhole a size && rings.all fun x => a + size ≤ x.1 || x.2 ≤ a)

/-- A die's ring given up: its poisoned tiles are retired. -/
def Module.dropRing (m : Module) (d : Nat) : Module :=
  let g := (m.die d).ring
  let l := m.store.poisoned.keys.filter fun k =>
    2 ^ 48 ≤ k && g.base ≤ resBase + 2048 * (k - 2 ^ 48) && resBase + 2048 * (k - 2 ^ 48) < g.base + m.ringLen d
  let m := l.foldl (fun m k => m.freeRes (k - 2 ^ 48)) m
  m.setDie d { m.die d with ring := {} }

/-- The rings packed one below the other from the end of their range, where they fit by R308; one that moves is empty. -/
def Module.packRings (m : Module) : Module :=
  ((List.range 8).foldl (fun (x : Module × Nat) d =>
    let m := x.1
    let g := (m.die d).ring
    let a := if g.sizeLog2 == 0 then 0 else x.2 - m.ringLen d
    (if g.base == a then m
     else (m.dropRing d).setDie d { m.die d with ring := { sizeLog2 := g.sizeLog2, base := a } },
     x.2 - m.ringLen d)) (m, ringTop)).1

/-! ### What a tile of the reserve takes with it (R329) -/

/-- A tile of the reserve has been found bad: a packet in a Calm sink that it held is discarded, and so are the records of a
Windsock ring. Retention and staging meet the poison at their use. -/
def Module.resLoss (m : Module) (tile : Nat) : Module :=
  if sinkTile ≤ tile then
    let d := (tile - sinkTile) / 65536 % 8
    let s := (tile - sinkTile) % 65536 / 2
    match (m.die d).sink.find? (·.1 == s) with
    | some x => if (slotTiles d s x.2).contains tile then m.freeSlot d s else m
    | none => m
  else if (m.ringOf tile).isSome then { m with mem := m.mem.erase (resBase + 2048 * tile) 2048 }
  else m

/-- The check of a tile of the reserve at a use. -/
def Module.checkRes (m : Module) (tile use : Nat) : Module :=
  let x := m.check1 0 tile (resKey tile) use
  if !m.isPoisoned (resKey tile) && x.isPoisoned (resKey tile) then x.resLoss tile else x

end Sys2Proof.Machine
end

