-- ==== Sys2Proof/Machine/Buffers.lean ====
section
/-!
DEFINITION. Packet buffers, credits and queues: allocation and freeing of cells (R127 to R132), return of credit (R65),
descriptors and their queues (R174 to R178), Windsock records (R140 to R142).
-/
namespace Sys2Proof.Machine

/-! ### Cells (R127, R133) -/

/-- The first `n` set bits of a bitmap, by find-first-free (R133). -/
def firstFree (b : BitVec 262144) (n : Nat) : List Nat := ((List.range 262144).filter fun c => b.getLsbD c).take n

/-- A bitmap with the bits of cells set or cleared. -/
def setCells (b : BitVec 262144) (l : List Nat) (on : Bool) : BitVec 262144 :=
  let mask := l.foldl (fun (a : BitVec 262144) i => a ||| (1#262144 <<< i)) 0
  if on then b ||| mask else b &&& ~~~mask

/-- What an allocation gives: the die after it, the cells in chain order, the chains used, and whether a larger pool
served or smaller ones were linked. -/
structure Taken where
  x : Die := {}
  cells : List Nat := []
  chains : Nat := 1
  fall : Bool := false
  linked : Bool := false

/-- One chain off a pool: its first `c` cells are used, and the others go to the small pool. -/
def Die.unlink (x : Die) (chain : List Nat) (c : Nat) (fall : Bool) : Taken :=
  { x := { x with small := chain.drop c ++ x.small }, cells := chain.take c, fall := fall }

/-- `c` cells taken from the pools (R127): one chain that fits, else one of the next larger pool, else chains linked from
the smaller pools, medium chains before small ones (DESIGN CHOICE, log entry 90). While the bitmap is in use, the first
free cells. `none` when fewer than `c` cells are free. -/
def Die.take (x : Die) (c : Nat) : Option Taken :=
  if x.mode != 2 then
    let l := firstFree x.bitmap c
    if l.length < c then none
    else some { x := { x with bitmap := setCells x.bitmap l false }, cells := l, chains := c }
  else if x.freeCells < c then none
  else if c ≤ 1 && !x.small.isEmpty then some { x := { x with small := x.small.drop 1 }, cells := x.small.take 1 }
  else if c ≤ 4 && !x.medium.isEmpty then some ({ x with medium := x.medium.drop 1 }.unlink (x.medium.headD []) c (c ≤ 1))
  else if !x.large.isEmpty then some ({ x with large := x.large.drop 1 }.unlink (x.large.headD []) c (c ≤ 4))
  else
    let k := min x.medium.length (ceilDiv c 4)
    let got := (x.medium.take k).flatten
    let more := x.small.take (c - got.length)
    some { x := { x with medium := x.medium.drop k, small := got.drop c ++ x.small.drop (c - got.length) },
           cells := got.take c ++ more, chains := k + more.length, linked := true }

/-- Cells freed: each a small chain, or its bit while the bitmap is in use; a retired cell stays out (R127, R135). What
stood in them is lost, with its changed bits. -/
def Die.free (x : Die) (l : List Nat) : Die :=
  let x := { x with soft := x.soft.filter fun c => !l.contains c }
  let l := l.filter fun c => !x.retired.contains c
  if x.mode == 2 then { x with small := l ++ x.small } else { x with bitmap := setCells x.bitmap l true }

/-! ### Credit (R65, R132) -/

/-- Held returns of a port join CREDIT_RET where nothing withholds or delays them: the link is ACTIVE, its FIFO does not
pause it, and no cause of R132 holds for the VC. -/
def Module.creditFlush (m : Module) (p : Nat) : Module :=
  let w := m.wire p
  if (m.link p).st != 6 || w.paused || w.held.all (· == 0) then m
  else
    let go (v : Nat) : Bool := !m.withholds p v
    m.setWire p { w with
      ret := (List.range 8).map fun v => if go v then (w.ret.getD v 0 + w.held.getD v 0) % 65536 else w.ret.getD v 0,
      held := (List.range 8).map fun v => if go v then 0 else w.held.getD v 0 }

/-- WITHHOLDING follows its causes on a die, and an entry counts (R132). -/
def Module.followHold (m : Module) (d : Nat) : Module :=
  let on := m.withholdsAny d
  let x := m.die d
  if on == x.withholding then m
  else
    let m := m.setDie d { x with withholding := on }
    if on then m.count (swBlk d 4) 0x118 else m

/-- UNBACKED follows FREE_CELLS < EXPOSURE on a die, with its level source; WITHHOLDING follows it (R132). -/
def Module.followBacked (m : Module) (d : Nat) : Module :=
  let x := m.die d
  let low := x.mode == 2 && x.freeCells < m.exposure d
  (if low == x.unbacked then m
   else (m.setDie d { x with unbacked := low }).level 13 (swBlk d 4) 0 low).followHold d

/-- The free cells, the exposure or a cause of withholding of a die has changed: its bits follow, the returns that nothing
withholds any more go, and the bits follow the exposure that this leaves (R131, R132). -/
def Module.checkBacked (m : Module) (d : Nat) : Module :=
  ((diePorts d).foldl (fun m p => m.creditFlush p) (m.followBacked d)).followBacked d

/-- Causes of withholding have changed on every die. -/
def Module.checkHolds (m : Module) : Module := (List.range 8).foldl (fun m d => m.checkBacked d) m

/-- Cells allocated on a die, with their numbers; `none` where fewer are free. -/
def Module.alloc (m : Module) (d c : Nat) : Option (Module × List Nat) :=
  match (m.die d).take c with
  | none => none
  | some t =>
    let m := (m.setDie d t.x).count (swBlk d 4) 0x100 t.chains
    let m := if t.fall then m.count (swBlk d 4) 0x108 else m
    some (if t.linked then m.count (swBlk d 4) 0x110 else m, t.cells)

/-- Credit for cells of a VC freed on a port: returned to the neighbour as soon as nothing withholds or delays it. -/
def Module.creditReturn (m : Module) (p v c : Nat) : Module :=
  (m.setWire p { m.wire p with held := (m.wire p).held.modify v (· + c) }).creditFlush p

/-! ### Buffered packets -/

/-- The payload and the trailer of a packet discarded at its header are dropped, what has come of them and what is to
come (`len` payload bytes). -/
def Module.skipRest (m : Module) (p len : Nat) : Module :=
  let w := m.wire p
  m.setWire p { w with arriving := none, rxq := w.rxq.drop (len + 8), rxSkip := w.rxSkip + (len + 8 - w.rxq.length) }

/-- The buffered packet of an identifier. -/
def Module.bp (m : Module) (id : Nat) : Option BPkt := m.net.pkts.find? (·.id == id)

/-- A buffered packet changed. -/
def Module.updBp (m : Module) (id : Nat) (f : BPkt → BPkt) : Module :=
  { m with net := { m.net with pkts := m.net.pkts.map fun b => if b.id == id then f b else b } }

/-- Cells that a packet occupies. -/
def BPkt.cells (b : BPkt) : Nat := b.chain.length

/-- A buffered packet leaves the buffer: its cells are freed, and their credit returns to its port, also that of a
retired cell (DESIGN CHOICE, log entry 90: R132 names cell retirement among the reasons of withholding and says no more
of it). What is still to come of a packet that arrives is dropped as it comes. -/
def Module.freeBp (m : Module) (id : Nat) : Module :=
  match m.bp id with
  | none => m
  | some b =>
    let m := { m with net := { m.net with pkts := m.net.pkts.filter (·.id != id) } }
    let x := (m.die b.die).free b.chain
    let m := m.setDie b.die { x with localQ := x.localQ.filter (· != id), early := x.early.filter (· != .buf id) }
    let m := match b.inPort with
      | some p =>
        let w := m.wire p
        let m := m.setWire p { w with charged := w.charged - b.cells }
        let m := if w.arriving == some id then m.skipRest p b.pkt.h.len else m
        m.creditReturn p b.asArrived.vc b.cells
      | none => m
    m.checkBacked b.die

/-- The single bits changed in the cells of a packet that is read are corrected, and ECC_CORRECTED counts each (R135). -/
def Module.correctCells (m : Module) (b : BPkt) : Module :=
  let x := m.die b.die
  let n := (b.chain.filter fun c => x.soft.contains c).length
  if n == 0 then m
  else (m.setDie b.die { x with soft := x.soft.filter fun c => !b.chain.contains c }).count (swBlk b.die 4) 0x120 n

/-- The same for the packet that waits under an identifier. -/
def Module.correctOf (m : Module) (id : Option Nat) : Module :=
  match id.bind m.bp with
  | some b => m.correctCells b
  | none => m

/-- A packet with no copy left, not waiting for a local target, is freed (R123). -/
def Module.settle (m : Module) (id : Nat) : Module :=
  match m.bp id with
  | some b => if b.copies.isEmpty && !b.here && !b.parked && !b.mcast && (b.whole || b.bad) then m.freeBp id else m
  | none => m

/-! ### Descriptor queues (R174, R178) -/

/-- Key of the queue of an egress port, VC and flow queue. -/
def qKey (p v f : Nat) : Nat := (8 * p + v) * 64 + f
def qPort (k : Nat) : Nat := k / 512
def qVc (k : Nat) : Nat := k / 64 % 8
def qFlow (k : Nat) : Nat := k % 64

/-- The flow queue of a partition on a VC at an egress port (R174). -/
def Module.flowOf (m : Module) (p v part : Nat) : Nat :=
  if v < 2 then 0 else m.reg (swBlk (p / 32) 6) (0x4000 + 4 * part) 0

/-- Depth q in cells of an output queue, egress port and VC (R137). -/
def Module.depth (m : Module) (p v : Nat) : Nat :=
  (m.net.queues.cells.filter fun c => c.1 / 64 == 8 * p + v).foldl (fun a c =>
    c.2.foldl (fun a id => a + ((m.bp id).map (·.cells)).getD 0) a) 0

/-- Serial-number order of tags modulo 2^48 (R178). -/
def tagLe (a b : Nat) : Bool := (b + 2 ^ 48 - a % 2 ^ 48) % 2 ^ 48 < 2 ^ 47

/-- Length L of a queued packet's copy. -/
def Module.lenOf (m : Module) (id : Nat) : Nat := ((m.bp id).map fun b => b.pkt.h.linkLen).getD 0

/-- The shapers of a die that target a queue or its VC, enabled (R183). -/
def Module.shapersOf (m : Module) (k : Nat) : List Nat :=
  let d := qPort k / 32
  let j := qPort k % 32
  (m.net.shapers.keys.filter fun s =>
    s / 2048 == d && (m.net.shapers.get s).on &&
    let w (hi lo : Nat) : Nat := bits (m.reg (swBlk d 6) (0x10000 + 16 * (s % 2048)) lo) (hi - lo) 0
    w 4 0 == j && w 7 5 == qVc k && (w 14 14 == 1 || w 13 8 == qFlow k))

/-- Every enabled shaper of a queue has TOKENS ≥ 0. -/
def Module.shaped (m : Module) (k : Nat) : Bool := (m.shapersOf k).all fun s => 0 ≤ (m.net.shapers.get s).tokens

/-- A queue has a new head: its wait starts, and its finish tag is set (R158, R178). -/
def Module.newHead (m : Module) (k : Nat) : Module :=
  match (m.net.queues.get k).head? with
  | none => { m with net := { m.net with heads := m.net.heads.del k } }
  | some id =>
    let m := { m with net := { m.net with
      heads := m.net.heads.put k { since := m.ticks, waited := 0, suspended := !m.shaped k } } }
    let p := qPort k
    let v := qVc k
    if v < 2 then m
    else
      let s := (m.port p).sched
      let vt := s.vtime.getD v 0
      let old := s.tags.get (64 * v + qFlow k)
      let start := if tagLe vt old then old else vt
      let w := m.reg (swBlk (p / 32) 6) (0x2800 + 4 * (64 * (v - 2) + qFlow k)) 0
      m.setSched p { s with tags := s.tags.put (64 * v + qFlow k) ((start + m.lenOf id * 65536 / w) % 2 ^ 48) }

/-- A descriptor joins the tail of its queue (step 7 of *Lookup steps*). -/
def Module.enqueue (m : Module) (id : Nat) (c : Copy) : Module :=
  let k := qKey c.port c.vc c.fq
  let q := m.net.queues.get k
  let m := (m.updBp id fun b => { b with copies := b.copies ++ [c] })
  let m := { m with net := { m.net with queues := m.net.queues.put k (q ++ [id]) } }
  if q.isEmpty then m.newHead k else m

/-- A descriptor leaves its queue. -/
def Module.unqueue (m : Module) (id k : Nat) : Module :=
  let q := m.net.queues.get k
  let m := { m with net := { m.net with queues := m.net.queues.put k (q.erase id) } }
  if q.head? == some id then m.newHead k else m

/-- Whether every flow queue of a VC of a port is empty. -/
def Module.vcEmpty (m : Module) (p v : Nat) : Bool :=
  (m.net.queues.cells.filter fun c => c.1 / 64 == 8 * p + v).all fun c => c.2.isEmpty

/-- A turn of the deficit round robin ends between two packets where its VC has become empty: the deficit is lost (R177). -/
def Module.closeTurn (m : Module) (p : Nat) : Module :=
  let s := (m.port p).sched
  if s.inTurn && (m.wire p).sending.isNone && m.vcEmpty p s.turn then
    m.setSched p { s with turn := if s.turn == 7 then 2 else s.turn + 1, inTurn := false, deficit := s.deficit.set s.turn 0 }
  else m

/-- A copy that has not begun is dropped from its queue and its packet. -/
def Module.dropCopy (m : Module) (id : Nat) (c : Copy) : Module :=
  ((m.unqueue id (qKey c.port c.vc c.fq)).closeTurn c.port).updBp id fun b =>
    { b with copies := b.copies.filter fun x => x != c }

/-- Every copy of a packet that has not begun is dropped. -/
def Module.dropUnbegun (m : Module) (id : Nat) : Module :=
  match m.bp id with
  | none => m
  | some b => (b.copies.filter fun c => !c.begun).foldl (fun m c => m.dropCopy id c) m

/-! ### Windsock (R140 to R142) -/

/-- A WINDSOCK control bit of a die. -/
def Module.wsBit (m : Module) (d lo : Nat) : Nat := m.reg (swBlk d 8) 0x000 lo

/-- Whether a header meets an enabled filter of a die's TRIG_MATCH. -/
def Module.wsMatch (m : Module) (d : Nat) (h : Hdr) : Bool :=
  (List.range 4).any fun f =>
    bitAt (m.wsBit d 4) f &&
    h.words.zipIdx.all fun (w, k) =>
      (w.toNat &&& m.reg (swBlk d 8) (0x120 + 0x40 * f + 4 * k) 0) == m.reg (swBlk d 8) (0x100 + 0x40 * f + 4 * k) 0

/-- What a record says beside the header (*Windsock record*). -/
structure WsRec where
  d : Nat := 0
  inPort : Nat := 0
  ftc : Nat := 0
  outPort : Nat := 0
  outVc : Nat := 0
  outKind : Nat := 0
  reason : Nat := 0
  tail : Nat := 0
  depth : Nat := 0
  step : Nat := 0

/-- The 64 bytes of a record. -/
def WsRec.bytes (r : WsRec) (h : Hdr) (seq : Nat) : Bytes :=
  h.bytes ++ beBytes 8 r.ftc ++ beBytes 1 r.inPort ++ beBytes 1 (if r.outKind == 0 then r.outPort else 0) ++
  beBytes 1 (r.outVc + 16 * r.outKind) ++ beBytes 1 r.reason ++ beBytes 4 r.tail ++ beBytes 4 r.depth ++
  beBytes 1 r.step ++ beBytes 1 r.d ++ zeros 2 ++ beBytes 8 seq

/-- Whether a record is to be made: enabled block and port, at least one trigger (R140). -/
def Module.triggered (m : Module) (r : WsRec) : Bool :=
  m.wsBit r.d 0 != 0 && bitAt (m.reg (swBlk r.d 8) 0x018 0) (r.inPort % 32) && r.reason != 0

/-- A record captured, the ring not stopped (R140, R141). A record that comes sooner than 10 ns after the last may be left
out, with its number and its slot passed over (R142). WS_LOST stops at all ones (R11). -/
def Module.capture (m : Module) (r : WsRec) (h : Hdr) : Module :=
  let g := (m.die r.d).ring
  if !m.triggered r || g.stopped || g.sizeLog2 == 0 then m
  else
    let slots := 2 ^ g.sizeLog2 / 64
    let stop := m.wsBit r.d 1 == 1
    if stop && slots ≤ g.seq then m.setDie r.d { m.die r.d with ring := { g with stopped := true } }
    else
      let slow := g.last.any (fun t => m.ticks < t + 40) && Config.ringSlow r.d g.seq
      let mem := m.mem.write (g.base + g.seq % slots * 64) (r.bytes h g.seq)
      let m := if slow then m
        else ({ m with mem := mem }).countWrite (resKey ((g.base + g.seq % slots * 64 - resBase) / 2048))
      m.setDie r.d { m.die r.d with ring := { g with
        seq := g.seq + 1, written := g.seq + 1, lost := min (g.lost + b2n slow) (2 ^ 32 - 1), stopped := stop && slots ≤ g.seq + 1,
        last := if slow then g.last else some m.ticks } }

/-- The drop trigger for a packet discarded at a step of *Lookup steps* (8: CRC_DISCARD, 9: tail drop). A packet discarded
at step 4 itself is recorded with OUT_KIND 2, since no egress was chosen for it (DESIGN CHOICE, log entry 91). -/
def Module.captureDrop (m : Module) (d inPort : Nat) (h : Hdr) (ftc step : Nat) (others : Nat := 0)
    (outPort : Nat := 0) (outVc : Nat := 0) (kind : Nat := 2) (depth : Nat := 0) : Module :=
  m.capture { d := d, inPort := inPort, ftc := ftc, outPort := outPort, outVc := outVc, outKind := kind,
              reason := others + 4 * m.wsBit d 2, step := step, depth := depth } h

/-- The one record of a buffered packet that came by a port (R140). -/
def Module.record (m : Module) (b : BPkt) (r : WsRec) : Module :=
  let r := { r with d := b.die, inPort := b.inPort.getD 0, ftc := b.ftc }
  if b.inPort.isNone || b.captured || !m.triggered r then m
  else (m.capture r b.asArrived).updBp b.id fun b => { b with captured := true }

/-- A discard at a step recorded in place of a packet's one record (R140). -/
def Module.dropRecord (m : Module) (b : BPkt) (step p v kind q : Nat) : Module :=
  m.record b { outPort := p, outVc := v, outKind := kind, reason := b.why + 4 * m.wsBit b.die 2, step := step, depth := q }

/-- The record of a packet that was sampled or matched, at step 6. -/
def Module.passRecord (m : Module) (b : BPkt) (p v kind q : Nat) : Module :=
  if b.why == 0 then m else m.record b { outPort := p, outVc := v, outKind := kind, reason := b.why, depth := q }

/-- A discarded buffered packet recorded, unless it has its record: where its copy stood, or that it was to be delivered
here (R140). -/
def Module.captureLost (m : Module) (b : BPkt) (step : Nat) : Module :=
  match b.copies.head? with
  | some c => m.dropRecord b step c.port c.vc 0 c.q
  | none => m.dropRecord b step 0 0 (if b.here then 1 else 2) 0

/-! ### Bad packets (R106, R107, R122) -/

/-- A whole packet of which a copy has begun is marked in its trailer with a reason, counted and recorded; one that
arrived marked keeps its tail word (R106). A packet of the module's own counts at the first port group of its die. -/
def Module.putMark (m : Module) (id reason : Nat) : Module :=
  match m.bp id with
  | none => m
  | some b =>
    if bitAt b.pkt.t1.toNat 0 then m
    else
      let g := pgBlk (b.inPort.getD (32 * b.die))
      let t1 := tailWord reason b.asArrived.hop m.chip
      let m := (m.updBp id fun b => { b with pkt := { b.pkt with t1 := t1 } }).count g 0x428
      let m := if reason == 2 then m.raise 9 g 0 else m
      let c := (b.copies.find? (·.begun)).getD {}
      m.record b { outPort := c.port, outVc := c.vc, reason := b.why + 8 * m.wsBit b.die 3, tail := t1.toNat, depth := c.q }

/-- A packet is found bad with a reason (R106, R122, R125): where a copy has begun, its copies that have not begun are
dropped and it is marked in its trailer, at once or when the trailer comes; otherwise it is discarded whole. Its local
copy, where it has one, ends as a bad packet's (R108). -/
def Module.markBad (m : Module) (id reason : Nat) : Module :=
  match m.bp id with
  | none => m
  | some b =>
    if b.copies.any (·.begun) then
      let m := (m.dropUnbegun id).updBp id fun b =>
        { b with bad := true, mcast := false, mark := if b.whole then none else some (b.mark.getD reason) }
      if b.whole then m.putMark id reason else m
    else
      let m := m.dropUnbegun id
      (m.updBp id fun b => { b with bad := true, here := false, parked := false, mcast := false }).freeBp id

/-- The input link of a port is lost while a packet arrives (R107): completed with zero bytes after those that have come,
and marked with reason 3, where forwarding has begun; discarded whole otherwise. T0 is computed over the completed payload
(DESIGN CHOICE, log entry 92). A packet that was found bad before keeps the reason found then (DESIGN CHOICE, log entry 116:
R106 gives it one reason and R107 another). -/
def Module.inputLost (m : Module) (p : Nat) : Module :=
  let w := m.wire p
  let m := m.setWire p { w with arriving := none, filling := false, rxq := [], rxSkip := 0 }
  match w.arriving.bind m.bp with
  | none => m
  | some b =>
    if b.copies.any (·.begun) then
      let pl := padTo b.pkt.h.len (w.rxq.take b.pkt.h.len)
      let m := (m.dropUnbegun b.id).updBp b.id fun b =>
        { b with pkt := { b.pkt with pl := pl, t0 := crc32c pl, t1 := 0 }, whole := true, bad := true, mcast := false }
      m.putMark b.id (b.mark.getD 3)
    else m.markBad b.id 3

/-! ### Crossing the HUB (R124) -/

/-- The HUB channel of a packet: by the port and the VC that it came in on, or as its origin fixes it. -/
def BPkt.hubChan (b : BPkt) : Nat :=
  match b.inPort with
  | some p => (p % 32 + 8 * b.asArrived.vc) % 32
  | none => Config.hubChannel b.die b.pkt.h.type b.asArrived.vc % 32

/-- A packet starts to cross the HUB to an egress port of another die. -/
def Module.hubEnter (m : Module) (b : BPkt) (p : Nat) : Module :=
  if b.die == p / 32 then m
  else
    let e := (b.hubChan, b.id, p)
    let m := m.setDie b.die { m.die b.die with hubOut := (m.die b.die).hubOut ++ [e] }
    m.setDie (p / 32) { m.die (p / 32) with hubIn := (m.die (p / 32)).hubIn ++ [e] }

/-- A packet has crossed, or its copy is abandoned. -/
def Module.hubLeave (m : Module) (id p : Nat) : Module :=
  let out (l : List (Nat × Nat × Nat)) : List (Nat × Nat × Nat) := l.filter fun x => !(x.2.1 == id && x.2.2 == p)
  match m.bp id with
  | none => m
  | some b =>
    if b.die == p / 32 then m
    else
      let m := m.setDie b.die { m.die b.die with hubOut := out (m.die b.die).hubOut }
      m.setDie (p / 32) { m.die (p / 32) with hubIn := out (m.die (p / 32)).hubIn }

/-- Whether a packet that crosses to a local target of another die has its turn: nothing that entered its channel before is
still crossing (R26, R124). -/
def Module.hubFree (m : Module) (b : BPkt) : Bool := (m.die b.die).hubOut.all fun x => x.1 != b.hubChan

/-- Whether a packet that crosses is the first on its channel, on both dies: a channel carries its packets in the order
they enter it. -/
def Module.hubTurn (m : Module) (b : BPkt) (p : Nat) : Bool :=
  b.die == p / 32 ||
  (let first (l : List (Nat × Nat × Nat)) : Bool := (l.find? fun x => x.1 == b.hubChan) == some (b.hubChan, b.id, p)
   first (m.die b.die).hubOut && first (m.die (p / 32)).hubIn)

/-- The transmitter of a port stops in the middle of a packet: that copy is abandoned (R123). -/
def Module.abandon (m : Module) (p : Nat) : Module :=
  match (m.wire p).sending with
  | none => m
  | some id =>
    let m := m.updBp id fun b => { b with copies := b.copies.filter fun c => !(c.begun && c.port == p) }
    ((m.setWire p { m.wire p with sending := none }).hubLeave id p).settle id

end Sys2Proof.Machine
end

