-- ==== Sys2Proof/Machine/Line.lean ====
section
/-!
DEFINITION. The line of a port (R51 to R57): PAM4 levels, the training pattern, link frames of five segments, their
scrambling, their dealing to lanes, the Reed-Solomon code, and the head and tail of a segment. All of it is computed on
lists and numbers; what the transmitter forms and what the receiver reads are these functions.
-/
namespace Sys2Proof.Machine

/-! ### Lane signalling (R51) -/

/-- The PAM4 level of a bit pair, first bit as the higher: Gray-coded 00, 01, 11, 10. -/
def grayLevel (pair : Nat) : Nat := [0, 1, 3, 2].getD (pair % 4) 0
/-- The bit pair of a level. -/
def grayPair (level : Nat) : Nat := [0, 1, 3, 2].getD (level % 4) 0

/-- The five levels of a ten-bit symbol: bits 9 and 8 first. -/
def symLevels (s : Nat) : List Nat :=
  [grayLevel (s / 256), grayLevel (s / 64), grayLevel (s / 16), grayLevel (s / 4), grayLevel s]

/-- The symbol of five levels from place `5 * k` of a lane. -/
def levelSym (l : List Nat) (k : Nat) : Nat :=
  let g (i : Nat) : Nat := grayPair (l.getD (5 * k + i) 0)
  g 0 * 256 + g 1 * 64 + g 2 * 16 + g 3 * 4 + g 4

/-- One step of the generator of PRBS13, 1 + x + x² + x¹² + x¹³ (IEEE 802.3 Clause 120; PRESUMED, log entry 88). -/
def prbs13Step (s : Nat) : Nat :=
  (s * 2 + (b2n (bitAt s 0) + b2n (bitAt s 1) + b2n (bitAt s 11) + b2n (bitAt s 12)) % 2) % 2 ^ 13

/-- `n` bits of PRBS13 from a register. -/
def prbs13 : Nat → Nat → List Nat
  | 0, _ => []
  | n + 1, s => b2n (bitAt s 12) :: prbs13 n (prbs13Step s)

/-- Bits taken two at a time as PAM4 levels. -/
def pairLevels : List Nat → List Nat
  | a :: b :: l => grayLevel (2 * a + b) :: pairLevels l
  | _ => []

/-- One period of PRBS13Q, 8,191 levels, from the register of a lane (R51: independent on each lane). -/
def prbs13q (seed : Nat) : List Nat := pairLevels (prbs13 (2 * 8191) seed)

/-! ### Scrambling (R54) and the bit stream of a frame (R52) -/

/-- One step of the scrambler register of x³¹ + x²⁸ + 1, whose newest bit is bit 0. -/
def scramStep (s : Nat) : Nat := (s * 2 + (b2n (bitAt s 30) + b2n (bitAt s 27)) % 2) % 2 ^ 31

/-- `n` bits of the sequence from a register: the bit that each step shifts in. -/
def scramBits : Nat → Nat → List Bool
  | 0, _ => []
  | n + 1, s => bitAt (scramStep s) 0 :: scramBits n (scramStep s)

/-- Bits of a frame: 1,285 units of 32 bytes. -/
def frameBits : Nat := 1285 * 32 * 8
/-- Symbols of a frame. -/
def frameSyms : Nat := 32896

/-- The bits of bytes, bit 7 of each first. -/
def bitsOf (l : Bytes) : List Bool := l.flatMap fun b => (List.range 8).map fun i => b.getLsbD (7 - i)

/-- A number from bits, the first bit highest. -/
def ofBits (l : List Bool) : Nat := l.foldl (fun a b => 2 * a + b2n b) 0

/-- Groups of `n` bits as numbers, for `k` groups. -/
def groups (n : Nat) : Nat → List Bool → List Nat
  | 0, _ => []
  | k + 1, l => ofBits (l.take n) :: groups n k (l.drop n)

/-- Message bits scrambled or descrambled: the 128 bits of the marker stay, and the sequence advances over them. -/
def scramble (l : List Bool) : List Bool :=
  l.take 128 ++ ((l.drop 128).zip ((scramBits l.length (2 ^ 31 - 1)).drop 128)).map fun x => x.1 != x.2

/-- The ten-bit symbols of a frame's bytes. -/
def frameSymbols (units : Bytes) : List Nat := groups 10 frameSyms (scramble (bitsOf units))

/-- The bits of a symbol, bit 9 first. -/
def symBits (s : Nat) : List Bool := (List.range 10).map fun i => bitAt s (9 - i)

/-- The bytes of a frame's symbols. -/
def frameBytes (syms : List Nat) : Bytes :=
  (groups 8 41120 (scramble (syms.flatMap symBits))).map fun v => BitVec.ofNat 8 v

/-! ### RS(544,514) (R53): the field x¹⁰ + x³ + 1 and the generator with roots α⁰ to α²⁹ of IEEE 802.3 Clause 91
(PRESUMED, log entry 88) -/

/-- Multiplication by α. -/
def gfX (a : Nat) : Nat := if 512 ≤ a % 1024 then (2 * a % 1024) ^^^ 9 else 2 * a % 1024

/-- Multiplication: the multiples of `b` by powers of α, for the bits of `a` from bit 0 of `n` bits. -/
def gfMulN : Nat → Nat → Nat → Nat
  | 0, _, _ => 0
  | n + 1, a, b => (if a % 2 == 1 then b else 0) ^^^ gfMulN n (a / 2) (gfX b)

/-- Multiplication in the field. -/
def gfMul (a b : Nat) : Nat := gfMulN 10 a b

/-- A power by repeated multiplication. -/
def gfPow (a : Nat) : Nat → Nat
  | 0 => 1
  | n + 1 => gfMul a (gfPow a n)

/-- α to a power. -/
def gfAlpha (n : Nat) : Nat := gfPow 2 (n % 1023)
/-- The inverse of a nonzero element, a to the 1,022nd. -/
def gfInv (a : Nat) : Nat :=
  (List.range 9).foldl (fun (r : Nat × Nat) _ => let s := gfMul r.1 r.1; (s, gfMul r.2 s)) (a, 1) |>.2

/-- The product of polynomials, lowest coefficient first. -/
def polyMul (p : List Nat) : List Nat → List Nat
  | [] => []
  | c :: q =>
    let r := 0 :: polyMul p q
    (List.range (max p.length r.length)).map fun i => gfMul c (p.getD i 0) ^^^ r.getD i 0

/-- A polynomial's value, lowest coefficient first. -/
def polyEval (x : Nat) : List Nat → Nat
  | [] => 0
  | c :: q => c ^^^ gfMul x (polyEval x q)

/-- The generator polynomial, lowest coefficient first. -/
def rsGen : List Nat := (List.range 30).foldl (fun g j => polyMul g [gfAlpha j, 1]) [1]

/-- One step of the division by the generator: register highest coefficient first, one message symbol. -/
def rsStep (gen : List Nat) (r : List Nat) (s : Nat) : List Nat :=
  let f := r.headD 0 ^^^ s
  ((r.tail ++ [0]).zip gen).map fun (x : Nat × Nat) => x.1 ^^^ gfMul f x.2

/-- The 30 parity symbols of a message. -/
def rsParity (msg : List Nat) : List Nat :=
  msg.foldl (rsStep ((rsGen.take 30).reverse)) (List.replicate 30 0)

/-- A codeword: the message and its parity. -/
def rsEncode (msg : List Nat) : List Nat := msg ++ rsParity msg

/-- The 30 syndromes of a received word, whose first symbol has the highest power. -/
def rsSyndromes (w : List Nat) : List Nat :=
  (List.range 30).map fun j => w.foldl (fun a s => gfMul (gfAlpha j) a ^^^ s) 0

/-- The error locator by the Berlekamp-Massey iteration: lowest coefficient first, with its length. -/
def rsLocator (syn : List Nat) : List Nat × Nat :=
  let add (p q : List Nat) : List Nat := (List.range (max p.length q.length)).map fun i => p.getD i 0 ^^^ q.getD i 0
  let r := (List.range 30).foldl (fun (a : List Nat × List Nat × Nat × Nat) n =>
    let (c, b, len, d0) := a
    let d := (List.range (len + 1)).foldl (fun s i => s ^^^ gfMul (c.getD i 0) (syn.getD (n - i) 0)) 0
    let b := 0 :: b
    if d == 0 then (c, b, len, d0)
    else
      let t := add c (b.map fun x => gfMul (gfMul d (gfInv d0)) x)
      if 2 * len ≤ n then (t, c, n + 1 - len, d) else (t, b, len, d0)) ([1], [1], 0, 1)
  (r.1, r.2.2.1)

/-- A received word corrected: its 544 symbols with the number that changed, or `none` where more than 15 are wrong. -/
def rsDecode (w : List Nat) : Option (List Nat × Nat) :=
  if w.length != 544 then none
  else
    let syn := rsSyndromes w
    if syn.all (· == 0) then some (w, 0)
    else
      let (loc, len) := rsLocator syn
      -- Forney: the evaluator is syndromes × locator, and the derivative keeps the odd coefficients
      let ev := (polyMul loc syn).take 30
      let der := (List.range loc.length).filterMap fun i => if i % 2 == 1 then some (loc.getD i 0) else none
      let fixed := w.zipIdx.map fun (s, k) =>
        let x := gfAlpha (543 - k)
        let xi := gfInv x
        if polyEval xi loc == 0 then s ^^^ gfMul x (gfMul (polyEval xi ev) (gfInv (polyEval (gfMul xi xi) der))) else s
      let n := ((w.zip fixed).filter fun x => x.1 != x.2).length
      if len ≤ 15 && n == len && (rsSyndromes fixed).all (· == 0) then some (fixed, n) else none

/-! ### Lanes (R52, R55, R68) -/

/-- The message symbols of lane `j` of `w`. -/
def laneMessage (w j : Nat) (syms : List Nat) : List Nat :=
  (List.range (frameSyms / w)).map fun k => syms.getD (j + w * k) 0

/-- The levels that lane `j` of `w` carries for a frame: its codewords in order. -/
def laneLevels (w j : Nat) (syms : List Nat) : List Nat :=
  (chunks 514 (laneMessage w j syms)).flatMap fun m => (rsEncode m).flatMap symLevels

/-- The levels of a frame on `w` lanes, the lowest-numbered lane first. -/
def lineOf (w : Nat) (units : Bytes) : List (List Nat) :=
  let syms := frameSymbols units
  (List.range w).map fun j => laneLevels w j syms

/-- One codeword as received: its lane, its place on the lane, and what decoding gives. -/
structure RxWord where
  lane : Nat := 0
  k : Nat := 0
  got : Option (List Nat × Nat) := none
deriving DecidableEq, Repr

/-- Codeword `k` of a lane, received and decoded. -/
def rxWord (lanes : List (List Nat)) (j k : Nat) : RxWord :=
  let l := ((lanes.getD j []).drop (2720 * k)).take 2720
  { lane := j, k := k,
    got := if l.length == 2720 then rsDecode ((List.range 544).map (levelSym l)) else none }

/-- Whether a codeword of `w` lanes carries a bit of segment `i`: its symbols are every w-th from w × 514 × k. -/
def carries (w j k i : Nat) : Bool :=
  let first := 65792 * i / 10
  let last := (65792 * i + 65791) / 10
  (List.range 514).any fun q => let s := j + w * (514 * k + q); first ≤ s && s ≤ last

/-- Whether a codeword's last message bit lies in segment `i`. -/
def endsIn (w j k i : Nat) : Bool :=
  let b := 10 * (j + w * (514 * k + 513)) + 9
  65792 * i ≤ b && b < 65792 * (i + 1)

/-- The codewords that carry a segment on `w` lanes. -/
def segWords (w i : Nat) (lanes : List (List Nat)) : List RxWord :=
  (List.range w).flatMap fun j => ((List.range (64 / w)).filter fun k => carries w j k i).map fun k => rxWord lanes j k

/-- Symbol `s` of a frame from the words received. -/
def rxSymbol (w : Nat) (l : List RxWord) (s : Nat) : Nat :=
  match l.find? fun x => x.lane == s % w && x.k == s / w / 514 with
  | some x => match x.got with
    | some (c, _) => c.getD (s / w % 514) 0
    | none => 0
  | none => 0

/-- The 8,224 bytes of segment `i` read from `w` lanes, with the words that carry it. -/
def readSegment (w i : Nat) (lanes : List (List Nat)) : Bytes × List RxWord :=
  let l := segWords w i lanes
  let syms := (List.range frameSyms).map fun s =>
    if 65792 * i / 10 ≤ s && s ≤ (65792 * i + 65791) / 10 then rxSymbol w l s else 0
  (((frameBytes syms).drop (8224 * i)).take 8224, l)

/-! ### Segments (R55, R56) -/

/-- The frame marker. -/
def frameMarker : Nat := 0x5A3C96E10FD278B4A5C3691EF02D874B

/-- The head unit of a segment: its index, its number or none for a null segment, the first start, the frame. -/
def headUnit (idx : Nat) (seq : Option Nat) (first frame : Nat) : Bytes :=
  (if idx == 0 then beBytes 16 frameMarker else zeros 16) ++ beBytes 2 (seq.getD 0) ++
  beBytes 1 (b2n seq.isSome + 2 * (idx % 8)) ++ zeros 1 ++ beBytes 2 first ++ beBytes 2 frame ++ zeros 8

/-- A segment's 8,224 bytes: head, payload units and a tail with CREDIT_RET, ACK_SEQ, ACK_VALID, NACK and SEG_CRC. -/
def segBytes (head pay : Bytes) (ret : List Nat) (ack : Nat) (ackValid nack : Bool) : Bytes :=
  let b := head ++ pay ++ ret.flatMap (beBytes 2) ++ beBytes 2 ack ++ beBytes 1 (b2n ackValid + 2 * b2n nack) ++ zeros 9
  b ++ beBytes 4 (crc32c b).toNat

/-- What a segment's head and tail say. -/
structure SegHead where
  seq : Nat := 0
  seqValid : Bool := false
  idx : Nat := 0
  first : Nat := 0
  frame : Nat := 0
  pay : Bytes := []
  ret : List Nat := []
  ackSeq : Nat := 0
  ackValid : Bool := false
  nack : Bool := false
  crcOk : Bool := false
deriving DecidableEq, Repr, Inhabited

/-- A segment's bytes read. -/
def SegHead.read (b : Bytes) : SegHead :=
  let t := 8192
  { seq := fieldBE b 16 2, seqValid := bitAt (fieldBE b 18 1) 0, idx := bits (fieldBE b 18 1) 3 1,
    first := fieldBE b 20 2 % 1024, frame := fieldBE b 22 2, pay := slice b 32 8160,
    ret := (List.range 8).map fun v => fieldBE b (t + 2 * v) 2, ackSeq := fieldBE b (t + 16) 2,
    ackValid := bitAt (fieldBE b (t + 18) 1) 0, nack := bitAt (fieldBE b (t + 18) 1) 1,
    crcOk := b.length == 8224 && fieldBE b (t + 28) 4 == (crc32c (b.take (t + 28))).toNat }

/-! ### Frame markers on a lane in replicated mode (R55, R68) -/

/-- The first 64 levels of a frame on a lane that carries it whole: the marker's 128 bits, two to a level. -/
def markerLevels : List Nat :=
  (List.range 64).map fun i => grayLevel (frameMarker / 4 ^ (63 - i))

/-- The place of the first frame marker in a lane's levels. -/
def markerAt : List Nat → Nat → Option Nat
  | [], _ => none
  | a :: l, k => if (a :: l).take 64 == markerLevels then some k else markerAt l (k + 1)

/-- The FRAME_NUM of the frame that starts at a lane's level `k` in replicated mode: bits 176 to 191 of its message. -/
def frameNumAt (l : List Nat) (k : Nat) : Nat :=
  let m := l.drop k
  let b := scramble (((List.range 20).map (levelSym m)).flatMap symBits)
  ofBits ((b.drop 176).take 16)

end Sys2Proof.Machine
end

