-- ==== Sys2Proof/Machine/Stream.lean ====
section
/-!
DEFINITION. The frames and segments that a port sends and receives (R55 to R62, R68, R80): the stream of packets cut into
numbered segments, FILL packets and null segments, the frames that hold them and what the lanes carry, the replay buffer,
and a received segment decoded, checked and taken in SEQ order.
-/
namespace Sys2Proof.Machine

/-! ### Lanes in use (R68, R70, R71) -/

/-- The width agreed from the good lanes, and the lanes used (R71). -/
def agreedLanes (good limit : Nat) : List Nat :=
  let l := onesOf good 4
  let n := if l.length == 4 then 4 else if 2 ≤ l.length then 2 else l.length
  let n := min n limit
  l.take n

/-- The lanes that a link agrees: good in both directions, within WIDTH_LIMIT and what the retrain may reach. -/
def Module.agreed (m : Module) (p : Nat) : List Nat :=
  let l := m.link p
  agreedLanes (l.rxGood &&& l.peerGood) (min (4 / 2 ^ m.reg (portBlk p) 0x000 3) l.cap)

/-- Whether a frame number has been reached, modulo 65,536. -/
def frameReached (f now : Nat) : Bool := (now + 65536 - f % 65536) % 65536 < 32768

/-- How the frame in hand is sent: `true` for replicated mode, and the lanes that carry it. -/
def Module.txLanes (m : Module) (p : Nat) : Bool × List Nat :=
  let l := m.link p
  if l.st == 3 || (l.st == 4 && !l.nb.mySwitch.any fun f => frameReached f (m.wire p).txFrame) then
    (true, onesOf l.rxGood 4)
  else if l.st == 4 then (false, m.agreed p)
  else (false, onesOf l.lanes 4)

/-- How a frame of a number is read. -/
def Module.rxLanes (m : Module) (p frame : Nat) : Bool × List Nat :=
  let l := m.link p
  if l.st == 4 && !l.nb.peerSwitch.any fun f => frameReached f frame then (true, onesOf l.rxGood 4)
  else if l.st == 4 then (false, m.agreed p)
  else (false, onesOf l.lanes 4)

/-- FTC units that a segment lasts: 68 ns at width 4 (R53). -/
def segTime (x : Bool × List Nat) : Nat := if x.1 then 1088 else 1088 / max 1 x.2.length

/-- What each lane carries for a frame's 41,120 bytes. -/
def lineLanes (x : Bool × List Nat) (units : Bytes) : List (Nat × List Nat) :=
  if x.1 then x.2.map fun j => (j, laneLevels 1 0 (frameSymbols units))
  else x.2.zip (lineOf x.2.length units)

/-! ### Sending -/

/-- The last 64 of a list of frames. -/
def last64 (l : List (Nat × Nat)) : List (Nat × Nat) := l.drop (l.length - 64)

/-- A segment sent at the next place of the frame in hand, with a fresh tail (R56, R61); `none` sends a null segment. The
fifth completes the frame, and the lanes carry it. -/
def Module.sendSeg (m : Module) (p : Nat) (s : Option Seg) : Module :=
  let w := m.wire p
  let x := m.txLanes p
  let head := headUnit w.segIdx (s.map (·.seq)) ((s.map (·.first)).getD 0x3FF) w.txFrame
  let b := segBytes head ((s.map (·.pay)).getD (zeros 8160)) w.ret ((w.rxSeq + 65535) % 65536) w.rxAny w.nackOut
  let sent := if w.segIdx == 0 then last64 (w.txFrames ++ [(w.txFrame, m.now)]) else w.txFrames
  let m := m.emit (.segment p b)
  if w.segIdx == 4 then
    (m.setWire p { w with frame := [], segIdx := 0, txFrame := (w.txFrame + 1) % 65536, segAt := m.ticks + segTime x,
                          txFrames := sent }).emit (.line p (lineLanes x (w.frame ++ b)))
  else m.setWire p { w with frame := w.frame ++ b, segIdx := w.segIdx + 1, segAt := m.ticks + segTime x, txFrames := sent }

/-- FIRST_START of the segment cut from the front of the waiting words. -/
def Wire.firstStart (w : Wire) : Nat :=
  match w.starts.head? with
  | some o => if o < 8160 then o / 8 else 0x3FF
  | none => 0x3FF

/-- The next 8,160 bytes of the stream sent in a numbered segment, which the replay buffer keeps (R58, R61). -/
def Module.sendNumbered (m : Module) (p : Nat) : Module :=
  let w := m.wire p
  let s : Seg := { seq := w.txSeq, first := w.firstStart, pay := w.txq.take 8160 }
  (m.setWire p { w with
    txq := w.txq.drop 8160, starts := (w.starts.filter (8160 ≤ ·)).map (· - 8160),
    replay := w.replay ++ [s], txSeq := (w.txSeq + 1) % 65536,
    ackAt := if w.replay.isEmpty then m.ticks else w.ackAt }).sendSeg p (some s)

/-- Whether the replay buffer has room: it holds 128 segments (R61). -/
def Module.replayRoom (m : Module) (p : Nat) : Bool := (m.wire p).replay.length < 128

/-- Full segments leave while the replay buffer has room, `n` at most. In ALIGN, which sends null segments alone (R67), the
words wait. -/
def Module.packSegs (m : Module) (p : Nat) : Nat → Module
  | 0 => m
  | n + 1 =>
    if (m.link p).st < 4 || (m.wire p).txq.length < 8160 || !m.replayRoom p then m else (m.sendNumbered p).packSegs p n

/-- A packet put into the stream of words behind those that wait (R58, R59). -/
def Module.putWords (m : Module) (p : Nat) (k : Pkt) : Module :=
  let w := m.wire p
  m.setWire p { w with txq := w.txq ++ pktBytes k, starts := w.starts ++ [w.txq.length] }

/-- A packet sent: its words join the stream, and the segments that it fills leave. -/
def Module.sendPkt (m : Module) (p : Nat) (k : Pkt) : Module :=
  let m := (m.putWords p k).emit (if k.h.type == 0xF0 then .linkLocal p k else .packet p k)
  m.packSegs p ((m.wire p).txq.length / 8160)

/-- A LINK_LOCAL packet (R60): 1 FILL, 2 HELLO, 3 TIME. -/
def Module.linkLocal (m : Module) (sub : Nat) (pl : Bytes) : Pkt :=
  Pkt.make { w0 := BitVec.ofNat 32 (0xF0 * 2 ^ 24 + 131071), w1 := BitVec.ofNat 32 m.chip, w7 := BitVec.ofNat 32 sub } pl

/-- A HELLO or TIME packet sent; behind a packet that the transmitter has begun it waits (R121). -/
def Module.sendLocal (m : Module) (p : Nat) (k : Pkt) : Module :=
  if (m.wire p).sending.isSome then m.setWire p { m.wire p with llq := (m.wire p).llq ++ [k] } else m.sendPkt p k

/-- The LINK_LOCAL packets that waited behind a packet follow it. -/
def Module.sendWaiting (m : Module) (p : Nat) : Module :=
  let l := (m.wire p).llq
  l.foldl (fun m k => m.sendPkt p k) (m.setWire p { m.wire p with llq := [] })

/-- FILL packets behind the waiting words, until a segment is full (R59). -/
def Module.fillWords (m : Module) (p : Nat) : Module :=
  (List.range (ceilDiv (8160 - (m.wire p).txq.length) 40)).foldl (fun m _ => m.putWords p (m.linkLocal 1 [])) m

/-- The next segment of a port is due: a null segment in ALIGN, behind a packet whose words have not come, at a full replay
buffer and in Lull (R61, R67, R79, R121); otherwise a numbered one, filled up with FILL packets. -/
def Module.segDue (m : Module) (p : Nat) : Module :=
  let w := m.wire p
  let st := (m.link p).st
  if st < 3 || m.ticks < w.segAt then m
  else if st == 3 || w.sending.isSome || !m.replayRoom p || (1 < m.pwr.lull && w.txq.isEmpty) then m.sendSeg p none
  else (m.fillWords p).sendNumbered p

/-- Every segment not acknowledged is sent again in order (R62). -/
def Module.resendSegs (m : Module) (p : Nat) : Module :=
  (m.wire p).replay.foldl (fun m s => m.sendSeg p (some s)) m

/-- A replay: counted, and its time starts anew. -/
def Module.replaySegs (m : Module) (p : Nat) : Module :=
  let w := m.wire p
  ((m.setWire p { w with replays := w.replays + 1, ackAt := m.ticks }).count (portBlk p) 0x118).resendSegs p

/-! ### Receiving -/

/-- A lane's levels from the start of the frame: the lanes deskewed (R55). -/
def Module.deskewed (m : Module) (p : Nat) (i : SegIn) (j : Nat) : List Nat :=
  (i.lanes.getD j []).drop ((m.link p).skew.getD j 0)

/-- What is read of a segment: head, payload and tail, its codewords with their lanes, and whether it is bad (R57). -/
structure RxSeg where
  h : SegHead := {}
  words : List RxWord := []
  bad : Bool := true

/-- A segment read from lanes at a width. -/
def readLanes (idx : Nat) (nums : List Nat) (lanes : List (List Nat)) : RxSeg :=
  let (b, l) := readSegment nums.length idx lanes
  let h := SegHead.read b
  { h := h, words := l.map fun x => { x with lane := nums.getD x.lane 0 },
    bad := (l.any fun x => x.got.isNone) || l.isEmpty || !h.crcOk }

/-- A received segment read: at the agreed width, or in replicated mode from the first lane that gives it good (R68). -/
def Module.readSeg (m : Module) (p frame : Nat) (i : SegIn) : RxSeg :=
  let x := m.rxLanes p frame
  if x.1 then
    let l := x.2.map fun j => readLanes i.idx [j] [m.deskewed p i j]
    ((l.find? fun r => !r.bad).orElse fun _ => l.head?).getD {}
  else readLanes i.idx x.2 (x.2.map (m.deskewed p i))

/-- The counters of a segment's codewords, each counted with the segment that holds its last bit (R57, R82). -/
def Module.countWords (m : Module) (p w i : Nat) (nums : List Nat) (l : List RxWord) : Module :=
  (l.filter fun x => endsIn w ((nums.idxOf? x.lane).getD 0) x.k i).foldl (fun (m : Module) x =>
    match x.got with
    | none => m.count (portBlk p) 0x108
    | some (_, n) => if n == 0 then m else (m.count (portBlk p) 0x100).count (portBlk p) (0x140 + 8 * x.lane) n) m

/-- The tail of a good segment: credits returned (R65), acknowledgement and negative acknowledgement (R61, R62). -/
def Module.takeTail (m : Module) (p : Nat) (i : SegHead) : Module :=
  let w := m.wire p
  let m := m.setWire p { w with
    used := (List.range 8).map fun v =>
      w.used.getD v 0 - (i.ret.getD v 0 + 65536 - w.prevRet.getD v 0 % 65536) % 65536,
    prevRet := (List.range 8).map fun v => i.ret.getD v 0 % 65536 }
  let w := m.wire p
  let m :=
    if i.ackValid then
      let gone := (i.ackSeq + 65536 - w.acked % 65536) % 65536
      if 0 < gone && gone ≤ w.replay.length then
        let m := m.setWire p { w with replay := w.replay.drop gone, acked := i.ackSeq, ackAt := m.ticks, replays := 0 }
        m.packSegs p ((m.wire p).txq.length / 8160)
      else m
    else m
  if i.nack && (m.wire p).lastNack != some i.ackSeq then
    (m.setWire p { m.wire p with lastNack := some i.ackSeq }).replaySegs p
  else m

/-- The payload of the next numbered segment joins the received stream, but for what a discarded packet leaves out. -/
def Wire.accept (w : Wire) (pay : Bytes) : Wire :=
  { w with rxSeq := (w.rxSeq + 1) % 65536, rxAny := true, nackOut := false,
           rxq := w.rxq ++ pay.drop w.rxSkip, rxSkip := w.rxSkip - pay.length }

/-- A good segment taken: its tail, and its payload if it is the next numbered one (R62). Any good numbered one, taken or
discarded as out of order, makes ACK_VALID 1 from then on (R56). An isolated port, which still
finishes the copy that it is sending, takes no more words (log entry 99). -/
def Module.takeSeg (m : Module) (p : Nat) (h : SegHead) : Module :=
  let m := m.takeTail p h
  let w := m.wire p
  if !h.seqValid then m
  else if h.seq == w.rxSeq then
    m.setWire p (if (m.link p).isolated then { w.accept h.pay with rxq := [], rxSkip := 0 } else w.accept h.pay)
  else m.setWire p { w with nackOut := true, rxAny := true }

/-- The next header of the received stream, where nothing is in the middle of a packet. -/
def Module.rxHead (m : Module) (p : Nat) : Option Hdr :=
  let w := m.wire p
  if w.arriving.isNone && !w.filling && w.rxSkip == 0 && 32 ≤ w.rxq.length then some (Hdr.ofBytes (w.rxq.take 32))
  else none

/-- Bytes taken off the received stream. -/
def Module.rxDrop (m : Module) (p n : Nat) : Module := m.setWire p { m.wire p with rxq := (m.wire p).rxq.drop n }

/-- The packet at the head of a received stream, whole: its header, and the payload and the trailer behind it. -/
def rxPkt (b : Bytes) : Pkt :=
  let h := Hdr.ofBytes (b.take 32)
  { h := h, pl := slice b 32 h.len, t0 := BitVec.ofNat 32 (fieldBE b (32 + h.len) 4),
    t1 := BitVec.ofNat 32 (fieldBE b (36 + h.len) 4) }

/-- A LINK_LOCAL packet of a subtype that has come whole, with the module after it. -/
def Module.takeLocal (m : Module) (p sub : Nat) : Option (Module × Pkt) :=
  match m.rxHead p with
  | none => none
  | some h =>
    if h.type == 0xF0 && h.tw % 256 == sub && h.linkLen ≤ (m.wire p).rxq.length then
      some (m.rxDrop p h.linkLen, rxPkt (m.wire p).rxq)
    else none

/-- The header checks of R60 on a LINK_LOCAL packet: header intact, subtype assigned, its length. -/
def localHdrOk (h : Hdr) : Bool :=
  h.intact &&
  ((h.tw % 256 == 1 && h.len == 0) || (h.tw % 256 == 2 && h.len == 64) || (h.tw % 256 == 3 && h.len == 32))

/-- Whether a received LINK_LOCAL packet passes the checks of R60: those of its header, and its trailer (R108). -/
def linkLocalOk (k : Pkt) : Bool := localHdrOk k.h && k.good && k.pl.length == k.h.len

end Sys2Proof.Machine
end

