-- ==== Sys2Proof/Machine/Links.lean ====
section
/-!
DEFINITION. The optical ports and the Penida link: training, hello, cabling check, retry, credits and the timers of a
port link (R48 to R82, R534, R535).
-/
namespace Sys2Proof.Machine

/-- The module-serial hash (R17). -/
def ownHash : Nat := beNat (shake256 ((List.range 12).map Config.serial) 8)

/-- A port event (R447). -/
def Module.portEvent (m : Module) (p code : Nat) : Module :=
  let l := m.link p
  m.event code (beBytes 1 p ++ beBytes 1 l.checkResult ++ beBytes 1 l.nb.kind ++ beBytes 1 l.swapPort ++
    beBytes 4 l.nb.chip ++ beBytes 1 l.nb.port ++ beBytes 1 l.width ++ beBytes 1 (b2n l.foundValid) ++ zeros 5 ++
    beBytes 8 l.nb.hash ++ beBytes 8 m.now)

/-- Every entry pinned to a port has lost its egress: one PIN_BROKEN event for each (R156). The event of an entry with VC_ANY
shows VC 0 (DESIGN CHOICE, log entry 113: R156 gives the field a VC and such an entry has none). -/
def Module.pinsLost (m : Module) (p : Nat) : Module :=
  (m.net.pins.cells.flatMap (·.2)).foldl (fun m e =>
    if e.port == p then
      m.event 0x0301 (beBytes 4 e.src ++ beBytes 4 e.dst ++ beBytes 2 e.part ++ beBytes 1 (if e.any then 0 else e.vc) ++
        beBytes 1 e.port ++ zeros 4 ++ beBytes 8 m.now)
    else m) m

/-- Collective packets queued for a local member's port are discarded when the port leaves ACTIVE (R238); one that leaves
for DOWN counts in REROUTED as well (R172). -/
def Module.dropMembers (m : Module) (p : Nat) (down : Bool) : Module :=
  let l := (m.net.queues.cells.filter fun c => qPort c.1 == p).flatMap fun c => c.2
  l.foldl (fun m id =>
    match m.bp id with
    | none => m
    | some b =>
      (b.copies.filter fun c => c.port == p && !c.begun && c.fixed && c.h.mode != 2).foldl (fun m c =>
        let m := if down then m.count (swBlk b.die 5) 0x230 else m
        ((m.dropCopy id c).count (hubBlk 1) 0x1D8).settle id) m) m

/-- A link stops being ACTIVE, for DOWN or for another state. -/
def Module.leaveActive (m : Module) (p : Nat) (down : Bool := false) : Module :=
  let m := m.dropMembers p down
  if m.usable p then m.pinsLost p else m

/-- Whether the links can run at all: the main domain is up and the module is not held. -/
def Module.linksOn (m : Module) : Bool := m.pwr.main && m.pwr.st != 4

/-- The ENABLE bit of a port. -/
def Module.enabled (m : Module) (p : Nat) : Bool := m.reg (portBlk p) 0x000 0 == 1

/-- READY: supervisors run, memory is trained, every pool reads MODE 2, the kernels are resident, and every enabled
port has left DOWN, which an isolated one does not (R494). -/
def Module.checkReady (m : Module) : Module :=
  if m.pwr.st == 1 && m.pwr.supervisors && m.pwr.trained && m.pwr.kernels &&
     (List.range 8).all (fun d => (m.die d).mode == 2) &&
     (List.range 256).all (fun p => !m.enabled p || (m.link p).st != 0) then
    ({ m with pwr := { m.pwr with st := 2, activeAt := m.ticks } }).raiseMinimum
  else m

/-- A link enters DOWN (R67, R74): the packet arriving and the packet leaving are lost (R107, R123); where a neighbour
was up, the replay buffer is discarded and NEIGHBOUR_DOWN is reported. The training that follows may agree four lanes
again (R71), whatever the link had before (DESIGN CHOICE, log entry 93: R73 names the causes of a higher width, and a
training from DOWN is not among them unless a port reset began it). A link that CABLING_LOAD took from QUARANTINED back to
CHECK is in CHECK of a training that began in DOWN, and goes DOWN without NEIGHBOUR_DOWN (DESIGN CHOICE, log entry 114: R74
lists CHECK only during a width retrain). Every descriptor queued for the port is due for *Routing decisions* again (R172). -/
def Module.enterDown (m : Module) (p : Nat) : Module :=
  let l := m.link p
  if l.st == 0 then m
  else
    let m := if l.st == 6 then m.leaveActive p true else m
    let up := l.st == 6 || l.st == 7 || !l.fromDown
    let m := m.inputLost p
    let m := m.abandon p
    let m := if up then m.count (portBlk p) 0x128 (m.wire p).replay.length else m
    let m := if up then m.portEvent p 0x0202 else m
    let m := m.setLink p { m.link p with
      st := 0, fromDown := true, tuned := false, width := 0, rxGood := 0, lanes := 0, cap := 4, since := m.ticks,
      holdUntil := none, checkResult := 0, foundValid := false, swapPort := 0, skew := [],
      nb := { (m.link p).nb with seen := false, before := none, echoed := false, mySwitch := none, peerSwitch := none } }
    let m := m.setPort p { m.port p with timeAt := none }
    let m := m.setWire p { m.wire p with
      replay := [], lastNack := none, nackOut := false, replays := 0, paused := false,
      txq := [], starts := [], llq := [], frame := [], segIdx := 0, rxq := [], rxSkip := 0, arriving := none, filling := false }
    let m := { m with net := { m.net with
      admitted := setBit m.net.admitted p false
      pkts := m.net.pkts.map fun (b : BPkt) =>
        { b with copies := b.copies.map fun (c : Copy) => if c.port == p && !c.begun then { c with due := true } else c } } }
    (m.checkBacked (p / 32)).reselect

/-- A link enters a state. -/
def Module.enterLink (m : Module) (p st : Nat) : Module := m.setLink p { m.link p with st := st, since := m.ticks }

/-- A width retrain starts from ACTIVE or QUARANTINED (R72): SEQ, the replay buffer and the credits stay. -/
def Module.startRetrain (m : Module) (p cap : Nat) : Module :=
  let l := m.link p
  if l.st == 6 || l.st == 7 then
    let m := if l.st == 6 then (m.leaveActive p).count (portBlk p) 0x120 else m
    (((m.setWire p { m.wire p with frame := [], segIdx := 0 })).setLink p { m.link p with
      st := 3, since := m.ticks, fromDown := false, cap := cap,
      nb := { l.nb with before := some (l.nb.chip, l.nb.port, l.nb.hash), seen := false, echoed := false,
                        mySwitch := none, peerSwitch := none } }).reselect
  else m

/-- A lane fails (R72): LANE_FAIL, and from ACTIVE a width retrain that may not raise the width (R73). -/
def Module.laneFail (m : Module) (p lane : Nat) : Module :=
  let m := m.raise 0 (portBlk p) p
  let m := m.setLink p { m.link p with rxGood := setBit (m.link p).rxGood lane false }
  m.startRetrain p (m.link p).width

/-- The HELLO period in FTC units (R67). -/
def helloPeriod (st : Nat) : Nat := if st == 4 then us 10 else ms 100

/-- What a port advertises: the credit registers as they stood when its training began in DOWN (R66); nothing before its
die's pools are in stack mode (R134). -/
def Module.advNow (m : Module) (p : Nat) : List Nat :=
  if (m.die (p / 32)).mode == 2 then (m.wire p).cfg else [0, 0, 0, 0, 0, 0, 0, 0, 0]

/-- Entry to HELLO (R68): after a training from DOWN the numbered stream starts at 0 and credits are advertised anew. -/
def Module.enterHello (m : Module) (p frame : Nat) : Module :=
  let m := m.enterLink p 4
  let m := m.setWire p { m.wire p with rxFrame := frame }
  if (m.link p).fromDown then
    let w := m.wire p
    (m.setWire p { w with txSeq := 0, rxSeq := 0, rxAny := false, replay := [], acked := 65535, ackAt := m.ticks,
                          lastNack := none, nackOut := false, replays := 0, adv := m.advNow p,
                          peerAdv := [], used := [0, 0, 0, 0, 0, 0, 0, 0], prevRet := [0, 0, 0, 0, 0, 0, 0, 0],
                          ret := [0, 0, 0, 0, 0, 0, 0, 0], held := [0, 0, 0, 0, 0, 0, 0, 0] }).checkBacked (p / 32)
  else m

/-! ### The cabling check (R75 to R78) -/

/-- Whether a neighbour's chip and port equal a plan entry. -/
def planIs (e chip port : Nat) : Bool := bits e 16 0 == chip && bits e 24 17 == port

/-- The neighbours of two ports are exchanged. -/
def Module.swapped (m : Module) (p b : Nat) : Bool :=
  let x := (m.link p).nb
  let y := (m.link b).nb
  planIs (m.plan b) x.chip x.port && planIs (m.plan p) y.chip y.port

/-- A link reaches ACTIVE: its ADMITTED bit is set where ADMIT_AUTO is (R172), held credit returns, and after a width
retrain what was not acknowledged is sent again at the new width (R72). -/
def Module.enterActive (m : Module) (p : Nat) : Module :=
  let again := !(m.link p).fromDown
  let m := m.enterLink p 6
  let m := { m with net := { m.net with pkts := m.net.pkts.map fun (b : BPkt) =>
    { b with copies := b.copies.map fun (c : Copy) => if c.port == p then { c with hold := none } else c } } }
  let m := if bitAt (m.reg (swBlk (p / 32) 5) 0x000 0) (p % 32) then
    { m with net := { m.net with admitted := setBit m.net.admitted p true } } else m
  let m := m.setWire p { m.wire p with replays := 0, ackAt := m.ticks }
  let m := (m.creditFlush p).checkBacked (p / 32)
  (if again then m.resendSegs p else m).reselect

/-- A cabling result takes effect: ACTIVE, or QUARANTINED for a strict mismatch or swap. -/
def Module.finishCheck (m : Module) (p result : Nat) : Module :=
  let m := m.setLink p { m.link p with checkResult := result, holdUntil := none }
  if (result == 3 || result == 4) && bitAt (m.plan p) 26 then
    let m := if (m.link p).st == 6 then m.leaveActive p else m
    if (m.link p).st == 7 then m else (m.enterLink p 7).reselect
  else if (m.link p).st == 6 then m
  else m.enterActive p

/-- A link whose neighbour the module knows: past HELLO, or in ALIGN or HELLO of a width retrain with the neighbour of before
(R535). -/
def Link.known (l : Link) : Bool :=
  5 ≤ l.st || (3 ≤ l.st && !l.fromDown && l.nb.before == some (l.nb.chip, l.nb.port, l.nb.hash))

/-- A swap found for a port from its partner: taken at once, or kept for the CHECK that ends its width retrain (R535). -/
def Module.finishSwap (m : Module) (b : Nat) : Module :=
  if (m.link b).st < 5 then m.setLink b { m.link b with checkResult := 4, holdUntil := none } else m.finishCheck b 4

/-- The check of R76 on a port whose neighbour is known: the first row that applies. A partner in a width retrain still has
its neighbour. Of several ports that satisfy the condition of a swap, the lowest-numbered is the partner (DESIGN CHOICE,
log entry 9). -/
def Module.check (m : Module) (p : Nat) : Module :=
  let nb := (m.link p).nb
  let e := m.plan p
  let m := m.setLink p { m.link p with foundValid := false, swapPort := 0 }
  if !m.keep.valid then (m.finishCheck p 6).portEvent p 0x0201
  else if bitAt e 25 then (m.finishCheck p 2).portEvent p 0x0201
  else if nb.chip == 131071 then (m.finishCheck p 5).portEvent p 0x0201
  else if planIs e nb.chip nb.port then m.finishCheck p 1
  else
    match leastBelow 256 fun b => b != p && (m.link b).known && m.swapped p b with
    | some b =>
      let m := m.setLink p { m.link p with swapPort := b, foundValid := true }
      let m := m.setLink b { m.link b with swapPort := p, foundValid := true }
      ((m.finishCheck p 4).finishSwap b).portEvent (min p b) 0x0207
    | none =>
      m.setLink p { m.link p with
        holdUntil := some (m.ticks + ms (m.reg (portBlk p) 0x044 18)), checkResult := 0 }

/-- SWAP_HOLD has passed without a partner: MISMATCH, naming the lowest-numbered port on which the expected neighbour was
seen (R77; which of several is log entry 9). -/
def Module.mismatch (m : Module) (p : Nat) : Module :=
  let e := m.plan p
  let found := leastBelow 256 fun b =>
    b != p && ((m.link b).known || ((m.link b).st == 4 && (m.link b).nb.seen)) && planIs e (m.link b).nb.chip (m.link b).nb.port
  let m := m.setLink p { m.link p with swapPort := found.getD 0, foundValid := found.isSome }
  (m.finishCheck p 3).portEvent p 0x0206

/-- CHECK after a training or a width retrain: a retrain with the same neighbour keeps its result (R535). A hold that began
before the retrain goes on: the port stays in CHECK until it ends (DESIGN CHOICE, log entry 115: R535 does not say what
CHECK does then). -/
def Module.runCheck (m : Module) (p : Nat) : Module :=
  let l := m.link p
  match l.nb.before with
  | some id =>
    let m := m.setLink p { l with nb := { l.nb with before := none } }
    if id == (l.nb.chip, l.nb.port, l.nb.hash) then
      if l.holdUntil.isSome then m
      else m.finishCheck p l.checkResult
    else (m.portEvent p 0x0203).check p
  | none => m.check p

/-! ### HELLO -/

/-- The HELLO payload of a port (*HELLO payload*). Until a HELLO has been received, the echo fields and SWITCH_FRAME hold 0
(DESIGN CHOICE, log entry 94). -/
def Module.helloPayload (m : Module) (p : Nat) : Bytes :=
  let l := m.link p
  let nb := l.nb
  beBytes 1 1 ++ beBytes 1 0 ++ beBytes 1 (b2n nb.seen + 2) ++ beBytes 1 p ++ beBytes 4 m.chip ++ beBytes 8 ownHash ++
  (if nb.seen then beBytes 8 nb.hash ++ beBytes 4 nb.chip ++ beBytes 1 nb.port else zeros 13) ++
  beBytes 1 l.rxGood ++ zeros 2 ++ beBytes 3 m.coord ++ zeros 1 ++
  (m.wire p).adv.flatMap (beBytes 2) ++ beBytes 2 (nb.mySwitch.getD 0) ++ zeros 8

/-! ### The commands -/

/-- A row that concerns a port of a module whose links run. -/
def Module.onPort (m : Module) (p : Nat) (f : Module → Module) : Module :=
  if p < 256 && m.linksOn then f m else m

/-- SYNC_FIFO_RESUME: the receive FIFO falls below one quarter, and the held returns follow (R33). -/
def syncFifoResume (p : Nat) (m : Module) : Module := m.onPort p fun m =>
  ((m.setWire p { m.wire p with paused := false }).creditFlush p).checkBacked (p / 32)

/-- ENABLE written (R67, LINK_CTRL). -/
def enable (p : Nat) (on : Bool) (m : Module) : Module :=
  if p < 256 && m.pwr.main then
    let m := m.setReg (portBlk p) 0x000 0 (b2n on)
    if on then m else (m.enterDown p).checkReady
  else m

/-- RETRAIN written (R72). -/
def retrain (p : Nat) (m : Module) : Module := m.onPort p fun m => m.startRetrain p 4

/-- WIDTH_LIMIT changed (R71). -/
def widthLimit (p v : Nat) (m : Module) : Module :=
  if p < 256 && m.pwr.main && v < 3 && m.reg (portBlk p) 0x000 3 != v then
    (m.setReg (portBlk p) 0x000 3 v).startRetrain p 4
  else m

/-- DOWN_TIMER_EXPIRY: 1 ms after its entry to DOWN an enabled port begins a training, which advertises the credit registers
as they stand now (R66, R67). No port leaves DOWN before the HBM4 stacks are trained (*Cold start*, steps 5 and 6). -/
def downTimerExpiry (p : Nat) (m : Module) : Module := m.onPort p fun m =>
  let l := m.link p
  if l.st == 0 && m.enabled p && !l.isolated && m.pwr.trained then
    let m := (m.pass (max l.since m.pwr.upAt + ms 1)).enterLink p 1
    ((m.setWire p { m.wire p with cfg := m.creditRegs p }).checkBacked (p / 32)).checkReady
  else m

/-- TUNING_DONE: the port sends PRBS13Q on all lanes (R51, R534). -/
def tuningDone (p : Nat) (m : Module) : Module := m.onPort p fun m =>
  if (m.link p).st == 1 then
    (m.setLink p { m.link p with tuned := true }).emit
      (.line p ((List.range 4).map fun j => (j, prbs13q (Config.prbsSeed (4 * p + j)))))
  else m

def lightReceived (p : Nat) (m : Module) : Module := m.onPort p fun m =>
  if (m.link p).st == 1 && (m.link p).tuned then m.enterLink p 2 else m

def lanesLocked (p : Nat) (m : Module) : Module := m.onPort p fun m =>
  if (m.link p).st == 2 then (m.setLink p { m.link p with rxGood := 15 }).enterLink p 3 else m

def equaliseTimeout (p lanes : Nat) (m : Module) : Module := m.onPort p fun m =>
  let l := m.link p
  if l.st == 2 then
    let m := m.pass (l.since + ms 50)
    if lanes % 16 == 0 then m.enterDown p
    else (m.setLink p { m.link p with rxGood := lanes % 16 }).enterLink p 3
  else m

/-- FRAME_MARKERS_FOUND: the levels that the lanes carry are searched for the frame marker. The lanes on which it is found
are those locked; each arrives later than the earliest by its place (R55, R67). `frame` is the FRAME_NUM that they carry. -/
def frameMarkersFound (p : Nat) (lanes : List (List Nat)) (frame : Nat) (m : Module) : Module := m.onPort p fun m =>
  let l := ((lanes.take 4).map fun x => markerAt x 0)
  match (l.filterMap id) with
  | [] => m
  | k :: t =>
    let least := t.foldl min k
    let j := (l.idxOf? (some least)).getD 0
    if (m.link p).st != 3 || frameNumAt (lanes.getD j []) least != frame then m
    else
      (m.setLink p { m.link p with
        rxGood := ((List.range 4).filter fun j => (l.getD j none).isSome).foldl (fun a j => a + 2 ^ j) 0,
        skew := (List.range 4).map fun j => (l.getD j none).getD least - least }).enterHello p frame

def alignTimeout (p : Nat) (m : Module) : Module := m.onPort p fun m =>
  if (m.link p).st == 3 then (m.pass ((m.link p).since + ms 2)).enterDown p else m

def helloTimeout (p : Nat) (m : Module) : Module := m.onPort p fun m =>
  if (m.link p).st == 4 then (m.pass ((m.link p).since + ms 20)).enterDown p else m

/-- A HELLO taken (R69, R70, R78): what it says of the neighbour is kept, the module chooses SWITCH_FRAME 256 frames
ahead, and in ACTIVE a changed neighbour is reported and checked again. -/
def Module.takeHello (m : Module) (p : Nat) (k : Pkt) : Module :=
  let l := m.link p
  let f (o n : Nat) : Nat := fieldBE k.pl o n
  let chip := f 4 4 % 2 ^ 17
  let echoValid := bitAt (f 2 1) 0
  let echo := echoValid && f 16 8 == ownHash && f 24 4 % 2 ^ 17 == m.chip && f 28 1 == p
  let changed := chip != l.nb.chip || f 3 1 != l.nb.port || f 8 8 != l.nb.hash
  let nb := { l.nb with
    chip := chip, port := f 3 1, kind := f 1 1 % 4, hash := f 8 8, coord := f 32 3, timeCapable := bitAt (f 2 1) 1,
    seen := true, helloAt := m.ticks, lost := false, echoed := l.nb.echoed || echo }
  let nb := if l.st == 4 then
    { nb with mySwitch := some (l.nb.mySwitch.getD (((m.wire p).txFrame + 256) % 65536)),
              peerSwitch := if echoValid then some (f 54 2) else nb.peerSwitch } else nb
  let m := m.setLink p { l with nb := nb, peerGood := f 29 1 % 16 }
  let w := m.wire p
  let m := if l.fromDown && (l.st == 4 || credSum w.peerAdv == 0) then
    m.setWire p { w with peerAdv := (List.range 9).map fun i => f (36 + 2 * i) 2 } else m
  if l.st == 6 && changed then (m.portEvent p 0x0203).check p else m

/-- HELLO: the HELLO packet `pk`, which has come whole, is taken from the received stream. -/
def hello (p : Nat) (pk : Pkt) (m : Module) : Module := m.onPort p fun m =>
  if (m.link p).st < 4 then m
  else match m.takeLocal p 2 with
    | none => m
    | some (n, k) => if k != pk then m else if linkLocalOk k then n.takeHello p k else n.count (portBlk p) 0x130

/-- SWITCH_FRAME_REACHED: both SWITCH_FRAMEs have passed, in the frames sent and in those received, and the echo has come
(R70): the agreed width, and CHECK. -/
def switchFrameReached (p : Nat) (m : Module) : Module := m.onPort p fun m =>
  let l := m.link p
  let w := m.wire p
  if l.st == 4 && l.nb.echoed && (l.nb.mySwitch.any fun f => frameReached f w.txFrame) &&
     (l.nb.peerSwitch.any fun f => frameReached f w.rxFrame) then
    let use := m.agreed p
    if use.isEmpty then m.enterDown p
    else
      let m := (m.setLink p { l with width := use.length, lanes := use.foldl (fun a i => a + 2 ^ i) 0 }).enterLink p 5
      let m := if !l.fromDown && use.length < l.width then m.portEvent p 0x0205 else m
      m.runCheck p
  else m

/-- SWAP_HOLD_EXPIRY: a mismatching port in CHECK, or in ACTIVE after a change of neighbour, has held its result for
SWAP_HOLD (R77). -/
def swapHoldExpiry (p : Nat) (m : Module) : Module := m.onPort p fun m =>
  match (m.link p).holdUntil with
  | some t => if (m.link p).st == 5 || (m.link p).st == 6 then (m.pass t).mismatch p else m
  | none => m

/-- HELLO_TRANSMIT: a HELLO is due, every 10 µs in HELLO and every 100 ms later (R67). -/
def helloTransmit (p : Nat) (m : Module) : Module := m.onPort p fun m =>
  let l := m.link p
  if 4 ≤ l.st then
    let m := if l.nb.helloSent == 0 || l.nb.helloSent < l.since then m else m.pass (l.nb.helloSent + helloPeriod l.st)
    let w := m.wire p
    let m := if credSum w.adv == 0 then (m.setWire p { w with adv := m.advNow p }).checkBacked (p / 32) else m
    let m := m.setLink p { m.link p with nb := { (m.link p).nb with helloSent := m.ticks } }
    m.sendLocal p (m.linkLocal 2 (m.helloPayload p))
  else m

/-- The TIME payload of a port (*TIME payload*) with a frame sent and a frame received, each with its timestamp. -/
def Module.timePayload (m : Module) (tx rx : Nat × Nat) : Bytes :=
  beBytes 2 tx.1 ++ beBytes 2 rx.1 ++ beBytes 1 m.hopsSent ++ beBytes 1 (b2n m.validSent) ++ zeros 2 ++
  beBytes 8 tx.2 ++ beBytes 8 rx.2 ++ zeros 8

/-- TIME_TRANSMIT: TIME sent in ACTIVE and QUARANTINED and while CHECK holds a mismatch (R67, R77, R81), with one of the last
64 frames sent and one of the last 64 received, each with the timestamp kept of it (R80). -/
def timeTransmit (p txFrame rxFrame tTx tRx : Nat) (m : Module) : Module := m.onPort p fun m =>
  let l := m.link p
  if (m.wire p).txFrames.contains (txFrame, tTx) && (m.wire p).rxFrames.contains (rxFrame, tRx) &&
     (6 ≤ l.st || (l.st == 5 && l.holdUntil.isSome)) then
    let m := if l.nb.timeSent == 0 || l.nb.timeSent < l.since then m else m.pass (l.nb.timeSent + ms 1)
    let m := m.setLink p { m.link p with nb := { (m.link p).nb with timeSent := m.ticks } }
    m.sendLocal p (m.linkLocal 3 (m.timePayload (txFrame, tTx) (rxFrame, tRx)))
  else m

/-- HELLO_LOST: three HELLO periods since the last HELLO received, on a port past HELLO, whose neighbour sends one every
100 ms (R67, R78). -/
def helloLost (p : Nat) (m : Module) : Module := m.onPort p fun m =>
  let l := m.link p
  if 5 ≤ l.st && !l.nb.lost then
    let m := m.pass (l.nb.helloAt + ms 300)
    (m.setLink p { m.link p with nb := { l.nb with lost := true } }).portEvent p 0x0204
  else m

/-- SEGMENT_RECEIVED: decoded, checked, and taken in SEQ order or discarded (R57, R62); the words of a taken segment join the
received stream once, behind those before them (R32); the first segment of a frame brings the frame's timestamp (R80). -/
def segmentReceived (p : Nat) (i : SegIn) (m : Module) : Module := m.onPort p fun m =>
  if (m.link p).st < 4 then m
  else
    let w := m.wire p
    let f := if i.idx == 0 then (w.rxFrame + 1) % 65536 else w.rxFrame
    let r := m.readSeg p f i
    let f := if r.bad then f else r.h.frame
    let x := m.rxLanes p f
    let m := m.countWords p (if x.1 then 1 else x.2.length) i.idx (if x.1 then (r.words.map (·.lane)).take 1 else x.2) r.words
    let m := m.setWire p { w with
      rxFrame := f, paused := w.paused || i.fifoHigh,
      rxFrames := if i.idx == 0 then last64 (w.rxFrames ++ [(f, i.refAt)]) else w.rxFrames }
    if r.bad then
      let m := m.count (portBlk p) 0x110
      m.setWire p { m.wire p with nackOut := true }
    else m.takeSeg p r.h

/-- REPLAY_TIMEOUT: REPLAY_TIMEOUT µs without ACK_SEQ advancing (R62). -/
def replayTimeout (p : Nat) (m : Module) : Module := m.onPort p fun m =>
  let w := m.wire p
  if 4 ≤ (m.link p).st && !w.replay.isEmpty then
    (m.pass (w.ackAt + us (m.reg (portBlk p) 0x044 0))).replaySegs p
  else m

/-- REPLAY_LIMIT consecutive replays without progress (R63): the named lane fails. -/
def replayLimitReached (p lane : Nat) (m : Module) : Module := m.onPort p fun m =>
  if (m.link p).st == 6 && m.reg (portBlk p) 0x044 10 ≤ (m.wire p).replays then
    (m.raise 1 (portBlk p) p).laneFail p lane
  else m

def lockLoss (p lane : Nat) (m : Module) : Module := m.onPort p fun m =>
  if (m.link p).st == 6 && lane < 4 then m.laneFail p lane else m

/-- A lane's symbol errors per million over a window of 1 ms exceed LANE_SER_LIMIT (R72). -/
def laneSerExceeded (p lane ppm : Nat) (m : Module) : Module := m.onPort p fun m =>
  if (m.link p).st == 6 && lane < 4 && m.reg (portBlk p) 0x048 0 < ppm then m.laneFail p lane else m

/-- MARKER_LOSS: frame markers lost on every active lane for 10 µs. ACTIVE goes to DOWN and raises the fault (R67, R74).
R67 gives the loss no effect in another state; R74 names CHECK and QUARANTINED among the states that DOWN follows, and the
model takes the loss as the cause there too, with no fault (DESIGN CHOICE, log entry 95). ALIGN and HELLO end by their own
timers. -/
def markerLoss (p : Nat) (m : Module) : Module := m.onPort p fun m =>
  let l := m.link p
  if l.st == 6 then (m.raise 2 (portBlk p) p).enterDown p
  else if l.st == 5 || l.st == 7 then m.enterDown p
  else m

/-! ### The meanings -/

/-- SYNC_FIFO_RESUME (R33). -/
def execSyncFifoResume (p : Nat) (s : State) : Host.Outcome State Fault Refusal := .next (s.withM (syncFifoResume p))

/-- ENABLE (R67). -/
def execEnable (p : Nat) (on : Bool) (s : State) : Host.Outcome State Fault Refusal := .next (s.withM (enable p on))

/-- RETRAIN (R72). -/
def execRetrain (p : Nat) (s : State) : Host.Outcome State Fault Refusal := .next (s.withM (retrain p))

/-- WIDTH_LIMIT (R71). -/
def execWidthLimit (p : Nat) (v : Nat) (s : State) : Host.Outcome State Fault Refusal := .next (s.withM (widthLimit p v))

/-- DOWN_TIMER_EXPIRY (R67). -/
def execDownTimerExpiry (p : Nat) (s : State) : Host.Outcome State Fault Refusal := .next (s.withM (downTimerExpiry p))

/-- TUNING_DONE (R534). -/
def execTuningDone (p : Nat) (s : State) : Host.Outcome State Fault Refusal := .next (s.withM (tuningDone p))

/-- LIGHT_RECEIVED (R67). -/
def execLightReceived (p : Nat) (s : State) : Host.Outcome State Fault Refusal := .next (s.withM (lightReceived p))

/-- LANES_LOCKED (R67). -/
def execLanesLocked (p : Nat) (s : State) : Host.Outcome State Fault Refusal := .next (s.withM (lanesLocked p))

/-- EQUALISE_TIMEOUT (R67). -/
def execEqualiseTimeout (p : Nat) (lanes : Nat) (s : State) : Host.Outcome State Fault Refusal := .next (s.withM (equaliseTimeout p lanes))

/-- FRAME_MARKERS_FOUND (R67). -/
def execFrameMarkersFound (p : Nat) (lanes : List (List Nat)) (frame : Nat) (s : State) : Host.Outcome State Fault Refusal := .next (s.withM (frameMarkersFound p lanes frame))

/-- ALIGN_TIMEOUT (R67). -/
def execAlignTimeout (p : Nat) (s : State) : Host.Outcome State Fault Refusal := .next (s.withM (alignTimeout p))

/-- HELLO (R69). -/
def execHello (p : Nat) (pk : Pkt) (s : State) : Host.Outcome State Fault Refusal := .next (s.withM (hello p pk))

/-- SWITCH_FRAME_REACHED (R70). -/
def execSwitchFrameReached (p : Nat) (s : State) : Host.Outcome State Fault Refusal := .next (s.withM (switchFrameReached p))

/-- HELLO_TIMEOUT (R67). -/
def execHelloTimeout (p : Nat) (s : State) : Host.Outcome State Fault Refusal := .next (s.withM (helloTimeout p))

/-- SWAP_HOLD_EXPIRY (R77). -/
def execSwapHoldExpiry (p : Nat) (s : State) : Host.Outcome State Fault Refusal := .next (s.withM (swapHoldExpiry p))

/-- HELLO_TRANSMIT (R67). -/
def execHelloTransmit (p : Nat) (s : State) : Host.Outcome State Fault Refusal := .next (s.withM (helloTransmit p))

/-- TIME_TRANSMIT (R81). -/
def execTimeTransmit (p : Nat) (txFrame : Nat) (rxFrame : Nat) (tTx : Nat) (tRx : Nat) (s : State) : Host.Outcome State Fault Refusal := .next (s.withM (timeTransmit p txFrame rxFrame tTx tRx))

/-- HELLO_LOST (R78). -/
def execHelloLost (p : Nat) (s : State) : Host.Outcome State Fault Refusal := .next (s.withM (helloLost p))

/-- SEGMENT_RECEIVED (R62). -/
def execSegmentReceived (p : Nat) (inp : SegIn) (s : State) : Host.Outcome State Fault Refusal := .next (s.withM (segmentReceived p inp))

/-- REPLAY_TIMEOUT (R62). -/
def execReplayTimeout (p : Nat) (s : State) : Host.Outcome State Fault Refusal := .next (s.withM (replayTimeout p))

/-- REPLAY_LIMIT_REACHED (R63). -/
def execReplayLimitReached (p : Nat) (lane : Nat) (s : State) : Host.Outcome State Fault Refusal := .next (s.withM (replayLimitReached p lane))

/-- LOCK_LOSS (R72). -/
def execLockLoss (p : Nat) (lane : Nat) (s : State) : Host.Outcome State Fault Refusal := .next (s.withM (lockLoss p lane))

/-- LANE_SER_EXCEEDED (R72). -/
def execLaneSerExceeded (p : Nat) (lane : Nat) (ppm : Nat) (s : State) : Host.Outcome State Fault Refusal := .next (s.withM (laneSerExceeded p lane ppm))

/-- MARKER_LOSS (R74). -/
def execMarkerLoss (p : Nat) (s : State) : Host.Outcome State Fault Refusal := .next (s.withM (markerLoss p))

end Sys2Proof.Machine
end

