-- ==== Sys2Proof/Machine/Switch.lean ====
section
/-!
DEFINITION. The switch core: ingress checks (R112), policing (R188, R189), routing decisions (R145 to R156), the Calm
escape channel (R157 to R161), Headwind (R164 to R167), early detection (R137 to R139), arrival of a packet's header
and of its trailer (R118 to R123), multicast replication (R257 to R265) and packets of the module's own (R131, R537).
-/
namespace Sys2Proof.Machine

/-! ### Generators (R138, R152, R537) -/

/-- One step of the Galois generator. -/
def lfsrStep (s : Nat) : Nat := if s % 2 == 1 then (s / 2) ^^^ 0x80200003 else s / 2
/-- Sixteen steps. -/
def lfsr16 (s : Nat) : Nat := (List.range 16).foldl (fun s _ => lfsrStep s) s

/-- A draw of 16 bits from a die's early-detection generator. -/
def Module.drawRed (m : Module) (d g : Nat) : Module × Nat :=
  let x := m.die d
  let s := lfsr16 (x.redGen.getD g 0)
  (m.setDie d { x with redGen := x.redGen.set g s }, s % 65536)

/-- A draw of 16 bits from a die's Eddy generator. -/
def Module.drawEddy (m : Module) (d g : Nat) : Module × Nat :=
  let x := m.die d
  let s := lfsr16 (x.eddyGen.getD g 0)
  (m.setDie d { x with eddyGen := x.eddyGen.set g s }, s % 65536)

/-! ### Route entries (R147, R148) -/

/-- The entry of a chip. -/
def Module.routeEntry (m : Module) (chip : Nat) : Nat := m.net.route.get chip
def rePort (e i : Nat) : Nat := bits e (8 * i + 7) (8 * i)
def reFail (e : Nat) : Nat := bits e 39 32
def reCalm (e : Nat) : Nat := bits e 47 40
def reN (e : Nat) : Nat := bits e 49 48
def reValid (e : Nat) : Bool := bitAt e 50
def reFailValid (e : Nat) : Bool := bitAt e 51
def reCalmValid (e : Nat) : Bool := bitAt e 52
def reHash (e : Nat) : Bool := bitAt e 53
def reDiscard (e : Nat) : Bool := bitAt e 54

/-- CALM_DIR of a port: 0 NONE, 1 UP, 2 DOWN (R157). -/
def Module.calmDir (m : Module) (p : Nat) : Nat :=
  let j := p % 32
  bits (m.reg (swBlk (p / 32) 5) (if j < 16 then 0x010 else 0x014) 0) (2 * (j % 16) + 1) (2 * (j % 16))

/-- The bit of CALM_VC_EN for a VC on a die. -/
def Module.calmVcEn (m : Module) (d v : Nat) : Bool := 1 ≤ v && bitAt (m.reg (swBlk d 6) 0xD04 0) (v - 1)

/-- `calm_ok` of R148. -/
def Module.calmOk (m : Module) (d e v : Nat) : Bool :=
  reCalmValid e && m.calmDir (reCalm e) != 0 && m.calmVcEn d v

/-- What step 4 of *Lookup steps* decides. -/
inductive Dec
  /-- Out of a port on a VC, with the header it leaves with (HOP_COUNT not yet raised). -/
  | port (p vc : Nat) (h : Hdr)
  /-- On hold in the VC0 queue of its Calm port. -/
  | hold (p : Nat) (h : Hdr)
  | here (h : Hdr)
  | drop
deriving DecidableEq, Repr

/-- A packet enters Calm or travels in it (R93, R158 to R160); `came` says it arrived on VC0. -/
def Module.calmEgress (m : Module) (d : Nat) (h : Hdr) (inPort : Option Nat) (came : Bool) : Module × Dec :=
  let h := (h.setVc 0).setMode 3
  if m.isOwn h.dest then (m, .here h)
  else
    let e := m.routeEntry h.dest
    let up := match inPort with | some p => came && m.calmDir p == 1 && m.calmDir (reCalm e) == 1 | none => false
    if !reCalmValid e || m.calmDir (reCalm e) == 0 || up then
      ((m.count (swBlk d 6) 0xE10).raise 16 (swBlk d 6) 0, .drop)
    else if !m.active (reCalm e) then (m, .hold (reCalm e) h)
    else (m, .port (reCalm e) 0 h)

/-- A packet discarded for want of a route (R149). An entry with VALID 0 reports the fault whatever its DISCARD (DESIGN CHOICE,
log entry 117: R149 has VALID 0 report it and a DISCARD entry not). -/
def Module.noRoute (m : Module) (d : Nat) (e : Nat) : Module × Dec :=
  let m := m.count (swBlk d 5) 0x200
  (if reValid e && reDiscard e then m else m.raise 15 (swBlk d 5) 0, .drop)

/-- `tradewind_egress` of R148 by the entry of a chip. -/
def Module.tradewind (m : Module) (d : Nat) (h : Hdr) (chip : Nat) (inPort : Option Nat) : Module × Dec :=
  let e := m.routeEntry chip
  if !reValid e || reDiscard e then m.noRoute d e
  else
    let cand := ((List.range (reN e + 1)).map (rePort e)).filter m.usable
    let hash := flowHash h.src h.dest h.part h.vc
    if !cand.isEmpty then
      if reHash e then (m, .port (cand.getD (hash % cand.length) 0) h.vc h)
      else
        let q := cand.map fun p => m.depth p h.vc
        let least := q.foldl min (q.headD 0)
        let low := (cand.zip q).filter fun x => x.2 == least
        (m, .port ((low.getD (hash % low.length) (0, 0)).1) h.vc h)
    else if reFailValid e && m.usable (reFail e) then (m.count (swBlk d 5) 0x208, .port (reFail e) h.vc h)
    else if 1 ≤ h.vc && m.lossless d h.vc && m.calmOk d e h.vc then
      (m.count (swBlk d 6) 0xE00).calmEgress d h inPort false
    else m.noRoute d e

/-- The pinned entry that a packet matches: the exact VC before VC_ANY (R154). -/
def Module.pinOf (m : Module) (h : Hdr) : Option Pin :=
  let b := m.net.pins.get ((h.src * 40503 + h.dest * 1021 + h.part * 7) % 4096)
  let key (e : Pin) : Bool := e.src == h.src && e.dst == h.dest && e.part == h.part
  (b.find? fun e => key e && !e.any && e.vc == h.vc).orElse fun _ => b.find? fun e => key e && e.any && 1 ≤ h.vc

/-- An Eddy draw (R152): the header in mode 1 with its intermediate, or in mode 0 where the draw gives none. -/
def Module.eddyDraw (m : Module) (d g : Nat) (h : Hdr) : Module × Hdr :=
  let set := m.reg (swBlk d 5) (0x1000 + 4 * h.part) 14
  let size := m.net.eddySize.get set
  let (m, r) := m.drawEddy d g
  match (if size == 0 then none else m.net.eddyChip.get (1024 * set + r * size / 65536)) with
  | some chip => (m.count (swBlk d 5) 0x210, (h.setMode 1).setEddy chip)
  | none => (m, (h.setMode 0).setEddy 131071)

/-- Whether a chip is in a partition's Eddy set. -/
def Module.inEddySet (m : Module) (d part chip : Nat) : Bool :=
  let set := m.reg (swBlk d 5) (0x1000 + 4 * part) 14
  (List.range (m.net.eddySize.get set)).any fun i => m.net.eddyChip.get (1024 * set + i) == some chip

/-- The mode policy of the ingress module (R151). -/
def Module.policy (m : Module) (d g : Nat) (h : Hdr) : Module × Hdr :=
  let pol := bits (m.reg (swBlk d 5) (0x1000 + 4 * h.part) 0) (2 * h.vc - 1) (2 * h.vc - 2)
  if pol == 0 then (m, (h.setMode 0).setEddy 131071)
  else if pol == 1 then m.eddyDraw d g h
  else if h.mode == 0 then (m, h)
  else if h.eddy == 131071 then m.eddyDraw d g h
  else if m.inEddySet d h.part h.eddy then (m, h)
  else (m.count (swBlk d 5) 0x218).eddyDraw d g h

/-- Rows 7 and 8 of *Routing decisions*. -/
def Module.byTable (m : Module) (d : Nat) (h : Hdr) (inPort : Option Nat) : Module × Dec :=
  if h.mode == 1 then m.tradewind d h h.eddy inPort else m.tradewind d h h.dest inPort

/-- Rows 3 and 4 after a draw, and then the table. -/
def Module.afterDraw (m : Module) (d : Nat) (h : Hdr) (inPort : Option Nat) : Module × Dec :=
  let h := if h.mode == 1 && m.isOwn h.eddy then h.setMode 0 else h
  if m.isOwn h.dest then (m, .here h) else m.byTable d h inPort

/-- *Routing decisions* (R145), for a lookup on die `d` with generator `g`; `first` admits row 6. A Directed packet has
passed R97. -/
def Module.decide (m : Module) (d g : Nat) (h : Hdr) (inPort : Option Nat) (first : Bool) : Module × Dec :=
  if h.mode == 2 then
    if h.hop == 0 then (m, .here h)
    else (m, .port (h.path / 2 ^ 56) 1 ((h.setPath (h.path * 256 % 2 ^ 64 + inPort.getD 0)).setHop (h.hop - 1)))
  else if h.vc == 0 then m.calmEgress d h inPort true
  else
    let h := if h.mode == 1 && m.isOwn h.eddy then h.setMode 0 else h
    if m.isOwn h.dest then (m, .here h)
    else match m.pinOf h with
      | some e =>
        let m := m.count (swBlk d 5) 0x220
        let h := h.setMode 0
        if m.usable e.port then (m, .port e.port h.vc h)
        else (m.count (swBlk d 5) 0x228).tradewind d h h.dest inPort
      | none =>
        if first && h.hop == 0 then
          let (m, h) := m.policy d g h
          m.afterDraw d h inPort
        else m.byTable d h inPort

/-! ### Headwind (R164 to R167) -/

/-- A HEADWIND applied to the module's own traffic on a die: one of 256 throttles, or the whole VC (R167). -/
def Module.throttle (m : Module) (d dest vc part rate hold : Nat) : Module :=
  let x := m.die d
  let t : Throttle := { dest := dest, vc := vc, part := part, rate := rate, until_ := m.ticks + us hold }
  let l := x.throttles.filter fun y => !(y.dest == dest && y.vc == vc && y.part == part && !y.whole)
  let t := if (l.filter fun y => !y.whole).length < 256 then t else { t with whole := true }
  m.setDie d { x with throttles := (l.filter fun y => !(t.whole && y.whole && y.vc == vc)) ++ [t] }

/-- A limit on every die, whose blocks originate packets. -/
def Module.throttleAll (m : Module) (dest vc part rate hold : Nat) : Module :=
  (List.range 8).foldl (fun m d => m.throttle d dest vc part rate hold) m

/-- A HEADWIND to a packet's source (R164 to R166), at most one for a source and VC in HW_HOLDOFF_US (R165). For REASON 0,
`q` is the depth of the congested queue and its die gives HW_THRESH. -/
def Module.headwind (m : Module) (d : Nat) (h : Hdr) (reason port q : Nat) : Module :=
  if h.src == 131071 || h.type == 0x24 || h.vc < 2 || m.reg (swBlk d 5) (0x1000 + 4 * h.part) 20 == 0 then m
  else
    let x := m.die d
    let off := us (m.reg (swBlk d 6) 0xD10 0)
    if x.hwCache.any fun c => c.1 == h.src && c.2.1 == h.vc && m.ticks < c.2.2 + off then m
    else
      let l := (x.hwCache.filter fun c => !(c.1 == h.src && c.2.1 == h.vc)) ++ [(h.src, h.vc, m.ticks)]
      let m := m.setDie d { x with hwCache := l.drop (l.length - 1024) }
      let th := m.reg (swBlk (port / 32) 6) 0xD0C 0
      let level := if reason == 1 then m.reg (swBlk d 6) 0xD10 24 else min 15 (1 + (q - th) * 8 / th)
      let rate := 256 - 16 * level
      let hold := m.reg (swBlk d 6) 0xD10 10
      if h.src == m.chip then m.throttleAll h.dest h.vc h.part rate hold
      else
        (m.count (swBlk d 6) 0xE28).originate (Pkt.make (mkHdr 0x24 1 h.src m.chip h.part 0 (h.vc + 8 * reason + 16 * level))
          (beBytes 4 m.chip ++ beBytes 4 h.dest ++ beBytes 1 (if reason == 1 then 0xFF else port) ++ beBytes 1 rate ++
           beBytes 2 hold ++ zeros 4)) (some d)

/-! ### Early detection (R137 to R139) -/

/-- `decide` of R138 over a profile of an egress die, drawing from the lookup's generator. -/
def Module.redDecide (m : Module) (eg prof avg d g : Nat) : Module × Bool :=
  let b := swBlk eg 6
  let r (o lo : Nat) : Nat := m.reg b (0x800 + 16 * prof + o) lo
  if r 8 12 == 0 || avg < r 0 0 then (m, false)
  else if r 4 0 ≤ avg then (m, true)
  else
    let p16 := (r 8 0 * 256 * (avg - r 0 0)) / (r 4 0 - r 0 0)
    let (m, x) := m.drawRed d g
    (m, x < p16)

/-- Index of an output queue's average depth on its die. -/
def avgKey (p v : Nat) : Nat := 8 * (p % 32) + v

/-- The average depth of an output queue of VC2 to VC7 after an enqueue at depth `q`, with the WEIGHT of the profile that
GREEN_PROF names (R137). -/
def Module.averaged (m : Module) (p v q : Nat) : Module :=
  if v < 2 then m
  else
    let b := swBlk (p / 32) 6
    let w := m.reg b (0x800 + 16 * m.reg b (0x900 + 4 * avgKey p v) 0 + 8) 8
    let x := m.die (p / 32)
    let a : Int := x.avg.get (avgKey p v)
    m.setDie (p / 32) { x with avg := x.avg.put (avgKey p v) (a + Int.fdiv (q - a) (2 ^ w : Nat)).toNat }

/-- Step 5 for one output queue: the header, marked or not, or a discard; with the queue's depth and the drop step. The
average is that of the enqueues before (DEDUCED, log entry 96). -/
def Module.detect (m : Module) (d g : Nat) (p v c : Nat) (h : Hdr) : Module × Option Hdr × Nat × Nat :=
  let q := m.depth p v
  if v < 2 then (m, some h, q, 0)
  else
    let eg := p / 32
    let b := swBlk eg 6
    let o := 0x900 + 4 * avgKey p v
    let lossy := !m.lossless eg v
    if lossy && m.reg b o 12 != 0 && m.reg b o 12 < q + c then (m.count b 0xF10, none, q, 9)
    else
      let (m, act) := m.redDecide eg (m.reg b o (4 * min h.colour 2)) ((m.die eg).avg.get (avgKey p v)) d g
      if !act then (m, some h, q, 0)
      else if lossy then (m.count b 0xF08, none, q, 5)
      else (m.count b 0xF00, some h.setMark, q, 0)

/-! ### Policers (R188, R189) -/

/-- Rank of a policer's key for a packet: smaller is taken first; `none` where it does not match. -/
def Module.polRank (m : Module) (s : Nat) (j v part : Nat) : Option Nat :=
  let b := swBlk (s / 2048) 6
  let o := 0x18000 + 32 * (s % 2048)
  let anyPart := m.reg b o 22 == 1
  let anyVc := m.reg b o 9 == 1
  let anyPort := m.reg b o 5 == 1
  if (anyPart || m.reg b o 10 == part) && (anyVc || m.reg b o 6 == v) && (anyPort || m.reg b o 0 == j) then
    some (b2n anyPart * 4 + b2n anyVc * 2 + b2n anyPort)
  else none

/-- The policer that a packet meets. -/
def Module.polPick (m : Module) (d j v part : Nat) : Option Nat :=
  let l := (m.net.policers.cells.filter fun c => c.1 / 2048 == d && c.2.on).filterMap fun c =>
    (m.polRank c.1 j v part).map fun r => (c.1, r)
  (sortBy (fun x => x.2 * 2048 + x.1 % 2048) l).head?.map (·.1)

/-- Step 3: the colour that the policer gives, and its tokens. -/
def Module.police (m : Module) (p : Nat) (h : Hdr) : Module × Hdr :=
  if h.vc < 2 then (m, h)
  else
    let d := p / 32
    match m.polPick d (p % 32) h.vc h.part with
    | none => (m, h)
    | some s =>
      let x := m.net.policers.get s
      let blind := m.reg (swBlk d 6) (0x18000 + 32 * (s % 2048)) 23 == 0
      let b := 16 * h.linkLen
      let put (m : Module) (x : Policer) : Module := { m with net := { m.net with policers := m.net.policers.put s x } }
      if (!blind && h.colour == 2) || x.tp < b then (m.count (swBlk d 6) 0x31010, h.setColour 2)
      else if (!blind && h.colour == 1) || x.tc < b then
        ((put m { x with tp := x.tp - b }).count (swBlk d 6) 0x31008, h.setColour 1)
      else ((put m { x with tp := x.tp - b, tc := x.tc - b }).count (swBlk d 6) 0x31000, h.setColour 0)

/-! ### Local-target queues (R119, R158) -/

/-- The local target of a packet by TYPE: 0 memory, 1 Vane controller, 2 collectives, 3 engines, 4 others. -/
def localTarget (h : Hdr) : Nat :=
  if h.type == 0x20 then 1
  else if h.type == 2 && 0x7F0000000000 ≤ h.offset then 1
  else if 0x10 ≤ h.type && h.type ≤ 0x14 then 2
  else if h.type == 0x30 then 3
  else if h.type == 1 || h.type == 2 || h.type == 4 || h.type == 6 || h.type == 0x15 then 0
  else 4

/-- The first packet of each local-target queue of a die gets its waiting time started. -/
def Module.localHeads (m : Module) (d : Nat) : Module :=
  (List.range 5).foldl (fun m t =>
    match (m.die d).localQ.find? fun id => ((m.bp id).map fun b => localTarget b.pkt.h) == some t with
    | some id => m.updBp id fun b => if b.headSince == 0 then { b with headSince := max m.ticks 1 } else b
    | none => m) m

/-- A packet joins its die's local-target queue. -/
def Module.pushLocal (m : Module) (d id : Nat) : Module :=
  let m := m.updBp id fun b => { b with here := true }
  (m.setDie d { m.die d with localQ := (m.die d).localQ ++ [id] }).localHeads d

/-! ### Enqueueing a decided packet (steps 5 to 7) -/

/-- Reason bits of sampling and matching for a header that passed step 1. -/
def Module.wsReasons (m : Module) (d p : Nat) (h : Hdr) : Module × Nat :=
  let g := p / 8 % 4
  let x := m.die d
  let k := x.ring.headers.getD g 0 + 1
  let n := m.reg (swBlk d 8) 0x014 0
  let m := m.setDie d { x with ring := { x.ring with headers := x.ring.headers.set g k } }
  (m, b2n (n != 0 && k % (max n 1) == 0) + 2 * b2n (m.wsMatch d h))

/-- One copy: early detection, Headwind, the record, the descriptor. The header it leaves with has HOP_COUNT raised (R94)
except in Directed mode. -/
def Module.putCopy (m : Module) (id d g : Nat) (p v : Nat) (h : Hdr) (hold : Option Nat) (fixed : Bool := false) : Module :=
  match m.bp id with
  | none => m
  | some b =>
    let (m, r, q, step) := m.detect d g p v b.cells h
    match r with
    | none => m.dropRecord b step p v 0 0
    | some h =>
      let th := m.reg (swBlk (p / 32) 6) 0xD0C 0
      let m := if 2 ≤ v && th != 0 && th < q then m.headwind d h 0 p q else m
      let h := if h.mode == 2 then h else h.setHop (h.hop + 1)
      let c : Copy := { port := p, vc := v, fq := m.flowOf p v h.part, h := h.sealed, hold := hold, fixed := fixed, q := q }
      ((m.averaged p v q).enqueue id c).passRecord b p v 0 q

/-- Steps 5 to 7 for a decision; a packet that was on hold on the same port keeps the start of its hold (R160). -/
def Module.apply (m : Module) (id d g : Nat) (x : Dec) (held : Option (Nat × Nat) := none) : Module :=
  match x with
  | .port p v h => m.putCopy id d g p v h none
  | .hold p h => m.putCopy id d g p 0 h (some (match held with | some (q, t) => if q == p then t else m.ticks | none => m.ticks))
  | .here h =>
    let m := m.updBp id fun b => { b with pkt := { b.pkt with h := h.sealed }, store := true }
    let m := m.pushLocal d id
    (match m.bp id with
    | some b => m.passRecord b 0 0 1 0
    | none => m)
  | .drop =>
    (match m.bp id with
    | some b => m.dropRecord b 4 0 0 2 0
    | none => m)

/-- A packet left without a copy and not waiting here is freed as discarded. -/
def Module.discardIfNone (m : Module) (id : Nat) : Module :=
  match m.bp id with
  | some b => if b.copies.isEmpty && !b.here && !b.mcast && !b.parked then m.freeBp id else m
  | none => m

/-! ### Rerouting (R172) -/

/-- *Routing decisions* applied again to a descriptor, whose copy leaves its queue. A multicast copy has no other port to go
to: it is discarded, and counts as one that finds its port down or fenced (DESIGN CHOICE, log entry 118: R259 keeps it from
*Routing decisions* and R172 names no outcome for it). -/
def Module.redecide (m : Module) (b : BPkt) (c : Copy) : Module :=
  let m := m.dropCopy b.id c
  if c.h.mode == 2 then (m.count (pgBlk (b.inPort.getD c.port)) 0x418).discardIfNone b.id
  else if c.fixed then (m.count (hubBlk 1) 0x1D8).discardIfNone b.id
  else if c.h.type == 0x15 && c.vc != 0 then
    (m.count (swBlk b.die 10) (if bitAt (m.die (c.port / 32)).mcFenced (c.port % 32) then 0x120 else 0x118)).discardIfNone b.id
  else
    let g := match b.inPort with | some q => q / 8 % 4 | none => 4
    -- a packet that entered Calm at this module starts its Calm path here (R160)
    let inP := if c.vc == 0 && b.asArrived.vc != 0 then none else b.inPort
    let (m, x) := m.decide b.die g (c.h.setHop (c.h.hop - 1)) inP (c.h.type != 0x24)
    (m.apply b.id b.die g x (c.hold.map fun t => (c.port, t))).discardIfNone b.id

/-- The descriptors queued for a port: each packet with its copies there that have not begun. -/
def Module.queuedOn (m : Module) (p : Nat) : List Nat :=
  (m.net.queues.cells.filter fun c => qPort c.1 == p).flatMap fun c => c.2

/-- Descriptors of a port chosen by `f`, each decided again after `g`. -/
def Module.redecideOn (m : Module) (p : Nat) (f : Copy → Bool) : Module :=
  (m.queuedOn p).foldl (fun m id =>
    match m.bp id with
    | none => m
    | some b =>
      (b.copies.filter fun c => c.port == p && !c.begun && f c).foldl (fun m c =>
        (m.count (swBlk b.die 5) 0x230).redecide b c) m) m

/-- REROUTE_QUEUED: *Routing decisions* applied again to every descriptor that was queued for a port when it went DOWN; each
counts (R172). -/
def rerouteQueued (p : Nat) (m : Module) : Module := if p < 256 then m.redecideOn p fun c => c.due else m

/-- The descriptors that are due on any port, decided again: no packet is looked up or starts before them, so that none of
its flow queue overtakes them (R126, R172). -/
def Module.rerouteDue (m : Module) : Module :=
  (((m.net.pkts.flatMap (·.copies)).filter fun c => c.due && !c.begun).map (·.port)).eraseDups.foldl
    (fun m p => rerouteQueued p m) m

/-- The Calm ports were rewritten: every packet on hold is decided again (R160, R172). -/
def Module.rehold (m : Module) : Module :=
  (m.net.pkts.filter fun b => b.copies.any fun c => c.hold.isSome && !c.begun).foldl (fun m b =>
    (b.copies.filter fun c => c.hold.isSome && !c.begun).foldl (fun m c => m.redecide b c) m) m

/-! ### Ingress checks (R112) -/

/-- The check that fails first: 1 header, 2 encodings, 3 hop limit, 4 Directed, 5 partition 0; 0 where none does. -/
def Module.ingressFail (m : Module) (p : Nat) (h : Hdr) : Nat :=
  if !h.intact then 1
  else if h.illegal then 2
  else if h.mode == 2 then
    (if 8 < h.hop || 8 < h.pathLen || h.pathLen < h.hop ||
       (h.hop != 0 && (!m.active (h.path / 2 ^ 56) || h.path / 2 ^ 56 == p)) then 4
     else if h.part == 0 && !m.trusted p then 5 else 0)
  else if h.hop == 63 && !m.isOwn h.dest then 3
  else if h.part == 0 && !m.trusted p then 5
  else 0

/-- Whether a header is that of a CMD for this module: to its chip number, or at the end of its path (R427). -/
def Module.cmdHere (m : Module) (h : Hdr) : Bool := h.type == 0x20 && (if h.mode == 2 then h.hop == 0 else m.isOwn h.dest)

/-- A CMD for this module that fails check 4 of *Ingress checks* counts in CMD_REFUSED too (R431). -/
def Module.cmdRefused (m : Module) (k : Nat) (h : Hdr) : Module :=
  if k == 5 && m.cmdHere h then m.count (mgtBlk 255) 0x110 else m

/-- The counter of a failed check, and its fault. -/
def Module.ingressCount (m : Module) (p k : Nat) : Module :=
  let b := pgBlk p
  if k == 1 then (m.count b 0x400).raise 7 b p
  else if k == 2 then m.count b 0x408
  else if k == 3 then m.count b 0x410
  else if k == 4 then m.count b 0x418
  else m.count b 0x420

/-- A new packet in a die's buffer, its cells already taken. -/
def Module.addBp (m : Module) (b : BPkt) : Module :=
  { m with net := { m.net with pkts := m.net.pkts ++ [{ b with id := m.net.nextId }], nextId := m.net.nextId + 1 } }

/-- A header dropped at its lookup: what follows of its packet is dropped as it comes, and its cells return as credit. -/
def Module.dropHeader (m : Module) (p : Nat) (h : Hdr) : Module :=
  ((m.skipRest p h.len).creditReturn p h.vc h.cells).checkBacked (p / 32)

/-- Steps 2 to 7 for a header that passed the ingress checks (R118). -/
def Module.lookup (m : Module) (p : Nat) (h : Hdr) : Module :=
  let d := p / 32
  let (m, why) := m.wsReasons d p h
  match m.alloc d h.cells with
  | none =>
    (((m.count (swBlk d 4) 0x128).raise 14 (swBlk d 4) 0).captureDrop d p h m.now 2 why).dropHeader p h
  | some (m, cells) =>
    let m := m.setWire p { m.wire p with charged := (m.wire p).charged + h.cells }
    let m := m.checkBacked d
    let (m, h2) := m.police p h
    let id := m.net.nextId
    let m := m.addBp { die := d, pkt := { h := h2, port := some p }, chain := cells, inPort := some p,
                       ftc := m.now, asArrived := h, why := why }
    let m := m.setWire p { m.wire p with arriving := some id }
    let g := p / 8 % 4
    if h2.type == 0x15 && h2.vc != 0 then
      if h2.dest != 131071 then
        let m := m.count (swBlk d 10) 0x130
        (match m.bp id with | some b => m.dropRecord b 4 0 0 2 0 | none => m).freeBp id
      else m.updBp id fun b => { b with mcast := true }
    else
      let (m, x) := m.decide d g h2 (some p) true
      (m.apply id d g x).discardIfNone id

/-- Whether a multicast packet that came by a port still waits for its replication, at step 4 of its lookup. -/
def Module.inLookup (m : Module) (p : Nat) : Bool := m.net.pkts.any fun b => b.inPort == some p && b.mcast

/-- A LINK_LOCAL header at the head of the stream (R60): one that fails its checks is discarded, a FILL packet is taken;
HELLO and TIME are taken whole by their own rows. -/
def Module.localHeader (m : Module) (p : Nat) (h : Hdr) : Module :=
  if !localHdrOk h then ((m.rxDrop p 32).skipRest p h.len).count (portBlk p) 0x130
  else if h.tw % 256 == 1 then
    let m := m.rxDrop p 32
    m.setWire p { m.wire p with filling := true }
  else m

/-- PACKET_ARRIVAL: the next header `h` of the received stream is looked up (R118), each in its turn: a port's headers go
through the lookup in the order of the stream, and none is taken twice (R32, R126). In QUARANTINED a packet other than
LINK_LOCAL is dropped; in CHECK it waits for ACTIVE (DESIGN CHOICE, log entry 97). -/
def packetArrival (p : Nat) (h : Hdr) (m : Module) : Module := m.onPort p fun m =>
  if m.rxHead p != some h then m
  else if h.type == 0xF0 then m.localHeader p h
  else if (m.link p).st == 7 then (m.rxDrop p 32).dropHeader p h
  else
    let d := p / 32
    if (m.link p).st != 6 || (m.die d).mode != 2 || m.dieFenced d || m.inLookup p then m
    else
      let m := m.rerouteDue.rxDrop p 32
      let m := { m with pwr := { m.pwr with activeAt := m.ticks } }
      let m := m.wake 1
      let k := m.ingressFail p h
      if k == 0 then m.lookup p h
      else (((m.ingressCount p k).cmdRefused k h).captureDrop d p h m.now 1 (2 * b2n (m.wsMatch d h))).dropHeader p h

/-! ### Multicast replication (R259) -/

def Module.mcEntry (m : Module) (h : Hdr) : MEntry := m.net.mcast.get (h.tag % 2 ^ 14)

/-- The ports to which an entry copies a packet that came by a port; the ports left out are counted, a fenced one in
MC_FENCED_DROP (R259, R264). -/
def Module.mcPorts (m : Module) (d : Nat) (e : MEntry) (from_ : Option Nat) : Module × List Nat :=
  (onesOf e.ports 256).foldl (fun (a : Module × List Nat) p =>
    if some p == from_ then a
    else if bitAt (a.1.die (p / 32)).mcFenced (p % 32) then (a.1.count (swBlk d 10) 0x120, a.2)
    else if !a.1.usable p then (a.1.count (swBlk d 10) 0x118, a.2)
    else (a.1, a.2 ++ [p])) (m, [])

/-- MCAST_REPLICATION: a buffered MCAST_DATA is checked against its entry and copied (R259). The local copy is for a module
that has a chip number (R100). -/
def mcastReplication (id : Nat) (m : Module) : Module :=
  match m.bp id with
  | none => m
  | some b =>
    if !b.mcast then m
    else
      let d := b.die
      let e := m.mcEntry b.pkt.h
      let m := m.rerouteDue.updBp id fun b => { b with mcast := false }
      let drop (m : Module) (off : Nat) : Module := ((m.count (swBlk d 10) off).dropRecord b 4 0 0 2 0).freeBp id
      if !bitAt e.word0 16 then drop m 0x108
      else if bits e.word0 11 0 != b.pkt.h.part then drop m 0x110
      else
        let (m, ports) := m.mcPorts d e b.pkt.port
        let g := match b.inPort with | some p => p / 8 % 4 | none => 4
        let v := if b.inPort.isSome then b.pkt.h.vc else bits e.word0 14 12
        let m := ports.foldl (fun m p => m.putCopy id d g p v (b.pkt.h.setVc v) none) m
        let m := if bitAt e.word0 15 && m.chip != 131071 && b.pkt.port.any (· < 256) then m.pushLocal d id else m
        let m := match m.bp id with
          | some b => if b.here then m.passRecord b 0 0 1 0 else if b.copies.isEmpty then m.dropRecord b 4 0 0 2 0 else m
          | none => m
        m.discardIfNone id

/-! ### The trailer (R106, R108, R122) -/

/-- The trailer of a FILL packet (R60, R108). -/
def Module.fillTail (m : Module) (p : Nat) : Module :=
  let w := m.wire p
  if w.rxq.length < 8 then m
  else
    let m := m.setWire p { w with filling := false, rxq := w.rxq.drop 8 }
    if fieldBE w.rxq 0 4 == (crc32c []).toNat && !bitAt (fieldBE w.rxq 4 4) 0 then m else m.count (portBlk p) 0x130

/-- A packet whose payload and trailer are complete: marked, discarded, or passed (R106, R122). -/
def Module.packetWhole (m : Module) (p id : Nat) (b : BPkt) : Module :=
  let begun := b.copies.any (·.begun)
  if b.mark.isSome then
    let m := (m.updBp id fun b => { b with mark := none }).putMark id (b.mark.getD 2)
    if b.here then m else m.settle id
  else if b.pkt.good then m.settle id
  else if begun then
    let m := m.markBad id 1
    if b.here then m else m.settle id
  else if b.here then (m.dropUnbegun id).updBp id fun b => { b with bad := true }
  else
    let m := (m.count (pgBlk p) 0x490).raise 8 (pgBlk p) p
    ((m.captureLost b 8).dropUnbegun id).freeBp id

/-- Whether a payload of `n` bytes and a trailer come next in the received stream. -/
def Module.tailNext (m : Module) (p n : Nat) (pl : Bytes) (t0 t1 : Word) : Bool :=
  let q := (m.wire p).rxq
  n + 8 ≤ q.length && pl == q.take n && t0 == BitVec.ofNat 32 (fieldBE q n 4) && t1 == BitVec.ofNat 32 (fieldBE q (n + 4) 4)

/-- PACKET_TAIL_ARRIVAL: the payload `pl` and the trailer of the packet that arrives have come; its replication, if it is a
multicast, has been done. -/
def packetTailArrival (p : Nat) (pl : Bytes) (t0 t1 : Word) (m : Module) : Module := m.onPort p fun m =>
  let w := m.wire p
  if w.filling then if m.tailNext p 0 pl t0 t1 then m.fillTail p else m
  else match w.arriving.bind m.bp with
    | none => m
    | some b =>
      let n := b.pkt.h.len
      if b.mcast || !m.tailNext p n pl t0 t1 then m
      else
        let m := m.setWire p { w with arriving := none, rxq := w.rxq.drop (n + 8) }
        let k := { b.pkt with pl := pl, t0 := t0, t1 := t1 }
        let m := m.updBp b.id fun b => { b with pkt := k, whole := true }
        m.packetWhole p b.id { b with pkt := k }

/-! ### Packets of the module's own (R131, R537) -/

/-- Steps 4 to 7 for a packet that the module originates. HEADWIND goes in mode 0, whatever the policy of its partition
(R166); an MCAST_DATA whose DEST_CHIP is not 131,071 is discarded (R258). -/
def Module.lookupOwn (m : Module) (id d : Nat) (o : Orig) : Module :=
  (((o.out, o.pkt.h) :: o.outs).foldl (fun (m : Module) x =>
    let h := x.2
    match x.1 with
    | some p =>
      if m.active p then m.putCopy id d 4 p h.vc h none true
      else if h.mode == 2 then m.count (pgBlk p) 0x418
      else m.count (hubBlk 1) 0x1D8
    | none =>
      if h.type == 0x15 then
        if h.dest != 131071 then m.count (swBlk d 10) 0x130 else m.updBp id fun b => { b with mcast := true }
      else
        let (m, k) := m.decide d 4 h none (h.type != 0x24)
        m.apply id d 4 k) m).discardIfNone id

/-- A packet of the module takes cells on a die, if FREE_CELLS − c ≥ EXPOSURE afterwards, and is looked up (R131). -/
def Module.launch (m : Module) (d : Nat) (o : Orig) : Option Module :=
  let c := o.pkt.h.cells
  if (m.die d).mode != 2 || (m.die d).freeCells < m.exposure d + c then none
  else match m.alloc d c with
    | none => none
    | some (m, cells) =>
      let id := m.net.nextId
      let m := m.addBp { die := d, pkt := o.pkt, chain := cells, whole := true, store := true, ftc := m.now,
                         asArrived := o.pkt.h }
      some ((m.lookupOwn id d o).checkBacked d)

/-- ORIGINATED_PACKET_WAIT: a waiting packet takes cells once FREE_CELLS − c ≥ EXPOSURE, and is looked up. -/
def originatedPacketWait (i : Nat) (m : Module) : Module :=
  match m.net.orig[i]? with
  | none => m
  | some o =>
    let d := o.die.getD (o.pkt.h.dest % 8)
    let gone := { m with net := { m.net with orig := m.net.orig.eraseIdx i } }
    if !m.fabricUp then gone
    else if m.dieFenced d then gone.count (swBlk d 4) 0x138
    else if (m.pwr.lull != 0 && m.pwr.lull != 1) || (m.net.pkts.any fun b => b.die == d && b.inPort.isNone && b.mcast) then m
    else (gone.rerouteDue.launch d o).getD m

/-! ### Pool manager (R129, R133 to R136) -/

/-- REBALANCER_STEP: one chain linked or unlinked toward the targets; of two pools off their targets the large one is
served first (DESIGN CHOICE, log entry 90). -/
def rebalancerStep (d : Nat) (m : Module) : Module :=
  let x := m.die d
  let b := swBlk d 4
  if !(d < 8) || x.mode != 2 then m
  else if x.large.length < m.reg b 0x018 0 && 9 ≤ x.small.length then
    m.setDie d { x with large := x.small.take 9 :: x.large, small := x.small.drop 9 }
  else if x.medium.length < m.reg b 0x014 0 && 4 ≤ x.small.length then
    m.setDie d { x with medium := x.small.take 4 :: x.medium, small := x.small.drop 4 }
  else if m.reg b 0x018 0 < x.large.length && x.small.length < m.reg b 0x010 0 then
    m.setDie d { x with large := x.large.drop 1, small := x.large.headD [] ++ x.small }
  else if m.reg b 0x014 0 < x.medium.length && x.small.length < m.reg b 0x010 0 then
    m.setDie d { x with medium := x.medium.drop 1, small := x.medium.headD [] ++ x.small }
  else m

/-- The free cells of a bitmap formed into chains from cell 0 upward: large ones first, then medium, then small, each
pushed onto its stack (R134). -/
def Die.convert (x : Die) (large medium : Nat) : Die :=
  let f := firstFree x.bitmap 262144
  let nl := min large (f.length / 9)
  let nm := min medium ((f.length - 9 * nl) / 4)
  { x with mode := 2, bitmap := 0,
           large := (chunks 9 (f.take (9 * nl))).reverse,
           medium := (chunks 4 ((f.drop (9 * nl)).take (4 * nm))).reverse,
           small := (f.drop (9 * nl + 4 * nm)).reverse }

/-- POOL_CONVERSION_DONE: the free cells of the bitmap stand in chains that meet the targets, and MODE reads 2 (R134). At a
start it also ends the self-test in bitmap mode, until which MODE reads 0 (DESIGN CHOICE, log entry 122: the table has no row
for the start of the conversion; after RECOVER MODE reads 1). -/
def poolConversionDone (d : Nat) (m : Module) : Module :=
  let x := m.die d
  if !(d < 8) || 2 ≤ x.mode || !m.pwr.main then m
  else
    ((m.setDie d (x.convert (m.reg (swBlk d 4) 0x018 0) (m.reg (swBlk d 4) 0x014 0))).checkBacked d).checkReady

/-- Whether RECOVER is accepted on a die: every port DOWN, or the die fenced (R136). -/
def Module.recoverOk (m : Module) (d : Nat) : Bool :=
  m.dieFenced d || (diePorts d).all fun p => (m.link p).st == 0

/-- A bitmap of every cell but the retired ones and those in `held`. -/
def Die.bitmapBut (x : Die) (held : List Nat) : BitVec 262144 := setCells (BitVec.allOnes 262144) (x.retired ++ held) false

/-- The lists of a die rebuilt: a bitmap from the packets it holds; conversion follows (R136). -/
def Module.rebuildPool (m : Module) (d : Nat) : Module :=
  let x := m.die d
  m.setDie d { x with mode := 1, small := [], medium := [], large := [],
                      bitmap := x.bitmapBut ((m.net.pkts.filter (·.die == d)).flatMap (·.chain)) }

/-- RECOVER written. -/
def recover (d : Nat) (m : Module) : Module :=
  if d < 8 && m.pwr.main && m.recoverOk d then m.rebuildPool d else m

/-- RESET_RING written (R141). -/
def Module.ringReset (m : Module) (d : Nat) : Module :=
  let x := m.die d
  m.setDie d { x with ring := { x.ring with seq := 0, written := 0, lost := 0, stopped := false } }

def resetRing (d : Nat) (m : Module) : Module := if d < 8 && m.pwr.main then m.ringReset d else m

/-- ADMIT_SET written (R172): ADMITTED is set where the port is ACTIVE. -/
def admitSet (d mask : Nat) (m : Module) : Module :=
  if d < 8 && m.pwr.main then
    (onesOf mask 32).foldl (fun m j =>
      if m.active (32 * d + j) then
        { m with net := { m.net with admitted := setBit m.net.admitted (32 * d + j) true } } else m) m
  else m

/-- COUNTER_CLEAR: a write to a CLEAR register clears its table's counters (R11). -/
def counterClear (blk off : Nat) (m : Module) : Module :=
  match (fieldsAt blk off).find? fun f => f.1.clr.isSome with
  | some (f, _) => (match f.clr with | some (a, b) => m.clearRegs blk a b | none => m)
  | none => m

/-! ### The meanings -/

/-- REROUTE_QUEUED (R172). -/
def execRerouteQueued (p : Nat) (s : State) : Host.Outcome State Fault Refusal := .next (s.withM (rerouteQueued p))

/-- PACKET_ARRIVAL (R118). -/
def execPacketArrival (p : Nat) (h : Hdr) (s : State) : Host.Outcome State Fault Refusal := .next (s.withM (packetArrival p h))

/-- MCAST_REPLICATION (R259). -/
def execMcastReplication (id : Nat) (s : State) : Host.Outcome State Fault Refusal := .next (s.withM (mcastReplication id))

/-- PACKET_TAIL_ARRIVAL (R122). -/
def execPacketTailArrival (p : Nat) (pl : Bytes) (t0 : Word) (t1 : Word) (s : State) : Host.Outcome State Fault Refusal := .next (s.withM (packetTailArrival p pl t0 t1))

/-- ORIGINATED_PACKET_WAIT (R131). -/
def execOriginatedPacketWait (idx : Nat) (s : State) : Host.Outcome State Fault Refusal := .next (s.withM (originatedPacketWait idx))

/-- REBALANCER_STEP (R129). -/
def execRebalancerStep (d : Nat) (s : State) : Host.Outcome State Fault Refusal := .next (s.withM (rebalancerStep d))

/-- POOL_CONVERSION_DONE (R134). -/
def execPoolConversionDone (d : Nat) (s : State) : Host.Outcome State Fault Refusal := .next (s.withM (poolConversionDone d))

/-- RECOVER (R136). -/
def execRecover (d : Nat) (s : State) : Host.Outcome State Fault Refusal := .next (s.withM (recover d))

/-- RESET_RING (R141). -/
def execResetRing (d : Nat) (s : State) : Host.Outcome State Fault Refusal := .next (s.withM (resetRing d))

/-- ADMIT_SET (R172). -/
def execAdmitSet (d : Nat) (mask : Nat) (s : State) : Host.Outcome State Fault Refusal := .next (s.withM (admitSet d mask))

/-- COUNTER_CLEAR (R11). -/
def execCounterClear (blk : Nat) (off : Nat) (s : State) : Host.Outcome State Fault Refusal := .next (s.withM (counterClear blk off))

end Sys2Proof.Machine
end

