-- ==== Sys2Proof/Machine/Traffic.lean ====
section
/-!
DEFINITION. Traffic management: the scheduler of an egress port (R175 to R178), the start and the end of a packet on
the link (R120, R121, R123), shapers, policers and the timing wheel (R183 to R189), entry to Calm and its hold (R158
to R160, R263) and the throttles of received HEADWINDs (R167).
-/
namespace Sys2Proof.Machine

/-! ### Shapers -/

/-- The wait of a queue's head is suspended while a shaper holds the queue (R182). -/
def Module.syncHeads (m : Module) : Module :=
  m.net.heads.keys.foldl (fun m k =>
    let x := m.net.heads.get k
    let ok := m.shaped k
    if x.suspended && ok then
      { m with net := { m.net with heads := m.net.heads.put k { x with suspended := false, since := m.ticks } } }
    else if !x.suspended && !ok then
      let y : Head := { x with suspended := true, waited := x.waited + (m.ticks - x.since) }
      { m with net := { m.net with heads := m.net.heads.put k y } }
    else m) m

/-- Refill boundaries until a shaper's TOKENS reach 0, with the last slot and `true` beyond the wheel's 4,096 (R186). -/
def Shaper.ahead (x : Shaper) : Nat × Bool :=
  if x.incr == 0 then (4096, true)
  else
    let n := ceilDiv (-x.tokens).toNat x.incr
    if 4096 < n then (4096, true) else (n, false)

/-- The slot of a shaper computed for the present boundary: none while TOKENS ≥ 0. -/
def Module.wheelSlot (m : Module) (x : Shaper) : Shaper :=
  if x.tokens < 0 then { x with slot := some (m.net.refill + x.ahead.1), parked := x.ahead.2 }
  else { x with parked := false }

/-- A shaper placed on its die's timing wheel, with its counters. -/
def Module.placeWheel (m : Module) (s : Nat) : Module :=
  let x := m.net.shapers.get s
  let y := m.wheelSlot x
  let m := ({ m with net := { m.net with shapers := m.net.shapers.put s y } }).count (swBlk (s / 2048) 6) 0x31018
  if y.parked then m.count (swBlk (s / 2048) 6) 0x31020 else m

/-- `on_send` of R184 for the shapers of a queue. -/
def Module.onSend (m : Module) (k len : Nat) : Module :=
  (m.shapersOf k).foldl (fun m s =>
    let x := m.net.shapers.get s
    let x := { x with tokens := x.tokens - 16 * len }
    let m := { m with net := { m.net with shapers := m.net.shapers.put s x } }
    if x.tokens < 0 then m.placeWheel s else m) m

/-- Refill of one shaper, enabled or not (R184, R185). The slot of a queue on the wheel is computed anew; one parked beyond
the horizon keeps the last slot until it comes round (R186), unless INCR or BURST changes here (R191). -/
def Module.refillShaper (m : Module) (s : Nat) : Module :=
  let x := m.net.shapers.get s
  let r (o : Nat) : Nat := m.reg (swBlk (s / 2048) 6) (0x10000 + 16 * (s % 2048) + o) 0
  let y := { x with incr := r 4, burst := r 8, tokens := min (x.tokens + r 4) (16 * r 8) }
  let y := if y.slot.isNone || (y.parked && x.incr == y.incr && x.burst == y.burst) then y
           else if y.tokens < 0 then m.wheelSlot y else { y with slot := some m.net.refill }
  { m with net := { m.net with shapers := m.net.shapers.put s y } }

/-- Refill of one policer, enabled or not (R189). -/
def Module.refillPolicer (m : Module) (s : Nat) : Module :=
  let x := m.net.policers.get s
  let r (o : Nat) : Nat := m.reg (swBlk (s / 2048) 6) (0x18000 + 32 * (s % 2048) + o) 0
  let y := { x with cir := r 4, pir := r 8, cbs := r 0xC, pbs := r 0x10,
                    tc := min (x.tc + r 4) (16 * r 0xC), tp := min (x.tp + r 8) (16 * r 0x10) }
  { m with net := { m.net with policers := m.net.policers.put s y } }

/-- Rows of a table of the traffic managers, with `w` bytes of registers each from `lo` up to `hi`, of which a register is
written or that `l` lists. -/
def Module.rowsSet (m : Module) (l : List Nat) (lo hi w : Nat) : List Nat :=
  (l ++ m.regs.keys.filterMap fun k =>
    let b := k / 2 ^ 32
    let o := k % 2 ^ 32 / 64
    if b < 2048 && b % 256 == 6 && lo ≤ o && o < hi then some (2048 * (b / 256) + (o - lo) / w) else none).eraseDups

/-- The shapers and the policers that are not at reset. -/
def Module.shaperIds (m : Module) : List Nat := m.rowsSet m.net.shapers.keys 0x10000 0x18000 16
def Module.policerIds (m : Module) : List Nat := m.rowsSet m.net.policers.keys 0x18000 0x28000 32

/-- SHAPER_REFILL: the next refill boundary, a multiple of 4,096 of the FTC; each boundary refills once. -/
def shaperRefill (m : Module) : Module :=
  if m.pwr.main then
    let m := m.reach ((m.net.refill + 1) * 4096)
    let m := { m with net := { m.net with refill := m.net.refill + 1 } }
    let m := m.shaperIds.foldl (fun m s => m.refillShaper s) m
    let m := m.policerIds.foldl (fun m s => m.refillPolicer s) m
    m.syncHeads
  else m

/-- TIMING_WHEEL_SLOT: the queues of a die whose slot has come leave the wheel, or are placed again. -/
def timingWheelSlot (d : Nat) (m : Module) : Module :=
  if d < 8 then
    m.net.shapers.keys.foldl (fun m s =>
      let x := m.net.shapers.get s
      match x.slot with
      | some t =>
        if s / 2048 == d && t ≤ m.net.refill then
          if x.tokens < 0 then m.placeWheel s
          else { m with net := { m.net with shapers := m.net.shapers.put s { x with slot := none, parked := false } } }
        else m
      | none => m) m
  else m

/-! ### The scheduler (R175 to R178) -/

/-- Whether a port has credit for `c` cells on a VC (R64). -/
def Module.creditFor (m : Module) (p v c : Nat) : Bool :=
  let w := m.wire p
  let d (u : Nat) : Nat := w.peerAdv.getD u 0
  if v == 0 then w.used.getD 0 0 + c ≤ d 0
  else
    let excess := [1, 2, 3, 4, 5, 6, 7].foldl (fun a u => a + ((if u == v then w.used.getD u 0 + c else w.used.getD u 0) - d u)) 0
    excess ≤ d 8

/-- The copy at the head of a queue, with its packet. -/
def Module.headOf (m : Module) (k : Nat) : Option (BPkt × Copy) :=
  match (m.net.queues.get k).head? with
  | none => none
  | some id =>
    match m.bp id with
    | none => none
    | some b => (b.copies.find? fun c => !c.begun && qKey c.port c.vc c.fq == k).map fun c => (b, c)

/-- Whether a copy must wait for its whole packet (R120). -/
def Module.mustStore (m : Module) (b : BPkt) (p : Nat) : Bool :=
  b.store || (match b.inPort with | some i => (m.link i).width < (m.link p).width | none => true)

/-- Whether a queue is eligible (R175), its head ready to start under R120. -/
def Module.eligible (m : Module) (k : Nat) : Bool :=
  match m.headOf k with
  | none => false
  | some (b, _) =>
    m.creditFor (qPort k) (qVc k) b.cells && m.shaped k && (b.whole || !m.mustStore b (qPort k)) && !b.bad

/-- The flow queues of a VC of a port that are not empty, and those that are eligible. -/
def Module.flows (m : Module) (p v : Nat) : List Nat :=
  (m.net.queues.keys.filter fun k => k / 64 == 8 * p + v && !(m.net.queues.get k).isEmpty).map (· % 64)
def Module.eligibleFlows (m : Module) (p v : Nat) : List Nat := (m.flows p v).filter fun f => m.eligible (qKey p v f)

/-- `wfq_select` of R178: the eligible flow queue with the least tag, the lowest on a tie. -/
def Module.wfqPick (m : Module) (p v : Nat) : Option Nat :=
  let t (f : Nat) : Nat := (m.port p).sched.tags.get (64 * v + f)
  match m.eligibleFlows p v with
  | [] => none
  | f :: l => some (l.foldl (fun a b => if tagLe (t a) (t b) then a else b) f)

/-- The virtual time of a VC set to the tag of the flow queue selected; the tags of empty flow queues that it passes
follow it. -/
def Module.wfqAdvance (m : Module) (p v f : Nat) : Module :=
  let s := (m.port p).sched
  let t := s.tags.get (64 * v + f)
  let full := m.flows p v
  let tags := (List.range 64).foldl (fun (a : Tab Nat) g =>
    if full.contains g || !tagLe (a.get (64 * v + g)) t then a else a.put (64 * v + g) t) s.tags
  m.setSched p { s with vtime := s.vtime.set v t, tags := tags }

/-- The deficit round robin of R177, resumed where it stands, until it selects a packet (`n` bounds the turns). -/
def Module.drr (m : Module) (p : Nat) : Nat → Module × Option Nat
  | 0 => (m, none)
  | n + 1 =>
    let s := (m.port p).sched
    let v := s.turn
    let q := 64 * m.reg (swBlk (p / 32) 6) (0x2000 + 4 * (8 * (p % 32) + v)) 0
    let past (s : Sched) : Sched := { s with turn := if v == 7 then 2 else v + 1, inTurn := false }
    if !s.inTurn && (m.flows p v).isEmpty then (m.setSched p (past { s with deficit := s.deficit.set v 0 })).drr p n
    else if !s.inTurn && (m.eligibleFlows p v).isEmpty then (m.setSched p (past s)).drr p n
    else
      let s := if s.inTurn then s
               else { s with inTurn := true, deficit := s.deficit.modify v fun d => min (d + q) (q + 2088) }
      match m.wfqPick p v with
      | some f =>
        let len := match m.headOf (qKey p v f) with | some (b, _) => b.pkt.h.linkLen | none => 0
        if len ≤ s.deficit.getD v 0 then
          ((m.setSched p { s with deficit := s.deficit.modify v (· - len) }).wfqAdvance p v f, some (qKey p v f))
        else (m.setSched p (past s)).drr p n
      | none =>
        let s := if (m.flows p v).isEmpty then { s with deficit := s.deficit.set v 0 } else s
        (m.setSched p (past s)).drr p n

/-- After a packet of its turn a VC goes on with the turn while it is eligible and its deficit covers the next packet;
otherwise the turn ends, and an empty VC loses its deficit (R177). -/
def Module.endTurn (m : Module) (p : Nat) : Module :=
  let s := (m.port p).sched
  let v := s.turn
  let past : Sched := { s with turn := if v == 7 then 2 else v + 1, inTurn := false }
  if !s.inTurn then m
  else if (m.flows p v).isEmpty then m.setSched p { past with deficit := s.deficit.set v 0 }
  else match m.wfqPick p v with
    | some f =>
      let len := match m.headOf (qKey p v f) with | some (b, _) => b.pkt.h.linkLen | none => 0
      if len ≤ s.deficit.getD v 0 then m else m.setSched p past
    | none => m.setSched p past

/-- The queue that the scheduler selects (R176). A turn whose VC is not eligible any more is over first (R177). -/
def Module.schedule (m : Module) (p : Nat) : Module × Option Nat :=
  let m := m.endTurn p
  if m.eligible (qKey p 0 0) then (m, some (qKey p 0 0))
  else if m.eligible (qKey p 1 0) then (m, some (qKey p 1 0))
  else if (List.range 6).any fun v => !(m.eligibleFlows p (v + 2)).isEmpty then m.drr p 480
  else (m, none)

/-- A copy starts on its port: its cells are charged to the neighbour, its shapers pay, its counters count, and a mark
on its way to its destination is answered (R64, R164, R184). CUT_THROUGH and STORE_FORWARD count each copy that starts, at the
port group that the packet came by (DESIGN CHOICE, log entry 119: R144 says neither whether a copy counts nor where). -/
def Module.startCopy (m : Module) (p k : Nat) (b : BPkt) (c : Copy) : Module :=
  let v := qVc k
  let len := b.pkt.h.linkLen
  let m := (m.unqueue b.id k).updBp b.id fun x =>
    { x with copies := x.copies.map fun y => if y = c then { y with begun := true } else y }
  let w := m.wire p
  let m := (m.setWire p { w with used := w.used.modify v (· + b.cells), sending := some b.id }).hubEnter b p
  let m := (m.onSend k len).syncHeads
  let e := swBlk (p / 32) 6
  let m := (m.count e (0x30000 + 16 * (8 * (p % 32) + v))).count e (0x30008 + 16 * (8 * (p % 32) + v)) len
  let m := match b.inPort with
    | some i => m.count (pgBlk i) (if m.mustStore b p then 0x488 else 0x480)
    | none => m
  let m := if c.h.type == 0x15 then m.count (swBlk b.die 10) 0x100 else m
  if c.h.mark && (m.link p).nb.chip == c.h.dest then m.headwind b.die c.h 1 p 0 else m

/-- The first multicast copy queued for a fenced port is abandoned (R264). A Calm packet is none: its destination in the tree
is another (R160, R263). -/
def Module.abandonFenced (m : Module) (p : Nat) : Module :=
  match (m.queuedOn p).findSome? fun id => (m.bp id).bind fun b =>
      (b.copies.find? fun c => c.port == p && !c.begun && c.h.type == 0x15 && c.vc != 0).map fun c => (b, c) with
  | some (b, c) => ((m.dropCopy b.id c).count (swBlk b.die 10) 0x120).settle b.id
  | none => m

/-- EGRESS_START: the transmitter of an ACTIVE port can start a packet. A multicast copy to a fenced port is abandoned
instead (R264). -/
def egressStart (p : Nat) (m : Module) : Module := m.onPort p fun m =>
  if bitAt (m.die (p / 32)).mcFenced (p % 32) then m.abandonFenced p
  else if (m.link p).st != 6 || 1 < m.pwr.lull || (m.wire p).sending.isSome || !m.replayRoom p then m
  else
    let (m, k) := m.rerouteDue.schedule p
    match k with
    | none => m
    | some k =>
      match m.headOf k with
      | none => m
      | some (b, c) => m.startCopy p k b c

/-- The transmitter of a port is free again: the LINK_LOCAL packets that waited go, the turn of its VC is judged, and a
port that was isolated meanwhile goes DOWN (R264, R460). -/
def Module.sendDone (m : Module) (p : Nat) : Module :=
  let m := ((m.setWire p { m.wire p with sending := none }).sendWaiting p).endTurn p
  if (m.link p).isolated then m.enterDown p else m

/-- PACKET_SENT: the last word of the packet being sent has left, having crossed the HUB in its turn; its copy is done, and
the buffer is freed with the last one (R65, R123, R124). The single bits changed in its cells are corrected and counted
(R135). -/
def packetSent (p : Nat) (m : Module) : Module := m.onPort p fun m =>
  match (m.wire p).sending with
  | none => m
  | some id =>
    match m.bp id with
    | none => m.sendDone p
    | some b =>
      if !b.whole || !m.replayRoom p || !m.hubTurn b p then m
      else
        match b.copies.find? fun c => c.begun && c.port == p with
        | none => m.sendDone p
        | some c =>
          let m := (m.correctCells b).hubLeave id p
          let m := { m with pwr := { m.pwr with activeAt := m.ticks } }
          let m := m.sendPkt p { h := c.h, pl := b.pkt.pl, t0 := b.pkt.t0, t1 := b.pkt.t1 }
          ((m.updBp id fun x => { x with copies := x.copies.filter fun y => y != c }).settle id).sendDone p

/-! ### Entry to Calm (R158 to R161, R263) -/

/-- A packet moves into its die's Calm sink; its cells are freed once no other copy needs them (R123, R159). At a full sink
it stays, and SINK_FULL is raised. -/
def Module.toSink (m : Module) (id : Nat) : Module :=
  match m.bp id with
  | none => m
  | some b =>
    match m.sinkSlot b.die with
    | none => m.level 18 (swBlk b.die 6) 0 true
    | some s =>
      let m := m.correctCells b
      let x := m.die b.die
      let m := (slotTiles b.die s b.pkt).foldl (fun m t => (m.freshTile (resKey t)).countWrite (resKey t)) m
      let m := (m.setDie b.die { x with sink := x.sink ++ [(s, b.pkt)], localQ := x.localQ.filter (· != id),
                                        early := x.early.map fun e => if e == .buf id then .sink s else e }).count (swBlk b.die 6) 0xE20
      let m := (m.updBp id fun b => { b with here := false }).settle id
      let m := m.localHeads b.die
      if m.sinkFull b.die then m.level 18 (swBlk b.die 6) 0 true else m

/-- Whether a packet may enter Calm: on VC1 to VC7, enabled on the die, not Directed. -/
def Module.mayCalm (m : Module) (d v mode : Nat) : Bool := 1 ≤ v && m.calmVcEn d v && mode != 2

/-- The Calm threshold of a die in FTC units. -/
def Module.calmThresh (m : Module) (d : Nat) : Nat := 4 * m.reg (swBlk d 6) 0xD00 0

/-- A stalled packet whose egress port is fixed enters Calm on that port: a packet for a local member leaves by no other
(R238); where the port is not on the Calm tree, it is discarded as `calm_bad` (R160; DESIGN CHOICE, log entry 98). -/
def Module.calmFixed (m : Module) (b : BPkt) (c : Copy) : Module :=
  let d := b.die
  let m := m.count (swBlk (c.port / 32) 6) 0xE00
  let h := (c.h.setVc 0).setMode 3
  if m.calmDir c.port == 0 then
    (((m.count (swBlk d 6) 0xE10).raise 16 (swBlk d 6) 0).dropRecord b 4 0 0 2 0).settle b.id
  else (m.putCopy b.id d 4 c.port 0 h (if m.active c.port then none else some m.ticks) true).settle b.id

/-- A descriptor enters Calm, or its packet is discarded on a lossy VC. -/
def Module.calmMove (m : Module) (d : Nat) (b : BPkt) (c : Copy) : Module :=
  let m := m.dropCopy b.id c
  if !m.lossless d c.vc then
    let m := m.count (swBlk d 6) 0xE08
    (m.dropRecord b 0 c.port c.vc 0 c.q).settle b.id
  else
    let h := if c.h.hop == 0 then c.h else c.h.setHop (c.h.hop - 1)
    if c.fixed then m.calmFixed b { c with h := h }
    else if c.h.type == 0x15 && (m.link c.port).nb.chip == 131071 then (m.count (swBlk b.die 10) 0x128).settle b.id
    else
      let h := if c.h.type == 0x15 then h.setDest (m.link c.port).nb.chip else h
      let (m, x) := (m.count (swBlk d 6) 0xE00).calmEgress d h none false
      ((m.apply b.id b.die 4 x).discardIfNone b.id)

/-- CALM_ENTRY: a head has waited longer than CALM_THRESH_NS. `q` below 131,072 is a queue; beyond it,
131,072 + 65,536 × die + i is packet i that waits for a local target of a die. -/
def calmEntry (q : Nat) (m : Module) : Module :=
  if !m.linksOn then m
  else if q < 131072 then
    match m.headOf q with
    | none => m
    | some (b, c) =>
      let d := qPort q / 32
      let x := m.net.heads.get q
      if x.suspended || !m.mayCalm d c.vc c.h.mode then m
      else (m.pass (x.since + (m.calmThresh d + 1 - x.waited))).calmMove d b c
  else
    let d := (q - 131072) / 65536
    let i := (q - 131072) % 65536
    match (m.die d).localQ[i]? with
    | none => m
    | some id =>
      match m.bp id with
      | none => m
      | some b =>
        if b.headSince == 0 || !b.whole || b.parked || !m.mayCalm d b.pkt.h.vc b.pkt.h.mode then m
        else if !m.lossless d b.pkt.h.vc then
          let m := m.pass (b.headSince + m.calmThresh d + 1)
          let m := m.count (swBlk d 6) 0xE08
          let m := m.dropRecord b 0 0 0 1 0
          let m := m.setDie d { m.die d with localQ := (m.die d).localQ.filter (· != id),
                                             early := (m.die d).early.filter (· != .buf id) }
          ((m.updBp id fun b => { b with here := false }).settle id).localHeads d
        else
          let m := m.pass (b.headSince + m.calmThresh d + 1)
          if m.sinkFull d then m.level 18 (swBlk d 6) 0 true
          else
            let m := m.updBp id fun b =>
              { b with pkt := { b.pkt with h := ((b.pkt.h.setVc 0).setMode 3).sealed, vcIn := some b.pkt.h.vc } }
            (m.count (swBlk d 6) 0xE00).toSink id

/-- CALM_HOLD_EXPIRY: the packet that has been on hold longest in a port's VC0 queue has waited CALM_HOLD_MS (R160). -/
def calmHoldExpiry (p : Nat) (m : Module) : Module := m.onPort p fun m =>
  if m.active p then m
  else
    let held := (m.net.queues.get (qKey p 0 0)).filterMap fun id =>
      match m.bp id with
      | some b => (b.copies.find? fun c => c.port == p && c.vc == 0 && c.hold.isSome).map fun c => (b, c)
      | none => none
    match held with
    | [] => m
    | x :: l =>
      let (b, c) := l.foldl (fun (x y : BPkt × Copy) => if y.2.hold.getD 0 < x.2.hold.getD 0 then y else x) x
      let e := swBlk (p / 32) 6
      let m := m.pass (c.hold.getD 0 + ms (m.reg e 0xD08 0))
      (((m.dropCopy b.id c).count e 0xE18).raise 17 e 0).settle b.id

/-! ### HEADWIND received (R167) -/

/-- A packet handed to its local target leaves the list of those handed excess. -/
def Module.taken (m : Module) (p : Pkt) : Module :=
  { m with net := { m.net with handed := m.net.handed.erase p } }

/-- HEADWIND_RECEIVED: the limit is set on every die (R167). -/
def headwindReceived (p : Pkt) (m : Module) : Module :=
  let m := m.taken p
  if m.linksOn && p.h.type == 0x24 && p.h.intact && p.good && p.pl.length == 16 then
    let m := m.count (swBlk ((p.port.getD 0) / 32) 6) 0xE30
    m.throttleAll (fieldBE p.pl 4 4 % 2 ^ 17) (p.h.tw % 8) p.h.part (fieldBE p.pl 9 1) (fieldBE p.pl 10 2)
  else m

/-- HEADWIND_HOLD_EXPIRY: a limit of a die has been held for HOLD_US. -/
def headwindHoldExpiry (d i : Nat) (m : Module) : Module :=
  match (m.die d).throttles[i]? with
  | none => m
  | some t =>
    let m := m.pass t.until_
    m.setDie d { m.die d with throttles := (m.die d).throttles.eraseIdx i }

/-! ### The meanings -/

/-- HEADWIND_RECEIVED (R167). -/
def execHeadwindReceived (p : Pkt) (s : State) : Host.Outcome State Fault Refusal := .next (s.withM (headwindReceived p))

/-- HEADWIND_HOLD_EXPIRY (R167). -/
def execHeadwindHoldExpiry (d : Nat) (idx : Nat) (s : State) : Host.Outcome State Fault Refusal := .next (s.withM (headwindHoldExpiry d idx))

/-- EGRESS_START (R176). -/
def execEgressStart (p : Nat) (s : State) : Host.Outcome State Fault Refusal := .next (s.withM (egressStart p))

/-- PACKET_SENT (R123). -/
def execPacketSent (p : Nat) (s : State) : Host.Outcome State Fault Refusal := .next (s.withM (packetSent p))

/-- CALM_ENTRY (R158). -/
def execCalmEntry (q : Nat) (s : State) : Host.Outcome State Fault Refusal := .next (s.withM (calmEntry q))

/-- CALM_HOLD_EXPIRY (R160). -/
def execCalmHoldExpiry (p : Nat) (s : State) : Host.Outcome State Fault Refusal := .next (s.withM (calmHoldExpiry p))

/-- SHAPER_REFILL (R184). -/
def execShaperRefill (s : State) : Host.Outcome State Fault Refusal := .next (s.withM (shaperRefill))

/-- TIMING_WHEEL_SLOT (R186). -/
def execTimingWheelSlot (d : Nat) (s : State) : Host.Outcome State Fault Refusal := .next (s.withM (timingWheelSlot d))

end Sys2Proof.Machine
end

