-- ==== Sys2Proof/Machine/Store.lean ====
section
/-!
DEFINITION. The context store: extents and placement (R303 to R313), tiles and their copies (R317, R318), poison
(R326), commits, the content digest (R321), heat (R325), and what the store commands do (R315 to R327).
-/
namespace Sys2Proof.Machine

/-! ### Places -/

/-- Die of a memory unit: a switch die, or a memory I/O die. -/
def unitDie (u : Nat) : Nat := if u < 16 then u / 2 else 24 + (u - 16) / 4

/-- The unit of an access is out of reach: its die is fenced (R461). -/
def Module.unitDown (m : Module) (u : Nat) : Bool := m.dieFenced (unitDie u)

/-- Store extents of a unit (*Tier figures*). -/
def Store.cap (t : Store) (u : Nat) : Nat :=
  if u < 16 then 30720 else if (t.units.get u).inUse then (t.units.get u).gib * 512 else 0

/-- Free extents of a unit. -/
def Store.free (t : Store) (u : Nat) : Nat :=
  t.cap u - (t.used.cells.filter fun c => c.1 / 2 ^ 20 == u).length

/-- The lowest free extent of a unit (log entry 9). -/
def Store.lowest (t : Store) (u : Nat) : Option Nat :=
  let n := (t.used.cells.filter fun c => c.1 / 2 ^ 20 == u).length
  if t.cap u ≤ n then none else leastBelow (n + 1) fun e => !t.used.get (extKey (u, e))

/-- One extent taken on each unit of a list; `none` where one has none. -/
def Store.take (t : Store) : List Nat → Option (Store × List (Nat × Nat))
  | [] => some (t, [])
  | u :: l =>
    match t.lowest u with
    | none => none
    | some e =>
      match Store.take { t with used := t.used.put (extKey (u, e)) true } l with
      | none => none
      | some (t, r) => some (t, (u, e) :: r)

/-- The units of a segment's 16 extents, in order (*Placements*). -/
def Store.unitsOf (t : Store) (placement die : Nat) : List Nat :=
  if placement == 1 then List.replicate 8 (2 * die) ++ List.replicate 8 (2 * die + 1)
  else if placement == 2 then t.chans.flatMap fun u => List.replicate (16 / t.chans.length) u
  else List.range 16

/-- Place of tile `k` of a segment: the extent of the list and the tile in it (*Placements*). -/
def Store.placeOf (t : Store) (h : Nat) (g : Segm) (k : Nat) : Nat × Nat :=
  if g.placement == 1 then ((k % 2) * 8 + k / 2 / 1024, k / 2 % 1024)
  else if g.placement == 2 then
    let p := t.chans.length
    ((k % p) * (16 / p) + k / p / 1024, k / p % 1024)
  else ((k + h) % 16, k / 16)

/-- The segment that a migration is copying: its number, where it goes, and how many of its tiles are copied (R323). -/
def Obj.moving (o : Obj) : Option (Nat × Segm × Nat) :=
  match o.job with
  | none => none
  | some j =>
    match j.todo with
    | (s, p, d) :: _ =>
      if !j.destA.isEmpty then some (s, { placement := p, die := d, a := j.destA, b := j.destB }, j.pos) else none
    | [] => none

/-- Whether a tile has been copied by the migration that is moving its segment. -/
def Obj.isCopied (o : Obj) (tile : Nat) : Bool := o.moving.any fun x => tile / 16384 == x.1 && tile % 16384 < x.2.2

/-- The segment in which a tile lies: the destination of a tile that is copied already (R323). -/
def Obj.segOf (o : Obj) (tile : Nat) : Segm :=
  match o.moving with
  | some (_, x, _) => if o.isCopied tile then x else o.segs.getD (tile / 16384) {}
  | none => o.segs.getD (tile / 16384) {}

/-- The tile key of tile `k` of a segment in its first or second set of extents. -/
def Store.keyIn (t : Store) (o : Obj) (g : Segm) (k : Nat) (second : Bool) : Nat :=
  let (i, n) := t.placeOf (o.handle % 16) g k
  tileKey ((if second then g.b else g.a).getD i (0, 0)) n

/-- The tile key of an object's tile in its first or second set of extents. -/
def Store.keyOf (t : Store) (o : Obj) (tile : Nat) (second : Bool) : Nat := t.keyIn o (o.segOf tile) (tile % 16384) second

/-- Placement of a new segment of an object (R312); DDR5 without a channel lies as spread (log entry 10). -/
def Store.segPlace (t : Store) (placement split i : Nat) : Nat :=
  let p := if placement == 3 then (if i < split then 0 else 2) else placement
  if p == 2 && t.chans.isEmpty then 0 else p

/-- Extents for one segment, with a second set where retained. -/
def Store.newSeg (t : Store) (retain : Bool) (placement die : Nat) : Option (Store × Segm) :=
  match t.take (t.unitsOf placement die) with
  | none => none
  | some (t, a) =>
    if retain then
      match t.take (t.unitsOf placement die) with
      | none => none
      | some (t, b) => some (t, { placement := placement, die := die, a := a, b := b })
    else some (t, { placement := placement, die := die, a := a, b := [] })

/-- `n` more segments for an object, from segment `i`. -/
def Store.newSegs (t : Store) (o : Obj) : Nat → Nat → Option (Store × List Segm)
  | 0, _ => some (t, [])
  | n + 1, i =>
    match t.newSeg o.retain (t.segPlace o.placement o.split i) o.localDie with
    | none => none
    | some (t, g) =>
      match Store.newSegs t o n (i + 1) with
      | none => none
      | some (t, l) => some (t, g :: l)

/-- The extents of a list wiped: their tiles read as zero bytes and are not poisoned (R313). -/
def Module.wipeExts (m : Module) (l : List (Nat × Nat)) : Module :=
  l.foldl (fun m e =>
    let k := tileKey e 0
    { m with mem := m.mem.erase (tileAddr k) (2 ^ 21),
             store := { m.store with poisoned := m.store.poisoned.keep fun t _ => !(t / 1024 == k / 1024)
                                     damaged := m.store.damaged.keep fun t _ => !(t / 1024 == k / 1024) } }) m

/-- The extents of a list freed. -/
def Store.freeExts (t : Store) (l : List (Nat × Nat)) : Store :=
  { t with used := t.used.keep fun k _ => !(l.any fun e => extKey e == k) }

/-! ### Offsets (R103, R311) -/

/-- Segments of the HBM store range, and those of the DDR5 store range as populated. -/
def hbmSegs : Nat := 30720
def Store.ddrSegs (t : Store) : Nat := t.chans.foldl (fun a u => a + (t.units.get u).gib * 32) 0
def ddrBase : Nat := 0x010000000000

/-- The lowest free range of `n` segments in `total` segments from an offset. -/
def Store.lowRange (t : Store) (base total n : Nat) : Option Nat :=
  let busy := (t.objs.cells.map (·.2)).filterMap fun o =>
    if o.handle != 0 && base ≤ o.base && o.base < base + total * 2 ^ 25 then
      some ((o.base - base) / 2 ^ 25, ceilDiv o.max 16384) else none
  let ok (s : Nat) : Bool := s + n ≤ total && busy.all fun b => s + n ≤ b.1 || b.1 + b.2 ≤ s
  (sortBy id (0 :: busy.map fun b => b.1 + b.2)).find? ok |>.map fun s => base + s * 2 ^ 25

/-- The object and tile that an offset names, or `none` where it lies in no object. -/
def Store.locate (t : Store) (off : Nat) : Option (Nat × Nat) :=
  (t.objs.cells.find? fun c => c.2.handle != 0 && c.2.base ≤ off && off < c.2.base + 2048 * c.2.size).map fun c =>
    (c.1, (off - c.2.base) / 2048)

/-- The object that a handle names (R309): its index. -/
def Store.find (t : Store) (handle : Nat) : Option Nat :=
  if handle != 0 && (t.objs.get (handle % 2 ^ 20)).handle == handle then some (handle % 2 ^ 20) else none

/-- The heat counter of the segment that holds an offset, raised by 1 (R325). -/
def Module.warm (m : Module) (off : Nat) : Module :=
  let i := if off < ddrBase then off / 2 ^ 25 else hbmSegs + (off - ddrBase) / 2 ^ 25
  { m with store := { m.store with heat := m.store.heat.upd i fun c => min (c + 1) 65535 } }

/-! ### Tiles -/

def Module.obj (m : Module) (i : Nat) : Obj := m.store.objs.get i
def Module.setObj (m : Module) (i : Nat) (o : Obj) : Module :=
  { m with store := { m.store with objs := m.store.objs.put i o } }

/-- The tile key of the present copy of a tile, or of the other. -/
def Module.present (m : Module) (o : Obj) (tile : Nat) : Nat := m.store.keyOf o tile (o.flip.get tile)
def Module.otherCopy (m : Module) (o : Obj) (tile : Nat) : Nat := m.store.keyOf o tile (!o.flip.get tile)

/-- The copy that the next write to a tile goes to: the other one, for the first write to a retained tile after a commit
(R318). While it is poisoned, a write receives POISONED (R326). -/
def Module.writeCopy (m : Module) (o : Obj) (tile : Nat) : Nat :=
  if o.retain && !o.wr.get tile then m.otherCopy o tile else m.present o tile

/-- The bytes of a tile at a key. -/
def Module.tileBytes (m : Module) (k : Nat) : Bytes := m.mem.read (tileAddr k) 2048

/-- The key of the copy of a tile in a named version: 0 the present data, 1 VERSION, 2 VERSION − 1 (R318). -/
def Module.versionKey (m : Module) (o : Obj) (tile which : Nat) : Nat :=
  if which == 1 && o.dirty && o.wr.get tile then m.otherCopy o tile
  else if which == 2 && o.prev.get tile then m.otherCopy o tile
  else m.present o tile

/-- Whether a version can be served (*Versions the store can serve*). -/
def Obj.serves (o : Obj) (which : Nat) : Bool :=
  if which == 0 then true
  else if which == 1 then !o.dirty || (o.retain && !o.cut)
  else o.retain && !o.dirty && o.prevHeld

/-- The job of an object has seen a change (R321). -/
def Obj.touched (o : Obj) : Obj := { o with dig := o.dig.map fun j => { j with changed := true } }

/-- Bytes written into a tile of an object: in place, or for the first write after a commit of a retained object into
the other copy (R111, R318). The tile is not poisoned. -/
def Module.storeTile (m : Module) (i tile off : Nat) (d : Bytes) : Module :=
  let o := m.obj i
  let whole := d.length == 2048
  let src := m.present o tile
  let m := m.warm (o.base + 2048 * tile)
  let m := if whole then m else m.countRead src
  if o.retain && !o.wr.get tile then
    let dst := m.otherCopy o tile
    let bytes := splice (m.tileBytes src) off d
    let o := { o.touched with flip := o.flip.put tile (!o.flip.get tile), wr := o.wr.put tile true, prevHeld := false,
                              dirty := true }
    ((({ m.freshTile dst with mem := m.mem.write (tileAddr dst) bytes }).setObj i o)).countWrite dst
  else
    let m := { (if whole then m.freshTile src else m) with mem := m.mem.write (tileAddr src + off) d }
    let w := if o.retain then o.wr else {}
    (m.setObj i { o.touched with dirty := true, wr := w }).countWrite src

/-- A commit point (R317, R318). -/
def Obj.commit (o : Obj) : Obj :=
  { o.touched with version := (o.version + 1) % 2 ^ 32, dirty := false, prevHeld := o.retain && !o.cut,
                   prev := o.wr, wr := {}, cut := false }

/-! ### Store commands (R315) -/

/-- Every extent of an object's segments. -/
def Obj.exts (o : Obj) : List (Nat × Nat) := o.segs.flatMap fun g => g.a ++ g.b

/-- The extents that an object's migration has taken for the segment it copies. -/
def Obj.destExts (o : Obj) : List (Nat × Nat) := match o.job with | some j => j.destA ++ j.destB | none => []

/-- The record that STORE_CREATE gives an object in a store, with the store that holds it and its index: the lowest free
index, the lowest free range of offsets and the lowest free extents (log entry 9); `none` where one of them is lacking. -/
def Store.create (t : Store) (part placement die split : Nat) (retain : Bool) (max size : Nat) :
    Option (Store × Obj × Nat) :=
  match leastBelow (t.objs.cells.length + 1) fun i => (t.objs.get i).handle == 0 with
  | none => none
  | some i =>
    if 2 ^ 20 ≤ i then none
    else
      let n := ceilDiv max 16384
      let hbm := t.lowRange 0 hbmSegs n
      let ddr := t.lowRange ddrBase t.ddrSegs n
      match (if placement == 2 then ddr.orElse fun _ => hbm else hbm.orElse fun _ => ddr) with
      | none => none
      | some base =>
        let g := if t.gens.get i == 0 then 1 else t.gens.get i
        let o : Obj := { handle := g * 2 ^ 20 + i, part := part, base := base, max := max, size := size,
                         placement := placement, localDie := die, split := split, retain := retain }
        match t.newSegs o (ceilDiv size 16384) 0 with
        | none => none
        | some (t, segs) =>
          let o := { o with segs := segs }
          some ({ t with objs := t.objs.put i o, gens := t.gens.put i g }, o, i)

/-- STORE_CREATE: the object's index, or a status. -/
def Module.storeCreate (m : Module) (part placement die split : Nat) (retain : Bool) (max size : Nat) :
    Module × (Nat ⊕ Nat) :=
  match m.store.create part placement die split retain max size with
  | none => (m, .inr St.noResource)
  | some (t, o, i) => (({ m with store := t }).wipeExts o.exts, .inl i)

/-- STORE_RESIZE to a new size, or a status. -/
def Module.storeResize (m : Module) (i size : Nat) : Module × Nat :=
  let o := m.obj i
  let have_ := o.segs.length
  let need := ceilDiv size 16384
  if need ≤ have_ then
    let gone := (o.segs.drop need).flatMap fun (g : Segm) => g.a ++ g.b
    let cut (t : Tab Bool) : Tab Bool := t.keep fun k _ => k < size
    let o2 := { o.touched with size := size, segs := o.segs.take need, flip := cut o.flip, wr := cut o.wr,
                               prev := cut o.prev }
    -- the tiles cut off inside the last segment kept are lost
    let lost := (List.range (min o.size (need * 16384) - size)).map (size + ·)
    let m := lost.foldl (fun m t =>
      [false, true].foldl (fun (m : Module) (b : Bool) =>
        if b && !o.retain then m
        else
          let k := m.store.keyOf o t b
          { m.freshTile k with mem := m.mem.erase (tileAddr k) 2048 }) m) m
    let m := m.wipeExts gone
    (({ m with store := m.store.freeExts gone }).setObj i o2, St.ok)
  else
    match m.store.newSegs o (need - have_) have_ with
    | none => (m, St.noResource)
    | some (t, l) =>
      let o2 := { o.touched with size := size, segs := o.segs ++ l }
      ((({ m with store := t }).wipeExts (l.flatMap fun (g : Segm) => g.a ++ g.b)).setObj i o2, St.ok)

/-- The generation that follows one (R309). -/
def nextGen (g : Nat) : Nat := if g == 4095 then 1 else g + 1

/-- STORE_DELETE: the object, its offsets and extents are freed, and the index's generation advances. -/
def Module.storeDelete (m : Module) (i : Nat) : Module :=
  let o := m.obj i
  let g := o.handle / 2 ^ 20
  let m := m.wipeExts o.exts
  let t := m.store.freeExts o.exts
  { m with store := { t with objs := t.objs.del i, gens := t.gens.put i (nextGen g) } }

/-- Whether a segment already has a placement (R323). -/
def Segm.isAt (g : Segm) (placement die : Nat) : Bool := g.placement == placement && (placement != 1 || g.die == die)

/-- The migration's next segment starts: segments already in place are counted, and the next one's destination is
allocated; `some status` where the operation ends (R323, R324). -/
def Module.nextSegment (m : Module) (i : Nat) (j : Job) : Nat → Module × Job × Option Nat
  | 0 => (m, j, some St.ok)
  | n + 1 =>
    match j.todo with
    | [] => (m, j, some St.ok)
    | (s, p, d) :: l =>
      let o := m.obj i
      match o.segs[s]? with
      | none => m.nextSegment i { j with todo := l } n
      | some g =>
        if g.isAt p d then m.nextSegment i { j with todo := l, moved := j.moved + 1 } n
        else match m.store.newSeg o.retain p d with
          | none => (m, j, some St.noResource)
          | some (t, x) =>
            ((({ m with store := t }).wipeExts (x.a ++ x.b)), { j with destA := x.a, destB := x.b, pos := 0, due := 0 }, none)

/-- One tile moved between two places of an object, with a check (R323); a poisoned tile moves as poisoned. -/
def Module.moveTile (m : Module) (handle tile src dst : Nat) : Module :=
  let m := (m.countRead src).check1 handle tile src 4
  let bad := m.isPoisoned src
  let m := { m with mem := m.mem.write (tileAddr dst) (m.tileBytes src) }
  let m := (m.freshTile src).freshTile dst
  ({ m with store := { m.store with poisoned := m.store.poisoned.put dst bad } }).countWrite dst

/-- The reply data of a migration. -/
def Job.report (j : Job) : Bytes := beBytes 4 j.moved ++ beBytes 4 j.asked ++ beBytes 4 j.bad

/-- The migration's progress in its tracker entry. -/
def Module.progress (m : Module) (j : Job) : Module :=
  m.updEntry j.entry fun e => { e with a := j.moved, b := j.asked, c := j.bad }

/-- Object `i`'s migration ends in the middle of a segment with a status: the segment stays where it was, and what was taken
for it is free again. -/
def Module.failJob (m : Module) (i st : Nat) : Module :=
  let o := m.obj i
  match o.job with
  | none => m
  | some j =>
    let m := m.wipeExts o.destExts
    (({ m.progress j with store := (m.progress j).store.freeExts o.destExts }).setObj i { o with job := none }).workOver
      j.entry st j.report

/-- The next tile of the segment that object `i`'s migration is copying: each of its copies (R323, R324). One that lies, or
is to lie, on a unit of a fenced die ends the operation with INTERNAL (R461). -/
def Module.copyTile (m : Module) (i : Nat) : Module :=
  let o := m.obj i
  match o.moving, o.job with
  | some (s, x, k), some j =>
    let g := o.segs.getD s {}
    let copies := if o.retain then [false, true] else [false]
    if copies.any fun b => m.unitDown (tileUnit (m.store.keyIn o g k b)) || m.unitDown (tileUnit (m.store.keyIn o x k b)) then
      m.failJob i St.internal
    else
      let (m, bad) := copies.foldl (fun (a : Module × Nat) second =>
        let dst := m.store.keyIn o x k second
        let m := a.1.moveTile o.handle (16384 * s + k) (m.store.keyIn o g k second) dst
        (m, a.2 + b2n (m.isPoisoned dst))) (m, 0)
      m.setObj i { o with job := some { j with
        pos := k + 1, bad := j.bad + bad, due := m.ticks + ceilDiv (if o.retain then 16384 else 8192) j.rate } }
  | _, _ => m

/-- Tiles of the segment being copied. -/
def Obj.toCopy (o : Obj) : Nat := match o.moving with | some (s, _, _) => min 16384 (o.size - s * 16384) | none => 0

/-- The segment being copied switches its extents (R323): what is left of its tiles is copied, and the source extents are
freed. The job as it stands then; `none` where it has ended. -/
def Module.switchSegment (m : Module) (i : Nat) : Module × Option Job :=
  let o := m.obj i
  match o.moving with
  | none => (m, o.job)
  | some (s, x, k) =>
    let g := o.segs.getD s {}
    let m := (List.range (o.toCopy - k)).foldl (fun m _ => m.copyTile i) m
    match (m.obj i).job with
    | none => (m, none)
    | some j =>
      let m := m.wipeExts (g.a ++ g.b)
      let m := { m with store := m.store.freeExts (g.a ++ g.b) }
      let j := { j with todo := j.todo.drop 1, destA := [], destB := [], pos := 0, moved := j.moved + 1 }
      (m.setObj i { m.obj i with segs := o.segs.set s x, job := some j }, some j)

/-- The object record after its migration has ended: STORE_PLACE has its effect on it once every segment has moved (R315). -/
def Obj.placed (o : Obj) (j : Job) (st : Nat) : Obj :=
  match j.place with
  | some (p, d, n) => if st == St.ok then { o with job := none, placement := p, localDie := d, split := n } else { o with job := none }
  | none => { o with job := none }

/-- A migration's job goes on: the next segment, or the end of the operation. -/
def Module.advanceJob (m : Module) (i : Nat) (j : Job) : Module :=
  let (m, j, fin) := m.nextSegment i j (j.todo.length + 1)
  let m := m.progress j
  match fin with
  | none => m.setObj i { m.obj i with job := some j }
  | some st => (m.setObj i ((m.obj i).placed j st)).workOver j.entry st j.report

/-- MIGRATION_SEGMENT_DONE: the segment being copied by the migration of tracker entry `entry` switches (R323); an abort
recorded lets it finish and ends the operation (R324). -/
def migrationSegmentDone (entry : Nat) (c : EccIn) (m : Module) : Module :=
  let m := m.strike c
  let h := (m.trk.ents.get entry).handle
  match m.store.objs.cells.find? fun c => c.2.job.any fun j => j.entry == h with
  | none => m
  | some (i, o) =>
    if o.moving.isNone || !m.pwr.main then m
    else
      match m.switchSegment i with
      | (m, none) => m
      | (m, some j) =>
        if (m.trk.ents.get entry).st == 4 then
          ((m.progress j).setObj i { m.obj i with job := none }).workOver h St.aborted j.report
        else m.advanceJob i j

/-! ### The content digest (R321, R322) -/

/-- The digest of an object's job ends: with a status, or with the digest of what it has read. A seal that was aborted ends
unsealed (R322), and an aborted STORE_DIGEST returns no data (R449). -/
def Module.endDigest (m : Module) (i : Nat) (j : Job) (st : Nat) : Module :=
  let o := { m.obj i with dig := none }
  let d := shake256 (beBytes 8 o.size ++ j.got) 32
  if st != St.ok then (m.setObj i o).workOver j.entry st
  else if (m.trk.ents.get (j.entry % 2 ^ 14)).st == 4 then (m.setObj i o).workOver j.entry St.aborted
  else if j.kind == 2 then
    (m.setObj i { o with sealed_ := true, digest := d }).workOver j.entry St.ok (beBytes 4 o.version ++ zeros 12 ++ d)
  else (m.setObj i o).workOver j.entry St.ok (beBytes 4 j.version ++ beBytes 1 (2 * b2n j.changed) ++ zeros 11 ++ d)

/-- The digest of object `i` reads its next tile, with a check; a poisoned one ends it, and one on a unit of a fenced die
(R321, R461). -/
def Module.digestTile (m : Module) (i : Nat) : Module :=
  let o := m.obj i
  match o.dig with
  | none => m
  | some j =>
    if o.size ≤ j.pos then m
    else
      let k := m.present o j.pos
      if m.unitDown (tileUnit k) then m.endDigest i j St.internal
      else
        let m := (m.countRead k).check1 o.handle j.pos k 5
        if m.isPoisoned k then m.endDigest i j St.poisoned
        else m.setObj i { m.obj i with dig := some { j with
          pos := j.pos + 1, due := m.ticks + 41, got := j.got ++ m.tileBytes k } }

/-- The digest of an object reads what is left, and ends. -/
def Module.finishDigest (m : Module) (i kind : Nat) : Module :=
  if (m.obj i).dig.any (·.kind == kind) && m.pwr.main then
    let m := (List.range ((m.obj i).size - ((m.obj i).dig.getD {}).pos)).foldl (fun m _ => m.digestTile i) m
    match (m.obj i).dig with
    | some j => m.endDigest i j St.ok
    | none => m
  else m

/-- SEAL_DIGEST_DONE of an object (R322). -/
def sealDigestDone (handle : Nat) (c : EccIn) (m : Module) : Module :=
  let m := m.strike c
  match m.store.find handle with
  | none => m
  | some i => m.finishDigest i 2

/-- DIGEST_DONE of an unsealed object (R321). -/
def digestDone (handle : Nat) (c : EccIn) (m : Module) : Module :=
  let m := m.strike c
  match m.store.find handle with
  | none => m
  | some i => m.finishDigest i 3

/-- The jobs of the objects go on: each copies or reads its next tile when its rate lets it (R322, R323; log entry 102). -/
def Module.jobsTick (m : Module) : Module :=
  if !m.pwr.main || 1 < m.pwr.lull || m.pwr.st == 4 then m
  else (m.store.objs.cells.filter fun c => c.2.job.isSome || c.2.dig.isSome).foldl (fun m c =>
    let o := m.obj c.1
    let m := if o.job.any fun j => j.due ≤ m.ticks && j.pos < o.toCopy then m.copyTile c.1 else m
    if o.dig.any fun j => j.due ≤ m.ticks then m.digestTile c.1 else m) m

/-- What goes on where no command waits: while the standby domain is up the FTC counts up by one, each port that sends
frames sends its next segment when it is due, and the store's jobs go on (R52, R322, R323, R407; log entries 7, 8, 102). -/
def Module.clockTick (m : Module) : Module :=
  if m.pwr.standby then
    let m := { m with time := { m.time with ftc := (m.time.ftc + 1) % 2 ^ 64 } }
    (m.ports.keys.foldl (fun m p => m.segDue p) m).jobsTick
  else m

/-- The migrations are cut short by a reset that keeps the store: each finishes the segment that it is copying (DESIGN
CHOICE, log entry 102). -/
def Module.settleMoves (m : Module) : Module :=
  (m.store.objs.cells.filter fun c => c.2.moving.isSome).foldl (fun m c => (m.switchSegment c.1).1) m

/-! ### Retirement and scrub -/

/-- The tiles of an extent moved into another of the same unit, all but tile `bad`, which stays zero; the extent left is
retired. `tileAt`: the object's tile that lies at a place of the extent. -/
def Module.replaceExtent (m : Module) (handle : Nat) (old new : Nat × Nat) (bad : Nat) (tileAt : Nat → Nat) : Module :=
  let m := { m with store := { m.store with used := m.store.used.put (extKey new) true } }
  let m := m.wipeExts [new]
  let m := (List.range 1024).foldl (fun m t =>
    if t == bad then m.countWrite (tileKey new t) else m.moveTile handle (tileAt t) (tileKey old t) (tileKey new t)) m
  { m with store := { m.store with
    poisoned := m.store.poisoned.keep (fun t _ => !(t / 1024 == tileKey old 0 / 1024)),
    damaged := m.store.damaged.keep (fun t _ => !(t / 1024 == tileKey old 0 / 1024)),
    units := m.store.units.upd old.1 fun u => { u with retired := u.retired + 1 } } }

/-- A segment whose extent at a place of the set in use has changed. -/
def Segm.setExtent (g : Segm) (second : Bool) (x : Nat) (e : Nat × Nat) : Segm :=
  if second then { g with b := g.b.set x e } else { g with a := g.a.set x e }

/-- An object in which extent `x` of a set of the segment that holds a tile is another: of the destination of a migration,
where the tile is copied already. -/
def Obj.setExtent (o : Obj) (tile : Nat) (second : Bool) (x : Nat) (e : Nat × Nat) : Obj :=
  if o.isCopied tile then
    { o with job := o.job.map fun (j : Job) =>
        let y := ({ a := j.destA, b := j.destB } : Segm).setExtent second x e
        { j with destA := y.a, destB := y.b } }
  else { o with segs := o.segs.set (tile / 16384) ((o.segs.getD (tile / 16384) {}).setExtent second x e) }

/-- Whether a copy of a tile is poisoned: the present one, or the other one of a retained tile (R326). -/
def Module.tilePoisoned (m : Module) (o : Obj) (tile : Nat) : Bool :=
  m.isPoisoned (m.present o tile) || (o.retain && m.isPoisoned (m.otherCopy o tile))

/-- TILE_RETIRE of a poisoned tile (R327): the extent of its poisoned copy, the present one first, is replaced, that copy
reads as zeros, the object is dirty. -/
def Module.retire (m : Module) (i tile : Nat) : Module × Nat :=
  let o := m.obj i
  let g := o.segOf tile
  let x := (m.store.placeOf (o.handle % 16) g (tile % 16384)).1
  let second := if m.isPoisoned (m.present o tile) then o.flip.get tile else !o.flip.get tile
  let old := (if second then g.b else g.a).getD x (0, 0)
  if m.unitDown old.1 then (m, St.internal)
  else match m.store.lowest old.1 with
  | none => (m, St.noResource)
  | some e =>
    let tileAt (t : Nat) : Nat :=
      if m.store.damaged.get (tileKey old t) == 0 then 0
      else tile / 16384 * 16384 + (((List.range 16384).find? fun k => m.store.placeOf (o.handle % 16) g k == (x, t)).getD 0)
    ((m.replaceExtent o.handle old (old.1, e) (m.store.keyOf o tile second % 1024) tileAt).setObj i
      { (o.setExtent tile second x (old.1, e)).touched with dirty := true, prevHeld := false, cut := true }, St.ok)

/-- A tile of the fabric reserve scrubbed, a poisoned one too while its extent is in use (R307, R328, R329). -/
def Module.scrubReserve (m : Module) (tile : Nat) : Module :=
  let b := memBlk (m.resUnit tile)
  if 2 ^ 25 ≤ tile || m.reg b 0x004 0 == 0 || m.resGone tile || m.unitDown (m.resUnit tile) then m
  else ((m.count b 0x120).countRead (resKey tile)).checkRes tile 6

/-- One copy of an object's tile scrubbed, where its controller scrubs at all. -/
def Module.scrubCopy (m : Module) (handle tile k : Nat) : Module :=
  let b := memBlk (tileUnit k)
  if m.reg b (if tileUnit k < 16 then 0x004 else 0x00C) 0 == 0 || m.unitDown (tileUnit k) then m
  else ((m.count b 0x120).countRead k).check1 handle tile k 6

/-- SCRUB_TILE: an allocated tile is read in each of its copies, its ECC and CRC-32C checked (R328); handle 0 is the fabric
reserve. -/
def scrubTile (handle tile : Nat) (e : EccIn) (m : Module) : Module :=
  if !m.pwr.main || m.pwr.selfRefresh then m
  else
    let m := m.strike e
    if handle == 0 then m.scrubReserve tile
    else match m.store.find handle with
      | none => m
      | some i =>
        let o := m.obj i
        if 16384 * o.segs.length ≤ tile then m
        else (if o.retain then [false, true] else [false]).foldl (fun m b =>
          m.scrubCopy o.handle tile (m.store.keyOf o tile b)) m

/-- HEAT_HALVING: the next FTC value that is a multiple of 2^32; every multiple passed since the last halving halves once
(R325, R506). -/
def heatHalving (m : Module) : Module :=
  if m.pwr.main && m.pwr.lull ≤ 1 then
    let m := m.reach ((m.store.heatAt + 1) * 2 ^ 32)
    { m with store := { m.store with
        heatAt := m.now / 2 ^ 32,
        heat := m.store.heat.keys.foldl (fun (t : Tab Nat) k =>
          t.upd k (· / 2 ^ min 16 (max 1 (m.now / 2 ^ 32 - m.store.heatAt)))) m.store.heat } }
  else m

/-! ### The meanings -/

/-- MIGRATION_SEGMENT_DONE (R323). -/
def execMigrationSegmentDone (entry : Nat) (c : EccIn) (s : State) : Host.Outcome State Fault Refusal := .next (s.withM (migrationSegmentDone entry c))

/-- SEAL_DIGEST_DONE (R322). -/
def execSealDigestDone (handle : Nat) (c : EccIn) (s : State) : Host.Outcome State Fault Refusal := .next (s.withM (sealDigestDone handle c))

/-- DIGEST_DONE (R321). -/
def execDigestDone (handle : Nat) (c : EccIn) (s : State) : Host.Outcome State Fault Refusal := .next (s.withM (digestDone handle c))

/-- SCRUB_TILE (R328). -/
def execScrubTile (handle : Nat) (tile : Nat) (e : EccIn) (s : State) : Host.Outcome State Fault Refusal := .next (s.withM (scrubTile handle tile e))

/-- HEAT_HALVING (R325). -/
def execHeatHalving (s : State) : Host.Outcome State Fault Refusal := .next (s.withM (heatHalving))

end Sys2Proof.Machine
end

