-- ==== Sys2Proof/Machine/Ordering.lean ====
section
/-!
DEFINITION. The module as destination: delivery to local targets (R108, R119, R161), the reorder units (R392 to R399),
the destination statuses (R113), WRITE, ATOMIC and FENCE with their write-error records (R111, R114, R330, R400).
-/
namespace Sys2Proof.Machine

/-! ### Write-error records (R114) -/

/-- The switch die of a source's reorder unit: the next die that is not fenced (R393, R461). -/
def Module.reDie (m : Module) (src : Nat) : Nat :=
  ((List.range 8).map fun i => (src + i) % 8).find? (fun d => !m.dieFenced d) |>.getD (src % 8)

/-- A WRITE of a source met a status: the first is kept, and the count rises. -/
def Module.writeError (m : Module) (src status : Nat) (n : Nat := 1) : Module :=
  let r := m.store.werr.get src
  { m with store := { m.store with werr := m.store.werr.put src (if r.1 == 0 then status else r.1, min (r.2 + n) 65535) } }

/-- FENCE_ACK, from the die of the source's reorder unit: it carries the source's record and clears it (R400, R537). -/
def Module.fenceAck (m : Module) (p : Pkt) (status : Nat) : Module :=
  let r := m.store.werr.get p.h.src
  let m := { m with store := { m.store with werr := m.store.werr.del p.h.src } }
  m.answer p 7 status (beBytes 2 r.1 ++ beBytes 2 r.2 ++ zeros 12) (some (m.reDie p.h.src))

/-! ### Answers that refuse -/

/-- KERNEL_RESULT of an invocation that never started: a result header alone (R341, R368), with the present FTC as FTC_END
and 0 as FTC_START. -/
def Module.kernelRefuse (m : Module) (p : Pkt) (status : Nat) (die : Option Nat := none) : Module :=
  let v := bits p.h.tw 7 5
  let pl := beBytes 2 status ++ zeros 4 ++ beBytes 1 0xFF ++ zeros 25 ++ beBytes 8 m.now ++ zeros 8
  m.originate (Pkt.make (mkHdr 0x31 (if v < 3 then 3 else v) p.h.src m.chip p.h.part p.h.tag (status + 2 ^ 18)) pl) die

/-- A request that is not executed: its answer, from a die, or its write-error record, carries a status (R108, R113, R393,
R537). -/
def Module.refuse (m : Module) (p : Pkt) (status : Nat) (die : Option Nat) : Module :=
  if p.h.type == 1 || p.h.type == 0x15 then m.writeError p.h.src status
  else if p.h.type == 2 then m.answer p 3 status [] die
  else if p.h.type == 4 then m.answer p 5 status [] die
  else if p.h.type == 6 then m.fenceAck p status
  else if p.h.type == 0x30 then m.kernelRefuse p status die
  else m

/-! ### Destination statuses (R113) -/

/-- The fabric reserve and control space. -/
def inReserve (off : Nat) : Bool := 0x00F000000000 ≤ off && off < 0x010000000000
def inControl (off : Nat) : Bool := 0x7F0000000000 ≤ off && off < 0x800000000000

/-- A sealed object, or one whose seal is under way, refuses writes (R322). -/
def Obj.readOnly (o : Obj) : Bool := o.sealed_ || o.dig.any fun j => j.kind == 2

/-- Orders 1 and 2 of *Destination statuses* for a request. -/
def formStatus (p : Pkt) : Nat :=
  let n := if p.h.type == 2 then bits p.h.tw 11 0 else p.h.len
  if !p.good then St.chunkLost
  else if (p.h.type == 2 && p.h.len != 0) || (p.h.type == 4 && (n != 16 || bits p.h.tw 7 0 == 0 || 10 < bits p.h.tw 7 0)) ||
    n < 16 || 2048 < n || n % 16 != 0 || p.h.offset % 16 != 0 || 2048 < p.h.offset % 2048 + n then St.badParam
  else St.ok

/-- Orders 3 to 6 for an access to the store, the reserve or control space; `w` for a WRITE or ATOMIC. -/
def Module.placeStatus (m : Module) (off part : Nat) (w : Bool) : Nat :=
  if inReserve off then
    (if w || part != 0 then St.denied
     else if m.unitDown (m.resUnit ((off - resBase) / 2048)) then St.internal
     else if m.isPoisoned (resKey ((off - resBase) / 2048)) then St.poisoned
     else St.ok)
  else if inControl off then
    (if 0x7F0200000000 ≤ off then St.badParam else if w || part != 0 then St.denied else St.ok)
  else
    match m.store.locate off with
    | none => St.badParam
    | some (i, t) =>
      let o := m.obj i
      let k := m.present o t
      if o.part != part then St.denied
      else if w && o.readOnly then St.sealed_
      else if m.unitDown (tileUnit k) then St.internal
      else if m.isPoisoned k || (w && m.isPoisoned (m.writeCopy o t)) then St.poisoned
      else St.ok

/-- The status of a request (R113). -/
def Module.destStatus (m : Module) (p : Pkt) : Nat :=
  if formStatus p != St.ok then formStatus p else m.placeStatus p.h.offset p.h.part (p.h.type != 2)

/-- The die from which the memory controller of an offset answers (R537): none where a memory I/O die or no controller
does, or where the die is fenced (DESIGN CHOICE, log entry 103). -/
def Module.answerDie (m : Module) (off : Nat) : Option Nat :=
  let die (u : Nat) : Option Nat := if u < 16 && !m.dieFenced (u / 2) then some (u / 2) else none
  if inReserve off then die (m.resUnit ((off - resBase) / 2048))
  else match m.store.locate off with
    | none => none
    | some (i, t) => die (tileUnit (m.present (m.obj i) t))

/-! ### Packets handed to their targets -/

/-- Whether memory and the engines can act: the main domain is up and awake, and the module is not held. -/
def Module.working (m : Module) : Bool := m.pwr.main && m.pwr.st != 4 && m.pwr.lull ≤ 1 && !m.pwr.selfRefresh

/-- Ordered types (R392). -/
def isOrdered (h : Hdr) : Bool :=
  h.ordered && (h.type == 1 || h.type == 2 || h.type == 4 || h.type == 6 || h.type == 0x30)

/-- Whether an earlier ordered packet of a packet's source has been handed over and not yet been performed (R394). -/
def Module.behind (m : Module) (p : Pkt) : Bool :=
  isOrdered p.h && ((m.net.handed.takeWhile fun q => q != p).any fun q => isOrdered q.h && q.h.src == p.h.src) &&
  m.net.handed.contains p

/-- An ATOMIC whose operation code is reserved. -/
def reservedAtomic (h : Hdr) : Bool := h.type == 4 && (bits h.tw 7 0 == 0 || 10 < bits h.tw 7 0)

/-- The ATOMICs with a reserved code that have been handed over, refused by the memory controller of their offset once every
earlier ordered packet of their source has been performed (R330, R394). -/
def Module.refuseReserved (m : Module) : Module :=
  (m.net.handed.filter fun p => reservedAtomic p.h).foldl (fun (m : Module) p =>
    if m.behind p then m
    else (m.taken p).refuse p (if p.good then St.badParam else St.chunkLost) (m.answerDie p.h.offset)) m

/-- A row that performs a packet of a type: nothing while the module cannot work, or while an earlier ordered packet of
its source is still to be performed. -/
def Module.perform (m : Module) (p : Pkt) (type : Nat) (f : Module → Module) : Module :=
  if m.working && p.h.type == type && !m.behind p then (f (m.taken p)).refuseReserved else m

/-- WRITE, and the local copy of an MCAST_DATA (R111, R260). `c`: what the check of the tile finds, where it is merged. -/
def write (p : Pkt) (c : EccIn) (m : Module) : Module :=
  let go (m : Module) : Module :=
    let m := m.strike c
    let st := m.destStatus p
    if st != St.ok then m.writeError p.h.src st
    else match m.store.locate p.h.offset with
      | some (i, t) =>
        let k := m.present (m.obj i) t
        let m := if p.pl.length == 2048 then m else m.check1 (m.obj i).handle t k 3
        if m.isPoisoned k then m.writeError p.h.src St.poisoned else m.storeTile i t (p.h.offset % 2048) p.pl
      | none => m
  if p.h.type == 0x15 then m.perform p 0x15 go else m.perform p 1 go

/-- The value that an atomic stores, from the old value and operands A and B; `none` where nothing is stored (R330). -/
def atomicValue (op old a b : Nat) : Option Nat :=
  if op == 1 then some ((old + a) % 2 ^ 64)
  else if op == 2 then some (old &&& a)
  else if op == 3 then some (old ||| a)
  else if op == 4 then some (old ^^^ a)
  else if op == 5 then some (if toSigned 64 old < toSigned 64 a then a else old)
  else if op == 6 then some (if toSigned 64 a < toSigned 64 old then a else old)
  else if op == 7 then some (max old a)
  else if op == 8 then some (min old a)
  else if op == 9 then some a
  else if old == b then some a else none

/-- An ATOMIC with an operation code (R330, R331). -/
def Module.atomic (m : Module) (p : Pkt) (c : EccIn) (op : Nat) : Module :=
  if bits p.h.tw 7 0 != op then m
  else m.perform p 4 fun m =>
    let m := m.strike c
    let st := m.destStatus p
    if st != St.ok then m.answer p 5 st [] (m.answerDie p.h.offset)
    else match m.store.locate p.h.offset with
      | none => m
      | some (i, t) =>
        let o := p.h.offset % 2048
        let k := m.present (m.obj i) t
        let m := m.check1 (m.obj i).handle t k 3
        if m.isPoisoned k then m.answer p 5 St.poisoned [] (m.answerDie p.h.offset) else
        let old := leNat (slice (m.tileBytes k) o 8)
        let m := match atomicValue op old (leNat (slice p.pl 0 8)) (leNat (slice p.pl 8 8)) with
          | some v => m.storeTile i t o (leBytes 8 v)
          | none => (m.warm p.h.offset).countRead k
        m.answer p 5 St.ok (leBytes 8 old ++ zeros 8) (m.answerDie p.h.offset)

def fetchAdd (p : Pkt) (c : EccIn) (m : Module) : Module := m.atomic p c 1
def fetchAnd (p : Pkt) (c : EccIn) (m : Module) : Module := m.atomic p c 2
def fetchOr (p : Pkt) (c : EccIn) (m : Module) : Module := m.atomic p c 3
def fetchXor (p : Pkt) (c : EccIn) (m : Module) : Module := m.atomic p c 4
def fetchMaxS (p : Pkt) (c : EccIn) (m : Module) : Module := m.atomic p c 5
def fetchMinS (p : Pkt) (c : EccIn) (m : Module) : Module := m.atomic p c 6
def fetchMaxU (p : Pkt) (c : EccIn) (m : Module) : Module := m.atomic p c 7
def fetchMinU (p : Pkt) (c : EccIn) (m : Module) : Module := m.atomic p c 8
def swap (p : Pkt) (c : EccIn) (m : Module) : Module := m.atomic p c 9
def compareSwap (p : Pkt) (c : EccIn) (m : Module) : Module := m.atomic p c 10

/-- A restart FENCE (R396). -/
def isRestart (p : Pkt) : Bool := p.h.type == 6 && p.h.ordered && p.h.seq == 0

/-- FENCE, other than a restart FENCE: answered once every earlier ordered packet of its source has been performed (R400); an unordered one, or one
with a payload, is answered BAD_PARAM. An atomic whose operation code is reserved has no row of its own: R113 answers it
with BAD_PARAM at its delivery. -/
def fence (p : Pkt) (m : Module) : Module := if isRestart p then m else m.perform p 6 fun m =>
  m.fenceAck p (if !p.good then St.chunkLost else if !p.h.ordered || p.h.len != 0 then St.badParam else St.ok)

/-! ### Reorder units (R393 to R399) -/

def Module.src (m : Module) (s : Nat) : Src := m.ord.srcs.get s
def Module.setSrc (m : Module) (s : Nat) (x : Src) : Module := { m with ord := { m.ord with srcs := m.ord.srcs.put s x } }

/-- next(n) and the distance d of R393. -/
def seqNext (n : Nat) : Nat := if n < 65535 then n + 1 else 1
def seqDist (s e : Nat) : Nat := (s + 65535 - e) % 65535

/-- Windows in use and packets parked on a die. -/
def Module.windows (m : Module) (d : Nat) : Nat :=
  (m.ord.srcs.cells.filter fun c => m.reDie c.1 == d && !c.2.parked.isEmpty).length
def Module.parkedOn (m : Module) (d : Nat) : Nat :=
  (m.ord.srcs.cells.filter fun c => m.reDie c.1 == d).foldl (fun a c => a + c.2.parked.length) 0

/-- The gap timer of a source started: it takes GAP_TIMEOUT_MS as it stands. -/
def Module.gapStart (m : Module) (s : Nat) : Module :=
  m.setSrc s { m.src s with timer := m.ticks, limit := ms (m.reg (swBlk (m.reDie s) 9) 0x000 0) }

/-- A packet is done with on a die's buffer, or came from its sink (`none`): it leaves the local-target queues, and its
buffer is freed once no other copy needs it. -/
def Module.leaveBuffer (m : Module) (id : Option Nat) : Module :=
  match id with
  | some id =>
    let d := ((m.bp id).map (·.die)).getD 0
    let x := m.die d
    let m := m.setDie d { x with localQ := x.localQ.filter (· != id), early := x.early.filter (· != .buf id) }
    ((m.updBp id fun b => { b with here := false, parked := false }).settle id).localHeads d
  | none => m

/-- A packet leaves the buffer without being executed. -/
def Module.letGo (m : Module) (id : Option Nat) : Module :=
  match id with
  | some id => (m.updBp id fun b => { b with bad := true }).leaveBuffer (some id)
  | none => m

/-- Answers that match no request of the module, which it discards. -/
def noTarget (h : Hdr) : Bool := h.type == 3 || h.type == 5 || h.type == 0x21 || h.type == 0x22 || h.type == 0x31

/-- The port that a packet arrived by; a packet that engine e sent to its own module carries 256 + e there. -/
def arrivalPort (p : Pkt) : Option Nat := p.port.filter (· < 256)

/-- A collective packet with a reserved KIND (R238, R270): 1 COLL_DATA or COLL_RESULT, 2 XCHG_DATA, 0 neither. -/
def reservedKind (h : Hdr) : Nat :=
  let k := bits h.tw 19 17
  if h.type == 0x11 && 6 ≤ k then 1
  else if h.type == 0x12 && 5 ≤ k then 1
  else if h.type == 0x14 && (5 ≤ k || k == 2) then 2
  else 0

/-- The local copy of an MCAST_DATA whose offset lies in memory of a fenced die (R264). -/
def Module.localFenced (m : Module) (p : Pkt) : Bool :=
  p.h.type == 0x15 && (m.store.locate p.h.offset).any fun x => m.unitDown (tileUnit (m.present (m.obj x.1) x.2))

/-- A packet leaves the buffer for its target. An ATOMIC with a reserved code has no row of its own: it is refused as soon as
it may be performed (R330); the local copy of a multicast packet to a fenced destination is abandoned (R264). -/
def Module.handOver (m : Module) (p : Pkt) (id : Option Nat) : Module :=
  if noTarget p.h then m.letGo id
  else if reservedKind p.h == 1 then
    (match arrivalPort p with | some i => m.count (pgBlk i) 0x408 | none => m).letGo id
  else if reservedKind p.h == 2 then (m.count (hubBlk 2) 0x118).letGo id
  else if m.localFenced p then
    (m.count (swBlk (((id.bind m.bp).map (·.die)).getD ((arrivalPort p).getD 0 / 32)) 10) 0x120).leaveBuffer id
  else
    let m := m.correctOf id
    let m := match arrivalPort p with | some i => m.count (pgBlk i) 0x498 | none => m
    ({ m with net := { m.net with handed := m.net.handed ++ [p] } }.leaveBuffer id).refuseReserved

/-- An ordered packet is committed: E follows it (R394). -/
def Module.commitSeq (m : Module) (p : Pkt) (id : Option Nat) : Module :=
  let s := p.h.src
  let m := (m.setSrc s { m.src s with sync := true, e := seqNext p.h.seq }).gapStart s
  (m.count (swBlk (m.reDie s) 9) 0x100).handOver p id

/-- A late packet (R393). -/
def Module.late (m : Module) (p : Pkt) (id : Option Nat) : Module :=
  ((m.count (swBlk (m.reDie p.h.src) 9) 0x118).refuse p St.chunkLost (some (m.reDie p.h.src))).letGo id

/-- What the unit decides for an ordered packet. -/
inductive Verdict
  | commit | unsync | park | full | late
deriving DecidableEq, Repr

/-- The unit's decision (R393, R396, R399). `queued` says that a packet of the same number is queued already. -/
def Module.verdict (m : Module) (p : Pkt) (queued : Bool) : Verdict :=
  let x := m.src p.h.src
  let d := m.reDie p.h.src
  if p.h.seq == 0 then .late
  else if !x.sync then .unsync
  else
    let k := seqDist p.h.seq x.e
    if k == 0 then .commit
    else if 32767 < k then .late
    else if queued || x.parked.any (·.seq == p.h.seq) then .late
    else if 256 ≤ x.parked.length || 16384 ≤ m.parkedOn d || (x.parked.isEmpty && 512 ≤ m.windows d) then .full
    else .park

/-- A packet parked in its source's window. -/
def Module.park (m : Module) (p : Pkt) (id : Option Nat) : Module :=
  let s := p.h.src
  let first := (m.src s).parked.isEmpty
  let m := m.setSrc s { m.src s with parked := (m.src s).parked ++ [{ seq := p.h.seq, pkt := p, id := id }] }
  let m := if first then m.gapStart s else m
  let m := m.count (swBlk (m.reDie s) 9) 0x108
  match id with
  | some id =>
    let m := m.updBp id fun b => { b with parked := true, here := false }
    match m.bp id with
    | some b => (m.setDie b.die { m.die b.die with
        localQ := (m.die b.die).localQ.filter (· != id), early := (m.die b.die).early.filter (· != .buf id) }).localHeads b.die
    | none => m
  | none => m

/-- An UNSYNC source's first ordered packet (R396). -/
def Module.takeUnsync (m : Module) (p : Pkt) (id : Option Nat) : Module :=
  let r := m.store.werr.get p.h.src
  let m := { m with store := { m.store with werr := m.store.werr.put p.h.src (St.contextLost, r.2) } }
  (m.count (swBlk (m.reDie p.h.src) 9) 0x128).commitSeq p id

/-- The answer to a mark on arrival at the destination (R164). -/
def Module.answerMark (m : Module) (d : Nat) (p : Pkt) : Module := if p.h.mark then m.headwind d p.h 1 0 0 else m

/-- Whether a packet with a bad trailer still goes to its target, which reports it. -/
def reports (h : Hdr) : Bool :=
  h.type == 1 || h.type == 2 || h.type == 4 || h.type == 6 || h.type == 0x15 || (0x10 ≤ h.type && h.type ≤ 0x14) || h.type == 0x20 || h.type == 0x30

/-- Whether the unit takes a packet at once: unordered, in order, or not to be executed (R399). -/
def Module.takes (m : Module) (p : Pkt) (queued : Bool) : Bool :=
  !isOrdered p.h || isRestart p || (m.verdict p queued != .full && m.verdict p queued != .park)

/-- An ordered packet that its reorder unit sees. -/
def Module.reorder (m : Module) (p : Pkt) (id : Option Nat) (queued : Bool) : Module :=
  match m.verdict p queued with
  | .commit => m.commitSeq p id
  | .unsync => m.takeUnsync p id
  | .park => m.park p id
  | .late => m.late p id
  | .full => m

/-- The packet that waits early on a die, in its buffer or in its sink. -/
def Module.earlyPkt (m : Module) (d : Nat) (e : Early) : Option Pkt :=
  match e with
  | .buf id => (m.bp id).map (·.pkt)
  | .sink s => ((m.die d).sink.find? (·.1 == s)).map (·.2)

/-- Whether a packet of the same source and number is queued for want of a window, other than this one (R393). -/
def Module.queuedSame (m : Module) (p : Pkt) (this : Early) : Bool :=
  (List.range 8).any fun d => (m.die d).early.any fun e =>
    e != this && (m.earlyPkt d e).any fun q => q.h.src == p.h.src && q.h.seq == p.h.seq

/-- The unit finds no window for a packet that waits on a die: it stays queued, and counts once (R399). -/
def Module.overflow (m : Module) (d : Nat) (e : Early) (p : Pkt) : Module :=
  if isOrdered p.h && !isRestart p && m.verdict p (m.queuedSame p e) == .full && !(m.die d).early.contains e then
    (m.count (swBlk (m.reDie p.h.src) 9) 0x130).setDie d { m.die d with early := (m.die d).early ++ [e] }
  else m

/-- A whole packet addressed to the module is delivered from a die's buffer (`id`) or from its sink (R108, R119). -/
def Module.deliver (m : Module) (d : Nat) (p : Pkt) (id : Option Nat) (this : Early) : Module :=
  let m := match arrivalPort p with
    | some i => if p.good then m else m.count (pgBlk i) 0x430
    | none => m
  let m := m.answerMark d p
  if !p.good && !reports p.h then m.letGo id
  else if isOrdered p.h && !isRestart p then m.reorder p id (m.queuedSame p this)
  else m.handOver p id

/-- A multicast copy that entered Calm at the neighbour and names this module: it is replicated, not delivered (R263). -/
def Module.calmCast (m : Module) (p : Pkt) : Bool := p.h.type == 0x15 && m.isOwn p.h.dest

/-- The switch die that a packet goes to next from its buffer: that of its reorder unit, or that of its memory; none for a
memory I/O die and for a target whose die is found later (DESIGN CHOICE, log entry 120: then it counts as one that crosses
the HUB). -/
def Module.nextDie (m : Module) (p : Pkt) : Option Nat :=
  if isOrdered p.h && !isRestart p then some (m.reDie p.h.src)
  else if p.h.type == 6 then some (m.reDie p.h.src)
  else if p.h.type == 1 || p.h.type == 2 || p.h.type == 4 || p.h.type == 0x15 then
    (if inReserve p.h.offset then some (m.resUnit ((p.h.offset - resBase) / 2048) / 2)
     else (m.store.locate p.h.offset).bind fun x =>
      let u := tileUnit (m.present (m.obj x.1) x.2)
      if u < 16 then some (u / 2) else none)
  else none

/-- Whether a buffered packet that goes to a local target crosses the HUB to it (R26). -/
def Module.crosses (m : Module) (b : BPkt) : Bool := m.nextDie b.pkt != some b.die

/-- LOCAL_DELIVERY: a whole packet that waits on a die is handed to its target, moved to the Calm sink if it came on VC0
(R161), or given to its reorder unit. One that crosses the HUB goes behind what entered its channel before (R26, R124). -/
def localDelivery (d i : Nat) (m : Module) : Module :=
  if !m.working || m.pwr.lull == 2 then m
  else match (m.die d).localQ[i]? with
    | none => m
    | some id =>
      match m.bp id with
      | none => m
      | some b =>
        let take := !m.crosses b || m.hubFree b
        if !b.whole || b.mcast || b.parked then m
        else if b.pkt.h.vc == 0 then
          if !m.sinkFull d then m.toSink id
          else if m.takes b.pkt (m.queuedSame b.pkt (.buf id)) && !m.calmCast b.pkt then
            (if take then m.deliver d b.pkt (some id) (.buf id) else m)
          else (m.overflow d (.buf id) b.pkt).level 18 (swBlk d 6) 0 true
        else if (m.die d).early.contains (.buf id) || !take then m
        else (m.deliver d b.pkt (some id) (.buf id)).overflow d (.buf id) b.pkt

/-- REORDER_COMMIT: a parked packet that is now in order is committed. -/
def reorderCommit (src : Nat) (m : Module) : Module :=
  let x := m.src src
  if !m.working then m
  else match x.parked.find? (·.seq == x.e) with
    | none => m
    | some k => (m.setSrc src { x with parked := x.parked.filter (·.seq != x.e) }).commitSeq k.pkt k.id

/-- A packet's slot of a Calm sink read and given up. -/
def Module.leaveSink (m : Module) (d s : Nat) (p : Pkt) : Module :=
  ((slotTiles d s p).foldl (fun m t => m.countRead (resKey t)) m).freeSlot d s

/-- WINDOW_OFFER: every early packet queued on a die for want of a window is offered again, in arrival order, in the buffer
or in the Calm sink (R399). -/
def windowOffer (d : Nat) (m : Module) : Module :=
  if !m.working then m
  else (m.die d).early.foldl (fun m e =>
    match m.earlyPkt d e with
    | none => m
    | some p =>
      let queued := m.queuedSame p e
      if m.verdict p queued == .full then m
      else match e with
        | .buf id =>
          (m.setDie d { m.die d with early := (m.die d).early.filter (· != e) }).reorder p (some id) queued
        | .sink s => (m.leaveSink d s p).reorder p none queued) m

/-- Parked packets of a source that are in order committed, as many as there are (`n` bounds them). -/
def Module.commitRun (m : Module) (src : Nat) : Nat → Module
  | 0 => m
  | n + 1 =>
    let x := m.src src
    match x.parked.find? (·.seq == x.e) with
    | none => m
    | some k => ((m.setSrc src { x with parked := x.parked.filter (·.seq != x.e) }).commitSeq k.pkt k.id).commitRun src n

/-- GAP_TIMEOUT of a source (R398). -/
def gapTimeout (src : Nat) (m : Module) : Module :=
  let x := m.src src
  match x.parked with
  | [] => m
  | k :: l =>
    if !m.working then m
    else
      let best := l.foldl (fun (a : Park) b => if seqDist b.seq x.e < seqDist a.seq x.e then b else a) k
      let skip := seqDist best.seq x.e
      let m := m.pass (x.timer + x.limit)
      let m := m.writeError src St.chunkLost skip
      let m := m.count (swBlk (m.reDie src) 9) 0x110 skip
      ((m.setSrc src { x with e := best.seq }).gapStart src).commitRun src 256

/-- A source's parked packets, and its early packets queued for want of a window, are discarded; their number. -/
def Module.dropSource (m : Module) (src : Nat) : Module × Nat :=
  let l := (m.src src).parked
  let m := m.setSrc src { m.src src with parked := [] }
  let m := l.foldl (fun (m : Module) k => m.letGo k.id) m
  let q := (List.range 8).flatMap fun d =>
    ((m.die d).early.filter fun e => (m.earlyPkt d e).any fun p => p.h.src == src).map fun e => (d, e)
  (q.foldl (fun (m : Module) x =>
    match x.2 with
    | .buf id => m.letGo (some id)
    | .sink s => m.freeSlot x.1 s) m, l.length + q.length)

/-- RESTART_FENCE (R396). -/
def restartFence (p : Pkt) (m : Module) : Module :=
  if !isRestart p then m
  else m.perform p 6 fun m =>
    if !p.good then m.fenceAck p St.chunkLost
    else if p.h.len != 0 then m.fenceAck p St.badParam
    else
      let s := p.h.src
      let (m, n) := m.dropSource s
      let u := swBlk (m.reDie s) 9
      let m := (m.count u 0x118 n).count u 0x120
      let m := { m with store := { m.store with werr := m.store.werr.del s } }
      (m.setSrc s { m.src s with sync := true, e := 1 }).fenceAck p St.ok

/-! ### The Calm sink (R161, R263) -/

/-- A multicast copy from the Calm sink is replicated as if it had arrived on its port: checked there, and buffered with
DEST_CHIP 131,071 on the VC of its entry (R94, R262, R263). -/
def Module.castFromSink (m : Module) (d : Nat) (p : Pkt) : Module :=
  if p.h.hop == 63 then m.count (pgBlk (p.port.getD (32 * d))) 0x410
  else
    let h := ((p.h.setDest 131071).setVc (bits (m.mcEntry p.h).word0 14 12)).setMode 0
    m.originate { p with h := h.sealed } (some d)

/-- CALM_SINK_DELIVERY: packet `i` of a die's sink goes to its target, once no earlier packet for that target can be
taken. An early one that finds no window stays there (R399). -/
def calmSinkDelivery (d i : Nat) (m : Module) : Module :=
  if !m.working || m.dieFenced d then m
  else match (m.die d).sink[i]? with
    | none => m
    | some (s, p) =>
      let ahead := ((m.die d).sink.take i).any fun q =>
        localTarget q.2.h == localTarget p.h && m.takes q.2 (m.queuedSame q.2 (.sink q.1))
      if ahead then m
      else if isOrdered p.h && !isRestart p && m.verdict p (m.queuedSame p (.sink s)) == .full then m.overflow d (.sink s) p
      else
        let m := m.leaveSink d s p
        if m.calmCast p && p.good then m.castFromSink d p else m.deliver d p none (.sink s)

/-! ### The meanings -/

/-- LOCAL_DELIVERY (R119). -/
def execLocalDelivery (d : Nat) (idx : Nat) (s : State) : Host.Outcome State Fault Refusal := .next (s.withM (localDelivery d idx))

/-- REORDER_COMMIT (R394). -/
def execReorderCommit (src : Nat) (s : State) : Host.Outcome State Fault Refusal := .next (s.withM (reorderCommit src))

/-- WINDOW_OFFER (R399). -/
def execWindowOffer (d : Nat) (s : State) : Host.Outcome State Fault Refusal := .next (s.withM (windowOffer d))

/-- GAP_TIMEOUT (R398). -/
def execGapTimeout (src : Nat) (s : State) : Host.Outcome State Fault Refusal := .next (s.withM (gapTimeout src))

/-- WRITE (R111). -/
def execWrite (p : Pkt) (c : EccIn) (s : State) : Host.Outcome State Fault Refusal := .next (s.withM (write p c))

/-- FETCH_ADD (R330). -/
def execFetchAdd (p : Pkt) (c : EccIn) (s : State) : Host.Outcome State Fault Refusal := .next (s.withM (fetchAdd p c))

/-- FETCH_AND (R330). -/
def execFetchAnd (p : Pkt) (c : EccIn) (s : State) : Host.Outcome State Fault Refusal := .next (s.withM (fetchAnd p c))

/-- FETCH_OR (R330). -/
def execFetchOr (p : Pkt) (c : EccIn) (s : State) : Host.Outcome State Fault Refusal := .next (s.withM (fetchOr p c))

/-- FETCH_XOR (R330). -/
def execFetchXor (p : Pkt) (c : EccIn) (s : State) : Host.Outcome State Fault Refusal := .next (s.withM (fetchXor p c))

/-- FETCH_MAX_S (R330). -/
def execFetchMaxS (p : Pkt) (c : EccIn) (s : State) : Host.Outcome State Fault Refusal := .next (s.withM (fetchMaxS p c))

/-- FETCH_MIN_S (R330). -/
def execFetchMinS (p : Pkt) (c : EccIn) (s : State) : Host.Outcome State Fault Refusal := .next (s.withM (fetchMinS p c))

/-- FETCH_MAX_U (R330). -/
def execFetchMaxU (p : Pkt) (c : EccIn) (s : State) : Host.Outcome State Fault Refusal := .next (s.withM (fetchMaxU p c))

/-- FETCH_MIN_U (R330). -/
def execFetchMinU (p : Pkt) (c : EccIn) (s : State) : Host.Outcome State Fault Refusal := .next (s.withM (fetchMinU p c))

/-- SWAP (R330). -/
def execSwap (p : Pkt) (c : EccIn) (s : State) : Host.Outcome State Fault Refusal := .next (s.withM (swap p c))

/-- COMPARE_SWAP (R330). -/
def execCompareSwap (p : Pkt) (c : EccIn) (s : State) : Host.Outcome State Fault Refusal := .next (s.withM (compareSwap p c))

/-- FENCE (R400). -/
def execFence (p : Pkt) (s : State) : Host.Outcome State Fault Refusal := .next (s.withM (fence p))

/-- RESTART_FENCE (R396). -/
def execRestartFence (p : Pkt) (s : State) : Host.Outcome State Fault Refusal := .next (s.withM (restartFence p))

/-- CALM_SINK_DELIVERY (R161). -/
def execCalmSinkDelivery (d : Nat) (idx : Nat) (s : State) : Host.Outcome State Fault Refusal := .next (s.withM (calmSinkDelivery d idx))

end Sys2Proof.Machine
end

