-- ==== Sys2Proof/Machine/Collective.lean ====
section
/-!
DEFINITION. The collective engine: signatures and geometry (R226 to R234), sending, retention, plane status and
failure notices (R280 to R301), and the pass that takes every step of a plane whose condition holds (R242 to R254).
-/
namespace Sys2Proof.Machine

/-! ### Signature and geometry -/

/-- Fields of a signature (*COLL_JOIN payload*). -/
def sgOp (s : Bytes) : Nat := byteAt s 4
def sgCount (s : Bytes) : Nat := fieldBE s 8 8 % 2 ^ 40
def sgRoot (s : Bytes) : Nat := fieldBE s 24 4 % 2 ^ 17
def sgLaunch (s : Bytes) : Nat := fieldBE s 28 8
def joinMember (pl : Bytes) : Nat := fieldBE pl 40 4 % 2 ^ 17
def sgRed (s : Bytes) (n : Nat) : Red :=
  { op := byteAt s 5 % 16, inF := byteAt s 6 % 16, outF := byteAt s 6 / 16, supplied := bitAt (byteAt s 7) 0,
    word := fieldBE s 16 4, n := n }

/-- SIG_DIGEST (R234). -/
def sigDigest (s : Bytes) : Bytes := shake256 (s.take 40) 16

/-- C of R226. -/
def Red.chunk (r : Red) : Nat := if r.inF == r.outF then r.ei else 64 * Nat.lcm (r.ei / 64) (r.eo / 64)

/-- Whether a join's payload obeys R196, R233, R266, R267 and R275; COUNT 0 is answered before R267 and R275 apply. -/
def joinValid (s : Bytes) (n : Nat) : Bool :=
  let r := sgRed s n
  let c := sgCount s
  let op := sgOp s
  let plain := r.op == 0 && !r.supplied && r.word == 0 && r.inF == r.outF
  if op == 0 then r.legal && sgRoot s == 0
  else if op == 1 then r.legal && sgRoot s == 0 && c % r.chunk == 0
  else if op == 2 then r.legal
  else if op == 3 then plain && r.inF < 7 && sgRoot s == 0 && c % r.ei == 0
  else if op == 4 then plain && r.inF < 7
  else if op == 5 then plain && r.inF < 7 && sgRoot s == 0 && c % r.ei == 0 && c / r.ei ≤ 524288
  else if op == 6 then plain && r.inF < 7 && sgRoot s == 0
  else if op == 7 then plain && r.inF < 7 && sgRoot s == 0 && c ≤ 1
  else false

/-- The geometry of a collective. -/
structure Geo where
  op : Nat := 0
  r : Red := {}
  count : Nat := 0
  n : Nat := 1
  root : Nat := 0
  np : Nat := 1

namespace Geo

def reduce (g : Geo) : Bool := g.op ≤ 2
def gather (g : Geo) : Bool := g.op == 3 || g.op == 4
def xchg (g : Geo) : Bool := g.op == 5 || g.op == 6
/-- Elements of the whole input and result. -/
def total (g : Geo) : Nat := if g.op == 1 || g.op == 3 then g.n * g.count else g.count
/-- Tiles of one sender's input buffer. -/
def perIn (g : Geo) : Nat := ceilDiv g.count g.r.ei
def resTiles (g : Geo) : Nat := ceilDiv g.total g.r.eo
/-- Input and result tiles of a chunk. -/
def ci (g : Geo) : Nat := if g.reduce then g.r.chunk / g.r.ei else 1
def co (g : Geo) : Nat := if g.reduce then g.r.chunk / g.r.eo else 1
def chunks (g : Geo) : Nat := if g.reduce then ceilDiv g.total g.r.chunk else g.resTiles
def chunkOfIn (g : Geo) (t : Nat) : Nat := t / g.ci
def chunkOfRes (g : Geo) (r : Nat) : Nat := r / g.co
/-- Plane of a chunk (R227, R249). -/
def planeOf (g : Geo) (c : Nat) : Nat := if g.op == 3 then c % g.perIn % g.np else c % g.np
/-- Chunks of a plane, and the tiles of a chunk. -/
def planeChunks (g : Geo) (p : Nat) : List Nat := (List.range g.chunks).filter fun c => g.planeOf c == p
def insOf (g : Geo) (c : Nat) : List Nat :=
  ((List.range g.ci).map (g.ci * c + ·)).filter fun t => t * g.r.ei < g.total
def ressOf (g : Geo) (c : Nat) : List Nat :=
  ((List.range g.co).map (g.co * c + ·)).filter fun t => t * g.r.eo < g.total
/-- Elements of an input tile and of a result tile. -/
def inElems (g : Geo) (t : Nat) : Nat := min g.r.ei (g.total - t * g.r.ei)
def resElems (g : Geo) (t : Nat) : Nat := min g.r.eo (g.total - t * g.r.eo)
/-- The input tiles that cover a result tile. -/
def covers (g : Geo) (r : Nat) : List Nat :=
  let a := r * g.r.eo / g.r.ei
  let b := (r * g.r.eo + g.resElems r - 1) / g.r.ei
  (List.range (b + 1 - a)).map (a + ·)
/-- Owner of a result tile, where one member alone receives it (R248). -/
def owner (g : Geo) (r : Nat) : Option Nat :=
  if g.op == 1 then some (r * g.r.eo / max g.count 1) else if g.op == 2 then some g.root else none
/-- The result tile as a member numbers it, and back (R248). -/
def toMember (g : Geo) (mem r : Nat) : Nat := if g.op == 1 then r - mem * (g.count / g.r.eo) else r
def ofMember (g : Geo) (mem t : Nat) : Nat := if g.op == 1 then mem * (g.count / g.r.eo) + t else t

end Geo

/-- Whether a module has a local member in some plane of a context: only then does a join, and so the signature, come. -/
def Ctx.hasLocals (c : Ctx) : Bool := c.plans.cells.any fun x => x.2.any fun q => !q.locals.isEmpty
/-- A module that no join of the context can reach: it only passes packets on. -/
def Ctx.blind (c : Ctx) : Bool := c.sig.isNone && !c.hasLocals

/-- The geometry of a context whose signature is known; where none can come, the tiles that it passes on are GATHERs. -/
def Ctx.geo (c : Ctx) : Geo :=
  let s := c.sig.getD []
  { op := if c.blind then 3 else sgOp s, r := sgRed s c.n, count := sgCount s, n := c.n, root := sgRoot s, np := c.planes.length }

/-! ### Contexts, planes, plans -/

def Module.ctx (m : Module) (h : Nat) : Ctx := m.coll.ctxs.get h
def Module.setCtx (m : Module) (h : Nat) (c : Ctx) : Module :=
  { m with coll := { m.coll with ctxs := m.coll.ctxs.put h c } }
def Module.updCtx (m : Module) (h : Nat) (f : Ctx → Ctx) : Module := m.setCtx h (f (m.ctx h))
def Module.plane (m : Module) (h p : Nat) : Plane := (m.ctx h).planes.getD p {}
def Module.updPlane (m : Module) (h p : Nat) (f : Plane → Plane) : Module :=
  m.updCtx h fun c => { c with planes := modAt c.planes p f }
def Module.grp (m : Module) (g : Nat) : Group := m.coll.groups.get g
def Module.setGrp (m : Module) (g : Nat) (x : Group) : Module :=
  { m with coll := { m.coll with groups := m.coll.groups.put g x } }
/-- The plan entry of a plane that a context uses (R230). -/
def Module.cplan (m : Module) (h p : Nat) : Plan := ((m.ctx h).plans.get p).getD {}
def Plan.isRoot (x : Plan) : Bool := x.parent == 131071
def Plan.kidChips (x : Plan) : List Nat := x.kids.map (·.chip)
def Module.collCount (m : Module) (off : Nat) (n : Nat := 1) : Module := m.count (hubBlk 1) off n

/-- Whether a plane still runs: neither ended nor failed; and whether its status is a terminal one. -/
def Plane.runs (x : Plane) : Bool := x.on && !x.ended && x.fail.isNone
def Plane.late (x : Plane) : Bool := x.fail.any (· != St.chunkLost)
/-- Whether a child's subtree is done, by a SUBTREE_DONE or a plane notice. -/
def Plane.kidDone (x : Plane) (chip : Nat) : Bool := x.kidsDone.any (·.1 == chip)

/-- Whether a packet is addressed to this module (R171): by its chip number, or as a Directed packet at its end. -/
def Module.addressed (m : Module) (h : Hdr) : Bool := m.isOwn h.dest || h.mode == 2

/-- The die that runs a chunk (R227, R293). -/
def Module.homeDie (m : Module) (x : Plan) (np c : Nat) : Nat :=
  let d := (x.base + (if x.spread == 1 then c / np else 0)) % 8
  ((List.range 8).map fun i => (d + i) % 8).find? (fun d => !m.dieFenced d) |>.getD d

/-- The landing object of an engine's run (R370): the first object of its WRITE_LIST, 0 if there is none. -/
def Run.landing (r : Run) : Nat := r.writes.headD 0

/-- A port isolated by the fault collector. -/
def Module.portFenced (m : Module) (p : Nat) : Bool := p < 256 && bitAt m.flt.ports p

/-- The local member that sent a packet, by chip and port, or by the engine whose run it is. -/
def Ctx.sender (c : Ctx) (x : Plan) (pk : Pkt) : Option Loc :=
  match pk.port with
  | none => none
  | some q =>
    if q < 256 then x.locals.find? fun l => l.port == q && l.chip == pk.h.src
    else match c.binds.reverse.find? fun b => b.2.1 == q - 256 with
      | none => none
      | some b => x.locals.find? fun l => l.member == b.1 && l.port == 256

/-! ### Packets -/

/-- *Collective W7*. -/
def w7 (status kind : Nat) (absent masked : Bool := false) (piece : Nat := 0) : Nat :=
  status + b2n absent * 2 ^ 16 + kind * 2 ^ 17 + b2n masked * 2 ^ 20 + piece * 2 ^ 21

/-- The offset form of plane `p` (R251). -/
def planeOff (p : Nat) : Nat := 0x7FFFFFFFFFF8 + p
def isPlaneOff (off : Nat) : Bool := 0x7FFFFFFFFFF8 ≤ off

/-- The header of a packet of a context (R238). -/
def Module.collHdr (m : Module) (h chip type tw off : Nat) : Hdr :=
  let g := m.grp (h / 65536)
  mkHdr type g.vc chip m.chip g.part h tw off

/-- A packet of a context sent to another module. -/
def Module.toChip (m : Module) (h chip type tw off : Nat) (pl : Bytes := []) (die : Option Nat := none) : Module :=
  m.originate (Pkt.make (m.collHdr h chip type tw off) pl) die

/-- Acknowledgement of a tile (R250). -/
def Module.ackTile (m : Module) (h chip status off : Nat) : Module := m.toChip h chip 0x13 status off

/-- A COLL_FAILED event (R284). -/
def Module.collFailed (m : Module) (h plane reason status : Nat) (member : Nat := 131071) (chunk : Option Nat := none) :
    Module :=
  m.event 0x0501 (beBytes 4 h ++ beBytes 1 plane ++ beBytes 1 reason ++ beBytes 2 status ++ beBytes 4 member ++ zeros 4 ++
    beBytes 8 (chunk.getD (2 ^ 64 - 1)) ++ beBytes 8 m.now)

/-- FAIL_DETAIL (R283). -/
def failDetail (chunk : Option Nat) (lost delivered : Nat) : Bytes :=
  beBytes 8 (chunk.getD (2 ^ 64 - 1)) ++ beBytes 4 (min lost (2 ^ 32 - 1)) ++ beBytes 4 (min delivered (2 ^ 32 - 1)) ++ zeros 16

/-- A COMPLETE payload (R253). -/
def completePl (status plane : Nat) (c : Cnt) (seq ftc : Nat) (tail : Bytes) : Bytes :=
  beBytes 2 status ++ beBytes 1 plane ++ zeros 1 ++ beBytes 4 c.sat ++ beBytes 4 c.flush ++ beBytes 4 c.inv ++
  beBytes 4 seq ++ zeros 4 ++ beBytes 8 ftc ++ padTo 32 tail

/-- A COMPLETE that the module makes itself (R283). -/
def Module.ownComplete (m : Module) (status plane seq : Nat) : Bytes :=
  completePl status plane {} seq m.now (if status ≤ 1 then [] else failDetail none 0 0)

/-! ### Landing objects of engine members (R370) -/

/-- The status of a whole write to tile `t` of an object, under a partition (R111, R113). -/
def Module.landStatus (m : Module) (handle t part : Nat) : Nat :=
  match m.store.find handle with
  | none => St.badParam
  | some i =>
    let o := m.obj i
    if o.size ≤ t then St.badParam
    else if o.part != part then St.denied
    else if o.readOnly then St.sealed_
    else if m.unitDown (tileUnit (m.present o t)) then St.internal
    else if m.isPoisoned (m.present o t) || m.isPoisoned (m.writeCopy o t) then St.poisoned
    else St.ok

/-- Bytes written into a landing object, with the status; part of a tile is merged after its check (R111). -/
def Module.land (m : Module) (handle t off part : Nat) (d : Bytes) : Module × Nat :=
  match m.store.find handle with
  | none => (m, St.badParam)
  | some i =>
    let m := if m.landStatus handle t part == St.ok && d.length != 2048 then m.check1 handle t (m.present (m.obj i) t) 3 else m
    let st := m.landStatus handle t part
    (if st == St.ok then m.storeTile i t off d else m, st)

/-- A COMPLETE written for an engine member: the payload, then bit p of byte 512 (R370). -/
def Module.landComplete (m : Module) (handle p part : Nat) (pl : Bytes) : Module :=
  let (m, st) := m.land handle 0 (64 * p) part pl
  if st != St.ok then m
  else match m.store.find handle with
    | some i =>
      let old := byteAt (m.tileBytes (m.present (m.obj i) 0)) 512
      m.storeTile i 0 512 (beBytes 1 (setBit old p true))
    | none => m

/-- A run joins on its own module (R370): bytes 0 to 519 of tile 0 of its landing object become 0, unless the member is bound
already. -/
def Module.clearLanding (m : Module) (p : Pkt) (o : Nat) : Module :=
  let h := p.h.tag % 65536 * 65536 + p.h.tw % 65536
  if (m.ctx h).binds.any (·.1 == joinMember p.pl) then m else (m.land o 0 0 p.h.part (zeros 520)).1

/-- An engine membership is bound to the run that emitted the join (R370). -/
def Module.bind (m : Module) (h mem e : Nat) (p : Pkt) : Module :=
  m.updCtx h fun c => { c with binds := c.binds ++ [(mem, e, p.land.getD 0)] }

/-- A result tile written to a member's landing object is counted on its engine's die (R388). -/
def Module.landCount (m : Module) (h mem : Nat) : Module :=
  match (m.ctx h).binds.reverse.find? fun b => b.1 == mem with
  | some b => m.count (swBlk (b.2.1 / 16) 16) 0xC240
  | none => m

/-- The landing object of an engine member. -/
def Ctx.landOf (c : Ctx) (mem : Nat) : Nat := ((c.binds.reverse.find? fun b => b.1 == mem).map (·.2.2)).getD 0

/-! ### Answers to joins, and to packets without a context (R232 to R236, R298) -/

/-- VC of an answer to a collective packet. -/
def Module.collVc (m : Module) (p : Pkt) (g : Nat) : Nat :=
  if g < 65536 && (m.grp g).used then (m.grp g).vc else if p.h.vc == 0 then 2 else p.h.vc

/-- COMPLETE with PLANE 0xFF to the sender of a join, by the port that the join came in by. -/
def Module.answerJoin (m : Module) (p : Pkt) (status : Nat) : Module :=
  let h := p.h.tag % 65536 * 65536 + p.h.tw % 65536
  let pl := m.ownComplete status 0xFF p.h.tw
  let k := Pkt.make (mkHdr 0x12 (m.collVc p p.h.tag) p.h.src m.chip p.h.part h (w7 status 4)) pl
  match p.port with
  | some q =>
    if q < 256 then m.originate k none (some q)
    else m.landComplete (p.land.getD 0) 0 p.h.part pl
  | none => m.originate k

/-- A packet that R298 never answers: a chunk notice, a COLL_ACK with BUSY, a failure notice with CONTEXT_LOST. -/
def neverAnswered (p : Pkt) : Bool :=
  let st := p.h.tw % 65536
  p.h.type == 0x13 && (st == St.busy || st == St.contextLost || (st == St.chunkLost && !isPlaneOff p.h.offset))

/-- The handle that a collective packet names. -/
def collHandle (p : Pkt) : Nat := if p.h.type == 0x10 then p.h.tag % 65536 * 65536 + p.h.tw % 65536 else p.h.tag

/-- R298: a packet for a group without a record, or for a handle in the window without a context. -/
def Module.noRecord (m : Module) (p : Pkt) : Module :=
  let m := m.collCount 0x1C0
  let h := collHandle p
  let plane := if isPlaneOff p.h.offset then p.h.offset % 8 else 0xFF
  if p.h.type == 0x10 then (m.answerJoin p St.contextLost).collFailed h 0xFF 11 St.contextLost (joinMember p.pl)
  else if neverAnswered p then m
  else
    let last := m.coll.noticed.get h
    if last != 0 && m.ticks + 1 < last + ms (m.collReg 0x02C 0) then m
    else
      let m := { m with coll := { m.coll with noticed := m.coll.noticed.put h (m.ticks + 1) } }
      let m := m.originate (Pkt.make (mkHdr 0x13 (m.collVc p (h / 65536)) p.h.src m.chip p.h.part h St.contextLost p.h.offset) [])
      (m.collCount 0x180).collFailed h plane 11 St.contextLost

/-! ### Sequence numbers (R232) -/

/-- LOW moved past numbers that are done. -/
def Group.advance (g : Group) : Nat → Group
  | 0 => g
  | k + 1 =>
    if g.done.contains g.low then
      { g with done := g.done.filter (· != g.low), empties := g.empties.filter (·.1 != g.low),
               low := (g.low + 1) % 2 ^ 32 }.advance k
    else g

/-- A sequence number is done at this module. -/
def Module.seqDone (m : Module) (gno seq : Nat) : Module :=
  let g := m.grp gno
  if 64 ≤ (seq + 2 ^ 32 - g.low) % 2 ^ 32 || g.done.contains seq then m
  else m.setGrp gno (({ g with done := g.done ++ [seq] } : Group).advance 64)

/-- PROGRESS of a context's tracker entry (R252). -/
def Module.syncEntry (m : Module) (h : Nat) : Module :=
  let c := m.ctx h
  let mask (f : Plane → Bool) : Nat := c.planes.zipIdx.foldl (fun a x => setBit a x.2 (f x.1)) 0
  if c.used then
    m.updEntry c.entry fun e => { e with a := c.retained, b := c.acks, c := mask fun x => x.on && x.ended,
                                         d := mask fun x => x.on && x.fail.isSome, waiting := !c.launched && e.st == 1 }
  else m

/-- A context is freed (R251). -/
def Module.freeCtx (m : Module) (h : Nat) : Module :=
  let c := m.ctx h
  let m := m.syncEntry h
  let m := { m with coll := { m.coll with ctxs := m.coll.ctxs.del h } }
  let m := (m.seqDone (h / 65536) c.seq).collCount 0x108
  let m := if c.sig.isSome && c.geo.op == 7 then m.count (hubBlk 2) 0x128 else m
  let m := m.updEntry c.entry fun e => { e with status := c.status, ended := true }
  match m.trk.find c.entry with
  | some e => if e.aborts.isEmpty then m.closeEntry c.entry else m
  | none => m

/-! ### The end of a plane (R251, R282) -/

/-- COMPLETE for a plane sent to a local member, or withheld from a fenced one (R296). -/
def Module.completeTo (m : Module) (h p status : Nat) (pl : Bytes) (l : Loc) : Module :=
  if m.portFenced l.port then m.count (swBlk (l.port / 32) 10) 0x120
  else if l.port == 256 then m.landComplete ((m.ctx h).landOf l.member) p (m.grp (h / 65536)).part pl
  else m.originate (Pkt.make (m.collHdr h l.chip 0x12 (w7 status 4) p) pl) none (some l.port)

/-- A plane ends here: COMPLETE goes to children and local members, retention is freed, and the context after the last
plane. -/
def Module.endPlane (m : Module) (h p status : Nat) (pl : Bytes) : Module :=
  let x := m.cplan h p
  let m := x.kids.foldl (fun (m : Module) k => m.toChip h k.chip 0x12 (w7 status 4) p pl) m
  let m := (x.locals.filter fun l => !(m.ctx h).barred.contains l.member).foldl (fun (m : Module) l =>
    m.completeTo h p status pl l) m
  let m := m.requestDone (m.ctx h).entry
  let m := m.updPlane h p fun y =>
    { y with ended := true, fail := if status == St.ok then none else some status, steps := [], halves := [], rets := [],
             probeDue := none, dataDue := none, xwait := [], xout := [] }
  let m := m.updCtx h fun c => { c with status := if c.status == 0 then status else c.status }
  if (m.ctx h).planes.all fun y => !y.on || y.ended then m.freeCtx h else m.syncEntry h

/-- The COMPLETE that a root makes for its plane (R253, R254, R283). A root that no join can reach does not know what to digest
with the tiles that it has passed on: 32 free bytes (log entry 128). -/
def Module.rootComplete (m : Module) (h p status : Nat) : Bytes :=
  let c := m.ctx h
  let y := m.plane h p
  let low := y.lost.foldl (fun (a : Option Nat) k => some (match a with | none => k | some b => min b k)) none
  let dig := if c.blind && !y.fin.cells.isEmpty then (List.range 32).map fun i => BitVec.ofNat 8 (Config.freeNat (m.fresh + i))
    else if c.sig.isNone || c.geo.xchg || c.geo.op == 7 then zeros 32 else shake256 ((y.digs.cells.map (·.2)).flatten) 32
  completePl status p y.cnt c.seq m.now (if status == St.ok then dig else failDetail low y.lost.length y.delivered)

/-- A plane ends at its root. -/
def Module.endRoot (m : Module) (h p status : Nat) : Module :=
  let m := if status == St.ok then m else m.collCount 0x188
  ({ m with fresh := m.fresh + 32 } : Module).endPlane h p status (m.rootComplete h p status)

/-- A failure that comes to the root too late (R280). -/
def Module.failLate (m : Module) (h p : Nat) : Module := if (m.plane h p).late then m.collCount 0x1B0 else m

/-- The root records a terminal status (R280, R282). -/
def Module.recordTerm (m : Module) (h p status : Nat) : Module :=
  if (m.plane h p).runs then m.endRoot h p status else m.failLate h p

/-- A plane notice sent (R281). -/
def Module.planeNotice (m : Module) (h p status chip : Nat) : Module :=
  (m.toChip h chip 0x13 status (planeOff p)).collCount 0x180

/-- The plane is over here with a notice to the parent, which repeats until COMPLETE (R281, R292). -/
def Module.noticeUp (m : Module) (h p status : Nat) : Module :=
  let m := m.planeNotice h p status (m.cplan h p).parent
  m.updPlane h p fun y =>
    { y with fail := if status == St.chunkLost then y.fail else some status, sub := some status, probes := 0,
             probeDue := some (m.ticks + ms (m.collReg 0x02C 0)) }

/-- A failure of a plane detected at this module (R281, R284). A module that has noticed another failure of the plane sends
this notice too, and goes on repeating the first. -/
def Module.planeFail (m : Module) (h p status reason : Nat) (member : Nat := 131071) : Module :=
  let y := m.plane h p
  let root := (m.cplan h p).isRoot
  if y.runs then
    let m := m.collFailed h p reason status member
    if root then m.recordTerm h p status else m.noticeUp h p status
  else if !y.on then m
  else if root then m.failLate h p
  else if y.ended || y.fail == some status then m
  else (m.collFailed h p reason status member).planeNotice h p status (m.cplan h p).parent

/-- A loss notice sent on to children and local members (R294). A run on an engine has a landing object for result tiles and
COMPLETEs alone (R370), so the notice does nothing there (DESIGN CHOICE, log entry 108). -/
def Module.lossDown (m : Module) (h p off : Nat) : Module :=
  let x := m.cplan h p
  let tw := w7 St.chunkLost 0 true
  let m := x.kids.foldl (fun (m : Module) k => m.toChip h k.chip 0x12 tw off) m
  (x.locals.filter fun l => l.port != 256 && !m.portFenced l.port).foldl (fun (m : Module) l =>
    m.originate (Pkt.make (m.collHdr h l.chip 0x12 tw off) []) none (some l.port)) m

/-- The offset that names a chunk in notices (R281). -/
def Geo.chunkOff (g : Geo) (c : Nat) : Nat := 2048 * (c * g.co)

/-- The root records a chunk lost (R280, R294): a loss notice with the chunk notice's offset. -/
def Module.recordChunk (m : Module) (h p c off : Nat) : Module :=
  let y := m.plane h p
  if !y.runs then m.failLate h p
  else if y.lost.contains c then m
  else
    let m := m.updPlane h p fun y => { y with lost := y.lost ++ [c], clost := true }
    (m.collCount 0x190).lossDown h p off

/-- A chunk notice goes toward the root, once for each chunk, or is recorded there. -/
def Module.chunkUp (m : Module) (h p c off : Nat) : Module :=
  if (m.cplan h p).isRoot then m.recordChunk h p c off
  else if (m.plane h p).ended || (m.plane h p).lost.contains c then m
  else
    let m := m.updPlane h p fun y => { y with lost := y.lost ++ [c] }
    (m.toChip h (m.cplan h p).parent 0x13 St.chunkLost off).collCount 0x180

/-- A chunk found lost at this module. -/
def Module.chunkLoss (m : Module) (h p c reason : Nat) (member : Nat := 131071) : Module :=
  if (m.plane h p).runs then
    (m.collFailed h p reason St.chunkLost member (some c)).chunkUp h p c ((m.ctx h).geo.chunkOff c)
  else m

/-- An exchange tile that cannot be had any more (R290): a plane notice with CHUNK_LOST, no chunk located. The plane goes on
with its other tiles (R282). -/
def Module.xchgLoss (m : Module) (h p reason : Nat) (member : Nat := 131071) : Module :=
  let y := m.plane h p
  if !y.runs then m
  else
    let m := m.collFailed h p reason St.chunkLost member
    if (m.cplan h p).isRoot then m.updPlane h p fun y => { y with clost := true }
    else if y.sub.isSome then m
    else m.noticeUp h p St.chunkLost

/-! ### Retention (R250, R255) -/

/-- Places of the retention area in use, and of the staging area. -/
def Module.retPlaces (m : Module) : List Nat :=
  m.coll.ctxs.cells.flatMap fun c => c.2.planes.flatMap fun y => y.rets.map (·.place)
def Module.stagePlaces (m : Module) : List Nat :=
  m.coll.ctxs.cells.flatMap fun c => c.2.xpark.filterMap (·.place) ++ c.2.planes.flatMap fun y =>
    (y.steps.flatMap fun s => s.raws.filterMap (·.place)) ++ y.xwait.filterMap (·.place)

/-- The lowest place of an area of the reserve that is not in use, retired or poisoned (log entry 9). -/
def Module.resPlace (m : Module) (base n : Nat) (used : List Nat) : Option Nat :=
  let k := used.length + 1 + 1024 * m.store.resOut.cells.length + m.store.poisoned.cells.length
  (leastBelow (min n k) fun i =>
    !used.contains (base + i) && !m.resGone (base + i) && !m.isPoisoned (resKey (base + i))).map (base + ·)

/-- No tile of the retention area is left. -/
def Module.retFull (m : Module) : Bool := (m.resPlace 0 m.stageBase m.retPlaces).isNone
/-- A free place of the staging area. -/
def Module.stagePlace (m : Module) : Option Nat := m.resPlace m.stageBase (m.stageEnd - m.stageBase) m.stagePlaces
/-- Whether the stack of a place of the reserve is out of reach (R307, R461), or its tile is poisoned. -/
def Module.placeDown (m : Module) (place : Nat) : Bool := m.dieFenced (m.resUnit place / 2)
def Module.placeLost (m : Module) (place : Nat) : Bool := m.isPoisoned (resKey place) || m.placeDown place

/-- The places that `x` no longer uses are free: a poisoned one is retired (R329). -/
def Module.swept (m x : Module) : Module :=
  if x.store.poisoned.keys.any (2 ^ 48 ≤ ·) then
    let l := x.retPlaces ++ x.stagePlaces
    ((m.retPlaces ++ m.stagePlaces).filter fun k => !l.contains k).foldl (fun (x : Module) k => x.freeRes k) x
  else x

/-- A presence mask as sent: ceil(E / 8) bytes, padded (R239). -/
def maskBytes (e mask : Nat) : Bytes := pad16 (leBytes (ceilDiv e 8) mask)

/-- A tile digest (R254). -/
def tileDigest (bytes : Bytes) (e mask : Nat) : Bytes := shake256 (bytes ++ maskBytes e mask) 32

/-- The mask of `n` elements that are all present. -/
def fullMask (n : Nat) : Nat := 2 ^ n - 1

/-- The identity content of an ABSENT result tile (R217, R218). -/
def Geo.identity (g : Geo) (r : Nat) : Bytes :=
  if g.gather then zeros 2048
  else (resultTile' g.r ((List.range (g.resElems r)).map fun i => (({} : PEl), List.replicate g.r.ei 0, i))).1

/-- The digest of a result tile as a module holds it. -/
def Geo.digest (g : Geo) (x : Ret) : Bytes :=
  if x.absent then tileDigest (g.identity x.tile) g.r.eo 0
  else tileDigest x.bytes g.r.eo (x.mask.getD (fullMask (g.resElems x.tile)))

/-- A tile of an ALL_GATHER or BROADCAST as the module holds it (R199, R218): absent if no element within the count is present,
masked only if some are and some are not, and 0 beyond the count. -/
def Geo.gathered (g : Geo) (r : Nat) (absent : Bool) (mask : Option Nat) (bytes : Bytes) : Bool × Option Nat × Bytes :=
  let n := g.resElems r
  let k := mask.map (· % 2 ^ n)
  if absent || k == some 0 then (true, none, [])
  else (false, if k == some (fullMask n) then none else k, cutTile g.r.inF n bytes)

/-- A result tile retained with its CRC-32C, its mask and its digest (R250). -/
def Module.retain (m : Module) (h p : Nat) (x : Ret) : Module :=
  let place := (m.resPlace 0 m.stageBase m.retPlaces).getD 0
  let x := { x with place := place, crc := crc32c x.bytes, dig := if (m.ctx h).blind then [] else (m.ctx h).geo.digest x }
  let m := (m.freshTile (resKey place)).countWrite (resKey place)
  let m := m.updPlane h p fun y => { y with rets := y.rets ++ [x] }
  (m.updCtx h fun c => { c with retained := c.retained + 1 }).collCount 0x140

/-- A retained tile is over: every destination has it, or it is lost. -/
def Module.dropRet (m : Module) (h p tile : Nat) : Module :=
  let ok := (m.plane h p).rets.any fun x => x.tile == tile && x.dsts.all fun d => d.acked && !d.lost
  (m.updPlane h p fun y => { y with rets := y.rets.filter (·.tile != tile), fin := y.fin.put tile true }).updCtx h fun c =>
    { c with acks := c.acks + b2n ok }

/-- The destinations that a result tile has at this module (R247 to R249); `src` is the neighbour it came from. -/
def Module.dstsOf (m : Module) (h p r : Nat) (src : Option Nat := none) : List RDst :=
  let g := (m.ctx h).geo
  let x := m.cplan h p
  let own (mem : Nat) : Bool := match g.owner r with | none => true | some o => o == mem
  let kids := x.kids.filter fun k =>
    some k.chip != src && (match g.owner r with | none => true | some o => k.lo ≤ o && o ≤ k.hi)
  let up := if g.gather && !x.isRoot && some x.parent != src then [({ role := 2, id := x.parent } : RDst)] else []
  (x.locals.filter fun l => own l.member).map (fun l => ({ role := 0, id := l.member } : RDst)) ++
  kids.map (fun k => ({ role := 1, id := k.chip } : RDst)) ++ up

/-- Whether a destination may be sent a result tile now. -/
def Module.gate (m : Module) (h p : Nat) (d : RDst) : Bool :=
  let c := m.ctx h
  let y := m.plane h p
  c.launched && y.runs &&
  (if d.role == 0 then y.checked else if c.geo.gather then true else !(m.cplan h p).isRoot || y.checked)

/-- One destination's header for a retained tile, `mask` for its MASK packet: fixed port and header. -/
def Module.retHdr (m : Module) (h p : Nat) (x : Ret) (d : RDst) (mask : Bool) : Option Nat × Hdr :=
  let g := (m.ctx h).geo
  let k := if g.gather && d.role != 0 then 0x11 else 0x12
  let kind := if mask then 1 else if k == 0x11 then 5 else 0
  let tw := w7 0 kind (x.absent && !mask) (x.mask.isSome && !mask)
  if d.role == 0 then
    match (m.cplan h p).locals.find? (·.member == d.id) with
    | some l => (some l.port, m.collHdr h l.chip 0x12 tw (2048 * g.toMember l.member x.tile))
    | none => (none, {})
  else (none, m.collHdr h d.id k tw (2048 * x.tile))

/-- The MASK payload of a retained tile. -/
def Geo.maskPl (g : Geo) (x : Ret) : Bytes :=
  if x.maskLen == 0 then maskBytes g.r.eo (x.mask.getD 0) else leBytes x.maskLen (x.mask.getD 0)

/-- A retained tile sent to some destinations, a whole tile with its stored CRC as T0 (R110): result packets share one
buffer (R123), GATHERs do not. -/
def Module.sendTo (m : Module) (h p : Nat) (x : Ret) (ds : List RDst) : Module :=
  let g := (m.ctx h).geo
  let die := m.homeDie (m.cplan h p) g.np (g.chunkOfRes x.tile)
  let go (m : Module) (mask : Bool) : Module :=
    let pl := if mask then g.maskPl x else if x.absent then [] else x.bytes
    let hs := ds.map fun d => (m.retHdr h p x d mask, g.gather && d.role != 0)
    let one (m : Module) (a : Option Nat × Hdr) (more : List (Option Nat × Hdr)) : Module :=
      let k := Pkt.make a.2 pl
      m.originate (if mask || x.absent then k else { k with t0 := x.crc }) (some die) a.1 false (more.map fun b => (b.1, (b.2.setLen pl.length).sealed))
    let m := (hs.filter (·.2)).foldl (fun m b => one m b.1 []) m
    match (hs.filter fun b => !b.2).map (·.1) with
    | [] => m
    | a :: l => one m a l
  if ds.isEmpty then m
  else if x.mask.isSome then go (go m true) false else go m false

/-- The acknowledgement timer of a destination started now. -/
def Module.ackDue (m : Module) : Nat := m.ticks + us (m.collReg 0x028 0)

/-- A destination's entry of a retained tile changed. -/
def Module.updDst (m : Module) (h p tile : Nat) (d : RDst) (f : RDst → RDst) : Module :=
  m.updPlane h p fun y => { y with rets := y.rets.map fun x =>
    if x.tile == tile then { x with dsts := x.dsts.map fun e => if e.role == d.role && e.id == d.id then f e else e } else x }

/-- A destination does not take its tile any more: its chunk is reported, and it is no longer waited for (R291). -/
def Module.ackWait (m : Module) (h p tile : Nat) (d : RDst) : Module :=
  (m.updDst h p tile d fun e => { e with acked := true, lost := true }).chunkLoss h p ((m.ctx h).geo.chunkOfRes tile) 6
    (if d.role == 0 then d.id else 131071)

/-- A result tile delivered to an engine member, and acknowledged with the status of that write (R370, R291). -/
def Module.landTile (m : Module) (h p : Nat) (x : Ret) (d : RDst) : Module :=
  let c := m.ctx h
  let g := c.geo
  let (m, st) := m.land (c.landOf d.id) (1 + g.toMember d.id x.tile) 0 (m.grp (h / 65536)).part
    (if x.absent then g.identity x.tile else x.bytes)
  if st == St.ok then (m.landCount h d.id).updDst h p x.tile d fun e => { e with acked := true }
  else
    let lim := m.collReg 0x028 17
    ((m.collCount 0x198 lim).updDst h p x.tile d fun e => { e with resends := lim }).ackWait h p x.tile d

/-- Whether a destination is a run on one of the module's engines. -/
def Module.isEngineDst (m : Module) (h p : Nat) (d : RDst) : Bool :=
  d.role == 0 && (m.cplan h p).locals.any fun l => l.member == d.id && l.port == 256

/-- A retained tile found bad at use (R110, R293). -/
def Module.retBad (m : Module) (h p : Nat) (x : Ret) (reason : Nat) : Module :=
  let e := (m.ctx h).entry
  let m := (m.collCount 0x1A0).raise 21 (hubBlk 1) e
  (m.dropRet h p x.tile).chunkLoss h p ((m.ctx h).geo.chunkOfRes x.tile) reason

/-- A retained tile read for a use: its check (R293), and whether it can be had. -/
def Module.useRet (m : Module) (x : Ret) : Module × Bool :=
  let m := if m.placeDown x.place then m else (m.checkRes x.place 2).countRead (resKey x.place)
  (m, !m.placeLost x.place)

/-- A retained tile sent to the destinations that wait for it and may have it; freed when every one has it. -/
def Module.sendRet (m : Module) (h p : Nat) (x : Ret) : Module :=
  let ds := x.dsts.filter fun d => d.due.isNone && !d.acked && m.gate h p d
  if ds.isEmpty then
    (if x.dsts.all (·.acked) then m.dropRet h p x.tile else m)
  else
    let (m, ok) := m.useRet x
    if !ok then m.retBad h p x (if m.placeDown x.place then 9 else 7) else
    let due := m.ackDue
    let eng := ds.filter (m.isEngineDst h p)
    let m := m.sendTo h p x (ds.filter fun d => !m.isEngineDst h p d)
    let first := (m.cplan h p).isRoot && x.dsts.all fun d => d.due.isNone && !d.acked
    let m := m.updPlane h p fun y => { y with
      delivered := y.delivered + b2n first,
      rets := y.rets.map fun z => if z.tile == x.tile then
        { z with dsts := z.dsts.map fun e => if ds.contains e then { e with due := some due } else e } else z }
    let m := eng.foldl (fun m d => m.landTile h p x d) m
    match (m.plane h p).rets.find? (·.tile == x.tile) with
    | some z => if z.dsts.all (·.acked) then m.dropRet h p x.tile else m
    | none => m

/-- Every retained tile of a plane. -/
def Module.sendPass (m : Module) (h p : Nat) : Module :=
  (m.plane h p).rets.foldl (fun m x => if (m.plane h p).runs then m.sendRet h p x else m) m

/-! ### Exchange (R266 to R273) -/

/-- Tiles b below B of a block with s + j = `x` that travel on plane `p` (R269). -/
def tilesOn (np p x b : Nat) : Nat := (b + np - 1 - (p + np - x % np) % np) / np

/-- An entry of a declaration. -/
def declEntry (l : List Decl) (mem peer : Nat) : Nat :=
  match l.find? fun d => d.member == mem && d.k == peer / 512 with
  | some d => fieldBE d.bytes (4 * (peer % 512)) 4
  | none => 0

/-- A member's declaration is complete. -/
def declared (l : List Decl) (mem n : Nat) : Bool :=
  (List.range (ceilDiv n 512)).all fun k => l.any fun d => d.member == mem && d.k == k

/-- Tiles of the block from s to j: by s's row, and by j's column. -/
def Ctx.rowTiles (c : Ctx) (s j : Nat) : Nat :=
  let g := c.geo
  if g.op == 5 then g.count / g.r.ei else ceilDiv (declEntry c.rows s j) g.r.ei
def Ctx.colTiles (c : Ctx) (j s : Nat) : Nat :=
  let g := c.geo
  if g.op == 5 then g.count / g.r.ei else ceilDiv (declEntry c.cols j s) g.r.ei

/-- A sum over the group's members. -/
def sumTo (n : Nat) (f : Nat → Nat) : Nat := (List.range n).foldl (fun a i => a + f i) 0

/-- Destination and tile of the block of the t-th tile of a send buffer. -/
def findBlock (f : Nat → Nat) : Nat → Nat → Nat → Option (Nat × Nat)
  | 0, _, _ => none
  | k + 1, j, t => if t < f j then some (j, t) else findBlock f k (j + 1) (t - f j)

/-- Tiles that a member owes on a plane, and tiles it expects there (R272). -/
def Ctx.owed (c : Ctx) (p s : Nat) : Nat := sumTo c.n fun j => tilesOn c.planes.length p (s + j) (c.rowTiles s j)
def Ctx.expected (c : Ctx) (p j : Nat) : Nat := sumTo c.n fun s => tilesOn c.planes.length p (s + j) (c.colTiles j s)

/-- H of R273. -/
def xchgH (a b n : Nat) : Nat := beNat (shake256 (beBytes 4 a ++ beBytes 4 b ++ beBytes 4 n) 16)

/-- ROW_SUM and COL_SUM of some members' declarations. -/
def Ctx.sums (c : Ctx) (mems : List Nat) : Nat × Nat :=
  mems.foldl (fun a s =>
    let one (f : Nat → Nat) (g : Nat → Nat → Nat) : Nat :=
      sumTo c.n fun j => if f j == 0 then 0 else g j (f j)
    ((a.1 + one (declEntry c.rows s) fun j n => xchgH s j n) % 2 ^ 128,
     (a.2 + one (declEntry c.cols s) fun k n => xchgH k s n) % 2 ^ 128)) (0, 0)

/-- Destination and tile of the block of a SEND tile (R271, step 1); `none`: its member declared no such tile. -/
def Ctx.sendBlock (c : Ctx) (s t : Nat) : Option (Nat × Nat) :=
  let g := c.geo
  if g.op == 5 then
    let b := g.count / g.r.ei
    if b == 0 then none else some (t / b, t % b)
  else findBlock (c.rowTiles s) c.n 0 t

/-- One waiting exchange tile of its plane taken as far as it can go (R271): `none` where it goes on waiting. A destination
that PEER cannot name has no place in any tree. -/
def Module.xchgTile (m : Module) (h p : Nat) (x : XTile) : Module × Option XTile :=
  let c := m.ctx h
  let pl := m.cplan h p
  let j := x.dst
  let bad (m : Module) : Module × Option XTile := (m.count (hubBlk 2) 0x118, none)
  let sent (m : Module) : Module := m.updPlane h p fun y => { y with xsent := y.xsent ++ [(x.src, j * 2 ^ 20 + x.b)] }
  if 2 ^ 17 ≤ j then bad m
  else if !c.launched then (m, some x)
  else
    let carry (chip : Nat) : Module × Option XTile :=
      let m := m.toChip h chip 0x14 (j + 2 ^ 17) (x.src * 2 ^ 30 + x.b * 2 ^ 11) x.bytes
      (sent (m.count (hubBlk 2) 0x110), none)
    match pl.locals.find? fun l => l.member == j with
    | some l =>
      if !(m.plane h p).checked || (c.geo.op == 6 && !declared c.cols j c.n) then (m, some x)
      else
        let t := sumTo x.src (c.colTiles j) + x.b
        let m := (sent m).count (hubBlk 2) 0x108
        if l.port == 256 then
          let (m, st) := m.land (c.landOf j) (1 + t) 0 (m.grp (h / 65536)).part (padTo 2048 x.bytes)
          if st == St.ok then ((m.landCount h j).updPlane h p fun y => { y with xacked := y.xacked ++ [(j, t)] }, none)
          else ((m.updPlane h p fun y => { y with xgone := y.xgone ++ [(j, t)] }).xchgLoss h p 6 j, none)
        else
          let m := m.originate (Pkt.make (m.collHdr h l.chip 0x14 (x.src + 2 * 2 ^ 17) (2048 * t)) x.bytes) none (some l.port)
          (m.updPlane h p fun y => { y with xout := y.xout ++ [(j, t)] }, none)
    | none =>
      match pl.kids.find? fun k => k.lo ≤ j && j ≤ k.hi with
      | some k => carry k.chip
      | none => if pl.isRoot then bad m else carry pl.parent

/-- An exchange tile that waits has a tile of the staging area, where one is free. -/
def Module.xchgPlace (m : Module) (x : XTile) : Module × XTile :=
  match x.place, m.stagePlace with
  | none, some k => ((m.freshTile (resKey k)).countWrite (resKey k), { x with place := some k })
  | _, _ => (m, x)

/-- An exchange tile that waits goes into the staging area. -/
def Module.xchgStage (m : Module) (h p : Nat) (x : XTile) : Module :=
  let (m, x) := m.xchgPlace x
  m.updPlane h p fun y => { y with xwait := y.xwait ++ [x] }

/-- A SEND tile whose row is complete goes to the plane of its block (R271, step 1); one that its member's row does not name,
or whose plane the member does not take part in, is counted in XCHG_BAD. -/
def Module.xchgRoute (m : Module) (h : Nat) (x : XTile) : Module :=
  let c := m.ctx h
  match c.sendBlock x.src x.b with
  | none => m.count (hubBlk 2) 0x118
  | some (j, b) =>
    let q := (x.src + j + b) % max c.planes.length 1
    if !(m.cplan h q).locals.any fun l => l.member == x.src then m.count (hubBlk 2) 0x118
    else if !(m.plane h q).runs || (m.plane h q).xlost then m
    else m.updPlane h q fun y => { y with xwait := y.xwait ++ [{ x with dst := j, b := b }] }

/-- The SEND tiles of a member whose row has just become complete; one whose tile of the staging area is lost is lost with it
(R329). -/
def Module.xchgUnpark (m : Module) (h mem : Nat) : Module :=
  let l := (m.ctx h).xpark.filter (·.src == mem)
  l.foldl (fun (m : Module) x => if x.place.any m.placeLost then m else m.xchgRoute h x)
    (m.updCtx h fun c => { c with xpark := c.xpark.filter (·.src != mem) })

/-- Every waiting exchange tile of a plane; one whose tile of the staging area is lost is lost with it (R329). -/
def Module.xchgPass (m : Module) (h p : Nat) : Module :=
  (m.plane h p).xwait.foldl (fun m x =>
    if (m.plane h p).runs then
      let m := m.updPlane h p fun y => { y with xwait := y.xwait.erase x }
      if x.place.any m.placeLost then m
      else
        let (m, r) := m.xchgTile h p x
        match r with
        | some x => m.xchgStage h p x
        | none => m
    else m) m

/-! ### Tile steps (R242 to R247) -/

/-- Bytes of scratch that a tile step takes. -/
def stepBytes (g : Geo) (locals n : Nat) : Nat :=
  (if g.r.staged then locals * 2048 else 0) + n * g.r.width + 16 + roundUp (ceilDiv n 4) 16

/-- Home die of a tile step. -/
def Module.stepDie (m : Module) (h p t : Nat) : Nat :=
  let g := (m.ctx h).geo
  m.homeDie (m.cplan h p) g.np (g.chunkOfIn t)

/-- The admitted tile steps of the module: handle, plane, tile. -/
def Module.openSteps (m : Module) : List (Nat × Nat × Nat) :=
  m.coll.ctxs.cells.flatMap fun c => c.2.planes.zipIdx.flatMap fun y =>
    (y.1.steps.filter (·.admitted)).map fun s => (c.1, y.2, s.tile)

/-- Scratch in use on a die, in bytes, and the steps open there. -/
def Module.stepsOn (m : Module) (d : Nat) : List (Nat × Nat × Nat) := m.openSteps.filter fun x => m.stepDie x.1 x.2.1 x.2.2 == d
def Module.scratchUsed (m : Module) (d : Nat) : Nat :=
  (m.stepsOn d).foldl (fun a x =>
    let g := (m.ctx x.1).geo
    a + stepBytes g (m.cplan x.1 x.2.1).locals.length (g.inElems x.2.2)) 0

/-- Whether a tile step may be admitted: oldest tile first, the window, and room on the home die. -/
def Module.canAdmit (m : Module) (h p t : Nat) : Bool :=
  let c := m.ctx h
  let g := c.geo
  let d := m.stepDie h p t
  ((m.openSteps.filter (·.1 == h)).length < m.collReg 0x000 0) &&
  (c.planes.all fun y => y.steps.all fun s => s.admitted || t ≤ s.tile) &&
  !m.dieFenced d &&
  (m.scratchUsed d + stepBytes g (m.cplan h p).locals.length (g.inElems t) ≤ 32 * 2 ^ 20)

/-- Counters of a reduction unit (R222). -/
def Module.redEvents (m : Module) (d : Nat) (c : Cnt) : Module :=
  ((m.count (swBlk d 7) 0x018 c.sat).count (swBlk d 7) 0x020 c.flush).count (swBlk d 7) 0x028 c.inv

/-- A tile step of a plane changed. -/
def Module.updStep (m : Module) (h p t : Nat) (f : TStep → TStep) : Module :=
  m.updPlane h p fun y => { y with steps := y.steps.map fun s => if s.tile == t then f s else s }

/-- The tile step of a plane, opened if it is new. -/
def Module.openStep (m : Module) (h p t : Nat) : Module :=
  if (m.plane h p).steps.any (·.tile == t) then m
  else
    let a := m.canAdmit h p t
    m.updPlane h p fun y => { y with steps := insertBy (·.tile) { tile := t, admitted := a } y.steps }

/-- Contributions added into a tile's partial under anchors. -/
def Module.addRaws (m : Module) (h p t : Nat) (anch : List Nat) : Module :=
  match (m.plane h p).steps.find? (·.tile == t) with
  | none => m
  | some s =>
    let g := (m.ctx h).geo
    let n := g.inElems t
    let l := s.raws.map fun x => contribPart g.r anch x.bytes (if x.absent then some 0 else x.mask) n
    let m := m.redEvents (m.stepDie h p t) (l.foldl (fun (a : Cnt) q => a.add q.cnt) {})
    m.updStep h p t fun s => { s with raws := [], part := l.foldl (joinPart g.r) s.part }

/-- A tile step admitted: its contributions come back from staging, and a streamed step's are added. -/
def Module.admitStep (m : Module) (h p t : Nat) : Module :=
  match (m.plane h p).steps.find? (·.tile == t) with
  | none => m
  | some s =>
    let g := (m.ctx h).geo
    let lost := s.raws.filter fun x => x.place.any m.placeLost
    let m := s.raws.foldl (fun (m : Module) x => match x.place with
      | some k => if m.placeLost k then m else m.countRead (resKey k)
      | none => m) m
    let m := m.updStep h p t fun s => { s with
      admitted := true, got := s.got.filter fun k => !lost.any (·.member == k),
      raws := (s.raws.filter fun x => !lost.contains x).map fun x => { x with place := none } }
    if g.r.staged then m else m.addRaws h p t (suppliedAnchors g.r (g.inElems t))

/-- Everything a tile step waits for from the members and children is in. -/
def Module.stepIn (m : Module) (h p : Nat) (s : TStep) : Bool :=
  let x := m.cplan h p
  x.locals.all (fun l => s.got.contains l.member) && x.kidChips.all s.kids.contains

/-- Children's complete PARTIALs joined into the tile's partial. -/
def Module.joinKids (m : Module) (h p t : Nat) : Module :=
  (m.cplan h p).kidChips.foldl (fun m k =>
    match (m.plane h p).steps.find? (·.tile == t) with
    | none => m
    | some s =>
      let g := (m.ctx h).geo
      let n := g.inElems t
      let l := (s.pieces.filter (·.1 == k)).map (·.2)
      if s.kids.contains k || l.length < g.r.npieces n then m
      else
        let m := m.count (swBlk (m.stepDie h p t) 7) 0x000
        m.updStep h p t fun s => { s with
          kids := s.kids ++ [k], pieces := s.pieces.filter (·.1 != k), part := joinPart g.r s.part (Part.ofPieces g.r n l) }) m

/-- Agreed anchors come into force and go to the children (R245). -/
def Module.agree (m : Module) (h p t : Nat) (a : List Nat) : Module :=
  let g := (m.ctx h).geo
  let d := m.stepDie h p t
  let pl := anchorBytes g.r a
  let m := m.updStep h p t fun s => { s with agreed := some a }
  let m := (m.cplan h p).kids.foldl (fun (m : Module) k =>
    (m.toChip h k.chip 0x12 (w7 0 2) (2048 * t) pl (some d)).count (swBlk d 7) 0x030
      (a.length * (if g.r.smx then 2 else 1))) m
  m.addRaws h p t a

/-- One tile step taken as far as it can go. -/
def Module.stepPass (m : Module) (h p t : Nat) : Module :=
  let g := (m.ctx h).geo
  let x := m.cplan h p
  let d := m.stepDie h p t
  let m := m.joinKids h p t
  match (m.plane h p).steps.find? (·.tile == t) with
  | none => m
  | some s =>
    if !s.admitted || s.sent || !(m.ctx h).launched || !(m.plane h p).runs then m
    else
      let m :=
        if g.r.staged && s.agreed.isNone && !s.anchSent && x.locals.all (fun l => s.got.contains l.member) &&
           x.kidChips.all fun k => s.kidAnch.any (·.1 == k) then
          let n := g.inElems t
          let z := (suppliedAnchors g.r n).map fun _ => 0
          let a := s.raws.foldl (fun a q => maxAnchors a (anchorsOf g.r q.bytes (if q.absent then some 0 else q.mask) n)) z
          let a := s.kidAnch.foldl (fun a q => maxAnchors a q.2) a
          if x.isRoot then m.agree h p t a
          else
            let m := m.toChip h x.parent 0x11 (w7 0 3) (2048 * t) (anchorBytes g.r a) (some d)
            (m.count (swBlk d 7) 0x030 (a.length * (if g.r.smx then 2 else 1))).updStep h p t fun s => { s with anchSent := true }
        else m
      match (m.plane h p).steps.find? (·.tile == t) with
      | none => m
      | some s =>
        if !m.stepIn h p s || !s.raws.isEmpty || (g.r.staged && s.agreed.isNone) then m
        else if x.isRoot then m.updStep h p t fun s => { s with sent := true }
        else if !(m.plane h p).summary then m
        else
          let f := m.fresh
          let m := { m with fresh := f + s.part.els.length }
          let m := (s.part.pieces g.r fun i => Config.freeNat (f + i)).foldl (fun (m : Module) q =>
            m.toChip h x.parent 0x11 (w7 0 2 false false q.1) (2048 * t) q.2 (some d)) m
          (m.count (swBlk d 7) 0x008).updPlane h p fun y =>
            { y with steps := y.steps.filter (·.tile != t), stepsDone := y.stepsDone.put t true }

/-- One result tile rounded at the root (step 8 of *All-reduce, one plane*). -/
def Module.produce (m : Module) (h p r : Nat) : Module :=
  let g := (m.ctx h).geo
  let y := m.plane h p
  let n := g.resElems r
  let els := (List.range n).map fun i =>
    let k := r * g.r.eo + i
    match y.steps.find? (·.tile == k / g.r.ei) with
    | some s => (s.part.els.getD (k % g.r.ei) {},
        s.agreed.getD (suppliedAnchors g.r (g.inElems (k / g.r.ei))), k % g.r.ei)
    | none => ({}, [], 0)
  let (bytes, mask, cnt) := resultTile' g.r els
  let d := m.homeDie (m.cplan h p) g.np (g.chunkOfRes r)
  let m := (m.redEvents d cnt).count (swBlk d 7) 0x008
  let m := m.updPlane h p fun y => { y with cnt := y.cnt.add cnt, digs := y.digs.put r (tileDigest bytes g.r.eo mask) }
  let ds := m.dstsOf h p r
  if ds.isEmpty then m.collCount 0x1A0
  else m.retain h p { tile := r, absent := mask == 0, mask := if mask == 0 || mask == fullMask n then none else some mask,
                      bytes := bytes, dsts := ds }

/-- Result tiles of the steps that are complete at the root. -/
def Module.rootPass (m : Module) (h p : Nat) : Module :=
  let g := (m.ctx h).geo
  let cs := ((m.plane h p).steps.filter (·.sent)).map fun s => g.chunkOfIn s.tile
  let m := cs.eraseDups.foldl (fun (m : Module) c =>
    (g.ressOf c).foldl (fun m r =>
      let y := m.plane h p
      if (y.digs.get r).isEmpty && !m.retFull && (g.covers r).all fun t => y.steps.any fun s => s.tile == t && s.sent then
        m.produce h p r
      else m) m) m
  let passed := ((m.plane h p).steps.filter fun s => s.sent && ((g.ressOf (g.chunkOfIn s.tile)).all fun r =>
    !(g.covers r).contains s.tile || !((m.plane h p).digs.get r).isEmpty))
  passed.foldl (fun (m : Module) s => m.updPlane h p fun y =>
    { y with steps := y.steps.filter (·.tile != s.tile), stepsDone := y.stepsDone.put s.tile true,
             cnt := y.cnt.add s.part.cnt }) m

/-! ### SUMMARY and CHECKED (R244, R273, R275) -/

/-- MEMBERS_BELOW of this module. -/
def Module.below (m : Module) (h p : Nat) : Nat :=
  (m.cplan h p).locals.length + (m.plane h p).sums.foldl (fun a s => a + s.2.1) 0

/-- Whether a context is an ALL_TO_ALLV, by its signature or by its children's SUMMARYs (R273). -/
def Module.isV (m : Module) (h p : Nat) : Bool :=
  match (m.ctx h).sig with
  | some s => sgOp s == 6
  | none => (m.plane h p).wide

/-- The plane is found checked, and its children are told. -/
def Module.check_ (m : Module) (h p : Nat) : Module :=
  let m := (m.cplan h p).kids.foldl (fun (m : Module) k => m.toChip h k.chip 0x12 (w7 0 3) p) m
  let due := m.ticks + us (m.collReg 0x020 0)
  let g := (m.ctx h).geo
  m.updPlane h p fun y =>
    { y with checked := true, dataOn := y.dataOn || g.op != 7,
             dataDue := if y.dataOn || g.op == 7 then y.dataDue else some due }

/-- SUMMARY sent up, or CHECKED at the root, once everything below has joined with one signature. -/
def Module.summaryPass (m : Module) (h p : Nat) : Module :=
  let c := m.ctx h
  let x := m.cplan h p
  let y := m.plane h p
  if y.summary || !y.runs || !c.launched then m
  else if !(x.locals.all fun l => y.joined.contains l.member) || !(x.kidChips.all fun k => y.sums.any (·.1 == k)) then m
  else if m.isV h p && !(x.locals.all fun l => declared c.rows l.member c.n && declared c.cols l.member c.n) then m
  else
    let own := if m.isV h p then c.sums (x.locals.map (·.member)) else (0, 0)
    let row := y.sums.foldl (fun a s => (a + s.2.2.1) % 2 ^ 128) own.1
    let col := y.sums.foldl (fun a s => (a + s.2.2.2) % 2 ^ 128) own.2
    if x.isRoot then
      if c.n < m.below h p then m.planeFail h p St.mismatch 3
      else if m.below h p != c.n || c.n == 0 then m
      else if row != col then (m.count (hubBlk 2) 0x120).planeFail h p St.mismatch 2
      else
        let m := m.updPlane h p fun y => { y with summary := true }
        if (m.ctx h).sig.isSome && (m.ctx h).geo.op == 7 then m.endRoot h p St.ok else m.check_ h p
    else
      let pl := (y.first.getD (zeros 16)) ++ beBytes 4 (m.below h p) ++ zeros 12 ++
        (if m.isV h p then beBytes 16 row ++ beBytes 16 col else [])
      (m.toChip h x.parent 0x11 (w7 0 4) p pl).updPlane h p fun y => { y with summary := true }

/-! ### The end of a plane's work (R251, R272) -/

/-- Every tile that this module owes or awaits on a plane is settled. -/
def Module.settled (m : Module) (h p : Nat) : Bool :=
  let c := m.ctx h
  let g := c.geo
  let x := m.cplan h p
  let y := m.plane h p
  let isGone (k : Nat) : Bool := y.gone.contains k || (y.told.contains k && !y.rets.any fun x => g.chunkOfRes x.tile == k)
  let isOver (r : Nat) : Bool := y.fin.get r || isGone (g.chunkOfRes r)
  if c.sig.isNone then y.rets.isEmpty
  else if g.op == 7 then true
  else if g.reduce then
    (g.planeChunks p).all fun k => isGone k ||
      ((g.insOf k).all (fun t => y.stepsDone.get t) &&
       (g.ressOf k).all fun r => isOver r || (!x.isRoot && (m.dstsOf h p r).isEmpty))
  else if g.gather then (g.planeChunks p).all isOver
  else
    y.xlost ||
    (x.locals.all (fun l => c.owed p l.member ≤ (y.xsent.filter (·.1 == l.member)).eraseDups.length) &&
     x.locals.all fun l => c.expected p l.member ≤ ((y.xacked ++ y.xgone).filter (·.1 == l.member)).eraseDups.length)

/-- SUBTREE_DONE to the parent, or COMPLETE at the root. A root that knows a barrier has ended it in place of CHECKED (R275);
one without a local member in any plane cannot know, and ends it here (log entry 106). -/
def Module.donePass (m : Module) (h p : Nat) : Module :=
  let x := m.cplan h p
  let y := m.plane h p
  if !y.runs || !y.checked || !(x.kidChips.all y.kidDone) || !m.settled h p then m
  else if x.isRoot then m.endRoot h p (if y.clost then St.chunkLost else St.ok)
  else if y.sub.isSome then m
  else
    (m.toChip h x.parent 0x13 St.ok (planeOff p)).updPlane h p fun y =>
      { y with sub := some St.ok, probes := 0, probeDue := some (m.ticks + ms (m.collReg 0x02C 0)) }

/-- Every step of a plane whose condition holds. -/
def Module.advPlane (m : Module) (h p : Nat) : Module :=
  if !(m.ctx h).used || !(m.plane h p).runs then m
  else
    let m := m.summaryPass h p
    if !(m.ctx h).used then m
    else if (m.ctx h).sig.isNone then ((m.xchgPass h p).sendPass h p).donePass h p
    else
      let g := (m.ctx h).geo
      let m :=
        if g.reduce then
          let m := ((m.plane h p).steps.map (·.tile)).foldl (fun m t => m.stepPass h p t) m
          if (m.cplan h p).isRoot then m.rootPass h p else m
        else if g.xchg then m.xchgPass h p else m
      (m.sendPass h p).donePass h p

/-- Every plane of a context, once its launch count is reached (R246, R422). -/
def Module.advance (m : Module) (h : Nat) : Module :=
  let c := m.ctx h
  if !c.used then m
  else
    let l := sgLaunch (c.sig.getD [])
    let m := if c.launched || m.now < l then m else m.updCtx h fun c => { c with launched := true }
    let ps := List.range c.planes.length
    ((if c.sig.isSome && c.geo.xchg then ps ++ ps else ps).foldl (fun m p => m.advPlane h p) m).syncEntry h

/-- Result tiles that a full retention area held up, as far as there is room again (R255). -/
def Module.resume (m : Module) : Module :=
  m.coll.ctxs.keys.foldl (fun m h =>
    if ((m.ctx h).planes.any fun y => y.runs && y.steps.any (·.sent)) && !m.retFull then m.advance h else m) m

/-- What every event of the collective engine ends with: room that it made in the reserve is used, and poisoned tiles that
it freed are retired. -/
def Module.collEvent (m : Module) (f : Module → Module) : Module := m.swept (f m).resume

/-! ### Allocation (R235, R299) -/

/-- Tiles of staging that a context holds, and those reserved for it (R242). Packets that have overtaken every join wait in
staging too, but for ANCHORs and what carries no data. -/
def Ctx.stageHeld (c : Ctx) : Nat :=
  (c.early.filter fun k => k.h.type == 0x14 || (k.h.type == 0x11 && bits k.h.tw 19 17 != 3)).length +
  (c.planes.foldl (fun a y =>
    a + y.xwait.length + y.steps.foldl (fun b s => b + (s.raws.filter (·.place.isSome)).length) 0) c.xpark.length)
def Ctx.stageKept (c : Ctx) : Nat := c.plans.cells.foldl (fun a x => a + (match x.2 with | some q => q.locals.length | none => 0)) 0

/-- Staging in use or reserved, in tiles, and its size. -/
def Module.stageUsed (m : Module) : Nat := m.coll.ctxs.cells.foldl (fun a c => a + max c.2.stageHeld c.2.stageKept) 0
def Module.stageSize (m : Module) : Nat := m.collReg 0x008 0 * 2 ^ 19 - m.resLack m.stageBase m.stageEnd
/-- No staging is left for one more tile of a context. -/
def Module.stageFull (m : Module) (h : Nat) : Bool :=
  (m.ctx h).stageKept ≤ (m.ctx h).stageHeld && m.stageSize ≤ m.stageUsed

/-- Number of planes of a group at this module; 0 where no plan entry is written. -/
def Group.nplanes (g : Group) : Nat := ((g.plans.cells.findSome? fun c => c.2).map (·.nplanes)).getD 0

/-- The local members of a plane that are fenced. -/
def Module.fencedLocals (m : Module) (h p : Nat) : List Nat :=
  ((m.cplan h p).locals.filter fun l => m.portFenced l.port).map (·.member)

/-- A context allocated for a handle; `none` where a context, a tracker entry or staging is unavailable. -/
def Module.allocCtx (m : Module) (h seq : Nat) : Option Module :=
  let g := m.grp (h / 65536)
  let c : Ctx := { used := true, handle := h, group := h / 65536, seq := seq, n := g.n, plans := g.plans,
                   planes := (List.range g.nplanes).map fun p => { on := (g.plans.get p).isSome } }
  if 8192 ≤ m.coll.ctxs.cells.length || m.stageSize < m.stageUsed + c.stageKept then none
  else match m.openEntry { kind := 1, key := h } with
    | none => none
    | some (m, e) =>
      let t := m.collReg 0x024 0
      let m := m.setCtx h { c with entry := e, joinDue := if t == 0 then none else some (m.ticks + ms t) }
      let m := m.collCount 0x100
      some ((List.range g.nplanes).foldl (fun (m : Module) p =>
        match m.fencedLocals h p with
        | k :: _ => m.planeFail h p St.memberFenced 8 k
        | [] => m) m)

/-- Whether a number was refused: remembered in the window and for the 64 numbers that follow it (log entry 70). -/
def Group.isRefused (g : Group) (seq : Nat) : Bool :=
  g.refused.contains seq && ((g.low + 2 ^ 32 - seq) % 2 ^ 32 ≤ 64 || (seq + 2 ^ 32 - g.low) % 2 ^ 32 < 64)

/-- An allocation is refused (R235, R299): notices go to the parent and to the children of each plane. -/
def Module.refuseCtx (m : Module) (h seq : Nat) : Module :=
  let gno := h / 65536
  let g := m.grp gno
  let m := (m.collCount 0x130).collFailed h 0xFF 13 St.noResource
  let m := if m.coll.ctxs.cells.length < 8192 && m.trk.room 1 && m.trk.pick.isSome then m else m.count (hubBlk 3) 0x120
  let m := g.plans.cells.foldl (fun (m : Module) x =>
    match x.2 with
    | none => m
    | some q =>
      let m := if q.isRoot then m else m.planeNotice h x.1 St.noResource q.parent
      q.kids.foldl (fun (m : Module) k => m.planeNotice h x.1 St.noResource k.chip) m) m
  let m := m.setGrp gno { m.grp gno with refused := ((m.grp gno).refused.filter (m.grp gno).isRefused) ++ [seq] }
  m.seqDone gno seq

/-! ### Abort (R301) and fenced members (R296) -/

/-- An abort recorded at a context's tracker entry. -/
def Module.abortCtx (m : Module) (h : Nat) : Module :=
  if !(m.ctx h).used then m
  else m.collEvent fun m =>
    let m := m.updCtx h fun c => { c with aborted := true }
    (List.range (m.ctx h).planes.length).foldl (fun (m : Module) p =>
      if (m.ctx h).used then m.planeFail h p St.aborted 12 else m) m

/-- Whether a member still owes something on a plane, or something is owed to it (R296). -/
def Module.outstanding (m : Module) (h p mem : Nat) : Bool :=
  let c := m.ctx h
  let g := c.geo
  let y := m.plane h p
  let taken (t : Nat) : Bool := y.stepsDone.get t || y.gone.contains (g.chunkOfIn t) ||
    y.steps.any fun s => s.tile == t && s.got.contains mem
  let isIn (r : Nat) : Bool := y.fin.get r || y.gone.contains r || y.rets.any (·.tile == r)
  let owesIn : Bool :=
    if g.reduce then (g.planeChunks p).any fun k => (g.insOf k).any fun t => !taken t
    else if g.op == 3 then (g.planeChunks p).any fun r => r / g.perIn == mem && !isIn r
    else if g.op == 4 then mem == g.root && (g.planeChunks p).any fun r => !isIn r
    else if g.xchg then
      (g.op == 6 && !(declared c.rows mem c.n && declared c.cols mem c.n)) ||
      (y.xsent.filter (·.1 == mem)).eraseDups.length + (y.xwait.filter (·.src == mem)).length < c.owed p mem
    else false
  let owedOut : Bool :=
    if g.reduce || g.gather then
      (g.planeChunks p).any fun k => (g.ressOf k).any fun r =>
        !y.fin.get r && !y.gone.contains k && (m.dstsOf h p r).any (fun d => d.role == 0 && d.id == mem) &&
        !(y.rets.any fun x => x.tile == r && x.dsts.any fun d => d.role == 0 && d.id == mem && d.acked)
    else if g.xchg then ((y.xacked ++ y.xgone).filter (·.1 == mem)).eraseDups.length < c.expected p mem
    else false
  c.sig.isNone || !y.joined.contains mem || owesIn || owedOut

/-- Ports have just been isolated: their members are fenced. -/
def Module.fenceMembers (m : Module) (ports : List Nat) : Module :=
  m.collEvent fun m => m.coll.ctxs.keys.foldl (fun m h =>
    (List.range (m.ctx h).planes.length).foldl (fun m p =>
      ((m.cplan h p).locals.filter fun l => l.port < 256 && ports.contains l.port).foldl (fun m l =>
        if (m.ctx h).used && (m.plane h p).runs && m.outstanding h p l.member then
          m.planeFail h p St.memberFenced 8 l.member
        else m) m) m) m

/-- A tile step is lost, and with it its chunk; `n`: tiles counted in RETAIN_BAD. -/
def Module.stepsLost (m : Module) (h p k n reason : Nat) : Module :=
  let g := (m.ctx h).geo
  let m := (m.collCount 0x1A0 n).updPlane h p fun y =>
    { y with steps := y.steps.filter (fun z => g.chunkOfIn z.tile != k), gone := y.gone ++ [k] }
  m.chunkLoss h p k reason

/-- A switch die is about to be fenced: what its reduction unit and its stacks hold is lost (R293, R461). -/
def Module.fenceColl (m : Module) (d : Nat) : Module :=
  let there (k : Nat) : Bool := m.resUnit k / 2 == d
  m.collEvent fun m => m.coll.ctxs.keys.foldl (fun m h =>
    (List.range (m.ctx h).planes.length).foldl (fun m p =>
      if !(m.ctx h).used || !(m.plane h p).runs || ((m.ctx h).sig.isNone && (m.ctx h).hasLocals) then m
      else
        let g := (m.ctx h).geo
        let bad := ((m.plane h p).steps.filter fun s => (s.admitted && m.stepDie h p s.tile == d) ||
          s.raws.any fun x => x.place.any there).map fun s => g.chunkOfIn s.tile
        let m := bad.eraseDups.foldl (fun (m : Module) k => m.stepsLost h p k (bad.filter (· == k)).length 9) m
        ((m.plane h p).rets.filter fun x => there x.place).foldl (fun m x =>
          if (m.plane h p).runs then m.retBad h p x 9 else m) m) m) m

end Sys2Proof.Machine
end

