-- ==== Sys2Proof/Machine/Vector.lean ====
section
/-!
DEFINITION. The arithmetic of the engines (R346, R350 to R358, R371): scalar functions, MAC, the FP32 and INT32
operations of vector chains, scans, in-tile reductions and conversions, on byte lists and exact values.
-/
namespace Sys2Proof.Machine

/-! ### Scalar functions (R346) -/

/-- A function code of ALU on 64-bit patterns. -/
def aluFn (fn : Nat) (a b : Word64) : Word64 :=
  match fn with
  | 0 => a + b
  | 1 => a - b
  | 2 => a * b
  | 3 => a &&& b
  | 4 => a ||| b
  | 5 => a ^^^ b
  | 6 => a <<< (b.toNat % 64)
  | 7 => a >>> (b.toNat % 64)
  | 8 => a.sshiftRight (b.toNat % 64)
  | 9 => if a.slt b then 1 else 0
  | 10 => if a.ult b then 1 else 0
  | 11 => if a.slt b then a else b
  | 12 => if a.slt b then b else a
  | 13 => BitVec.ofNat 64 (a.toNat * b.toNat / 2 ^ 64)
  | 14 => if b = 0 then BitVec.allOnes 64 else BitVec.ofNat 64 (a.toNat / b.toNat)
  | 15 => if b = 0 then a else BitVec.ofNat 64 (a.toNat % b.toNat)
  | _ => a

/-! ### Exact values -/

/-- An exact value: `none` is NaN, otherwise n / d × 2^e; the flag is the sign of a zero. -/
abbrev Ex := Option (Int × Nat × Int) × Bool

def exNaN : Ex := (none, false)
def exInt (i : Int) : Ex := (some (i, 1, 0), false)
/-- A decoded element as an exact value. -/
def exOf (x : Val) : Ex :=
  match x with
  | .nan => exNaN
  | .fin neg mant e => (some (signed neg mant, 1, e), neg)

/-- The sign of an exact value. -/
def exNeg (x : Ex) : Bool :=
  match x.1 with
  | some (n, _, _) => if n == 0 then x.2 else n < 0
  | none => false

def exZero (x : Ex) : Bool :=
  match x.1 with
  | some (n, _, _) => n == 0
  | none => false

/-- A result encoded to FP32 and read back (R209, R353). -/
def fpRound (x : Option (Int × Nat × Int)) (z : Bool) : Ex × Cnt :=
  let (v, c) := encodeFloat 24 x z
  (exOf (decodeFloat 24 v), c)

/-- The FP32 pattern of a value that is exact in FP32. -/
def exBits (x : Ex) : Nat := (encodeFloat 24 x.1 x.2).1

/-- An FP32 pattern admitted (R201). -/
def fpIn (v : Nat) : Ex × Cnt :=
  let (x, c) := admitVal (decodeFloat 24 v)
  (exOf x, c)

/-- ±MAXF as an exact value. -/
def exMax (neg : Bool) : Ex := exOf (maxF neg)

/-- Sum of two exact values (R353): a zero is +0 unless both addends are −0. -/
def exAdd (a b : Ex) : Ex × Cnt :=
  match a.1, b.1 with
  | some (n, _, e), some (k, _, g) =>
    let e0 := min e g
    fpRound (some (n * (2 ^ (e - e0).toNat : Nat) + k * (2 ^ (g - e0).toNat : Nat), 1, e0))
      (n == 0 && k == 0 && a.2 && b.2)
  | _, _ => (exNaN, {})

/-- The negation of a value. -/
def exMinus (a : Ex) : Ex := (a.1.map fun (n, d, e) => (-n, d, e), if a.1.isSome then !a.2 else false)

def exMul (a b : Ex) : Ex × Cnt :=
  match a.1, b.1 with
  | some (n, _, e), some (k, _, g) => fpRound (some (n * k, 1, e + g)) (exNeg a != exNeg b)
  | _, _ => (exNaN, {})

/-- Quotient, with the special cases of R353. -/
def exDiv (a b : Ex) : Ex × Cnt :=
  match a.1, b.1 with
  | some (n, _, e), some (k, _, g) =>
    if k == 0 then (if n == 0 then (exNaN, oneInv) else (exMax (exNeg a != exNeg b), oneSat))
    else fpRound (some (if k < 0 then -n else n, k.natAbs, e - g)) (exNeg a != exNeg b)
  | _, _ => (exNaN, {})

/-- Integer square root by bits, `fuel` of them. -/
def isqrt (n : Nat) : Nat :=
  (List.range (log2 n / 2 + 1)).foldr (fun b r => if (r + 2 ^ b) * (r + 2 ^ b) ≤ n then r + 2 ^ b else r) 0

/-- Square root: the exact root rounded once; the bits below those kept are held as one sticky bit. -/
def exSqrt (a : Ex) : Ex × Cnt :=
  match a.1 with
  | none => (exNaN, {})
  | some (n, _, e) =>
    if n == 0 then (a, {})
    else if n < 0 then (exNaN, oneInv)
    else
      let k : Nat := if (e % 2 == 0) then 64 else 65
      let v := n.natAbs * 2 ^ k
      let r := isqrt v
      fpRound (some ((2 * r + b2n (r * r != v) : Nat), 1, (e - (k : Nat)) / 2 - 1)) false

/-- TM of R371: RNE(2^(i / 256) × 2^23). -/
def expTab (i : Nat) : Nat :=
  (List.range 24).foldr (fun b m => if (2 * (m + 2 ^ b) - 1) ^ 256 < 2 ^ (i + 24 * 256) then m + 2 ^ b else m) 0

/-- exp2 of an admitted value (R371). -/
def exExp2 (a : Ex) : Ex × Cnt :=
  match a.1 with
  | none => (exNaN, {})
  | some (n, _, e) =>
    let cmp (lim : Int) : Bool := if 0 ≤ e then lim ≤ n * (2 ^ e.toNat : Nat) else lim * (2 ^ (-e).toNat : Nat) ≤ n
    if cmp 128 then (exMax false, oneSat)
    else if !cmp (-126) then (exInt 0, oneFlush)
    else
      let (num, den) : Int × Nat := if 0 ≤ e + 8 then (n * (2 ^ (e + 8).toNat : Nat), 1) else (n, 2 ^ (-(e + 8)).toNat)
      let j := Int.fdiv num den
      let f := rneDiv ((num - j * den) * 2 ^ 32) den
      let (j, f) : Int × Nat := if f == 2 ^ 32 then (j + 1, 0) else (j, f.toNat)
      let i := (j % 256).toNat
      let ex := Int.fdiv j 256
      let g := 2977044472 * f / 2 ^ 24 + 1031764991 * f * f / 2 ^ 64 + 238388332 * f * f * f / 2 ^ 104
      fpRound (some ((expTab i * (2 ^ 48 + g) : Nat), 1, ex - 71)) false

/-- v × 2^o. -/
def exScale (a : Ex) (o : Int) : Ex × Cnt :=
  match a.1 with
  | none => (exNaN, {})
  | some (n, d, e) => fpRound (some (n, d, e + satInt o (-1000) 1000)) a.2

/-- FLOOR (0), CEIL (1), RINT (2); `fz` is the sign of a zero that a nonzero value gives, which the spec leaves open. -/
def exIntegral (k : Nat) (a : Ex) (fz : Bool) : Ex × Cnt :=
  match a.1 with
  | none => (exNaN, {})
  | some (n, _, e) =>
    if n == 0 || 0 ≤ e then (a, {})
    else
      let d : Nat := 2 ^ (-e).toNat
      let r := if k == 0 then Int.fdiv n d else if k == 1 then -(Int.fdiv (-n) d) else rneDiv n d
      fpRound (some (r, 1, 0)) fz

/-- Total order of R211 on values that are not NaN. -/
def exLt (a b : Ex) : Bool := rank32 (exBits a) < rank32 (exBits b)

/-- v < o, v ≤ o, v = o as numbers; false with NaN (R353). -/
def exCmp (k : Nat) (a b : Ex) : Bool :=
  match a.1, b.1 with
  | some (n, _, e), some (m, _, g) =>
    let e0 := min e g
    let x := n * (2 ^ (e - e0).toNat : Nat)
    let y := m * (2 ^ (g - e0).toNat : Nat)
    if k == 0 then x < y else if k == 1 then x ≤ y else x == y
  | _, _ => false

/-- The nearest integer of an exact value; 0 for NaN. -/
def exRne (a : Ex) : Int :=
  match a.1 with
  | none => 0
  | some (n, d, e) => ratRne n d e

/-- An integer held in a range, SAT counted where it saturates. -/
def satCnt (x lo hi : Int) : Int × Cnt := (satInt x lo hi, if x < lo || hi < x then oneSat else {})
def sat32 (x : Int) : Int × Cnt := satCnt x (-(2 ^ 31)) (2 ^ 31 - 1)

/-! ### Vectors (R351, R357) -/

/-- Elements of a vector: a tile by its format, an accumulator 4,096. -/
def vecLen (acc : Bool) (f : Nat) : Nat := if acc then 4096 else perTile f 0

/-- Element `i` of a vector as an exact value, admitted where it is a float; beyond the vector it is 0. -/
def elemIn (f : Nat) (t : Bytes) (n i : Nat) : Ex × Cnt :=
  if n ≤ i then (exInt 0, {})
  else if f < 3 then (exInt (intAt f t i), {})
  else
    let (x, c) := admitVal (floatAt f t i)
    (exOf x, c)

/-- The decoded value of a kept element, which no admission counts. -/
def elemOld (f : Nat) (t : Bytes) (i : Nat) : Ex := if f < 3 then exInt (intAt f t i) else exOf (floatAt f t i)

/-- An exact value put into an integer format. -/
def toInt (f : Nat) (x : Ex) : Int × Cnt :=
  if x.1.isNone then (0, {}) else satCnt (exRne x) (intRange f).1 (intRange f).2

/-- The Breeze block `b` of a vector: exponent place and element count. -/
def brN (f : Nat) : Nat := if f == fB4 then 64 else 32

/-- Elements stored into a vector from element `kd`; `none` keeps an element. Every Breeze block that they lie in is encoded
whole, its kept elements as their old values and without events (R354). -/
def storeElems (f : Nat) (t : Bytes) (n kd : Nat) (l : List (Option Ex)) : Bytes × Cnt :=
  let l := l.take (n - kd)
  if f == fB8 || f == fB4 then
    let bn := brN f
    let b0 := kd / bn
    let b1 := (kd + l.length + bn - 1) / bn
    (List.range (b1 - b0)).foldl (fun (a : Bytes × Cnt) k =>
      let b := b0 + k
      let new (j : Nat) : Option Ex := let i := b * bn + j; if i < kd then none else l.getD (i - kd) none
      let xs := (List.range bn).map fun j => (new j).getD (elemOld f t (b * bn + j))
      let (q, e, c) := encodeBreeze (f == fB4) (xs.map fun x => some x.1) fun j => (new j).isSome
      let by_ := (if f == fB4 then packNibbles (q.map (ofSigned 4)) else q.map fun v => BitVec.ofNat 8 (ofSigned 8 v)) ++
        [BitVec.ofNat 8 e]
      (splice a.1 (33 * b) by_, a.2.add c)) (t, {})
  else
    let old (i : Nat) : Nat :=
      if f == fInt4 then byteAt t (i / 2) / 16 ^ (i % 2) % 16 else if f == fInt8 then byteAt t i
      else if f == fBf16 then leAt t (2 * i) 2 else leAt t (4 * i) 4
    let r := l.zipIdx.map fun (x, i) =>
      match x with
      | none => (old (kd + i), ({} : Cnt))
      | some x =>
        if f == fBf16 then encodeFloat 8 x.1 x.2
        else if f == fFp32 then encodeFloat 24 x.1 x.2
        else
          let (v, c) := toInt f x
          (ofSigned (if f == fInt4 then 4 else if f == fInt8 then 8 else 32) v, c)
    let v := r.map (·.1)
    let by_ := if f == fInt4 then packNibbles v else if f == fInt8 then v.flatMap (leBytes 1)
      else if f == fBf16 then v.flatMap (leBytes 2) else v.flatMap (leBytes 4)
    let o := if f == fInt4 then kd / 2 else if f == fInt8 then kd else if f == fBf16 then 2 * kd else 4 * kd
    (splice t o by_, r.foldl (fun c x => c.add x.2) {})

/-! ### MAC (R350) -/

/-- A dot product of two rows. -/
def dot (n : Nat) (a b : Nat → Int) : Int := (List.range n).foldl (fun s k => s + a k * b k) 0

/-- MAC into an accumulator: its new bytes and counters. -/
def macOp (mode : Nat) (clr : Bool) (g : Nat) (acc ta tb : Bytes) : Bytes × Cnt :=
  if mode < 2 then
    let f := if mode == 0 then fInt8 else fInt4
    let w := if mode == 0 then 32 else 64
    let row (t : Bytes) (r : Nat) : Bytes := slice t (32 * r) 32
    let ra := (List.range 64).map (row ta)
    let rb := (List.range 64).map (row tb)
    let r := ra.zipIdx.flatMap fun (x, i) => rb.zipIdx.map fun (y, j) =>
      let old := if clr then 0 else intAt fInt32 acc (64 * i + j)
      sat32 (old + dot w (intAt f x) (intAt f y))
    (r.flatMap fun x => leBytes 4 (ofSigned 32 x.1), r.foldl (fun c x => c.add x.2) {})
  else
    let f := if mode == 2 then fInt8 else fInt4
    let w := if mode == 2 then 32 else 64
    let blk (t : Bytes) (b : Nat) : Bytes := slice t (33 * b) 33
    let r := (List.range 62).map fun b =>
      let x := blk ta b
      let y := blk tb (b % max g 1)
      if byteAt x 32 == 255 || byteAt y 32 == 255 then ((0 : Int), (-1 : Int), oneInv)
      else (dot w (intAt f x) (intAt f y), ((byteAt x 32 + byteAt y 32 : Nat) : Int), ({} : Cnt))
    let a := splice acc 0 (r.flatMap fun x => leBytes 4 (ofSigned 32 x.1))
    (splice a 256 (r.flatMap fun x => leBytes 4 (ofSigned 32 x.2.1)), r.foldl (fun c x => c.add x.2.2) {})

/-! ### Vector chains (R351 to R354) -/

/-- A stage word. -/
structure Stage where
  sop : Nat := 0
  osel : Nat := 3
  r : Nat := 0
  msk : Nat := 0
  imm : Nat := 0
deriving DecidableEq, Repr, Inhabited

def Stage.of (w : Nat) : Stage :=
  { sop := bits w 31 26, osel := bits w 25 24, r := bits w 23 19, msk := bits w 18 17, imm := bits w 15 0 }

/-- Stages without an operand. -/
def noOperand (sop : Nat) : Bool := sop == 7 || sop == 8 || sop == 9 || sop == 10 || (0x0F ≤ sop && sop ≤ 0x13)

/-- A stage is legal for a running type (`fp`), with its operand selection. -/
def Stage.legal (s : Stage) (fp : Bool) : Bool :=
  s.sop < 0x19 &&
  (if s.sop == 4 || s.sop == 9 || s.sop == 10 || (0x0F ≤ s.sop && s.sop ≤ 0x12) then fp
   else if (0x0C ≤ s.sop && s.sop ≤ 0x0E) || s.sop == 0x13 then !fp else true) &&
  (if noOperand s.sop then s.osel == 3 else s.osel < 3) &&
  !(s.sop == 0x0B && s.osel == 0)

/-- The running type after a stage. -/
def Stage.after (s : Stage) (fp : Bool) : Bool := if s.sop == 0x12 then false else if s.sop == 0x13 then true else fp

/-- A running value: type and exact value. -/
abbrev Run_ := Bool × Ex

/-- A value converted to the running type (R357). -/
def toRun (fp : Bool) (x : Ex) : Ex × Cnt :=
  if fp then fpRound x.1 x.2
  else
    let (v, c) := toInt fInt32 x
    (exInt v, c)

/-- What an element's stage needs besides the running value: the admitted Y element, scalar, mask bit, free sign. -/
structure StageIn where
  y : Ex := exInt 0
  scalar : Nat := 0
  bit : Bool := false
  fz : Bool := false

/-- The operand of a stage in the running type, with the events of a scalar's or immediate's admission; those of the Y element
are counted where it is read (`yEvents`). -/
def Stage.operand (s : Stage) (fp : Bool) (i : StageIn) : Ex × Cnt :=
  if s.sop == 0x0B then
    (exInt (if s.osel == 1 then toSigned 32 i.scalar else toSigned 16 s.imm), {})
  else if s.osel == 0 then ((toRun fp i.y).1, {})
  else if s.osel == 1 then (if fp then fpIn (i.scalar % 2 ^ 32) else (exInt (toSigned 32 i.scalar), {}))
  else if s.osel == 2 then (if fp then fpIn (s.imm * 65536) else (exInt (toSigned 16 s.imm), {}))
  else (exInt 0, {})

/-- An INT32 stage. -/
def intStage (sop : Nat) (v o : Int) (bit : Bool) : Int × Cnt :=
  let pat (f : Nat → Nat → Nat) : Int := toSigned 32 (f (ofSigned 32 v) (ofSigned 32 o))
  let r : Int :=
    match sop with
    | 0x00 => v + o
    | 0x01 => v - o
    | 0x02 => o - v
    | 0x03 => v * o
    | 0x05 => min v o
    | 0x06 => max v o
    | 0x07 => v.natAbs
    | 0x08 => -v
    | 0x0B => if 0 ≤ o then v * (2 ^ (min o 64).toNat : Nat) else rneDiv v (2 ^ (min (-o) 64).toNat)
    | 0x0C => pat (· &&& ·)
    | 0x0D => pat (· ||| ·)
    | 0x0E => pat (· ^^^ ·)
    | 0x17 => if bit then v else o
    | 0x18 => o
    | _ => v
  sat32 r

/-- An FP32 stage. -/
def fpStage (sop : Nat) (v o : Ex) (bit fz : Bool) : Ex × Cnt :=
  match sop with
  | 0x00 => exAdd v o
  | 0x01 => exAdd v (exMinus o)
  | 0x02 => exAdd o (exMinus v)
  | 0x03 => exMul v o
  | 0x04 => exDiv v o
  | 0x05 => if v.1.isNone || o.1.isNone then (exNaN, {}) else (if exLt o v then o else v, {})
  | 0x06 => if v.1.isNone || o.1.isNone then (exNaN, {}) else (if exLt v o then o else v, {})
  | 0x07 => (if exNeg v then exMinus v else v, {})
  | 0x08 => (exMinus v, {})
  | 0x09 => exSqrt v
  | 0x0A => exExp2 v
  | 0x0B => exScale v (exRne o)
  | 0x0F => exIntegral 0 v fz
  | 0x10 => exIntegral 1 v fz
  | 0x11 => exIntegral 2 v fz
  | 0x17 => (if bit then v else o, {})
  | 0x18 => (o, {})
  | _ => (v, {})

/-- One stage: the new running value, its events, and a mask bit it writes. -/
def Stage.run (s : Stage) (v : Run_) (i : StageIn) : Run_ × Cnt × Option Bool :=
  let fp := v.1
  let (o, c) := s.operand fp i
  if s.sop == 0x12 then
    let (x, c2) := toInt fInt32 v.2
    ((false, exInt x), c.add c2, none)
  else if s.sop == 0x13 then
    let (x, c2) := fpRound v.2.1 false
    ((true, x), c.add c2, none)
  else if 0x14 ≤ s.sop && s.sop ≤ 0x16 then (v, c, some (exCmp (s.sop - 0x14) v.2 o))
  else if fp then
    let (x, c2) := fpStage s.sop v.2 o i.bit i.fz
    ((true, x), c.add c2, none)
  else
    let (x, c2) := intStage s.sop (exRne v.2) (exRne o) i.bit
    ((false, exInt x), c.add c2, none)

/-- A vector chain's operands. -/
structure ChainIn where
  x : Bytes := []
  y : Bytes := []
  dst : Bytes := []
  fx : Nat := 0
  fy : Nat := 0
  fd : Nat := 0
  nx : Nat := 0
  ny : Nat := 0
  nd : Nat := 0
  kx : Nat := 0
  kd : Nat := 0
  fp : Bool := false
  men : Bool := false
  sel : Nat := 0
  z : Bool := false
  stages : List Stage := []
  scalars : List Nat := []
  /-- The mask registers as numbers. -/
  masks : List Nat := []
  /-- Free signs of zeros by 8 × element + stage (R353). -/
  fz : Nat → Bool := fun _ => false

/-- The running types in force at the stages whose operand is the Y element. -/
def yTypes (fp : Bool) : List Stage → List Bool
  | [] => []
  | s :: l => (if s.osel == 0 then [fp] else []) ++ yTypes (s.after fp) l

/-- The events of a Y element: it is read once, and so admitted once and converted once to each type (R351, R353). -/
def yEvents (ts : List Bool) (y : Ex × Cnt) : Cnt :=
  ts.eraseDups.foldl (fun (c : Cnt) fp => c.add (toRun fp y.1).2) (if ts.isEmpty then {} else y.2)

/-- One element through the stages: its value, the masks, the events. -/
def chainElem (c : ChainIn) (masks : List Nat) (i : Nat) : Ex × List Nat × Cnt :=
  let (x, c0) := elemIn c.fx c.x c.nx (c.kx + i)
  let (v, c1) := toRun c.fp x
  let y := elemIn c.fy c.y c.ny (c.kx + i)
  let r := (c.stages.zip c.scalars).zipIdx.foldl (fun (a : Run_ × List Nat × Cnt) q =>
    let s := q.1
    let si : StageIn := { y := y.1, scalar := s.2, bit := bitAt (a.2.1.getD s.1.msk 0) (c.kx + i), fz := c.fz (8 * i + q.2) }
    let (v, k, b) := s.1.run a.1 si
    (v, match b with | some b => modAt a.2.1 s.1.msk fun m => setBit m (c.kx + i) b | none => a.2.1, a.2.2.add k))
    ((c.fp, v), masks, (c0.add c1).add (yEvents (yTypes c.fp c.stages) y))
  (r.1.2, r.2.1, r.2.2)

/-- A whole chain: destination bytes, masks, events. -/
def chainRun (c : ChainIn) : Bytes × List Nat × Cnt :=
  let r := (List.range 512).foldl (fun (a : List (Option Ex) × List Nat × Cnt) i =>
    if c.men && !bitAt (c.masks.getD c.sel 0) (c.kx + i) then
      ((if c.z then some (exInt 0) else none) :: a.1, a.2.1, a.2.2)
    else
      let (v, ms, k) := chainElem c a.2.1 i
      (some v :: a.1, ms, a.2.2.add k)) ([], c.masks, {})
  let (b, k) := storeElems c.fd c.dst c.nd c.kd r.1.reverse
  (b, r.2.1, r.2.2.add k)

/-! ### Scans (R355) -/

/-- Identity of a scan: 0 ADD, 1 MAX, 2 MIN. -/
def scanId (fp : Bool) (sop : Nat) : Int :=
  if sop == 0 then 0
  else if fp then (if sop == 1 then 0xFF800000 else 0x7F800000)
  else if sop == 1 then -(2 ^ 31) else 2 ^ 31 - 1

/-- An FP32 pattern of a running extreme as an order key: infinities are the identities' own. -/
def fpMaxBits (mx : Bool) (r x : Nat) : Nat :=
  if (decodeFloat 24 r == .nan) || (decodeFloat 24 x == .nan) then canonNan 24
  else if mx then (if rank32 r < rank32 x then x else r) else (if rank32 x < rank32 r then x else r)

/-- One step of a scan: r op x, on integers held within ±(2^63 − 1), or on FP32 patterns held as integers, under R209. -/
def scanOp (fp : Bool) (sop : Nat) (r x : Int) : Int × Cnt :=
  if fp then
    if sop == 0 then
      let (v, c) := exAdd (exOf (decodeFloat 24 r.toNat)) (exOf (decodeFloat 24 x.toNat))
      ((exBits v : Nat), c)
    else
      let (v, z) := exOf (decodeFloat 24 (fpMaxBits (sop == 1) r.toNat x.toNat))
      let (w, c) := encodeFloat 24 v z
      ((w : Nat), c)
  else satCnt (if sop == 0 then r + x else if sop == 1 then max r x else min r x) (-(2 ^ 63 - 1)) (2 ^ 63 - 1)

/-- A scan's operands. -/
structure ScanIn where
  src : Bytes := []
  dst : Bytes := []
  n : Nat := 512
  fp : Bool := false
  excl : Bool := false
  seg : Bool := false
  men : Bool := false
  mask : Nat := 0
  z : Bool := false
  sop : Nat := 0
  msrc : Bool := false
  carry : Nat := 0

/-- A whole scan: destination bytes, the final running value as 64 bits, events. -/
def scanRun (c : ScanIn) : Bytes × Nat × Cnt :=
  let r0 : Int := if c.fp then (c.carry % 2 ^ 32 : Nat) else toSigned 64 c.carry
  let put (r : Int) : Nat × Cnt :=
    if c.fp then (r.toNat, {})
    else
      let (v, k) := sat32 r
      (ofSigned 32 v, k)
  let s := (List.range c.n).foldl (fun (a : List Nat × Int × Cnt) i =>
    let b := bitAt c.mask i
    let r := if c.seg && b then scanId c.fp c.sop else a.2.1
    let old := leAt c.dst (4 * i) 4
    if !c.seg && c.men && !b then ((if c.z then 0 else old) :: a.1, r, a.2.2)
    else
      let (x, k) : Int × Cnt :=
        if c.msrc then ((b2n b : Nat), {})
        else if c.fp then
          let (x, k) := fpIn (leAt c.src (4 * i) 4)
          ((exBits x : Nat), k)
        else (intAt fInt32 c.src i, {})
      let (r2, k2) := scanOp c.fp c.sop r x
      let (v, k3) := put (if c.excl then r else r2)
      (v :: a.1, r2, ((a.2.2.add k).add k2).add k3)) ([], r0, {})
  (s.1.reverse.flatMap (leBytes 4), if c.fp then s.2.1.toNat else ofSigned 64 s.2.1, s.2.2)

/-! ### In-tile reductions (R356) -/

/-- Identity of an in-tile reduction, as the 64 bits it writes. -/
def redIdentity (rop f : Nat) : Nat :=
  if f < 3 then
    ofSigned 64 (if rop == 1 then (intRange f).1 else if rop == 2 then (intRange f).2
      else if rop == 3 then -1 else 0)
  else if rop == 1 then (if f == fB8 || f == fB4 then 0 else 0xFF800000)
  else if rop == 2 then (if f == fB8 || f == fB4 then 0 else 0x7F800000)
  else 0

/-- RED over the elements that take part: the 64 bits of s[D], presence, events. -/
def redRun (rop f : Nat) (t : Bytes) (idx : List Nat) : Nat × Bool × Cnt :=
  if rop == 6 then (idx.length, !idx.isEmpty, {})
  else if idx.isEmpty then (redIdentity rop f, false, {})
  else if f < 3 then
    let l := idx.map (intAt f t)
    let w := if f == fInt4 then 4 else if f == fInt8 then 8 else 32
    let v : Nat :=
      if rop == 0 then ofSigned 64 (l.foldl (· + ·) 0)
      else if rop == 1 then ofSigned 64 (l.foldl max (l.headD 0))
      else if rop == 2 then ofSigned 64 (l.foldl min (l.headD 0))
      else
        let p := l.map (ofSigned w)
        if rop == 3 then p.foldl (· &&& ·) (2 ^ w - 1) else if rop == 4 then p.foldl (· ||| ·) 0 else p.foldl (· ^^^ ·) 0
    (v, true, {})
  else
    let l := idx.map fun i => admitVal (floatAt f t i)
    let c := l.foldl (fun c x => c.add x.2) {}
    let vs := l.map (·.1)
    let nan := vs.any (· == .nan)
    if rop == 0 then
      let es := vs.filterMap fun x => match x with
        | .fin _ mant e => if mant == 0 then none else some (expOf mant e)
        | .nan => none
      match es with
      | [] => (if nan then canonNan 24 else 0, true, c)
      | e :: r =>
        let a := r.foldl max e
        let q := vs.map fun x => toAnchored x a
        let s := q.foldl (fun s x => s + x.1) (0 : Int)
        let (v, c2) := encodeFloat 24 (if nan then none else some (s, 1, a - 40)) false
        (v, true, (q.foldl (fun c x => c.add x.2) c).add c2)
    else if nan then (canonNan 24, true, c)
    else
      let p := vs.map toFp32
      (p.foldl (fpMaxBits (rop == 1)) (p.headD 0), true, c)

/-! ### Conversion (R357) -/

/-- Element `b` of a block-product accumulator: BP8 (8) or BP4 (9); an exponent of −1 is a NaN already counted. -/
def bpElem (f : Nat) (acc : Bytes) (b : Nat) : Val × Bool :=
  let e := intAt fInt32 acc (64 + b)
  let v := intAt fInt32 acc b
  if e == -1 then (.nan, true) else (.fin (v < 0) v.natAbs (e - (if f == 8 then 266 else 258)), false)

/-- Source element `i` of a conversion, below `n`: a float is admitted for an integer or float destination, and taken exactly
for a Breeze one (*Conversions*), where an infinity, which has no exact value, is held as R201 holds it (log entry 131). -/
def cvtElem (fin fout : Nat) (t : Bytes) (n i : Nat) : Ex × Cnt :=
  if n ≤ i then (exInt 0, {})
  else if fin < 3 then (exInt (intAt fin t i), {})
  else
    let (x, counted) := if 8 ≤ fin then bpElem fin t i else (floatAt fin t i, false)
    let exact : Bool := match x with
      | .nan => counted || fout == fB8 || fout == fB4
      | .fin _ _ e => (fout == fB8 || fout == fB4) && !((fin == fBf16 || fin == fFp32) && e == 128)
    if exact then (exOf x, {})
    else
      let (x, c) := admitVal x
      (exOf x, c)

/-- CVT of `n` elements from `kx` to `kd`: destination bytes and events. -/
def cvtRun (fin fout : Nat) (src dst : Bytes) (nd kx kd n : Nat) (men z : Bool) (mask : Nat) : Bytes × Cnt :=
  let l := (List.range n).map fun i =>
    if men && !bitAt mask (kx + i) then (if z then some (exInt 0) else none, ({} : Cnt))
    else
      let r := cvtElem fin fout src (kx + n) (kx + i)
      (some r.1, r.2)
  let (b, c) := storeElems fout dst nd kd (l.map (·.1))
  (b, (l.foldl (fun (c : Cnt) x => c.add x.2) {}).add c)

end Sys2Proof.Machine
end

