-- ==== Sys2Proof/Machine/Engine.lean ====
section
/-!
DEFINITION. A memory-side engine: its registers (R333), issue and pending accesses (R347), loads, streams and versions
(R340, R348, R349), sending sequences and FENCEs (R395 to R402), and the end of a run (R341, R368, R369, R377, R490).
-/
namespace Sys2Proof.Machine

def Module.eng (m : Module) (e : Nat) : Engine := m.engs.get e
def Module.setEng (m : Module) (e : Nat) (x : Engine) : Module := { m with engs := m.engs.put e x }
def Module.updEng (m : Module) (e : Nat) (f : Engine → Engine) : Module := m.setEng e (f (m.eng e))
def Module.updRun (m : Module) (e : Nat) (f : Run → Run) : Module :=
  m.updEng e fun x => { x with run := x.run.map f }
def Module.runOf (m : Module) (e : Nat) : Run := (m.eng e).run.getD {}

/-! ### Registers (R333) -/

/-- s[k]; s0 reads as 0. -/
def Engine.rd (x : Engine) (k : Nat) : Word64 := if k == 0 then 0 else x.s.getD k 0
/-- s[k] written; a write to s0 is ignored. -/
def Engine.wr (x : Engine) (k : Nat) (v : Word64) : Engine := if k == 0 then x else { x with s := x.s.set k v }
/-- A tile operand: t0 to t5, a0 with 6, a1 with 7. -/
def Engine.vec (x : Engine) (k : Nat) : Bytes :=
  if k < 6 then leBytes 2048 (x.t.getD k 0).toNat else leBytes 16384 (x.a.getD (k - 6) 0).toNat
def Engine.setVec (x : Engine) (k : Nat) (b : Bytes) : Engine :=
  if k < 6 then { x with t := x.t.set k (BitVec.ofNat 16384 (leNat b)) }
  else { x with a := x.a.set (k - 6) (BitVec.ofNat 131072 (leNat b)) }
def Engine.mask (x : Engine) (k : Nat) : Nat := (x.masks.getD k 0).toNat
def Engine.setMask (x : Engine) (k v : Nat) : Engine := { x with masks := x.masks.set k (BitVec.ofNat 4096 v) }
def Engine.addCnt (x : Engine) (c : Cnt) : Engine := { x with cnt := x.cnt.add c }

/-! ### Deficits of a die's partitions (R343) -/

/-- Runs that hold engines of a die, for a partition or all. -/
def Module.running (m : Module) (d : Nat) (part : Option Nat := none) : Nat :=
  ((List.range 16).filter fun i => (m.eng (16 * d + i)).run.any fun r => part.all (· == r.desc.part)).length

def Module.dsp (m : Module) (d : Nat) : Dsp := m.kern.dsps.get d
def Module.setDsp (m : Module) (d : Nat) (x : Dsp) : Module := { m with kern := { m.kern with dsps := m.kern.dsps.put d x } }

/-- The deficits of a die as they stand now: running time is taken off, and a partition without runs has none. -/
def Module.settleDeficit (m : Module) (d : Nat) : Module :=
  let x := m.dsp d
  let el : Int := m.ticks - x.at_
  let has (p : Nat) : Bool := x.queue.any (fun q => q.desc.part == p) || m.running d (some p) != 0
  let parts := (x.deficit.keys ++ ((List.range 16).filterMap fun i => (m.eng (16 * d + i)).run.map (·.desc.part))).eraseDups
  let t := parts.foldl (fun (t : Tab Int) p =>
    t.put p (if has p then t.get p - el * m.running d (some p) else 0)) x.deficit
  m.setDsp d { x with deficit := t, at_ := m.ticks }

/-! ### The end of a run -/

/-- A run begins to end: completion is requested unless an abort came first (R341, R449). A store of the run that fails
after HALT still gives it its status. -/
def Module.endRun (m : Module) (e : Nat) (x : RunEnd) : Module :=
  match (m.eng e).run with
  | none => m
  | some r =>
    if r.ending.any fun z => z.status != St.ok then m
    else
      let m := m.requestDone r.handle
      m.updRun e fun r => { r with ending := some x, wait := none, fence := none }

/-- The run ends with a status other than OK, at the present instruction. -/
def Module.failRun (m : Module) (e status : Nat) (pc : Option Nat := none) : Module :=
  m.endRun e { status := status, pc := pc.getD (m.eng e).pc.toNat }

/-- Audit record of a run (*Audit record*). -/
def Run.audit (r : Run) : Bytes :=
  r.desc.prog ++ r.desc.input ++ beBytes 8 r.desc.launch ++ beBytes 4 r.desc.tag ++ beBytes 1 r.reads.length ++ zeros 3 ++
  r.reads.flatMap fun x => beBytes 4 x.handle ++ beBytes 4 x.version ++ beBytes 4 x.flags ++ zeros 4 ++ padTo 32 x.digest

/-- An audit record sent is added to AUDIT_SUM and AUDIT_COUNT (R490). -/
def Module.auditSent (m : Module) (rec : Bytes) : Module :=
  { m with sec := { m.sec with
      auditSum := beBytes 32 ((beNat m.sec.auditSum + beNat (shake256 rec 32)) % 2 ^ 256)
      auditCount := (m.sec.auditCount + 1) % 2 ^ 64 } }

/-- *Result header*. -/
def resultHead (status len : Nat) (audit committed empty dirty : Bool) (pc engine : Nat) (c : Cnt) (start end_ : Nat) : Bytes :=
  beBytes 2 status ++ beBytes 1 len ++ beBytes 1 (b2n audit + 2 * b2n committed + 4 * b2n empty + 8 * b2n dirty) ++
  beBytes 2 pc ++ beBytes 1 engine ++ zeros 1 ++ beBytes 4 c.sat ++ beBytes 4 c.flush ++ beBytes 4 c.inv ++ zeros 4 ++
  beBytes 8 start ++ beBytes 8 end_ ++ zeros 8

/-- The parts of a result: PART and bytes (R368). -/
def resultParts (head data audit : Bytes) : List (Nat × Bytes) :=
  [(0, head ++ data.take 2000)] ++ (if 2000 < data.length then [(1, data.drop 2000)] else []) ++
  (if audit.isEmpty then [] else [(2, audit)])

/-- A result sent: KERNEL_RESULT packets from a die, or the final reply of KERNEL_RUN by the tracker entry. -/
def Module.sendResult (m : Module) (d : Desc) (handle status die : Nat) (parts : List (Nat × Bytes)) : Module :=
  let m := (parts.filter (·.1 == 2)).foldl (fun m p => m.auditSent p.2) m
  if d.cmd then
    (m.workOver handle status).updEntry handle fun t => { t with parts := parts }
  else
    let die := if m.dieFenced die then none else some die
    let m := parts.zipIdx.foldl (fun (m : Module) x =>
      let last := b2n (x.2 + 1 == parts.length)
      m.originate (Pkt.make (mkHdr 0x31 d.vc d.chip m.chip d.part d.tag (status + x.1.1 * 2 ^ 16 + last * 2 ^ 18)) (pad16 x.1.2)) die) m
    m

/-- The entry of a run whose result is sent, or is not to be sent, closes once no abort waits for it. -/
def Module.closeRun (m : Module) (d : Desc) (handle status : Nat) : Module :=
  if d.cmd then m
  else
    let m := m.workOver handle status
    match m.trk.find handle with
    | some t => if t.aborts.isEmpty then m.closeEntry handle else m
    | none => m

/-- The invalid contribution of a merge's tile: every record invalid (R212, R377). -/
def invalidTile (pl : Bytes) (t : Nat) : Bytes :=
  let r := sgRed pl 1
  let n := min r.ei (sgCount pl - t * r.ei)
  padTo 2048 ((List.range n).flatMap fun _ => leBytes 8 (2 ^ 63) ++ zeros (8 * (r.d + 1)))

/-- The contributions that an ended run owes to the merges that it joined, emitted on its behalf (R377): each is counted once,
whatever its tiles (R388). -/
def Module.proxy (m : Module) (e : Nat) (r : Run) : Module :=
  r.merges.foldl (fun (m : Module) g =>
    let n := ceilDiv (sgCount g.pl) (max (sgRed g.pl 1).ei 1)
    let l := (List.range n).filter fun t => !g.sent.contains t
    l.foldl (fun (m : Module) t =>
      let h := mkHdr 0x11 g.vc m.chip m.chip r.desc.part (g.tag % 65536 * 65536 + g.seq % 65536) 0 (2048 * t)
      m.originate { Pkt.make h (invalidTile g.pl t) with port := some (256 + e) } (some (e / 16)))
      (m.count (swBlk (e / 16) 16) 0xC248 (b2n !l.isEmpty))) m

/-- A run that is ending finishes: HALT commits the objects it has stored to, claims are released, the result is sent,
the entry closes and the engine is free (R319, R341). -/
def Module.finishRun (m : Module) (e : Nat) : Module :=
  let x := m.eng e
  match x.run with
  | none => m
  | some r =>
    match r.ending with
    | none => m
    | some z =>
      let m := m.settleDeficit (e / 16)
      let aborted := ((m.trk.find r.handle).map (·.st)).getD 2 == 4
      let status := if aborted then St.aborted else z.status
      let ok := status == St.ok
      let done := if ok then r.stored.filter fun h => (m.store.find h).isSome else []
      let m := done.foldl (fun (m : Module) h =>
        match m.store.find h with
        | some i => m.setObj i (m.obj i).commit
        | none => m) m
      let m := r.writes.foldl (fun (m : Module) h =>
        match m.store.find h with
        | some i => m.setObj i { m.obj i with claims := (m.obj i).claims.erase e }
        | none => m) m
      let m := if ok then m else m.proxy e r
      let data := if ok then (x.vec 0).take (16 * z.len) else []
      let head := resultHead status (if ok then z.len else 0) r.desc.audit (!done.isEmpty) r.empty r.dirty z.pc e x.cnt r.start m.now
      let b := engBlk e
      let m := if ok then m.count b 0x100 else m.count b 0x108
      let m := m.updEntry r.handle fun t => { t with a := e, b := x.pc.toNat, c := r.tiles }
      let m := m.setEng e { x with run := none, streams := [{}, {}] }
      let m := if z.quiet && ok && !r.desc.cmd then m
        else m.sendResult r.desc r.handle status (e / 16) (resultParts head data (if r.desc.audit then r.audit else []))
      m.closeRun r.desc r.handle status

/-- A run queued when its abort was recorded never starts (R342). -/
def Module.neverRan (m : Module) (d : Desc) (handle status die : Nat) : Module :=
  (m.sendResult d handle status die (resultParts (resultHead status 0 false false false false 0 0xFF {} 0 m.now) [] [])).closeRun
    d handle status

/-! ### Sending sequences (R395 to R397) -/

def Module.dst (m : Module) (c : Nat) : Dst := m.ord.dsts.get c
def Module.setDst (m : Module) (c : Nat) (x : Dst) : Module := { m with ord := { m.ord with dsts := m.ord.dsts.put c x } }

/-- Tags of the module's own FENCEs: those of the module itself, and one for each FENCE instruction. -/
def tagRestart : Nat := 0x100
def tagConfirm : Nat := 0x101
def tagFence (n : Nat) : Nat := 0x1000 + n % 2 ^ 31

/-- A FENCE packet of the module, ordered, at system scope. -/
def Module.sendFence (m : Module) (chip part tag seq : Nat) (die : Option Nat) : Module :=
  let h := ((mkHdr 6 3 chip m.chip part tag 2).setOrdered true).setSeq seq
  m.originate (Pkt.make h []) die

/-- Before its first ordered packet to a chip, the module sends a restart FENCE there (R397). -/
def Module.openDst (m : Module) (chip part die : Nat) : Module :=
  let x := m.dst chip
  if x.asked then m
  else (m.setDst chip { x with asked := true }).sendFence chip part tagRestart 0 (some die)

/-- A destination's state is unknown: a restart FENCE begins its sequence again (R398). -/
def Module.restartDst (m : Module) (chip part die : Nat) : Module :=
  (m.setDst chip { asked := true }).sendFence chip part tagRestart 0 (some die)

/-- The next number of a sending sequence taken, one more packet being unconfirmed. -/
def Module.takeSeq (m : Module) (chip : Nat) : Module × Nat :=
  let x := m.dst chip
  (m.setDst chip { x with next := seqNext x.next, sent := x.sent + 1 }, x.next)

/-- A FENCE that confirms what has been sent to a chip so far. -/
def Module.fenceTo (m : Module) (chip part tag die : Nat) : Module :=
  let (m, s) := m.takeSeq chip
  let x := m.dst chip
  (m.setDst chip { x with out := x.out ++ [(tag, x.sent)] }).sendFence chip part tag s (some die)

/-- Unconfirmed ordered packets to a chip. -/
def Dst.unconf (x : Dst) : Nat := x.sent - x.conf

/-! ### Issue (R347) -/

/-- The engine stalls while the cells of its die are short for its oldest pending EMIT (R131). -/
def Module.short (m : Module) (e : Nat) (r : Run) : Bool :=
  match r.pend.find? (·.kind == 2) with
  | none => false
  | some a =>
    let c := (Pkt.make a.hdr a.bytes).h.cells
    (m.die (e / 16)).freeCells < m.exposure (e / 16) + c || (m.alloc (e / 16) c).isNone

/-- An engine may take its next step: its run is neither ending nor waiting, and it neither stalls nor has its issue withheld
(R43, R131, R460). -/
def Module.canIssue (m : Module) (e : Nat) (r : Run) : Bool :=
  e < 128 && m.working && !m.short e r && r.ending.isNone && r.wait.isNone && r.fence.isNone && !bitAt m.flt.engines e &&
  !m.dieFenced (e / 16) && m.pwr.throttle.getD (e / 16) 0 == 0

/-- The word at an address of a run's program. -/
def Module.wordOf (m : Module) (r : Run) (pc : Nat) : Option Nat :=
  let g := m.kern.progs.get r.slot
  if g.builtin != 0 then none else (g.words[pc]?).map (·.toNat)

/-- Work pending on tile operands or scalar registers that an instruction reads or writes. -/
def Run.busy (r : Run) (tiles scalars : List Nat) : Bool :=
  r.pend.any fun a => (a.kind == 0 && tiles.contains a.reg) || (a.kind == 3 && scalars.contains a.reg)

/-- Fields of *Instructions*. -/
def fD (w : Nat) : Nat := bits w 25 21
def fA (w : Nat) : Nat := bits w 20 16
def fB (w : Nat) : Nat := bits w 15 11
def fT (w : Nat) : Nat := bits w 25 23

/-- Tile operands of an instruction word. -/
def insTiles (w : Nat) : List Nat :=
  match bits w 31 26 with
  | 0x00 => if bits w 7 0 == 0 then [] else [0]
  | 0x12 => [fT w]
  | 0x13 => [fT w]
  | 0x14 => [bits w 20 18]
  | 0x15 => [fT w]
  | 0x16 => [6 + bits w 25 25, bits w 24 22, bits w 21 19]
  | 0x17 => [bits w 22 20, bits w 19 17, bits w 16 14]
  | 0x18 => [bits w 25 23, bits w 22 20]
  | 0x19 => [bits w 20 18]
  | 0x1A => [fT w, bits w 22 20]
  | 0x1E => [bits w 23 21]
  | 0x21 => [fT w]
  | 0x22 => [fT w, bits w 22 20]
  | _ => []

/-- Scalar registers that an instruction word reads or writes. -/
def insScalars (w : Nat) : List Nat :=
  match bits w 31 26 with
  | 0x02 => [fD w, fA w, fB w]
  | 0x03 => [fD w, fA w]
  | 0x04 => [fD w, fA w]
  | 0x05 => [fD w, fA w]
  | 0x06 => [fD w, fA w]
  | 0x07 => [fD w, fA w]
  | 0x08 => [fD w]
  | 0x09 => [fD w, fA w]
  | 0x0A => [fD w, fA w]
  | 0x0B => [fD w, fA w]
  | 0x0C => [fD w, fA w]
  | 0x0E => [fD w]
  | 0x0F => [fD w]
  | 0x10 => [fA w]
  | 0x11 => [fD w, fA w]
  | 0x12 => [fA w, fB w]
  | 0x13 => [fA w, fB w]
  | 0x14 => [fD w, fB w]
  | 0x15 => [fA w, fB w]
  | 0x17 => [bits w 8 4]
  | 0x18 => [bits w 12 8]
  | 0x19 => [fD w, fD w + 1]
  | 0x1A => [bits w 11 7]
  | 0x1C => [fD w]
  | 0x1D => [fA w]
  | 0x20 => [fD w, fA w, fB w]
  | 0x21 => [bits w 22 18, bits w 22 18 + 1, bits w 22 18 + 2]
  | 0x23 => [fA w, fB w]
  | _ => []

/-- The words of a VCHAIN after its header: format word and stages. -/
def Module.chainWords (m : Module) (r : Run) (pc w : Nat) : Nat × List Stage :=
  ((m.wordOf r (pc + 1)).getD 0, (List.range (bits w 25 23 + 1)).map fun i => Stage.of ((m.wordOf r (pc + 2 + i)).getD 0))

/-- Takes of a stream that are pending. -/
def Run.takes (r : Run) (p : Nat) : Nat := (r.pend.filter fun a => a.kind == 0 && a.port == some p).length

/-- An instruction waits for pending work on what it reads or writes (R347); STRM waits for an earlier ACQ too, and for pending
takes of its port. -/
def Module.held (m : Module) (r : Run) (pc w : Nat) : Bool :=
  r.busy (insTiles w) (insScalars w) ||
  (bits w 31 26 == 0x17 && r.busy [] (((m.chainWords r pc w).2.filter (·.osel == 1)).map (·.r))) ||
  (bits w 31 26 == 0x23 && (r.takes (bits w 25 25) != 0 || r.pend.any fun a => a.kind == 3))

/-- An instruction row: it acts where the engine's next instruction has the opcode and waits on no pending work. -/
def Module.issue (m : Module) (e op : Nat) (f : Module → Engine → Run → Nat → Module) : Module :=
  let x := m.eng e
  match x.run with
  | none => m
  | some r =>
    match m.wordOf r x.pc.toNat with
    | none => m
    | some w => if m.canIssue e r && bits w 31 26 == op && !m.held r x.pc.toNat w then f m x r w else m

/-- An instruction retires: the engine's new state, its PC past `n` words. -/
def Module.retireIns (m : Module) (e : Nat) (x : Engine) (n : Nat := 1) : Module :=
  (m.setEng e { x with pc := x.pc + BitVec.ofNat 14 n }).count (engBlk e) 0x110

/-- A branch retires, taken or not. -/
def Module.branch (m : Module) (e : Nat) (x : Engine) (w : Nat) (taken : Bool) : Module :=
  m.retireIns e { x with pc := if taken then x.pc + BitVec.ofInt 14 (toSigned 16 w) - 1 else x.pc }

/-! ### Objects (R339, R340, R348) -/

/-- The object that a run names: its index, or a status (R309, R339). -/
def Module.runObj (m : Module) (r : Run) (handle : Nat) : Nat ⊕ Nat :=
  match m.store.find handle with
  | none => .inr St.badParam
  | some i => if (m.obj i).part == r.desc.part then .inl i else .inr St.denied

/-- An object is in the read set. -/
def Run.named (r : Run) (handle : Nat) : Bool := r.reads.any (·.handle == handle)

/-- An object joins the read set (R340); `none` where it would be the 33rd. -/
def Run.addRead (r : Run) (handle : Nat) : Option Run :=
  if r.named handle then some r
  else if 32 ≤ r.reads.length then none
  else some { r with reads := r.reads ++ [{ handle := handle }] }

/-- The access that named an object records the version that it read, and the content digest of a sealed one (R340). -/
def Module.sawRead (m : Module) (e : Nat) (o : Obj) (ver : Option Nat) : Module :=
  m.updRun e fun r => { r with reads := r.reads.map fun x =>
    if x.handle == o.handle && !x.seen then
      { x with seen := true, version := ver.getD o.version,
               flags := b2n o.sealed_ + 2 * b2n o.dirty + 4 * b2n ver.isSome,
               digest := if o.sealed_ then o.digest else [] }
    else x }

/-- Which copy serves a named version (R348): 0 present, 1 VERSION, 2 VERSION − 1; or a status. -/
def Obj.pick (o : Obj) (ver : Option Nat) : Nat ⊕ Nat :=
  match ver with
  | none => .inl 0
  | some v =>
    let w := if v == o.version then 1 else if (v + 1) % 2 ^ 32 == o.version then 2 else 0
    if w == 0 then .inr St.versionMismatch else if o.serves w then .inl w else .inr St.versionGone

/-- A tile of an object read for a run at its memory controller, after its check (R109): its bytes, or the status with which
the run ends. `first`: whether it is the access that named the object. -/
def Module.readWord (m : Module) (e handle tile : Nat) (ver : Option Nat) (first : Bool := true) : Module × (Bytes ⊕ Nat) :=
  match m.runObj (m.runOf e) handle with
  | .inr st => (m, .inr st)
  | .inl i =>
    let o := m.obj i
    if o.size ≤ tile then (m, .inr St.badParam)
    else match o.pick ver with
      | .inr st => (m, .inr st)
      | .inl w =>
        let k := m.versionKey o tile w
        if m.unitDown (tileUnit k) then (m, .inr St.internal)
        else
          let m := m.check1 handle tile k 1
          if m.isPoisoned k then (m, .inr St.poisoned)
          else (((if first then m.sawRead e o ver else m).warm (o.base + 2048 * tile)).countRead k, .inl (m.tileBytes k))

/-- A tile loaded. -/
def Module.tileIn (m : Module) (e : Nat) : Module :=
  (m.count (engBlk e) 0x128).updRun e fun r => { r with tiles := r.tiles + 1 }

/-- The same as a tile load. -/
def Module.readTile (m : Module) (e handle tile : Nat) (ver : Option Nat) (first : Bool := true) : Module × (Bytes ⊕ Nat) :=
  match m.readWord e handle tile ver first with
  | (m, .inl b) => (m.tileIn e, .inl b)
  | r => r

/-- A tile stored by a run: STT's checks, and the whole-tile write (R348). -/
def Module.storeCheck (m : Module) (r : Run) (handle tile : Nat) : Nat ⊕ Nat :=
  match m.runObj r handle with
  | .inr st => .inr st
  | .inl i =>
    if !r.writes.contains handle || (m.obj i).size ≤ tile then .inr St.badParam
    else if (m.obj i).readOnly then .inr St.sealed_
    else .inl i

/-- The write itself: a status other than OK where the tile cannot take it. -/
def Module.putTile (m : Module) (e handle tile : Nat) (b : Bytes) : Module × Nat :=
  match m.storeCheck (m.runOf e) handle tile with
  | .inr st => (m, st)
  | .inl i =>
    let k := m.present (m.obj i) tile
    if m.unitDown (tileUnit k) then (m, St.internal)
    else if m.isPoisoned k || m.isPoisoned (m.writeCopy (m.obj i) tile) then (m, St.poisoned)
    else
      let m := (m.storeTile i tile 0 b).count (engBlk e) 0x130
      (m.updRun e fun r => { r with stored := if r.stored.contains handle then r.stored else r.stored ++ [handle] }, St.ok)

/-! ### Streams (R349, R402) -/

/-- A store to a tile that the run has issued and that is not performed yet: a stream does not fetch the tile before it (R391),
unless a take of the tile from the stream was issued earlier. -/
def Run.storing (r : Run) (p handle tile : Nat) : Bool :=
  (r.pend.takeWhile fun a => !(a.kind == 0 && a.port == some p && a.handle == handle && a.tile == tile)).any fun a =>
    a.kind == 1 && a.handle == handle && a.tile == tile

/-- A stream fetches ahead, up to 48 tiles: the present data, in order. An error of one symbol is corrected here; any other
stays in the copy until the run takes it (R349). -/
def Module.fill (m : Module) (e p : Nat) : Nat → Module
  | 0 => m
  | n + 1 =>
    let s := (m.eng e).streams.getD p {}
    if s.left == 0 || 48 ≤ s.tiles.length || (m.runOf e).storing p s.handle s.next then m
    else match m.runObj (m.runOf e) s.handle with
      | .inr _ => m
      | .inl i =>
        let o := m.obj i
        if o.size ≤ s.next then m
        else
          let k := m.present o s.next
          let m := if m.store.damaged.get k == 1 then m.check1 s.handle s.next k 1 else m
          let t : STile := { st := if m.unitDown (tileUnit k) then St.internal else if m.isPoisoned k then St.poisoned else St.ok,
                             key := k, hurt := m.store.damaged.get k, bytes := m.tileBytes k }
          let m := (m.warm (o.base + 2048 * s.next)).countRead k
          (m.updEng e fun x => { x with streams := x.streams.set p { s with
              next := s.next + 1, left := s.left - 1, tiles := s.tiles ++ [t] } }).fill e p n

/-- Both streams discard what they fetched and fetch it again. -/
def Module.refetch (m : Module) (e : Nat) : Module :=
  [0, 1].foldl (fun (m : Module) p =>
    let s := (m.eng e).streams.getD p {}
    (m.updEng e fun x => { x with streams := x.streams.set p { s with
        next := s.next - s.tiles.length, left := s.left + s.tiles.length, tiles := [] } }).fill e p 48) m

/-- Both streams fetch what they may. -/
def Module.fillAll (m : Module) (e : Nat) : Module := (m.fill e 0 48).fill e 1 48

/-! ### FENCE (R359, R401) -/

/-- Ordered WRITEs that an engine emitted to its own module and that are not yet applied. -/
def Module.ownWrites (m : Module) (e : Nat) : Bool :=
  let mine (p : Pkt) : Bool := p.port == some (256 + e) && p.h.type == 1 && p.h.ordered
  m.net.pkts.any (fun b => mine b.pkt) || m.net.handed.any mine ||
  (m.src m.chip).parked.any (fun k => mine k.pkt) || (List.range 8).any fun d => (m.die d).sink.any fun x => mine x.2

/-- An abort recorded while the present instruction of a run went on takes effect once it is finished (R342). -/
def Module.abortNow (m : Module) (e : Nat) : Module :=
  if ((m.trk.find (m.runOf e).handle).map (·.st)).getD 0 == 4 then m.failRun e St.aborted else m

/-- A FENCE is over: the engine goes on after it, or executes again the EMIT that performed it. -/
def Module.fenceOver (m : Module) (e : Nat) : Module :=
  let r := m.runOf e
  let kernel := (m.kern.progs.get r.slot).builtin != 0
  let m := m.updRun e fun r => { r with fence := none, asked := false,
                                        phase := if kernel then r.phase + 1 else r.phase,
                                        dests := if r.fence == some 2 then [] else r.dests }
  if r.redo then m else (if kernel then m else m.retireIns e (m.eng e)).abortNow e

/-- No further ordered packet may be sent to a chip: its sequence is not open, or the limit of R395 is reached. -/
def Module.stuck (m : Module) (chip : Nat) : Bool := !(m.dst chip).up || 16384 ≤ (m.dst chip).unconf

/-- A FENCE in progress goes on: at system scope it asks each destination chip, and it ends when nothing is awaited. -/
def Module.fenceStep (m : Module) (e : Nat) : Module :=
  let r := m.runOf e
  match r.fence with
  | none => m
  | some sc =>
    if r.pend.any (fun a => 2 ≤ a.kind || (1 ≤ sc && a.kind == 1)) || (sc == 1 && m.ownWrites e) then m
    else if sc == 2 && !r.asked then
      if r.dests.any m.stuck then r.dests.foldl (fun (m : Module) c => m.openDst c r.desc.part (e / 16)) m
      else
        let tag := tagFence m.ord.fences
        let m := ({ m with ord := { m.ord with fences := m.ord.fences + 1 } } : Module).updRun e fun r =>
          { r with asked := true, acks := r.dests, ftag := tag }
        let m := r.dests.foldl (fun (m : Module) c => m.fenceTo c r.desc.part tag (e / 16)) m
        if r.dests.isEmpty then m.fenceOver e else m
    else if sc == 2 && !r.acks.isEmpty then m
    else m.fenceOver e

/-- A FENCE goes on, and a run that ends finishes once its stores and emits are accepted. -/
def Module.pump (m : Module) (e : Nat) : Module :=
  let m := if (m.runOf e).ending.isSome then m else m.fenceStep e
  let r := m.runOf e
  if r.ending.isNone || r.pend.any fun a => a.kind == 1 || a.kind == 2 then m else m.finishRun e

/-- Every FENCE in progress goes on. -/
def Module.pumpFences (m : Module) : Module :=
  (List.range 128).foldl (fun (m : Module) e => if (m.runOf e).fence.isSome then m.pump e else m) m

/-! ### EMIT (R360) -/

/-- The packet that an EMIT describes: its header before SRC_SEQ, and whether the fields are legal. -/
def Module.emitHdr (m : Module) (r : Run) (h0 h1 h2 : Nat) : Hdr :=
  let type := bits h0 24 17
  let ord := bitAt h0 29 && type == 1
  ((mkHdr type (bits h0 27 25) (bits h0 16 0) m.chip r.desc.part (bits h2 31 0) (bits h2 63 32) (bits h1 46 0)).setMode
    (b2n (bitAt h0 28))).setOrdered ord

/-- Legal EMIT fields: type, VC, length, destination and offset. -/
def emitLegal (h : Hdr) (len : Nat) : Bool :=
  (h.type == 1 || h.type == 0x15 || h.type == 0x10 || h.type == 0x11 || h.type == 0x13 || h.type == 0x14) &&
  h.vc != 0 && Hdr.vcAllowed h.type h.vc && len ≤ 2048 &&
  (if h.type == 0x13 then len == 0 else if h.type == 0x11 then true else 16 ≤ len) &&
  (h.dest != 131071 || h.type == 0x15) &&
  (!(h.type == 1 || h.type == 0x15) || (h.offset % 16 == 0 && h.offset % 2048 + len ≤ 2048))

/-- An EMIT joins the run's pending work. -/
def Module.pushEmit (m : Module) (e : Nat) (h : Hdr) (b : Bytes) : Module :=
  let r := m.runOf e
  let m := if h.ordered then m.openDst h.dest r.desc.part (e / 16) else m
  m.updRun e fun r => { r with
    pend := r.pend ++ [{ kind := 2, pc := (m.eng e).pc.toNat, bytes := b, hdr := h }],
    dests := if h.ordered && !r.dests.contains h.dest then r.dests ++ [h.dest] else r.dests }

/-- What a packet sent to the module's own collective engine says of the merges that the run has joined. -/
def Run.noteMerge (r : Run) (p : Pkt) : Run :=
  if p.h.type == 0x10 then
    (if (sgOp p.pl == 0 || sgOp p.pl == 2) && byteAt p.pl 5 % 16 == 7 then
      { r with merges := r.merges ++ [{ tag := p.h.tag, seq := p.h.tw, vc := p.h.vc, pl := p.pl }] } else r)
  else if p.h.type == 0x11 && bits p.h.tw 19 17 == 0 then
    { r with merges := r.merges.map fun g =>
        if p.h.tag == g.tag % 65536 * 65536 + g.seq % 65536 then { g with sent := g.sent ++ [p.h.offset / 2048] } else g }
  else r

/-- A pending EMIT holds its buffer once its die has the cells, its sequence is open and the limit of R395 allows;
`none` while it waits. -/
def Module.emitNow (m : Module) (e : Nat) (a : Access) : Option Module :=
  let h := a.hdr
  if h.ordered && m.stuck h.dest then none
  else
    let (m, s) := if h.ordered then m.takeSeq h.dest else (m, 0)
    let p := { Pkt.make (h.setSeq s) a.bytes with
      port := some (256 + e), land := if h.type == 0x10 && h.dest == m.chip then some (m.runOf e).landing else none }
    match m.launch (e / 16) { pkt := p } with
    | none => none
    | some m =>
      let m := if h.dest == m.chip then m.updRun e fun r => r.noteMerge p else m
      let m := match p.land with | some o => m.clearLanding p o | none => m
      let x := m.dst h.dest
      some (if h.ordered && 8192 ≤ x.unconf && !(x.out.any fun o => o.1 == tagConfirm) then
        m.fenceTo h.dest h.part tagConfirm (e / 16) else m)

/-! ### Pending accesses (R347, R402) -/

/-- An access that must wait for an earlier one of the run: loads for an earlier ACQ, accesses of one tile in order where
one of them stores, from a stream too, takes of one stream, EMITs. -/
def Access.after (a : Access) (l : List Access) : Bool :=
  let load (b : Access) : Bool := b.kind == 0 || b.kind == 3
  l.any fun b =>
    (load a && b.kind == 3) || (a.kind == 2 && b.kind == 2) ||
    (a.kind == 0 && a.port.isSome && b.kind == 0 && b.port == a.port) ||
    (a.kind != 2 && b.kind != 2 && (a.kind == 1 || b.kind == 1) &&
      a.handle == b.handle && a.tile == b.tile)

/-- A load finishes. -/
def Module.loadDone (m : Module) (e : Nat) (a : Access) : Module :=
  match a.port with
  | some p =>
    let s := (m.eng e).streams.getD p {}
    (match s.tiles with
    | [] => m.failRun e St.badParam (some a.pc)
    | t :: l =>
      let m := if t.hurt != 0 && m.store.damaged.get t.key == t.hurt then m.check1 s.handle (s.next - s.tiles.length) t.key 1 else m
      if t.st != St.ok then m.failRun e t.st (some a.pc)
      else if t.hurt != 0 then m.failRun e St.poisoned (some a.pc)
      else
        let m := m.updEng e fun x => { x with streams := x.streams.set p { s with tiles := l } }
        ((m.updEng e fun x => x.setVec a.reg t.bytes).tileIn e).fill e p 48)
  | none =>
    match m.readTile e a.handle a.tile a.ver a.first with
    | (m, .inr st) => m.failRun e st (some a.pc)
    | (m, .inl b) => m.updEng e fun x => x.setVec a.reg b

/-- An acquire finishes: its word, and at module or system scope both streams are fetched again (R402). -/
def Module.acqDone (m : Module) (e : Nat) (a : Access) : Module :=
  match m.readWord e a.handle a.tile none a.first with
  | (m, .inr st) => m.failRun e st (some a.pc)
  | (m, .inl b) =>
    let m := m.updEng e fun x => x.wr a.reg (BitVec.ofNat 64 (leAt b (8 * a.word) 8))
    if a.scope == 0 then m else m.refetch e

/-- A take from a stream whose next tile waits for a store of the run. -/
def Module.takeHeld (m : Module) (e : Nat) (a : Access) : Bool :=
  a.port.any fun p =>
    let s := (m.eng e).streams.getD p {}
    s.tiles.isEmpty && s.left != 0 && (m.runOf e).storing p s.handle s.next

/-- ENGINE_ACCESS_DONE: the pending access `i` of an engine finishes, unless it must wait. `c`: what has befallen tiles that
it may read. -/
def engineAccessDone (e i : Nat) (c : EccIn) (m : Module) : Module :=
  let r := m.runOf e
  match r.pend[i]? with
  | none => m
  | some a =>
    if !m.working || a.after (r.pend.take i) || m.takeHeld e a then m
    else
      let gone (m : Module) : Module := m.updRun e fun r => { r with pend := r.pend.erase a }
      let above := r.ending.isSome
      let m := (m.strike c).fillAll e
      let m := match a.kind with
        | 0 => if above then gone m else (gone m).loadDone e a
        | 1 =>
          let (m, st) := m.putTile e a.handle a.tile a.bytes
          if st == St.ok then (gone m).fillAll e else (gone m).failRun e st (some a.pc)
        | 2 => (match m.emitNow e a with
          | some m => gone m
          | none => m)
        | _ => if above then gone m else (gone m).acqDone e a
      m.pump e

/-- The engines that an answer to a FENCE of the module's own concerns: the one whose FENCE it answers, or, for a FENCE that only
confirmed what was sent (R395), every one whose run has sent ordered packets there since its last FENCE (log entry 130). -/
def Module.fenceRuns (m : Module) (chip tag : Nat) : List Nat :=
  (List.range 128).filter fun e =>
    let r := m.runOf e
    if tag == tagConfirm then r.ending.isNone && r.dests.contains chip
    else r.fence == some 2 && r.ftag == tag && r.acks.contains chip

/-- FENCE_ACK of one of the module's own FENCEs (R397, R401). A status other than OK ends the runs that it concerns. -/
def fenceAckReceived (p : Pkt) (m : Module) : Module := m.perform p 7 fun m =>
  let c := p.h.src
  let x := m.dst c
  let st := p.h.tw % 65536
  let bad := if st != St.ok then st else fieldBE p.pl 0 2
  if p.h.tag == tagRestart then
    if x.asked && !x.up then
      if st == St.ok then (m.setDst c { x with up := true, next := 1, sent := 0, conf := 0, out := [] }).pumpFences
      else m.sendFence c p.h.part tagRestart 0 none
    else m
  else
    match x.out.find? fun o => o.1 == p.h.tag with
    | none => m
    | some o =>
      let m := m.setDst c { x with out := x.out.erase o, conf := max x.conf o.2 }
      ((m.fenceRuns c p.h.tag).foldl (fun (m : Module) e =>
        let m := if p.h.tag == tagConfirm then m else m.updRun e fun r => { r with acks := r.acks.erase c }
        (if bad != St.ok then m.failRun e bad else m).pump e) m).pumpFences

/-! ### The end by time and by WAITC -/

/-- The destinations that have not answered a run's FENCE, or that keep its FENCE or EMIT waiting. -/
def Module.unanswered (m : Module) (r : Run) : List Nat :=
  ((if r.fence == some 2 then (if r.asked then r.acks else r.dests.filter m.stuck) else []) ++
   (r.pend.filter fun a => a.kind == 2 && a.hdr.ordered && m.stuck a.hdr.dest).map (·.hdr.dest)).eraseDups

/-- RUN_TIME_LIMIT (R341). A destination that has not answered in that time has an unknown state: a restart FENCE goes there
(R398). -/
def runTimeLimit (e : Nat) (m : Module) : Module :=
  match (m.eng e).run with
  | none => m
  | some r =>
    if !m.working || r.ending.isSome then m
    else
      let m := (m.unanswered r).foldl (fun (m : Module) c => m.restartDst c r.desc.part (e / 16)) (m.pass r.due)
      (m.failRun e St.timeout).pump e

/-- WAITC_DONE (R360, R422). -/
def waitcDone (e : Nat) (m : Module) : Module :=
  match (m.runOf e).wait with
  | none => m
  | some t =>
    if !m.working then m
    else
      let m := (m.reach t).updRun e fun r => { r with wait := none }
      m.retireIns e (m.eng e)

/-- A run ends with INTERNAL, its engine isolated or its die fenced (R341, R460, R461). -/
def Module.killRun (m : Module) (e status : Nat) : Module :=
  match (m.eng e).run with
  | none => m
  | some _ =>
    let keep (a : Access) : Bool := (a.kind == 1 || a.kind == 2) && !m.dieFenced (e / 16) && m.pwr.st != 4
    ((m.failRun e status).updRun e fun r => { r with pend := r.pend.filter keep }).pump e

/-- An abort recorded for a run: on an engine it ends, after a FENCE in progress, and queued it never starts (R342). -/
def Module.abortRun (m : Module) (handle : Nat) : Module :=
  match (List.range 128).find? fun e => (m.eng e).run.any fun r => r.handle == handle with
  | some e => if (m.runOf e).fence.isSome || (m.runOf e).redo then m else (m.failRun e St.aborted).pump e
  | none =>
    match (List.range 8).find? fun d => (m.kern.dsps.get d).queue.any (·.handle == handle) with
    | none => m
    | some d =>
      let x := m.kern.dsps.get d
      let m := { m with kern := { m.kern with dsps := m.kern.dsps.put d { x with queue := x.queue.filter (·.handle != handle) } } }
      match x.queue.find? (·.handle == handle) with
      | some q => m.neverRan q.desc handle St.aborted d
      | none => m

/-! ### The meanings -/

/-- FENCE_ACK_RECEIVED (R401). -/
def execFenceAckReceived (p : Pkt) (s : State) : Host.Outcome State Fault Refusal := .next (s.withM (fenceAckReceived p))

/-- RUN_TIME_LIMIT (R341). -/
def execRunTimeLimit (e : Nat) (s : State) : Host.Outcome State Fault Refusal := .next (s.withM (runTimeLimit e))

/-- ENGINE_ACCESS_DONE (R347). -/
def execEngineAccessDone (e : Nat) (idx : Nat) (c : EccIn) (s : State) : Host.Outcome State Fault Refusal := .next (s.withM (engineAccessDone e idx c))

/-- WAITC_DONE (R360). -/
def execWaitcDone (e : Nat) (s : State) : Host.Outcome State Fault Refusal := .next (s.withM (waitcDone e))

end Sys2Proof.Machine
end

