-- ==== Sys2Proof/Machine/EngineRows.lean ====
section
/-!
DEFINITION. The instructions of the engines (R345 to R360). Each row acts on the engine whose next instruction has its
opcode, and stutters where the engine has none, waits, or waits for pending work (R347).
-/
namespace Sys2Proof.Machine

/-! ### Ends -/

/-- HALT (R341). -/
def halt (e : Nat) (m : Module) : Module := m.issue e 0x00 fun m x _ w =>
  ((m.endRun e { status := St.ok, pc := x.pc.toNat, len := bits w 7 0 }).count (engBlk e) 0x110).pump e

/-- TRAP (R341). -/
def trap (e : Nat) (m : Module) : Module := m.issue e 0x01 fun m _ _ w =>
  ((m.failRun e (bits w 15 0)).count (engBlk e) 0x110).pump e

/-! ### Scalar instructions (R345, R346) -/

/-- A scalar instruction that writes s[D] from s[A]. -/
def Module.scalar (m : Module) (e op : Nat) (f : Nat → Word64 → Word64) : Module :=
  m.issue e op fun m x _ w => m.retireIns e (x.wr (fD w) (f w (x.rd (fA w))))

/-- ALU (R346). -/
def alu (e : Nat) (m : Module) : Module := m.issue e 0x02 fun m x _ w =>
  m.retireIns e (x.wr (fD w) (aluFn (bits w 4 0) (x.rd (fA w)) (x.rd (fB w))))

/-- ADDI (R345). -/
def addi (e : Nat) (m : Module) : Module := m.scalar e 0x03 fun w a => a + BitVec.ofInt 64 (toSigned 16 w)
/-- ANDI (R345). -/
def andi (e : Nat) (m : Module) : Module := m.scalar e 0x04 fun w a => a &&& BitVec.ofNat 64 (bits w 15 0)
/-- ORI (R345). -/
def ori (e : Nat) (m : Module) : Module := m.scalar e 0x05 fun w a => a ||| BitVec.ofNat 64 (bits w 15 0)
/-- XORI (R345). -/
def xori (e : Nat) (m : Module) : Module := m.scalar e 0x06 fun w a => a ^^^ BitVec.ofNat 64 (bits w 15 0)
/-- SHI (R345). -/
def shi (e : Nat) (m : Module) : Module := m.scalar e 0x07 fun w a =>
  aluFn (6 + bits w 7 6) a (BitVec.ofNat 64 (bits w 5 0))

/-- LIH (R345). -/
def lih (e : Nat) (m : Module) : Module := m.issue e 0x08 fun m x _ w =>
  let lo := 16 * bits w 17 16
  m.retireIns e (x.wr (fD w) (BitVec.ofNat 64 (setBits (x.rd (fD w)).toNat (lo + 15) lo (bits w 15 0))))

/-- A conditional branch on s[25:21] and s[20:16]. -/
def Module.branchIf (m : Module) (e op : Nat) (f : Word64 → Word64 → Bool) : Module :=
  m.issue e op fun m x _ w => m.branch e x w (f (x.rd (fD w)) (x.rd (fA w)))

/-- BEQ (R345). -/
def beq (e : Nat) (m : Module) : Module := m.branchIf e 0x09 fun a b => a == b
/-- BNE (R345). -/
def bne (e : Nat) (m : Module) : Module := m.branchIf e 0x0A fun a b => a != b
/-- BLT (R345). -/
def blt (e : Nat) (m : Module) : Module := m.branchIf e 0x0B fun a b => a.slt b
/-- BLTU (R345). -/
def bltu (e : Nat) (m : Module) : Module := m.branchIf e 0x0C fun a b => a.ult b

/-- JMP (R345). -/
def jmp (e : Nat) (m : Module) : Module := m.issue e 0x0D fun m x _ w =>
  m.retireIns e { x with pc := BitVec.ofNat 14 (bits w 13 0) - 1 }

/-- LOOP (R345). -/
def loop (e : Nat) (m : Module) : Module := m.issue e 0x0E fun m x _ w =>
  let x := x.wr (fD w) (x.rd (fD w) - 1)
  m.branch e x w (x.rd (fD w) != 0)

/-- RDFTC (R345). -/
def rdftc (e : Nat) (m : Module) : Module := m.issue e 0x0F fun m x _ w =>
  m.retireIns e (x.wr (fD w) (BitVec.ofNat 64 m.now))

/-- WAITC (R345, R360): it retires at once where the count is reached. -/
def waitc (e : Nat) (m : Module) : Module := m.issue e 0x10 fun m x _ w =>
  let t := (x.rd (fA w)).toNat
  if t ≤ m.now then m.retireIns e x else m.updRun e fun r => { r with wait := some t }

/-! ### Objects, tiles and streams (R348, R349) -/

/-- Low word of a register: a handle. -/
def handleOf (v : Word64) : Nat := bits v.toNat 31 0

/-- VERQ (R348). -/
def verq (e : Nat) (m : Module) : Module := m.issue e 0x11 fun m x r w =>
  match m.runObj r (handleOf (x.rd (fA w))) with
  | .inr st => (m.failRun e st).pump e
  | .inl i =>
    let o := m.obj i
    let v := o.version + b2n o.dirty * 2 ^ 32 + b2n o.prevHeld * 2 ^ 33 + b2n o.sealed_ * 2 ^ 34
    m.retireIns e (x.wr (fD w) (BitVec.ofNat 64 v))

/-- The checks of a load that names an object and a tile, with the read set (R339, R340). -/
def Module.nameRead (m : Module) (r : Run) (handle tile : Nat) : Run ⊕ Nat :=
  match m.runObj r handle with
  | .inr st => .inr st
  | .inl i =>
    if (m.obj i).size ≤ tile then .inr St.badParam
    else match r.addRead handle with
      | none => .inr St.noResource
      | some r => .inl r

/-- An access joins the run's pending work, and the instruction retires. -/
def Module.pushAcc (m : Module) (e : Nat) (r : Run) (a : Access) : Module :=
  let x := m.eng e
  m.retireIns e { x with run := some { r with pend := r.pend ++ [{ a with pc := x.pc.toNat }] } }

/-- LDT (R348, R349). -/
def ldt (e : Nat) (m : Module) : Module := m.issue e 0x12 fun m x r w =>
  if bitAt w 22 then
    let p := bits w 21 21
    let s := x.streams.getD p {}
    if s.tiles.length + s.left ≤ r.takes p then (m.failRun e St.badParam).pump e
    else m.pushAcc e r { kind := 0, reg := fT w, port := some p, handle := s.handle,
                         tile := s.next + r.takes p - s.tiles.length }
  else
    let v := x.rd (fA w)
    let tile := (x.rd (fB w)).toNat
    let known := r.named (handleOf v)
    match m.nameRead r (handleOf v) tile with
    | .inr st => (m.failRun e st).pump e
    | .inl r =>
      m.pushAcc e r { kind := 0, first := !known, reg := fT w, handle := handleOf v, tile := tile,
                      ver := if bits w 10 9 == 1 then some (bits v.toNat 63 32) else none }

/-- STT (R348): its buffer is read at issue. -/
def stt (e : Nat) (m : Module) : Module := m.issue e 0x13 fun m x r w =>
  let h := handleOf (x.rd (fA w))
  let tile := (x.rd (fB w)).toNat
  match m.storeCheck r h tile with
  | .inr st => (m.failRun e st).pump e
  | .inl _ => m.pushAcc e r { kind := 1, handle := h, tile := tile, bytes := x.vec (fT w) }

/-- STRM (R349). -/
def strm (e : Nat) (m : Module) : Module := m.issue e 0x23 fun m x r w =>
  let p := bits w 25 25
  let h := handleOf (x.rd (fA w))
  let v := (x.rd (fB w)).toNat
  let n := bits v 63 32
  let known := r.named h
  let named : Run ⊕ Nat := match m.runObj r h with
    | .inr st => .inr st
    | .inl i =>
      if n != 0 && (m.obj i).size < bits v 31 0 + n then .inr St.badParam
      else match r.addRead h with
        | none => .inr St.noResource
        | some r => .inl r
  match named with
  | .inr st => (m.failRun e st).pump e
  | .inl r =>
    let m := m.retireIns e { x with run := some r, streams := x.streams.set p { handle := h, next := bits v 31 0, left := n } }
    let m := match m.runObj r h with
      | .inl i => if known then m else m.sawRead e (m.obj i) none
      | .inr _ => m
    m.fill e p 48

/-- MOVTS (R345). -/
def movts (e : Nat) (m : Module) : Module :=
  m.issue e 0x14 fun m x _ w =>
    let t := bits w 20 18
    let k := (x.rd (fB w)).toNat % (if t < 6 then 256 else 2048)
    m.retireIns e (x.wr (fD w) (BitVec.ofNat 64 (leAt (x.vec t) (8 * k) 8)))

/-- MOVST (R345). -/
def movst (e : Nat) (m : Module) : Module := m.issue e 0x15 fun m x _ w =>
  let t := fT w
  let k := (x.rd (fB w)).toNat % (if t < 6 then 256 else 2048)
  m.retireIns e (x.setVec t (splice (x.vec t) (8 * k) (leBytes 8 (x.rd (fA w)).toNat)))

/-! ### Arithmetic (R350 to R357) -/

/-- Vector handshakes of an instruction over `n` elements (R361). -/
def Module.vecHs (m : Module) (e n : Nat) : Module := m.count (engBlk e) 0x120 (ceilDiv n 256)

/-- MAC (R350). -/
def mac (e : Nat) (m : Module) : Module :=
  m.issue e 0x16 fun m x _ w =>
    let k := 6 + bits w 25 25
    let mode := bits w 18 17
    let (b, c) := macOp mode (bitAt w 16) (bits w 15 10) (x.vec k) (x.vec (bits w 24 22)) (x.vec (bits w 21 19))
    (m.retireIns e ((x.setVec k b).addCnt c)).count (engBlk e) 0x118 (if mode < 2 then 64 else 1)

/-- kx and kd of a vector instruction. -/
def kxOf (v : Word64) : Nat := bits v.toNat 15 0
def kdOf (v : Word64) : Nat := bits v.toNat 31 16

/-- VCHAIN (R351 to R354). -/
def vchain (e : Nat) (m : Module) : Module :=
  m.issue e 0x17 fun m x r w =>
    let (fw, st) := m.chainWords r x.pc.toNat w
    let (a, b, d) := (bits w 22 20, bits w 19 17, bits w 16 14)
    let (fx, fy, fd) := (bits fw 31 28, bits fw 27 24, bits fw 23 20)
    let k := x.rd (bits w 8 4)
    let nx := vecLen (6 ≤ a) fx
    let ny := vecLen (6 ≤ b) fy
    let nd := vecLen (6 ≤ d) fd
    let useY := st.any fun s => s.osel == 0
    if kxOf k % 512 != 0 || kdOf k % 512 != 0 || nx ≤ kxOf k || nd ≤ kdOf k || (useY && ny ≤ kxOf k) then
      (m.failRun e St.badParam).pump e
    else
      let f := m.fresh
      let (by_, ms, c) := chainRun
        { x := x.vec a, y := x.vec b, dst := x.vec d, fx := fx, fy := fy, fd := fd, nx := nx, ny := ny, nd := nd,
          kx := kxOf k, kd := kdOf k, fp := bitAt w 9, men := bitAt w 13, sel := bits w 12 11, z := bitAt w 10,
          stages := st, scalars := st.map (fun s => (x.rd s.r).toNat), masks := (List.range 4).map x.mask,
          fz := fun i => Config.freeNat (f + i) % 2 == 1 }
      let x := ms.zipIdx.foldl (fun (x : Engine) q => x.setMask q.2 q.1) (x.setVec d by_)
      let free := st.any fun s => 0x0F ≤ s.sop && s.sop ≤ 0x11
      let m := { m with fresh := if free then f + 4096 else f }
      (m.retireIns e (x.addCnt c) (st.length + 2)).count (engBlk e) 0x120 (2 * st.length)

/-- SCAN (R355). -/
def scan (e : Nat) (m : Module) : Module :=
  m.issue e 0x18 fun m x _ w =>
    let d := bits w 25 23
    let n := if 6 ≤ d then 4096 else 512
    let c := bits w 12 8
    let (b, r, k) := scanRun
      { src := x.vec (bits w 22 20), dst := x.vec d, n := n, fp := bitAt w 19, excl := bitAt w 18, seg := bitAt w 17,
        men := bitAt w 16, mask := x.mask (bits w 15 14), z := bitAt w 13, sop := bits w 7 6, msrc := bitAt w 5,
        carry := (x.rd c).toNat }
    (m.retireIns e (((x.setVec d b).wr c (BitVec.ofNat 64 r)).addCnt k)).vecHs e n

/-- RED (R356). -/
def red (e : Nat) (m : Module) : Module :=
  m.issue e 0x19 fun m x _ w =>
    let f := bits w 17 14
    let n := vecLen (6 ≤ bits w 20 18) f
    let k := x.mask (bits w 9 8)
    let (v, pres, c) := redRun (bits w 13 11) f (x.vec (bits w 20 18))
      ((List.range n).filter fun i => !bitAt w 10 || bitAt k i)
    (m.retireIns e (((x.wr (fD w) (BitVec.ofNat 64 v)).wr (fD w + 1) (BitVec.ofNat 64 (b2n pres))).addCnt c)).vecHs e n

/-- Elements of a CVT source: BP formats hold 62. -/
def cvtLen (acc : Bool) (f : Nat) : Nat := if 8 ≤ f then 62 else vecLen acc f

/-- CVT (R357). -/
def cvt (e : Nat) (m : Module) : Module :=
  m.issue e 0x1A fun m x _ w =>
    let (d, s) := (fT w, bits w 22 20)
    let (fi, fo) := (bits w 19 16, bits w 15 12)
    let k := x.rd (bits w 11 7)
    let ni := cvtLen (6 ≤ s) fi
    let no := cvtLen (6 ≤ d) fo
    if kxOf k % 64 != 0 || kdOf k % 64 != 0 || ni ≤ kxOf k || no ≤ kdOf k then (m.failRun e St.badParam).pump e
    else
      let n := min (ni - kxOf k) (no - kdOf k)
      let (b, c) := cvtRun fi fo (x.vec s) (x.vec d) no (kxOf k) (kdOf k) n (bitAt w 6) (bitAt w 3) (x.mask (bits w 5 4))
      (m.retireIns e ((x.setVec d b).addCnt c)).vecHs e n

/-! ### Masks (R345, R358) -/

/-- MASKOP (R358). -/
def maskop (e : Nat) (m : Module) : Module := m.issue e 0x1B fun m x _ w =>
  let a := x.masks.getD (bits w 23 22) 0
  let b := x.masks.getD (bits w 21 20) 0
  let v : BitVec 4096 := match bits w 19 17 with
    | 0 => a &&& b
    | 1 => a ||| b
    | 2 => a ^^^ b
    | 3 => a &&& ~~~b
    | 4 => ~~~a
    | 5 => BitVec.allOnes 4096
    | _ => 0
  m.retireIns e { x with masks := x.masks.set (bits w 25 24) v }

/-- MPOP (R345). -/
def mpop (e : Nat) (m : Module) : Module := m.issue e 0x1C fun m x _ w =>
  m.retireIns e (x.wr (fD w) (BitVec.ofNat 64 (popcount (x.mask (bits w 20 19)) 4096)))

/-- MRANGE (R345). -/
def mrange (e : Nat) (m : Module) : Module := m.issue e 0x1D fun m x _ w =>
  m.retireIns e (x.setMask (bits w 25 24) (2 ^ min (x.rd (fA w)).toNat 4096 - 1))

/-- MOVM (R358). -/
def movm (e : Nat) (m : Module) : Module := m.issue e 0x1E fun m x _ w =>
  let t := bits w 23 21
  let k := bits w 25 24
  let o := 512 * bits w 19 18
  m.retireIns e (if bitAt w 20 then x.setVec t (splice (x.vec t) o (leBytes 512 (x.mask k)))
    else x.setMask k (leNat (slice (x.vec t) o 512)))

/-! ### Ordering and emission (R359, R360, R401, R402) -/

/-- FENCE_INSTR (R359, R401). -/
def fenceInstr (e : Nat) (m : Module) : Module := m.issue e 0x1F fun m _ _ w =>
  (m.updRun e fun r => { r with fence := some (bits w 25 24) }).pump e

/-- ACQ (R359, R402). -/
def acq (e : Nat) (m : Module) : Module := m.issue e 0x20 fun m x r w =>
  let h := handleOf (x.rd (fA w))
  let v := (x.rd (fB w)).toNat
  let known := r.named h
  match m.nameRead r h (bits v 39 8) with
  | .inr st => (m.failRun e st).pump e
  | .inl r => m.pushAcc e r { kind := 3, first := !known, reg := fD w, handle := h, tile := bits v 39 8, word := bits v 7 0, scope := bits w 10 9 }

/-- EMIT (R360): its buffer is read at issue; one to a 65th destination first performs a system-scope FENCE (R401). -/
def emit (e : Nat) (m : Module) : Module :=
  m.issue e 0x21 fun m x r w =>
    let k := bits w 22 18
    let len := 16 * bits w 17 10
    let h := m.emitHdr r (x.rd k).toNat (x.rd (k + 1)).toNat (x.rd (k + 2)).toNat
    if !emitLegal h len then (m.failRun e St.badParam).pump e
    else if h.ordered && !r.dests.contains h.dest && 64 ≤ r.dests.length then
      (m.updRun e fun r => { r with fence := some 2, redo := true }).pump e
    else
      let m := m.pushEmit e h ((x.vec (fT w)).take len)
      let m := m.retireIns e (m.eng e)
      if r.redo then ((m.updRun e fun r => { r with redo := false }).abortNow e).pump e else m

/-- TCOPY (R345). -/
def tcopy (e : Nat) (m : Module) : Module := m.issue e 0x22 fun m x _ w =>
  let d := fT w
  let n := if d < 6 then 2048 else 16384
  (m.retireIns e (x.setVec d (if bitAt w 19 then zeros n else x.vec (bits w 22 20)))).vecHs e (n / 4)

/-! ### The meanings -/

/-- HALT (R341). -/
def execHalt (e : Nat) (s : State) : Host.Outcome State Fault Refusal := .next (s.withM (halt e))

/-- TRAP (R341). -/
def execTrap (e : Nat) (s : State) : Host.Outcome State Fault Refusal := .next (s.withM (trap e))

/-- ALU (R346). -/
def execAlu (e : Nat) (s : State) : Host.Outcome State Fault Refusal := .next (s.withM (alu e))

/-- ADDI (R345). -/
def execAddi (e : Nat) (s : State) : Host.Outcome State Fault Refusal := .next (s.withM (addi e))

/-- ANDI (R345). -/
def execAndi (e : Nat) (s : State) : Host.Outcome State Fault Refusal := .next (s.withM (andi e))

/-- ORI (R345). -/
def execOri (e : Nat) (s : State) : Host.Outcome State Fault Refusal := .next (s.withM (ori e))

/-- XORI (R345). -/
def execXori (e : Nat) (s : State) : Host.Outcome State Fault Refusal := .next (s.withM (xori e))

/-- SHI (R345). -/
def execShi (e : Nat) (s : State) : Host.Outcome State Fault Refusal := .next (s.withM (shi e))

/-- LIH (R345). -/
def execLih (e : Nat) (s : State) : Host.Outcome State Fault Refusal := .next (s.withM (lih e))

/-- BEQ (R345). -/
def execBeq (e : Nat) (s : State) : Host.Outcome State Fault Refusal := .next (s.withM (beq e))

/-- BNE (R345). -/
def execBne (e : Nat) (s : State) : Host.Outcome State Fault Refusal := .next (s.withM (bne e))

/-- BLT (R345). -/
def execBlt (e : Nat) (s : State) : Host.Outcome State Fault Refusal := .next (s.withM (blt e))

/-- BLTU (R345). -/
def execBltu (e : Nat) (s : State) : Host.Outcome State Fault Refusal := .next (s.withM (bltu e))

/-- JMP (R345). -/
def execJmp (e : Nat) (s : State) : Host.Outcome State Fault Refusal := .next (s.withM (jmp e))

/-- LOOP (R345). -/
def execLoop (e : Nat) (s : State) : Host.Outcome State Fault Refusal := .next (s.withM (loop e))

/-- RDFTC (R345). -/
def execRdftc (e : Nat) (s : State) : Host.Outcome State Fault Refusal := .next (s.withM (rdftc e))

/-- WAITC (R360). -/
def execWaitc (e : Nat) (s : State) : Host.Outcome State Fault Refusal := .next (s.withM (waitc e))

/-- VERQ (R348). -/
def execVerq (e : Nat) (s : State) : Host.Outcome State Fault Refusal := .next (s.withM (verq e))

/-- LDT (R348). -/
def execLdt (e : Nat) (s : State) : Host.Outcome State Fault Refusal := .next (s.withM (ldt e))

/-- STT (R348). -/
def execStt (e : Nat) (s : State) : Host.Outcome State Fault Refusal := .next (s.withM (stt e))

/-- MOVTS (R345). -/
def execMovts (e : Nat) (s : State) : Host.Outcome State Fault Refusal := .next (s.withM (movts e))

/-- MOVST (R345). -/
def execMovst (e : Nat) (s : State) : Host.Outcome State Fault Refusal := .next (s.withM (movst e))

/-- MAC (R350). -/
def execMac (e : Nat) (s : State) : Host.Outcome State Fault Refusal := .next (s.withM (mac e))

/-- VCHAIN (R352). -/
def execVchain (e : Nat) (s : State) : Host.Outcome State Fault Refusal := .next (s.withM (vchain e))

/-- SCAN (R355). -/
def execScan (e : Nat) (s : State) : Host.Outcome State Fault Refusal := .next (s.withM (scan e))

/-- RED (R356). -/
def execRed (e : Nat) (s : State) : Host.Outcome State Fault Refusal := .next (s.withM (red e))

/-- CVT (R357). -/
def execCvt (e : Nat) (s : State) : Host.Outcome State Fault Refusal := .next (s.withM (cvt e))

/-- MASKOP (R358). -/
def execMaskop (e : Nat) (s : State) : Host.Outcome State Fault Refusal := .next (s.withM (maskop e))

/-- MPOP (R345). -/
def execMpop (e : Nat) (s : State) : Host.Outcome State Fault Refusal := .next (s.withM (mpop e))

/-- MRANGE (R345). -/
def execMrange (e : Nat) (s : State) : Host.Outcome State Fault Refusal := .next (s.withM (mrange e))

/-- MOVM (R358). -/
def execMovm (e : Nat) (s : State) : Host.Outcome State Fault Refusal := .next (s.withM (movm e))

/-- FENCE_INSTR (R359). -/
def execFenceInstr (e : Nat) (s : State) : Host.Outcome State Fault Refusal := .next (s.withM (fenceInstr e))

/-- ACQ (R402). -/
def execAcq (e : Nat) (s : State) : Host.Outcome State Fault Refusal := .next (s.withM (acq e))

/-- EMIT (R360). -/
def execEmit (e : Nat) (s : State) : Host.Outcome State Fault Refusal := .next (s.withM (emit e))

/-- TCOPY (R345). -/
def execTcopy (e : Nat) (s : State) : Host.Outcome State Fault Refusal := .next (s.withM (tcopy e))

/-- STRM (R349). -/
def execStrm (e : Nat) (s : State) : Host.Outcome State Fault Refusal := .next (s.withM (strm e))

end Sys2Proof.Machine
end

