-- ==== Sys2Proof/Machine/Programs.lean ====
section
/-!
DEFINITION. Programs (R335 to R337, R364), descriptors and their checks (R338, R344, R365, R366), and the dispatcher of
a die (R343).
-/
namespace Sys2Proof.Machine

/-! ### The static check of an image (R336) -/

/-- Bits of an instruction word that hold fields, by opcode; the others are reserved. -/
def usedBits (op : Nat) : Nat :=
  let r (hi lo : Nat) : Nat := 2 ^ (hi + 1) - 2 ^ lo
  r 31 26 + (match op with
    | 0x00 => r 7 0
    | 0x01 => r 15 0
    | 0x02 => r 25 11 + r 4 0
    | 0x03 => r 25 0
    | 0x04 => r 25 0
    | 0x05 => r 25 0
    | 0x06 => r 25 0
    | 0x07 => r 25 16 + r 7 0
    | 0x08 => r 25 21 + r 17 0
    | 0x09 => r 25 0
    | 0x0A => r 25 0
    | 0x0B => r 25 0
    | 0x0C => r 25 0
    | 0x0D => r 13 0
    | 0x0E => r 25 21 + r 15 0
    | 0x0F => r 25 21
    | 0x10 => r 20 16
    | 0x11 => r 25 16
    | 0x12 => r 25 9
    | 0x13 => r 25 23 + r 20 11
    | 0x14 => r 25 18 + r 15 11
    | 0x15 => r 25 23 + r 20 11
    | 0x16 => r 25 10
    | 0x17 => r 25 4
    | 0x18 => r 25 5
    | 0x19 => r 25 8
    | 0x1A => r 25 3
    | 0x1B => r 25 17
    | 0x1C => r 25 19
    | 0x1D => r 25 24 + r 20 16
    | 0x1E => r 25 18
    | 0x1F => r 25 24
    | 0x20 => r 25 9
    | 0x21 => r 25 10
    | 0x22 => r 25 19
    | 0x23 => r 25 25 + r 20 11
    | _ => 0)

/-- Status codes that a TRAP may carry (R336, R441). -/
def trapStatus (s : Nat) : Bool :=
  [0x10, 0x11, 0x12, 0x13, 0x14, 0x15, 0x20, 0x21, 0x22, 0x23, 0x24, 0x25, 0x30, 0x31, 0x32, 0x33, 0x40, 0x41, 0xFF].contains s

/-- A vector's format: 0 to 6 for a tile buffer, INT32 or FP32 for an accumulator. -/
def vecFmt (t f : Nat) : Bool := if t < 6 then f < 7 else f == 2 || f == 4

/-- Whether an instruction word other than VCHAIN is legal. -/
def wordLegal (w : Nat) : Bool :=
  let op := bits w 31 26
  op < 0x24 && (w &&& usedBits op) == w &&
  (match op with
    | 0x00 => bits w 7 0 ≤ 128
    | 0x01 => trapStatus (bits w 15 0)
    | 0x02 => bits w 4 0 < 16
    | 0x07 => bits w 7 6 < 3
    | 0x12 => fT w < 6 && bits w 10 9 < 2 && (if bitAt w 22 then fA w == 0 && fB w == 0 && bits w 10 9 == 0 else true)
    | 0x13 => fT w < 6
    | 0x16 => bits w 24 22 < 6 && bits w 21 19 < 6 &&
        (if bits w 18 17 < 2 then bits w 15 10 == 0 else 1 ≤ bits w 15 10 && bits w 15 10 ≤ 62)
    | 0x18 => (fT w < 6) == (bits w 22 20 < 6) && bits w 7 6 < 3 && !(bitAt w 5 && bitAt w 19)
    | 0x19 => 1 ≤ fD w && fD w ≤ 30 && bits w 13 11 < 7 && vecFmt (bits w 20 18) (bits w 17 14) &&
        !(3 ≤ bits w 13 11 && bits w 13 11 ≤ 5 && 3 ≤ bits w 17 14)
    | 0x1A => vecFmt (fT w) (bits w 15 12) &&
        (vecFmt (bits w 22 20) (bits w 19 16) || (6 ≤ bits w 22 20 && (bits w 19 16 == 8 || bits w 19 16 == 9)))
    | 0x1B => bits w 19 17 < 7
    | 0x1E => bits w 23 21 < 6
    | 0x1F => bits w 25 24 < 3
    | 0x20 => bits w 10 9 < 3
    | 0x21 => fT w < 6 && bits w 22 18 ≤ 29
    | 0x22 => (fT w < 6) == (bits w 22 20 < 6) && (!bitAt w 19 || fT w == bits w 22 20)
    | _ => true)

/-- Whether a VCHAIN at the head of some words is legal in itself: header, format word and stages. -/
def chainLegal (l : List Nat) : Bool :=
  match l with
  | h :: f :: st =>
    let n := bits h 25 23 + 1
    let ss := (st.take n).map Stage.of
    (h &&& usedBits 0x17) == h && bits f 19 0 == 0 && vecFmt (bits h 22 20) (bits f 31 28) && bits f 27 24 < 7 &&
    vecFmt (bits h 16 14) (bits f 23 20) && ss.length == n && (st.take n).all (fun w => !bitAt w 16) &&
    (vecFmt (bits h 19 17) (bits f 27 24) || !ss.any fun s => s.osel == 0) &&
    (ss.foldl (fun (a : Bool × Bool) s => (a.1 && s.legal a.2, s.after a.2)) (true, bitAt h 9)).1
  | _ => false

/-- The addresses of the instructions of an image; `none` where a word or a VCHAIN is illegal (`fuel` bounds the words). -/
def instrAddrs : Nat → Nat → List Nat → Option (List Nat)
  | 0, _, _ => some []
  | _ + 1, _, [] => some []
  | fuel + 1, at_, w :: l =>
    if bits w 31 26 == 0x17 then
      if chainLegal (w :: l) then
        let n := bits w 25 23 + 2
        (instrAddrs fuel (at_ + n + 1) (l.drop n)).map (at_ :: ·)
      else none
    else if wordLegal w then (instrAddrs fuel (at_ + 1) l).map (at_ :: ·)
    else none

/-- The target of a branch at an address. -/
def target (at_ w : Nat) : Option Int :=
  let op := bits w 31 26
  if op == 0x0D then some (bits w 13 0 : Nat)
  else if (0x09 ≤ op && op ≤ 0x0C) || op == 0x0E then some ((at_ : Int) + toSigned 16 w)
  else none

/-- The check of a whole image (R336). -/
def imageLegal (ws : List Nat) : Bool :=
  match instrAddrs ws.length 0 ws with
  | none => false
  | some l =>
    let ok := l.map fun (a : Nat) => (a : Int)
    l.all fun a => match target a (ws.getD a 0) with
      | none => true
      | some t => ok.contains t

/-! ### Resident programs (R335, R337, R364) -/

/-- A reserved digest, with its kernel code. -/
def builtinCode (d : Bytes) : Option Nat :=
  let c := byteAt d 31
  if allZero (d.take 31) && 1 ≤ c && c ≤ 7 then some c else none
/-- The reserved form of a digest. -/
def reservedDigest (d : Bytes) : Bool := allZero (d.take 31)

/-- The slot of a resident program. -/
def Kern.find (k : Kern) (d : Bytes) : Option Nat := (k.progs.cells.find? fun c => c.2.used && c.2.digest == d).map (·.1)
/-- Programs and words held; the built-in kernels take 12,288 words. -/
def Kern.count (k : Kern) : Nat := k.progs.cells.length
def Kern.words (k : Kern) : Nat :=
  k.progs.cells.foldl (fun a c => a + c.2.words.length) (if k.progs.cells.any fun c => c.2.builtin != 0 then 12288 else 0)

/-- The built-in kernels loaded at start-up (R337). -/
def Kern.builtins (k : Kern) : Kern :=
  { k with progs := (List.range 7).foldl (fun t i =>
      t.put i { used := true, builtin := i + 1, digest := zeros 31 ++ beBytes 1 (i + 1) }) k.progs }

/-- A whole image installed: the status of PROGRAM_LOAD (R335, R336, R364). -/
def Module.installProgram (m : Module) (image : Bytes) : Module × Nat :=
  let d := shake256 image 32
  let ws := (chunks 4 image).map beNat
  if reservedDigest d then (m, St.badParam)
  else if (m.kern.find d).isSome then (m, St.ok)
  else if ws.isEmpty || 16384 < ws.length || !imageLegal ws then (m, St.badParam)
  else
    match leastBelow 256 fun i => !(m.kern.progs.get i).used with
    | none => (m, St.noResource)
    | some i =>
      if 1048576 < m.kern.words + ws.length then (m, St.noResource)
      else
        let p : Prog := { used := true, digest := d, words := ws.map (BitVec.ofNat 32) }
        ({ m with kern := { m.kern with progs := m.kern.progs.put i p } }, St.ok)

/-- Whether a queued or running run uses a slot. -/
def Module.progUsed (m : Module) (slot : Nat) : Bool :=
  m.engs.cells.any (fun c => c.2.run.any fun r => r.slot == slot) ||
  m.kern.dsps.cells.any fun c => c.2.queue.any fun q => q.slot == slot

/-- PROGRAM_UNLOAD of a digest: its status. -/
def Module.unloadProgram (m : Module) (d : Bytes) : Module × Nat :=
  match m.kern.find d with
  | none => (m, St.badParam)
  | some i =>
    if (m.kern.progs.get i).builtin != 0 then (m, St.denied)
    else if m.progUsed i then (m, St.busy)
    else ({ m with kern := { m.kern with progs := m.kern.progs.del i } }, St.ok)

/-! ### Descriptors (R338, R344, R365, R366) -/

/-- *KERNEL_INVOKE payload*: the descriptor, or `none` where R366 refuses it. -/
def descOf (pl : Bytes) (part chip tag vc : Nat) (audit cmd : Bool) : Option Desc :=
  let n := byteAt pl 36 % 32
  let w := (List.range 16).map fun i => fieldBE pl (48 + 4 * i) 4
  if pl.length < 304 || 2 ^ 22 ≤ fieldBE pl 32 4 || 32 ≤ byteAt pl 36 || 16 < n || fieldBE pl 37 3 != 0 ||
     (w.drop n).any (· != 0) then none
  else some { prog := pl.take 32, part := part, launch := fieldBE pl 40 8, limit := fieldBE pl 32 4, writes := w.take n,
              params := (List.range 24).map fun i => BitVec.ofNat 64 (fieldBE pl (112 + 8 * i) 8), inline := pl.drop 304,
              input := shake256 pl 32, audit := audit, chip := chip, tag := tag, vc := vc, cmd := cmd }

/-- The die of a run: the one named, or the one with the fewest runs queued and running (R344). -/
def Module.pickDie (m : Module) (die : Nat) : Option Nat :=
  if die < 8 then some die
  else
    let ds := (List.range 8).filter fun d => !m.dieFenced d
    let load (d : Nat) : Nat := (m.dsp d).queue.length + m.running d
    match ds with
    | [] => none
    | d :: l => some (l.foldl (fun a b => if load b < load a then b else a) d)

/-- The checks of R338 in order: the status that refuses a descriptor, or OK with its slot. -/
def Module.checkDesc (m : Module) (d : Desc) : Nat × Nat :=
  match m.kern.find d.prog with
  | none => (St.badParam, 0)
  | some slot =>
    if d.writes.any fun h => (m.store.find h).isNone then (St.badParam, slot)
    else
      let os := d.writes.filterMap fun h => (m.store.find h).map m.obj
      if os.any fun o => o.part != d.part then (St.denied, slot)
      else if os.any (·.readOnly) then (St.sealed_, slot)
      else (St.ok, slot)

/-- A descriptor submitted: accepted with a tracker entry in a die's queue, or refused with a status (R338). -/
def Module.submit (m : Module) (d : Desc) (die : Nat) (entry : TEnt) : Module × (Nat ⊕ Nat) :=
  let (st, slot) := m.checkDesc d
  if st != St.ok then (m, .inr st)
  else match m.pickDie die with
    | none => (m, .inr St.internal)
    | some k =>
      if m.dieFenced k then (m, .inr St.internal)
      else if 1024 ≤ (m.dsp k).queue.length then (m.count (swBlk k 16) 0xC108, .inr St.noResource)
      else match m.openEntry { entry with kind := 2, a := 0xFF, waiting := m.now < d.launch } with
        | none => (m.count (hubBlk 3) 0x120, .inr St.noResource)
        | some (m, h) =>
          let m := m.settleDeficit k
          (m.setDsp k { m.dsp k with queue := (m.dsp k).queue ++ [{ handle := h, slot := slot, desc := d }] }, .inl h)

/-- KERNEL_INVOKE (R338, R366). -/
def kernelInvoke (p : Pkt) (m : Module) : Module := m.perform p 0x30 fun m =>
  let die := bits p.h.tw 3 0
  let v := bits p.h.tw 7 5
  if !p.good then m.kernelRefuse p St.chunkLost
  else if (8 ≤ die && die < 15) || v == 1 || v == 2 || bits p.h.tw 31 8 != 0 || p.h.offset != 0 then m.kernelRefuse p St.badParam
  else match descOf p.pl p.h.part p.h.src p.h.tag (if v == 0 then 3 else v) (bitAt p.h.tw 4) false with
    | none => m.kernelRefuse p St.badParam
    | some d =>
      match m.submit d die { key := p.h.tag, keyChip := p.h.src } with
      | (m, .inr st) => m.kernelRefuse p st
      | (m, .inl _) => m

/-! ### The dispatcher (R343) -/

/-- Fields of a partition on a die. -/
def Module.quantum (m : Module) (d p : Nat) : Int := us (m.reg (swBlk d 16) (0x8000 + 4 * p) 0)
def Module.engMax (m : Module) (d p : Nat) : Nat := m.reg (swBlk d 16) (0x8000 + 4 * p) 16

/-- A run starts on an engine (R319, R334, R366). -/
def Module.startRun (m : Module) (d e : Nat) (q : QRun) : Module :=
  let x := m.dsp d
  let m := m.setDsp d { x with queue := x.queue.filter (·.handle != q.handle) }
  let g := q.desc
  let lim := if g.limit == 0 then m.reg (swBlk d 16) 0xC000 0 else g.limit
  let r : Run := { handle := q.handle, slot := q.slot, desc := g, writes := g.writes, start := m.now, due := m.ticks + ms lim }
  let sregs : List Word64 := [0] ++ g.params.take 24 ++
    [BitVec.ofNat 64 g.chip, BitVec.ofNat 64 g.tag, BitVec.ofNat 64 g.part, BitVec.ofNat 64 g.launch, BitVec.ofNat 64 e,
     BitVec.ofNat 64 (q.handle % 2 ^ 14), 0]
  let y : Engine := { run := some r, s := sregs }
  let m := m.setEng e (y.setVec 5 (padTo 2048 g.inline))
  let m := g.writes.foldl (fun (m : Module) h =>
    match m.store.find h with
    | some i => m.setObj i { m.obj i with claims := (m.obj i).claims ++ [e] }
    | none => m) m
  let m := (m.updEntry q.handle fun t => { t with a := e, waiting := false }).count (swBlk d 16) 0xC100
  let b := (m.kern.progs.get q.slot).builtin
  if b == 0 then m else m.count (swBlk d 16) (0xC200 + 8 * b)

/-- Visits that a partition needs before its deficit is positive. -/
def visits (deficit quantum : Int) : Nat := if 0 < deficit then 0 else ((-deficit) / max quantum 1 + 1).toNat

/-- RUN_DISPATCH: a free engine of a die takes the run that the deficit round robin gives it. Partitions are visited in
rotation; each visit without a start adds a quantum, so the first to start is the one that needs the fewest visits. -/
def runDispatch (d : Nat) (m : Module) : Module :=
  if !(d < 8) || !m.working || m.dieFenced d then m
  else match (List.range 16).find? fun i => (m.eng (16 * d + i)).run.isNone && !bitAt m.flt.engines (16 * d + i) with
    | none => m
    | some i =>
      let m := m.settleDeficit d
      let x := m.dsp d
      let ready := x.queue.filter fun q => q.desc.launch ≤ m.now
      let cand := (sortBy (fun p => (p + 4095 - x.rot) % 4096) (ready.map (·.desc.part)).eraseDups).filter fun p =>
        m.running d (some p) < m.engMax d p
      let need (p : Nat) : Nat := visits (x.deficit.get p) (m.quantum d p)
      match cand with
      | [] => m
      | p0 :: l =>
        let w := l.foldl (fun a b => if need b < need a then b else a) p0
        let k := need w
        let pos := (cand.takeWhile (· != w)).length
        let t := cand.zipIdx.foldl (fun (t : Tab Int) c =>
          let n : Nat := if c.2 < pos then k + 1 else k
          t.put c.1 (t.get c.1 + m.quantum d c.1 * (n : Int))) x.deficit
        let m := m.setDsp d { x with deficit := t, rot := w }
        match ready.find? fun q => q.desc.part == w with
        | some q => m.startRun d (16 * d + i) q
        | none => m

/-- LAUNCH_REACHED: the earliest launch count that a queued collective or run waits for is reached (R422). -/
def launchReached (m : Module) : Module :=
  let cs := m.coll.ctxs.cells.filterMap fun c =>
    if c.2.used && !c.2.launched && c.2.sig.isSome then some (sgLaunch (c.2.sig.getD [])) else none
  let rs := m.kern.dsps.cells.flatMap fun c => c.2.queue.filterMap fun q =>
    if ((m.trk.find q.handle).map (·.waiting)).getD false then some q.desc.launch else none
  match cs ++ rs with
  | [] => m
  | a :: l =>
    if !m.working then m
    else
      let m := m.reach (l.foldl min a)
      let m := m.kern.dsps.cells.foldl (fun (m : Module) c => c.2.queue.foldl (fun (m : Module) q =>
        if q.desc.launch ≤ m.now then m.updEntry q.handle fun t => { t with waiting := false } else m) m) m
      m.coll.ctxs.keys.foldl (fun m h => if (m.ctx h).launched then m else m.advance h) m

/-! ### The meanings -/

/-- KERNEL_INVOKE (R338). -/
def execKernelInvoke (p : Pkt) (s : State) : Host.Outcome State Fault Refusal := .next (s.withM (kernelInvoke p))

/-- RUN_DISPATCH (R343). -/
def execRunDispatch (d : Nat) (s : State) : Host.Outcome State Fault Refusal := .next (s.withM (runDispatch d))

/-- LAUNCH_REACHED (R422). -/
def execLaunchReached (s : State) : Host.Outcome State Fault Refusal := .next (s.withM (launchReached))

end Sys2Proof.Machine
end

