-- ==== Sys2Proof/Machine/Kernels.lean ====
section
/-!
DEFINITION. The built-in kernels (R364 to R388). A kernel's run goes on step by step: a row of its kernel takes the next
step, and stutters while the run waits for its packets to hold their buffers or for its landing object.
-/
namespace Sys2Proof.Machine

/-! ### Steps of a kernel -/

/-- A parameter word, and its halves. -/
def Run.p (r : Run) (k : Nat) : Nat := (r.desc.params.getD k 0).toNat
def Run.lo (r : Run) (k : Nat) : Nat := bits (r.p k) 31 0
def Run.hi (r : Run) (k : Nat) : Nat := bits (r.p k) 63 32

/-- A row of the kernel with a code: it acts where the engine runs that kernel and may go on. -/
def Module.kernel (m : Module) (e code : Nat) (f : Module → Run → Module) : Module :=
  match (m.eng e).run with
  | none => m
  | some r => if m.canIssue e r && (m.kern.progs.get r.slot).builtin == code then f m r else m

/-- The run ends with a status; FAIL_PC of a kernel is 0. -/
def Module.kFail (m : Module) (e status : Nat) : Module := (m.failRun e status (some 0)).pump e

/-- The run halts with data. -/
def Module.kHalt (m : Module) (e : Nat) (data : Bytes) (z : RunEnd := {}) : Module :=
  ((m.updEng e fun x => x.setVec 0 (padTo 2048 data)).endRun e { z with status := St.ok, len := ceilDiv data.length 16 }).pump e

/-- 64-bit words as data. -/
def words64 (l : List Nat) : Bytes := pad16 (l.flatMap (leBytes 8))

/-- The run's next step. -/
def Module.kStep (m : Module) (e phase cur : Nat) : Module := m.updRun e fun r => { r with phase := phase, cur := cur }

/-- What the result of a run says besides its data: EMPTY and DIRTY_READ (R368). -/
def Module.kFlags (m : Module) (e : Nat) (empty dirty : Bool) : Module :=
  m.updRun e fun r => { r with empty := r.empty || empty, dirty := r.dirty || dirty }

/-- Run counters of a kernel. -/
def Module.kCnt (m : Module) (e : Nat) (c : Cnt) : Module := m.updEng e fun x => x.addCnt c

/-- A tile that must be read to go on. -/
def Module.kRead (m : Module) (e handle tile : Nat) (ver : Option Nat) (k : Module → Bytes → Module) : Module :=
  match (m.runOf e).addRead handle with
  | none => m.kFail e St.noResource
  | some r =>
    match (m.updRun e fun _ => r).readTile e handle tile ver with
    | (m, .inr st) => m.kFail e st
    | (m, .inl b) => k m b

/-- Tiles read one after another, to a list of their bytes (`n` of them). -/
def Module.kReadN (m : Module) (e handle tile : Nat) (ver : Option Nat) : Nat → List Bytes → Module × (List Bytes ⊕ Nat)
  | 0, acc => (m, .inl acc.reverse)
  | n + 1, acc =>
    match (m.runOf e).addRead handle with
    | none => (m, .inr St.noResource)
    | some r =>
      match (m.updRun e fun _ => r).readTile e handle tile ver with
      | (m, .inr st) => (m, .inr st)
      | (m, .inl b) => Module.kReadN m e handle (tile + 1) ver n (b :: acc)

/-- A tile that must be stored to go on. -/
def Module.kStore (m : Module) (e handle tile : Nat) (b : Bytes) (k : Module → Module) : Module :=
  match m.putTile e handle tile b with
  | (m, st) => if st == St.ok then k m else m.kFail e st

/-- A collective packet of the run to its own module (R360, R370). -/
def Module.kColl (m : Module) (e group seq type tw off : Nat) (pl : Bytes) : Module :=
  let r := m.runOf e
  let v := if (m.grp group).used then (m.grp group).vc else 2
  let tag := if type == 0x10 then group else group * 65536 + seq % 65536
  m.pushEmit e (mkHdr type v m.chip m.chip r.desc.part tag tw off) pl

/-- A COLL_JOIN payload of a reduction (R233). -/
def joinPl (epoch op red inF outF count word digest root mem : Nat) : Bytes :=
  beBytes 4 epoch ++ beBytes 1 op ++ beBytes 1 red ++ beBytes 1 (inF + 16 * outF) ++ beBytes 1 0 ++ beBytes 8 count ++
  beBytes 4 word ++ beBytes 4 digest ++ beBytes 4 root ++ beBytes 8 0 ++ zeros 4 ++ beBytes 4 mem ++ zeros 4

/-- Tile 0 of the landing object once bits 0 to n − 1 of byte 512 are set; `none` while the run waits. -/
def Module.landed (m : Module) (handle n : Nat) : Option Bytes :=
  match m.store.find handle with
  | none => none
  | some i =>
    let b := m.tileBytes (m.present (m.obj i) 0)
    if (List.range n).all fun p => bitAt (byteAt b 512) p then some b else none

/-- Tile 0 of the landing object read by the run, with its check (R109). -/
def Module.landRead (m : Module) (e handle : Nat) (k : Module → Bytes → Module) : Module :=
  match m.readWord e handle 0 none with
  | (m, .inr st) => m.kFail e st
  | (m, .inl b) => k m b

/-! ### ATTN_FINAL (R378) -/

/-- One record turned into `d` outputs of precision `p`: bits, counters, and whether it was absent. A record whose words
are all 0 is the identity of an absent one (R217). -/
def finalRecord (d : Nat) (os : Int) (p : Nat) (t : Bytes) (i : Nat) : List Nat × Cnt × Bool :=
  let w (j : Nat) : Int := wordAt t (i * (d + 2) + j)
  if (List.range (d + 2)).all fun j => w j == 0 then (List.replicate d 0, {}, true)
  else if w 0 < -32767 || 32767 < w 0 then (List.replicate d (canonNan p), {}, false)
  else if w 1 ≤ 0 then (List.replicate d (canonNan p), oneInv, false)
  else
    let l := (List.range d).map fun j => encodeFloat p (some (w (2 + j), (w 1).toNat, os)) false
    (l.map (·.1), l.foldl (fun c x => c.add x.2) {}, false)

/-- `n` records of consecutive tiles: output bytes, counters, EMPTY. -/
def finalRecords (n d : Nat) (os : Int) (fmt : Nat) (tiles : List Bytes) : Bytes × Cnt × Bool :=
  let rt := 256 / (d + 2)
  let p := if fmt == fBf16 then 8 else 24
  let l := (List.range n).map fun k => finalRecord d os p (tiles.getD (k / rt) []) (k % rt)
  (l.flatMap (fun x => x.1.flatMap (leBytes (if fmt == fBf16 then 2 else 4))), l.foldl (fun c x => c.add x.2.1) {}, l.any (·.2.2))

/-- Tiles of bytes stored one after another from a tile of an object, and the run's halt. -/
def Module.kStoreAll (m : Module) (e handle tile : Nat) (k : Module → Module) : List Bytes → Module
  | [] => k m
  | b :: l => m.kStore e handle tile (padTo 2048 b) fun m => Module.kStoreAll m e handle (tile + 1) k l

/-- ATTN_FINAL as a kernel of its own. -/
def attnFinal (e : Nat) (m : Module) : Module := m.kernel e 2 fun m r =>
  let w := r.p 2
  let n := bits w 15 0
  let d := bits w 23 16
  let os := toSigned 8 (bits w 31 24)
  let fmt := bits w 35 32
  let size := n * d * (if fmt == fBf16 then 2 else 4)
  if d == 0 || 254 < d || (fmt != fBf16 && fmt != fFp32) || bits w 63 36 != 0 ||
     (if r.lo 1 == 0 then 2048 < size else !r.writes.contains (r.lo 1)) then
    m.kFail e St.badParam
  else match m.kReadN e (r.lo 0) (r.hi 0) none (ceilDiv n (256 / (d + 2))) [] with
    | (m, .inr st) => m.kFail e st
    | (m, .inl ts) =>
      let (b, c, empty) := finalRecords n d os fmt ts
      let m := (m.kCnt e c).kFlags e empty false
      if r.lo 1 == 0 then m.kHalt e (pad16 b)
      else m.kStoreAll e (r.lo 1) (r.hi 1) (fun m => m.kHalt e []) (chunks 2048 b)

/-! ### ATTN_PARTIAL (R372 to R377) -/

/-- A dyadic number: n × 2^e. -/
def dyAdd (a b : Int × Int) : Int × Int :=
  let e := min a.2 b.2
  (a.1 * (2 ^ (a.2 - e).toNat : Nat) + b.1 * (2 ^ (b.2 - e).toNat : Nat), e)

/-- An FP32 pattern as a dyadic number. -/
def dyOf (v : Nat) : Int × Int := let x := fp32Val v; (x.1, x.2.2)

/-- A dyadic number encoded as FP32, positive zero. -/
def dyFp (a : Int × Int) : Nat × Cnt := encodeFloat 24 (some (a.1, 1, a.2)) false

/-- Elements and exponent of Breeze-8 block `b` at its byte place. -/
def brQ (t : Bytes) (b k : Nat) : Int := toSigned 8 (byteAt t (33 * b + k))
def brE (t : Bytes) (b : Nat) : Nat := byteAt t (33 * b + 32)

/-- A word of a record from its exact value n × 2^e: rounded, clamped, counted. -/
def recWord (a : Int × Int) : Int × Cnt :=
  let lim : Int := 2 ^ 63 - 1
  let y := rneShift a.1 a.2
  if lim < y.natAbs then (satInt y (-lim) lim, oneSat) else (y, if y == 0 && a.1 != 0 then oneFlush else {})

/-- One query's record (R374): `none` where there are no tokens. Tokens are (key tile, value tile, vector in the tile). -/
def attnRecord (d : Nat) (os : Int) (q : Bytes) (qb : Nat) (toks : List (Bytes × Bytes × Nat)) : Option (List Int) × Cnt :=
  let nb := d / 32
  let bl := List.range nb
  if toks.isEmpty then (none, {})
  else if bl.any (fun b => brE q (qb + b) == 255) ||
      toks.any fun t => bl.any fun b => brE t.1 (t.2.2 * nb + b) == 255 || brE t.2.1 (t.2.2 * nb + b) == 255 then
    (some (-(2 ^ 63) :: List.replicate (d + 1) 0), oneInv)
  else
    let sc := toks.map fun t => dyFp (bl.foldl (fun (a : Int × Int) b =>
      dyAdd a (dot 32 (brQ q (qb + b)) (brQ t.1 (t.2.2 * nb + b)),
        ((brE q (qb + b) + brE t.1 (t.2.2 * nb + b) : Nat) : Int) - 266)) (0, 0))
    let c0 := sc.foldl (fun (c : Cnt) x => c.add x.2) {}
    let s := sc.map (·.1)
    let top := s.foldl (fun a b => if rank32 a < rank32 b then b else a) (s.headD 0)
    let g := dyOf top
    let mc : Int := if 0 ≤ g.2 then g.1 * (2 ^ g.2.toNat : Nat) else -(Int.fdiv (-g.1) (2 ^ (-g.2).toNat : Nat))
    let (mx, c1) := satCnt mc (-32767) 32767
    let ps := s.map fun v =>
      let (y, k) := dyFp (dyAdd (dyOf v) (-mx, 0))
      let (z, k2) := exExp2 (exOf (decodeFloat 24 y))
      (dyOf (exBits z), k.add k2)
    let c2 := ps.foldl (fun (c : Cnt) x => c.add x.2) (c0.add c1)
    let sumBy (f : (Int × Int) × (Bytes × Bytes × Nat) → Int × Int) : Int × Int :=
      ((ps.map (·.1)).zip toks).foldl (fun a x => dyAdd a (f x)) (0, 0)
    let l := sumBy fun x => x.1
    let out := recWord (l.1, l.2 + 32) :: (List.range d).map fun j =>
      let o := sumBy fun x =>
        let b := x.2.2.2 * nb + j / 32
        (x.1.1 * brQ x.2.2.1 b (j % 32), x.1.2 + (brE x.2.2.1 b : Nat) - 133)
      recWord (o.1, o.2 + 32 - os)
    (some (mx :: out.map (·.1)), out.foldl (fun c x => c.add x.2) c2)

/-- The parameters of ATTN_PARTIAL are legal (R372). -/
def attnLegal (r : Run) : Bool :=
  let w := r.p 3
  let d := bits w 7 0
  let nq := bits w 15 8
  let fmt := bits w 31 28
  let root := bitAt w 24
  d % 32 == 0 && 32 ≤ d && d ≤ 224 && 1 ≤ nq && nq ≤ 52 && nq * (d / 32) * 33 ≤ 1744 && r.hi 2 ≤ 16777216 &&
  bits w 27 26 == 0 && bits w 63 32 == 0 && bits (r.p 4) 63 48 == 0 && bits (r.p 5) 63 49 == 0 && bits (r.p 6) 31 17 == 0 &&
  (!root || ((fmt == fBf16 || fmt == fFp32) && bits (r.p 5) 48 32 == bits (r.p 6) 16 0 &&
    nq * d * (if fmt == fBf16 then 2 else 4) ≤ 2048))

/-- The tokens of a range, from the tiles read. -/
def tokensOf (kt t0 nt : Nat) (ks vs : List Bytes) : List (Bytes × Bytes × Nat) :=
  (List.range nt).map fun i =>
    let k := (t0 + i) / kt - t0 / kt
    (ks.getD k [], vs.getD k [], (t0 + i) % kt)

/-- ATTN_PARTIAL: it joins the merge, reads its range, sends its contribution, and at the root finishes the merge. -/
def attnPartial (e : Nat) (m : Module) : Module := m.kernel e 1 fun m r =>
  let w := r.p 3
  let d := bits w 7 0
  let nq := bits w 15 8
  let os := toSigned 8 (bits w 23 16)
  let rt := 256 / (d + 2)
  let root := bitAt w 24
  let quiet := bitAt w 25 && !root
  let group := bits (r.p 4) 47 32
  let seq := r.lo 4
  if r.phase == 0 then
    if !attnLegal r then m.kFail e St.badParam
    else match m.store.find (r.writes.headD 0) with
      | none => m.kFail e St.badParam
      | some i =>
        if (m.obj i).size < 1 + ceilDiv nq rt then m.kFail e St.badParam
        else
          let word := bits w 23 16 + d * 256
          let m := (m.kColl e group seq 0x10 seq 0 (joinPl (r.lo 5) 2 7 fSmx fSmx nq word (r.hi 6) (bits (r.p 6) 16 0)
            (bits (r.p 5) 48 32))).kStep e 1 0
          let kt := 62 / (d / 32)
          let t0 := r.lo 2
          let nt := r.hi 2
          let n := if nt == 0 then 0 else (t0 + nt - 1) / kt - t0 / kt + 1
          match m.kReadN e (r.lo 0) (r.hi 0 + t0 / kt) none n [] with
          | (m, .inr st) => m.kFail e st
          | (m, .inl ks) =>
            match m.kReadN e (r.lo 1) (r.hi 1 + t0 / kt) none n [] with
            | (m, .inr st) => m.kFail e st
            | (m, .inl vs) =>
              let q := (m.eng e).vec 5
              let toks := tokensOf kt t0 nt ks vs
              let recs := (List.range nq).map fun k => attnRecord d os q (k * (d / 32)) toks
              let m := m.kCnt e (recs.foldl (fun c x => c.add x.2) {})
              let m := (List.range (ceilDiv nq rt)).foldl (fun (m : Module) t =>
                let l := (recs.drop (t * rt)).take rt
                if nt == 0 then m.kColl e group seq 0x11 (2 ^ 16) (2048 * t) []
                else m.kColl e group seq 0x11 0 (2048 * t)
                  (padTo 2048 (l.flatMap fun x => (x.1.getD []).flatMap fun v => leBytes 8 (ofSigned 64 v)))) m
              if root then m else m.kHalt e [] { quiet := quiet }
  else if !r.pend.isEmpty then m
  else match m.landed (r.writes.headD 0) 1 with
    | none => m
    | some _ => m.landRead e (r.writes.headD 0) fun m b =>
      let st := fieldBE b 0 2
      if st != St.ok then m.kFail e st
      else match m.kReadN e (r.writes.headD 0) 1 none (ceilDiv nq rt) [] with
        | (m, .inr st) => m.kFail e st
        | (m, .inl ts) =>
          let (out, c, empty) := finalRecords nq d os (bits w 31 28) ts
          let c0 : Cnt := { sat := fieldBE b 4 4, flush := fieldBE b 8 4, inv := fieldBE b 12 4 }
          (((m.kCnt e c0).kCnt e c).kFlags e empty false).kHalt e (pad16 out)

/-! ### Updates (R380 to R382) -/

/-- One element's step: new w, m, v and the events. -/
abbrev UpStep := Ex × Ex × Ex × Ex → (Ex × Ex × Ex) × Cnt

/-- Operations chained with their events. -/
def opC (c : Cnt) (x : Ex × Cnt) : Ex × Cnt := (x.1, c.add x.2)

/-- *UPDATE_SGDM steps* on (w, m, v, g). -/
def sgdm (lr wd gs b1 : Ex) : UpStep := fun x =>
  let (w, mo, v, g0) := x
  let (g, c) := exMul g0 gs
  let (t, c) := opC c (exMul wd w)
  let (g, c) := opC c (exAdd g t)
  let (mo, c) := opC c (exMul b1 mo)
  let (mo, c) := opC c (exAdd mo g)
  let (u, c) := opC c (exMul lr mo)
  let (w, c) := opC c (exAdd w (exMinus u))
  ((w, mo, v), c)

/-- *UPDATE_ADAMW steps* on (w, m, v, g). -/
def adamw (lr wd gs b1 b2 eps bc1 bc2 c1 c2 : Ex) : UpStep := fun x =>
  let (w, mo, v, g0) := x
  let (g, c) := exMul g0 gs
  let (mo, c) := opC c (exMul b1 mo)
  let (t, c) := opC c (exMul c1 g)
  let (mo, c) := opC c (exAdd mo t)
  let (v, c) := opC c (exMul b2 v)
  let (t, c) := opC c (exMul g g)
  let (t, c) := opC c (exMul c2 t)
  let (v, c) := opC c (exAdd v t)
  let (mh, c) := opC c (exDiv mo bc1)
  let (vh, c) := opC c (exDiv v bc2)
  let (dd, c) := opC c (exSqrt vh)
  let (dd, c) := opC c (exAdd dd eps)
  let (u, c) := opC c (exDiv mh dd)
  let (t, c) := opC c (exMul wd w)
  let (u, c) := opC c (exAdd u t)
  let (u, c) := opC c (exMul lr u)
  let (w, c) := opC c (exAdd w (exMinus u))
  ((w, mo, v), c)

/-- The first `n` elements of the FP32 tiles W, M, V, G updated. -/
def updTiles (f : UpStep) (n : Nat) (w mo v g : Bytes) (useV : Bool) : Bytes × Bytes × Bytes × Cnt :=
  let l := (List.range n).map fun i =>
    let (a, k1) := fpIn (leAt w (4 * i) 4)
    let (b, k2) := fpIn (leAt mo (4 * i) 4)
    let (c, k3) := if useV then fpIn (leAt v (4 * i) 4) else (exInt 0, {})
    let (g, k4) := fpIn (leAt g (4 * i) 4)
    let (r, k) := f (a, b, c, g)
    (r, (((k1.add k2).add k3).add k4).add k)
  let put (old : Bytes) (h : Ex × Ex × Ex → Ex) : Bytes := splice old 0 (l.flatMap fun x => leBytes 4 (exBits (h x.1)))
  (put w (·.1), put mo (·.2.1), if useV then put v (·.2.2) else v, l.foldl (fun c x => c.add x.2) {})

/-- The parameters of an update are legal (R380). -/
def updLegal (r : Run) (adam : Bool) : Bool :=
  let w := r.p 4
  let n := bits w 39 0
  let join := bitAt w 40
  let mc := bitAt w 41
  1 ≤ n && n ≤ 2 ^ 32 && bits w 63 54 == 0 &&
  (!mc || ((bits w 45 42 == 3 || bits w 45 42 == 5) && bits (r.p 13) 46 0 % 2048 == 0 && bits (r.p 13) 63 47 == 0 &&
    bits (r.p 12) 63 14 == 0)) &&
  (!join || ((bits w 49 46 == 3 || bits w 49 46 == 4) && 1 ≤ bits w 53 50 && bits w 53 50 ≤ 8 &&
    bits (r.p 9) 63 48 == 0 && bits (r.p 10) 63 49 == 0 && bits (r.p 11) 63 32 == 0 && r.writes.headD 0 == r.lo 3)) &&
  (adam || r.p 2 == 0) &&
  ([r.lo 0, r.lo 1, r.lo 3] ++ (if adam then [r.lo 2] else [])).all r.writes.contains

/-- The step of an update run with its hyperparameters, admitted once for the run, and the events of that. -/
def upStep (r : Run) (adam : Bool) : UpStep × Cnt :=
  let h (v : Nat) : Ex × Cnt := fpIn v
  let (lr, k1) := h (r.lo 5)
  let (wd, k2) := h (r.hi 5)
  let (gs, k3) := h (r.lo 6)
  let (b1, k4) := h (r.hi 6)
  let k := ((k1.add k2).add k3).add k4
  if !adam then (sgdm lr wd gs b1, k)
  else
    let (b2, k5) := h (r.lo 7)
    let (eps, k6) := h (r.hi 7)
    let (bc1, k7) := h (r.lo 8)
    let (bc2, k8) := h (r.hi 8)
    let (c1, k9) := exAdd (exInt 1) (exMinus b1)
    let (c2, k10) := exAdd (exInt 1) (exMinus b2)
    (adamw lr wd gs b1 b2 eps bc1 bc2 c1 c2, (((((k.add k5).add k6).add k7).add k8).add k9).add k10)

/-- Elements of consecutive FP32 tiles. -/
def fp32At (ts : List Bytes) (i : Nat) : Nat := leAt (ts.getD (i / 512) []) (4 * (i % 512)) 4

/-- An update run (R381): 0 checks and joins, 1 absent contributions, 2 waits for the reduction, 3 updates tile by tile,
4 multicasts the new weights, 5 halts. -/
def Module.update (m : Module) (e : Nat) (adam : Bool) : Module := m.kernel e (if adam then 4 else 3) fun m r =>
  let n := bits (r.p 4) 39 0
  let join := bitAt (r.p 4) 40
  let mcEn := bitAt (r.p 4) 41
  let fmt := bits (r.p 4) 45 42
  let gf := bits (r.p 4) 49 46
  let npl := bits (r.p 4) 53 50
  let group := bits (r.p 9) 47 32
  let seq := r.lo 9
  if r.phase == 0 then
    if !updLegal r adam then m.kFail e St.badParam
    else
      let objs := ([r.lo 0, r.lo 1] ++ (if adam then [r.lo 2] else [])).map (m.runObj r)
      match objs.findSome? fun o => match o with | .inr st => some st | .inl _ => none with
      | some st => m.kFail e st
      | none =>
        if objs.any fun o => match o with | .inl i => (m.obj i).dirty | .inr _ => false then m.kFail e St.busy
        else
          let ver := match m.runObj r (r.lo 0) with | .inl i => (m.obj i).version | .inr _ => 0
          let m := (m.kCnt e (upStep r adam).2).updRun e fun r => { r with aux := [ver] }
          if join then
            (m.kColl e group seq 0x10 seq 0 (joinPl (r.lo 10) 2 0 gf fFp32 n 0 (r.lo 11) (bits (r.p 10) 48 32)
              (bits (r.p 10) 48 32))).kStep e 1 0
          else m.kStep e 3 0
  else if r.phase == 1 then
    if !r.pend.isEmpty then m
    else if r.cur < ceilDiv n (perTile gf 0) then
      (m.kColl e group seq 0x11 (2 ^ 16) (2048 * r.cur) []).kStep e 1 (r.cur + 1)
    else m.kStep e 2 0
  else if r.phase == 2 then
    match m.landed (r.lo 3) npl with
    | none => m
    | some _ => m.landRead e (r.lo 3) fun m b =>
      (match (List.range npl).find? fun p => fieldBE b (64 * p) 2 != St.ok with
      | some p => m.kFail e (fieldBE b (64 * p) 2)
      | none => m.kStep e 3 0)
  else if r.phase == 3 then
    if ceilDiv n 512 ≤ r.cur then m.kStep e (if mcEn then 4 else 5) 0
    else
      let k := min 512 (n - 512 * r.cur)
      m.kRead e (r.lo 0) (r.hi 0 + r.cur) none fun m w =>
      m.kRead e (r.lo 1) (r.hi 1 + r.cur) none fun m mo =>
      let rest (m : Module) (v : Bytes) : Module :=
        m.kRead e (r.lo 3) ((if join then 1 else r.hi 3) + r.cur) none fun m g =>
          let (w, mo, v, c) := updTiles (upStep r adam).1 k w mo v g adam
          let m := m.kCnt e c
          m.kStore e (r.lo 0) (r.hi 0 + r.cur) w fun m =>
          m.kStore e (r.lo 1) (r.hi 1 + r.cur) mo fun m =>
          if adam then m.kStore e (r.lo 2) (r.hi 2 + r.cur) v fun m => m.kStep e 3 (r.cur + 1)
          else m.kStep e 3 (r.cur + 1)
      if adam then m.kRead e (r.lo 2) (r.hi 2 + r.cur) none rest else rest m []
  else if r.phase == 4 then
    let el := perTile fmt 0
    if !r.pend.isEmpty then m
    else if ceilDiv n el ≤ r.cur then m.kStep e 5 0
    else
      let a := r.cur * el
      let k := min el (n - a)
      match m.kReadN e (r.lo 0) (r.hi 0 + a / 512) none ((a + k - 1) / 512 - a / 512 + 1) [] with
      | (m, .inr st) => m.kFail e st
      | (m, .inl ts) =>
        let xs := (List.range el).map fun i => if i < k then fpIn (fp32At ts (a % 512 + i)) else (exInt 0, {})
        let (b, c) := storeElems fmt (zeros 2048) el 0 (xs.map fun x => some x.1)
        let m := m.kCnt e (xs.foldl (fun c x => c.add x.2) c)
        let g := bits (r.p 12) 13 0
        let v := bits (m.net.mcast.get g).word0 14 12
        let ver := (r.aux.headD 0 + 1) % 2 ^ 32
        (m.pushEmit e (mkHdr 0x15 v 131071 m.chip r.desc.part g ver (bits (r.p 13) 46 0 + 2048 * r.cur)) b).kStep e 4 (r.cur + 1)
  else m.kHalt e (words64 [(r.aux.headD 0 + 1) % 2 ^ 32, n])

/-- UPDATE_SGDM (R381). -/
def updateSgdm (e : Nat) (m : Module) : Module := m.update e false
/-- UPDATE_ADAMW (R381). -/
def updateAdamw (e : Nat) (m : Module) : Module := m.update e true

/-! ### Versioned reads (R384) -/

/-- The version fixed at the start: named or none (present data, DIRTY_READ); or a status. -/
def Obj.fix (o : Obj) (vmode ver : Nat) : Option Nat ⊕ Nat :=
  if vmode == 0 then .inl (if o.dirty && !o.retain then none else some o.version)
  else if vmode == 1 then (if ver == o.version then .inl (some ver) else .inr St.versionMismatch)
  else .inl (some ver)

/-- The status where a version cannot be served. -/
def Module.gone (m : Module) (handle ver : Nat) (st : Nat) : Nat :=
  if st != St.versionGone && st != St.versionMismatch then st
  else match m.store.find handle with
    | none => st
    | some i => if ((m.obj i).version + 2 ^ 32 - ver) % 2 ^ 32 < 2 ^ 31 then St.versionGone else St.versionMismatch

/-- Fields kept by a run that fixed a version: whether one is named, the version, DIRTY_READ. -/
def fixAux (o : Obj) (v : Option Nat) : List Nat := [b2n v.isSome, v.getD o.version, b2n v.isNone]
def Run.fixed (r : Run) : Option Nat := if r.aux.getD 0 0 == 1 then some (r.aux.getD 1 0) else none

/-- The start of a run that reads under R384. -/
def Module.kFix (m : Module) (e : Nat) (r : Run) (handle vmode ver : Nat) : Module :=
  match m.runObj r handle with
  | .inr st => m.kFail e st
  | .inl i =>
    match (m.obj i).fix vmode ver with
    | .inr st => m.kFail e st
    | .inl v => (m.updRun e fun r => { r with aux := fixAux (m.obj i) v }).kStep e 1 0

/-- GATHER (R383, R384): 0 fixes the version, 1 sends tile after tile and then performs a FENCE, 2 halts. -/
def gather (e : Nat) (m : Module) : Module := m.kernel e 5 fun m r =>
  if r.phase == 0 then
    if r.lo 1 == 0 || 3 ≤ r.p 2 || bits (r.p 3) 63 47 != 0 || bits (r.p 3) 46 0 % 2048 != 0 || r.desc.chip == 131071 then
      m.kFail e St.badParam
    else m.kFix e r (r.lo 0) (r.p 2) (r.hi 1)
  else if r.phase == 1 then
    if !r.pend.isEmpty then m
    else if r.cur < r.lo 1 then
      match m.kReadN e (r.lo 0) (r.hi 0 + r.cur) r.fixed 1 [] with
      | (m, .inr st) => m.kFail e (m.gone (r.lo 0) (r.aux.getD 1 0) st)
      | (m, .inl ts) =>
        let h := (mkHdr 1 3 r.desc.chip m.chip r.desc.part 0 0 ((r.p 3 + 2048 * r.cur) % 2 ^ 47)).setOrdered true
        ((m.pushEmit e h (ts.headD [])).kFlags e false (r.aux.getD 2 0 == 1)).kStep e 1 (r.cur + 1)
    else (m.updRun e fun r => { r with fence := some 2 }).pump e
  else m.kHalt e (words64 [r.aux.getD 1 0 + r.aux.getD 2 0 * 2 ^ 32])

/-! ### CONVERT and COMPACT (R386, R387) -/

/-- CONVERT: 0 fixes the version of the source, 1 copies destination tile after destination tile. -/
def convert (e : Nat) (m : Module) : Module := m.kernel e 7 fun m r =>
  let n := bits (r.p 2) 39 0
  let fi := bits (r.p 2) 43 40
  let fo := bits (r.p 2) 47 44
  if r.phase == 0 then
    if n == 0 || 6 < fi || 6 < fo || bits (r.p 2) 49 48 == 3 || bits (r.p 2) 63 50 != 0 || bits (r.p 3) 63 32 != 0 ||
       !r.writes.contains (r.lo 1) then
      m.kFail e St.badParam
    else m.kFix e r (r.lo 0) (bits (r.p 2) 49 48) (r.lo 3)
  else
    let ei := perTile fi 0
    let eo := perTile fo 0
    if ceilDiv n eo ≤ r.cur then m.kHalt e []
    else
      let a := r.cur * eo
      let k := min eo (n - a)
      match m.kReadN e (r.lo 0) (r.hi 0 + a / ei) r.fixed ((a + k - 1) / ei - a / ei + 1) [] with
      | (m, .inr st) => m.kFail e (m.gone (r.lo 0) (r.aux.getD 1 0) st)
      | (m, .inl ts) =>
        let (b, c) : Bytes × Cnt :=
          if fi == fo then (cutTile fi k (ts.headD []), {})
          else
            let xs := (List.range eo).map fun i =>
              if i < k then cvtElem fi fo (ts.getD ((a % ei + i) / ei) []) ei ((a % ei + i) % ei) else (exInt 0, {})
            let (b, c) := storeElems fo (zeros 2048) eo 0 (xs.map fun x => some x.1)
            (b, xs.foldl (fun c x => c.add x.2) c)
        (m.kCnt e c).kStore e (r.lo 1) (r.hi 1 + r.cur) b fun m => m.kStep e 1 (r.cur + 1)

/-- The elements of a source tile whose mask bit is 1, appended to the packed number `acc` of `have_` elements. -/
def packTile (w n : Nat) (t : Nat) (mask : Nat) (acc have_ : Nat) : Nat × Nat :=
  (List.range n).foldl (fun (a : Nat × Nat) i =>
    if bitAt mask i then (a.1 + t / 2 ^ (w * i) % 2 ^ w * 2 ^ (w * a.2), a.2 + 1) else a) (acc, have_)

/-- COMPACT: source tile after source tile; t1 holds the elements packed so far of the destination tile being filled. -/
def compact (e : Nat) (m : Module) : Module := m.kernel e 6 fun m r =>
  let n := bits (r.p 3) 39 0
  let f := bits (r.p 3) 43 40
  let el := perTile f 0
  let w := 16384 / el
  if r.phase == 0 then
    if 4 < f || bits (r.p 3) 63 44 != 0 then m.kFail e St.badParam
    else (m.updRun e fun r => { r with aux := [0] }).kStep e 1 0
  else
    let kept := r.aux.headD 0
    let acc := (((m.eng e).t.getD 1 0)).toNat
    if ceilDiv n el ≤ r.cur then
      let finish (m : Module) : Module := m.kHalt e (words64 [kept])
      if kept % el == 0 then finish m
      else m.kStore e (r.lo 2) (r.hi 2 + kept / el) (leBytes 2048 acc) finish
    else
      let a := r.cur * el
      m.kRead e (r.lo 0) (r.hi 0 + r.cur) none fun m t =>
      m.kRead e (r.lo 1) (r.hi 1 + a / 16384) none fun m mk =>
        let (x, h) := packTile w (min el (n - a)) (leNat t) (leNat mk / 2 ^ (a % 16384)) acc (kept % el)
        let go (m : Module) (rest : Nat) : Module :=
          (m.updEng e fun y => { y with t := y.t.set 1 (BitVec.ofNat 16384 rest) }).updRun e fun r =>
            { r with aux := [kept / el * el + h], cur := r.cur + 1 }
        if h < el then go m x
        else m.kStore e (r.lo 2) (r.hi 2 + kept / el) (leBytes 2048 (x % 2 ^ 16384)) fun m => go m (x / 2 ^ 16384)

/-! ### The meanings -/

/-- ATTN_PARTIAL (R374). -/
def execAttnPartial (e : Nat) (s : State) : Host.Outcome State Fault Refusal := .next (s.withM (attnPartial e))

/-- ATTN_FINAL (R378). -/
def execAttnFinal (e : Nat) (s : State) : Host.Outcome State Fault Refusal := .next (s.withM (attnFinal e))

/-- UPDATE_SGDM (R381). -/
def execUpdateSgdm (e : Nat) (s : State) : Host.Outcome State Fault Refusal := .next (s.withM (updateSgdm e))

/-- UPDATE_ADAMW (R381). -/
def execUpdateAdamw (e : Nat) (s : State) : Host.Outcome State Fault Refusal := .next (s.withM (updateAdamw e))

/-- GATHER (R384). -/
def execGather (e : Nat) (s : State) : Host.Outcome State Fault Refusal := .next (s.withM (gather e))

/-- COMPACT (R387). -/
def execCompact (e : Nat) (s : State) : Host.Outcome State Fault Refusal := .next (s.withM (compact e))

/-- CONVERT (R386). -/
def execConvert (e : Nat) (s : State) : Host.Outcome State Fault Refusal := .next (s.withM (convert e))

end Sys2Proof.Machine
end

