-- ==== Sys2Proof/Machine/Time.lean ====
section
/-!
DEFINITION. Fabric time: samples from a neighbour and from PTP, steps of the FTC, states of the time block and PPS_OUT
(R407 to R425).
-/
namespace Sys2Proof.Machine

/-! ### Steps (R420, R421) -/

/-- A table's rows changed, where the table lists them. -/
def Tab.mapRows {α : Type} [Inhabited α] [DecidableEq α] (t : Tab α) (f : α → α) : Tab α :=
  t.keys.foldl (fun t k => t.upd k f) t

/-- The boundary of a periodic action last run, when the FTC steps from period `old` to period `new`: after a step forward
the action runs once for all the boundaries crossed, and after a step back not before the FTC passes its next boundary. -/
def boundaryAfter (old new last : Nat) : Nat :=
  if new < old then min last new else if old < new then max last (new - 1) else last

/-- The periodic actions at FTC multiples after a step from `a` to `b`: refills with the slots of the timing wheel, heat
halving and PPS_OUT (R421). -/
def Module.stepPeriods (m : Module) (a b : Nat) : Module :=
  let r := boundaryAfter (a / 4096) (b / 4096) m.net.refill
  let slot (x : Shaper) : Shaper := { x with slot := x.slot.map fun t => t + r - m.net.refill }
  { m with
    net := { m.net with refill := r, shapers := Tab.mapRows m.net.shapers slot }
    store := { m.store with heatAt := boundaryAfter (a / 2 ^ 32) (b / 2 ^ 32) m.store.heatAt }
    time := { m.time with second := boundaryAfter (a / 4000000000) (b / 4000000000) m.time.second } }

/-- A step of the FTC: STEPS counts, and the durations in progress keep their length, since the clock they run on does not
step (R421, log entry 42). Launch counts, WAITC counts and wake counts stand on the FTC, and so do timestamps. -/
def Module.stepFtc (m : Module) (d : Int) : Module :=
  let t := (((m.time.ftc : Int) + d) % (2 ^ 64 : Int)).toNat
  let m := m.stepPeriods m.time.ftc t
  let sum := m.time.stepSum + ((t : Int) - m.time.ftc)
  ({ m with time := { m.time with ftc := t, stepSum := sum } }).count (mgtBlk 2) 0x520

/-- STEP_NOW: STEP_UNITS is added in one step; STEP_UNITS = 0 is illegal and changes nothing (R420). -/
def stepNow (m : Module) : Module :=
  let u := m.reg (mgtBlk 2) 0x018 0
  if m.pwr.standby && u != 0 then m.stepFtc u else m

/-! ### The discipline (R414, R415) -/

/-- A number of half units as stored in whole units. -/
def halfOf (x : Int) : Int := if x % 2 == 0 then x / 2 else Int.fdiv x 2 + (if Config.halfUp x then 1 else 0)

/-- Twice the median of accepted δ, which stand in half units. -/
def median2 (l : List Int) : Int :=
  let s := (sortBy (fun x => (x + 2 ^ 80).toNat) l)
  s.getD ((s.length - 1) / 2) 0 + s.getD (s.length / 2) 0

/-- The rate correction, in ppb, after an offset of `t2` half units: the servo's, within SLEW_PPM, and slow for a negative
offset, fast for a positive one, so that the offset tends to 0 (R409, R415). -/
def Module.rate (m : Module) (t2 : Int) : Int :=
  satInt (Config.servo t2 m.time.freq) (if 0 < t2 then 1 else -m.slewLim) (if t2 < 0 then -1 else m.slewLim)

/-- An accepted offset of `t2` half units steers the FTC: the first step of ACQUIRING, the rate, OFFSET_LARGE, and the
lock (R413, R415, R420). -/
def Module.steer (m : Module) (t2 : Int) : Module :=
  let first := m.time.st == 1 && !m.time.stepped
  let m := { m with time := { m.time with offset := halfOf t2, stepped := true,
                                          offsetLarge := 8000000 < t2 || t2 < -8000000 } }
  if first && (!m.time.everLocked || 0 < t2) then
    let m := m.stepFtc (halfOf t2)
    { m with time := { m.time with good := 0, offsetLarge := false } }
  else
    let near := -40 ≤ t2 && t2 ≤ 40
    let m := { m with time := { m.time with freq := m.rate t2,
                                            good := if near then m.time.good + 1 else 0 } }
    if m.time.st == 1 && 16 ≤ m.time.good then m.timeState 2 else m

/-- A sample of the present source on a port: θ and δ of R81, and the test against the median (R414). -/
def Module.sample (m : Module) (p : Nat) (t1 t2 t3 t4 : Int) : Module :=
  let th2 := (t2 - t1) + (t3 - t4)
  let de2 := (t4 - t1) - (t3 - t2)
  let far := !m.time.deltas.isEmpty && (let d := 2 * de2 - median2 m.time.deltas; d < -128 || 128 < d)
  if far then m.count (mgtBlk 2) 0x508
  else
    let l := m.time.deltas ++ [de2]
    let m := { m with time := { m.time with deltas := l.drop (l.length - 16) } }
    (m.setPort p { m.port p with linkDelay := ofSigned 24 (halfOf de2) }).steer th2

/-- A TIME packet received on a port: what it says of the neighbour is kept (R411), TIME_RX counts it. -/
def Module.takeTime (m : Module) (p : Nat) (k : Pkt) : Module :=
  let m := m.setPort p { m.port p with timeAt := some m.ticks, timeHops := fieldBE k.pl 4 1,
                                       timeValid := bitAt (fieldBE k.pl 5 1) 0 }
  (m.count (mgtBlk 2) 0x500).reselect

/-- The whole TIME packet `pk` taken from a port's received stream: `f` goes on with one that R60 keeps, and any other counts
in LL_UNKNOWN. -/
def Module.onTime (m : Module) (p : Nat) (pk : Pkt) (f : Module → Pkt → Module) : Module :=
  if (m.link p).st < 4 then m
  else match m.takeLocal p 3 with
    | none => m
    | some (n, k) => if k != pk then m else if linkLocalOk k then f (n.takeTime p k) k else n.count (portBlk p) 0x130

/-- The timestamp of a frame number among the last 64 (R80). -/
def stampOf (l : List (Nat × Nat)) (f : Nat) : Option Nat := (l.reverse.find? fun x => x.1 == f).map (·.2)

/-- TIME_SAMPLE: a TIME packet; from the present source in ACQUIRING or LOCKED it yields a sample, where the frames that it
names in RX_FRAME and TX_FRAME are among the last 64 sent and received here, with the timestamps `t1` and `t4` (R414). -/
def timeSample (p : Nat) (pk : Pkt) (t1 t4 : Nat) (m : Module) : Module := m.onPort p fun m =>
  match stampOf (m.wire p).txFrames (fieldBE pk.pl 2 2), stampOf (m.wire p).rxFrames (fieldBE pk.pl 0 2) with
  | some a, some b =>
    if a != t1 || b != t4 then m
    else m.onTime p pk fun m k =>
      if m.time.source == some p && (m.time.st == 1 || m.time.st == 2) then
        m.sample p t1 (fieldBE k.pl 16 8) (fieldBE k.pl 8 8) t4
      else m
  | _, _ => m.onTime p pk fun m _ => m

/-- CANDIDATE_APPEARS: a TIME packet of a neighbour that is not the source (R413). -/
def candidateAppears (p : Nat) (pk : Pkt) (m : Module) : Module := m.onPort p fun m => m.onTime p pk fun m _ => m

/-- CANDIDATE_LOSS: a neighbour's TIME is 3 ms old (R411). -/
def candidateLoss (p : Nat) (m : Module) : Module := m.onPort p fun m =>
  match (m.port p).timeAt with
  | some t =>
    let m := m.pass (t + ms 3)
    (m.setPort p { m.port p with timeAt := none }).reselect
  | none => m

/-! ### PTP (R416) -/

/-- Whether a PTP message counts: PTP_EN = 1, an admitted address, in PTP_DOMAIN, over PTP_TRANSPORT. -/
def Module.ptpHears (m : Module) (addr : Bytes) (domain transport : Nat) : Bool :=
  m.pwr.standby && m.ptpEn && m.sideAllowed addr && domain == m.keep.field 0x018 9 3 && transport == m.keep.field 0x018 11 10

/-- PTP_SYNC: an exchange with the selected master, for which the module sent its Delay_Req (log entry 132). -/
def ptpSync (i : PtpIn) (m : Module) : Module :=
  if m.ptpHears i.addr i.domain i.transport && m.time.ptpMaster.isSome then
    let m := (m.emit .ptpRequest).count (mgtBlk 2) 0x518
    if m.time.source == some 256 && (m.time.st == 1 || m.time.st == 2) then m.steer (2 * i.theta) else m
  else m

/-- PTP_ANNOUNCE: the best master clock algorithm of IEEE 1588 has selected the master of an Announce. -/
def ptpAnnounce (addr : Bytes) (master : PtpAnn) (m : Module) : Module :=
  if m.ptpHears addr master.domain master.transport then
    ({ m with time := { m.time with ptpMaster := some master.master } }).reselect
  else m

/-- PTP_MASTER_LOST: the announce receipt timeout. -/
def ptpMasterLost (m : Module) : Module :=
  if m.pwr.standby then ({ m with time := { m.time with ptpMaster := none } }).reselect else m

/-! ### Timers of the states (R412, R413) -/

/-- SOURCE_SWITCH: a candidate has been better than the source for 1 s. -/
def sourceSwitch (m : Module) : Module :=
  match m.time.better with
  | some (s, t) => if m.pwr.standby && m.candidate s then (m.pass (t + ms 1000)).takeSource s else m
  | none => m

/-- HOLDOVER_EXPIRY: HOLDOVER_S without a source. -/
def holdoverExpiry (m : Module) : Module :=
  if m.pwr.standby && m.time.st == 3 then
    (m.pass (m.time.since + ms (1000 * m.reg (mgtBlk 2) 0x00C 0))).timeState 4
  else m

/-- ACQUIRE_TIMEOUT: no source within 2 s of ACQUIRING. -/
def acquireTimeout (m : Module) : Module :=
  if m.pwr.standby && m.time.st == 1 && m.time.source.isNone then (m.pass (m.time.since + ms 2000)).timeState 4 else m

/-! ### PPS_OUT (R424) -/

/-- PPS_PULSE: PPS_OUT falls 100 ms after it rose, and otherwise rises at the next second of fabric time. -/
def ppsPulse (m : Module) : Module :=
  if !m.pwr.standby || m.reg (mgtBlk 2) 0x000 3 == 0 then { m with sens := { m.sens with pps := false } }
  else if m.sens.pps then
    let m := m.pass m.time.ppsUntil
    { m with sens := { m.sens with pps := false } }
  else
    let m := m.reach ((m.time.second + 1) * 4000000000)
    { m with time := { m.time with second := m.now / 4000000000, ppsUntil := m.ticks + ms 100 }
             sens := { m.sens with pps := true } }

/-- PPS_VALID. -/
def Module.ppsValid (m : Module) : Bool := m.time.st == 2 || (m.time.st == 4 && m.rootFree)

/-! ### The meanings -/

/-- TIME_SAMPLE (R414). -/
def execTimeSample (p : Nat) (pk : Pkt) (t1 : Nat) (t4 : Nat) (s : State) : Host.Outcome State Fault Refusal := .next (s.withM (timeSample p pk t1 t4))

/-- PTP_SYNC (R416). -/
def execPtpSync (inp : PtpIn) (s : State) : Host.Outcome State Fault Refusal := .next (s.withM (ptpSync inp))

/-- PTP_ANNOUNCE (R416). -/
def execPtpAnnounce (addr : Bytes) (master : PtpAnn) (s : State) : Host.Outcome State Fault Refusal := .next (s.withM (ptpAnnounce addr master))

/-- PTP_MASTER_LOST (R416). -/
def execPtpMasterLost (s : State) : Host.Outcome State Fault Refusal := .next (s.withM (ptpMasterLost))

/-- CANDIDATE_LOSS (R411). -/
def execCandidateLoss (p : Nat) (s : State) : Host.Outcome State Fault Refusal := .next (s.withM (candidateLoss p))

/-- SOURCE_SWITCH (R412). -/
def execSourceSwitch (s : State) : Host.Outcome State Fault Refusal := .next (s.withM (sourceSwitch))

/-- HOLDOVER_EXPIRY (R413). -/
def execHoldoverExpiry (s : State) : Host.Outcome State Fault Refusal := .next (s.withM (holdoverExpiry))

/-- ACQUIRE_TIMEOUT (R413). -/
def execAcquireTimeout (s : State) : Host.Outcome State Fault Refusal := .next (s.withM (acquireTimeout))

/-- STEP_NOW (R420). -/
def execStepNow (s : State) : Host.Outcome State Fault Refusal := .next (s.withM (stepNow))

/-- PPS_PULSE (R424). -/
def execPpsPulse (s : State) : Host.Outcome State Fault Refusal := .next (s.withM (ppsPulse))

/-- CANDIDATE_APPEARS (R413). -/
def execCandidateAppears (p : Nat) (pk : Pkt) (s : State) : Host.Outcome State Fault Refusal := .next (s.withM (candidateAppears p pk))

end Sys2Proof.Machine
end

