-- ==== Sys2Proof/Machine/Faults.lean ====
section
/-!
DEFINITION. Fault collection and reaction: raises, the escalation steps with isolation, die fence and hold, clearing
and closing the record (R453 to R471), and what a lifted fence restores (R503).
-/
namespace Sys2Proof.Machine

/-! ### Isolation (R460) -/

/-- MCAST_DEST_FENCED of a port (R265). -/
def Module.mcFenceEvent (m : Module) (p : Nat) : Module :=
  let n := (m.net.mcast.cells.filter fun c => bitAt c.2.word0 16 && bitAt c.2.ports p).length
  m.event 0x0502 (beBytes 1 p ++ zeros 3 ++ beBytes 4 n ++ zeros 8 ++ beBytes 8 m.now)

/-- A port isolated: its link goes to DOWN and stays there. A copy that it has begun to send is finished first (R264), while
the receiving side ends at once (DESIGN CHOICE, log entry 99). -/
def Module.isolatePort (m : Module) (p : Nat) : Module :=
  let m := if (m.wire p).sending.isSome && (m.link p).st == 6 then
      let m := m.inputLost p
      { m with net := { m.net with admitted := setBit m.net.admitted p false } }
    else m.enterDown p
  m.setLink p { m.link p with isolated := true }

/-- Ports isolated, and their members and multicast copies fenced. -/
def Module.isolatePorts (m : Module) (ports : List Nat) : Module :=
  let new := ports.filter fun p => p < 256 && !bitAt m.flt.ports p
  let m := new.foldl (fun (m : Module) p =>
    let m := { m with flt := { m.flt with ports := setBit m.flt.ports p true } }
    let m := m.setDie (p / 32) { m.die (p / 32) with mcFenced := setBit (m.die (p / 32)).mcFenced (p % 32) true }
    (m.isolatePort p).mcFenceEvent p) m
  m.fenceMembers new

/-- Engines isolated: their runs end with INTERNAL. -/
def Module.isolateEngines (m : Module) (l : List Nat) : Module :=
  (l.filter fun e => e < 128 && !bitAt m.flt.engines e).foldl (fun (m : Module) e =>
    ({ m with flt := { m.flt with engines := setBit m.flt.engines e true } }).killRun e St.internal) m

/-- An abort recorded at a tracker entry: the transition, and its effect by KIND (R449). -/
def Module.recordAbort (m : Module) (h : Nat) : Module :=
  match m.trk.find h with
  | none => m
  | some e =>
    if e.st != 1 then m
    else
      let m := m.requestAbort h
      if e.kind == 1 then m.abortCtx e.key else if e.kind == 2 then m.abortRun h else m

/-! ### Die fence (R461) -/

/-- The packets in a fenced die's buffer that have not begun to leave are discarded. One that is parked in the reorder unit of
a source that moves (`moved`), or queued early for want of a window there, is still counted by the new unit. One that has
begun to leave and is still arriving is completed with zero bytes and BAD_REASON 2 (R264). -/
def Module.discardBuffer (m : Module) (d : Nat) (moved : List Nat) : Module :=
  let l := (m.net.pkts.filter fun b => b.die == d).map (·.id)
  l.foldl (fun (m : Module) id =>
    match m.bp id with
    | none => m
    | some b =>
      if !b.copies.any (·.begun) then
        let m := m.dropUnbegun id
        let s := b.pkt.h.src
        let x := m.src s
        let early : List Park :=
          if moved.contains s && (m.die d).early.contains (.buf id) then [{ seq := b.pkt.h.seq, pkt := b.pkt }] else []
        let park := if moved.contains s then
            x.parked.map fun (k : Park) => if k.id == some id then { k with id := none } else k
          else x.parked.filter fun k => k.id != some id
        let m := if b.parked || !early.isEmpty then m.setSrc s { x with parked := park ++ early } else m
        let m := (m.updBp id fun b => { b with here := false, parked := false, mcast := false, bad := true }).freeBp id
        m.count (swBlk d 4) 0x138
      else if b.whole then m
      else (m.dropUnbegun id).updBp id fun b =>
        { b with bad := true, here := false, mcast := false, mark := some (b.mark.getD 2) }) m

/-- Sources whose reorder unit has moved start in UNSYNC at the new one, which counts what is discarded with the old. -/
def Module.moveSources (m : Module) (l : List Nat) : Module :=
  l.foldl (fun (m : Module) s =>
    let (m, n) := m.dropSource s
    let m := m.count (swBlk (m.reDie s) 9) 0x118 n
    let m := if n == 0 then m else m.writeError s St.chunkLost n
    m.setSrc s { m.src s with sync := false, e := 0 }) m

/-- Ports of a die: a switch die's 32, an optical engine's 16. -/
def portsOfDie (d : Nat) : List Nat :=
  if d < 8 then diePorts d else if d < 24 then (List.range 16).map (16 * (d - 8) + ·) else []

/-- One die fenced; LS dies are spread by the caller. -/
def Module.fenceOne (m : Module) (d : Nat) : Module :=
  if m.dieFenced d then m
  else if d < 8 then
    let m := m.fenceColl d
    let moved := m.ord.srcs.keys.filter fun s => m.reDie s == d
    let m := { m with flt := { m.flt with fenced := setBit m.flt.fenced d true } }
    let m := m.discardBuffer d moved
    let m := m.moveSources moved
    let m := m.isolatePorts (portsOfDie d)
    m.isolateEngines ((List.range 16).map (16 * d + ·))
  else ({ m with flt := { m.flt with fenced := setBit m.flt.fenced d true } }).isolatePorts (portsOfDie d)

/-- A die fence; an LS die's fence takes the eight optical engines that it feeds. -/
def Module.fenceDie (m : Module) (d : Nat) : Module :=
  if d == 28 || d == 29 then
    ((List.range 8).map fun k => 8 + 8 * (d - 28) + k).foldl (fun m k => m.fenceOne k) (m.fenceOne d)
  else m.fenceOne d

/-! ### Hold (R462) -/

/-- Module hold. -/
def Module.hold (m : Module) : Module :=
  if m.pwr.st == 4 then m
  else
    let m := ({ m with pwr := { m.pwr with st := 4 }, flt := { m.flt with held := true } }).count (mgtBlk 3) 0x410
    let m := (List.range 256).foldl (fun m p => m.enterDown p) m
    let m := (m.trk.ents.cells.filter fun c => c.2.st == 1).foldl (fun m c => m.recordAbort c.2.handle) m
    let m := (List.range 128).foldl (fun m e => m.killRun e St.internal) m
    { m with pwr := { m.pwr with selfRefresh := true } }

/-! ### Escalation (R458, R459) -/

/-- What a step does about one instance. -/
inductive Esc
  | nothing | port (p : Nat) | engine (e : Nat) | entry (h : Nat) | die (d : Nat) | hold
deriving DecidableEq, Repr

/-- A die fence of HUB or MGT holds the module where the instance is Fatal. -/
def fenceEsc (d sev : Nat) : Esc := if 30 ≤ d then (if sev == 3 then .hold else .nothing) else .die d

/-- *Escalation steps* for an instance at a step. -/
def escOf (i : Inst) (step : Nat) : Esc :=
  if i.injected || i.sev < 2 then .nothing
  else if resOf i.src == .module then (if i.sev == 3 then .hold else .nothing)
  else if 3 ≤ step && i.sev == 3 then .hold
  else if 2 ≤ step then fenceEsc (i.blk / 256) i.sev
  else match resOf i.src with
    | .port => .port i.detail
    | .engine => .engine i.detail
    | .context => .entry i.detail
    | _ => fenceEsc (i.blk / 256) i.sev

/-- The same for a die of DIES_UNLISTED. -/
def escDie (d sev step : Nat) : Esc :=
  if sev < 2 then .nothing else if 3 ≤ step && sev == 3 then .hold else fenceEsc d sev

/-- Whether an action would act on something new (R459). -/
def Module.escNew (m : Module) (x : Esc) : Bool :=
  match x with
  | .nothing => false
  | .port p => p < 256 && !bitAt m.flt.ports p
  | .engine e => e < 128 && !bitAt m.flt.engines e
  | .entry h => (m.trk.find h).any fun e => e.st == 1
  | .die d => !m.dieFenced d
  | .hold => m.pwr.st != 4

/-- The action. -/
def Module.escDo (m : Module) (x : Esc) : Module :=
  match x with
  | .nothing => m
  | .port p => m.isolatePorts [p]
  | .engine e => m.isolateEngines [e]
  | .entry h => m.recordAbort h
  | .die d => m.fenceDie d
  | .hold => m.hold

/-- The source of the highest severity among those acted on, the lowest on a tie; FIRST_SOURCE where there is none. -/
def concerned (l : List (Nat × Nat)) (first : Nat) : Nat :=
  match sortBy (fun x => (3 - x.1) * 64 + x.2) l with
  | x :: _ => x.2
  | [] => first

/-- Whether an action isolates the instance's own resource (R460). -/
def Esc.isolates (x : Esc) : Bool :=
  match x with
  | .port _ | .engine _ | .entry _ => true
  | .nothing | .die _ | .hold => false

/-- One escalation step of the open record; at the ceiling STEP stays, and the step is applied to what has merged since.
What its actions raise merges after it; a merge at the ceiling may start the timer again (R458). The step acts on every
resource that it finds not yet acted on, also where one action covers several (R467). -/
def Module.escalate (m : Module) (r : Rec) : Module :=
  let top := if r.sev == 3 then 3 else 2
  let step := min (r.step + 1) top
  let insts := r.insts.map fun (i : Inst) => { i with isolated := i.isolated || (escOf i step).isolates }
  let acts := r.insts.map (fun i => (escOf i step, i.sev, i.src)) ++
    r.unlisted.map fun u => (escDie u.1 u.2.2 step, u.2.2, u.2.1)
  let m := { m with flt := { m.flt with cur := some { r with step := step, deadline := 0, insts := insts } } }
  let done := (acts.filter fun x => m.escNew x.1).map fun x => x.2
  let m := acts.foldl (fun (m : Module) x => if m.escNew x.1 then m.escDo x.1 else m) m
  let m := m.count (mgtBlk 3) 0x408
  let r := m.flt.cur.getD r
  let r := { r with
    step := step, fenced := m.flt.fenced
    deadline := if step < top then (m.startGrace r).deadline else r.deadline }
  let m := ({ m with flt := { m.flt with cur := some r } }).writeHistory r 0
  m.faultEvent 3 (concerned done r.first) r m.flt.active

/-- GRACE_EXPIRY: the timer of the open record expires; in Lull the module wakes first, and no step is taken while the
main rails are down (R463). -/
def graceExpiry (m : Module) : Module :=
  match m.flt.cur with
  | none => m
  | some r =>
    if r.deadline == 0 || r.acked || !m.pwr.main then m
    else
      let m := m.pass r.deadline
      if m.pwr.lull != 0 then m.wake 3 else m.escalate r

/-! ### Raises from outside (R453) -/

/-- An uncorrectable error found in a buffered packet: it is bad with BAD_REASON 2 (R125, R135), and no longer parked. -/
def Module.bufferError (m : Module) (b : BPkt) : Module :=
  let s := b.pkt.h.src
  let m := if b.parked then
      m.setSrc s { m.src s with parked := (m.src s).parked.filter fun k => k.id != some b.id }
    else m
  m.markBad b.id 2

/-- The transfer that is first on a HUB channel of a die: a copy on its way to another die's port, else the oldest packet that
crosses the HUB to a local target (R26, R124). -/
def Module.hubFirst (m : Module) (d ch : Nat) : Option BPkt :=
  match ((m.die d).hubOut.find? fun x => x.1 == ch).bind fun x => m.bp x.2.1 with
  | some b => some b
  | none => ((m.die d).localQ.filterMap m.bp).find? fun b => b.whole && m.crosses b && b.hubChan == ch

/-- HUB_CHANNEL: DETAIL names the channel as 32 × die + channel (DESIGN CHOICE, log entry 100); the error is found on the
transfer that is first on it (R125). -/
def Module.hubError (m : Module) (detail : Nat) : Module :=
  match m.hubFirst (detail / 32 % 8) (detail % 32) with
  | some b => m.bufferError b
  | none => m

/-- BUFFER_ECC: DETAIL names the cell of the reporting die's buffer (DESIGN CHOICE, log entry 100). The packet that holds
it is bad, and the cell is retired (R135). -/
def Module.cellError (m : Module) (d c : Nat) : Module :=
  match m.net.pkts.find? fun b => b.die == d && b.chain.contains c with
  | some b =>
    let x := m.die d
    (m.setDie d { x with retired := if x.retired.contains c then x.retired else c :: x.retired }).bufferError b
  | none => m

/-- FAULT_RAISE: an event source is raised, or the condition of a level source starts; a transfer or a cell found bad takes
its packet with it. -/
def faultRaise (src blk detail : Nat) (m : Module) : Module :=
  if 56 ≤ src then m
  else if isLevel src then
    let m := if src == 40 then { m with sens := { m.sens with leakBoard := true } } else m
    (m.level src (if src == 40 then mgtBlk 6 else blk) detail true).pins
  else
    let m := if src == 10 then m.hubError detail else if src == 11 then m.cellError (blk / 256) detail else m
    m.raise src blk detail

/-- LEVEL_SOURCE_INACTIVE: a level source's condition ends. For LEAK the operand says above bit 12 whose sensing ends: 1 the
module's own, 2 the board's, else both; LEAK ends with LEAK_N high (R515; DESIGN CHOICE, log entry 123: the row has no
operand for it). -/
def levelSourceInactive (src blk : Nat) (m : Module) : Module :=
  if src == 40 then
    let which := blk / 8192
    let m := { m with sens := { m.sens with leakOwn := m.sens.leakOwn && which == 2,
                                            leakBoard := m.sens.leakBoard && which == 1 } }
    (if m.sens.leakOwn || m.sens.leakBoard then m else m.level 40 (mgtBlk 6) 0 false).pins
  else (m.level src blk 0 false).pins

/-! ### Clearing and closing (R464 to R466, R503) -/

/-- A switch die's fence is lifted: RECOVER runs, and the sources of its reorder unit return in UNSYNC. -/
def Module.liftDie (m : Module) (d : Nat) : Module :=
  if d < 8 then
    let before := m.ord.srcs.keys.map fun s => (s, m.reDie s)
    let m := { m with flt := { m.flt with fenced := setBit m.flt.fenced d false } }
    let m := m.moveSources ((before.filter fun x => x.2 != m.reDie x.1).map (·.1))
    if m.pwr.main then m.rebuildPool d else m
  else { m with flt := { m.flt with fenced := setBit m.flt.fenced d false } }

/-- Every isolation and fence lifted; the ports train from DOWN. -/
def Module.liftAll (m : Module) : Module :=
  let ports := onesOf m.flt.ports 256
  let dies := onesOf m.flt.fenced 32
  let m := { m with flt := { m.flt with ports := 0, engines := 0 } }
  let m := ports.foldl (fun (m : Module) p =>
    let m := m.setDie (p / 32) { m.die (p / 32) with mcFenced := setBit (m.die (p / 32)).mcFenced (p % 32) false }
    m.setLink p { m.link p with isolated := false, since := m.ticks }) m
  dies.foldl (fun m d => m.liftDie d) m

/-- The open record closes. -/
def Module.closeRecord (m : Module) : Module :=
  match m.flt.cur with
  | none => m
  | some r =>
    let r := { r with isOpen := false, deadline := 0 }
    let m := (m.writeHistory r m.now).liftAll
    ({ m with flt := { m.flt with cur := none, last := some r } }).faultEvent 4 0xFF r m.flt.active

/-- FAULT_CLEAR on the open record, with the sources that asserted again at once. -/
def Module.faultClear (m : Module) (bitmap : Nat) : Module × Nat :=
  match m.flt.cur with
  | none => (m, 0)
  | some r =>
    let act := m.flt.active
    let set := onesOf bitmap 56
    let again := set.filter (bitAt act)
    let src := set.foldl (fun a s => setBit a s (bitAt act s)) r.sources
    let r := { r with acked := true, deadline := 0, sources := src }
    let m := { m with flt := { m.flt with cur := some r } }
    (if src == 0 then m.closeRecord else m, again.foldl (fun a s => a + 2 ^ s) 0)

/-! ### The meanings -/

/-- FAULT_RAISE (R455). -/
def execFaultRaise (src : Nat) (blk : Nat) (detail : Nat) (s : State) : Host.Outcome State Fault Refusal := .next (s.withM (faultRaise src blk detail))

/-- GRACE_EXPIRY (R459). -/
def execGraceExpiry (s : State) : Host.Outcome State Fault Refusal := .next (s.withM (graceExpiry))

/-- LEVEL_SOURCE_INACTIVE (R453). -/
def execLevelSourceInactive (src : Nat) (blk : Nat) (s : State) : Host.Outcome State Fault Refusal := .next (s.withM (levelSourceInactive src blk))

end Sys2Proof.Machine
end

