-- ==== Sys2Proof/Machine/Power.lean ====
section
/-!
DEFINITION. Power domains, start-up, resets, the carrier's sensors, the pace loop and Lull (R34 to R45, R304, R305,
R492 to R532).
-/
namespace Sys2Proof.Machine

/-! ### Memory training (R304, R305) -/

/-- The sockets in the order of *DDR5 population*. -/
def ddrOrder : List Nat := [0, 8, 4, 12, 2, 6, 10, 14, 1, 3, 5, 7, 9, 11, 13, 15]

/-- Whether the stored values of a unit may be used (R305): the keep file is valid, the identity read from the unit is the
one stored, and the check pattern passes. FORCE_TRAIN makes a cold start train in full. -/
def Module.mayUseKept (m : Module) (i : StartIn) (cold : Bool) (u : Nat) : Bool :=
  let id := m.keep.read (0x800 + 32 * u) 8
  m.keep.valid && !(cold && m.keep.field 0x010 0 0 == 1) && !allZero id && id == padTo 8 ((i.training.getD u []).take 8) &&
  bitAt i.keptOk u

/-- A unit trained, from the kept values or in full; full training stores its values in the keep file. -/
def Module.trainUnit (m : Module) (i : StartIn) (cold : Bool) (u src : Nat) (x : MUnit) : Module :=
  let ok := bitAt i.trainOk u
  let kept := ok && m.mayUseKept i cold u
  let m := if ok && !kept then { m with keep := m.keep.setBytes (0x800 + 32 * u) (padTo 32 (i.training.getD u [])) } else m
  let y := { x with train := if ok then 2 else 3, fromKept := kept }
  let m := { m with store := { m.store with units := m.store.units.put u y } }
  if ok then m else m.raise src (memBlk u) 0

/-- Capacity and rate of the RDIMM in a socket. -/
def dimmOf (i : StartIn) (s : Nat) : Nat × Nat := i.dimms.getD s (0, 0)

/-- Whether an RDIMM counts as not trained whatever its position (R304). -/
def dimmOut (i : StartIn) (s : Nat) : Bool :=
  let (g, v) := dimmOf i s
  g != 0 && (!([32, 64, 96, 128, 192, 256].contains g) || g != (dimmOf i 0).1 || v < 5600)

/-- The DDR5 channels trained, and the population settled. -/
def Module.populate (m : Module) (i : StartIn) (cold : Bool) : Module :=
  let m := (List.range 16).foldl (fun (m : Module) s =>
    let (g, _) := dimmOf i s
    let x : MUnit := { (m.store.units.get (16 + s)) with populated := g != 0, gib := g, inUse := false, speed := 0,
                                                         train := 0, fromKept := false }
    if g == 0 then { m with store := { m.store with units := m.store.units.put (16 + s) x } }
    else if dimmOut i s then
      ({ m with store := { m.store with units := m.store.units.put (16 + s) x } }).raise 33 (memBlk (16 + s)) 0
    else m.trainUnit i cold (16 + s) 32 x) m
  let good := ddrOrder.takeWhile fun s => (m.store.units.get (16 + s)).train == 2
  let p := ([16, 8, 4, 2, 1].find? fun p => p ≤ good.length).getD 0
  let used := ddrOrder.take p
  let rate := used.foldl (fun a s => min a (dimmOf i s).2) 8000
  let m := (ddrOrder.drop p).foldl (fun (m : Module) s =>
    if (dimmOf i s).1 != 0 && !dimmOut i s then m.raise 33 (memBlk (16 + s)) 0 else m) m
  let units := used.foldl (fun (t : Tab MUnit) s => t.upd (16 + s) fun x => { x with inUse := true, speed := rate }) m.store.units
  { m with store := { m.store with units := units, chans := used.map (16 + ·) } }

/-- Self-refresh left after RESET kind 1 (R499): a stack that fails raises HBM_TRAIN; a channel that fails is left out
of use, and every tile that lies on it is poisoned. -/
def Module.leaveRefresh (m : Module) (i : StartIn) : Module :=
  let m := (List.range 16).foldl (fun (m : Module) u =>
    if bitAt i.trainOk u then m
    else
      let m := { m with store := { m.store with units := m.store.units.upd u fun x => { x with train := 3 } } }
      m.raise 30 (memBlk u) 0) m
  m.store.chans.foldl (fun (m : Module) u =>
    if bitAt i.trainOk u then m
    else
      let exts := (m.store.used.keys.filter fun k => k / 2 ^ 20 == u).map (· % 2 ^ 20)
      let bad := exts.foldl (fun (t : Tab Bool) e =>
        (List.range 1024).foldl (fun (t : Tab Bool) k => t.put (tileKey (u, e) k) true) t) m.store.poisoned
      let units := m.store.units.upd u fun x => { x with train := 3, inUse := false }
      ({ m with store := { m.store with units := units, poisoned := bad } }).raise 32 (memBlk u) 0) m

/-! ### Bringing the main domain up (*Cold start* from step 3, *Warm reset* from step 3) -/

/-- How the main domain comes up: cold, after RESET kind 0, after RESET kind 1. -/
inductive Up
  | cold | warm | kept
deriving DecidableEq, Repr

/-- Steps 3 to 9: the rails rise, the supervisors and the kernels load, the memories train, the buffers' self-test
begins in bitmap mode; the ports then train from DOWN (R494, R496, R497). The shapers' and policers' refills go on at the next
multiple of 4,096 of the FTC (R184). -/
def Module.startMain (m : Module) (i : StartIn) (up : Up) : Module :=
  let m := { m with pwr := { m.pwr with main := true, st := 1, upAt := m.ticks, railMv := List.replicate 9 (if up == Up.cold then 750 else 620),
                                        supervisors := i.supervisors, kernels := true, trained := false,
                                        selfRefresh := false }
                    net := { m.net with refill := m.now / 4096 } }
  let m := if i.supervisors then m else (m.raise 47 (mgtBlk 1) 0).raise 54 (mgtBlk 1) 0
  let m := (List.range 8).foldl (fun (m : Module) d =>
    let x := m.die d
    let x := { x with mode := 0, retired := if up == Up.cold then i.badCells.getD d [] else x.retired, small := [],
                      medium := [], large := [] }
    m.setDie d { x with bitmap := x.bitmapBut [] }) m
  let m := match up with
    | .kept => m.leaveRefresh i
    | _ =>
      let m := (List.range 16).foldl (fun (m : Module) u => m.trainUnit i (up == Up.cold) u 30 (m.store.units.get u)) m
      m.populate i (up == Up.cold)
  let ok := (List.range 16).all fun u => (m.store.units.get u).train == 2
  let m := { m with pwr := { m.pwr with trained := ok }, kern := m.kern.builtins }
  let m := (onesOf m.flt.ports 256).foldl (fun (m : Module) p =>
    let m := m.setDie (p / 32) { m.die (p / 32) with mcFenced := setBit (m.die (p / 32)).mcFenced (p % 32) true }
    m.setLink p { m.link p with isolated := true }) m
  m.pins

/-! ### What is lost (R498, R500, R518) -/

/-- Agents whose RW and KP fields RESET kind 1 restores: 0x05, 0x06 and 0x0A of each switch die. -/
def fwdBlk (b : Nat) : Bool := b / 256 < 8 && (b % 256 == 5 || b % 256 == 6 || b % 256 == 10)

/-- Whether the field of a register key is a counter. -/
def keyCounts (k : Nat) : Bool :=
  match fieldAt (k / 2 ^ 32) (k % 2 ^ 32 / 64) (k % 64) with
  | some (f, _) => f.acc == .wraps || f.acc == .saturates
  | none => false

/-- Tables of the packet path as RESET kind 1 restores them: an enabled shaper or policer returns with full tokens, at the
rates that its saved registers hold (R192, R500). -/
def Module.restoredNet (m : Module) : Net :=
  let n := m.net
  let sh (s : Nat) : Shaper :=
    let r (o : Nat) : Nat := m.reg (swBlk (s / 2048) 6) (0x10000 + 16 * (s % 2048) + o) 0
    { n.shapers.get s with incr := r 4, burst := r 8, tokens := 16 * r 8, slot := none, parked := false }
  let po (s : Nat) : Policer :=
    let r (o : Nat) : Nat := m.reg (swBlk (s / 2048) 6) (0x18000 + 32 * (s % 2048) + o) 0
    { n.policers.get s with cir := r 4, pir := r 8, cbs := r 0xC, pbs := r 0x10, tc := 16 * r 0xC, tp := 16 * r 0x10 }
  { route := n.route, eddySize := n.eddySize, eddyChip := n.eddyChip, mcast := n.mcast
    pins := Tab.mapRows n.pins fun l => l.map fun (e : Pin) => { e with broken := false }
    shapers := (n.shapers.keys.filter fun s => (n.shapers.get s).on).foldl (fun t s => t.put s (sh s)) {}
    policers := (n.policers.keys.filter fun s => (n.policers.get s).on).foldl (fun t s => t.put s (po s)) {} }

/-- The store as RESET kind 1 keeps it: runs' claims and open jobs end, what lay in the fabric reserve is cleared. -/
def Store.refreshed (t : Store) : Store :=
  { t with objs := Tab.mapRows t.objs fun (o : Obj) => { o with claims := [], job := none, dig := none }
           poisoned := t.poisoned.keep fun k _ => k < 2 ^ 48
           damaged := t.damaged.keep fun k _ => k < 2 ^ 48
           werr := {} }

/-- The store after RESET kind 0: objects are freed, what a migration had taken with them, and the generation of each index
rises (R309); extents retired since cold start stay retired. -/
def Store.freed (t : Store) : Store :=
  let owned := t.objs.cells.flatMap fun c => c.2.exts ++ c.2.destExts
  { used := t.used.keep fun k _ => !(owned.any fun e => extKey e == k)
    gens := (t.objs.cells.filter fun c => c.2.handle != 0).foldl (fun (g : Tab Nat) c =>
      g.put c.1 (nextGen (c.2.handle / 2 ^ 20))) t.gens
    resOut := t.resOut
    units := Tab.mapRows t.units fun (x : MUnit) => ({ retired := x.retired } : MUnit) }

/-- The state of the main domain lost. -/
def Module.loseMain (m : Module) (up : Up) : Module :=
  { m with
    ports := Tab.mapRows m.ports fun (x : Port) => ({ linkDelay := x.linkDelay } : Port)
    dies := if up == .cold then {} else Tab.mapRows m.dies fun (x : Die) => ({ retired := x.retired } : Die)
    net := { (if up == .kept then m.restoredNet else {}) with refill := m.now / 4096 }
    mem := if up == .kept then m.mem.keep fun a _ => 2 ^ 48 ≤ a else {}
    store := { (match up with | .cold => ({} : Store) | .warm => m.store.freed | .kept => m.store.refreshed) with
               heatAt := if up == .kept then m.store.heatAt else m.now / 2 ^ 32 }
    sens := { m.sens with lanes := {}, stackC := [] }
    trk := {}, ord := {}, coll := {}, engs := {}, kern := {} }

/-- Registers after a reset of kind 0, 1 or 3: RAISED and the time block's outlast kinds 0 and 1; the saved settings of
the switch dies outlast kind 1. -/
def Module.resetRegs (m : Module) (up : Up) : Module :=
  { m with regs := m.regs.keep fun k _ =>
      let b := k / 2 ^ 32
      let o := k % 2 ^ 32 / 64
      up != .cold && ((b == mgtBlk 3 && 0x200 ≤ o && o < 0x400) || b == mgtBlk 2 ||
        (up == .kept && fwdBlk b && !keyCounts k)) }

/-- ADMIT_AUTO cleared on every port: at every reset, a port reset too, and after a brownout (R502, R518; DEDUCED, log entry
109: *What a reset keeps* keeps agent 0x05 at a port reset). -/
def Module.holdAdmit (m : Module) : Module :=
  if m.keep.field 0x010 1 1 == 1 then (List.range 8).foldl (fun m d => m.setReg (swBlk d 5) 0x000 0 0) m else m

/-- Whether the condition of an active level source outlasts the main domain: those of the standby domain, but for
CAP_UNREACHABLE, whose throttle levels are gone (R43). -/
def outlasts (p : Nat × Nat) : Bool := standbySource p.1 && p.1 != 43

/-- Level sources whose condition still holds are raised again (R466). -/
def Module.reraise (m : Module) : Module :=
  let l := m.flt.levels.filter outlasts
  let m := { m with flt := { m.flt with levels := [] } }
  l.foldl (fun m p => m.level p.1 p.2 0 true) m

/-- Sensor values at their reset values until they are sampled again; pins, leak and link state are as they are (R531). -/
def Sensors.unsampled (x : Sensors) : Sensors :=
  { x with vin := 0, iin := 0, inlet := 0, outlet := 0, flow := 0, dp := 0, batMv := 0 }

/-- The Vane controller and the security block start afresh; sensors are to be sampled again (R489, R490, R498, R531). -/
def Module.restartVane (m : Module) : Module :=
  { m with vane := {}, sens := m.sens.unsampled, sec := { m.sec with testMode := false, auditSum := zeros 32, auditCount := 0, auditSince := m.now } }

/-- The power state after the main domain has gone: the Lull controller's, of the standby domain, stays (R508, R518). -/
def Pwr.down (x : Pwr) : Pwr :=
  { standby := x.standby, booted := x.booted, hwTrip := x.hwTrip, inputOk := x.inputOk, activeAt := x.activeAt,
    wakeCause := x.wakeCause, wakeUsed := x.wakeUsed }

/-- The power state as a reset of kind 0, 1 or 3 leaves it. -/
def Pwr.afresh (x : Pwr) (now : Nat) : Pwr :=
  { x.down with hwTrip := false, booted := false, activeAt := now, wakeCause := 0, wakeUsed := false }

/-- Every port goes DOWN. -/
def Module.portsDown (m : Module) : Module := (List.range 256).foldl (fun m p => m.enterDown p) m

/-- RESET of kind 0 or 1, after its reply and the close of the record (R466, R497, R498, R500, R502). Kind 1 without store memory in place acts as kind 0
(R524). With the main domain off, the module goes on from step 3 of *Cold start* (R495, R524). -/
def Module.warmReset (m : Module) (i : StartIn) (kept : Bool) : Module :=
  let up := if kept && m.pwr.main then Up.kept else Up.warm
  let start := if m.pwr.main then up else Up.cold
  let m := m.portsDown
  let m := if up == Up.kept then m.settleMoves else m
  let m := ((m.loseMain up).resetRegs up).restartVane
  let m := { m with pwr := m.pwr.afresh m.ticks
                    flt := { m.flt with held := false } }
  let m := (m.boot i.bankA i.bankB).holdAdmit.reraise
  let m := if m.sec.recovery || !m.pwr.inputOk then m else m.startMain i start
  m.reselect.pins

/-- Boot and, unless MAIN_HOLD stops it, the recovery loader runs, the input is too low or the hardware trip holds, the main
domain (steps 2 to 9 of *Cold start*; R495, R517, R524). -/
def Module.coldBoot (m : Module) (i : StartIn) : Module :=
  let m := (m.boot i.bankA i.bankB).holdAdmit
  let m := if m.time.st == 0 then m.timeState 1 else m
  let m := if m.sec.recovery || !m.pwr.inputOk || m.pwr.hwTrip || m.keep.field 0x010 2 2 == 1 then m else m.startMain i .cold
  m.reselect.pins

/-- RESET of kind 3, after its reply and the close of the record (R466, R496). -/
def Module.coldReset (m : Module) (i : StartIn) : Module :=
  let m := m.portsDown
  let m := ((m.loseMain .cold).resetRegs .cold).restartVane
  let m := { m with
    ports := {}, time := { ftc := m.time.ftc, stepSum := m.time.stepSum, everLocked := m.time.everLocked }
    sens := { m.sens with pps := false }
    flt := { levels := m.flt.levels.filter fun p => p.1 != 46 }
    pwr := m.pwr.afresh m.ticks }
  m.reraise.coldBoot i

/-- The main domain off: a brownout or the hardware trip (R518, R524). What its owners owned is unowned again. -/
def Module.mainOff (m : Module) : Module :=
  let m := m.loseMain .cold
  let m := m.resetBlocks fun b => b / 256 < 31
  let owners := m.vane.owners.keep fun k _ =>
    !((1 ≤ k / 2 ^ 24 && k / 2 ^ 24 ≤ 0x0E) || (k / 2 ^ 24 == 0x12 && k % 2 ^ 24 / 256 < 31))
  let m := { m with
    pwr := { m.pwr.down with railMv := List.replicate 9 620 }
    flt := { m.flt with levels := m.flt.levels.filter outlasts }
    vane := { m.vane with owners := owners } }
  m.holdAdmit.reselect.pins

/-! ### The domains' rows -/

/-- The level sources of the board as they are found at a start: SIDEBAND_LINK is active while the port has no link, LEAK while
the board holds LEAK_N low (R515, R527). -/
def Module.boardLevels (m : Module) : Module :=
  ((m.level 52 (mgtBlk 4) 0 (!m.sens.sideLink)).level 40 (mgtBlk 6) 0 (m.sens.leakBoard || m.sens.leakOwn)).pins

/-- STANDBY_POWER_ON: the standby domain comes up, the keep file is checked (R496, R510, R517). The main domain waits for 40 V. -/
def standbyPowerOn (flagGood crcGood : Bool) (m : Module) : Module :=
  if m.pwr.standby then m
  else
    let m := { m with pwr := { m.pwr with standby := true, inputOk := false } }
    let k := { m.keep with battGood := flagGood }
    let m := if flagGood && crcGood then { m with keep := { k with flag := true } }
      else ({ m with keep := k.invalidate }).raise 45 (mgtBlk 5) 0
    m.boardLevels

/-- Whether an input voltage lets the main domain start: at or above 40 V, and not in overvoltage (R517). -/
def inputStarts (mv : Nat) : Bool := 40000 ≤ mv && mv ≤ 63000

/-- COLD_START: from step 2, once after the standby domain has come up: the seed of the identity is reconstructed, and the
main domain starts if the input has reached 40 V (R474, R475, R517). -/
def coldStart (i : StartIn) (m : Module) : Module :=
  if !m.pwr.standby || m.pwr.booted then m
  else
    let ok := seedAccepted i.seed i.check
    let m := { m with sec := { m.sec with identityOk := ok, seed := if ok then i.seed else [], auditSum := zeros 32 }
                      pwr := { m.pwr with inputOk := m.pwr.inputOk || inputStarts i.vinMv } }
    let m := if ok then m else m.raise 48 (mgtBlk 1) 0
    m.boardLevels.coldBoot i

/-- STANDBY_POWER_OFF: the loss of the 48 V feed: the keep file, the flash and the board's own sensors stay. -/
def standbyPowerOff (m : Module) : Module :=
  if !m.pwr.standby then m
  else
    let sec : Sec := { banks := m.sec.banks, slots := m.sec.slots }
    { ({} : Module) with
      pwr := { ({} : Pwr) with standby := false }, keep := m.keep, sec := sec
      sens := { ({} : Sensors) with leakBoard := m.sens.leakBoard, leakLow := m.sens.leakBoard }
      out := m.out, fresh := m.fresh }

/-- BROWNOUT (R518). -/
def brownout (m : Module) : Module :=
  if !m.pwr.standby then m
  else
    let m := { m with pwr := { m.pwr with inputOk := false } }
    if m.pwr.main then m.mainOff else m

/-- INPUT_RESTORED: on from step 3, unless MAIN_HOLD is set; a hardware trip waits for a RESET (R518, R524). A hold goes on,
since only a RESET ends it (R462). -/
def inputRestored (i : StartIn) (m : Module) : Module :=
  if !m.pwr.standby || m.pwr.inputOk then m
  else
    let m := { m with pwr := { m.pwr with inputOk := true } }
    if m.pwr.main || !m.pwr.booted || m.pwr.hwTrip || m.sec.recovery || m.keep.field 0x010 2 2 == 1 then m
    else
      let m := m.startMain i .cold
      if m.flt.held then { m with pwr := { m.pwr with st := 4, selfRefresh := true } } else m

/-- HARDWARE_TRIP (R524). -/
def hardwareTrip (m : Module) : Module :=
  if !m.pwr.standby || m.pwr.hwTrip then m
  else
    let m := if m.pwr.main then m.mainOff else m
    (({ m with pwr := { m.pwr with hwTrip := true } }).level 42 (mgtBlk 6) 0 true).pins

/-! ### Sensors (R511, R515, R523 to R532) -/

/-- LEAK_DETECTED: the module's own cable, or the board's sensors. -/
def leakDetected (own board : Bool) (m : Module) : Module :=
  if !own && !board then m
  else
    let m := { m with sens := { m.sens with leakOwn := m.sens.leakOwn || (own && m.pwr.standby),
                                            leakBoard := m.sens.leakBoard || board } }
    (m.level 40 (mgtBlk 6) 0 true).pins

/-- A level source that becomes active at one threshold and inactive at another. -/
def Module.threshold (m : Module) (src blk : Nat) (on off : Bool) : Module :=
  if on then m.level src blk 0 true else if off then m.level src blk 0 false else m

/-- SENSOR_SAMPLE. -/
def sensorSample (i : SensorIn) (m : Module) : Module :=
  if !m.pwr.standby then m
  else
    let b := mgtBlk 6
    let m := { m with sens := { m.sens with
      vin := i.vinMv % 65536, iin := i.iinDeciA % 4096, inlet := i.inletDeciC % 1024, outlet := i.outletDeciC % 1024,
      flow := i.flowDeciLpm % 1024, dp := i.dpKpa % 512, stackC := i.stackC.map (· % 128),
      lanes := if m.pwr.main then
          i.lanes.foldl (fun (t : Tab (Option Nat)) (x : Nat × Nat) => t.put x.1 (some x.2)) m.sens.lanes
        else m.sens.lanes } }
    let m := m.level 41 b 0 (i.vinMv < 40000 || 60000 < i.vinMv)
    let lo := m.reg b 0x120 0
    let m := m.threshold 38 b (i.flowDeciLpm < lo) (lo + 3 ≤ i.flowDeciLpm)
    let hi := 10 * m.reg b 0x124 0
    let m := m.threshold 39 b (hi < i.inletDeciC) (i.inletDeciC ≤ hi - 10)
    let m := m.threshold 37 b (105 < i.tjC) (i.tjC < 100)
    let m := i.stackC.zipIdx.foldl (fun (m : Module) (x : Nat × Nat) => m.threshold 31 (memBlk x.2) (95 < x.1) (x.1 < 92)) m
    let m := i.oeC.zipIdx.foldl (fun (m : Module) (x : Nat × Nat) => m.threshold 4 ((8 + x.2) * 256 + 16) (80 < x.1) (x.1 < 77)) m
    let m := (List.range 16).foldl (fun (m : Module) k => m.level 3 ((8 + k) * 256 + 16) 0 (bitAt i.feedBad k)) m
    let m := (List.range 2).foldl (fun (m : Module) k => m.level 5 ((28 + k) * 256) 0 (bitAt i.laserBad k)) m
    m.pins

/-- BATTERY_SAMPLE (R511). -/
def batterySample (mv : Nat) (m : Module) : Module :=
  if !m.pwr.standby then m
  else
    let low := mv < 2500
    let m := { m with sens := { m.sens with batMv := mv % 4096 }, keep := { m.keep with batLow := low } }
    m.level 44 (mgtBlk 5) 0 low

/-- SIDEBAND_LINK_CHANGE (R527). -/
def sidebandLinkChange (up : Bool) (m : Module) : Module :=
  if !m.pwr.standby then m
  else ({ m with sens := { m.sens with sideLink := up } }).level 52 (mgtBlk 4) 0 (!up)

/-! ### The pace loop (R35, R40 to R43) -/

/-- The voltage that pin, floor and demand ask for, lowest item last (R40), in steps of 5 mV within the limits of R34. A
rail whose monitor rate is below the floor needs more than it has. -/
def paceWant (pinEn : Bool) (pin : Nat) (floorEn : Bool) (floor mv : Nat) (r : RailIn) : Nat :=
  let low := if r.mon < floor then max r.floorMv (mv + 5) else r.floorMv
  let v := if pinEn then pin else if floorEn then max r.need low else r.need
  min 860 (max 620 (roundUp v 5))

/-- One update of one rail: thermal protection, then the cap, then the rest: the rail's voltage and throttle level. At an
average exactly equal to CAP_W (`at_`) the rail is not raised and its throttle level stays (DESIGN CHOICE, log entry 51). -/
def paceRail (want mv thr : Nat) (thermal above at_ : Bool) : Nat × Nat :=
  if thermal || above then (if 620 < mv then (max 620 (mv - 20), thr) else (620, min 7 (thr + 1)))
  else (if mv < want then (if at_ then mv else min want (mv + 20)) else max want (mv - 20), if at_ then thr else thr - 1)

/-- The status bits that rose send one PACE event; sticky copies and LIMIT_UPDATES follow (R42, R45). A sticky copy cleared
while its condition holds is set again at the next update (DESIGN CHOICE, log entry 124: R42 is silent on it, and
*What each step holds* has a rising bit set it). -/
def Module.paceStatus (m : Module) (bits_ : Nat) : Module :=
  let b := mgtBlk 6
  let sticky := m.reg b 0x020 8 ||| bits_
  let rose := (onesOf bits_ 5).any fun k => !bitAt m.pwr.paceBits k
  let m := (m.setReg b 0x020 8 sticky)
  let m := { m with pwr := { m.pwr with paceBits := bits_ } }
  let m := if bits_ % 16 != 0 then m.setReg b 0x080 0 (min (m.reg b 0x080 0 + 1) (2 ^ 32 - 1)) else m
  if rose then m.event 0x0901 (beBytes 4 (bits_ + 256 * sticky) ++ zeros 12 ++ beBytes 8 m.now) else m

/-- PACE_UPDATE: the input power is averaged over the samples of CAP_WINDOW_MS, over those taken so far while there are
fewer (R45); in Lull every rail is held at 0.62 V (R44). The cap lowers all nine rails, CORE8 too (DESIGN CHOICE, log entry
125: R40's table says "Lowers rails", its worked example names CORE0 to CORE7). -/
def paceUpdate (i : PaceIn) (m : Module) : Module :=
  if !m.pwr.main then m
  else
    let b := mgtBlk 6
    let cap := m.keep.field 0x014 12 0
    let pinEn := m.reg b 0x000 1 == 1
    let floorEn := m.reg b 0x000 0 == 1
    let pin := m.reg b 0x010 0
    let floor := m.reg b 0x00C 0
    let tp := m.reg b 0x014 0
    let samples := (i.watts :: m.pwr.samples).take (100 * m.reg b 0x008 0)
    let sum := samples.foldl (· + ·) 0
    let above := cap * samples.length < sum
    let at_ := sum == cap * samples.length
    let lull := 2 ≤ m.pwr.lull
    let rail (k : Nat) : RailIn := i.rails.getD k {}
    let n := List.range 9
    let hot : List Bool := n.map fun k => tp ≤ (rail k).tj || (m.pwr.thermal.getD k false && tp ≤ (rail k).tj + 3)
    let want := n.map fun k => paceWant pinEn pin floorEn floor (m.pwr.railMv.getD k 620) (rail k)
    let res : List (Nat × Nat) := n.map fun k =>
      if lull then (620, 0)
      else paceRail (want.getD k 0) (m.pwr.railMv.getD k 620) (m.pwr.throttle.getD k 0) (hot.getD k false) above at_
    let mv (k : Nat) : Nat := (res.getD k (620, 0)).1
    let short := !lull && n.any fun k => !hot.getD k false && mv k < want.getD k 0
    let st := b2n (above || (at_ && short)) + 2 * b2n (floorEn && n.any fun k => (rail k).mon < floor) +
      4 * b2n (hot.any id) + 8 * b2n (pinEn && n.any fun k => mv k < pin) +
      16 * b2n (n.any fun k => mv k < 700 && !(rail k).idle)
    let full := n.all fun k => (res.getD k (0, 0)).2 == 7
    let m := { m with pwr := { m.pwr with
      railMv := res.map Prod.fst, railMon := n.map fun k => min 2047 (rail k).mon, railTj := n.map fun k => (rail k).tj % 128
      thermal := hot, throttle := res.map Prod.snd, samples := samples
      powerW := sum / max 1 samples.length % 8192 } }
    let m := m.checkHolds
    let m := m.paceStatus st
    let m := m.level 36 b 0 (hot.any id)
    let m := m.level 43 b 0 (above && full)
    m.pins

/-- STICKY_CLEAR: bit k of `v` clears sticky copy k (R42). -/
def stickyClear (v : Nat) (m : Module) : Module :=
  if !m.pwr.standby then m
  else m.setReg (mgtBlk 6) 0x020 8 ((onesOf v 5).foldl (fun a k => setBit a k false) (m.reg (mgtBlk 6) 0x020 8))

/-- LIMIT_UPDATES_CLEAR. -/
def limitUpdatesClear (v : Nat) (m : Module) : Module :=
  if m.pwr.standby && v != 0 then m.setReg (mgtBlk 6) 0x080 0 0 else m

/-! ### Lull (R504 to R508, R423) -/

/-- Lull entry starts: credit returns on VC2 to VC7 are withheld. -/
def Module.enterLull (m : Module) : Module :=
  if m.pwr.st == 2 && m.pwr.lull == 0 then
    ({ m with pwr := { m.pwr with lull := 1 } }).checkHolds
  else m

/-- No command waits, and every open entry waits only for its launch count. -/
def Module.quiet (m : Module) : Bool :=
  m.vane.hostQ.isEmpty && m.vane.sideQ.isEmpty && m.trk.ents.cells.all fun c => c.2.st != 1 || c.2.waiting

/-- LULL_IDLE_EXPIRY: IDLE_MS without a packet. -/
def lullIdleExpiry (m : Module) : Module :=
  let n := m.reg (mgtBlk 6) 0x308 0
  if m.pwr.st == 2 && m.pwr.lull == 0 && n != 0 && m.quiet then (m.pass (m.pwr.activeAt + ms n)).enterLull else m

/-- LULL_ENTRY_DONE: the entry ends in one change, once the buffers are empty and no packet of the module waits to be sent; a
wake cause before it has made the entry a wake (R505). The rails stand at 0.62 V from that change on (DESIGN CHOICE, log
entry 126: R44 and R505 do not say in which steps they come down). -/
def lullEntryDone (m : Module) : Module :=
  if m.pwr.lull != 1 || !m.net.pkts.isEmpty || !m.net.orig.isEmpty then m
  else
    ({ m with pwr := { m.pwr with lull := 2, st := 3, selfRefresh := true, railMv := List.replicate 9 620,
                                  throttle := List.replicate 9 0 } }).count (mgtBlk 6) 0x320

/-- LULL_WAKE written 1. -/
def lullWake (m : Module) : Module := if m.pwr.standby then m.wake 4 else m

/-- The launch counts that pend: collectives not launched, runs queued or on an engine before their start, and the wake
count of LULL_ENTER until it has passed. -/
def Module.launches (m : Module) : List Nat :=
  let w := m.reg (mgtBlk 6) 0x310 0
  (m.coll.ctxs.cells.filterMap fun c => if c.2.used && !c.2.launched then c.2.sig.map sgLaunch else none) ++
  (m.kern.dsps.cells.flatMap fun c => c.2.queue.map fun q => q.desc.launch) ++
  (if w != 0 && !m.pwr.wakeUsed then [w] else [])

/-- LULL_WAKE_COUNT: the earliest of them less 160,000 units is reached, in Lull or during its entry (R423, R505). -/
def lullWakeCount (m : Module) : Module :=
  if m.pwr.lull != 1 && m.pwr.lull != 2 then m
  else
    match sortBy id (m.launches.filter (· != 0)) with
    | [] => m
    | t :: _ =>
      let m := m.reach (t - 160000)
      let w := m.reg (mgtBlk 6) 0x310 0
      ({ m with pwr := { m.pwr with wakeUsed := m.pwr.wakeUsed || (w != 0 && w ≤ m.now + 160000) } }).wake 5

/-- WAKE_COMPLETE: memory leaves self-refresh, and credit returns on VC2 to VC7 resume. -/
def wakeComplete (m : Module) : Module :=
  if m.pwr.lull != 3 then m
  else
    let m := { m with pwr := { m.pwr with lull := 0, st := 2, selfRefresh := false, activeAt := m.ticks } }
    (m.count (mgtBlk 6) 0x328).checkHolds

/-! ### Port reset (R501, R82, R117) -/

/-- RESET of kind 2: the port goes DOWN, its link registers other than KP and its counters take their reset values. Packets
that came by it stay buffered, and their cells stay charged to it (R131). -/
def Module.portReset (m : Module) (p : Nat) : Module :=
  let m := m.enterDown p
  let m := (m.resetBlocks fun b => b == portBlk p).clearRegs (pgBlk p) 0x400 0x430
  let l := m.link p
  let m := m.setLink p { ({} : Link) with isolated := l.isolated, since := m.ticks }
  let m := m.setWire p { charged := (m.wire p).charged }
  ({ m with sens := { m.sens with lanes := m.sens.lanes.keep fun k _ => k / 4 != p } }).holdAdmit

/-! ### The meanings -/

/-- STANDBY_POWER_ON (R517). -/
def execStandbyPowerOn (flagGood : Bool) (crcGood : Bool) (s : State) : Host.Outcome State Fault Refusal := .next (s.withM (standbyPowerOn flagGood crcGood))

/-- COLD_START (R496). -/
def execColdStart (start : StartIn) (s : State) : Host.Outcome State Fault Refusal := .next (s.withM (coldStart start))

/-- STANDBY_POWER_OFF (R517). -/
def execStandbyPowerOff (s : State) : Host.Outcome State Fault Refusal := .next (s.withM (standbyPowerOff))

/-- BROWNOUT (R518). -/
def execBrownout (s : State) : Host.Outcome State Fault Refusal := .next (s.withM (brownout))

/-- INPUT_RESTORED (R518). -/
def execInputRestored (start : StartIn) (s : State) : Host.Outcome State Fault Refusal := .next (s.withM (inputRestored start))

/-- HARDWARE_TRIP (R524). -/
def execHardwareTrip (s : State) : Host.Outcome State Fault Refusal := .next (s.withM (hardwareTrip))

/-- LEAK_DETECTED (R525). -/
def execLeakDetected (own : Bool) (board : Bool) (s : State) : Host.Outcome State Fault Refusal := .next (s.withM (leakDetected own board))

/-- SENSOR_SAMPLE (R523). -/
def execSensorSample (inp : SensorIn) (s : State) : Host.Outcome State Fault Refusal := .next (s.withM (sensorSample inp))

/-- BATTERY_SAMPLE (R511). -/
def execBatterySample (mv : Nat) (s : State) : Host.Outcome State Fault Refusal := .next (s.withM (batterySample mv))

/-- SIDEBAND_LINK_CHANGE (R527). -/
def execSidebandLinkChange (up : Bool) (s : State) : Host.Outcome State Fault Refusal := .next (s.withM (sidebandLinkChange up))

/-- PACE_UPDATE (R40). -/
def execPaceUpdate (inp : PaceIn) (s : State) : Host.Outcome State Fault Refusal := .next (s.withM (paceUpdate inp))

/-- STICKY_CLEAR (R42). -/
def execStickyClear (v : Nat) (s : State) : Host.Outcome State Fault Refusal := .next (s.withM (stickyClear v))

/-- LIMIT_UPDATES_CLEAR (R45). -/
def execLimitUpdatesClear (v : Nat) (s : State) : Host.Outcome State Fault Refusal := .next (s.withM (limitUpdatesClear v))

/-- LULL_IDLE_EXPIRY (R504). -/
def execLullIdleExpiry (s : State) : Host.Outcome State Fault Refusal := .next (s.withM (lullIdleExpiry))

/-- LULL_ENTRY_DONE (R505). -/
def execLullEntryDone (s : State) : Host.Outcome State Fault Refusal := .next (s.withM (lullEntryDone))

/-- LULL_WAKE (R507). -/
def execLullWake (s : State) : Host.Outcome State Fault Refusal := .next (s.withM (lullWake))

/-- LULL_WAKE_COUNT (R423). -/
def execLullWakeCount (s : State) : Host.Outcome State Fault Refusal := .next (s.withM (lullWakeCount))

/-- WAKE_COMPLETE (R507). -/
def execWakeComplete (s : State) : Host.Outcome State Fault Refusal := .next (s.withM (wakeComplete))

end Sys2Proof.Machine
end

