-- ==== Sys2Proof/Machine/View.lean ====
section
/-!
DEFINITION. Reading control space: the value of every read-only field, KP views of the keep file, registers in the byte
layout of R439, and the configuration that CONFIG_DIGEST covers (R439, R485).
-/
namespace Sys2Proof.Machine

/-- An amount shown in units of `k`. -/
def inUnits (n k : Nat) : Nat := n / k + b2n (n % k != 0 && Config.unitUp n k)

/-- Entries of the tile-poison table on a unit, and extents retired. -/
def Module.poisonedOn (m : Module) (u : Nat) : Nat := (m.store.poisoned.keys.filter fun k => m.unitOf k == u).length

/-- STATE of an engine: idle, running, waiting, isolated. -/
def Module.engState (m : Module) (e : Nat) : Nat :=
  if bitAt m.flt.engines e || m.dieFenced (e / 16) then 3
  else match (m.eng e).run with
    | none => 0
    | some r => if m.canIssue e r && !(match m.wordOf r (m.eng e).pc.toNat with
        | some w => m.held r (m.eng e).pc.toNat w
        | none => !r.pend.isEmpty) then 1 else 2

/-- Where a KP field outside the keep file's window lies in the keep file: offset, high and low bit. -/
def kpPlace (blk off lo : Nat) : Option (Nat × Nat × Nat) :=
  match blkKind blk with
  | some .portLink =>
    let p := 16 * (blk / 256 - 8) + blk % 256
    if off == 0x000 && lo == 2 then some (0x020 + p / 32 * 4, p % 32, p % 32) else none
  | some .time =>
    if off == 0x000 && lo ≤ 2 then some (0x018, lo, lo)
    else if off == 0x004 && lo == 0 then some (0x018, 9, 3)
    else if off == 0x004 && lo == 7 then some (0x018, 11, 10)
    else none
  | some .pace => if off == 0x004 && lo == 0 then some (0x014, 12, 0) else none
  | _ => none

/-! ### Read-only fields, block by block -/

def Module.roPool (m : Module) (d off lo : Nat) : Nat :=
  let x := m.die d
  if off == 0x004 then (if lo == 0 then x.mode else if lo == 3 then b2n x.withholding else b2n x.unbacked)
  else if off == 0x020 then x.small.length
  else if off == 0x024 then x.medium.length
  else if off == 0x028 then x.large.length
  else if off == 0x02C then x.freeCells
  else if off == 0x030 then m.committed d
  else if off == 0x034 then m.exposure d
  else x.retired.length

def Module.roTraffic (m : Module) (d off lo : Nat) : Nat :=
  if off == 0xD14 then
    let n := (m.die d).sink.length
    if lo == 0 then n else b2n (m.sinkFull d)
  else if off == 0x2400 then 0
  else if 0x18000 ≤ off then
    let x := m.net.policers.get (2048 * d + (off - 0x18000) / 32)
    if off % 32 == 0x14 then x.tc else x.tp
  else ofSigned 29 (m.net.shapers.get (2048 * d + (off - 0x10000) / 16)).tokens

def Module.roRed (m : Module) (d off : Nat) : Nat :=
  if off == 0x100 then inUnits (m.scratchUsed d) 1024 else (m.stepsOn d).length

def Module.roWindsock (m : Module) (d off : Nat) : Nat :=
  let g := (m.die d).ring
  if off == 0x004 then b2n g.stopped else if off == 0x008 then g.base else if off == 0x010 then g.sizeLog2
  else if off == 0x020 then g.written else g.lost

def Module.roHubIf (m : Module) (d off : Nat) : Nat :=
  if off == 0x004 then m.windows d else if off == 0x008 then m.parkedOn d
  else (m.ord.srcs.cells.filter fun c => m.reDie c.1 == d && c.2.sync).length

def Module.roEngine (m : Module) (e off lo : Nat) : Nat :=
  let x := m.eng e
  let r := x.run.getD {}
  let d := e / 16
  if off == 0x000 then (if lo == 0 then m.engState e else if lo == 2 then x.pc.toNat else if x.run.isSome then r.desc.part else 0)
  else if off == 0x004 then r.handle % 2 ^ 14
  else if off == 0x008 then r.slot
  else if off == 0xC004 then (m.kern.dsps.get d).queue.length
  else if off == 0xC008 then ((List.range 16).filter fun i => (m.eng (16 * d + i)).run.isSome).length
  else if off == 0xC00C then (m.kern.progs.cells.filter fun c => c.2.used).length
  else m.kern.progs.cells.foldl (fun a c => a + c.2.words.length) (if m.kern.progs.cells.any fun c => c.2.builtin != 0 then 12288 else 0)

def Module.roMemory (m : Module) (u off lo : Nat) : Nat :=
  let x := m.store.units.get u
  if off == 0x000 then
    (if lo == 0 then x.train else if lo == 2 then b2n x.fromKept else if lo == 3 then b2n x.populated else b2n x.inUse)
  else if u < 16 then
    (if off == 0x008 then m.sens.stackC.getD u 0 else if off == 0x00C then (if x.train == 2 then m.store.free u else 0)
     else if off == 0x010 then m.poisonedOn u else x.retired)
  else if off == 0x004 then x.speed
  else if off == 0x008 then x.gib
  else if off == 0x010 then m.store.free u
  else if off == 0x014 then m.poisonedOn u
  else x.retired

def Module.roPort (m : Module) (p off lo : Nat) : Nat :=
  let l := m.link p
  if off == 0x004 then
    (if lo == 0 then l.st else if lo == 4 then l.width else if lo == 7 then l.rxGood else if lo == 11 then l.peerGood
     else if lo == 15 then l.checkResult else if lo == 18 then l.swapPort else b2n l.foundValid)
  else if off == 0x008 then (if lo == 0 then l.nb.chip else if lo == 17 then l.nb.port else l.nb.kind)
  else if off == 0x010 then l.nb.hash / 2 ^ 32
  else if off == 0x014 then l.nb.hash % 2 ^ 32
  else if off == 0x018 then l.nb.coord
  else
    let w := (m.sens.lanes.get (4 * p + (off - 0x200) / 4)).getD 0xF060F060
    if lo == 0 then w % 65536 else w / 65536 % 65536

def Module.roColl (m : Module) (off : Nat) : Nat :=
  if off == 0x010 then (m.coll.ctxs.cells.filter fun c => c.2.used).length
  else if off == 0x014 then (m.coll.groups.cells.filter fun c => c.2.used).length
  else if off == 0x018 then inUnits m.retPlaces.length 512
  else inUnits m.stageUsed 512

/-- Staging that exchange tiles hold, in tiles; those that have overtaken every join too. -/
def Module.xchgStaged (m : Module) : Nat :=
  m.coll.ctxs.cells.foldl (fun a c => a + (c.2.early.filter (·.h.type == 0x14)).length +
    c.2.planes.foldl (fun b y => b + y.xwait.length) c.2.xpark.length) 0

def Module.roTracker (m : Module) (off : Nat) : Nat :=
  if off == 0x000 then m.trk.inUse else if off == 0x004 then m.trk.ofKind 1 else if off == 0x008 then m.trk.ofKind 2
  else m.trk.other

def Module.roSecurity (m : Module) (off lo : Nat) : Nat :=
  let s := m.sec
  if off == 0x000 then
    (if lo == 0 then s.running else if lo == 1 then b2n s.fallback else if lo == 2 then s.bankSt 0
     else if lo == 4 then s.bankSt 1 else if lo == 6 then b2n s.identityOk else if lo == 7 then b2n s.testMode
     else m.bootBank)
  else if off == 0x004 then s.version s.running
  else if off == 0x008 then m.minVersion
  else if off == 0x010 then s.auditCount
  else s.auditSince

/-- TIME_PEER of a port. -/
def Module.timePeer (m : Module) (p : Nat) : Bool :=
  match (m.port p).timeAt with | some t => m.ticks ≤ t + ms 3 | none => false

def Module.roTime (m : Module) (off lo : Nat) : Nat :=
  let t := m.time
  if off == 0x020 then
    (if lo == 0 then t.st else if lo == 3 then b2n m.validSent else if lo == 4 then m.hopsSent else if lo == 12 then t.port
     else if lo == 20 then b2n t.isPtp else if lo == 21 then b2n t.offsetLarge else b2n m.ppsValid)
  else if off == 0x028 then ofSigned 32 (satInt t.offset (-(2 ^ 31)) (2 ^ 31 - 1))
  else if off == 0x02C then ofSigned 32 t.freq
  else if off == 0x030 then t.ftc
  else
    let p := (off - 0x100) / 4
    if lo == 0 then (m.port p).linkDelay else b2n (m.timePeer p)

def Module.roFault (m : Module) (off lo : Nat) : Nat :=
  let r := m.flt.cur.getD {}
  let on := m.flt.cur.isSome
  if off == 0x004 then
    (if lo == 0 then b2n on else if lo == 1 then b2n (on && r.acked) else if lo == 2 then (if on then r.sev else 0)
     else if lo == 4 then (if on then r.step else 0) else if lo == 6 then b2n m.flt.held else b2n m.sec.testMode)
  else if off == 0x008 then (if on then r.sources else 0)
  else if off == 0x010 then m.flt.active
  else if off == 0x018 then (if on then (m.shown r).deadline else 0)
  else if off == 0x020 then m.flt.fenced
  else m.flt.num

def Module.roPace (m : Module) (off lo : Nat) : Nat :=
  let s := m.sens
  if off == 0x020 then bits m.pwr.paceBits lo lo
  else if off == 0x024 then m.pwr.powerW
  else if off < 0x080 then
    let i := (off - 0x040) / 4
    if lo == 0 then m.pwr.railMv.getD i 620 else if lo == 10 then m.pwr.railMon.getD i 0 else m.pwr.railTj.getD i 0
  else if off == 0x100 then s.vin else if off == 0x104 then s.iin else if off == 0x108 then s.inlet
  else if off == 0x10C then s.outlet else if off == 0x110 then s.flow else if off == 0x114 then s.dp
  else if off == 0x118 then
    (if lo == 0 then b2n s.leakOwn else if lo == 1 then b2n s.leakLow else if lo == 2 then b2n s.thermAlert
     else b2n m.pwr.hwTrip)
  else if off == 0x11C then s.batMv
  else if lo == 0 then m.pwr.lull else m.pwr.wakeCause

/-- The value of a read-only field. -/
def Module.roVal (m : Module) (blk off lo : Nat) : Nat :=
  let d := blk / 256
  let a := blk % 256
  match blkKind blk with
  | some .pool => m.roPool d off lo
  | some .route => bits m.net.admitted (32 * d + 31) (32 * d)
  | some .traffic => m.roTraffic d off lo
  | some .redUnit => m.roRed d off
  | some .windsock => m.roWindsock d off
  | some .hubIf => m.roHubIf d off
  | some .mcastRep => (m.die d).mcFenced
  | some .engine => m.roEngine (16 * d + (a - 16)) off lo
  | some .hbm => m.roMemory (2 * d + (a - 32)) off lo
  | some .ddr => m.roMemory (16 + 4 * (d - 24) + a) off lo
  | some .portLink => m.roPort (16 * (d - 8) + a) off lo
  | some .coll => m.roColl off
  | some .xchg => inUnits m.xchgStaged 512
  | some .tracker => m.roTracker off
  | some .security => m.roSecurity off lo
  | some .time => m.roTime off lo
  | some .fault => m.roFault off lo
  | some .pace => m.roPace off lo
  | some .vane =>
    if off == 0x000 then m.vane.hostQ.length else if off == 0x004 then m.vane.sideQ.length
    else (m.vane.subs.cells.filter fun c => c.2.used).length
  | _ => 0

/-! ### Registers and words -/

/-- The value of a field as read: a WO field reads as 0. -/
def Module.fieldVal (m : Module) (blk off : Nat) (f : Fld) : Nat :=
  match f.acc with
  | .wo => 0
  | .ro => m.roVal blk off f.lo % 2 ^ (f.hi + 1 - f.lo)
  | .kp => match kpPlace blk off f.lo with | some (o, hi, lo) => m.keep.field o hi lo | none => 0
  | _ => m.reg blk off f.lo

/-- The register at an offset, and whether it occupies 8 bytes. -/
def Module.regVal (m : Module) (blk off : Nat) : Nat :=
  (fieldsAt blk off).foldl (fun a x => a + m.fieldVal blk off x.1 * 2 ^ x.1.lo) 0
def regWide (blk off : Nat) : Bool := (fieldsAt blk off).any fun x => x.1.wide

/-- The 32-bit word at an offset of a window; a place that no map lists reads as 0. -/
def Module.view (m : Module) (blk off : Nat) : Nat :=
  if blkKind blk == some .keep then (if off < 4096 then m.keep.word off else 0)
  else if !(fieldsAt blk off).isEmpty then
    (if regWide blk off then m.regVal blk off / 2 ^ 32 else m.regVal blk off)
  else if off % 8 == 4 && regWide blk (off - 4) then m.regVal blk (off - 4) % 2 ^ 32
  else 0

/-- Block and offset of a control-space address (R23). -/
def ctlBlk (a : Nat) : Nat := (a - 0x7F0000000000) / 2 ^ 20
def ctlOff (a : Nat) : Nat := a % 2 ^ 20

/-- Whether every word from an address lies in a window of an assigned block. -/
def ctlOk (a n : Nat) : Bool :=
  0x7F0000000000 ≤ a && a + 4 * n ≤ 0x7F0200000000 &&
  (List.range n).all fun i => (blkKind (ctlBlk (a + 4 * i))).isSome

/-- The bytes of `n` words from an address. -/
def Module.readCtl (m : Module) (a n : Nat) : Bytes :=
  (List.range n).flatMap fun i => beBytes 4 (m.view (ctlBlk (a + 4 * i)) (ctlOff (a + 4 * i)))

/-! ### CONFIG_DIGEST (R485) -/

/-- The offsets of a block's registers that hold an RW or KP field, rising. -/
def cfgOffsets (blk : Nat) : List Nat :=
  let l := (fieldsOf blk).flatMap fun f =>
    if f.acc == .rw || f.acc == .kp then
      ((List.range f.n).filter f.ix).map fun i => f.off + (if f.n == 1 then 0 else f.stride * i)
    else []
  (sortBy id l).eraseDups

/-- One register with its RW and KP fields alone. -/
def Module.cfgReg (m : Module) (blk off : Nat) : Bytes :=
  let v := (fieldsAt blk off).foldl (fun a x =>
    if x.1.acc == .rw || x.1.acc == .kp then a + m.fieldVal blk off x.1 * 2 ^ x.1.lo else a) 0
  beBytes (if regWide blk off then 8 else 4) v

/-- The registers of the keep file that hold a KP field, each word with its KP fields alone. -/
def Module.cfgKeep (m : Module) : Bytes :=
  ((List.range 1024).filter fun i => keepMask (4 * i) != 0).flatMap fun i =>
    beBytes 4 (m.keep.word (4 * i) &&& keepMask (4 * i))

/-- The bytes that CONFIG_DIGEST covers: settings, then the forwarding tables and the group records, whose layout in it
the spec does not give (`Config.tableImage`). -/
def Module.configBytes (m : Module) (groups : Bytes) : Bytes :=
  ((List.range 8192).flatMap fun b =>
    if blkKind b == some .keep then m.cfgKeep
    else if (blkKind b).isSome then (cfgOffsets b).flatMap fun o => m.cfgReg b o else []) ++
  Config.tableImage (
  ((List.range 131072).flatMap fun c => beBytes 8 (m.net.route.get c)) ++
  ((List.range 64).flatMap fun s => beBytes 2 (m.net.eddySize.get s) ++
    (List.range (m.net.eddySize.get s)).flatMap fun i => beBytes 4 ((m.net.eddyChip.get (1024 * s + i)).getD 131071)) ++
  (m.net.pins.cells.flatMap fun c => c.2.flatMap fun e =>
    beBytes 4 e.src ++ beBytes 4 e.dst ++ beBytes 2 e.part ++ beBytes 1 e.vc ++ beBytes 1 (b2n e.any) ++ beBytes 1 e.port ++
      zeros 3) ++
  ((List.range 16384).flatMap fun i =>
    let e := m.net.mcast.get i
    beBytes 8 e.word0 ++ (List.range 4).flatMap fun k => beBytes 8 (bits e.ports (64 * k + 63) (64 * k))) ++
  groups)

end Sys2Proof.Machine
end

