-- ==== Sys2Proof/Machine/Write.lean ====
section
/-!
DEFINITION. Writing registers: legality of a word (R5, R7, R8, R12 and the rules of the maps), what it changes, and the
keep file's own rule (R439, R440, R510, R512). Commands that write fields named after registers use the same operations.
-/
namespace Sys2Proof.Machine

/-- One register written whole: block, offset, value. -/
structure RegW where
  blk : Nat := 0
  off : Nat := 0
  v : Nat := 0
deriving DecidableEq, Repr

/-! ### The keep file (R512) -/

/-- Status of a keep-file word written by a master (`side`: the side-band). -/
def Module.keepStatus (m : Module) (side : Bool) (o w : Nat) : Nat :=
  if (0x3F0 ≤ o && o < 0x400) || 0xC00 ≤ o then St.denied
  else if !side && 0x060 ≤ o && o < 0x1A0 then St.denied
  else if !keepWordLegal o w then St.badParam
  else if o == 0x008 && bits w 16 0 != m.chip && m.trk.anyOpen then St.busy
  else St.ok

/-- Words stored in the keep file: a new chip number or place restarts every sending sequence (R397, R512), and the time
source is examined again. -/
def Module.keepWrite (m : Module) (l : List (Nat × Nat)) : Module :=
  if l.isEmpty then m
  else
    let old := (m.chip, m.coord)
    let m := { m with keep := m.keep.writeWords l }
    let m := if (m.chip, m.coord) == old then m else { m with ord := { m.ord with dsts := {} } }
    m.reselect

/-- The keep-file words that a register's KP fields change. -/
def Module.kpWords (m : Module) (x : RegW) : List (Nat × Nat) :=
  (fieldsAt x.blk x.off).foldl (fun l f =>
    match kpPlace x.blk x.off f.1.lo with
    | some (o, hi, lo) =>
      if f.1.acc == .kp then
        let w := match l.find? fun y => y.1 == o with | some y => y.2 | none => m.keep.word o
        (l.filter fun y => y.1 != o) ++ [(o, setBits w hi lo (bits x.v f.1.hi f.1.lo))]
      else l
    | none => l) []

/-! ### Legality -/

/-- The register with its RW fields stored, without any further effect. -/
def Module.store1 (m : Module) (x : RegW) : Module :=
  (fieldsAt x.blk x.off).foldl (fun (m : Module) f =>
    if f.1.acc == .rw then m.setReg x.blk x.off f.1.lo (bits x.v f.1.hi f.1.lo) else m) m

/-- R130 on a die, for the settings in `m`. -/
def Module.r130 (m : Module) (d : Nat) : Bool :=
  m.committed d true + m.reg (swBlk d 4) 0x01C 0 ≤ 262144 - (m.die d).retired.length

/-- Target of shaper `n` of a die: port, VC, and the flow queue or 64 for the whole VC (R183). -/
def Module.shaperTarget (m : Module) (d n : Nat) : Nat × Nat × Nat :=
  let r (lo : Nat) : Nat := m.reg (swBlk d 6) (0x10000 + 16 * n) lo
  (r 0, r 5, if r 14 == 1 then 64 else r 8)

/-- Whether the key word of a shaper obeys R183; `m'` holds the new settings. -/
def Module.shaperOk (m m' : Module) (d n : Nat) : Bool :=
  let s := 2048 * d + n
  let t := m'.shaperTarget d n
  let on := m'.reg (swBlk d 6) (0x10000 + 16 * n) 15 == 1
  !((m.net.shapers.get s).on && t != m.shaperTarget d n) &&
  !(on && m'.shaperIds.any fun k =>
      k != s && k / 2048 == d && m'.reg (swBlk d 6) (0x10000 + 16 * (k % 2048)) 15 == 1 && m'.shaperTarget d (k % 2048) == t)

/-- R308: RETAIN_GIB, STAGE_GIB and the rings fit in 62.75 GiB. -/
def Module.r308 (m : Module) (rings : Nat) : Bool :=
  (m.collReg 0x004 0 + m.collReg 0x008 0) * 2 ^ 30 + rings ≤ 251 * 2 ^ 28

/-- Two-bit codes of a word none of which is 3. -/
def codesOk (v n : Nat) : Bool := (List.range n).all fun i => bits v (2 * i + 1) (2 * i) != 3

/-- What a rule of its map says of a register written; `m'` holds the new settings. -/
def Module.ruleStatus (m m' : Module) (x : RegW) : Nat :=
  let d := x.blk / 256
  let o := x.off
  let bad (b : Bool) : Nat := if b then St.badParam else St.ok
  match blkKind x.blk with
  | some .portLink => if 0x020 ≤ o && o ≤ 0x040 && !m'.r130 ((d - 8) / 2) then St.noResource else St.ok
  | some .pool =>
    if o == 0x01C then (if m'.r130 d then St.ok else St.noResource)
    else if o == 0x000 then (if x.v % 2 == 1 && !m.recoverOk d then St.busy else St.ok)
    else bad (0x010 ≤ o && o ≤ 0x018 && 262144 - (m.die d).retired.length <
      m'.reg x.blk 0x010 0 + 4 * m'.reg x.blk 0x014 0 + 9 * m'.reg x.blk 0x018 0)
  | some .route =>
    if o == 0x010 || o == 0x014 then bad (!codesOk x.v 16)
    else bad (0x1000 ≤ o && !codesOk x.v 7)
  | some .traffic =>
    if 0x800 ≤ o && o < 0x900 then
      let b := o / 16 * 16
      bad (m'.reg x.blk (b + 8) 12 == 1 && m'.reg x.blk (b + 4) 0 ≤ m'.reg x.blk b 0)
    else if 0x10000 ≤ o && o < 0x18000 then bad (o % 16 == 0 && !m.shaperOk m' d ((o - 0x10000) / 16))
    else if 0x18000 ≤ o && o < 0x28000 then
      let b := o / 32 * 32
      bad (m'.reg x.blk (b + 8) 0 < m'.reg x.blk (b + 4) 0)
    else St.ok
  | some .windsock => bad (o == 0x000 && x.v % 2 == 1 && (m.die d).ring.sizeLog2 == 0)
  | some .coll =>
    if o == 0x004 || o == 0x008 then
      (if m.coll.ctxs.cells.any fun c => c.2.used then St.busy else if m'.r308 m.ringBytes then St.ok else St.noResource)
    else St.ok
  | some .time => bad (o == 0x000 && bitAt x.v 4 && m.reg x.blk 0x018 0 == 0)
  | some .pace => bad (o == 0x010 && x.v % 1024 % 5 != 0)
  | _ => St.ok

/-- Status of one register written by a master: field ranges, the keep file's rule, the map's own rule. -/
def Module.regStatus (m m' : Module) (side : Bool) (x : RegW) : Nat :=
  if blkKind x.blk == some .keep then
    (if x.off < 4096 then m.keepStatus side x.off x.v else St.ok)
  else if (fieldsAt x.blk x.off).any fun f => f.1.acc == .rw && !f.1.legal (bits x.v f.1.hi f.1.lo) then St.badParam
  else
    match ((m.kpWords x).map fun y => m.keepStatus side y.1 y.2).find? (· != St.ok) with
    | some s => s
    | none => m.ruleStatus m' x

/-! ### Effects -/

/-- A shaper after its key word is written (R185). -/
def Module.syncShaper (m : Module) (s : Nat) : Module :=
  let b := swBlk (s / 2048) 6
  let o := 0x10000 + 16 * (s % 2048)
  let x := m.net.shapers.get s
  let on := m.reg b o 15 == 1
  let y : Shaper :=
    if on && !x.on then
      { on := true, incr := m.reg b (o + 4) 0, burst := m.reg b (o + 8) 0, tokens := 16 * m.reg b (o + 8) 0 }
    else if !on && x.on then { x with on := false, slot := none, parked := false }
    else x
  ({ m with net := { m.net with shapers := m.net.shapers.put s y } }).syncHeads

/-- A policer after its key word is written. -/
def Module.syncPolicer (m : Module) (s : Nat) : Module :=
  let b := swBlk (s / 2048) 6
  let o := 0x18000 + 32 * (s % 2048)
  let x := m.net.policers.get s
  let on := m.reg b o 24 == 1
  let y : Policer :=
    if on && !x.on then
      { on := true, cir := m.reg b (o + 4) 0, pir := m.reg b (o + 8) 0, cbs := m.reg b (o + 12) 0,
        pbs := m.reg b (o + 16) 0, tc := 16 * m.reg b (o + 12) 0, tp := 16 * m.reg b (o + 16) 0 }
    else { x with on := on }
  { m with net := { m.net with policers := m.net.policers.put s y } }

/-- What a register does besides holding its RW and KP fields. -/
def Module.regEffect (m : Module) (x : RegW) : Module :=
  let d := x.blk / 256
  let o := x.off
  let m := match (fieldsAt x.blk o).find? fun f => f.1.clr.isSome with
    | some f => (match f.1.clr with | some (a, b) => m.clearRegs x.blk a b | none => m)
    | none => m
  match blkKind x.blk with
  | some .portLink =>
    if o == 0x000 && bitAt x.v 1 then m.onPort (16 * (d - 8) + x.blk % 256) fun m => m.startRetrain (16 * (d - 8) + x.blk % 256) 4
    else m
  | some .pool => if o == 0x000 && x.v % 2 == 1 then m.rebuildPool d else m
  | some .route => if o == 0x008 then admitSet d x.v m else if o == 0x010 || o == 0x014 then m.rehold else m
  | some .coll =>
    if (o == 0x004 || o == 0x008) && (List.range 8).any (fun d => m.ringLen d != 0 && (m.die d).ring.base < m.ringLow) then
      m.packRings
    else m
  | some .traffic =>
    if 0x10000 ≤ o && o < 0x18000 && o % 16 == 0 then m.syncShaper (2048 * d + (o - 0x10000) / 16)
    else if 0x18000 ≤ o && o < 0x28000 && o % 32 == 0 then m.syncPolicer (2048 * d + (o - 0x18000) / 32)
    else m
  | some .windsock => if o == 0x000 && bitAt x.v 8 then m.ringReset d else m
  | some .time =>
    if o == 0x000 then
      let m := if m.reg x.blk 0x000 3 == 0 then { m with sens := { m.sens with pps := false } } else m
      (if bitAt x.v 4 then stepNow m else m).reselect
    else if o == 0x010 then { m with time := { m.time with freq := satInt m.time.freq (-m.slewLim) m.slewLim } }
    else m.reselect
  | some .pace =>
    if o == 0x020 then m.setReg x.blk o 8 ((onesOf (bits x.v 12 8) 5).foldl (fun a k => setBit a k false) (m.reg x.blk o 8))
    else if o == 0x080 then (if x.v == 0 then m else m.setReg x.blk o 0 0)
    else if o == 0x300 then (if x.v % 2 == 1 then m.wake 4 else m)
    else if o == 0x308 then { m with pwr := { m.pwr with activeAt := m.ticks } }
    else if o == 0x310 then { m with pwr := { m.pwr with wakeUsed := false } }
    else m
  | _ => m

/-- LINK_CTRL's ENABLE and WIDTH_LIMIT, which act as they are stored (R67, R71). -/
def Module.linkCtrl (m : Module) (x : RegW) : Module :=
  if blkKind x.blk == some .portLink && x.off == 0x000 then
    let p := 16 * (x.blk / 256 - 8) + x.blk % 256
    enable p (x.v % 2 == 1) (widthLimit p (bits x.v 4 3) m)
  else m

/-- EN of Windsock set: sequence numbers start at 0 (R141). WS_LOST stays: RESET_RING alone clears it (R144). -/
def Module.ringEnable (m : Module) (x : RegW) : Module :=
  if blkKind x.blk == some .windsock && x.off == 0x000 && x.v % 2 == 1 && m.reg x.blk 0x000 0 == 0 then
    let d := x.blk / 256
    let lost := (m.die d).ring.lost
    let m := m.ringReset d
    m.setDie d { m.die d with ring := { (m.die d).ring with lost := lost } }
  else m

/-- PPS_EN set: the first rise is at the next second of fabric time (R424). -/
def Module.ppsEnable (m : Module) (x : RegW) : Module :=
  if blkKind x.blk == some .time && x.off == 0x000 && bitAt x.v 3 && m.reg x.blk 0x000 3 == 0 then
    { m with time := { m.time with second := m.now / 4000000000 } }
  else m

/-- One register written, its legality known. -/
def Module.writeReg (m : Module) (x : RegW) : Module :=
  if blkKind x.blk == some .keep then (if x.off < 4096 then m.keepWrite [(x.off, x.v)] else m)
  else ((((((m.linkCtrl x).ringEnable x).ppsEnable x).store1 x).keepWrite (m.kpWords x))).regEffect x

/-- Registers written together: the status of the first illegal one, or every one written in order (R440). -/
def Module.writeRegs (m : Module) (side : Bool) (l : List RegW) : Module × Nat :=
  let m' := l.foldl (fun m x => m.store1 x) m
  match (l.map fun x => m.regStatus m' side x).find? (· != St.ok) with
  | some s => (m, s)
  | none => (l.foldl (fun m x => m.writeReg x) m, St.ok)

/-- The registers that words from a control-space address write; `none` where one half of an 8-byte register is
covered alone (R439). -/
def regsOfWords (a : Nat) : List Nat → Option (List RegW)
  | [] => some []
  | w :: l =>
    let b := ctlBlk a
    let o := ctlOff a
    if blkKind b != some .keep && o % 8 == 4 && regWide b (o - 4) then none
    else if blkKind b != some .keep && regWide b o then
      match l with
      | [] => none
      | v :: l => (regsOfWords (a + 8) l).map fun r => { blk := b, off := o, v := w * 2 ^ 32 + v } :: r
    else (regsOfWords (a + 4) l).map fun r => { blk := b, off := o, v := w } :: r

end Sys2Proof.Machine
end

