-- ==== Sys2Proof/Machine/Commands.lean ====
section
/-!
DEFINITION. Commands as such: arrival, queues and reply caches (R426 to R433), the states in which a command executes
(R434, R462, R478), parameters (R442, R443), ownership (R435 to R438), images in fragments (R444), datagrams (R428), and
the sending of events (R447).
-/
namespace Sys2Proof

/-- A parameter: the `n` bytes at an offset of the payload. -/
def CmdReq.u (r : CmdReq) (o n : Nat) : Nat := Machine.fieldBE r.body o n

/-- The chip that a command's work is keyed by: the host's, or none for the side-band. -/
def CmdReq.master (r : CmdReq) : Nat := if r.side then 131071 else r.chip

end Sys2Proof

namespace Sys2Proof.Machine

/-- Free bytes, for what the spec does not state. -/
def Module.freeBytes (m : Module) (n : Nat) : Module × Bytes :=
  ({ m with fresh := m.fresh + n }, (List.range n).map fun i => BitVec.ofNat 8 (Config.freeNat (m.fresh + i)))

/-! ### Queues (R431 to R433) -/

/-- Assigned opcodes (*Opcodes*). -/
def opcodes : List Nat :=
  [0x0101, 0x0102, 0x0103, 0x0201, 0x0202, 0x0203, 0x0301, 0x0302, 0x0303, 0x0304,
   0x0401, 0x0402, 0x0403, 0x0404, 0x0405, 0x0406, 0x0501, 0x0502, 0x0503, 0x0504, 0x0505,
   0x0601, 0x0602, 0x0603, 0x0604, 0x0605, 0x0606, 0x0607, 0x0608, 0x0609, 0x060A,
   0x0701, 0x0702, 0x0703, 0x0801, 0x0802, 0x0901, 0x0902, 0x0903, 0x0904,
   0x0A01, 0x0A02, 0x0A03, 0x0B01, 0x0B02, 0x0B03,
   0x0C01, 0x0C02, 0x0C03, 0x0C04, 0x0C05, 0x0C06, 0x0C07, 0x0C08, 0x0F01, 0x0F02]

/-- The Vane controller, or the recovery loader, takes commands. -/
def Module.vaneUp (m : Module) : Bool := m.pwr.standby && m.pwr.booted

/-- The queue of a master. -/
def Vane.queue (v : Vane) (side : Bool) : List CmdReq := if side then v.sideQ else v.hostQ
def Vane.setQueue (v : Vane) (side : Bool) (l : List CmdReq) : Vane :=
  if side then { v with sideQ := l } else { v with hostQ := l }
/-- Places of a master's queue. -/
def queueSize (side : Bool) : Nat := if side then 16 else 64

/-- The command that the controller takes next: the side-band's first (R432). -/
def Vane.next (v : Vane) : Option CmdReq := match v.sideQ with | c :: _ => some c | [] => v.hostQ.head?

/-- The first command of a master's queue leaves it. -/
def Module.popCmd (m : Module) (side : Bool) : Module :=
  { m with vane := m.vane.setQueue side ((m.vane.queue side).drop 1) }

/-- A command repeated from the cache: its replies with CACHED = 1 (R433); `none` where key or payload do not match. -/
def Module.fromCache (m : Module) (r : CmdReq) : Option Module :=
  match (m.vane.cache r.side).find? fun c => c.keyOf r && c.body == r.body with
  | none => none
  | some c =>
    let l := if c.final.isEmpty then c.first.toList else c.final
    let m := l.foldl (fun (m : Module) x =>
      m.sendReply r { x with pl := splice x.pl 2 [BitVec.ofNat 8 (byteAt x.pl 2 ||| 4)] }) m
    some (m.count (mgtBlk 255) 0x120)

/-- A discard under R428 or R431. -/
def Module.refuseCmd (m : Module) : Module := m.count (mgtBlk 255) 0x110

/-- A command from an admitted source: answered from the cache, refused at a full queue, or queued; an unassigned
opcode is answered at once, in standby and in a hold too, where R434 and R462 answer BUSY to every command that they do not
list (R9, R432, R433; DESIGN CHOICE, log entry 17). The recovery loader hears the side-band alone and answers BUSY to an
unassigned opcode too: R9 would have BAD_OPCODE, R478 has BUSY for every other command (DESIGN CHOICE, log entry 17). -/
def Module.admitCmd (m : Module) (r : CmdReq) : Module :=
  if m.sec.recovery && !r.side then m
  else match m.fromCache r with
    | some m => m
    | none =>
      if !opcodes.contains r.opcode then m.replyFinal r (if m.sec.recovery then St.busy else St.badOpcode)
      else if queueSize r.side ≤ (m.vane.queue r.side).length then
        (m.count (mgtBlk 255) 0x118).replyFinal r St.busy
      else { m with vane := m.vane.setQueue r.side (m.vane.queue r.side ++ [r]) }

/-- A command arrives: from an authorised host or an allowed address, or it is discarded and counted (R431, R486). -/
def Module.arrive (m : Module) (r : CmdReq) : Module :=
  if !m.vaneUp then m
  else if (if r.side then m.sideAllowed r.addr else m.isHost r.chip) then m.admitCmd r
  else m.refuseCmd

/-! ### When a command executes (R434, R462, R478) -/

/-- Commands that need only the standby domain. -/
def standbyOp (op : Nat) : Bool :=
  [1, 9, 0xA, 0xB].contains (op / 256) || [0x0C01, 0x0C02, 0x0C03, 0x0C08].contains op

/-- Whether the module answers an opcode with BUSY in its present state. -/
def Module.busyFor (m : Module) (op : Nat) : Bool :=
  if m.sec.recovery then !([0x0101, 0x0B02, 0x0B03, 0x0904].contains op)
  else if m.pwr.st ≤ 1 then !standbyOp op
  else if m.pwr.st == 4 then !(standbyOp op || [0x0C05, 0x0C06].contains op)
  else false

/-- The controller takes a command if it is the next one (one that finds no other waiting arrives with its row). The
answer says whether it executes now: a repeat is answered from the cache, a state that does not allow it answers BUSY,
and in Lull a command that needs the main domain wakes the module and stays queued. -/
def Module.takeCmd (m : Module) (r : CmdReq) : Module × Bool :=
  let m := if m.vane.next.isNone then m.arrive r else m
  if !m.vaneUp || m.vane.next != some r then (m, false)
  else match m.fromCache r with
    | some m => (m.popCmd r.side, false)
    | none =>
      if m.busyFor r.opcode then ((m.popCmd r.side).replyFinal r St.busy, false)
      else if m.pwr.lull != 0 && !standbyOp r.opcode then (m.wake 2, false)
      else ((m.popCmd r.side).count (mgtBlk 255) (if r.side then 0x108 else 0x100), true)

/-! ### Parameters (R442) -/

/-- Whether a payload has a layout: fields as (offset, bytes, bits used), each within the payload, and zero bytes
everywhere else. -/
def laid (body : Bytes) (lay : List (Nat × Nat × Nat)) : Bool :=
  lay.all (fun f => f.1 + f.2.1 ≤ body.length && fieldBE body f.1 f.2.1 < 2 ^ f.2.2) &&
  allZero (lay.foldl (fun b f => splice b f.1 (zeros f.2.1)) body)

/-- The row of an opcode (one of several where `row` says which): the command is taken, its version and payload are
checked, and its own effect follows. -/
def Module.command (m : Module) (r : CmdReq) (op : Nat) (row : Bool) (lay : List (Nat × Nat × Nat))
    (f : Module → Module) : Module :=
  if r.opcode != op || !row then m
  else match m.takeCmd r with
    | (m, false) => m
    | (m, true) =>
      if r.ver != 1 || r.body.length < 16 || 2048 < r.body.length || r.body.length % 16 != 0 || !laid r.body lay then
        m.replyFinal r St.badParam
      else f m

/-! ### Ownership (R435 to R438) -/

/-- A unit identifier. -/
def unit (cls idx : Nat) : Nat := cls * 2 ^ 24 + idx

/-- Whether a unit exists (*Ownership units*). -/
def Module.unitOk (m : Module) (u : Nat) : Bool :=
  let i := u % 2 ^ 24
  match u / 2 ^ 24 with
  | 0x01 => (m.store.objs.get i).handle != 0
  | 0x02 => (m.grp i).used
  | 0x03 => i < 16384
  | 0x04 => (m.kern.progs.get i).used
  | 0x05 => (m.trk.ents.get i).st != 0
  | 0x06 => i < 4096
  | 0x07 => i < 256
  | 0x08 => i < 16384
  | 0x09 => i < 16384
  | 0x0A => i < 8
  | 0x12 => (blkKind i).isSome
  | c => 0x0B ≤ c && c ≤ 0x11 && i == 0

/-- The owner of a unit; a tracker entry always has one. -/
def Module.owner (m : Module) (u : Nat) : Option Bool :=
  if u / 2 ^ 24 == 5 then some (m.trk.ents.get (u % 2 ^ 24)).side else m.vane.owners.get u

/-- A change of owner, with its event (R437). -/
def Module.setOwner (m : Module) (u : Nat) (o : Option Bool) : Module :=
  if m.owner u == o then m
  else
    let m := if u / 2 ^ 24 == 5 then
        { m with trk := { m.trk with ents := m.trk.ents.upd (u % 2 ^ 24) fun e => { e with side := o == some true } } }
      else { m with vane := { m.vane with owners := m.vane.owners.put u o } }
    m.event 0x0C01 (beBytes 4 u ++ beBytes 1 (match o with | some s => b2n s | none => 0xFF) ++ zeros 11 ++ beBytes 8 m.now)

/-- Whether a command's master may change a unit. -/
def Module.mayChange (m : Module) (r : CmdReq) (u : Nat) : Bool := (m.owner u).all (· == r.side)

/-- The master becomes the owner of units that have none. -/
def Module.claim (m : Module) (r : CmdReq) (us : List Nat) : Module :=
  us.foldl (fun (m : Module) u => if (m.owner u).isNone then m.setOwner u (some r.side) else m) m

/-- A change of units: NOT_OWNER, or the change's own status and data; on OK its master owns them. -/
def Module.change (m : Module) (r : CmdReq) (us : List Nat) (f : Module → Module × Nat × Bytes) : Module :=
  if us.all (m.mayChange r) then
    match f m with
    | (m, st, d) => (if st == St.ok then m.claim r us else m).replyFinal r st d
  else m.replyFinal r St.notOwner

/-- A deferred command's entry opened and its first reply sent, then its work begun; NO_RESOURCE where none is free
(R430). -/
def Module.deferCmd (m : Module) (r : CmdReq) (e : TEnt) (f : Module → Nat → Module) : Module :=
  match m.openEntry { e with side := r.side, req := some r } with
  | none => (m.count (hubBlk 3) 0x120).replyFinal r St.noResource
  | some (m, h) => f (m.replyDeferred r h) h

/-! ### Images in fragments (R444) -/

/-- What a fragment leads to. -/
inductive Frag
  | bad (st : Nat)
  | missing (n : Nat)
  | whole (image : Bytes)
deriving DecidableEq, Repr

/-- The layout of a fragment whose units have `k` bytes. -/
def fragLay (body : Bytes) (k : Nat) : List (Nat × Nat × Nat) :=
  [(0, 32, 256), (32, 4, 32), (36, 4, 32), (40, 2, 16), (48, k * fieldBE body 40 2, 8 * k * fieldBE body 40 2)]

/-- The assembly that a fragment belongs to: of its digest, and of its master unless it is firmware's one. -/
def Asm.takes (a : Asm) (r : CmdReq) (kind : Nat) : Bool :=
  a.kind == kind && a.digest == r.body.take 32 && (kind == 1 || a.side == r.side)

/-- The image of an assembly whose units are all filled. -/
def Asm.image (a : Asm) (k : Nat) : Bytes :=
  (List.range a.total).flatMap fun i => beBytes k ((a.units.get i).getD 0)

/-- A fragment gathered (`k` bytes to a unit). A whole image's assembly is over. -/
def Module.fragment (m : Module) (r : CmdReq) (kind k : Nat) : Module × Frag :=
  let total := r.u 32 4
  let first := r.u 36 4
  let num := r.u 40 2
  let got := (List.range num).map fun i => (first + i, r.u (48 + k * i) k)
  let mine (a : Asm) : Bool := a.takes r kind
  let old := (m.vane.asms.find? mine).getD { side := r.side, kind := kind, digest := r.body.take 32, total := total }
  if num == 0 || old.total != total || total < first + num then (m, .bad St.badParam)
  else if !m.vane.asms.any mine && 4 ≤ (m.vane.asms.filter fun a => a.side == r.side).length then (m, .bad St.noResource)
  else
    let rest := m.vane.asms.filter fun a => !mine a
    if got.any fun g => (old.units.get g.1).any (· != g.2) then
      ({ m with vane := { m.vane with asms := rest } }, .bad St.badParam)
    else
      let a := { old with at_ := m.ticks, units := got.foldl (fun (t : Tab (Option Nat)) g => t.put g.1 (some g.2)) old.units }
      let left := total - a.units.cells.length
      if left == 0 then ({ m with vane := { m.vane with asms := rest } }, .whole (a.image k))
      else ({ m with vane := { m.vane with asms := rest ++ [a] } }, .missing left)

/-- The bank that is not running. -/
def Module.otherBank (m : Module) : Nat := 1 - m.sec.running

/-- A bank's state set, its content being no longer the delivered one. -/
def Module.markBank (m : Module) (k st : Nat) (image : Bytes := []) : Module :=
  { m with sec := m.sec.setBank k { factory := false, st := st, image := image } }

/-- ASSEMBLY_TIMEOUT of assembly `i`: 10 s without a fragment. -/
def assemblyTimeout (i : Nat) (m : Module) : Module :=
  match m.vane.asms[i]? with
  | none => m
  | some a =>
    let m := m.pass (a.at_ + ms 10000)
    let m := { m with vane := { m.vane with asms := m.vane.asms.eraseIdx i } }
    if a.kind == 1 then m.markBank m.otherBank 1 else m

/-! ### The fabric and the side-band port (R427, R428) -/

/-- The command that a CMD packet carries. -/
def cmdOf (p : Pkt) : CmdReq :=
  { opcode := bits p.h.tw 15 0, ver := bits p.h.tw 19 16, tag := p.h.tag, chip := p.h.src, body := p.pl,
    directed := p.h.mode == 2, port := p.port.getD 0, pathLen := p.h.pathLen, path := p.h.path }

/-- The answer to a command whose trailer is bad, and which is not executed (R108). It is not cached, so that the command sent
again with its tag executes (DESIGN CHOICE, log entry 104). -/
def Module.replyLost (m : Module) (r : CmdReq) : Module :=
  (replySegs r St.chunkLost 0 [(0, [])]).foldl (fun m x => m.sendReply r x) m

/-- CMD_ARRIVAL (R431 to R433). -/
def cmdArrival (p : Pkt) (m : Module) : Module :=
  if !m.pwr.main || p.h.type != 0x20 then m
  else
    let m := m.taken p
    if !m.vaneUp then m else if p.h.part != 0 then m.refuseCmd
    else if p.good then m.arrive (cmdOf p)
    else if m.isHost p.h.src then m.replyLost (cmdOf p) else m.refuseCmd

/-- The packet that the UDP payload of a datagram holds. -/
def pktOf (l : Bytes) : Pkt :=
  let h := Hdr.ofBytes (l.take 32)
  { h := h, pl := (l.drop 32).take h.len, t0 := BitVec.ofNat 32 (fieldBE l (32 + h.len) 4),
    t1 := BitVec.ofNat 32 (fieldBE l (36 + h.len) 4) }

/-- A whole datagram: checked, and passed on as a command, or discarded and counted. -/
def Module.datagram (m : Module) (addr : Bytes) (udp : Nat) (l : Bytes) : Module :=
  let p := pktOf l
  if l.length < 40 || l.length != 40 + p.h.len || !p.h.intact || !p.good || p.h.illegal true || p.h.type != 0x20 ||
     p.h.src != 131071 || (p.h.dest != 131071 && p.h.dest != m.chip) then m.refuseCmd
  else m.arrive { side := true, opcode := bits p.h.tw 15 0, ver := bits p.h.tw 19 16, tag := p.h.tag, addr := addr,
                  udp := udp, body := p.pl }

/-- SIDEBAND_DATAGRAM: a fragment of a datagram to port 17,150; a whole datagram is its own only fragment. -/
def sidebandDatagram (f : SbFrag) (m : Module) : Module :=
  if !m.vaneUp then m
  else if !m.sideAllowed f.addr || 2088 < f.total then m.refuseCmd
  else if f.off == 0 && f.data.length == f.total then m.datagram f.addr f.udp f.data
  else
    let same (x : Reasm) : Bool := x.addr == f.addr && x.ident == f.ident
    let old := m.vane.reasms.find? same
    if old.isNone && 8 ≤ m.vane.reasms.length then m
    else
      let x := old.getD { addr := f.addr, udp := f.udp, ident := f.ident, total := f.total, at_ := m.ticks }
      if x.total < f.off + f.data.length then m
      else
        let t := f.data.zipIdx.foldl (fun (t : Tab (Option Byte)) b => t.put (f.off + b.2) (some b.1)) x.bytes
        let x := { x with bytes := t, udp := if f.off == 0 then f.udp else x.udp }
        let rest := m.vane.reasms.filter fun y => !same y
        if t.cells.length == x.total then
          ({ m with vane := { m.vane with reasms := rest } }).datagram x.addr x.udp
            ((List.range x.total).map fun i => (t.get i).getD 0)
        else { m with vane := { m.vane with reasms := rest ++ [x] } }

/-- REASSEMBLY_TIMEOUT of reassembly `i`: incomplete after 1 s, it is discarded and counted. -/
def reassemblyTimeout (i : Nat) (m : Module) : Module :=
  match m.vane.reasms[i]? with
  | none => m
  | some x =>
    let m := m.pass (x.at_ + ms 1000)
    ({ m with vane := { m.vane with reasms := m.vane.reasms.eraseIdx i } }).refuseCmd

/-! ### Sending events (R447) -/

/-- EVENT_SEND: a subscription's next event leaves, once its path can carry it; EVENTS_LOST goes first after drops. -/
def eventSend (slot : Nat) (m : Module) : Module :=
  let s := m.vane.subs.get slot
  if !s.used || !m.vaneUp || (s.queue.isEmpty && s.dropped == 0) || !(s.side || (m.pwr.st == 2 && m.pwr.lull == 0)) then m
  else
    let lost := s.dropped != 0
    let e : Ev := if lost then ⟨0x0C02, pad16 (beBytes 4 s.dropped ++ zeros 12 ++ beBytes 8 m.now)⟩ else s.queue.headD {}
    let s' := { s with seq := (s.seq + 1) % 65536, dropped := 0, queue := if lost then s.queue else s.queue.drop 1 }
    let m := ({ m with vane := { m.vane with subs := m.vane.subs.put slot s' } }).count (mgtBlk 255) 0x128
    let p := Pkt.make (mkHdr 0x22 1 (if s.side then 131071 else s.chip) m.chip 0 s.tag (e.code + s.seq * 65536)) e.pl
    if s.side then m.emit (.datagram s.addr s.udp p) else m.originate p none none true

/-! ### The meanings -/

/-- CMD_ARRIVAL (R432). -/
def execCmdArrival (p : Pkt) (s : State) : Host.Outcome State Fault Refusal := .next (s.withM (cmdArrival p))

/-- SIDEBAND_DATAGRAM (R428). -/
def execSidebandDatagram (f : SbFrag) (s : State) : Host.Outcome State Fault Refusal := .next (s.withM (sidebandDatagram f))

/-- REASSEMBLY_TIMEOUT (R428). -/
def execReassemblyTimeout (idx : Nat) (s : State) : Host.Outcome State Fault Refusal := .next (s.withM (reassemblyTimeout idx))

/-- ASSEMBLY_TIMEOUT (R444). -/
def execAssemblyTimeout (idx : Nat) (s : State) : Host.Outcome State Fault Refusal := .next (s.withM (assemblyTimeout idx))

/-- EVENT_SEND (R447). -/
def execEventSend (slot : Nat) (s : State) : Host.Outcome State Fault Refusal := .next (s.withM (eventSend slot))

end Sys2Proof.Machine
end

