-- ==== Sys2Proof/Machine/CmdNet.lean ====
section
/-!
DEFINITION. The commands of families 0x01 to 0x05: identity and keep file, ports and cabling, routing, traffic, and
collective groups (R443).
-/
namespace Sys2Proof.Machine

/-! ### Family 0x01: identity and keep file -/

/-- The digest of the firmware that runs; what the recovery loader reports is not stated. -/
def Module.firmwareDigest (m : Module) : Module × Bytes :=
  if m.sec.recovery then m.freeBytes 32 else (m, m.sec.digest m.sec.running)

/-- IDENTIFY (R443). -/
def identify (r : CmdReq) (m : Module) : Module := m.command r 0x0101 true [] fun m =>
  let (m, d) := m.firmwareDigest
  m.replyFinal r St.ok ((List.range 12).map Config.serial ++ (List.range 2).map Config.stepping ++
    (List.range 4).map Config.dateCode ++ (List.range 6).map Config.mac ++ beBytes 4 m.chip ++ beBytes 3 m.coord ++
    beBytes 1 m.pwr.st ++ d)

/-- OFFSET and LENGTH of a keep-file command are legal. -/
def keepRange (r : CmdReq) : Bool :=
  r.u 0 2 % 16 == 0 && 16 ≤ r.u 2 2 && r.u 2 2 ≤ 2032 && r.u 2 2 % 16 == 0 && r.u 0 2 + r.u 2 2 ≤ 4096

/-- KEEP_READ (R443, R510). -/
def keepRead (r : CmdReq) (m : Module) : Module := m.command r 0x0102 true [(0, 2, 16), (2, 2, 16)] fun m =>
  if keepRange r then m.replyFinal r St.ok (m.keep.read (r.u 0 2) (r.u 2 2)) else m.replyFinal r St.badParam

/-- KEEP_WRITE (R443, R510, R512): every word is checked before any is stored. -/
def keepWrite (r : CmdReq) (m : Module) : Module :=
  m.command r 0x0103 true [(0, 2, 16), (2, 2, 16), (16, r.u 2 2, 8 * r.u 2 2)] fun m =>
    if !keepRange r then m.replyFinal r St.badParam
    else m.change r [unit 0x11 0] fun m =>
      let l := (List.range (r.u 2 2 / 4)).map fun i => (r.u 0 2 + 4 * i, r.u (16 + 4 * i) 4)
      match (l.map fun x => m.keepStatus r.side x.1 x.2).find? (· != St.ok) with
      | some st => (m, st, [])
      | none => (m.keepWrite l, St.ok, [])

/-! ### Registers by commands -/

/-- A change of units that writes registers: the status of the first illegal one, or every one written (R440, R443). -/
def Module.setRegs (m : Module) (r : CmdReq) (us : List Nat) (l : List RegW) : Module :=
  m.change r us fun m =>
    match m.writeRegs r.side l with
    | (m, st) => (m, st, [])

/-- The list where a SELECT bit is set. -/
def sel (v k : Nat) (l : List RegW) : List RegW := if bitAt v k then l else []

/-- The same register on each of the eight switch dies. -/
def allDies (agent off v : Nat) : List RegW := (List.range 8).map fun d => ⟨swBlk d agent, off, v⟩

/-! ### Family 0x02: ports -/

/-- PORT_CONFIG (R443). -/
def portConfig (r : CmdReq) (m : Module) : Module :=
  m.command r 0x0201 true ([(0, 1, 8), (4, 4, 5), (8, 4, 32)] ++ (List.range 9).map (fun i => (12 + 4 * i, 4, 32)) ++
    [(48, 4, 32), (52, 4, 32), (56, 1, 2)]) fun m =>
      let p := r.u 0 1
      let s := r.u 4 4
      let b := portBlk p
      let a := swBlk (p / 32) 5
      m.setRegs r [unit 7 p] (
        sel s 0 [⟨b, 0x000, r.u 8 4⟩] ++
        sel s 1 ((List.range 9).map fun i => ⟨b, 0x020 + 4 * i, r.u (12 + 4 * i) 4⟩) ++
        sel s 2 [⟨b, 0x044, r.u 48 4⟩] ++ sel s 3 [⟨b, 0x048, r.u 52 4⟩] ++
        sel s 4 [⟨a, 0x000, setBit (m.reg a 0x000 0) (p % 32) (bitAt (r.u 56 1) 0)⟩,
                 ⟨a, 0x008, b2n (bitAt (r.u 56 1) 1) * 2 ^ (p % 32)⟩])

/-- The 64 bytes of a port in PORT_STATUS. -/
def Module.portImage (m : Module) (p : Nat) : Bytes :=
  ((List.range 8).flatMap fun i => beBytes 4 (m.view (portBlk p) (4 * i))) ++
  beBytes 1 (b2n (bitAt m.net.admitted p) + 2 * b2n (m.portFenced p) + 4 * b2n (m.timePeer p)) ++ zeros 3 ++
  beBytes 4 (m.view (mgtBlk 2) (0x100 + 4 * p)) ++ zeros 24

/-- PORT_STATUS (R443). -/
def portStatus (r : CmdReq) (m : Module) : Module := m.command r 0x0202 true [(0, 1, 8), (1, 1, 8)] fun m =>
  let n := r.u 1 1
  if n == 0 || 32 < n || 256 < r.u 0 1 + n then m.replyFinal r St.badParam
  else m.replyFinal r St.ok ((List.range n).flatMap fun i => m.portImage (r.u 0 1 + i))

/-- A port in CHECK or past it is checked again; from QUARANTINED it goes through CHECK (R67). -/
def Module.recheck (m : Module) (p : Nat) : Module :=
  let l := m.link p
  if 5 ≤ l.st && m.linksOn then
    let m := if l.st == 7 then m.enterLink p 5 else m
    (m.setLink p { m.link p with holdUntil := none }).check p
  else m

/-- CABLING_LOAD (R75, R443). -/
def cablingLoad (r : CmdReq) (m : Module) : Module :=
  m.command r 0x0203 true [(0, 2, 16), (2, 2, 16), (16, 4 * r.u 2 2, 32 * r.u 2 2)] fun m =>
    let n := r.u 2 2
    let f := r.u 0 2
    if n == 0 || 256 < f + n then m.replyFinal r St.badParam
    else m.change r [unit 0x0F 0] fun m =>
      let l := (List.range n).map fun i => (0x400 + 4 * (f + i), r.u (16 + 4 * i) 4)
      match (l.map fun x => m.keepStatus r.side x.1 x.2).find? (· != St.ok) with
      | some st => (m, st, [])
      | none => ((List.range n).foldl (fun (m : Module) i => m.recheck (f + i)) (m.keepWrite l), St.ok, [])

/-! ### Family 0x03: routing -/

/-- ROUTE_WRITE of route entries (R147, R150): reserved bits of an entry are not stored. -/
def routeWrite (r : CmdReq) (m : Module) : Module :=
  let n := r.u 12 2
  m.command r 0x0301 (r.u 0 1 != 1) [(0, 1, 8), (1, 1, 8), (2, 2, 16), (8, 4, 32), (12, 2, 16), (16, 8 * n, 64 * n)] fun m =>
    if r.u 0 1 != 0 || 252 < n || 131072 < r.u 8 4 + n then m.replyFinal r St.badParam
    else m.change r [unit 0x0C 0] fun m =>
      let t := (List.range n).foldl (fun (t : Tab Nat) i => t.put (r.u 8 4 + i) (r.u (16 + 8 * i) 8 % 2 ^ 55)) m.net.route
      (({ m with net := { m.net with route := t } }).rehold, St.ok, [])

/-- ROUTE_WRITE of an Eddy set (R152). -/
def eddySetWrite (r : CmdReq) (m : Module) : Module :=
  let n := r.u 12 2
  m.command r 0x0301 (r.u 0 1 == 1) [(0, 1, 8), (1, 1, 8), (2, 2, 16), (8, 4, 32), (12, 2, 16), (16, 4 * n, 32 * n)] fun m =>
    let k := r.u 1 1
    let size := r.u 2 2
    let chips := (List.range n).map fun i => r.u (16 + 4 * i) 4
    if 64 ≤ k || 1024 < size || 504 < n || size < r.u 8 4 + n || chips.any (131071 < ·) then m.replyFinal r St.badParam
    else m.change r [unit 0x0C 0] fun m =>
      let t := m.net.eddyChip.keep fun x _ => !(1024 * k + size ≤ x && x < 1024 * k + 1024)
      let t := chips.zipIdx.foldl (fun (t : Tab (Option Nat)) c =>
        t.put (1024 * k + r.u 8 4 + c.2) (if c.1 == 131071 then none else some c.1)) t
      ({ m with net := { m.net with eddyChip := t, eddySize := m.net.eddySize.put k size } }, St.ok, [])

/-- ROUTE_READ (R150, R443). -/
def routeRead (r : CmdReq) (m : Module) : Module :=
  m.command r 0x0302 true [(0, 1, 1), (1, 1, 8), (8, 4, 32), (12, 2, 16)] fun m =>
    let n := r.u 12 2
    let f := r.u 8 4
    let k := r.u 1 1
    if r.u 0 1 == 0 then
      if 252 < n || 131072 < f + n then m.replyFinal r St.badParam
      else m.replyFinal r St.ok ((List.range n).flatMap fun i => beBytes 8 (m.net.route.get (f + i)))
    else if 64 ≤ k || 504 < n || m.net.eddySize.get k < f + n then m.replyFinal r St.badParam
    else m.replyFinal r St.ok (beBytes 2 (m.net.eddySize.get k) ++
      (List.range n).flatMap fun i => beBytes 4 ((m.net.eddyChip.get (1024 * k + f + i)).getD 131071))

/-- The layout of PIN_WRITE. -/
def pinLay (r : CmdReq) : List (Nat × Nat × Nat) :=
  [(0, 1, 8), (1, 1, 8)] ++ (List.range (r.u 1 1)).flatMap fun i =>
    let o := 16 + 16 * i
    [(o, 4, 17), (o + 4, 4, 17), (o + 8, 2, 12), (o + 10, 1, 3), (o + 11, 1, 1), (o + 12, 1, 8)]

/-- Entry `i` of PIN_WRITE. -/
def pinAt (r : CmdReq) (i : Nat) : Pin :=
  let o := 16 + 16 * i
  { src := r.u o 4, dst := r.u (o + 4) 4, part := r.u (o + 8) 2, vc := r.u (o + 10) 1, any := r.u (o + 11) 1 == 1,
    port := r.u (o + 12) 1 }

/-- The bucket of a key; whether two entries have one key (R154). -/
def Pin.bucket (e : Pin) : Nat := (e.src * 40503 + e.dst * 1021 + e.part * 7) % 4096
def Pin.same (a b : Pin) : Bool :=
  a.src == b.src && a.dst == b.dst && a.part == b.part && a.any == b.any && (a.any || a.vc == b.vc)

/-- An entry written, in place of one with its key; `none` where its bucket holds four valid entries. -/
def pinPut (t : Tab (List Pin)) (e : Pin) : Option (Tab (List Pin)) :=
  let l := t.get e.bucket
  if 4 ≤ l.length then none else some (t.put e.bucket ((l.filter fun x => !x.same e) ++ [e]))

/-- COUNT and the entries of PIN_WRITE are legal. An entry of an exact VC that is 0, the Calm VC, which no pinned flow uses, is
answered BAD_PARAM, as R8 and R443 answer an illegal field (R154 states no answer; DESIGN CHOICE, log entry 134). -/
def pinOk (r : CmdReq) : Bool :=
  1 ≤ r.u 1 1 && r.u 1 1 ≤ 64 && (List.range (r.u 1 1)).all fun i => (pinAt r i).any || (pinAt r i).vc != 0

/-- PIN_WRITE, ACTION 0 (R154). -/
def pinWrite (r : CmdReq) (m : Module) : Module := m.command r 0x0303 (r.u 0 1 != 1) (pinLay r) fun m =>
  if r.u 0 1 != 0 || !pinOk r then m.replyFinal r St.badParam
  else m.change r [unit 0x0D 0] fun m =>
    match (List.range (r.u 1 1)).foldl (fun (t : Option (Tab (List Pin))) i => t.bind fun t => pinPut t (pinAt r i))
        (some m.net.pins) with
    | none => (m, St.noResource, [])
    | some t => ({ m with net := { m.net with pins := t } }, St.ok, [])

/-- PIN_WRITE, ACTION 1: entries that are not there are passed over. -/
def pinRemove (r : CmdReq) (m : Module) : Module := m.command r 0x0303 (r.u 0 1 == 1) (pinLay r) fun m =>
  if !pinOk r then m.replyFinal r St.badParam
  else m.change r [unit 0x0D 0] fun m =>
    let t := (List.range (r.u 1 1)).foldl (fun (t : Tab (List Pin)) i =>
      let e := pinAt r i
      t.put e.bucket ((t.get e.bucket).filter fun x => !x.same e)) m.net.pins
    ({ m with net := { m.net with pins := t } }, St.ok, [])

/-- CALM_DIR of 16 ports as a register word, from the two-bit codes in CALM_WRITE's bytes 16 to 79. -/
def calmWord (r : CmdReq) (half : Nat) : Nat :=
  (List.range 16).foldl (fun a j =>
    let p := 16 * half + j
    a + bits (r.u (16 + p / 4) 1) (2 * (p % 4) + 1) (2 * (p % 4)) * 4 ^ j) 0

/-- CALM_WRITE (R157, R173): the timers on all dies, each port's direction on its own. -/
def calmWrite (r : CmdReq) (m : Module) : Module :=
  m.command r 0x0304 true [(0, 4, 2), (4, 4, 32), (8, 4, 32), (12, 4, 32), (16, 64, 512)] fun m =>
    m.setRegs r [unit 0x0E 0] (
      sel (r.u 0 4) 0 ((List.range 8).flatMap fun d =>
        [⟨swBlk d 5, 0x010, calmWord r (2 * d)⟩, ⟨swBlk d 5, 0x014, calmWord r (2 * d + 1)⟩]) ++
      sel (r.u 0 4) 1 (allDies 6 0xD00 (r.u 4 4) ++ allDies 6 0xD04 (r.u 8 4) ++ allDies 6 0xD08 (r.u 12 4)))

/-! ### Family 0x04: traffic -/

/-- PARTITION_CONFIG (R443): all three words on every die. -/
def partitionConfig (r : CmdReq) (m : Module) : Module :=
  m.command r 0x0401 true [(0, 2, 12), (4, 4, 32), (8, 4, 32), (12, 4, 32)] fun m =>
    let k := r.u 0 2
    m.setRegs r [unit 6 k]
      (allDies 5 (0x1000 + 4 * k) (r.u 4 4) ++ allDies 6 (0x4000 + 4 * k) (r.u 8 4) ++ allDies 16 (0x8000 + 4 * k) (r.u 12 4))

/-- VC_CONFIG (R443): VC_MODE and the weights on all dies; a QUANTUM for one port or all, one VC or VC2 to VC7. -/
def vcConfig (r : CmdReq) (m : Module) : Module :=
  m.command r 0x0402 true
    [(0, 4, 3), (4, 4, 32), (8, 2, 16), (10, 1, 8), (12, 4, 32), (16, 1, 8), (17, 1, 8), (20, 4, 32)] fun m =>
    let s := r.u 0 4
    let port := r.u 8 2
    let vc := r.u 10 1
    let wvc := r.u 16 1
    let fq := r.u 17 1
    let legal (v : Nat) : Bool := 2 ≤ v && v ≤ 7
    if (bitAt s 1 && !((port < 256 || port == 0xFFFF) && (legal vc || vc == 0xFF))) ||
       (bitAt s 2 && !(legal wvc && (fq < 64 || fq == 0xFF))) then m.replyFinal r St.badParam
    else
      let ports := if port == 0xFFFF then List.range 256 else [port]
      let vcs := if vc == 0xFF then [2, 3, 4, 5, 6, 7] else [vc]
      let fqs := if fq == 0xFF then List.range 64 else [fq]
      m.setRegs r [unit 0x0B 0] (
        sel s 0 (allDies 6 0x2400 (r.u 4 4)) ++
        sel s 1 (ports.flatMap fun p => vcs.map fun v => ⟨swBlk (p / 32) 6, 0x2000 + 4 * (8 * (p % 32) + v), r.u 12 4⟩) ++
        sel s 2 (fqs.flatMap fun f => allDies 6 (0x2800 + 4 * (64 * (wvc - 2) + f)) (r.u 20 4)))

/-- SHAPER_CONFIG (R183, R185): rate and burst before the key word. -/
def shaperConfig (r : CmdReq) (m : Module) : Module :=
  m.command r 0x0403 true [(0, 2, 14), (4, 4, 32), (8, 4, 32), (12, 4, 32)] fun m =>
    let n := r.u 0 2
    let b := swBlk (n / 2048) 6
    let o := 0x10000 + 16 * (n % 2048)
    m.setRegs r [unit 8 n] [⟨b, o + 4, r.u 8 4⟩, ⟨b, o + 8, r.u 12 4⟩, ⟨b, o, r.u 4 4⟩]

/-- POLICER_CONFIG (R189). -/
def policerConfig (r : CmdReq) (m : Module) : Module :=
  m.command r 0x0404 true [(0, 2, 14), (4, 4, 32), (8, 4, 32), (12, 4, 32), (16, 4, 32), (20, 4, 32)] fun m =>
    let n := r.u 0 2
    let b := swBlk (n / 2048) 6
    let o := 0x18000 + 32 * (n % 2048)
    m.setRegs r [unit 9 n]
      ((List.range 4).map (fun i => ⟨b, o + 4 + 4 * i, r.u (8 + 4 * i) 4⟩) ++ [⟨b, o, r.u 4 4⟩])

/-- RED_PROFILE (R138, R443): PORT is a local port of each die named. -/
def redProfile (r : CmdReq) (m : Module) : Module :=
  m.command r 0x0405 true
    [(0, 1, 8), (1, 1, 8), (2, 1, 2), (4, 4, 32), (8, 4, 32), (12, 4, 32), (16, 1, 8), (17, 1, 8), (20, 4, 32)] fun m =>
    let ds := onesOf (r.u 0 1) 8
    let s := r.u 2 1
    let k := r.u 1 1
    if (bitAt s 0 && 16 ≤ k) || (bitAt s 1 && !(r.u 16 1 < 32 && 2 ≤ r.u 17 1 && r.u 17 1 ≤ 7)) then
      m.replyFinal r St.badParam
    else
      m.setRegs r (ds.map (unit 0x0A)) (ds.flatMap fun d =>
        sel s 0 ((List.range 3).map fun i => ⟨swBlk d 6, 0x800 + 16 * k + 4 * i, r.u (4 + 4 * i) 4⟩) ++
        sel s 1 [⟨swBlk d 6, 0x900 + 4 * (8 * r.u 16 1 + r.u 17 1), r.u 20 4⟩])

/-- The capture ring of a die with a RING_SIZE_LOG2: unchanged where it has that already, else placed anew and empty. -/
def Module.resizeRing (m : Module) (d n : Nat) : Module :=
  if n == (m.die d).ring.sizeLog2 then m
  else
    let m := m.dropRing d
    let m := m.setDie d { m.die d with ring := { sizeLog2 := n } }
    match m.ringFit d with
    | some a => m.setDie d { m.die d with ring := { sizeLog2 := n, base := a } }
    | none => m.packRings

/-- The register writes of WINDSOCK_CONFIG, WS_CTRL last. -/
def windsockRegs (r : CmdReq) (b : Nat) : List RegW :=
  [⟨b, 0x014, r.u 8 4⟩, ⟨b, 0x018, r.u 12 4⟩] ++ (List.range 64).map (fun i => ⟨b, 0x100 + 4 * i, r.u (16 + 4 * i) 4⟩) ++
    [⟨b, 0x000, r.u 4 4⟩]

/-- What WINDSOCK_CONFIG sets on a die, its status and its reply data, the ring's base. -/
def Module.setWindsock (m : Module) (r : CmdReq) (d n : Nat) : Module × Nat × Bytes :=
  if !m.r308 (m.ringBytes - ringSize (m.die d).ring.sizeLog2 + ringSize n) then (m, St.noResource, [])
  else
    let x := (m.resizeRing d n).writeRegs r.side (windsockRegs r (swBlk d 8))
    if x.2 == St.ok then (x.1, x.2, beBytes 8 (x.1.die d).ring.base) else (m, x.2, [])

/-- WINDSOCK_CONFIG (R140 to R142, R308): a ring that moves or changes its size is reset. -/
def windsockConfig (r : CmdReq) (m : Module) : Module :=
  m.command r 0x0406 true [(0, 1, 3), (1, 1, 8), (4, 4, 32), (8, 4, 32), (12, 4, 32), (16, 256, 2048)] fun m =>
    let d := r.u 0 1
    let n := r.u 1 1
    if !(n == 0 || (16 ≤ n && n ≤ 27)) then m.replyFinal r St.badParam
    else m.change r [unit 0x0A d] fun m => m.setWindsock r d n

/-! ### Family 0x05: groups and multicast -/

/-- Whether a context of a group is open. -/
def Module.groupBusy (m : Module) (g : Nat) : Bool := m.coll.ctxs.cells.any fun c => c.2.used && c.2.group == g

/-- GROUP_CREATE (R223, R224). -/
def groupCreate (r : CmdReq) (m : Module) : Module :=
  m.command r 0x0501 true [(0, 2, 16), (2, 2, 12), (4, 1, 8)] fun m =>
    let g := r.u 0 2
    let vc := r.u 4 1
    if (m.grp g).used || !(vc == 2 || (4 ≤ vc && vc ≤ 7)) then m.replyFinal r St.badParam
    else if 4096 ≤ (m.coll.groups.cells.filter fun c => c.2.used).length then m.replyFinal r St.noResource
    else ((m.setGrp g { used := true, part := r.u 2 2, vc := vc }).claim r [unit 2 g]).replyFinal r St.ok

/-- GROUP_MEMBERS (R224, R225): LOW becomes SEQ_START. -/
def groupMembers (r : CmdReq) (m : Module) : Module :=
  m.command r 0x0502 true [(0, 2, 16), (4, 4, 32), (8, 4, 18), (12, 4, 32)] fun m =>
    let g := r.u 0 2
    let x := m.grp g
    if !x.used then m.replyFinal r St.badParam
    else m.change r [unit 2 g] fun m =>
      let d := (r.u 4 4 + 2 ^ 32 - x.epoch) % 2 ^ 32
      if m.groupBusy g then (m, St.busy, [])
      else if d == 0 || 2 ^ 31 ≤ d || r.u 8 4 == 0 || 131072 < r.u 8 4 then (m, St.badParam, [])
      else (m.setGrp g { x with epoch := r.u 4 4, n := r.u 8 4, low := r.u 12 4, done := [], empties := [], refused := [] },
            St.ok, [])

/-- Child or local member `i` of GROUP_PLAN as three words. -/
def planWords (r : CmdReq) (i : Nat) : Nat × Nat × Nat := (r.u (16 + 12 * i) 4, r.u (20 + 12 * i) 4, r.u (24 + 12 * i) 4)

/-- GROUP_PLAN (R228, R230): APPEND adds to the entry's children and locals. -/
def groupPlan (r : CmdReq) (m : Module) : Module :=
  let nc := r.u 10 1
  let nl := r.u 12 2
  m.command r 0x0503 true
    [(0, 2, 16), (2, 1, 8), (3, 1, 8), (4, 4, 17), (8, 1, 3), (9, 1, 1), (10, 1, 8), (12, 2, 16), (14, 1, 2),
     (16, 12 * (nc + nl), 96 * (nc + nl))] fun m =>
    let g := r.u 0 2
    let x := m.grp g
    let p := r.u 2 1
    let np := r.u 3 1
    let kids : List Child := (List.range nc).map fun i => let w := planWords r i; ⟨w.1, w.2.1, w.2.2⟩
    let locs : List Loc := (List.range nl).map fun i => let w := planWords r (nc + i); ⟨w.1, w.2.1, w.2.2⟩
    if !x.used || np == 0 || 8 < np || np ≤ p || 64 < nc ||
       kids.any (fun k => 131071 < k.chip || 131071 < k.lo || 131071 < k.hi) ||
       locs.any (fun l => x.n ≤ l.member || 131071 < l.chip || 256 < l.port) then m.replyFinal r St.badParam
    else m.change r [unit 2 g] fun m =>
      let old : Plan := if bitAt (r.u 14 1) 0 then (x.plans.get p).getD {} else {}
      let new : Plan := { nplanes := np, parent := r.u 4 4, kids := old.kids ++ kids, locals := old.locals ++ locs,
                          base := r.u 8 1, spread := r.u 9 1 }
      let others := x.plans.cells.filter fun c => c.1 != p || bitAt (r.u 14 1) 0
      if 64 < new.kids.length || 512 < new.locals.length || others.any (fun c => c.2.any fun q => q.nplanes != np) then
        (m, St.badParam, [])
      else (m.setGrp g { x with plans := x.plans.put p (some new) }, St.ok, [])

/-- GROUP_DELETE (R224). -/
def groupDelete (r : CmdReq) (m : Module) : Module := m.command r 0x0504 true [(0, 2, 16)] fun m =>
  let g := r.u 0 2
  if !(m.grp g).used then m.replyFinal r St.badParam
  else if !m.mayChange r (unit 2 g) then m.replyFinal r St.notOwner
  else if m.groupBusy g then m.replyFinal r St.busy
  else ((m.setGrp g {}).setOwner (unit 2 g) none).replyFinal r St.ok

/-- MCAST_CONFIG (R257). -/
def mcastConfig (r : CmdReq) (m : Module) : Module :=
  m.command r 0x0505 true ([(0, 2, 14)] ++ (List.range 5).map fun i => (8 + 8 * i, 8, 64)) fun m =>
    let i := r.u 0 2
    let w := r.u 8 8 % 2 ^ 17
    if bits w 14 12 < 2 then m.replyFinal r St.badParam
    else m.change r [unit 3 i] fun m =>
      let ports := (List.range 4).foldl (fun a k => a + r.u (16 + 8 * k) 8 * 2 ^ (64 * k)) 0
      ({ m with net := { m.net with mcast := m.net.mcast.put i { word0 := w, ports := ports } } }, St.ok, [])

/-! ### The meanings -/

/-- IDENTIFY (R443). -/
def execIdentify (r : CmdReq) (s : State) : Host.Outcome State Fault Refusal := .next (s.withM (identify r))

/-- KEEP_READ (R443). -/
def execKeepRead (r : CmdReq) (s : State) : Host.Outcome State Fault Refusal := .next (s.withM (keepRead r))

/-- KEEP_WRITE (R512). -/
def execKeepWrite (r : CmdReq) (s : State) : Host.Outcome State Fault Refusal := .next (s.withM (keepWrite r))

/-- PORT_CONFIG (R443). -/
def execPortConfig (r : CmdReq) (s : State) : Host.Outcome State Fault Refusal := .next (s.withM (portConfig r))

/-- PORT_STATUS (R443). -/
def execPortStatus (r : CmdReq) (s : State) : Host.Outcome State Fault Refusal := .next (s.withM (portStatus r))

/-- CABLING_LOAD (R443). -/
def execCablingLoad (r : CmdReq) (s : State) : Host.Outcome State Fault Refusal := .next (s.withM (cablingLoad r))

/-- ROUTE_WRITE (R150). -/
def execRouteWrite (r : CmdReq) (s : State) : Host.Outcome State Fault Refusal := .next (s.withM (routeWrite r))

/-- EDDY_SET_WRITE (R152). -/
def execEddySetWrite (r : CmdReq) (s : State) : Host.Outcome State Fault Refusal := .next (s.withM (eddySetWrite r))

/-- ROUTE_READ (R443). -/
def execRouteRead (r : CmdReq) (s : State) : Host.Outcome State Fault Refusal := .next (s.withM (routeRead r))

/-- PIN_WRITE (R154). -/
def execPinWrite (r : CmdReq) (s : State) : Host.Outcome State Fault Refusal := .next (s.withM (pinWrite r))

/-- PIN_REMOVE (R443). -/
def execPinRemove (r : CmdReq) (s : State) : Host.Outcome State Fault Refusal := .next (s.withM (pinRemove r))

/-- CALM_WRITE (R443). -/
def execCalmWrite (r : CmdReq) (s : State) : Host.Outcome State Fault Refusal := .next (s.withM (calmWrite r))

/-- PARTITION_CONFIG (R151). -/
def execPartitionConfig (r : CmdReq) (s : State) : Host.Outcome State Fault Refusal := .next (s.withM (partitionConfig r))

/-- VC_CONFIG (R190). -/
def execVcConfig (r : CmdReq) (s : State) : Host.Outcome State Fault Refusal := .next (s.withM (vcConfig r))

/-- SHAPER_CONFIG (R183). -/
def execShaperConfig (r : CmdReq) (s : State) : Host.Outcome State Fault Refusal := .next (s.withM (shaperConfig r))

/-- POLICER_CONFIG (R189). -/
def execPolicerConfig (r : CmdReq) (s : State) : Host.Outcome State Fault Refusal := .next (s.withM (policerConfig r))

/-- RED_PROFILE (R137). -/
def execRedProfile (r : CmdReq) (s : State) : Host.Outcome State Fault Refusal := .next (s.withM (redProfile r))

/-- WINDSOCK_CONFIG (R142). -/
def execWindsockConfig (r : CmdReq) (s : State) : Host.Outcome State Fault Refusal := .next (s.withM (windsockConfig r))

/-- GROUP_CREATE (R224). -/
def execGroupCreate (r : CmdReq) (s : State) : Host.Outcome State Fault Refusal := .next (s.withM (groupCreate r))

/-- GROUP_MEMBERS (R225). -/
def execGroupMembers (r : CmdReq) (s : State) : Host.Outcome State Fault Refusal := .next (s.withM (groupMembers r))

/-- GROUP_PLAN (R228). -/
def execGroupPlan (r : CmdReq) (s : State) : Host.Outcome State Fault Refusal := .next (s.withM (groupPlan r))

/-- GROUP_DELETE (R224). -/
def execGroupDelete (r : CmdReq) (s : State) : Host.Outcome State Fault Refusal := .next (s.withM (groupDelete r))

/-- MCAST_CONFIG (R257). -/
def execMcastConfig (r : CmdReq) (s : State) : Host.Outcome State Fault Refusal := .next (s.withM (mcastConfig r))

end Sys2Proof.Machine
end

