-- ==== Sys2Proof/Machine/CmdStore.lean ====
section
/-!
DEFINITION. The commands of families 0x06 and 0x07: the context store, programs and kernel runs (R315 to R327, R335,
R337, R443 to R445); and READ_REQ, which also reads control space (R103, R113, R439).
-/
namespace Sys2Proof.Machine

/-! ### Reads (R103, R110, R113, R325) -/

/-- Bytes of the heat table: the counters, 2 bytes each, least significant first, and zeros behind them (R325). -/
def Module.heatBytes (m : Module) (o n : Nat) : Bytes :=
  (List.range n).map fun i => BitVec.ofNat 8 (m.store.heat.get ((o + i) / 2) / 256 ^ ((o + i) % 2))

/-- Bytes of the fabric reserve: a placed Windsock ring and the heat table are what they are; what else stands there is
not stated. -/
def Module.reserveBytes (m : Module) (off n : Nat) : Module × Bytes :=
  if 0x00FFB8000000 ≤ off && off + n ≤ 0x00FFB8000000 + 2 * 161792 then (m, m.heatBytes (off - 0x00FFB8000000) n)
  else if (List.range 8).any fun d =>
      let g := (m.die d).ring
      g.sizeLog2 != 0 && g.base ≤ off && off + n ≤ g.base + 2 ^ g.sizeLog2 then (m, m.mem.read off n)
  else m.freeBytes n

/-- READ_REQ (R113): the answer carries the bytes, or a status alone. `c`: what the tile's check finds (R109, R306). -/
def readReq (p : Pkt) (c : EccIn) (m : Module) : Module := m.perform p 2 fun m =>
  let m := m.strike c
  let st := m.destStatus p
  let off := p.h.offset
  let n := bits p.h.tw 11 0
  if st != St.ok then m.answer p 3 st [] (m.answerDie off)
  else if inControl off then
    (if ctlOk off (n / 4) then m.answer p 3 St.ok (m.readCtl off (n / 4)) else m.answer p 3 St.badParam [])
  else if inReserve off then
    let tile := (off - resBase) / 2048
    let die := m.answerDie off
    let m := (m.countRead (resKey tile)).checkRes tile 2
    (if m.isPoisoned (resKey tile) then m.answer p 3 St.poisoned [] die
     else match m.reserveBytes off n with | (m, b) => m.answer p 3 St.ok b die)
  else match m.store.locate off with
    | none => m
    | some (i, t) =>
      let k := m.present (m.obj i) t
      let die := m.answerDie off
      let m := ((m.warm off).countRead k).check1 (m.obj i).handle t k 2
      if m.isPoisoned k then m.answer p 3 St.poisoned [] die
      else m.answer p 3 St.ok (slice (m.tileBytes k) (off % 2048) n) die

/-! ### Store objects (*Store commands*) -/

/-- A command on the object that HANDLE names: its index (R309). -/
def Module.onObj (m : Module) (r : CmdReq) (f : Module → Nat → Module) : Module :=
  match m.store.find (r.u 0 4) with
  | none => m.replyFinal r St.badParam
  | some i => if m.mayChange r (unit 1 i) then f m i else m.replyFinal r St.notOwner

/-- The end of a command on object `i`: its status, with ownership where it is OK. -/
def Module.endObj (m : Module) (r : CmdReq) (i : Nat) (x : Module × Nat) (data : Bytes := []) : Module :=
  if x.2 == St.ok then (x.1.claim r [unit 1 i]).replyFinal r St.ok data else m.replyFinal r x.2

/-- STORE_CREATE (R310 to R313). -/
def storeCreate (r : CmdReq) (m : Module) : Module :=
  m.command r 0x0601 true
    [(0, 2, 12), (2, 1, 2), (3, 1, 3), (4, 2, 16), (6, 1, 1), (8, 4, 32), (12, 4, 32)] fun m =>
    if r.u 12 4 == 0 || r.u 8 4 < r.u 12 4 then m.replyFinal r St.badParam
    else match m.storeCreate (r.u 0 2) (r.u 2 1) (r.u 3 1) (r.u 4 2) (r.u 6 1 == 1) (r.u 8 4) (r.u 12 4) with
      | (_, .inr st) => m.replyFinal r st
      | (m, .inl i) =>
        (m.claim r [unit 1 i]).replyFinal r St.ok (beBytes 4 (m.obj i).handle ++ zeros 4 ++ beBytes 8 (m.obj i).base)

/-- STORE_RESIZE (R315). -/
def storeResize (r : CmdReq) (m : Module) : Module := m.command r 0x0602 true [(0, 4, 32), (4, 4, 32)] fun m =>
  m.onObj r fun m i =>
    let o := m.obj i
    let size := r.u 4 4
    if o.job.isSome || o.dig.isSome || !o.claims.isEmpty then m.replyFinal r St.busy
    else if size == 0 || o.max < size then m.replyFinal r St.badParam
    else if o.sealed_ then m.replyFinal r St.sealed_
    else m.endObj r i (m.storeResize i size)

/-- Segments from `first` whose placement is to be that of a code: segment, placement, die. -/
def moves (first n placement die split : Nat) : List (Nat × Nat × Nat) :=
  (List.range n).map fun k =>
    (first + k, if placement == 3 then (if first + k < split then 0 else 2) else placement, die)

/-- A migration starts: NO_RESOURCE where it needs DDR5 and no channel is in use (R323, R324). -/
def Module.migrate (m : Module) (r : CmdReq) (i : Nat) (o : Obj) (todo : List (Nat × Nat × Nat)) (rate : Nat)
    (place : Option (Nat × Nat × Nat) := none) : Module :=
  if m.store.chans.isEmpty && todo.any fun x => x.2.1 == 2 then m.replyFinal r St.noResource
  else m.deferCmd r { kind := 3, key := o.handle, b := todo.length } fun m h =>
    let j : Job := { kind := 1, entry := h, todo := todo, asked := todo.length, rate := rate, place := place }
    ((m.setObj i { o with job := some j }).claim r [unit 1 i]).advanceJob i j

/-- STORE_PLACE (R315): deferred where a segment's placement differs; the record changes when it ends OK. -/
def storePlace (r : CmdReq) (m : Module) : Module :=
  m.command r 0x0603 true [(0, 4, 32), (4, 1, 2), (5, 1, 3), (6, 2, 16)] fun m =>
    m.onObj r fun m i =>
      let o := m.obj i
      let todo := (moves 0 o.segs.length (r.u 4 1) (r.u 5 1) (r.u 6 2)).filter fun x =>
        !((o.segs.getD x.1 {}).isAt x.2.1 x.2.2)
      let o2 := { o with placement := r.u 4 1, localDie := r.u 5 1, split := r.u 6 2 }
      if o.job.isSome || o.dig.isSome then m.replyFinal r St.busy
      else if todo.isEmpty then m.endObj r i (m.setObj i o2, St.ok) (zeros 12)
      else m.migrate r i o todo 100 (some (r.u 4 1, r.u 5 1, r.u 6 2))

/-- STORE_MIGRATE (R323): RATE_GBS paces the copy. -/
def storeMigrate (r : CmdReq) (m : Module) : Module :=
  m.command r 0x0604 true [(0, 4, 32), (4, 4, 32), (8, 4, 32), (12, 1, 2), (13, 1, 3), (14, 2, 16)] fun m =>
    m.onObj r fun m i =>
      let o := m.obj i
      let n := r.u 8 4
      if o.job.isSome || o.dig.isSome then m.replyFinal r St.busy
      else if n == 0 || o.segs.length < r.u 4 4 + n || 1000 < r.u 14 2 then m.replyFinal r St.badParam
      else m.migrate r i o (moves (r.u 4 4) n (r.u 12 1) (r.u 13 1) o.split)
        (if r.u 14 2 == 0 then 100 else r.u 14 2)

/-- STORE_COMMIT (R317, R319): nothing where the object is not dirty. -/
def storeCommit (r : CmdReq) (m : Module) : Module := m.command r 0x0605 true [(0, 4, 32)] fun m =>
  m.onObj r fun m i =>
    let o := m.obj i
    if o.dig.isSome || !o.claims.isEmpty then m.replyFinal r St.busy
    else if o.sealed_ then m.replyFinal r St.sealed_
    else
      let o := if o.dirty then o.commit else o
      m.endObj r i (m.setObj i o, St.ok) (beBytes 4 o.version)

/-- STORE_SEAL (R322): the commit at once, the digest as deferred work. -/
def storeSeal (r : CmdReq) (m : Module) : Module := m.command r 0x0606 true [(0, 4, 32)] fun m =>
  m.onObj r fun m i =>
    let o := m.obj i
    if o.dig.isSome || !o.claims.isEmpty then m.replyFinal r St.busy
    else if o.sealed_ then m.replyFinal r St.sealed_
    else m.deferCmd r { kind := 4, key := r.tag, a := r.opcode } fun m h =>
      let o := o.commit
      (m.setObj i { o with dig := some { kind := 2, entry := h, version := o.version } }).claim r [unit 1 i]

/-- STORE_UNSEAL (R315, R317). -/
def storeUnseal (r : CmdReq) (m : Module) : Module := m.command r 0x0607 true [(0, 4, 32)] fun m =>
  m.onObj r fun m i =>
    let o := m.obj i
    if !o.sealed_ then m.replyFinal r St.badParam
    else
      let o := { o.commit with sealed_ := false, digest := [] }
      m.endObj r i (m.setObj i o, St.ok) (beBytes 4 o.version)

/-- STORE_DIGEST (R321): the stored digest of a sealed object, or deferred work; it only reads. -/
def storeDigest (r : CmdReq) (m : Module) : Module := m.command r 0x0608 true [(0, 4, 32)] fun m =>
  match m.store.find (r.u 0 4) with
  | none => m.replyFinal r St.badParam
  | some i =>
    let o := m.obj i
    if o.sealed_ then m.replyFinal r St.ok (beBytes 4 o.version ++ [1] ++ zeros 11 ++ o.digest)
    else if o.dig.isSome then m.replyFinal r St.busy
    else m.deferCmd r { kind := 4, key := r.tag, a := r.opcode } fun m h =>
      m.setObj i { o with dig := some { kind := 3, entry := h, version := o.version } }

/-- STORE_DELETE (R309, R316). -/
def storeDelete (r : CmdReq) (m : Module) : Module := m.command r 0x0609 true [(0, 4, 32)] fun m =>
  m.onObj r fun m i =>
    let o := m.obj i
    if o.job.isSome || o.dig.isSome || !o.claims.isEmpty then m.replyFinal r St.busy
    else ((m.storeDelete i).setOwner (unit 1 i) none).replyFinal r St.ok

/-- TILE_RETIRE (R327). -/
def tileRetire (r : CmdReq) (m : Module) : Module := m.command r 0x060A true [(0, 4, 32), (4, 4, 32)] fun m =>
  m.onObj r fun m i =>
    let o := m.obj i
    let t := r.u 4 4
    if o.dig.isSome then m.replyFinal r St.busy
    else if o.sealed_ then m.replyFinal r St.sealed_
    else if o.size ≤ t || !m.tilePoisoned o t then m.replyFinal r St.badParam
    else m.endObj r i (m.retire i t)

/-! ### Programs (R335 to R337, R444) and kernel runs (R445) -/

/-- PROGRAM_LOAD: the number of missing words, or the program's slot. -/
def programLoad (r : CmdReq) (m : Module) : Module :=
  m.command r 0x0701 true (fragLay r.body 4) fun m =>
    if r.u 32 4 == 0 || 16384 < r.u 32 4 || 500 < r.u 40 2 then m.replyFinal r St.badParam
    else match m.fragment r 0 4 with
      | (m, .bad st) => m.replyFinal r st
      | (m, .missing n) => m.replyFinal r St.ok (beBytes 4 n)
      | (m, .whole image) =>
        if shake256 image 32 != r.body.take 32 then m.replyFinal r St.badParam
        else
          let had := (m.kern.find (r.body.take 32)).isSome
          match m.installProgram image with
          | (m, st) =>
            let slot := (m.kern.find (r.body.take 32)).getD 0
            if st == St.ok then (if had then m else m.claim r [unit 4 slot]).replyFinal r St.ok (beBytes 1 slot)
            else m.replyFinal r st

/-- PROGRAM_UNLOAD (R337). -/
def programUnload (r : CmdReq) (m : Module) : Module := m.command r 0x0702 true [(0, 32, 256)] fun m =>
  match m.kern.find (r.body.take 32) with
  | none => m.replyFinal r St.badParam
  | some s =>
    if !m.mayChange r (unit 4 s) then m.replyFinal r St.notOwner
    else match m.unloadProgram (r.body.take 32) with
      | (m, st) => (if st == St.ok then m.setOwner (unit 4 s) none else m).replyFinal r st

/-- KERNEL_RUN (R338, R445): a run refused by its checks is answered with a result header alone. -/
def kernelRun (r : CmdReq) (m : Module) : Module :=
  m.command r 0x0703 true [(0, 2, 12), (2, 1, 5), (16, r.body.length - 16, 8 * (r.body.length - 16))] fun m =>
    let die := r.u 2 1 % 16
    if 8 ≤ die && die < 15 then m.replyFinal r St.badParam
    else match descOf (r.body.drop 16) (r.u 0 2) r.master r.tag 3 (bitAt (r.u 2 1) 4) true with
      | none => m.replyFinal r St.badParam
      | some d =>
        match m.submit d die { side := r.side, key := r.tag, keyChip := r.master, req := some r } with
        | (m, .inr st) => m.replyFinal r st (resultHead st 0 false false false false 0 0xFF {} 0 m.now)
        | (m, .inl h) => m.replyDeferred r h

/-! ### The meanings -/

/-- READ_REQ (R113). -/
def execReadReq (p : Pkt) (c : EccIn) (s : State) : Host.Outcome State Fault Refusal := .next (s.withM (readReq p c))

/-- STORE_CREATE (R311). -/
def execStoreCreate (r : CmdReq) (s : State) : Host.Outcome State Fault Refusal := .next (s.withM (storeCreate r))

/-- STORE_RESIZE (R315). -/
def execStoreResize (r : CmdReq) (s : State) : Host.Outcome State Fault Refusal := .next (s.withM (storeResize r))

/-- STORE_PLACE (R315). -/
def execStorePlace (r : CmdReq) (s : State) : Host.Outcome State Fault Refusal := .next (s.withM (storePlace r))

/-- STORE_MIGRATE (R323). -/
def execStoreMigrate (r : CmdReq) (s : State) : Host.Outcome State Fault Refusal := .next (s.withM (storeMigrate r))

/-- STORE_COMMIT (R317). -/
def execStoreCommit (r : CmdReq) (s : State) : Host.Outcome State Fault Refusal := .next (s.withM (storeCommit r))

/-- STORE_SEAL (R322). -/
def execStoreSeal (r : CmdReq) (s : State) : Host.Outcome State Fault Refusal := .next (s.withM (storeSeal r))

/-- STORE_UNSEAL (R315). -/
def execStoreUnseal (r : CmdReq) (s : State) : Host.Outcome State Fault Refusal := .next (s.withM (storeUnseal r))

/-- STORE_DIGEST (R321). -/
def execStoreDigest (r : CmdReq) (s : State) : Host.Outcome State Fault Refusal := .next (s.withM (storeDigest r))

/-- STORE_DELETE (R316). -/
def execStoreDelete (r : CmdReq) (s : State) : Host.Outcome State Fault Refusal := .next (s.withM (storeDelete r))

/-- TILE_RETIRE (R327). -/
def execTileRetire (r : CmdReq) (s : State) : Host.Outcome State Fault Refusal := .next (s.withM (tileRetire r))

/-- PROGRAM_LOAD (R335). -/
def execProgramLoad (r : CmdReq) (s : State) : Host.Outcome State Fault Refusal := .next (s.withM (programLoad r))

/-- PROGRAM_UNLOAD (R337). -/
def execProgramUnload (r : CmdReq) (s : State) : Host.Outcome State Fault Refusal := .next (s.withM (programUnload r))

/-- KERNEL_RUN (R445). -/
def execKernelRun (r : CmdReq) (s : State) : Host.Outcome State Fault Refusal := .next (s.withM (kernelRun r))

end Sys2Proof.Machine
end

