-- ==== Sys2Proof/Machine/CmdSys.lean ====
section
/-!
DEFINITION. The commands of families 0x08 to 0x0F: time, power and resets, faults, security, ownership, the operation
tracker, control space, subscriptions and factory test (R443 to R452, R464, R469, R480 to R490, R497, R504).
-/
namespace Sys2Proof.Machine

/-! ### Family 0x08: time -/

/-- TIME_CONFIG (R425, R443): STEP_NOW acts after STEP_UNITS is written. -/
def timeConfig (r : CmdReq) (m : Module) : Module :=
  m.command r 0x0801 true
    [(0, 4, 6), (4, 4, 32), (8, 4, 32), (12, 4, 32), (16, 4, 32), (20, 4, 32), (24, 8, 64)] fun m =>
    m.change r [unit 0x10 0] fun m =>
      let b := mgtBlk 2
      let s := r.u 0 4
      let step := sel s 5 [⟨b, 0x018, r.u 24 8⟩]
      let rest := sel s 0 [⟨b, 0x000, r.u 4 4⟩] ++ sel s 1 [⟨b, 0x004, r.u 8 4⟩] ++ sel s 2 [⟨b, 0x008, r.u 12 4⟩] ++
        sel s 3 [⟨b, 0x00C, r.u 16 4⟩] ++ sel s 4 [⟨b, 0x010, r.u 20 4⟩]
      match m.writeRegs r.side step with
      | (m1, st) =>
        if st != St.ok then (m, st, [])
        else match m1.writeRegs r.side rest with
          | (m2, st) => if st == St.ok then (m2, st, []) else (m, st, [])

/-- TIME_STATUS (R443). -/
def timeStatus (r : CmdReq) (m : Module) : Module := m.command r 0x0802 true [] fun m =>
  let b := mgtBlk 2
  m.replyFinal r St.ok (beBytes 4 (m.view b 0x020) ++ beBytes 4 (m.view b 0x028) ++ beBytes 4 (m.view b 0x02C) ++
    zeros 4 ++ beBytes 8 m.now)

/-! ### Family 0x09: power, Lull and resets -/

/-- Registers written by a family that knows no ownership (R438). -/
def Module.freeRegs (m : Module) (r : CmdReq) (l : List RegW) (data : Module → Bytes := fun _ => []) : Module :=
  match m.writeRegs r.side l with
  | (m', st) => if st == St.ok then m'.replyFinal r st (data m') else m.replyFinal r st

/-- POWER_CAP (R45, R443). -/
def powerCap (r : CmdReq) (m : Module) : Module := m.command r 0x0901 true [(0, 2, 16), (2, 2, 16)] fun m =>
  let b := mgtBlk 6
  if 8192 ≤ r.u 0 2 || 1024 ≤ r.u 2 2 then m.replyFinal r St.badParam
  else m.freeRegs r ((if r.u 2 2 == 0 then [] else [⟨b, 0x008, r.u 2 2⟩]) ++ [⟨b, 0x004, r.u 0 2⟩])

/-- PACE_CONFIG (R40, R443). -/
def paceConfig (r : CmdReq) (m : Module) : Module :=
  m.command r 0x0902 true [(0, 4, 32), (4, 4, 32), (8, 4, 32), (12, 4, 32)] fun m =>
    let b := mgtBlk 6
    m.freeRegs r [⟨b, 0x000, r.u 0 4⟩, ⟨b, 0x00C, r.u 4 4⟩, ⟨b, 0x010, r.u 8 4⟩, ⟨b, 0x014, r.u 12 4⟩] fun m =>
      beBytes 4 (m.view b 0x020) ++ (List.range 9).flatMap fun k => beBytes 4 (m.view b (0x040 + 4 * k))

/-- The layout of LULL_ENTER. -/
def lullLay : List (Nat × Nat × Nat) := [(0, 1, 8), (4, 4, 32), (8, 8, 64)]

/-- A nonzero WAKE_COUNT sets the wake count (R504). -/
def wakeCount (r : CmdReq) : List RegW := if r.u 8 8 == 0 then [] else [⟨mgtBlk 6, 0x310, r.u 8 8⟩]

/-- LULL_ENTER, MODE 0: the reply leaves before the entry (R504, R505). -/
def lullEnter (r : CmdReq) (m : Module) : Module := m.command r 0x0903 (r.u 0 1 != 1) lullLay fun m =>
  if r.u 0 1 != 0 || 3600000 < r.u 4 4 then m.replyFinal r St.badParam
  else if m.trk.anyOpen || !(m.pwr.st == 2 || m.pwr.st == 3) then m.replyFinal r St.busy
  else (m.freeRegs r (wakeCount r)).enterLull

/-- LULL_ENTER, MODE 1: IDLE_MS is set (R504); *Opcodes* gives BUSY while a tracker entry is OPEN for the command, whatever
its MODE. -/
def lullIdleSet (r : CmdReq) (m : Module) : Module := m.command r 0x0903 (r.u 0 1 == 1) lullLay fun m =>
  if m.trk.anyOpen then m.replyFinal r St.busy else m.freeRegs r ([⟨mgtBlk 6, 0x308, r.u 4 4⟩] ++ wakeCount r)

/-- The layout of RESET: PORT for KIND 2 alone. -/
def resetLay (r : CmdReq) : List (Nat × Nat × Nat) := [(0, 1, 8)] ++ (if r.u 0 1 == 2 then [(1, 1, 8)] else [])

/-- The last packet that the module has originated leaves at once, by the ports that its lookup gives it; where it finds no
cells or no port, the reset that follows loses it (R497; DESIGN CHOICE, log entry 127). -/
def Module.leaveNow (m : Module) : Module :=
  match m.net.orig.getLast? with
  | none => m
  | some o =>
    let d := o.die.getD (o.pkt.h.dest % 8)
    match ({ m with net := { m.net with orig := m.net.orig.dropLast } }).launch d o with
    | none => m
    | some m => match m.net.pkts.find? fun b => b.id + 1 == m.net.nextId with
      | none => m
      | some b => b.copies.foldl (fun (m : Module) c =>
          if m.active c.port then
            ((m.sendPkt c.port { h := c.h, pl := b.pkt.pl, t0 := b.pkt.t0, t1 := b.pkt.t1 }).fillWords c.port).sendNumbered c.port
          else m) m

/-- The final reply of a command that resets, sent before the reset begins (R497). -/
def Module.replyFirst (m : Module) (r : CmdReq) : Module :=
  let m := m.replyFinal r St.ok
  if r.side || !m.fabricUp then m else m.leaveNow

/-- `n` waiting events of a subscription leave at once. -/
def Module.flushSlot (m : Module) (slot : Nat) : Nat → Module
  | 0 => m
  | n + 1 =>
    let k := m.net.orig.length
    let m := eventSend slot m
    (if k < m.net.orig.length then m.leaveNow else m).flushSlot slot n

/-- The open record closes before a reset of kind 0, 1 or 3, which ends the subscriptions: its FAULT_RECORD event is sent, behind
the events that wait before it (R465, R466). -/
def Module.closeForReset (m : Module) : Module :=
  if m.flt.cur.isNone then m
  else
    let m := m.closeRecord
    (List.range 16).foldl (fun (m : Module) k => m.flushSlot k ((m.vane.subs.get k).queue.length + 1)) m

/-- RESET, KIND 0 (R497); a kind that is not assigned is illegal. -/
def resetWarm (r : CmdReq) (i : StartIn) (m : Module) : Module :=
  m.command r 0x0904 (r.u 0 1 == 0 || 3 < r.u 0 1) (resetLay r) fun m =>
    if r.u 0 1 != 0 then m.replyFinal r St.badParam else (m.replyFirst r).closeForReset.warmReset i false

/-- RESET, KIND 1 (R497, R499, R500). -/
def resetWarmStoreKept (r : CmdReq) (i : StartIn) (m : Module) : Module :=
  m.command r 0x0904 (r.u 0 1 == 1) (resetLay r) fun m => (m.replyFirst r).closeForReset.warmReset i true

/-- RESET, KIND 2 (R501). -/
def resetPort (r : CmdReq) (m : Module) : Module :=
  m.command r 0x0904 (r.u 0 1 == 2) (resetLay r) fun m => (m.replyFirst r).portReset (r.u 1 1)

/-- RESET, KIND 3 (R496). -/
def resetCold (r : CmdReq) (i : StartIn) (m : Module) : Module :=
  m.command r 0x0904 (r.u 0 1 == 3) (resetLay r) fun m => (m.replyFirst r).closeForReset.coldReset i

/-! ### Family 0x0A: faults -/

/-- FAULT_STATUS, SELECT 0: the open record, or the last one closed (R457). -/
def faultStatus (r : CmdReq) (m : Module) : Module := m.command r 0x0A01 (r.u 0 1 != 1) [(0, 1, 8)] fun m =>
  if r.u 0 1 != 0 then m.replyFinal r St.badParam
  else m.replyFinal r St.ok (match (match m.flt.cur with | some x => some x | none => m.flt.last) with
    | some x => (m.shown x).image m.flt.active
    | none => zeros 256)

/-- FAULT_STATUS, SELECT 1: the fatal history, newest first (R468). -/
def faultHistory (r : CmdReq) (m : Module) : Module := m.command r 0x0A01 (r.u 0 1 == 1) [(0, 1, 8)] fun m =>
  let next := m.keep.field 0x3F8 3 0
  m.replyFinal r St.ok ((List.range 16).flatMap fun k => m.keep.read (0xC00 + 64 * ((next + 15 - k) % 16)) 64)

/-- FAULT_CLEAR (R464, R465). -/
def faultClear (r : CmdReq) (m : Module) : Module := m.command r 0x0A02 true [(0, 8, 64)] fun m =>
  match m.faultClear (r.u 0 8) with
  | (m, again) => m.replyFinal r St.ok (beBytes 8 again)

/-- SEVERITY_SET (R454, R471): a reserved source is illegal. -/
def severitySet (r : CmdReq) (m : Module) : Module := m.command r 0x0A03 true [(0, 1, 8), (1, 1, 8)] fun m =>
  if 55 < r.u 0 1 || 3 < r.u 1 1 then m.replyFinal r St.badParam
  else m.freeRegs r [⟨mgtBlk 3, 0x100 + 4 * r.u 0 1, r.u 1 1⟩]

/-! ### Family 0x0B: security -/

/-- The group records with their plan entries, for CONFIG_DIGEST (R485). -/
def Module.groupBytes (m : Module) : Bytes :=
  m.coll.groups.cells.flatMap fun c =>
    let g := c.2
    beBytes 2 c.1 ++ beBytes 2 g.part ++ beBytes 1 g.vc ++ beBytes 4 g.epoch ++ beBytes 4 g.n ++ beBytes 4 g.low ++
    g.plans.cells.flatMap fun x => match x.2 with
      | none => []
      | some q =>
        beBytes 1 x.1 ++ beBytes 1 q.nplanes ++ beBytes 4 q.parent ++ beBytes 1 q.base ++ beBytes 1 q.spread ++
        beBytes 1 q.kids.length ++ beBytes 2 q.locals.length ++
        (q.kids.flatMap fun k => beBytes 4 k.chip ++ beBytes 4 k.lo ++ beBytes 4 k.hi) ++
        (q.locals.flatMap fun l => beBytes 4 l.member ++ beBytes 4 l.chip ++ beBytes 4 l.port)

/-- *Attestation report* (R484, R485). -/
def Module.report (m : Module) (nonce : Bytes) : Bytes :=
  let s := m.sec
  let other := m.otherBank
  beBytes 4 1 ++ (List.range 12).map Config.serial ++ (List.range 2).map Config.stepping ++ beBytes 1 m.pwr.st ++
  beBytes 1 (b2n s.testMode + 2 * b2n m.keep.valid + 4 * s.running + 8 * b2n s.fallback + 16 * b2n (m.time.st == 2)) ++
  beBytes 4 m.chip ++ beBytes 4 (s.version s.running) ++ beBytes 4 m.minVersion ++ nonce ++ beBytes 8 m.now ++
  s.digest s.running ++ (if s.bankSt other == 2 then s.digest other else zeros 32) ++
  shake256 (m.configBytes m.groupBytes) 32 ++ shake256 (m.keep.read 0 4096) 32 ++
  shake256 ((List.range 256).flatMap fun k =>
    if (m.kern.progs.get k).used then (m.kern.progs.get k).digest else zeros 32) 32 ++
  padTo 32 s.auditSum ++ beBytes 8 s.auditCount ++ beBytes 8 s.auditSince ++ zeros 40

/-- ATTEST: the snapshot at once, the signature as deferred work (R484); INTERNAL without an identity (R475). -/
def attest (r : CmdReq) (m : Module) : Module := m.command r 0x0B01 true [(0, 32, 256)] fun m =>
  if !m.sec.identityOk then m.replyFinal r St.internal
  else m.deferCmd r { kind := 4, key := r.tag, a := r.opcode, data := m.report (r.body.take 32) } fun m _ => m

/-- Whether a completed firmware image is being checked. -/
def Module.staging (m : Module) : Bool :=
  m.trk.ents.cells.any fun c => c.2.kind == 4 && c.2.a == 0x0B02 && (c.2.st == 1 || c.2.st == 4)

/-- FIRMWARE_STAGE (R444, R480): the number of missing bytes, or the checks of a whole image as deferred work. -/
def firmwareStage (r : CmdReq) (m : Module) : Module := m.command r 0x0B02 true (fragLay r.body 1) fun m =>
  let total := r.u 32 4
  let open_ := m.vane.asms.find? fun a => a.kind == 1
  if total == 0 || 2 ^ 24 < total || total % 16 != 0 || r.u 40 2 % 16 != 0 || 1984 < r.u 40 2 then m.replyFinal r St.badParam
  else if m.staging || open_.any fun a => a.digest != r.body.take 32 then m.replyFinal r St.busy
  else match m.fragment r 1 1 with
    | (m, .bad st) =>
      (if open_.isSome && !(m.vane.asms.any fun a => a.kind == 1) then m.markBank m.otherBank 1 else m).replyFinal r st
    | (m, .missing n) => (m.markBank m.otherBank 3).replyFinal r St.ok (beBytes 4 n)
    | (m1, .whole image) =>
      if !m1.trk.room 4 || m1.trk.pick.isNone then (m.count (hubBlk 3) 0x120).replyFinal r St.noResource
      else (m1.markBank m1.otherBank 3).deferCmd r
        { kind := 4, key := r.tag, a := r.opcode, data := r.body.take 32 ++ image } fun m _ => m

/-- FIRMWARE_ACTIVATE (R481); `i` says how the banks read from flash. -/
def firmwareActivate (r : CmdReq) (i : StartIn) (m : Module) : Module :=
  m.command r 0x0B03 true [(0, 1, 8), (1, 1, 1)] fun m =>
    let k := r.u 0 1
    let b := m.sec.banks.getD k {}
    if 1 < k then m.replyFinal r St.badParam
    else if b.st == 3 then m.replyFinal r St.busy
    else if b.st != 2 || !b.reads (if k == 0 then i.bankA else i.bankB) then (m.count (mgtBlk 1) 0x108).replyFinal r St.signatureBad
    else if m.sec.version k < m.minVersion then (m.count (mgtBlk 1) 0x108).replyFinal r St.denied
    else
      let m := { m with keep := m.keep.setBytes 0x3F0 (beBytes 4 k) }
      if r.u 1 1 == 1 then (m.replyFirst r).closeForReset.warmReset i false else m.replyFinal r St.ok

/-! ### Family 0x0C: ownership (R437) -/

/-- Whether a grant covers a unit. -/
def covers (u g : Nat) : Bool :=
  g == u || g / 2 ^ 24 == 0xFF || (g / 2 ^ 24 == u / 2 ^ 24 && g % 2 ^ 24 == 0xFFFFFF)

/-- OWNERSHIP_TAKE. -/
def ownershipTake (r : CmdReq) (m : Module) : Module := m.command r 0x0C01 true [(0, 4, 32)] fun m =>
  let u := r.u 0 4
  if !m.unitOk u then m.replyFinal r St.badParam
  else if !r.side && !m.vane.grants.any (covers u) then m.replyFinal r St.denied
  else (m.setOwner u (some r.side)).replyFinal r St.ok

/-- Whether a grant names a unit, a class or every unit. -/
def Module.grantOk (m : Module) (u : Nat) : Bool :=
  let c := u / 2 ^ 24
  c == 0xFF || (1 ≤ c && c ≤ 0x12 && u % 2 ^ 24 == 0xFFFFFF) || m.unitOk u

/-- OWNERSHIP_GRANT. -/
def ownershipGrant (r : CmdReq) (m : Module) : Module :=
  m.command r 0x0C02 (r.u 4 1 % 2 == 0) [(0, 4, 32), (4, 1, 1)] fun m =>
    let u := r.u 0 4
    if !r.side then m.replyFinal r St.denied
    else if !m.grantOk u then m.replyFinal r St.badParam
    else ({ m with vane := { m.vane with grants := if m.vane.grants.contains u then m.vane.grants else m.vane.grants ++ [u] } }
      ).replyFinal r St.ok

/-- OWNERSHIP_GRANT with REVOKE: the grant of the same name ends. -/
def ownershipRevoke (r : CmdReq) (m : Module) : Module :=
  m.command r 0x0C02 (r.u 4 1 % 2 == 1) [(0, 4, 32), (4, 1, 1)] fun m =>
    let u := r.u 0 4
    if !r.side then m.replyFinal r St.denied
    else if !m.grantOk u && !m.vane.grants.contains u then m.replyFinal r St.badParam
    else ({ m with vane := { m.vane with grants := m.vane.grants.filter (· != u) } }).replyFinal r St.ok

/-! ### The operation tracker (R448 to R451) -/

/-- What a lookup of OP_STATUS or OP_ABORT finds. -/
inductive Lookup
  | entry (e : TEnt)
  | stale
  | nothing
deriving DecidableEq, Repr

/-- The entry that a key names: an open one before a finished one, the last finished first. -/
def Trk.byKey (t : Trk) (p : TEnt → Bool) : Lookup :=
  let l := (t.ents.cells.map (·.2)).filter p
  match l.find? fun e => e.st == 1 with
  | some e => .entry e
  | none => match l.find? fun e => e.st == 2 || e.st == 4 with
    | some e => .entry e
    | none => match (t.done.reverse.map t.ents.get).find? p with
      | some e => .entry e
      | none => .nothing

/-- The lookup by BY, KEY and CHIP. -/
def Trk.look (t : Trk) (r : CmdReq) : Lookup :=
  let k := r.u 4 4
  match r.u 0 1 with
  | 0 =>
    if (t.ents.get (k % 2 ^ 14)).handle == k && k != 0 then .entry (t.ents.get (k % 2 ^ 14))
    else if k / 2 ^ 14 == 0 || t.gens.get (k % 2 ^ 14) == 0 then .nothing
    else .stale
  | 1 => t.byKey fun e => e.kind == 1 && e.key == k
  | _ => t.byKey fun e => e.kind == 2 && e.key == k && e.keyChip == r.u 8 4

/-- The layout of OP_STATUS and OP_ABORT. -/
def opLay (r : CmdReq) : List (Nat × Nat × Nat) :=
  [(0, 1, 8), (4, 4, 32)] ++ (if r.u 0 1 == 2 then [(8, 4, 17)] else [])

/-- The image of an entry now: the program counter, the tiles of a run and the counts of a context are those of the
moment. -/
def Module.image (m : Module) (e : TEnt) : Bytes :=
  let e := if e.kind == 1 then ((m.syncEntry e.key).trk.find e.handle).getD e else e
  let run := if e.kind == 2 && e.a < 128 then (m.eng e.a).run.filter fun x => x.handle == e.handle else none
  match run with
  | some x => ({ e with b := (m.eng e.a).pc.toNat, c := x.tiles } : TEnt).image
  | none => e.image

/-- OP_STATUS. -/
def opStatus (r : CmdReq) (m : Module) : Module := m.command r 0x0C03 true (opLay r) fun m =>
  if 2 < r.u 0 1 then m.replyFinal r St.badParam
  else match m.trk.look r with
    | .entry e => m.replyFinal r St.ok (m.image e) e.handle
    | .stale => m.replyFinal r St.alreadyComplete
    | .nothing => m.replyFinal r St.badParam

/-- OP_ABORT answered ALREADY_COMPLETE. -/
def Module.abortLate (m : Module) (r : CmdReq) (data : Bytes) (h : Nat) : Module :=
  (m.count (hubBlk 3) 0x118).replyFinal r St.alreadyComplete data h

/-- OP_ABORT (R450). -/
def opAbort (r : CmdReq) (m : Module) : Module := m.command r 0x0C04 true (opLay r) fun m =>
  if 2 < r.u 0 1 then m.replyFinal r St.badParam
  else match m.trk.look r with
    | .stale => m.abortLate r [] 0
    | .nothing => m.replyFinal r St.badParam
    | .entry e =>
      if !m.mayChange r (unit 5 (e.handle % 2 ^ 14)) then m.replyFinal r St.notOwner
      else if e.st == 2 || e.st == 3 then m.abortLate r (m.image e) e.handle
      else
        let h := e.handle
        let now (m : Module) : TEnt := (m.trk.find h).getD e
        if e.st == 5 then (m.replyDeferred r h (m.image e)).replyFinal r St.ok (m.image e) h
        else
          let m := m.updEntry h fun e => { e with aborts := e.aborts ++ [r] }
          let m := m.recordAbort h
          m.replyDeferred r h (m.image { now m with st := 4 })

/-- The work of ATTEST and FIRMWARE_STAGE done at its end: the entry with what it reports, unless an abort came first
(R449, R480, R484). -/
def Module.workEnd (m : Module) (e : TEnt) : Module :=
  if e.kind != 4 || e.ended || !(e.st == 1 || e.st == 4) then m
  else if e.a == 0x0B01 then
    (if e.st == 4 then m.workOver e.handle St.aborted
     else (m.count (mgtBlk 1) 0x100).workOver e.handle St.ok
       (e.data ++ m.sec.sign sigReport e.data ++ m.sec.certificate))
  else if e.a == 0x0B02 then
    let k := m.otherBank
    let image := e.data.drop 32
    if e.st == 4 then (m.markBank k 1).workOver e.handle St.aborted
    else if shake256 image 32 != e.data.take 32 then (m.markBank k 1).workOver e.handle St.badParam
    else if imageValid image then (m.markBank k 2 image).workOver e.handle St.ok
    else ((m.markBank k 1).count (mgtBlk 1) 0x108).workOver e.handle St.signatureBad
  else m

/-- ENTRY_FINISH of entry `idx`: its operation is over; every final report is sent, the entry reaches DONE or ABORTED,
and the aborts that waited are answered (R430, R449, R450). -/
def entryFinish (idx : Nat) (m : Module) : Module :=
  if !m.vaneUp then m
  else
    let m := m.workEnd (m.trk.ents.get idx)
    let e := m.trk.ents.get idx
    if !e.ended || !(e.st == 2 || e.st == 4) then m
    else
      let st := if e.st == 4 then St.aborted else e.status
      let m := match e.req with
        | none => m
        | some r => m.replyLate r st (if e.kind == 2 then e.parts else [(0, e.data)]) e.handle
      let m := (m.closeEntry e.handle).updEntry e.handle fun t => { t with aborts := [], req := none, data := [], parts := [] }
      e.aborts.foldl (fun (m : Module) r => m.replyLate r St.ok [(0, m.image (m.trk.ents.get idx))] e.handle) m

/-! ### Control space (R439, R440) -/

/-- COUNTERS_READ (R443). -/
def countersRead (r : CmdReq) (m : Module) : Module :=
  let n := r.u 0 1
  m.command r 0x0C05 true
    ([(0, 1, 8)] ++ (List.range n).flatMap fun i => [(16 + 8 * i, 2, 16), (18 + 8 * i, 2, 16), (20 + 8 * i, 2, 16)]) fun m =>
    let l := (List.range n).map fun i => (r.u (16 + 8 * i) 2, r.u (18 + 8 * i) 2, r.u (20 + 8 * i) 2)
    if n == 0 || 16 < n || l.any (fun x => (blkKind x.1).isNone || x.2.1 % 8 != 0) ||
       252 < l.foldl (fun a x => a + x.2.2) 0 then m.replyFinal r St.badParam
    else m.replyFinal r St.ok (beBytes 8 m.now ++ l.flatMap fun x =>
      (List.range x.2.2).flatMap fun k => beBytes 8 (m.regVal x.1 (x.2.1 + 8 * k)))

/-- ADDRESS and COUNT of REG_READ and REG_WRITE are legal. -/
def regRange (r : CmdReq) : Bool :=
  r.u 0 8 % 4 == 0 && 1 ≤ r.u 8 2 && r.u 8 2 ≤ 508 && ctlOk (r.u 0 8) (r.u 8 2)

/-- REG_READ (R439). -/
def regRead (r : CmdReq) (m : Module) : Module := m.command r 0x0C06 true [(0, 8, 64), (8, 2, 16)] fun m =>
  if regRange r then m.replyFinal r St.ok (m.readCtl (r.u 0 8) (r.u 8 2)) else m.replyFinal r St.badParam

/-- REG_WRITE (R439, R440). -/
def regWrite (r : CmdReq) (m : Module) : Module :=
  let n := r.u 8 2
  m.command r 0x0C07 true [(0, 8, 64), (8, 2, 16), (16, 4 * n, 32 * n)] fun m =>
    if !regRange r then m.replyFinal r St.badParam
    else match regsOfWords (r.u 0 8) ((List.range n).map fun i => r.u (16 + 4 * i) 4) with
      | none => m.replyFinal r St.badParam
      | some l => m.setRegs r ((l.map fun x => unit 0x12 x.blk).eraseDups) l

/-! ### Subscriptions (R446) -/

/-- The layout of EVENT_SUBSCRIBE. -/
def subLay : List (Nat × Nat × Nat) := [(0, 1, 8), (1, 1, 8), (4, 2, 16), (8, 4, 32)]

/-- EVENT_SUBSCRIBE, ACTION 0. -/
def eventSubscribe (r : CmdReq) (m : Module) : Module :=
  m.command r 0x0C08 (r.u 0 1 != 1 && r.u 0 1 != 2) subLay fun m =>
    let k := r.u 1 1
    let s := m.vane.subs.get k
    if r.u 0 1 != 0 || 15 < k then m.replyFinal r St.badParam
    else if s.used && s.side != r.side then m.replyFinal r St.notOwner
    else
      let x : Sub := { used := true, side := r.side, mask := r.u 4 2, tag := r.u 8 4, chip := if r.side then 0 else r.chip,
                       udp := if r.side then r.udp else 0, addr := if r.side then r.addr else [] }
      ({ m with vane := { m.vane with subs := m.vane.subs.put k x } }).replyFinal r St.ok

/-- EVENT_SUBSCRIBE, ACTION 1. -/
def eventUnsubscribe (r : CmdReq) (m : Module) : Module := m.command r 0x0C08 (r.u 0 1 == 1) subLay fun m =>
  let k := r.u 1 1
  let s := m.vane.subs.get k
  if 15 < k then m.replyFinal r St.badParam
  else if s.used && s.side != r.side then m.replyFinal r St.notOwner
  else ({ m with vane := { m.vane with subs := m.vane.subs.del k } }).replyFinal r St.ok

/-- *Subscription slot*. -/
def Sub.image (s : Sub) : Bytes :=
  if !s.used then zeros 32
  else beBytes 1 (1 + 2 * b2n s.side) ++ beBytes 1 (if s.side then addrKind s.addr else 0) ++ beBytes 2 s.mask ++
    beBytes 4 s.tag ++ beBytes 4 s.chip ++ beBytes 2 s.udp ++ beBytes 1 s.queue.length ++ zeros 1 ++ padTo 16 s.addr

/-- EVENT_SUBSCRIBE, ACTION 2. -/
def eventList (r : CmdReq) (m : Module) : Module := m.command r 0x0C08 (r.u 0 1 == 2) subLay fun m =>
  if 15 < r.u 1 1 then m.replyFinal r St.badParam
  else m.replyFinal r St.ok ((List.range 16).flatMap fun k => (m.vane.subs.get k).image)

/-! ### Family 0x0F: factory test (R469, R488) -/

/-- Whether a token opens factory test mode. -/
def tokenOk (t : Bytes) : Bool :=
  slice t 4 12 == (List.range 12).map Config.serial && sigOk Config.factoryKey sigToken (slice t 0 64) (slice t 64 29792)

/-- TEST_MODE_ENTER: the token comes in fragments (R488). -/
def testModeEnter (r : CmdReq) (m : Module) : Module := m.command r 0x0F01 true (fragLay r.body 1) fun m =>
  if r.u 32 4 != 29856 || r.u 40 2 % 16 != 0 || 1984 < r.u 40 2 then m.replyFinal r St.badParam
  else match m.fragment r 2 1 with
    | (m, .bad st) => m.replyFinal r st
    | (m, .missing n) => m.replyFinal r St.ok (beBytes 4 n)
    | (m, .whole t) =>
      if shake256 t 32 != r.body.take 32 then m.replyFinal r St.badParam
      else if tokenOk t then ({ m with sec := { m.sec with testMode := true } }).replyFinal r St.ok
      else (m.count (mgtBlk 1) 0x110).replyFinal r St.signatureBad

/-- FAULT_INJECT (R469): COUNT raises that act on no resource. -/
def faultInject (r : CmdReq) (m : Module) : Module := m.command r 0x0F02 true [(0, 1, 8), (4, 4, 32)] fun m =>
  if !m.sec.testMode then m.replyFinal r St.notInTestMode
  else if 55 < r.u 0 1 || r.u 4 4 == 0 || 65535 < r.u 4 4 then m.replyFinal r St.badParam
  else ((List.range (r.u 4 4)).foldl (fun (m : Module) _ => m.raise (r.u 0 1) (mgtBlk 3) 0xFFFFFFFF true) m).replyFinal r St.ok

/-! ### The meanings -/

/-- TIME_CONFIG (R425). -/
def execTimeConfig (r : CmdReq) (s : State) : Host.Outcome State Fault Refusal := .next (s.withM (timeConfig r))

/-- TIME_STATUS (R425). -/
def execTimeStatus (r : CmdReq) (s : State) : Host.Outcome State Fault Refusal := .next (s.withM (timeStatus r))

/-- POWER_CAP (R45). -/
def execPowerCap (r : CmdReq) (s : State) : Host.Outcome State Fault Refusal := .next (s.withM (powerCap r))

/-- PACE_CONFIG (R45). -/
def execPaceConfig (r : CmdReq) (s : State) : Host.Outcome State Fault Refusal := .next (s.withM (paceConfig r))

/-- LULL_ENTER (R504). -/
def execLullEnter (r : CmdReq) (s : State) : Host.Outcome State Fault Refusal := .next (s.withM (lullEnter r))

/-- LULL_IDLE_SET (R504). -/
def execLullIdleSet (r : CmdReq) (s : State) : Host.Outcome State Fault Refusal := .next (s.withM (lullIdleSet r))

/-- RESET_WARM (R497). -/
def execResetWarm (r : CmdReq) (start : StartIn) (s : State) : Host.Outcome State Fault Refusal := .next (s.withM (resetWarm r start))

/-- RESET_WARM_STORE_KEPT (R500). -/
def execResetWarmStoreKept (r : CmdReq) (start : StartIn) (s : State) : Host.Outcome State Fault Refusal := .next (s.withM (resetWarmStoreKept r start))

/-- RESET_PORT (R501). -/
def execResetPort (r : CmdReq) (s : State) : Host.Outcome State Fault Refusal := .next (s.withM (resetPort r))

/-- RESET_COLD (R496). -/
def execResetCold (r : CmdReq) (start : StartIn) (s : State) : Host.Outcome State Fault Refusal := .next (s.withM (resetCold r start))

/-- FAULT_STATUS (R457). -/
def execFaultStatus (r : CmdReq) (s : State) : Host.Outcome State Fault Refusal := .next (s.withM (faultStatus r))

/-- FAULT_HISTORY (R468). -/
def execFaultHistory (r : CmdReq) (s : State) : Host.Outcome State Fault Refusal := .next (s.withM (faultHistory r))

/-- FAULT_CLEAR (R464). -/
def execFaultClear (r : CmdReq) (s : State) : Host.Outcome State Fault Refusal := .next (s.withM (faultClear r))

/-- SEVERITY_SET (R454). -/
def execSeveritySet (r : CmdReq) (s : State) : Host.Outcome State Fault Refusal := .next (s.withM (severitySet r))

/-- ATTEST (R484). -/
def execAttest (r : CmdReq) (s : State) : Host.Outcome State Fault Refusal := .next (s.withM (attest r))

/-- FIRMWARE_STAGE (R480). -/
def execFirmwareStage (r : CmdReq) (s : State) : Host.Outcome State Fault Refusal := .next (s.withM (firmwareStage r))

/-- FIRMWARE_ACTIVATE (R481). -/
def execFirmwareActivate (r : CmdReq) (start : StartIn) (s : State) : Host.Outcome State Fault Refusal := .next (s.withM (firmwareActivate r start))

/-- OWNERSHIP_TAKE (R437). -/
def execOwnershipTake (r : CmdReq) (s : State) : Host.Outcome State Fault Refusal := .next (s.withM (ownershipTake r))

/-- OWNERSHIP_GRANT (R437). -/
def execOwnershipGrant (r : CmdReq) (s : State) : Host.Outcome State Fault Refusal := .next (s.withM (ownershipGrant r))

/-- OWNERSHIP_REVOKE (R437). -/
def execOwnershipRevoke (r : CmdReq) (s : State) : Host.Outcome State Fault Refusal := .next (s.withM (ownershipRevoke r))

/-- OP_STATUS (R450). -/
def execOpStatus (r : CmdReq) (s : State) : Host.Outcome State Fault Refusal := .next (s.withM (opStatus r))

/-- OP_ABORT (R450). -/
def execOpAbort (r : CmdReq) (s : State) : Host.Outcome State Fault Refusal := .next (s.withM (opAbort r))

/-- ENTRY_FINISH (R449). -/
def execEntryFinish (idx : Nat) (s : State) : Host.Outcome State Fault Refusal := .next (s.withM (entryFinish idx))

/-- COUNTERS_READ (R46). -/
def execCountersRead (r : CmdReq) (s : State) : Host.Outcome State Fault Refusal := .next (s.withM (countersRead r))

/-- REG_READ (R439). -/
def execRegRead (r : CmdReq) (s : State) : Host.Outcome State Fault Refusal := .next (s.withM (regRead r))

/-- REG_WRITE (R440). -/
def execRegWrite (r : CmdReq) (s : State) : Host.Outcome State Fault Refusal := .next (s.withM (regWrite r))

/-- EVENT_SUBSCRIBE (R446). -/
def execEventSubscribe (r : CmdReq) (s : State) : Host.Outcome State Fault Refusal := .next (s.withM (eventSubscribe r))

/-- EVENT_UNSUBSCRIBE (R446). -/
def execEventUnsubscribe (r : CmdReq) (s : State) : Host.Outcome State Fault Refusal := .next (s.withM (eventUnsubscribe r))

/-- EVENT_LIST (R446). -/
def execEventList (r : CmdReq) (s : State) : Host.Outcome State Fault Refusal := .next (s.withM (eventList r))

/-- TEST_MODE_ENTER (R488). -/
def execTestModeEnter (r : CmdReq) (s : State) : Host.Outcome State Fault Refusal := .next (s.withM (testModeEnter r))

/-- FAULT_INJECT (R469). -/
def execFaultInject (r : CmdReq) (s : State) : Host.Outcome State Fault Refusal := .next (s.withM (faultInject r))

end Sys2Proof.Machine
end

