-- ==== Sys2Proof/Machine/CollRows.lean ====
section
/-!
DEFINITION. The collective packets and timers: joins (R232 to R236), contributions, masks, partials, anchors, summaries,
gathers (R238 to R249), results, acknowledgements, completion (R250 to R254), exchange (R271 to R273) and the failure
timers (R289 to R292).
-/
namespace Sys2Proof.Machine

def kindOf (p : Pkt) : Nat := bits p.h.tw 19 17
def isMasked (p : Pkt) : Bool := bitAt p.h.tw 20
def isAbsent (p : Pkt) : Bool := bitAt p.h.tw 16
def statusOf (p : Pkt) : Nat := p.h.tw % 65536

/-- Whether a packet is a collective packet of a type and kind. -/
def isKind (p : Pkt) (type kind : Nat) : Bool := p.h.type == type && kindOf p == kind

/-- Whether a packet came by a port that the fault collector isolates (R296). -/
def Module.fromFenced (m : Module) (p : Pkt) : Bool := p.port.any fun q => m.portFenced q

/-! ### Finding the context (R232, R292, R298, R300) -/

/-- Distance of a handle's number from LOW. -/
def Module.handleDist (m : Module) (h : Nat) : Nat := (h % 65536 + 65536 - (m.grp (h / 65536)).low % 65536) % 65536
/-- The sequence number that a handle in the window names. -/
def Module.handleSeq (m : Module) (h : Nat) : Nat := ((m.grp (h / 65536)).low + m.handleDist h) % 2 ^ 32

/-- A packet below LOW or done: discarded, but for a repeat that R292 answers: a SUBTREE_DONE or a plane notice of a child of
the plane. -/
def Module.staleIn (m : Module) (p : Pkt) : Module :=
  let st := statusOf p
  let kid := (((m.grp (p.h.tag / 65536)).plans.get (p.h.offset % 8)).getD {}).kidChips.contains p.h.src
  if p.h.type == 0x13 && isPlaneOff p.h.offset && st != St.busy && st != St.alreadyComplete && kid then
    m.toChip p.h.tag p.h.src 0x13 St.alreadyComplete p.h.offset
  else m.collCount 0x1C8

/-- A packet for a number answered OK_EMPTY (R287). -/
def Module.emptyIn (m : Module) (p : Pkt) : Module :=
  let h := p.h.tag
  if p.h.type == 0x11 && 2 ≤ kindOf p && kindOf p ≤ 5 then
    let g := m.grp (h / 65536)
    let pl := if kindOf p == 4 then p.h.offset % 8
      else ((g.plans.cells.find? fun c => c.2.any fun x => x.parent == p.h.src || x.kidChips.contains p.h.src).map (·.1)).getD 0
    (m.collFailed h pl 1 St.mismatch).planeNotice h pl St.mismatch p.h.src
  else m.staleIn p

/-- A packet other than a join reaches its context, which it may allocate; `f` is what it does there. A context that is open
though its number is done (log entry 105) still takes results and acknowledgements. -/
def Module.collIn (m : Module) (p : Pkt) (alloc : Bool) (f : Module → Module) : Module :=
  let h := p.h.tag
  let g := m.grp (h / 65536)
  if !p.good || m.fromFenced p || !m.addressed p.h then m
  else if !g.used then m.noRecord p
  else if g.part != p.h.part then m.collCount 0x1B8
  else
    let d := m.handleDist h
    let seq := m.handleSeq h
    if (m.ctx h).used && !alloc then m.collEvent f
    else if 32768 ≤ d then m.staleIn p
    else if 64 ≤ d then m.collCount 0x1C8
    else if g.empties.any (·.1 == seq) then m.emptyIn p
    else if g.done.contains seq then m.staleIn p
    else if (m.ctx h).used then m.collEvent f
    else if !alloc then m.noRecord p
    else if g.nplanes == 0 then m
    else match m.allocCtx h seq with
      | some m => m.collEvent f
      | none => m.refuseCtx h seq

/-- Whether R298 answers or discards a packet. -/
def Module.unrecorded (m : Module) (p : Pkt) : Bool :=
  let h := collHandle p
  let g := m.grp (h / 65536)
  let seq := m.handleSeq h
  (p.h.type != 0x10 || p.h.tag < 65536) &&
  (!g.used || (g.part == p.h.part && (p.h.type == 0x12 || p.h.type == 0x13) && m.handleDist h < 64 &&
     !g.empties.any (·.1 == seq) && !g.done.contains seq && !(m.ctx h).used)) &&
  (0x10 ≤ p.h.type && p.h.type ≤ 0x14)

/-- NO_CONTEXT_ANSWER (R298). -/
def noContextAnswer (p : Pkt) (m : Module) : Module :=
  if m.unrecorded p && p.good && !m.fromFenced p && m.addressed p.h then m.perform p p.h.type fun m => m.noRecord p else m

/-- The data timers of a context that have started, expired ones too, restart; the plane of a data packet starts its own
(R290). -/
def Module.touch (m : Module) (h p : Nat) (data : Bool) : Module :=
  let due := m.ticks + us (m.collReg 0x020 0)
  m.updCtx h fun c => { c with planes := c.planes.zipIdx.map fun y =>
    if (y.1.dataOn || (data && y.2 == p)) && y.1.runs then { y.1 with dataOn := true, dataDue := some due } else y.1 }

/-! ### Tiles and their masks (R239) -/

/-- A tile packet, or the MASK of one: what has arrived when both are in. A neighbour's halves may come by different ports, a
local member's by its own. -/
def Module.pair (m : Module) (h p : Nat) (pk : Pkt) : Module × Option (Bool × Option Nat × Bytes) :=
  let isMask := kindOf pk == 1
  let port := if ((m.ctx h).sender (m.cplan h p) pk).isSome then pk.port.getD 999 else 999
  let here (x : Half) : Bool := x.chip == pk.h.src && x.port == port && x.off == pk.h.offset
  let mine : Half := { chip := pk.h.src, port := port, off := pk.h.offset, mask := isMask, absent := isAbsent pk,
                       bytes := pk.pl }
  if !isMask && (!isMasked pk || isAbsent pk) then (m, some (isAbsent pk, none, pk.pl))
  else
    let y := m.plane h p
    match y.halves.find? fun x => here x && x.mask != isMask with
    | some x =>
      let m := m.updPlane h p fun y => { y with halves := y.halves.filter fun z => !here z }
      (m, some (false, some (leNat (if isMask then pk.pl else x.bytes)), if isMask then x.bytes else pk.pl))
    | none => (m.updPlane h p fun y => { y with halves := (y.halves.filter fun z => !(here z && z.mask == isMask)) ++ [mine] }, none)

/-- A tile packet is whole: one tile, or nothing with ABSENT. -/
def tileForm (p : Pkt) : Bool :=
  p.h.offset % 2048 == 0 && (if kindOf p == 1 then true else if isAbsent p then p.pl.isEmpty else p.pl.length == 2048)

/-! ### Data packets -/

/-- A contribution of a local member to a tile step (R242). `again`: it has waited in staging for the first join, and is
counted. -/
def Module.contribIn (m : Module) (h p : Nat) (mem t : Nat) (absent : Bool) (mask : Option Nat) (bytes : Bytes) (again : Bool) :
    Module :=
  let g := (m.ctx h).geo
  let y := m.plane h p
  if y.stepsDone.get t || y.gone.contains (g.chunkOfIn t) || y.steps.any (fun s => s.tile == t && s.got.contains mem) then m
  else
    let d := m.stepDie h p t
    let m := m.count (swBlk d 7) 0x000
    let m := if absent then m.count (swBlk d 7) 0x010 else m
    let m := m.openStep h p t
    let adm := (m.plane h p).steps.any fun s => s.tile == t && s.admitted
    let place := if adm then none else m.stagePlace
    let m := match place with
      | some k => ((m.freshTile (resKey k)).countWrite (resKey k)).collCount 0x138 (b2n !again)
      | none => m
    let x : Raw := { member := mem, place := place, absent := absent, mask := mask, bytes := bytes }
    let m := m.updStep h p t fun s => { s with got := s.got ++ [mem], raws := s.raws ++ [x] }
    if adm && !g.r.staged then m.addRaws h p t (suppliedAnchors g.r (g.inElems t)) else m

/-- A tile of an ALL_GATHER or BROADCAST is retained (R249). -/
def Module.gatherIn (m : Module) (h p r : Nat) (src : Option Nat) (absent : Bool) (mask : Option Nat) (bytes : Bytes) : Module :=
  let g := (m.ctx h).geo
  let y := m.plane h p
  if y.fin.get r || y.rets.any (·.tile == r) then m
  else
    let (absent, mask, bytes) := g.gathered r absent mask bytes
    let x : Ret := { tile := r, absent := absent, mask := mask, bytes := bytes, dsts := m.dstsOf h p r src }
    let m := if (m.cplan h p).isRoot then m.updPlane h p fun y => { y with digs := y.digs.put r (g.digest x) } else m
    m.retain h p x

/-- Plane of a member's tile. -/
def Ctx.tilePlane (c : Ctx) (t : Nat) : Nat :=
  let g := c.geo
  if g.reduce then g.planeOf (g.chunkOfIn t) else t % max g.np 1

/-- A CONTRIB or its MASK. -/
def Module.applyContrib (m : Module) (h : Nat) (pk : Pkt) (again : Bool) : Module :=
  let c := m.ctx h
  let g := c.geo
  let t := pk.h.offset / 2048
  let p := c.tilePlane t
  match c.sender (m.cplan h p) pk with
  | none => m
  | some l =>
    if !(m.plane h p).runs || !tileForm pk then m
    else if g.reduce then
      if g.total ≤ t * g.r.ei then m
      else
        let (m, x) := (m.touch h p true).pair h p pk
        match x with
        | none => m
        | some (a, k, b) => m.contribIn h p l.member t a k b again
    else if g.gather then
      if g.perIn ≤ t || (g.op == 4 && l.member != g.root) ||
         (m.plane h p).gone.contains (if g.op == 3 then l.member * g.perIn + t else t) then m
      else
        let (m, x) := (m.touch h p true).pair h p pk
        match x with
        | none => m
        | some (a, k, b) => m.gatherIn h p (if g.op == 3 then l.member * g.perIn + t else t) none a k b
    else m

/-- A GATHER of a tree neighbour, or its MASK: retained, acknowledged and sent on (R249, R250). -/
def Module.applyGather (m : Module) (h : Nat) (pk : Pkt) : Module :=
  let c := m.ctx h
  let g := c.geo
  let r := pk.h.offset / 2048
  let p := g.planeOf (g.chunkOfRes r)
  let x := m.cplan h p
  if !g.gather || g.resTiles ≤ r || !(m.plane h p).runs || !tileForm pk || (m.plane h p).gone.contains (g.chunkOfRes r) ||
     !(x.kidChips.contains pk.h.src || x.parent == pk.h.src) then m
  else
    let (m, q) := (m.touch h p true).pair h p pk
    match q with
    | none => m
    | some (a, k, b) => (m.gatherIn h p r (some pk.h.src) a k b).ackTile h pk.h.src St.ok pk.h.offset

/-- A child's PARTIAL piece (R240). -/
def Module.applyPartial (m : Module) (h : Nat) (pk : Pkt) : Module :=
  let c := m.ctx h
  let g := c.geo
  let t := pk.h.offset / 2048
  let p := g.planeOf (g.chunkOfIn t)
  let piece := bits pk.h.tw 25 21
  let y := m.plane h p
  if !g.reduce || g.total ≤ t * g.r.ei || pk.h.offset % 2048 != 0 || !y.runs || !(m.cplan h p).kidChips.contains pk.h.src ||
     y.stepsDone.get t || y.gone.contains (g.chunkOfIn t) then m
  else
    let m := (m.touch h p true).openStep h p t
    m.updStep h p t fun s =>
      if s.kids.contains pk.h.src || s.pieces.any (fun q => q.1 == pk.h.src && q.2.1 == piece) then s
      else { s with pieces := s.pieces ++ [(pk.h.src, piece, pk.pl)] }

/-- Whether an anchor payload holds the reserved byte 1 (R241). -/
def badAnchor (r : Red) (l : List Nat) : Bool := !r.smx && l.contains 1

/-- A child's ANCHOR (R245). -/
def Module.applyAnchorUp (m : Module) (h : Nat) (pk : Pkt) : Module :=
  let g := (m.ctx h).geo
  let t := pk.h.offset / 2048
  let p := g.planeOf (g.chunkOfIn t)
  let y := m.plane h p
  if !g.reduce || !g.r.staged || g.total ≤ t * g.r.ei || pk.h.offset % 2048 != 0 || !y.runs ||
     !(m.cplan h p).kidChips.contains pk.h.src || y.stepsDone.get t || y.gone.contains (g.chunkOfIn t) then m
  else
    let a := anchorsFrom g.r (g.inElems t) pk.pl
    if badAnchor g.r a then (match arrivalPort pk with | some i => m.count (pgBlk i) 0x408 | none => m)
    else
      let m := (m.touch h p true).openStep h p t
      let m := m.count (swBlk (m.stepDie h p t) 7) 0x030 (a.length * (if g.r.smx then 2 else 1))
      m.updStep h p t fun s =>
        if s.kidAnch.any (·.1 == pk.h.src) then s else { s with kidAnch := s.kidAnch ++ [(pk.h.src, a)] }

/-- The agreed ANCHOR from the parent (R245). -/
def Module.applyAnchorDown (m : Module) (h : Nat) (pk : Pkt) : Module :=
  let g := (m.ctx h).geo
  let t := pk.h.offset / 2048
  let p := g.planeOf (g.chunkOfIn t)
  let y := m.plane h p
  if !g.reduce || !g.r.staged || g.total ≤ t * g.r.ei || pk.h.offset % 2048 != 0 || !y.runs ||
     (m.cplan h p).parent != pk.h.src || !(y.steps.any fun s => s.tile == t && s.agreed.isNone) then m
  else
    let a := anchorsFrom g.r (g.inElems t) pk.pl
    if badAnchor g.r a then (match arrivalPort pk with | some i => m.count (pgBlk i) 0x408 | none => m)
    else
      let m := m.touch h p true
      let m := m.count (swBlk (m.stepDie h p t) 7) 0x030 (a.length * (if g.r.smx then 2 else 1))
      m.agree h p t a

/-- A result TILE from the parent, or its MASK: retained, acknowledged and sent on (steps 9 and 10). -/
def Module.applyResult (m : Module) (h : Nat) (pk : Pkt) : Module :=
  let g := (m.ctx h).geo
  let r := pk.h.offset / 2048
  let p := g.planeOf (g.chunkOfRes r)
  let y := m.plane h p
  if !g.reduce || g.resTiles ≤ r || !y.runs || !tileForm pk || y.gone.contains (g.chunkOfRes r) ||
     (m.cplan h p).parent != pk.h.src then m
  else
    let (m, q) := (m.touch h p true).pair h p pk
    match q with
    | none => m
    | some (a, k, b) =>
      let y := m.plane h p
      let m := if y.fin.get r || y.rets.any (·.tile == r) then m
        else m.retain h p { tile := r, absent := a, mask := k.map (· % 2 ^ g.resElems r), bytes := b, dsts := m.dstsOf h p r }
      m.ackTile h pk.h.src St.ok pk.h.offset

/-- A declaration whose total exceeds COUNT or whose block exceeds 524,288 tiles (R273). -/
def Ctx.badDecl (c : Ctx) (l : List Decl) (mem : Nat) : Bool :=
  let g := c.geo
  let t (j : Nat) : Nat := ceilDiv (declEntry l mem j) g.r.ei
  g.count < sumTo c.n t || (List.range c.n).any fun j => 524288 < t j

/-- COMPLETE with PLANE 0xFF to a local member of a context, which then counts as not joined. -/
def Module.barMember (m : Module) (h : Nat) (l : Loc) : Module :=
  let c := m.ctx h
  let pl := m.ownComplete St.badParam 0xFF c.seq
  let m := (m.collFailed h 0xFF 2 St.badParam l.member).completeTo h 0 St.badParam pl l
  m.updCtx h fun c => { c with barred := c.barred ++ [l.member],
                               planes := c.planes.map fun y => { y with joined := y.joined.filter (· != l.member) } }

/-- A ROW or COLUMN declaration tile (R270, R273). -/
def Module.applyDecl (m : Module) (h : Nat) (pk : Pkt) (row : Bool) : Module :=
  let c := m.ctx h
  let k := pk.h.offset / 2048
  match (List.range c.planes.length).find? fun p => (c.sender (m.cplan h p) pk).isSome with
  | none => m
  | some p =>
    match c.sender (m.cplan h p) pk with
    | none => m
    | some l =>
      if c.geo.op != 6 || pk.h.offset % 2048 != 0 || ceilDiv c.n 512 ≤ k || c.barred.contains l.member then m
      else
        let m := m.touch h p true
        let x : Decl := { member := l.member, k := k, bytes := pk.pl }
        let add (q : List Decl) : List Decl := if q.any fun d => d.member == l.member && d.k == k then q else q ++ [x]
        let m := m.updCtx h fun c => if row then { c with rows := add c.rows } else { c with cols := add c.cols }
        let c := m.ctx h
        let q := if row then c.rows else c.cols
        if !declared q l.member c.n then m
        else if c.badDecl q l.member then m.barMember h l
        else if row then m.xchgUnpark h l.member
        else m

/-- A SEND tile of a local member (R271): until its member's row is complete it waits in staging, in no plane yet. -/
def Module.applySend (m : Module) (h : Nat) (pk : Pkt) : Module :=
  let c := m.ctx h
  let g := c.geo
  match (List.range c.planes.length).findSome? fun p => (c.sender (m.cplan h p) pk).map fun l => (p, l) with
  | none => m
  | some (p, l) =>
    if !g.xchg || pk.h.offset % 2048 != 0 then m
    else
      let m := m.count (hubBlk 2) 0x100
      let x : XTile := { src := l.member, b := pk.h.offset / 2048, bytes := pk.pl }
      let q := match c.sendBlock l.member x.b with
        | some (j, b) =>
          let q := (l.member + j + b) % max c.planes.length 1
          if (m.cplan h q).locals.any fun x => x.member == l.member then q else p
        | none => p
      if g.op == 5 || (declared c.rows l.member c.n && !c.barred.contains l.member) then (m.touch h q true).xchgRoute h x
      else
        let (m, x) := (m.touch h p true).xchgPlace x
        m.updCtx h fun c => { c with xpark := c.xpark ++ [x] }

/-- A CARRY tile of a tree neighbour (R271). A module without a local member in any plane forwards it without a signature. -/
def Module.applyCarry (m : Module) (h : Nat) (pk : Pkt) : Module :=
  let c := m.ctx h
  let s := bits pk.h.offset 46 30
  let b := bits pk.h.offset 29 11
  let j := bits pk.h.tw 16 0
  let p := (s + j + b) % max c.planes.length 1
  let x := m.cplan h p
  if (c.sig.isSome && !c.geo.xchg) || !(x.kidChips.contains pk.h.src || x.parent == pk.h.src) || pk.h.offset % 2048 != 0 then m
  else
    let m := m.count (hubBlk 2) 0x100
    if !(m.plane h p).runs || ((m.plane h p).xlost && x.locals.any fun l => l.member == j) then m
    else (m.touch h p true).updPlane h p fun y => { y with xwait := y.xwait ++ [{ src := s, dst := j, b := b, bytes := pk.pl }] }

/-- A SIG_DIGEST reaches a plane (R286): the first is kept, another is a mismatch. -/
def Module.digestIn (m : Module) (h p : Nat) (dig : Bytes) (member : Nat) : Module :=
  match (m.plane h p).first with
  | none => m.updPlane h p fun y => { y with first := some dig }
  | some d => if d == dig || !(m.plane h p).on then m else m.planeFail h p St.mismatch 1 member

/-- A child's SUMMARY (R244, R273, R288). -/
def Module.applySummary (m : Module) (h : Nat) (pk : Pkt) : Module :=
  let p := pk.h.offset % 8
  let y := m.plane h p
  match (m.cplan h p).kids.find? (·.chip == pk.h.src) with
  | none => m
  | some k =>
    let n := fieldBE pk.pl 16 4 % 2 ^ 18
    if !y.runs || pk.pl.length < 32 || y.sums.any (·.1 == pk.h.src) then m
    else
      let m := m.touch h p false
      let m := m.updPlane h p fun y => { y with wide := y.wide || 64 ≤ pk.pl.length, sums := y.sums ++ [(pk.h.src, n,
        if 64 ≤ pk.pl.length then fieldBE pk.pl 32 16 else 0, if 64 ≤ pk.pl.length then fieldBE pk.pl 48 16 else 0)] }
      if k.hi + 1 - k.lo < n then m.planeFail h p St.mismatch 3
      else m.digestIn h p (pk.pl.take 16) 131071

/-- The plane of a context in which the sender of a packet is a local member or a neighbour; 0 where there is none. -/
def Module.nearPlane (m : Module) (h : Nat) (pk : Pkt) : Nat :=
  let c := m.ctx h
  ((List.range c.planes.length).find? fun q => (m.plane h q).on && !(m.plane h q).ended &&
    ((m.cplan h q).parent == pk.h.src || (m.cplan h q).kidChips.contains pk.h.src || (c.sender (m.cplan h q) pk).isSome)).getD 0

/-- A GATHER of a tree neighbour, or its MASK, at a module without a signature: the plane in which the sender is a neighbour
passes it on as it is (log entry 128). -/
def Module.relayGather (m : Module) (h : Nat) (pk : Pkt) : Module :=
  let p := m.nearPlane h pk
  let x := m.cplan h p
  let r := pk.h.offset / 2048
  if !(m.plane h p).runs || !tileForm pk || (m.plane h p).gone.contains r ||
     !(x.kidChips.contains pk.h.src || x.parent == pk.h.src) then m
  else
    let len := if kindOf pk == 1 then pk.pl.length
      else (((m.plane h p).halves.find? fun z => z.mask && z.chip == pk.h.src && z.off == pk.h.offset).map (·.bytes.length)).getD 0
    let (m, q) := (m.touch h p true).pair h p pk
    match q with
    | none => m
    | some (a, k, b) =>
      let y := m.plane h p
      let m := if y.fin.get r || y.rets.any (·.tile == r) then m
        else m.retain h p { tile := r, absent := a, mask := k, maskLen := len, bytes := b, dsts := m.dstsOf h p r (some pk.h.src) }
      m.ackTile h pk.h.src St.ok pk.h.offset

/-- A GATHER, or the MASK of one. -/
def isGather (p : Pkt) : Bool := isKind p 0x11 5 || isKind p 0x11 1

/-- A packet that comes before the first join waits for it (R235). -/
def Module.keepEarly (m : Module) (h : Nat) (pk : Pkt) : Module := m.updCtx h fun c => { c with early := c.early ++ [pk] }

/-- A data packet applied to its context; before the first join it waits (R235). `again`: it has waited so. -/
def Module.applyData (m : Module) (h : Nat) (pk : Pkt) (again : Bool := false) : Module :=
  if (m.ctx h).sig.isNone then
    if isKind pk 0x14 1 && !(m.ctx h).hasLocals then m.applyCarry h pk
    else if isGather pk && !(m.ctx h).hasLocals then m.relayGather h pk
    else ((m.touch h (m.nearPlane h pk) true).collCount 0x138 (b2n (isKind pk 0x11 0))).keepEarly h pk
  else if pk.h.type == 0x11 then
    let k := kindOf pk
    if k == 0 then m.applyContrib h pk again
    else if k == 1 then
      (if (List.range (m.ctx h).planes.length).any fun p => ((m.ctx h).sender (m.cplan h p) pk).isSome then m.applyContrib h pk again
       else m.applyGather h pk)
    else if k == 2 then m.applyPartial h pk
    else if k == 3 then m.applyAnchorUp h pk
    else if k == 5 then m.applyGather h pk
    else m
  else if pk.h.type == 0x14 then
    let k := kindOf pk
    if k == 0 then m.applySend h pk
    else if k == 1 then m.applyCarry h pk
    else if k == 3 then m.applyDecl h pk true
    else if k == 4 then m.applyDecl h pk false
    else m
  else if isKind pk 0x12 2 then m.applyAnchorDown h pk
  else m.applyResult h pk

/-- A child's chunk notice (R281). Its chunk follows from the signature: before the first join it waits; a module that no join
can reach passes it on, once for each offset. -/
def Module.chunkNotice (m : Module) (h : Nat) (pk : Pkt) : Module :=
  let c := m.ctx h
  let off := pk.h.offset
  if c.sig.isNone && c.hasLocals then m.keepEarly h pk
  else
    let k := if c.sig.isNone then off / 2048 else c.geo.chunkOfRes (off / 2048)
    let q := if c.sig.isNone then m.nearPlane h pk else c.geo.planeOf k
    if !(m.plane h q).on || !(m.cplan h q).kidChips.contains pk.h.src then m else m.chunkUp h q k off

/-- The chunk of a loss notice: results of it that have not come are no longer awaited (R294). -/
def Module.lossTold (m : Module) (h q : Nat) (pk : Pkt) : Module :=
  let g := (m.ctx h).geo
  let c := g.chunkOfRes (pk.h.offset / 2048)
  if !(m.plane h q).runs || g.chunks ≤ c || (m.plane h q).told.contains c then m
  else m.updPlane h q fun y => { y with
    told := y.told ++ [c], steps := y.steps.filter fun s => g.chunkOfIn s.tile != c }

/-- A packet whose tile needs a place of the retention area, and none is left (R255). -/
def Module.retWait (m : Module) (p : Pkt) : Bool :=
  let g := (m.ctx p.h.tag).geo
  m.retFull && ((g.gather && p.h.type == 0x11) || (g.reduce && p.h.type == 0x12 && kindOf p ≤ 1 && statusOf p == St.ok))

/-- A packet that has waited for the first join is taken up; one that needs a place of the retention area goes back to those
handed over while there is none (R255). -/
def Module.takeEarly (m : Module) (h : Nat) (pk : Pkt) : Module :=
  if pk.h.type == 0x13 then m.chunkNotice h pk
  else if isKind pk 0x12 0 && statusOf pk == St.chunkLost then
    m.lossTold h ((m.ctx h).geo.planeOf ((m.ctx h).geo.chunkOfRes (pk.h.offset / 2048))) pk
  else if m.retWait pk then { m with net := { m.net with handed := m.net.handed ++ [pk] } }
  else m.applyData h pk true

/-- A packet that must wait for staging or retention (R242, R255): it stays with those handed over. -/
def Module.collWait (m : Module) (p : Pkt) : Bool :=
  let h := p.h.tag
  let c := m.ctx h
  if !c.used then false
  else if c.blind && isGather p then m.retFull
  else if c.sig.isNone then
    ((p.h.type == 0x11 && kindOf p != 3) || (p.h.type == 0x14 && (kindOf p != 1 || c.hasLocals))) && m.stageFull h
  else
    let g := c.geo
    m.retWait p ||
    (m.stageFull h && ((p.h.type == 0x14 && kindOf p ≤ 1 && g.xchg) ||
      (g.reduce && isKind p 0x11 0 &&
        (let t := p.h.offset / 2048
         let q := c.tilePlane t
         match (m.plane h q).steps.find? (·.tile == t) with
         | some s => !s.admitted
         | none => !m.canAdmit h q t))))

/-- A row that takes a data packet of a type and kind. -/
def Module.dataRow (m : Module) (p : Pkt) (type kind : Nat) : Module :=
  if !isKind p type kind || m.collWait p then m
  else m.perform p type fun m => m.collIn p (type != 0x12) fun m => (m.applyData p.h.tag p).advance p.h.tag

/-- CONTRIB (R242). -/
def contrib (p : Pkt) (m : Module) : Module := m.dataRow p 0x11 0
/-- COLL_MASK (R239). -/
def collMask (p : Pkt) (m : Module) : Module := m.dataRow p 0x11 1
/-- PARTIAL (R240). -/
def partialPiece (p : Pkt) (m : Module) : Module := m.dataRow p 0x11 2
/-- ANCHOR_UP (R245). -/
def anchorUp (p : Pkt) (m : Module) : Module := m.dataRow p 0x11 3
/-- COLL_GATHER (R249). -/
def collGather (p : Pkt) (m : Module) : Module := m.dataRow p 0x11 5
/-- RESULT_TILE (R247). -/
def resultTile (p : Pkt) (m : Module) : Module := if statusOf p == St.ok then m.dataRow p 0x12 0 else m
/-- RESULT_MASK (R239). -/
def resultMask (p : Pkt) (m : Module) : Module := m.dataRow p 0x12 1
/-- ANCHOR_DOWN (R245). -/
def anchorDown (p : Pkt) (m : Module) : Module := m.dataRow p 0x12 2
/-- XCHG_SEND (R271). -/
def xchgSend (p : Pkt) (m : Module) : Module := m.dataRow p 0x14 0
/-- XCHG_CARRY (R271). -/
def xchgCarry (p : Pkt) (m : Module) : Module := m.dataRow p 0x14 1
/-- XCHG_ROW (R273). -/
def xchgRow (p : Pkt) (m : Module) : Module := m.dataRow p 0x14 3
/-- XCHG_COLUMN (R273). -/
def xchgColumn (p : Pkt) (m : Module) : Module := m.dataRow p 0x14 4

/-- SUMMARY (R244). -/
def summary (p : Pkt) (m : Module) : Module :=
  if !isKind p 0x11 4 then m
  else m.perform p 0x11 fun m => m.collIn p true fun m => (m.applySummary p.h.tag p).advance p.h.tag

/-- CHECKED from the parent (R244). -/
def checked (p : Pkt) (m : Module) : Module :=
  if !isKind p 0x12 3 then m
  else m.perform p 0x12 fun m => m.collIn p false fun m =>
    let h := p.h.tag
    let q := p.h.offset % 8
    if !(m.plane h q).runs || (m.plane h q).checked || (m.cplan h q).parent != p.h.src then m
    else ((m.touch h q false).check_ h q).advance h

/-- Result tiles of a plane: a root that ends it with OK has sent them all. -/
def Ctx.planeTiles (c : Ctx) (p : Nat) : Nat :=
  let g := c.geo
  if c.sig.isNone || g.xchg || g.op == 7 then 0 else ((g.planeChunks p).map fun k => (g.ressOf k).length).sum

/-- The payload of a COMPLETE as this module passes it on: an aborted subtree ends ABORTED, and DELIVERED reports the tiles
that the root sent (R301). -/
def Ctx.passOn (c : Ctx) (p status : Nat) (pl : Bytes) : Nat × Bytes :=
  if c.aborted && status == St.ok then
    (St.aborted, beBytes 2 St.aborted ++ slice pl 2 30 ++ failDetail none 0 (c.planeTiles p))
  else (status, pl)

/-- COMPLETE from the parent (R251, R282). -/
def complete (p : Pkt) (m : Module) : Module :=
  if !isKind p 0x12 4 then m
  else m.perform p 0x12 fun m => m.collIn p false fun m =>
    let h := p.h.tag
    let q := p.h.offset % 8
    if !(m.plane h q).on || (m.plane h q).ended || (m.cplan h q).parent != p.h.src then m
    else
      let m := m.touch h q false
      let (st, pl) := (m.ctx h).passOn q (statusOf p) p.pl
      m.endPlane h q st pl

/-- LOSS_NOTICE: passed on, and kept where the chunk cannot be told yet (R294). -/
def lossNotice (p : Pkt) (m : Module) : Module :=
  if !isKind p 0x12 0 || statusOf p != St.chunkLost then m
  else m.perform p 0x12 fun m => m.collIn p false fun m =>
    let h := p.h.tag
    let c := m.ctx h
    let q := if c.sig.isNone then m.nearPlane h p else c.geo.planeOf (c.geo.chunkOfRes (p.h.offset / 2048))
    if !(m.plane h q).on || (m.plane h q).ended || (m.cplan h q).parent != p.h.src then m
    else
      let m := (m.touch h q false).lossDown h q p.h.offset
      if c.sig.isSome then (m.lossTold h q p).advance h
      else if c.hasLocals then m.keepEarly h p
      else m

/-! ### Joins (R232 to R236, R286 to R288) -/

/-- The planes of a plan table in which a join's sender is a local member. -/
def joinPlanes (plans : Tab (Option Plan)) (p : Pkt) : List Nat :=
  let mem := joinMember p.pl
  let port := match p.port with | some q => if q < 256 then q else 256 | none => 999
  (plans.cells.filter fun c => c.2.any fun x => x.locals.any fun l => l.member == mem && l.chip == p.h.src && l.port == port).map (·.1)

/-- A join of an open context. -/
def Module.joinCtx (m : Module) (h : Nat) (p : Pkt) : Module :=
  let mem := joinMember p.pl
  let dig := sigDigest p.pl
  let ps := joinPlanes (m.ctx h).plans p
  if ps.all fun q => (m.plane h q).joined.contains mem || !(m.plane h q).on then m.collCount 0x118
  else
    let m := m.collCount 0x110
    let first := (m.ctx h).sig.isNone
    let l := sgLaunch p.pl
    let m := if first then m.updCtx h fun c => { c with sig := some (p.pl.take 40), launched := l == 0 || l ≤ m.now } else m
    let m := match p.port with | some q => if 256 ≤ q then m.bind h mem (q - 256) p else m | none => m
    let m := ps.foldl (fun (m : Module) q =>
      if (m.ctx h).used then
        (m.updPlane h q fun y => { y with joined := y.joined ++ [mem] }).digestIn h q dig mem
      else m) m
    let early := (m.ctx h).early
    let m := if first then
        early.foldl (fun m k => if (m.ctx h).used then m.takeEarly h k else m) (m.updCtx h fun c => { c with early := [] })
      else m
    if (m.ctx h).used then ((m.touch h 0 false).advance h) else m

/-- A join with COUNT 0 (R236): answered at once. Where a context of its number is open, two signatures meet there (R286); its
number is done all the same (log entry 105). -/
def Module.joinEmpty (m : Module) (p : Pkt) (h : Nat) : Module :=
  let gno := p.h.tag
  let s := p.h.tw
  let dig := sigDigest p.pl
  let m := (joinPlanes (m.ctx h).plans p).foldl (fun (m : Module) q =>
    if (m.ctx h).used then m.digestIn h q dig (joinMember p.pl) else m) m
  let g := m.grp gno
  let m := if (s + 2 ^ 32 - g.low) % 2 ^ 32 < 64 then m.setGrp gno { g with empties := g.empties ++ [(s, dig)] } else m
  (m.seqDone gno s).answerJoin p St.okEmpty

/-- A whole COLL_JOIN. -/
def Module.joinIn (m : Module) (p : Pkt) : Module :=
  let gno := p.h.tag
  let s := p.h.tw
  let g := m.grp gno
  let d := (s + 2 ^ 32 - g.low) % 2 ^ 32
  let h := gno * 65536 + s % 65536
  if 65536 ≤ gno || !g.used then m.noRecord p
  else if g.part != p.h.part then m.answerJoin p St.denied
  else if g.isRefused s && (2 ^ 31 ≤ d || d < 64) then m.answerJoin p St.noResource
  else if 2 ^ 31 ≤ d then (m.collCount 0x120).answerJoin p St.alreadyComplete
  else if 64 ≤ d then (m.collCount 0x128).answerJoin p St.busy
  else match g.empties.find? (·.1 == s) with
  | some e =>
    if e.2 == sigDigest p.pl then m.answerJoin p St.okEmpty
    else (m.collFailed h 0xFF 1 St.mismatch (joinMember p.pl)).answerJoin p St.mismatch
  | none =>
    if g.done.contains s then (m.collCount 0x120).answerJoin p St.alreadyComplete
    else if p.pl.length != 48 || !joinValid p.pl g.n then m.answerJoin p St.badParam
    else if (joinPlanes (if (m.ctx h).used then (m.ctx h).plans else g.plans) p).isEmpty then
      (m.collFailed h 0xFF 3 St.badParam (joinMember p.pl)).answerJoin p St.badParam
    else if sgCount p.pl == 0 then m.joinEmpty p h
    else if (m.ctx h).used then m.joinCtx h p
    else match m.allocCtx h s with
      | some m => m.joinCtx h p
      | none => (m.refuseCtx h s).answerJoin p St.noResource

/-- COLL_JOIN (R232). -/
def collJoin (p : Pkt) (m : Module) : Module :=
  m.perform p 0x10 fun m => if !p.good || m.fromFenced p || !m.addressed p.h then m else m.collEvent fun m => m.joinIn p

/-- TILE_STEP_ADMIT: the oldest waiting tile step of a context that has room on the die is admitted (R242). -/
def tileStepAdmit (d : Nat) (m : Module) : Module :=
  if !m.working then m
  else
    let l := m.coll.ctxs.cells.flatMap fun c => c.2.planes.zipIdx.flatMap fun y =>
      (y.1.steps.filter fun s => !s.admitted && y.1.runs).map fun s => (c.1, y.2, s.tile)
    match l.find? fun x => m.stepDie x.1 x.2.1 x.2.2 == d && m.canAdmit x.1 x.2.1 x.2.2 with
    | some (h, p, t) => m.collEvent fun m => (m.admitStep h p t).advance h
    | none => m

/-! ### Acknowledgements and notices (R250, R251, R281, R291, R292) -/

/-- Whether a packet is from a local member of a context. -/
def Module.fromLocal (m : Module) (h : Nat) (p : Pkt) : Bool :=
  (List.range (m.ctx h).planes.length).any fun q => ((m.ctx h).sender (m.cplan h q) p).isSome

/-- Which row a COLL_ACK belongs to: 0 COLL_ACK, 1 SUBTREE_DONE, 2 FAILURE_NOTICE. -/
def Module.ackClass (m : Module) (p : Pkt) : Nat :=
  let st := statusOf p
  if m.fromLocal p.h.tag p then 0
  else if isPlaneOff p.h.offset && st == St.ok then 1
  else if st == St.ok || st == St.busy || st == St.alreadyComplete then 0
  else 2

/-- A retained tile sent again to one destination, or given up after RESEND_LIMIT (R291). -/
def Module.resend (m : Module) (h p : Nat) (x : Ret) (d : RDst) : Module :=
  if m.collReg 0x028 17 ≤ d.resends then m.ackWait h p x.tile d
  else
    let (m, ok) := m.useRet x
    if !ok then m.retBad h p x (if m.placeDown x.place then 9 else 7) else
    let due := m.ackDue
    ((m.collCount 0x198).sendTo h p x [d]).updDst h p x.tile d fun e => { e with resends := e.resends + 1, due := some due }

/-- An acknowledgement of a tile of a plane by a destination. -/
def Module.ackDst (m : Module) (h p r : Nat) (d : RDst) (st : Nat) : Module :=
  match (m.plane h p).rets.find? (·.tile == r) with
  | none => m
  | some x =>
    match x.dsts.find? fun e => e.role == d.role && e.id == d.id && !e.acked && e.due.isSome with
    | none => m
    | some e => if st == St.ok then m.updDst h p r e fun e => { e with acked := true } else m.resend h p x e

/-- An acknowledgement of a DELIVER (R272). -/
def Module.ackXchg (m : Module) (h p mem t st : Nat) : Module :=
  if !(m.plane h p).xout.contains (mem, t) then m
  else if st == St.ok then m.updPlane h p fun y =>
    { y with xout := y.xout.filter (· != (mem, t)), xacked := y.xacked ++ [(mem, t)] }
  else (m.updPlane h p fun y => { y with xout := y.xout.filter (· != (mem, t)), xgone := y.xgone ++ [(mem, t)] }).xchgLoss h p 6 mem

/-- The subtree of a plane ends here with a status of this module's own making (R292, R298). -/
def Module.endSubtree (m : Module) (h p st : Nat) : Module := m.endPlane h p st (m.ownComplete st p (m.ctx h).seq)

/-- COLL_ACK (R250). -/
def collAck (p : Pkt) (m : Module) : Module :=
  if p.h.type != 0x13 || m.ackClass p != 0 then m
  else m.perform p 0x13 fun m => m.collIn p false fun m =>
    let h := p.h.tag
    let c := m.ctx h
    let st := statusOf p
    let t := p.h.offset / 2048
    if m.fromLocal h p then
      if c.sig.isNone then m
      else
        let g := c.geo
        let m := m.touch h 0 false
        ((List.range c.planes.length).foldl (fun m q =>
          match c.sender (m.cplan h q) p with
          | none => m
          | some l =>
            if !(m.plane h q).runs then m
            else if g.xchg then m.ackXchg h q l.member t st
            else m.ackDst h q (g.ofMember l.member t) { role := 0, id := l.member } st) m).advance h
    else if isPlaneOff p.h.offset then
      let q := p.h.offset % 8
      if (m.cplan h q).parent != p.h.src || !(m.plane h q).on || (m.plane h q).ended || (m.plane h q).sub.isNone then m
      else if st == St.alreadyComplete then m.endSubtree h q st
      else (m.touch h q false).updPlane h q fun y => { y with probes := 0 }
    else if st != St.ok || (c.sig.isNone && c.hasLocals) then m
    else
      let q := if c.blind then ((List.range c.planes.length).find? fun q => (m.plane h q).rets.any fun x =>
          x.tile == t && x.dsts.any (·.id == p.h.src)).getD 0
        else c.geo.planeOf (c.geo.chunkOfRes t)
      let role := if (m.cplan h q).parent == p.h.src then 2 else 1
      if !(m.plane h q).runs then m
      else ((m.touch h q false).ackDst h q t { role := role, id := p.h.src } st).advance h

/-- SUBTREE_DONE of a child; a repeat is answered BUSY (R251, R292). -/
def subtreeDone (p : Pkt) (m : Module) : Module :=
  if p.h.type != 0x13 || m.ackClass p != 1 then m
  else m.perform p 0x13 fun m => m.collIn p false fun m =>
    let h := p.h.tag
    let q := p.h.offset % 8
    if !(m.cplan h q).kidChips.contains p.h.src || !(m.plane h q).on then m
    else if (m.plane h q).kidDone p.h.src then m.toChip h p.h.src 0x13 St.busy p.h.offset
    else ((m.touch h q false).updPlane h q fun y => { y with kidsDone := y.kidsDone ++ [(p.h.src, St.ok)] }).advance h

/-- The plane of a notice, by the offset of the packet that it answers (R298): a plane offset, a plane number, or a tile. In an
exchange, or without a signature, offset 0 is taken as plane 0 where the sender is a neighbour there (log entry 129). -/
def Module.noticePlane (m : Module) (h : Nat) (p : Pkt) : Nat :=
  let c := m.ctx h
  let t := p.h.offset / 2048
  let near (q : Nat) : Bool := (m.cplan h q).parent == p.h.src || (m.cplan h q).kidChips.contains p.h.src
  if isPlaneOff p.h.offset || p.h.offset % 2048 != 0 then p.h.offset % 8
  else if c.sig.isNone || c.geo.xchg || c.geo.op == 7 then (if p.h.offset == 0 && near 0 then 0 else m.nearPlane h p)
  else
    let q := c.geo.planeOf (c.geo.chunkOfIn t)
    if c.geo.reduce && near q && (m.cplan h q).parent == p.h.src then q else c.geo.planeOf (c.geo.chunkOfRes t)

/-- A plane notice of a child (R281): a repeat is answered BUSY (R292), and a first one passed on or recorded. -/
def Module.noticeIn (m : Module) (h q : Nat) (p : Pkt) : Module :=
  let st := statusOf p
  let y := m.plane h q
  if y.kidsDone.contains (p.h.src, st) then m.toChip h p.h.src 0x13 St.busy p.h.offset
  else
    let m := m.updPlane h q fun y => { y with kidsDone := y.kidsDone ++ [(p.h.src, st)] }
    if (m.cplan h q).isRoot then
      if st == St.chunkLost then
        (if y.runs then (m.updPlane h q fun y => { y with clost := true }).advance h else m.failLate h q)
      else m.recordTerm h q st
    else if y.ended then m
    else if y.runs then m.noticeUp h q st
    else m.planeNotice h q st (m.cplan h q).parent

/-- FAILURE_NOTICE (R281). -/
def failureNotice (p : Pkt) (m : Module) : Module :=
  if p.h.type != 0x13 || m.ackClass p != 2 then m
  else m.perform p 0x13 fun m => m.collIn p false fun m =>
    let h := p.h.tag
    let st := statusOf p
    let q := m.noticePlane h p
    let y := m.plane h q
    let m := m.touch h q false
    if st == St.chunkLost && !isPlaneOff p.h.offset then
      let m := m.chunkNotice h p
      if (m.ctx h).used then m.advance h else m
    else if !y.on then m
    else if (m.cplan h q).parent == p.h.src then
      if y.ended || st == St.chunkLost then m else m.endSubtree h q st
    else if !(m.cplan h q).kidChips.contains p.h.src then m
    else if isPlaneOff p.h.offset || st == St.contextLost then m.noticeIn h q p
    else m

/-! ### Failure timers -/

/-- JOIN_TIMEOUT of a context (R289). -/
def joinTimeout (handle : Nat) (m : Module) : Module :=
  let c := m.ctx handle
  match c.joinDue with
  | none => m
  | some t =>
    let waits (m : Module) (q : Nat) : Bool := (m.plane handle q).runs &&
      !(if (m.cplan handle q).isRoot then (m.plane handle q).checked else (m.plane handle q).summary)
    if !m.working || !c.used || !((List.range c.planes.length).any (waits m)) then m
    else
      (m.pass t).collEvent fun m =>
      let m := m.updCtx handle fun c => { c with joinDue := none }
      (List.range c.planes.length).foldl (fun m q =>
        if (m.ctx handle).used && waits m q then m.planeFail handle q St.timeout 4 else m) m

/-- Whether a tile step still awaits a packet: a contribution; a child's ANCHOR; the agreed ANCHOR, once this module's is sent;
a child's PARTIAL, once the tile's anchors are agreed or where it has none. -/
def Module.stepAwaits (m : Module) (h p : Nat) (s : TStep) : Bool :=
  let g := (m.ctx h).geo
  let x := m.cplan h p
  !s.sent &&
  (!(x.locals.all fun l => s.got.contains l.member) ||
   (g.r.staged && s.agreed.isNone && (s.anchSent || !(x.kidChips.all fun k => s.kidAnch.any (·.1 == k)))) ||
   ((!g.r.staged || s.agreed.isSome) && !(x.kidChips.all s.kids.contains)))

/-- The chunk of a tile that waits for its mask, or of a mask: a result's from the parent, else an input's. -/
def Module.halfChunk (m : Module) (h p : Nat) (z : Half) : Nat :=
  let g := (m.ctx h).geo
  if g.reduce && z.chip == (m.cplan h p).parent then g.chunkOfRes (z.off / 2048) else g.chunkOfIn (z.off / 2048)

/-- The chunks of a plane for which packets are still awaited (R290); a result for which a root has found no place is lost here
too (R288). -/
def Module.awaited (m : Module) (h p : Nat) : List Nat :=
  let g := (m.ctx h).geo
  let y := m.plane h p
  let x := m.cplan h p
  (g.planeChunks p).filter fun k => !y.gone.contains k &&
    (if g.reduce then
      (!y.told.contains k && (g.insOf k).any fun t => !y.stepsDone.get t && (match y.steps.find? (·.tile == t) with
        | some s => m.stepAwaits h p s
        | none => true)) ||
      (x.isRoot && (g.ressOf k).any fun r => !(y.digs.get r).isEmpty && !y.fin.get r && !y.rets.any (·.tile == r)) ||
      y.halves.any fun z => z.chip == x.parent && m.halfChunk h p z == k
    else !y.told.contains k && !y.fin.get k && !y.rets.any (·.tile == k))

/-- A chunk is given up: no further packet of it is sent or awaited. -/
def Module.giveUp (m : Module) (h p k reason : Nat) : Module :=
  let g := (m.ctx h).geo
  let m := ((m.plane h p).rets.filter fun x => g.chunkOfRes x.tile == k).foldl (fun m x => m.dropRet h p x.tile) m
  let m := m.updPlane h p fun y => { y with
    gone := y.gone ++ [k], steps := y.steps.filter fun s => g.chunkOfIn s.tile != k,
    halves := y.halves.filter fun z => m.halfChunk h p z != k }
  m.chunkLoss h p k reason

/-- DATA_TIMEOUT of a plane (R290). Before the first join no chunk can be told, but an exchange is known by its packets (log
entry 107). -/
def dataTimeout (handle plane : Nat) (m : Module) : Module :=
  let c := m.ctx handle
  let y := m.plane handle plane
  match y.dataDue with
  | none => m
  | some t =>
    if !m.working || !c.used || !y.runs then m
    else (m.pass t).collEvent fun m =>
      let m := m.updPlane handle plane fun y => { y with dataDue := none }
      if c.sig.isNone then
        (if c.early.any (·.h.type == 0x14) then m.xchgLoss handle plane 5 else m)
      else if c.geo.xchg then
        (if m.settled handle plane then m
         else ((m.updPlane handle plane fun y => { y with xlost := true, xout := [] }).xchgLoss handle plane 5).advance handle)
      else ((m.awaited handle plane).foldl (fun m k => m.giveUp handle plane k 5) m).advance handle

/-- ACK_TIMEOUT of a retained tile, named by its offset (R291). -/
def ackTimeout (handle plane off : Nat) (m : Module) : Module :=
  let y := m.plane handle plane
  match y.rets.find? (·.tile == off / 2048) with
  | none => m
  | some x =>
    let ds := x.dsts.filter fun d => !d.acked && d.due.isSome
    match ds.map fun d => d.due.getD 0 with
    | [] => m
    | a :: l =>
      if !m.working || !y.runs then m
      else
        let t := l.foldl min a
        (m.pass t).collEvent fun m =>
        ((ds.filter fun d => d.due.getD 0 ≤ t).foldl (fun m d =>
          match (m.plane handle plane).rets.find? (·.tile == x.tile) with
          | some x => if (m.plane handle plane).runs then m.resend handle plane x d else m
          | none => m) m).advance handle

/-- PROBE_TIMER of a plane (R292). -/
def probeTimer (handle plane : Nat) (m : Module) : Module :=
  let y := m.plane handle plane
  match y.sub, y.probeDue with
  | some st, some t =>
    if !m.working || !y.on || y.ended || (m.cplan handle plane).isRoot then m
    else
      (m.pass t).collEvent fun m =>
      if m.collReg 0x02C 14 ≤ y.probes then
        (m.collFailed handle plane 10 St.contextLost).endSubtree handle plane St.contextLost
      else
        let m := (m.toChip handle (m.cplan handle plane).parent 0x13 st (planeOff plane)).collCount 0x1A8
        let m := if st == St.ok then m else m.collCount 0x180
        m.updPlane handle plane fun y => { y with probes := y.probes + 1, probeDue := some (m.ticks + ms (m.collReg 0x02C 0)) }
  | _, _ => m

/-! ### The meanings -/

/-- COLL_JOIN (R232). -/
def execCollJoin (p : Pkt) (s : State) : Host.Outcome State Fault Refusal := .next (s.withM (collJoin p))

/-- CONTRIB (R242). -/
def execContrib (p : Pkt) (s : State) : Host.Outcome State Fault Refusal := .next (s.withM (contrib p))

/-- COLL_MASK (R239). -/
def execCollMask (p : Pkt) (s : State) : Host.Outcome State Fault Refusal := .next (s.withM (collMask p))

/-- PARTIAL (R240). -/
def execPartialPiece (p : Pkt) (s : State) : Host.Outcome State Fault Refusal := .next (s.withM (partialPiece p))

/-- ANCHOR_UP (R245). -/
def execAnchorUp (p : Pkt) (s : State) : Host.Outcome State Fault Refusal := .next (s.withM (anchorUp p))

/-- SUMMARY (R244). -/
def execSummary (p : Pkt) (s : State) : Host.Outcome State Fault Refusal := .next (s.withM (summary p))

/-- COLL_GATHER (R249). -/
def execCollGather (p : Pkt) (s : State) : Host.Outcome State Fault Refusal := .next (s.withM (collGather p))

/-- TILE_STEP_ADMIT (R242). -/
def execTileStepAdmit (d : Nat) (s : State) : Host.Outcome State Fault Refusal := .next (s.withM (tileStepAdmit d))

/-- RESULT_TILE (R247). -/
def execResultTile (p : Pkt) (s : State) : Host.Outcome State Fault Refusal := .next (s.withM (resultTile p))

/-- RESULT_MASK (R239). -/
def execResultMask (p : Pkt) (s : State) : Host.Outcome State Fault Refusal := .next (s.withM (resultMask p))

/-- ANCHOR_DOWN (R245). -/
def execAnchorDown (p : Pkt) (s : State) : Host.Outcome State Fault Refusal := .next (s.withM (anchorDown p))

/-- CHECKED (R244). -/
def execChecked (p : Pkt) (s : State) : Host.Outcome State Fault Refusal := .next (s.withM (checked p))

/-- COMPLETE (R251). -/
def execComplete (p : Pkt) (s : State) : Host.Outcome State Fault Refusal := .next (s.withM (complete p))

/-- LOSS_NOTICE (R294). -/
def execLossNotice (p : Pkt) (s : State) : Host.Outcome State Fault Refusal := .next (s.withM (lossNotice p))

/-- COLL_ACK (R250). -/
def execCollAck (p : Pkt) (s : State) : Host.Outcome State Fault Refusal := .next (s.withM (collAck p))

/-- SUBTREE_DONE (R251). -/
def execSubtreeDone (p : Pkt) (s : State) : Host.Outcome State Fault Refusal := .next (s.withM (subtreeDone p))

/-- FAILURE_NOTICE (R281). -/
def execFailureNotice (p : Pkt) (s : State) : Host.Outcome State Fault Refusal := .next (s.withM (failureNotice p))

/-- NO_CONTEXT_ANSWER (R298). -/
def execNoContextAnswer (p : Pkt) (s : State) : Host.Outcome State Fault Refusal := .next (s.withM (noContextAnswer p))

/-- XCHG_SEND (R271). -/
def execXchgSend (p : Pkt) (s : State) : Host.Outcome State Fault Refusal := .next (s.withM (xchgSend p))

/-- XCHG_CARRY (R271). -/
def execXchgCarry (p : Pkt) (s : State) : Host.Outcome State Fault Refusal := .next (s.withM (xchgCarry p))

/-- XCHG_ROW (R273). -/
def execXchgRow (p : Pkt) (s : State) : Host.Outcome State Fault Refusal := .next (s.withM (xchgRow p))

/-- XCHG_COLUMN (R273). -/
def execXchgColumn (p : Pkt) (s : State) : Host.Outcome State Fault Refusal := .next (s.withM (xchgColumn p))

/-- JOIN_TIMEOUT (R289). -/
def execJoinTimeout (handle : Nat) (s : State) : Host.Outcome State Fault Refusal := .next (s.withM (joinTimeout handle))

/-- DATA_TIMEOUT (R290). -/
def execDataTimeout (handle : Nat) (plane : Nat) (s : State) : Host.Outcome State Fault Refusal := .next (s.withM (dataTimeout handle plane))

/-- ACK_TIMEOUT (R291). -/
def execAckTimeout (handle : Nat) (plane : Nat) (off : Nat) (s : State) : Host.Outcome State Fault Refusal := .next (s.withM (ackTimeout handle plane off))

/-- PROBE_TIMER (R292). -/
def execProbeTimer (handle : Nat) (plane : Nat) (s : State) : Host.Outcome State Fault Refusal := .next (s.withM (probeTimer handle plane))

end Sys2Proof.Machine
end

