-- ==== Sys2Proof/Machine/Dispatch.lean ====
section
/-!
DEFINITION. The effect of every command on everything but the queue: one arm for each constructor.
-/
namespace Sys2Proof.Machine

/-- The effect of a command. -/
def exec (i : Instr) (s : State) : Host.Outcome State Fault Refusal :=
  match i with
  | .standbyPowerOn flagGood crcGood => Sys2Proof.Machine.execStandbyPowerOn flagGood crcGood s
  | .coldStart start => Sys2Proof.Machine.execColdStart start s
  | .standbyPowerOff => Sys2Proof.Machine.execStandbyPowerOff s
  | .brownout => Sys2Proof.Machine.execBrownout s
  | .inputRestored start => Sys2Proof.Machine.execInputRestored start s
  | .hardwareTrip => Sys2Proof.Machine.execHardwareTrip s
  | .leakDetected own board => Sys2Proof.Machine.execLeakDetected own board s
  | .sensorSample inp => Sys2Proof.Machine.execSensorSample inp s
  | .batterySample mv => Sys2Proof.Machine.execBatterySample mv s
  | .sidebandLinkChange up => Sys2Proof.Machine.execSidebandLinkChange up s
  | .paceUpdate inp => Sys2Proof.Machine.execPaceUpdate inp s
  | .stickyClear v => Sys2Proof.Machine.execStickyClear v s
  | .limitUpdatesClear v => Sys2Proof.Machine.execLimitUpdatesClear v s
  | .syncFifoResume p => Sys2Proof.Machine.execSyncFifoResume p s
  | .enable p on => Sys2Proof.Machine.execEnable p on s
  | .retrain p => Sys2Proof.Machine.execRetrain p s
  | .widthLimit p v => Sys2Proof.Machine.execWidthLimit p v s
  | .downTimerExpiry p => Sys2Proof.Machine.execDownTimerExpiry p s
  | .tuningDone p => Sys2Proof.Machine.execTuningDone p s
  | .lightReceived p => Sys2Proof.Machine.execLightReceived p s
  | .lanesLocked p => Sys2Proof.Machine.execLanesLocked p s
  | .equaliseTimeout p lanes => Sys2Proof.Machine.execEqualiseTimeout p lanes s
  | .frameMarkersFound p lanes frame => Sys2Proof.Machine.execFrameMarkersFound p lanes frame s
  | .alignTimeout p => Sys2Proof.Machine.execAlignTimeout p s
  | .hello p pk => Sys2Proof.Machine.execHello p pk s
  | .switchFrameReached p => Sys2Proof.Machine.execSwitchFrameReached p s
  | .helloTimeout p => Sys2Proof.Machine.execHelloTimeout p s
  | .swapHoldExpiry p => Sys2Proof.Machine.execSwapHoldExpiry p s
  | .helloTransmit p => Sys2Proof.Machine.execHelloTransmit p s
  | .timeTransmit p txFrame rxFrame tTx tRx => Sys2Proof.Machine.execTimeTransmit p txFrame rxFrame tTx tRx s
  | .helloLost p => Sys2Proof.Machine.execHelloLost p s
  | .segmentReceived p inp => Sys2Proof.Machine.execSegmentReceived p inp s
  | .replayTimeout p => Sys2Proof.Machine.execReplayTimeout p s
  | .replayLimitReached p lane => Sys2Proof.Machine.execReplayLimitReached p lane s
  | .lockLoss p lane => Sys2Proof.Machine.execLockLoss p lane s
  | .laneSerExceeded p lane ppm => Sys2Proof.Machine.execLaneSerExceeded p lane ppm s
  | .markerLoss p => Sys2Proof.Machine.execMarkerLoss p s
  | .rerouteQueued p => Sys2Proof.Machine.execRerouteQueued p s
  | .packetArrival p h => Sys2Proof.Machine.execPacketArrival p h s
  | .mcastReplication id => Sys2Proof.Machine.execMcastReplication id s
  | .packetTailArrival p pl t0 t1 => Sys2Proof.Machine.execPacketTailArrival p pl t0 t1 s
  | .localDelivery d idx => Sys2Proof.Machine.execLocalDelivery d idx s
  | .reorderCommit src => Sys2Proof.Machine.execReorderCommit src s
  | .windowOffer d => Sys2Proof.Machine.execWindowOffer d s
  | .gapTimeout src => Sys2Proof.Machine.execGapTimeout src s
  | .write p c => Sys2Proof.Machine.execWrite p c s
  | .readReq p c => Sys2Proof.Machine.execReadReq p c s
  | .fetchAdd p c => Sys2Proof.Machine.execFetchAdd p c s
  | .fetchAnd p c => Sys2Proof.Machine.execFetchAnd p c s
  | .fetchOr p c => Sys2Proof.Machine.execFetchOr p c s
  | .fetchXor p c => Sys2Proof.Machine.execFetchXor p c s
  | .fetchMaxS p c => Sys2Proof.Machine.execFetchMaxS p c s
  | .fetchMinS p c => Sys2Proof.Machine.execFetchMinS p c s
  | .fetchMaxU p c => Sys2Proof.Machine.execFetchMaxU p c s
  | .fetchMinU p c => Sys2Proof.Machine.execFetchMinU p c s
  | .swap p c => Sys2Proof.Machine.execSwap p c s
  | .compareSwap p c => Sys2Proof.Machine.execCompareSwap p c s
  | .fence p => Sys2Proof.Machine.execFence p s
  | .restartFence p => Sys2Proof.Machine.execRestartFence p s
  | .fenceAckReceived p => Sys2Proof.Machine.execFenceAckReceived p s
  | .headwindReceived p => Sys2Proof.Machine.execHeadwindReceived p s
  | .headwindHoldExpiry d idx => Sys2Proof.Machine.execHeadwindHoldExpiry d idx s
  | .egressStart p => Sys2Proof.Machine.execEgressStart p s
  | .packetSent p => Sys2Proof.Machine.execPacketSent p s
  | .originatedPacketWait idx => Sys2Proof.Machine.execOriginatedPacketWait idx s
  | .rebalancerStep d => Sys2Proof.Machine.execRebalancerStep d s
  | .poolConversionDone d => Sys2Proof.Machine.execPoolConversionDone d s
  | .recover d => Sys2Proof.Machine.execRecover d s
  | .calmEntry q => Sys2Proof.Machine.execCalmEntry q s
  | .calmHoldExpiry p => Sys2Proof.Machine.execCalmHoldExpiry p s
  | .calmSinkDelivery d idx => Sys2Proof.Machine.execCalmSinkDelivery d idx s
  | .shaperRefill => Sys2Proof.Machine.execShaperRefill s
  | .timingWheelSlot d => Sys2Proof.Machine.execTimingWheelSlot d s
  | .resetRing d => Sys2Proof.Machine.execResetRing d s
  | .admitSet d mask => Sys2Proof.Machine.execAdmitSet d mask s
  | .counterClear blk off => Sys2Proof.Machine.execCounterClear blk off s
  | .cmdArrival p => Sys2Proof.Machine.execCmdArrival p s
  | .sidebandDatagram f => Sys2Proof.Machine.execSidebandDatagram f s
  | .reassemblyTimeout idx => Sys2Proof.Machine.execReassemblyTimeout idx s
  | .assemblyTimeout idx => Sys2Proof.Machine.execAssemblyTimeout idx s
  | .eventSend slot => Sys2Proof.Machine.execEventSend slot s
  | .identify r => Sys2Proof.Machine.execIdentify r s
  | .keepRead r => Sys2Proof.Machine.execKeepRead r s
  | .keepWrite r => Sys2Proof.Machine.execKeepWrite r s
  | .portConfig r => Sys2Proof.Machine.execPortConfig r s
  | .portStatus r => Sys2Proof.Machine.execPortStatus r s
  | .cablingLoad r => Sys2Proof.Machine.execCablingLoad r s
  | .routeWrite r => Sys2Proof.Machine.execRouteWrite r s
  | .eddySetWrite r => Sys2Proof.Machine.execEddySetWrite r s
  | .routeRead r => Sys2Proof.Machine.execRouteRead r s
  | .pinWrite r => Sys2Proof.Machine.execPinWrite r s
  | .pinRemove r => Sys2Proof.Machine.execPinRemove r s
  | .calmWrite r => Sys2Proof.Machine.execCalmWrite r s
  | .partitionConfig r => Sys2Proof.Machine.execPartitionConfig r s
  | .vcConfig r => Sys2Proof.Machine.execVcConfig r s
  | .shaperConfig r => Sys2Proof.Machine.execShaperConfig r s
  | .policerConfig r => Sys2Proof.Machine.execPolicerConfig r s
  | .redProfile r => Sys2Proof.Machine.execRedProfile r s
  | .windsockConfig r => Sys2Proof.Machine.execWindsockConfig r s
  | .groupCreate r => Sys2Proof.Machine.execGroupCreate r s
  | .groupMembers r => Sys2Proof.Machine.execGroupMembers r s
  | .groupPlan r => Sys2Proof.Machine.execGroupPlan r s
  | .groupDelete r => Sys2Proof.Machine.execGroupDelete r s
  | .mcastConfig r => Sys2Proof.Machine.execMcastConfig r s
  | .storeCreate r => Sys2Proof.Machine.execStoreCreate r s
  | .storeResize r => Sys2Proof.Machine.execStoreResize r s
  | .storePlace r => Sys2Proof.Machine.execStorePlace r s
  | .storeMigrate r => Sys2Proof.Machine.execStoreMigrate r s
  | .migrationSegmentDone entry c => Sys2Proof.Machine.execMigrationSegmentDone entry c s
  | .storeCommit r => Sys2Proof.Machine.execStoreCommit r s
  | .storeSeal r => Sys2Proof.Machine.execStoreSeal r s
  | .sealDigestDone handle c => Sys2Proof.Machine.execSealDigestDone handle c s
  | .storeUnseal r => Sys2Proof.Machine.execStoreUnseal r s
  | .storeDigest r => Sys2Proof.Machine.execStoreDigest r s
  | .digestDone handle c => Sys2Proof.Machine.execDigestDone handle c s
  | .storeDelete r => Sys2Proof.Machine.execStoreDelete r s
  | .tileRetire r => Sys2Proof.Machine.execTileRetire r s
  | .scrubTile handle tile e => Sys2Proof.Machine.execScrubTile handle tile e s
  | .heatHalving => Sys2Proof.Machine.execHeatHalving s
  | .programLoad r => Sys2Proof.Machine.execProgramLoad r s
  | .programUnload r => Sys2Proof.Machine.execProgramUnload r s
  | .kernelRun r => Sys2Proof.Machine.execKernelRun r s
  | .kernelInvoke p => Sys2Proof.Machine.execKernelInvoke p s
  | .runDispatch d => Sys2Proof.Machine.execRunDispatch d s
  | .launchReached => Sys2Proof.Machine.execLaunchReached s
  | .runTimeLimit e => Sys2Proof.Machine.execRunTimeLimit e s
  | .engineAccessDone e idx c => Sys2Proof.Machine.execEngineAccessDone e idx c s
  | .waitcDone e => Sys2Proof.Machine.execWaitcDone e s
  | .halt e => Sys2Proof.Machine.execHalt e s
  | .trap e => Sys2Proof.Machine.execTrap e s
  | .alu e => Sys2Proof.Machine.execAlu e s
  | .addi e => Sys2Proof.Machine.execAddi e s
  | .andi e => Sys2Proof.Machine.execAndi e s
  | .ori e => Sys2Proof.Machine.execOri e s
  | .xori e => Sys2Proof.Machine.execXori e s
  | .shi e => Sys2Proof.Machine.execShi e s
  | .lih e => Sys2Proof.Machine.execLih e s
  | .beq e => Sys2Proof.Machine.execBeq e s
  | .bne e => Sys2Proof.Machine.execBne e s
  | .blt e => Sys2Proof.Machine.execBlt e s
  | .bltu e => Sys2Proof.Machine.execBltu e s
  | .jmp e => Sys2Proof.Machine.execJmp e s
  | .loop e => Sys2Proof.Machine.execLoop e s
  | .rdftc e => Sys2Proof.Machine.execRdftc e s
  | .waitc e => Sys2Proof.Machine.execWaitc e s
  | .verq e => Sys2Proof.Machine.execVerq e s
  | .ldt e => Sys2Proof.Machine.execLdt e s
  | .stt e => Sys2Proof.Machine.execStt e s
  | .movts e => Sys2Proof.Machine.execMovts e s
  | .movst e => Sys2Proof.Machine.execMovst e s
  | .mac e => Sys2Proof.Machine.execMac e s
  | .vchain e => Sys2Proof.Machine.execVchain e s
  | .scan e => Sys2Proof.Machine.execScan e s
  | .red e => Sys2Proof.Machine.execRed e s
  | .cvt e => Sys2Proof.Machine.execCvt e s
  | .maskop e => Sys2Proof.Machine.execMaskop e s
  | .mpop e => Sys2Proof.Machine.execMpop e s
  | .mrange e => Sys2Proof.Machine.execMrange e s
  | .movm e => Sys2Proof.Machine.execMovm e s
  | .fenceInstr e => Sys2Proof.Machine.execFenceInstr e s
  | .acq e => Sys2Proof.Machine.execAcq e s
  | .emit e => Sys2Proof.Machine.execEmit e s
  | .tcopy e => Sys2Proof.Machine.execTcopy e s
  | .strm e => Sys2Proof.Machine.execStrm e s
  | .attnPartial e => Sys2Proof.Machine.execAttnPartial e s
  | .attnFinal e => Sys2Proof.Machine.execAttnFinal e s
  | .updateSgdm e => Sys2Proof.Machine.execUpdateSgdm e s
  | .updateAdamw e => Sys2Proof.Machine.execUpdateAdamw e s
  | .gather e => Sys2Proof.Machine.execGather e s
  | .compact e => Sys2Proof.Machine.execCompact e s
  | .convert e => Sys2Proof.Machine.execConvert e s
  | .collJoin p => Sys2Proof.Machine.execCollJoin p s
  | .contrib p => Sys2Proof.Machine.execContrib p s
  | .collMask p => Sys2Proof.Machine.execCollMask p s
  | .partialPiece p => Sys2Proof.Machine.execPartialPiece p s
  | .anchorUp p => Sys2Proof.Machine.execAnchorUp p s
  | .summary p => Sys2Proof.Machine.execSummary p s
  | .collGather p => Sys2Proof.Machine.execCollGather p s
  | .tileStepAdmit d => Sys2Proof.Machine.execTileStepAdmit d s
  | .resultTile p => Sys2Proof.Machine.execResultTile p s
  | .resultMask p => Sys2Proof.Machine.execResultMask p s
  | .anchorDown p => Sys2Proof.Machine.execAnchorDown p s
  | .checked p => Sys2Proof.Machine.execChecked p s
  | .complete p => Sys2Proof.Machine.execComplete p s
  | .lossNotice p => Sys2Proof.Machine.execLossNotice p s
  | .collAck p => Sys2Proof.Machine.execCollAck p s
  | .subtreeDone p => Sys2Proof.Machine.execSubtreeDone p s
  | .failureNotice p => Sys2Proof.Machine.execFailureNotice p s
  | .noContextAnswer p => Sys2Proof.Machine.execNoContextAnswer p s
  | .xchgSend p => Sys2Proof.Machine.execXchgSend p s
  | .xchgCarry p => Sys2Proof.Machine.execXchgCarry p s
  | .xchgRow p => Sys2Proof.Machine.execXchgRow p s
  | .xchgColumn p => Sys2Proof.Machine.execXchgColumn p s
  | .joinTimeout handle => Sys2Proof.Machine.execJoinTimeout handle s
  | .dataTimeout handle plane => Sys2Proof.Machine.execDataTimeout handle plane s
  | .ackTimeout handle plane off => Sys2Proof.Machine.execAckTimeout handle plane off s
  | .probeTimer handle plane => Sys2Proof.Machine.execProbeTimer handle plane s
  | .timeSample p pk t1 t4 => Sys2Proof.Machine.execTimeSample p pk t1 t4 s
  | .ptpSync inp => Sys2Proof.Machine.execPtpSync inp s
  | .ptpAnnounce addr master => Sys2Proof.Machine.execPtpAnnounce addr master s
  | .ptpMasterLost => Sys2Proof.Machine.execPtpMasterLost s
  | .candidateLoss p => Sys2Proof.Machine.execCandidateLoss p s
  | .sourceSwitch => Sys2Proof.Machine.execSourceSwitch s
  | .holdoverExpiry => Sys2Proof.Machine.execHoldoverExpiry s
  | .acquireTimeout => Sys2Proof.Machine.execAcquireTimeout s
  | .stepNow => Sys2Proof.Machine.execStepNow s
  | .ppsPulse => Sys2Proof.Machine.execPpsPulse s
  | .timeConfig r => Sys2Proof.Machine.execTimeConfig r s
  | .timeStatus r => Sys2Proof.Machine.execTimeStatus r s
  | .powerCap r => Sys2Proof.Machine.execPowerCap r s
  | .paceConfig r => Sys2Proof.Machine.execPaceConfig r s
  | .lullEnter r => Sys2Proof.Machine.execLullEnter r s
  | .lullIdleSet r => Sys2Proof.Machine.execLullIdleSet r s
  | .lullIdleExpiry => Sys2Proof.Machine.execLullIdleExpiry s
  | .lullEntryDone => Sys2Proof.Machine.execLullEntryDone s
  | .lullWake => Sys2Proof.Machine.execLullWake s
  | .lullWakeCount => Sys2Proof.Machine.execLullWakeCount s
  | .wakeComplete => Sys2Proof.Machine.execWakeComplete s
  | .resetWarm r start => Sys2Proof.Machine.execResetWarm r start s
  | .resetWarmStoreKept r start => Sys2Proof.Machine.execResetWarmStoreKept r start s
  | .resetPort r => Sys2Proof.Machine.execResetPort r s
  | .resetCold r start => Sys2Proof.Machine.execResetCold r start s
  | .faultRaise src blk detail => Sys2Proof.Machine.execFaultRaise src blk detail s
  | .graceExpiry => Sys2Proof.Machine.execGraceExpiry s
  | .faultStatus r => Sys2Proof.Machine.execFaultStatus r s
  | .faultHistory r => Sys2Proof.Machine.execFaultHistory r s
  | .faultClear r => Sys2Proof.Machine.execFaultClear r s
  | .severitySet r => Sys2Proof.Machine.execSeveritySet r s
  | .attest r => Sys2Proof.Machine.execAttest r s
  | .firmwareStage r => Sys2Proof.Machine.execFirmwareStage r s
  | .firmwareActivate r start => Sys2Proof.Machine.execFirmwareActivate r start s
  | .ownershipTake r => Sys2Proof.Machine.execOwnershipTake r s
  | .ownershipGrant r => Sys2Proof.Machine.execOwnershipGrant r s
  | .ownershipRevoke r => Sys2Proof.Machine.execOwnershipRevoke r s
  | .opStatus r => Sys2Proof.Machine.execOpStatus r s
  | .opAbort r => Sys2Proof.Machine.execOpAbort r s
  | .entryFinish idx => Sys2Proof.Machine.execEntryFinish idx s
  | .countersRead r => Sys2Proof.Machine.execCountersRead r s
  | .regRead r => Sys2Proof.Machine.execRegRead r s
  | .regWrite r => Sys2Proof.Machine.execRegWrite r s
  | .eventSubscribe r => Sys2Proof.Machine.execEventSubscribe r s
  | .eventUnsubscribe r => Sys2Proof.Machine.execEventUnsubscribe r s
  | .eventList r => Sys2Proof.Machine.execEventList r s
  | .testModeEnter r => Sys2Proof.Machine.execTestModeEnter r s
  | .faultInject r => Sys2Proof.Machine.execFaultInject r s
  | .candidateAppears p pk => Sys2Proof.Machine.execCandidateAppears p pk s
  | .levelSourceInactive src blk => Sys2Proof.Machine.execLevelSourceInactive src blk s

end Sys2Proof.Machine
end

