-- ==== Sys2Proof/Safety.lean ====
section
/-!
DEFINITION. What counts as a safe run, in the terms the claims use: every step answers a next state, and the tables that
stand for registers, memory, ports, dies and engines keep their canonical form, so that equal contents are equal data.
-/
namespace Sys2Proof

/-- A step that neither faults nor is refused. -/
def goesOn (s : Machine.State) : Bool :=
  match Machine.step s with
  | .next _ => true
  | .fault _ => false
  | .refused _ => false

namespace Machine

/-- The canonical form of the register store, memory, and the tables of ports, switch dies and engines: keys strictly
rising, no row listed that holds what an unlisted row holds. -/
def Canon (m : Module) : Prop :=
  m.regs.wf = true ∧ Memory.wf m.mem = true ∧ m.ports.wf = true ∧ m.dies.wf = true ∧ m.engs.wf = true

end Machine

end Sys2Proof
end

