-- ==== Sys2Proof/Certificates/Slice0/Obligations.lean ====
section
/-!
DEFINITION. The statements for the provers: what each command of the module does to the state, what it leaves unchanged,
and what every step keeps. Each is about every state and every operand that meets the hypotheses written in it.
-/
namespace Sys2Proof.Claims
open Sys2Proof.Machine

/-- The command completes: it answers a next state in which the same commands wait, and `P` holds of its module. -/
def Completes (c : Instr) (s : State) (P : Module → Prop) : Prop :=
  ∃ t, exec c s = .next t ∧ t.pending = s.pending ∧ P t.m

/-- A port of a module whose links run, with its link in the state `st` of *Training states*. -/
def LinkIn (m : Module) (p st : Nat) : Prop :=
  p < 256 ∧ m.pwr.main = true ∧ m.pwr.st ≠ 4 ∧ (m.link p).st = st

/-- Every other port's link holds what it held, and its replay buffer the same segments. -/
def OtherLinks (p : Nat) (a b : Module) : Prop :=
  ∀ q, q ≠ p → b.link q = a.link q ∧ (b.wire q).replay = (a.wire q).replay

/-- The segments that a port has sent, the last one first. -/
def segsOut (p : Nat) (l : List Out) : List Bytes :=
  l.filterMap fun x => match x with | .segment q b => if q = p then some b else none | _ => none

/-- Every other port holds what it held. -/
def OtherPorts (p : Nat) (a b : Module) : Prop := ∀ q, q ≠ p → b.port q = a.port q

/-- The key of the tile to which bytes for tile `t` of object `i` go: the other copy for the first write of a retained object
after a commit (R318), the present copy otherwise. -/
def storeKey (m : Module) (i t : Nat) : Nat :=
  if (m.obj i).retain && !(m.obj i).wr.get t then m.otherCopy (m.obj i) t else m.present (m.obj i) t

/-- What the check of the tile of a key finds at its next use, once what `c` says has befallen the memory, is no error or one
that ECC corrects (R306). -/
def Sound (m : Module) (c : EccIn) (k : Nat) : Prop := (m.strike c).store.damaged.get k < 2

/-- No ATOMIC with a reserved operation code waits for its refusal. -/
def NoneRefused (m : Module) : Prop := ∀ k ∈ m.net.handed, reservedAtomic k.h = false

/-- No descriptor is due for *Routing decisions* again (R172). -/
def NothingDue (m : Module) : Prop := ∀ b ∈ m.net.pkts, ∀ c ∈ b.copies, c.due = false

/-- A request that its target performs now: the module works, the packet has the type, no earlier ordered packet of its
source is still to be performed, and no refusal waits for it (R330, R394). -/
def Performs (m : Module) (p : Pkt) (type : Nat) : Prop :=
  m.working = true ∧ p.h.type = type ∧ m.behind p = false ∧ NoneRefused m

/-- The module's answer to a request packet joins what it originates (R536). -/
def AnswerSent (a b : Module) (p : Pkt) (type status : Nat) (pl : Bytes) : Prop :=
  a.fabricUp = true → ∃ q : Orig, b.net.orig = a.net.orig ++ [q] ∧ q.pkt.h.type = type ∧ q.pkt.h.dest = p.h.src ∧
    q.pkt.h.tag = p.h.tag ∧ q.pkt.h.tw = status ∧ q.pkt.pl = pl

/-- The FTC after a row that a duration's end at `t` brings: it has not passed that end, or goes on from where it was (R421). -/
def Waited (a b : Module) (t : Nat) : Prop := b.now = a.now + (t - a.ticks)

/-- An engine's registers are there: 32 scalar registers, six tile buffers, two accumulators, four masks, and run counters of
32 bits (R333). -/
def Shaped (x : Engine) : Prop :=
  x.s.length = 32 ∧ x.t.length = 6 ∧ x.a.length = 2 ∧ x.masks.length = 4 ∧
  x.cnt.sat < 2 ^ 32 ∧ x.cnt.flush < 2 ^ 32 ∧ x.cnt.inv < 2 ^ 32

/-- Bytes of a vector that `n` of its elements take, from its first byte: `n` is a multiple of a Breeze block (R210, R212). -/
def bytesOf (f n : Nat) : Nat :=
  if f = fInt4 then n / 2 else if f = fInt8 then n else if f = fBf16 then 2 * n
  else if f = fB8 then 33 * (n / 32) else if f = fB4 then 33 * (n / 64) else 4 * n

/-- Engine `e` runs `r`, its next instruction is the word `w` with opcode `op`, nothing withholds its issue, and no pending
work holds what the instruction reads or writes (R347). -/
def Issues (m : Module) (e op : Nat) (r : Run) (w : Nat) : Prop :=
  (m.eng e).run = some r ∧ m.wordOf r (m.eng e).pc.toNat = some w ∧ m.canIssue e r = true ∧ bits w 31 26 = op ∧
  m.held r (m.eng e).pc.toNat w = false ∧ Shaped (m.eng e)

/-- Nothing but engine `e` and the registers of its block is changed. -/
def EngineOnly (e : Nat) (a b : Module) : Prop :=
  b = { a with engs := b.engs, regs := b.regs } ∧ (∀ f, f ≠ e → b.eng f = a.eng f) ∧
  ∀ k o l, o < 2 ^ 26 → l < 64 → k ≠ engBlk e → b.reg k o l = a.reg k o l

/-- An engine's PC becomes `pc`, scalar register `d` reads `v` if it is not s0, and everything else it holds is what it was. -/
def Writes (x y : Engine) (pc : BitVec 14) (d : Nat) (v : Word64) : Prop :=
  y.pc = pc ∧ y.rd d = (if d = 0 then 0 else v) ∧ (∀ k, k ≠ d → y.rd k = x.rd k) ∧
  { y with s := x.s, pc := x.pc } = x

/-- An engine's PC becomes `pc`, tile operand `t` holds the bytes `b`, and everything else it holds is what it was. -/
def Loads (x y : Engine) (pc : BitVec 14) (t : Nat) (b : Bytes) : Prop :=
  y.pc = pc ∧ y.vec t = b ∧ (∀ u, u < 8 → u ≠ t → y.vec u = x.vec u) ∧ { y with t := x.t, a := x.a, pc := x.pc } = x

/-- *Scalar functions*: the 64-bit pattern `v` is the function of two patterns. -/
def scalarFn (fn : Nat) (a b v : Word64) : Prop :=
  match fn with
  | 0 => v.toNat = (a.toNat + b.toNat) % 2 ^ 64
  | 1 => (v.toNat + b.toNat) % 2 ^ 64 = a.toNat
  | 2 => v.toNat = a.toNat * b.toNat % 2 ^ 64
  | 3 => ∀ i, v.getLsbD i = (a.getLsbD i && b.getLsbD i)
  | 4 => ∀ i, v.getLsbD i = (a.getLsbD i || b.getLsbD i)
  | 5 => ∀ i, v.getLsbD i = (a.getLsbD i ^^ b.getLsbD i)
  | 6 => v.toNat = a.toNat * 2 ^ (b.toNat % 64) % 2 ^ 64
  | 7 => v.toNat = a.toNat / 2 ^ (b.toNat % 64)
  | 8 => v.toInt = a.toInt / 2 ^ (b.toNat % 64)
  | 9 => v = if a.toInt < b.toInt then 1 else 0
  | 10 => v = if a.toNat < b.toNat then 1 else 0
  | 11 => v.toInt = min a.toInt b.toInt
  | 12 => v.toInt = max a.toInt b.toInt
  | 13 => v.toNat = a.toNat * b.toNat / 2 ^ 64
  | 14 => v.toNat = if b.toNat = 0 then 2 ^ 64 - 1 else a.toNat / b.toNat
  | 15 => v.toNat = if b.toNat = 0 then a.toNat else a.toNat % b.toNat
  | _ => False

/-- A run that ends at once when it begins to end: no store, packet or contribution of it is still owed, and its entry is
open with no abort at it. -/
def Endable (m : Module) (e : Nat) (r : Run) : Prop :=
  (m.eng e).run = some r ∧ r.ending = none ∧ r.pend = [] ∧ r.merges = [] ∧ r.desc.cmd = false ∧
  ∃ t, m.trk.find r.handle = some t ∧ t.st = 1 ∧ t.aborts = []

/-- Engine `e` runs the built-in kernel with a code, and may go on. -/
def RunsKernel (m : Module) (e code : Nat) (r : Run) : Prop :=
  (m.eng e).run = some r ∧ m.canIssue e r = true ∧ (m.kern.progs.get r.slot).builtin = code ∧ Shaped (m.eng e)

/-- A tile of an object that a run may read as present data: it is of the run's partition, in reach and not poisoned. -/
def Readable (m : Module) (r : Run) (handle tile i : Nat) : Prop :=
  m.runObj r handle = .inl i ∧ tile < (m.obj i).size ∧
  m.unitDown (tileUnit (m.present (m.obj i) tile)) = false ∧ m.isPoisoned (m.present (m.obj i) tile) = false

/-- The same, with no error that ECC does not correct (R306, R326). -/
def ReadsWell (m : Module) (r : Run) (handle tile i : Nat) : Prop :=
  Readable m r handle tile i ∧ m.store.damaged.get (m.present (m.obj i) tile) < 2

/-- Nothing of the collective engine waits for room in the reserve, and no tile of the reserve is poisoned (R255, R329). -/
def Rests (m : Module) : Prop :=
  (∀ h, ∀ y ∈ (m.ctx h).planes, ∀ x ∈ y.steps, x.sent = false) ∧ ∀ k ∈ m.store.poisoned.keys, k < 2 ^ 48

/-- A collective packet of a type that is performed now (R171, R296, R394). -/
def Arrives (m : Module) (p : Pkt) (type : Nat) : Prop :=
  Performs m p type ∧ p.good = true ∧ m.fromFenced p = false ∧ m.addressed p.h = true

/-- A collective packet of a type that reaches the open context of its handle, with room for what it brings (R232). -/
def Reaches (m : Module) (p : Pkt) (type : Nat) : Prop :=
  let g := m.grp (p.h.tag / 65536)
  Arrives m p type ∧ Rests m ∧ g.used = true ∧ g.part = p.h.part ∧
  m.handleDist p.h.tag < 64 ∧ (g.empties.any fun x => x.1 == m.handleSeq p.h.tag) = false ∧
  g.done.contains (m.handleSeq p.h.tag) = false ∧ (m.ctx p.h.tag).used = true ∧ m.collWait p = false

/-- An open context with one plane whose launch count is still to come: nothing of it has been sent (R246). -/
def Staging (m : Module) (h : Nat) (c : Ctx) (y : Plane) (sg : Bytes) : Prop :=
  m.ctx h = c ∧ c.used = true ∧ c.planes = [y] ∧ c.launched = false ∧ c.sig = some sg ∧ m.now < sgLaunch sg ∧
  y.on = true ∧ y.ended = false ∧ y.fail = none ∧ y.checked = false ∧ y.steps = [] ∧ y.rets = [] ∧ y.halves = [] ∧
  y.xwait = [] ∧ y.stepsDone.cells = [] ∧ y.gone = [] ∧ y.told = [] ∧ y.fin.cells = []

/-- Every other context is what it was. -/
def OtherCtxs (h : Nat) (a b : Module) : Prop := ∀ j, j ≠ h → b.ctx j = a.ctx j

/-- The request that a command's row carries, the opcode of the row, and whether the request's parameters select the row
among those of the opcode. -/
def request : Instr → Option (CmdReq × Nat × Bool)
  | .identify r => some (r, 0x0101, true)
  | .keepRead r => some (r, 0x0102, true)
  | .keepWrite r => some (r, 0x0103, true)
  | .portConfig r => some (r, 0x0201, true)
  | .portStatus r => some (r, 0x0202, true)
  | .cablingLoad r => some (r, 0x0203, true)
  | .routeWrite r => some (r, 0x0301, r.u 0 1 != 1)
  | .eddySetWrite r => some (r, 0x0301, r.u 0 1 == 1)
  | .routeRead r => some (r, 0x0302, true)
  | .pinWrite r => some (r, 0x0303, r.u 0 1 != 1)
  | .pinRemove r => some (r, 0x0303, r.u 0 1 == 1)
  | .calmWrite r => some (r, 0x0304, true)
  | .partitionConfig r => some (r, 0x0401, true)
  | .vcConfig r => some (r, 0x0402, true)
  | .shaperConfig r => some (r, 0x0403, true)
  | .policerConfig r => some (r, 0x0404, true)
  | .redProfile r => some (r, 0x0405, true)
  | .windsockConfig r => some (r, 0x0406, true)
  | .groupCreate r => some (r, 0x0501, true)
  | .groupMembers r => some (r, 0x0502, true)
  | .groupPlan r => some (r, 0x0503, true)
  | .groupDelete r => some (r, 0x0504, true)
  | .mcastConfig r => some (r, 0x0505, true)
  | .storeCreate r => some (r, 0x0601, true)
  | .storeResize r => some (r, 0x0602, true)
  | .storePlace r => some (r, 0x0603, true)
  | .storeMigrate r => some (r, 0x0604, true)
  | .storeCommit r => some (r, 0x0605, true)
  | .storeSeal r => some (r, 0x0606, true)
  | .storeUnseal r => some (r, 0x0607, true)
  | .storeDigest r => some (r, 0x0608, true)
  | .storeDelete r => some (r, 0x0609, true)
  | .tileRetire r => some (r, 0x060A, true)
  | .programLoad r => some (r, 0x0701, true)
  | .programUnload r => some (r, 0x0702, true)
  | .kernelRun r => some (r, 0x0703, true)
  | .timeConfig r => some (r, 0x0801, true)
  | .timeStatus r => some (r, 0x0802, true)
  | .powerCap r => some (r, 0x0901, true)
  | .paceConfig r => some (r, 0x0902, true)
  | .lullEnter r => some (r, 0x0903, r.u 0 1 != 1)
  | .lullIdleSet r => some (r, 0x0903, r.u 0 1 == 1)
  | .resetWarm r _ => some (r, 0x0904, r.u 0 1 == 0 || 3 < r.u 0 1)
  | .resetWarmStoreKept r _ => some (r, 0x0904, r.u 0 1 == 1)
  | .resetPort r => some (r, 0x0904, r.u 0 1 == 2)
  | .resetCold r _ => some (r, 0x0904, r.u 0 1 == 3)
  | .faultStatus r => some (r, 0x0A01, r.u 0 1 != 1)
  | .faultHistory r => some (r, 0x0A01, r.u 0 1 == 1)
  | .faultClear r => some (r, 0x0A02, true)
  | .severitySet r => some (r, 0x0A03, true)
  | .attest r => some (r, 0x0B01, true)
  | .firmwareStage r => some (r, 0x0B02, true)
  | .firmwareActivate r _ => some (r, 0x0B03, true)
  | .ownershipTake r => some (r, 0x0C01, true)
  | .ownershipGrant r => some (r, 0x0C02, r.u 4 1 % 2 == 0)
  | .ownershipRevoke r => some (r, 0x0C02, r.u 4 1 % 2 == 1)
  | .opStatus r => some (r, 0x0C03, true)
  | .opAbort r => some (r, 0x0C04, true)
  | .countersRead r => some (r, 0x0C05, true)
  | .regRead r => some (r, 0x0C06, true)
  | .regWrite r => some (r, 0x0C07, true)
  | .eventSubscribe r => some (r, 0x0C08, r.u 0 1 != 1 && r.u 0 1 != 2)
  | .eventUnsubscribe r => some (r, 0x0C08, r.u 0 1 == 1)
  | .eventList r => some (r, 0x0C08, r.u 0 1 == 2)
  | .testModeEnter r => some (r, 0x0F01, true)
  | .faultInject r => some (r, 0x0F02, true)
  | _ => none

/-- A command waits next at a controller that takes commands, and no cached command has its key and payload (R432, R433). -/
def Waits (m : Module) (r : CmdReq) : Prop := m.vaneUp = true ∧ m.vane.next = some r ∧ m.fromCache r = none

/-- The command of an opcode executes now (R434, R442): the module's state allows it, it is not in Lull, and version,
length and reserved bytes are legal. -/
def Runs (m : Module) (r : CmdReq) (op : Nat) (lay : List (Nat × Nat × Nat)) : Prop :=
  Waits m r ∧ m.busyFor r.opcode = false ∧ m.pwr.lull = 0 ∧ r.opcode = op ∧ r.ver = 1 ∧ 16 ≤ r.body.length ∧
  r.body.length ≤ 2048 ∧ r.body.length % 16 = 0 ∧ laid r.body lay = true

/-- The module as the command begins: it has left its queue and is counted. -/
def begun (m : Module) (r : CmdReq) : Module :=
  (m.popCmd r.side).count (mgtBlk 255) (if r.side then 0x108 else 0x100)

/-- The command's final reply, with a status, data and a handle, is sent and kept for its repeats (R430, R433). -/
def Answered (m : Module) (r : CmdReq) (st : Nat) (data : Bytes := []) (handle : Nat := 0) : Prop :=
  ∃ c ∈ m.vane.cache r.side, c.keyOf r = true ∧ c.body = r.body ∧ c.final = replySegs r st handle [(0, data)]

/-- The command is deferred: its first reply is kept, and an entry of a kind is open for it (R430, R448). -/
def Deferred (m : Module) (r : CmdReq) (h kind : Nat) : Prop :=
  (∃ c ∈ m.vane.cache r.side, c.keyOf r = true ∧ c.first.isSome = true ∧ c.final = []) ∧
  ∃ e, m.trk.find h = some e ∧ e.kind = kind ∧ e.st = 1 ∧ e.req = some r

/-- Each register of a list holds, in its RW fields, the bits written to it. -/
def Stored (m : Module) (l : List RegW) : Prop :=
  ∀ x ∈ l, ∀ f ∈ fieldsAt x.blk x.off, f.1.acc = .rw → m.reg x.blk x.off f.1.lo = bits x.v f.1.hi f.1.lo

/-- Every register write of a list is legal beside the others (R8, R440). -/
def Legal (m : Module) (r : CmdReq) (l : List RegW) : Prop :=
  ∀ x ∈ l, m.regStatus (l.foldl (fun m x => m.store1 x) m) r.side x = St.ok

end Sys2Proof.Claims

open Sys2Proof Sys2Proof.Machine Sys2Proof.Claims

/-! ### The block -/

/-- A step runs the command at the front of the queue, with the rest of the queue (the block's order of commands). -/
def Obligations.StepRunsTheFrontCommand : Prop :=
  ∀ (c : Instr) (l : List Instr) (s : State), s.pending = c :: l → step s = exec c { s with pending := l }

/-- On an empty queue a step counts the FTC while the standby domain is up; where no link sends frames and no job is open
on an object, nothing else changes (log entry 7: the model's choice). The only link that sends frames, one in ALIGN or
past it, sends its next segment when it is due: in ALIGN a null one (R67), in ACTIVE with no packet begun and room in its
replay buffer a numbered one (R59, R61). -/
def Obligations.IdleStepCountsTheFtc : Prop :=
  ∀ s : State, s.pending = [] →
    let Quiet (p : Nat) : Prop := ∀ q, q ≠ p → (s.m.link q).st < 3
    let NoJob : Prop := ∀ i, (s.m.obj i).job = none ∧ (s.m.obj i).dig = none
    (s.m.pwr.standby = true → (∀ q, (s.m.link q).st < 3) → NoJob →
      step s = .next { s with m := { s.m with time := { s.m.time with ftc := (s.m.time.ftc + 1) % 2 ^ 64 } } }) ∧
    (s.m.pwr.standby = false → step s = .next s) ∧
    (∀ p, p < 256 → 3 ≤ (s.m.link p).st → s.m.pwr.standby = true → Quiet p → NoJob → Canon s.m →
      s.m.time.ftc + 1 < 2 ^ 64 → s.m.time.stepSum ≤ s.m.time.ftc → (s.m.wire p).segAt ≤ s.m.ticks + 1 → ∃ t, step s = .next t ∧ t.pending = [] ∧ t.m.now = s.m.now + 1 ∧
      OtherLinks p s.m t.m ∧ ∃ b, segsOut p t.m.out = b :: segsOut p s.m.out ∧
        ((s.m.link p).st = 3 → bitAt (fieldBE b 18 1) 0 = false ∧ (t.m.wire p).txSeq = (s.m.wire p).txSeq) ∧
        ((s.m.link p).st = 6 → (s.m.wire p).sending = none → (s.m.wire p).replay.length < 128 → s.m.pwr.lull ≤ 1 →
          bitAt (fieldBE b 18 1) 0 = true ∧ fieldBE b 16 2 = (s.m.wire p).txSeq % 65536 ∧
          (t.m.wire p).txSeq = ((s.m.wire p).txSeq + 1) % 65536 ∧
          (t.m.wire p).replay.length = (s.m.wire p).replay.length + 1))

/-- What a command does to the module does not depend on the commands that wait behind it, and it leaves them waiting. As
many steps as commands wait empty the queue: no command stops the module, and each is taken in turn. -/
def Obligations.CommandsRunInTurn : Prop :=
  (∀ (c : Instr) (m : Module) (q r : List Instr), ∃ n : Module,
      exec c { pending := q, m := m } = .next { pending := q, m := n } ∧
      exec c { pending := r, m := m } = .next { pending := r, m := n }) ∧
  (∀ (l : List Instr) (m : Module), ∃ n : Module,
      Host.Core.run core l.length ({ pending := l, m := m } : State) = .next { pending := [], m := n } ∧
      ∀ (c : Instr) (k : Module), exec c { pending := [], m := n } = .next { pending := [], m := k } →
        Host.Core.run core (l ++ [c]).length ({ pending := l ++ [c], m := m } : State) = .next { pending := [], m := k })

/-- Right after reset no command waits, the standby domain is up and nothing has run: the FTC is 0, the time block in
INIT, the module in STANDBY, every link DOWN, and no fault record exists. -/
def Obligations.ResetState : Prop :=
  State.reset.pending = [] ∧ State.reset.m.pwr.standby = true ∧ State.reset.m.pwr.main = false ∧
  State.reset.m.now = 0 ∧ State.reset.m.time.st = 0 ∧ State.reset.m.pwr.st = 0 ∧
  (∀ p, (State.reset.m.link p).st = 0) ∧ State.reset.m.flt.cur = none ∧
  (∀ a, State.reset.m.mem.byte a = 0) ∧ State.reset.m.store.objs.cells = [] ∧ State.reset.m.coll.ctxs.cells = [] ∧
  (∀ blk off lo, State.reset.m.reg blk off lo = regReset blk off lo)

/-- The tables of the reset state have their canonical form. -/
def Obligations.ResetIsCanonical : Prop := Canon State.reset.m

/-- Every step keeps the canonical form of the register store, memory, and the tables of ports, dies and engines. -/
def Obligations.StepKeepsTablesCanonical : Prop :=
  ∀ s t : State, Canon s.m → step s = .next t → Canon t.m

/-! ### Optical ports and the Penida link -/

/-- A training from DOWN advances (R66, R67, R494, R534): once the memories are trained, 1 ms after the entry to DOWN an
enabled port enters SIGNAL and takes what it will advertise from its credit registers as they stand then; when it has
tuned, each of its lanes carries PRBS13Q, and light then takes it to EQUALISE; every lane locked, or some lane at 50 ms,
takes it to ALIGN; the frame marker found on some lane takes it to HELLO, where the numbered stream of a training from
DOWN starts at 0 and that of a width retrain goes on (R68). No other link changes. A frame number that the lanes do not
carry is no marker, by the model's choice (log entry 11). -/
def Obligations.TrainingAdvances : Prop :=
  ∀ (s : State) (p lanes frame : Nat) (levels : List (List Nat)),
    let places := (levels.take 4).map fun x => markerAt x 0
    let carried (k : Nat) : Nat := frameNumAt (levels.getD ((places.idxOf? (some k)).getD 0) []) k
    (LinkIn s.m p 0 → s.m.enabled p = true → (s.m.link p).isolated = false → s.m.pwr.trained = true →
      Completes (.downTimerExpiry p) s fun m => (m.link p).st = 1 ∧ (m.wire p).cfg = s.m.creditRegs p ∧
        Waited s.m m (max (s.m.link p).since s.m.pwr.upAt + ms 1) ∧ OtherLinks p s.m m) ∧
    (LinkIn s.m p 0 → s.m.pwr.trained = false → Completes (.downTimerExpiry p) s fun m => m = s.m) ∧
    (LinkIn s.m p 1 → Completes (.tuningDone p) s fun m => ∃ l : List (Nat × List Nat),
      m = (s.m.setLink p { s.m.link p with tuned := true }).emit (.line p l) ∧ l.map Prod.fst = [0, 1, 2, 3] ∧
      ∀ x ∈ l, ∃ seed, x.2 = prbs13q seed) ∧
    (LinkIn s.m p 1 → (s.m.link p).tuned = true → Completes (.lightReceived p) s fun m =>
      (m.link p).st = 2 ∧ (m.link p).since = s.m.ticks ∧ OtherPorts p s.m m) ∧
    (LinkIn s.m p 2 → Completes (.lanesLocked p) s fun m =>
      (m.link p).st = 3 ∧ (m.link p).rxGood = 15 ∧ OtherPorts p s.m m) ∧
    (LinkIn s.m p 2 → lanes % 16 ≠ 0 → Completes (.equaliseTimeout p lanes) s fun m =>
      (m.link p).st = 3 ∧ (m.link p).rxGood = lanes % 16 ∧ Waited s.m m ((s.m.link p).since + ms 50) ∧
      OtherPorts p s.m m) ∧
    (∀ k, (places.filterMap id).min? = some k → carried k ≠ frame →
      Completes (.frameMarkersFound p levels frame) s fun m => m = s.m) ∧
    (∀ k, LinkIn s.m p 3 → (places.filterMap id).min? = some k → carried k = frame →
      Completes (.frameMarkersFound p levels frame) s fun m => (m.link p).st = 4 ∧
        (∀ j, j < 4 → bitAt (m.link p).rxGood j = (markerAt (levels.getD j []) 0).isSome) ∧
        ((s.m.link p).fromDown = true → (m.wire p).txSeq = 0 ∧ (m.wire p).rxSeq = 0 ∧ (m.wire p).replay = [] ∧
          (m.wire p).used = [0, 0, 0, 0, 0, 0, 0, 0]) ∧
        ((s.m.link p).fromDown = false →
          m.wire p = { s.m.wire p with rxFrame := (m.wire p).rxFrame }) ∧ OtherLinks p s.m m)

/-- A link goes DOWN (R67, R74): at 50 ms without a locked lane, at 2 ms without frame markers, at 20 ms without the
switch, when ACTIVE loses its markers, which raises MARKER_LOSS, and when ENABLE is cleared; that CHECK and QUARANTINED go
DOWN at such a loss, with no fault, and ALIGN and HELLO stay, is the model's choice (log entry 95). Its replay buffer is
empty then and no lane is in use; the store's objects, the contexts, the engines and each other link's state stay. A width
retrain (R72): RETRAIN and a change of WIDTH_LIMIT from ACTIVE or QUARANTINED, and a lane that fails in ACTIVE (lost lock,
symbol errors above LANE_SER_LIMIT, REPLAY_LIMIT replays), take the link to ALIGN. It keeps SEQ, the expected SEQ, the
replay buffer, the words that wait, used_v and the advertised credits; a failed lane is no longer good, and the retrain it
starts may not raise the width (R73). -/
def Obligations.LinksGoDownOrRetrain : Prop :=
  (∀ (s : State) (p lanes : Nat),
      let Down (m : Module) : Prop := (m.link p).st = 0 ∧ (m.link p).width = 0 ∧ (m.link p).lanes = 0 ∧
        (m.wire p).replay = [] ∧ m.store.objs = s.m.store.objs ∧ m.coll = s.m.coll ∧ m.engs = s.m.engs ∧
        m.sec = s.m.sec ∧ ∀ q, q ≠ p → (m.link q).st = (s.m.link q).st
      (LinkIn s.m p 2 → lanes % 16 = 0 → Completes (.equaliseTimeout p lanes) s fun m =>
        Down m ∧ Waited s.m m ((s.m.link p).since + ms 50)) ∧
      (LinkIn s.m p 3 → Completes (.alignTimeout p) s fun m =>
        Down m ∧ Waited s.m m ((s.m.link p).since + ms 2)) ∧
      (LinkIn s.m p 4 → Completes (.helloTimeout p) s fun m =>
        Down m ∧ Waited s.m m ((s.m.link p).since + ms 20)) ∧
      (LinkIn s.m p 6 → Completes (.markerLoss p) s fun m =>
        Down m ∧ (s.m.pwr.standby = true → ∃ r, m.flt.cur = some r ∧ bitAt r.sources 2 = true)) ∧
      (∀ st, st = 5 ∨ st = 7 → LinkIn s.m p st → Completes (.markerLoss p) s Down) ∧
      (∀ st, st = 3 ∨ st = 4 → LinkIn s.m p st → Completes (.markerLoss p) s fun m => m = s.m) ∧
      (∀ st, 0 < st → LinkIn s.m p st → Completes (.enable p false) s fun m => Down m ∧ m.enabled p = false)) ∧
  (∀ (s : State) (p lane v ppm : Nat),
      let Kept (m : Module) : Prop := (m.link p).st = 3 ∧ (m.link p).fromDown = false ∧
        (m.wire p).txSeq = (s.m.wire p).txSeq ∧ (m.wire p).rxSeq = (s.m.wire p).rxSeq ∧
        (m.wire p).replay = (s.m.wire p).replay ∧ (m.wire p).txq = (s.m.wire p).txq ∧
        (m.wire p).used = (s.m.wire p).used ∧ (m.wire p).adv = (s.m.wire p).adv ∧
        (m.wire p).peerAdv = (s.m.wire p).peerAdv ∧ ∀ q, q ≠ p → (m.link q).st = (s.m.link q).st
      let LaneDown (m : Module) : Prop := Kept m ∧ bitAt (m.link p).rxGood lane = false ∧
        (m.link p).cap = (s.m.link p).width
      ((LinkIn s.m p 6 ∨ LinkIn s.m p 7) → Completes (.retrain p) s fun m => Kept m ∧ (m.link p).cap = 4) ∧
      ((LinkIn s.m p 6 ∨ LinkIn s.m p 7) → v < 3 → s.m.reg (portBlk p) 0 3 ≠ v →
        Completes (.widthLimit p v) s fun m => Kept m ∧ m.reg (portBlk p) 0 3 = v) ∧
      (LinkIn s.m p 6 → lane < 4 → Completes (.lockLoss p lane) s LaneDown) ∧
      (LinkIn s.m p 6 → lane < 4 → s.m.reg (portBlk p) 0x048 0 < ppm →
        Completes (.laneSerExceeded p lane ppm) s LaneDown) ∧
      (LinkIn s.m p 6 → s.m.reg (portBlk p) 0x044 10 ≤ (s.m.wire p).replays →
        Completes (.replayLimitReached p lane) s LaneDown))

/-- HELLO, the switch of widths and the cabling check (R69 to R71, R76 to R78): a HELLO that fails the checks of R60
counts in LL_UNKNOWN alone; a good one in HELLO records what the neighbour says, and the first one names the frame 256
ahead as SWITCH_FRAME; in QUARANTINED it changes neither the state nor the result; with the echo received and both
SWITCH_FRAMEs passed, in the frames sent and in those received, the link leaves HELLO at the agreed width, for CHECK or
beyond, or with no good lane for DOWN; at the end of SWAP_HOLD the result is MISMATCH; three HELLO periods of silence are
reported once, and the port stays up. A HELLO other than the one that has come whole is not taken, by the model's choice
(log entry 11). The end of HELLO, of SWAP_HOLD and of the neighbour's HELLOs (R70, R71, R77, R78). -/
def Obligations.HelloAndCheck : Prop :=
  (∀ (s : State) (p : Nat) (k : Pkt) (n : Module), s.m.takeLocal p 2 = some (n, k) →
      (∀ pk, pk ≠ k → Completes (.hello p pk) s fun m => m = s.m) ∧
      (∀ st, 4 ≤ st → LinkIn s.m p st → linkLocalOk k = false →
        Completes (.hello p k) s fun m => m = n.count (portBlk p) 0x130) ∧
      (LinkIn s.m p 4 → linkLocalOk k = true → Completes (.hello p k) s fun m =>
        (m.link p).st = 4 ∧ (m.link p).nb.seen = true ∧ (m.link p).nb.chip = fieldBE k.pl 4 4 % 2 ^ 17 ∧
        (m.link p).nb.port = fieldBE k.pl 3 1 ∧ (m.link p).nb.hash = fieldBE k.pl 8 8 ∧
        (m.link p).nb.coord = fieldBE k.pl 32 3 ∧ (m.link p).peerGood = fieldBE k.pl 29 1 % 16 ∧
        (m.link p).nb.mySwitch =
          some ((s.m.link p).nb.mySwitch.getD (((s.m.wire p).txFrame + 256) % 65536)) ∧ OtherPorts p s.m m) ∧
      (LinkIn s.m p 7 → linkLocalOk k = true → Completes (.hello p k) s fun m =>
        (m.link p).st = 7 ∧ (m.link p).checkResult = (s.m.link p).checkResult ∧ (m.link p).nb.helloAt = s.m.ticks ∧
        OtherPorts p s.m m)) ∧
  (∀ (s : State) (p : Nat),
      (∀ f g, LinkIn s.m p 4 → (s.m.link p).nb.echoed = true → (s.m.link p).nb.mySwitch = some f →
        (s.m.link p).nb.peerSwitch = some g → frameReached f (s.m.wire p).txFrame = true →
        frameReached g (s.m.wire p).rxFrame = true → Completes (.switchFrameReached p) s fun m =>
        (s.m.agreed p = [] → (m.link p).st = 0) ∧
        (s.m.agreed p ≠ [] → (m.link p).width = (s.m.agreed p).length ∧ 5 ≤ (m.link p).st ∧ (m.link p).st ≤ 7)) ∧
      (∀ st t, st = 5 ∨ st = 6 → LinkIn s.m p st → (s.m.link p).holdUntil = some t → Completes (.swapHoldExpiry p) s fun m =>
        (m.link p).checkResult = 3 ∧ (m.link p).holdUntil = none ∧ Waited s.m m t ∧
        (m.link p).st = if bitAt (s.m.plan p) 26 then 7 else 6) ∧
      (∀ st, 5 ≤ st → LinkIn s.m p st → (s.m.link p).nb.lost = false → Completes (.helloLost p) s fun m =>
        (m.link p).nb.lost = true ∧ (m.link p).st = st ∧ m.wire p = s.m.wire p ∧ OtherPorts p s.m m ∧
        Waited s.m m ((s.m.link p).nb.helloAt + ms 300)))

/-- HELLO and TIME join the stream of words as they are due, whole and behind the words that wait, and full segments of it
leave in numbered segments that the replay buffer keeps (R58, R61, R67, R81); behind a packet that the transmitter has
begun they wait (R121); TIME names a frame sent and a frame received among the last 64, with their timestamps (R80, R81),
and none is sent for any other, by the model's choice (log entry 80). When REPLAY_TIMEOUT passes every unacknowledged
segment leaves again, in order and with a fresh tail, and none is dropped (R62). A segment received (R57, R62): one with a
codeword that does not decode or a bad CRC sets NACK and is discarded; a good numbered one is accepted only where its SEQ
is the one expected, which clears NACK and puts its payload behind the words received before, and any other sets NACK and
is discarded; either makes the ACK that the port sends valid (R56). A receive FIFO that has drained below one quarter ends
the pause, and the credits held by it return on each VC of an ACTIVE port where no other cause withholds them (R33, R132),
on a die whose UNBACKED says what its cells say. ENABLE written 1 is stored, and nothing else happens (R67). -/
def Obligations.SegmentsMoveInOrder : Prop :=
  (∀ (s : State) (p a b t u : Nat),
      let Joins (sub : Nat) (k : Pkt) (m : Module) : Prop := k.h.type = 0xF0 ∧ k.h.tw % 256 = sub ∧ OtherLinks p s.m m ∧
        ((s.m.wire p).sending = none → (.linkLocal p k) ∈ m.out ∧ ∃ l : List Seg,
          (m.wire p).replay = (s.m.wire p).replay ++ l ∧
          l.flatMap (·.pay) ++ (m.wire p).txq = (s.m.wire p).txq ++ pktBytes k) ∧
        ((s.m.wire p).sending ≠ none → (m.wire p).llq = (s.m.wire p).llq ++ [k] ∧ (m.wire p).txq = (s.m.wire p).txq ∧
          (m.wire p).replay = (s.m.wire p).replay)
      (∀ st, 4 ≤ st → LinkIn s.m p st → Completes (.helloTransmit p) s fun m =>
        (∃ k, Joins 2 k m) ∧ (m.link p).nb.helloSent = m.ticks) ∧
      (∀ st, 6 ≤ st → LinkIn s.m p st → (a, t) ∈ (s.m.wire p).txFrames → (b, u) ∈ (s.m.wire p).rxFrames →
        Completes (.timeTransmit p a b t u) s fun m => (m.link p).nb.timeSent = m.ticks ∧ ∃ k, Joins 3 k m ∧
          fieldBE k.pl 0 2 = a % 65536 ∧ fieldBE k.pl 2 2 = b % 65536 ∧ fieldBE k.pl 8 8 = t % 2 ^ 64 ∧
          fieldBE k.pl 16 8 = u % 2 ^ 64) ∧
      (((a, t) ∉ (s.m.wire p).txFrames ∨ (b, u) ∉ (s.m.wire p).rxFrames) →
        Completes (.timeTransmit p a b t u) s fun m => m = s.m) ∧
      (∀ st, 4 ≤ st → LinkIn s.m p st → (s.m.wire p).replay ≠ [] → Completes (.replayTimeout p) s fun m =>
        (m.wire p).replay = (s.m.wire p).replay ∧ (m.wire p).replays = (s.m.wire p).replays + 1 ∧ OtherPorts p s.m m ∧
        Waited s.m m ((s.m.wire p).ackAt + us (s.m.reg (portBlk p) 0x044 0)) ∧ ∃ l : List Bytes,
          segsOut p m.out = l.reverse ++ segsOut p s.m.out ∧
          List.Forall₂ (fun (x : Seg) b => ∃ idx frame, b = segBytes (headUnit idx (some x.seq) x.first frame) x.pay
            (s.m.wire p).ret (((s.m.wire p).rxSeq + 65535) % 65536) (s.m.wire p).rxAny (s.m.wire p).nackOut)
            (s.m.wire p).replay l)) ∧
  (∀ (s : State) (p st : Nat) (i : SegIn), 4 ≤ st → LinkIn s.m p st → (s.m.link p).isolated = false →
      let w := s.m.wire p
      let r := s.m.readSeg p (if i.idx = 0 then (w.rxFrame + 1) % 65536 else w.rxFrame) i
      (r.bad = true → Completes (.segmentReceived p i) s fun m => (m.wire p).nackOut = true ∧
        (m.wire p).rxSeq = w.rxSeq ∧ (m.wire p).rxq = w.rxq ∧ (m.wire p).replay = w.replay ∧ OtherPorts p s.m m) ∧
      (r.bad = false → r.h.seqValid = true → Completes (.segmentReceived p i) s fun m => OtherPorts p s.m m ∧
        (r.h.seq = w.rxSeq → (m.wire p).rxSeq = (w.rxSeq + 1) % 65536 ∧ (m.wire p).nackOut = false ∧
          (m.wire p).rxq = w.rxq ++ r.h.pay.drop w.rxSkip) ∧
        (r.h.seq ≠ w.rxSeq → (m.wire p).rxSeq = w.rxSeq ∧ (m.wire p).nackOut = true ∧ (m.wire p).rxq = w.rxq) ∧
        (m.wire p).rxAny = true)) ∧
  (∀ (s : State) (p : Nat),
      (∀ st, LinkIn s.m p st → Completes (.syncFifoResume p) s fun m => (m.wire p).paused = false ∧ OtherLinks p s.m m ∧
        (st = 6 → (s.m.die (p / 32)).unbacked =
            ((s.m.die (p / 32)).mode == 2 && (s.m.die (p / 32)).freeCells < s.m.exposure (p / 32)) → (∃ x ∈ (s.m.wire p).held, x ≠ 0) → ∀ v, v < 8 →
          (s.m.withholds p v = false → (m.wire p).held.getD v 0 = 0 ∧
            (m.wire p).ret.getD v 0 = ((s.m.wire p).ret.getD v 0 + (s.m.wire p).held.getD v 0) % 65536) ∧
          (s.m.withholds p v = true → (m.wire p).held.getD v 0 = (s.m.wire p).held.getD v 0 ∧
            (m.wire p).ret.getD v 0 = (s.m.wire p).ret.getD v 0))) ∧
      (p < 256 → s.m.pwr.main = true → Completes (.enable p true) s fun m =>
        m.enabled p = true ∧ m = s.m.setReg (portBlk p) 0 0 1))

/-! ### Domains, sensors, the pace loop and Lull -/

/-- The standby domain's supply (R496, R510, R517): where it comes up with the battery-good flag set and the CRC right,
the keep file below offset 0x3F8, where the fault history begins, holds what it held; the main domain's input is not yet
in range, SIDEBAND_LINK is active while the port has no link and LEAK while LEAK_N is low (R515, R517, R527); otherwise
every byte from offset 4 reads its reset value. Where the supply is lost the keep file, the firmware banks and the flash
record stay, and memory is lost: every byte reads as zero by the model's choice (log entry 4). The main domain (R496,
R518, R524): a cold start boots once, and brings the main domain up in STARTING with every pool in its self-test, unless
the recovery loader runs, the input has not reached 40 V, a hardware trip holds or MAIN_HOLD is set; the identity holds
where the seed's check value agrees (R474, R517); a brownout takes it down, and its objects, contexts, engines and memory
are lost (memory reads as zero by the model's choice, log entry 4); the input's return brings it up again, still held
where it was held before, but not after a hardware trip, which takes it down and drives THERM_ALERT_N. -/
def Obligations.DomainsComeAndGo : Prop :=
  (∀ (s : State) (f c : Bool),
      (s.m.pwr.standby = false → Completes (.standbyPowerOn f c) s fun m => m.pwr.standby = true ∧ m.mem = s.m.mem ∧
        m.pwr.inputOk = false ∧ m.flt.levels.contains (52, mgtBlk 4) = !s.m.sens.sideLink ∧
        m.flt.levels.contains (40, mgtBlk 6) = m.sens.leakLow ∧ m.sens.leakLow = (s.m.sens.leakBoard || s.m.sens.leakOwn) ∧
        ((f && c) = true → m.keep.valid = s.m.keep.valid ∧ m.keep.battGood = true ∧ m.keep.flag = true ∧
          ∀ o, o < 0x3F8 → m.keep.raw o = s.m.keep.raw o) ∧
        ((f && c) = false → m.keep.valid = false ∧ m.keep.flag = true ∧ ∀ o, 4 ≤ o → m.keep.byte o = keepResetByte o)) ∧
      (s.m.pwr.standby = true → Completes .standbyPowerOff s fun m => m.pwr.standby = false ∧ m.pwr.main = false ∧
        m.keep = s.m.keep ∧ m.sec.banks = s.m.sec.banks ∧ m.sec.slots = s.m.sec.slots ∧ m.now = 0 ∧
        ∀ a, m.mem.byte a = 0)) ∧
  (∀ (s : State) (i : StartIn),
      let Up (m : Module) : Prop := m.pwr.main = true ∧ m.pwr.st = 1 ∧ ∀ d, d < 8 → (m.die d).mode = 0
      let Off (m : Module) : Prop := m.pwr.main = false ∧
        (s.m.pwr.main = true → m.store.objs.cells = [] ∧ m.coll.ctxs.cells = [] ∧ m.engs.cells = [] ∧
          (∀ p, (m.link p).st = 0) ∧ ∀ a, m.mem.byte a = 0)
      (s.m.pwr.standby = true → s.m.pwr.booted = false → Completes (.coldStart i) s fun m =>
        m.pwr.booted = true ∧ m.sec.identityOk = seedAccepted i.seed i.check ∧
        m.pwr.inputOk = (s.m.pwr.inputOk || inputStarts i.vinMv) ∧
        (m.sec.recovery = true → m.pwr.main = s.m.pwr.main) ∧
        (m.sec.recovery = false → m.pwr.inputOk = true → s.m.pwr.hwTrip = false → s.m.keep.field 0x010 2 2 = 0 → Up m)) ∧
      (s.m.pwr.standby = true → Completes .brownout s fun m => m.pwr.inputOk = false ∧ Off m ∧ m.sec = s.m.sec) ∧
      (s.m.pwr.standby = true → s.m.pwr.inputOk = false → Completes (.inputRestored i) s fun m =>
        m.pwr.inputOk = true ∧
        (s.m.pwr.main = false → s.m.pwr.booted = true → s.m.pwr.hwTrip = false → s.m.sec.recovery = false →
          s.m.keep.field 0x010 2 2 = 0 → (s.m.flt.held = false → Up m) ∧
          (s.m.flt.held = true → m.pwr.main = true ∧ m.pwr.st = 4)) ∧
        (s.m.pwr.hwTrip = true → m.pwr.main = s.m.pwr.main)) ∧
      (s.m.pwr.standby = true → s.m.pwr.hwTrip = false → Completes .hardwareTrip s fun m =>
        m.pwr.hwTrip = true ∧ Off m ∧ m.flt.levels.contains (42, mgtBlk 6) = true ∧ m.sens.thermAlert = true))

/-- Sensors (R511, R515, R523, R527): a sample's input voltage, inlet temperature and flow stand in the sensor registers'
places, and each level source is active exactly while its condition holds: INPUT outside 40 to 60 V, BATTERY_LOW below 2.5
V, SIDEBAND_LINK while the link is down, LEAK once a leak is seen, which drives LEAK_N. -/
def Obligations.SensorsDriveLevelSources : Prop :=
  ∀ (s : State) (i : SensorIn) (mv : Nat) (up own board : Bool), s.m.pwr.standby = true →
    (Completes (.sensorSample i) s fun m => m.sens.vin = i.vinMv % 65536 ∧ m.sens.inlet = i.inletDeciC % 1024 ∧
      m.sens.flow = i.flowDeciLpm % 1024 ∧
      (m.flt.levels.contains (41, mgtBlk 6) = true ↔ i.vinMv < 40000 ∨ 60000 < i.vinMv)) ∧
    (Completes (.batterySample mv) s fun m => m.sens.batMv = mv % 4096 ∧
      (m.keep.batLow = true ↔ mv < 2500) ∧ (m.flt.levels.contains (44, mgtBlk 5) = true ↔ mv < 2500)) ∧
    (Completes (.sidebandLinkChange up) s fun m => m.sens.sideLink = up ∧
      m.flt.levels.contains (52, mgtBlk 4) = !up) ∧
    ((own || board) = true → Completes (.leakDetected own board) s fun m =>
      m.sens.leakOwn = (s.m.sens.leakOwn || own) ∧ m.sens.leakBoard = (s.m.sens.leakBoard || board) ∧
      m.flt.levels.contains (40, mgtBlk 6) = true ∧ m.sens.leakLow = true)

/-- The pace loop (R34, R40 to R44): each update leaves the nine rails between 0.62 V and 0.86 V and the throttle levels
at most 7, in Lull every rail at 0.62 V, and in POWER_W the average of the samples in CAP_WINDOW_MS; a write of 1 to a
sticky bit clears that bit and no other; a write to LIMIT_UPDATES clears it. -/
def Obligations.PaceLoopStaysWithinLimits : Prop :=
  ∀ (s : State) (i : PaceIn) (v : Nat),
    (s.m.pwr.main = true → (∀ r ∈ s.m.pwr.railMv, 620 ≤ r ∧ r ≤ 860) → (∀ t ∈ s.m.pwr.throttle, t ≤ 7) →
      Completes (.paceUpdate i) s fun m => m.pwr.railMv.length = 9 ∧ (∀ r ∈ m.pwr.railMv, 620 ≤ r ∧ r ≤ 860) ∧
        m.pwr.throttle.length = 9 ∧ (∀ t ∈ m.pwr.throttle, t ≤ 7) ∧ 
        (let l := (i.watts :: s.m.pwr.samples).take (100 * s.m.reg (mgtBlk 6) 0x008 0)
         m.pwr.samples = l ∧ m.pwr.powerW = l.sum / max 1 l.length % 8192) ∧
        (2 ≤ s.m.pwr.lull → ∀ r ∈ m.pwr.railMv, r = 620)) ∧
    (s.m.pwr.standby = true → Completes (.stickyClear v) s fun m => ∀ k, k < 5 →
      bitAt (m.reg (mgtBlk 6) 0x020 8) k = (bitAt (s.m.reg (mgtBlk 6) 0x020 8) k && !bitAt v k)) ∧
    (s.m.pwr.standby = true → v ≠ 0 → Completes (.limitUpdatesClear v) s fun m => m.reg (mgtBlk 6) 0x080 0 = 0)

/-- Lull (R504 to R508, R423): IDLE_MS without a packet starts the entry; with the buffers empty it ends in Lull, with
memory in self-refresh and the rails at 0.62 V; LULL_WAKE and the earliest launch count wake the module, and turn an entry
into a wake at once; a completed wake leaves it READY. -/
def Obligations.LullEntryAndWake : Prop :=
  ∀ (s : State) (t : Nat) (l : List Nat),
    (s.m.pwr.st = 2 → s.m.pwr.lull = 0 → s.m.reg (mgtBlk 6) 0x308 0 ≠ 0 → s.m.quiet = true →
      Completes .lullIdleExpiry s fun m => m.pwr.lull = 1 ∧ m.pwr.st = 2 ∧
        Waited s.m m (s.m.pwr.activeAt + ms (s.m.reg (mgtBlk 6) 0x308 0))) ∧
    (s.m.pwr.lull = 1 → s.m.net.pkts = [] → s.m.net.orig = [] → Completes .lullEntryDone s fun m =>
      m.pwr.lull = 2 ∧ m.pwr.st = 3 ∧ m.pwr.selfRefresh = true ∧ m.pwr.railMv = List.replicate 9 620) ∧
    ((s.m.pwr.lull = 1 ∨ s.m.pwr.lull = 2) → s.m.pwr.standby = true → Completes .lullWake s fun m =>
      m.pwr.lull = 3 ∧ m.pwr.st = s.m.pwr.st ∧ m.pwr.wakeCause = 4 ∧ m.pwr.wakeAt = s.m.ticks) ∧
    ((s.m.pwr.lull = 1 ∨ s.m.pwr.lull = 2) → sortBy id (s.m.launches.filter (· != 0)) = t :: l →
      Completes .lullWakeCount s fun m => m.pwr.lull = 3 ∧ m.pwr.wakeCause = 5 ∧ m.now = max s.m.now (t - 160000)) ∧
    (s.m.pwr.lull = 3 → Completes .wakeComplete s fun m => m.pwr.lull = 0 ∧ m.pwr.st = 2 ∧
      m.pwr.selfRefresh = false ∧ m.pwr.activeAt = s.m.ticks)

/-! ### Fabric time -/

/-- TIME packets (R60, R80, R411, R414): one that fails its checks leaves the received stream and counts in LL_UNKNOWN
alone; a good one is kept as what its neighbour says of its time and hops; it yields no sample where one of the frames
that it names is not among the last 64 sent and received here; a neighbour whose TIME is 3 ms old is no candidate. A TIME
packet other than the one that has come whole is not taken, by the model's choice (log entry 11). A sample steers the FTC
by its rate alone once the module is LOCKED (R80, R409, R414, R415): the offset is kept, the rate correction stays within
SLEW_PPM, is fast for a positive offset and slow for a negative one, and the FTC itself does not jump; a PTP exchange
sends its Delay_Req (R416; once for each, by the model's choice, log entry 132); the frames that the TIME packet names
give the times of sending and arrival here, and a sample whose delay is more than 32 units from the median is rejected,
and steers nothing. -/
def Obligations.TimePacketsSteerTheFtc : Prop :=
  (∀ (s : State) (p st a b : Nat) (k : Pkt) (n : Module), 4 ≤ st → LinkIn s.m p st →
      let unnamed := stampOf (s.m.wire p).txFrames (fieldBE k.pl 2 2) = none ∨
        stampOf (s.m.wire p).rxFrames (fieldBE k.pl 0 2) = none
      (s.m.takeLocal p 3 = some (n, k) →
        (∀ pk, pk ≠ k → Completes (.timeSample p pk a b) s fun m => m = s.m) ∧
        (∀ pk, pk ≠ k → Completes (.candidateAppears p pk) s fun m => m = s.m) ∧
        (linkLocalOk k = false → unnamed → Completes (.timeSample p k a b) s fun m => m = n.count (portBlk p) 0x130) ∧
        (linkLocalOk k = false → Completes (.candidateAppears p k) s fun m => m = n.count (portBlk p) 0x130) ∧
        (linkLocalOk k = true → Completes (.candidateAppears p k) s fun m =>
          (m.port p).timeAt = some s.m.ticks ∧ (m.port p).timeHops = fieldBE k.pl 4 1 ∧
          (m.port p).timeValid = bitAt (fieldBE k.pl 5 1) 0 ∧ (m.wire p).rxq = (s.m.wire p).rxq.drop k.h.linkLen ∧
          OtherPorts p s.m m) ∧
        (linkLocalOk k = true → unnamed → Completes (.timeSample p k a b) s fun m =>
          (m.port p).timeAt = some s.m.ticks ∧ (m.port p).timeHops = fieldBE k.pl 4 1 ∧ m.time.offset = s.m.time.offset ∧
          m.time.freq = s.m.time.freq)) ∧
      (∀ t, (s.m.port p).timeAt = some t → Completes (.candidateLoss p) s fun m =>
        (m.port p).timeAt = none ∧ Waited s.m m (t + ms 3) ∧ m.candPort p = false)) ∧
  (∀ (s : State) (i : PtpIn) (p st a b : Nat) (k : Pkt) (n : Module), s.m.reg (mgtBlk 2) 0x010 0 ≠ 0 →
      let lim : Int := s.m.reg (mgtBlk 2) 0x010 0 * 1000
      let th2 : Int := ((fieldBE k.pl 16 8 : Int) - a) + ((fieldBE k.pl 8 8 : Int) - b)
      let de2 : Int := ((b : Int) - a) - ((fieldBE k.pl 8 8 : Int) - fieldBE k.pl 16 8)
      let Steered (t : Int) (m : Module) : Prop := -lim ≤ m.time.freq ∧ m.time.freq ≤ lim ∧ (0 < t → 0 < m.time.freq) ∧
        (t < 0 → m.time.freq < 0)
      let Names : Prop := s.m.takeLocal p 3 = some (n, k) ∧ linkLocalOk k = true ∧ s.m.time.source = some p ∧
        s.m.time.st = 2 ∧ stampOf (s.m.wire p).txFrames (fieldBE k.pl 2 2) = some a ∧
        stampOf (s.m.wire p).rxFrames (fieldBE k.pl 0 2) = some b
      (s.m.pwr.standby = true → s.m.ptpEn = true → s.m.time.ptpMaster.isSome = true → s.m.sideAllowed i.addr = true →
        i.domain = s.m.keep.field 0x018 9 3 → i.transport = s.m.keep.field 0x018 11 10 →
        s.m.time.source = some 256 → s.m.time.st = 2 → Completes (.ptpSync i) s fun m =>
          m.time.offset = i.theta ∧ Steered i.theta m ∧ m.now = s.m.now ∧ .ptpRequest ∈ m.out ∧
          m.time.offsetLarge = (4000000 < i.theta || i.theta < -4000000) ∧
          m.time.good = if -20 ≤ i.theta ∧ i.theta ≤ 20 then s.m.time.good + 1 else 0) ∧
      (4 ≤ st → LinkIn s.m p st → Names →
        s.m.time.deltas ≠ [] → (2 * de2 - median2 s.m.time.deltas < -128 ∨ 128 < 2 * de2 - median2 s.m.time.deltas) →
        Completes (.timeSample p k a b) s fun m => m.now = s.m.now ∧ m.time.freq = s.m.time.freq ∧
          m.time.offset = s.m.time.offset ∧ (m.port p).timeHops = fieldBE k.pl 4 1) ∧
      (LinkIn s.m p 6 → Names → s.m.fabricEn = true →
        bitAt (fieldBE k.pl 5 1) 0 = true → fieldBE k.pl 4 1 < s.m.reg (mgtBlk 2) 0x008 0 →
        (s.m.time.deltas = [] ∨
          (-128 ≤ 2 * de2 - median2 s.m.time.deltas ∧ 2 * de2 - median2 s.m.time.deltas ≤ 128)) →
        Completes (.timeSample p k a b) s fun m => m.now = s.m.now ∧ m.time.offset = halfOf th2 ∧
          (m.port p).linkDelay = ofSigned 24 (halfOf de2) ∧ Steered th2 m))

/-- The choice of the source and the timers of the time states (R412, R413, R416): the master selected over PTP becomes
known or is lost, and from FREE it is taken in ACQUIRING, or in LOCKED after a lock since the cold start; a candidate that
has been better for 1 s becomes the source, HOLDOVER ends in FREE after HOLDOVER_S, and ACQUIRING without a source ends in
FREE after 2 s, with TIME_UNLOCKED active. Steps and PPS (R420, R421, R424): STEP_NOW adds STEP_UNITS to the FTC, and 0 is
illegal and changes nothing; no duration in progress gets longer or shorter, since the clock that they run on does not
step, and launch counts and timestamps already taken stay; PPS_OUT rises at a second of fabric time for 100 ms, and stays
low where it is not enabled. -/
def Obligations.TimeSourcesAndSteps : Prop :=
  (∀ (s : State) (addr : Bytes) (i : PtpAnn) (x t : Nat), s.m.pwr.standby = true →
      (s.m.ptpEn = true → s.m.sideAllowed addr = true → i.domain = s.m.keep.field 0x018 9 3 →
        i.transport = s.m.keep.field 0x018 11 10 → Completes (.ptpAnnounce addr i) s fun m =>
        m.time.ptpMaster = some i.master ∧ (s.m.time.st = 4 → s.m.time.source = none →
          m.time.source = some 256 ∧ m.time.st = if s.m.time.locked then 2 else 1)) ∧
      ((i.domain ≠ s.m.keep.field 0x018 9 3 ∨ i.transport ≠ s.m.keep.field 0x018 11 10) →
        Completes (.ptpAnnounce addr i) s fun m => m = s.m) ∧
      (Completes .ptpMasterLost s fun m => m.time.ptpMaster = none ∧ (s.m.time.st ≠ 0 → m.time.source ≠ some 256)) ∧
      (s.m.time.better = some (x, t) → s.m.candidate x = true → Completes .sourceSwitch s fun m =>
        m.time.source = some x ∧ m.time.last = x ∧ m.time.better = none ∧ m.time.good = 0 ∧ m.time.deltas = [] ∧
        Waited s.m m (t + ms 1000)) ∧
      (s.m.time.st = 3 → Completes .holdoverExpiry s fun m => m.time.st = 4 ∧
        m.flt.levels.contains (46, mgtBlk 2) = true ∧
        Waited s.m m (s.m.time.since + ms (1000 * s.m.reg (mgtBlk 2) 0x00C 0))) ∧
      (s.m.time.st = 1 → s.m.time.source = none → Completes .acquireTimeout s fun m => m.time.st = 4 ∧
        m.flt.levels.contains (46, mgtBlk 2) = true ∧ Waited s.m m (s.m.time.since + ms 2000))) ∧
  (∀ s : State, s.m.pwr.standby = true →
      (s.m.reg (mgtBlk 2) 0x018 0 = 0 → Completes .stepNow s fun m => m = s.m) ∧
      (s.m.reg (mgtBlk 2) 0x018 0 ≠ 0 → Completes .stepNow s fun m =>
        m.now = (s.m.now + s.m.reg (mgtBlk 2) 0x018 0) % 2 ^ 64 ∧
        m.ticks = s.m.ticks ∧ m.ports = s.m.ports ∧ m.dies = s.m.dies ∧ m.net.pkts = s.m.net.pkts ∧
        m.net.heads = s.m.net.heads ∧ m.pwr = s.m.pwr ∧ m.vane = s.m.vane ∧ m.ord = s.m.ord ∧ m.coll = s.m.coll ∧
        m.engs = s.m.engs ∧ m.kern = s.m.kern ∧ m.flt = s.m.flt ∧ m.mem = s.m.mem ∧ (∀ i, m.obj i = s.m.obj i) ∧
        m.time = { s.m.time with ftc := m.time.ftc, stepSum := m.time.stepSum, second := m.time.second }) ∧
      (s.m.reg (mgtBlk 2) 0x000 3 = 0 → Completes .ppsPulse s fun m => m.sens.pps = false ∧ m.now = s.m.now) ∧
      (s.m.reg (mgtBlk 2) 0x000 3 ≠ 0 → s.m.sens.pps = true → Completes .ppsPulse s fun m =>
        m.sens.pps = false ∧ Waited s.m m s.m.time.ppsUntil) ∧
      (s.m.reg (mgtBlk 2) 0x000 3 ≠ 0 → s.m.sens.pps = false → Completes .ppsPulse s fun m =>
        m.sens.pps = true ∧ m.now = max s.m.now ((s.m.time.second + 1) * 4000000000) ∧
        m.time.ppsUntil = m.ticks + ms 100 ∧ m.time.second = m.now / 4000000000))

/-! ### Faults -/

/-- A raise (R125, R135, R455 to R458): with no record open it opens one, with the next number, the source as FIRST_SOURCE
and one instance; with a record open it merges, sets the source's bit, counts it, takes the higher severity, and a source
new to the record takes the acknowledgement back. HUB_CHANNEL and BUFFER_ECC take the packet with them that crosses the
channel or lies in the cell (which one DETAIL names is the model's choice, log entry 100): it is discarded where nothing
of it has left, and marked otherwise; the cell is retired. -/
def Obligations.RaisesOpenOrMerge : Prop :=
  ∀ (s : State) (src blk detail : Nat), s.m.pwr.standby = true → (s.m.pwr.main = true ∨ standbySource src = true) →
    src < 56 → isLevel src = false →
    let hub := (s.m.die (detail / 32 % 8)).hubOut.find? fun x => x.1 == detail % 32
    let cell := s.m.net.pkts.find? fun b => b.die == blk / 256 && b.chain.contains detail
    ((src = 10 → hub = none) → (src = 11 → cell = none) → s.m.flt.cur = none →
      Completes (.faultRaise src blk detail) s fun m => ∃ r, m.flt.cur = some r ∧
      r.num = (if s.m.flt.num + 1 = 2 ^ 32 then 1 else s.m.flt.num + 1) ∧ m.flt.num = r.num ∧ r.first = src ∧
      r.sev = s.m.reg (mgtBlk 3) (0x100 + 4 * src) 0 ∧ r.step = 0 ∧ r.acked = false ∧ r.isOpen = true ∧
      r.sources = 2 ^ src ∧ r.ftcOpen = s.m.now ∧ r.insts.map (fun i => (i.src, i.blk, i.detail)) = [(src, blk, detail)] ∧
      m.ports = s.m.ports ∧ m.mem = s.m.mem) ∧
    (∀ r, (src = 10 → hub = none) → (src = 11 → cell = none) → s.m.flt.cur = some r →
      Completes (.faultRaise src blk detail) s fun m => ∃ q, m.flt.cur = some q ∧
      q.num = r.num ∧ q.first = r.first ∧ q.step = r.step ∧ q.ftcOpen = r.ftcOpen ∧
      q.sev = max r.sev (s.m.reg (mgtBlk 3) (0x100 + 4 * src) 0) ∧ q.sources = setBit r.sources src true ∧
      q.counts.get src = min (r.counts.get src + 1) 255 ∧ q.merged = min (r.merged + 1) (2 ^ 32 - 1) ∧
      q.acked = (r.acked && bitAt r.sources src) ∧ m.ports = s.m.ports ∧ m.mem = s.m.mem) ∧
    (∀ b, s.m.bp b.id = some b → ((src = 10 ∧ ∃ y, hub = some y ∧ y.2.1 = b.id) ∨ (src = 11 ∧ cell = some b)) →
      Completes (.faultRaise src blk detail) s fun m =>
      ((∀ c ∈ b.copies, c.begun = false) → m.bp b.id = none) ∧
      ((∃ c ∈ b.copies, c.begun = true) → b.whole = false → ∃ b', m.bp b.id = some b' ∧ b'.bad = true ∧
        b'.mark = some (b.mark.getD 2)) ∧
      (src = 11 → detail ∈ (m.die (blk / 256)).retired))

/-- Level sources and the grace timer (R453, R458, R459, R463): a level source is active at a block from its start to its
end, LEAK until both of its sensings have ended (which of them ends is an operand of the model, log entry 123); the expiry
of the timer takes one escalation step of the open record, no further than 3 for Fatal and 2 otherwise; in Lull it wakes
the module first, and no step is taken then, nor while the main rails are down. -/
def Obligations.LevelsAndEscalation : Prop :=
  ∀ (s : State) (src blk detail : Nat) (r : Rec),
    (s.m.pwr.standby = true → (s.m.pwr.main = true ∨ standbySource src = true) → src < 56 → isLevel src = true →
      Completes (.faultRaise src blk detail) s fun m => m.flt.levels.contains (src, if src = 40 then mgtBlk 6 else blk) = true) ∧
    (Completes (.levelSourceInactive src blk) s fun m => m.flt.cur = s.m.flt.cur ∧
      (src ≠ 40 → m.flt.levels.contains (src, blk) = false) ∧
      (src = 40 → (blk / 8192 = 1 → s.m.sens.leakBoard = false) → (blk / 8192 = 2 → s.m.sens.leakOwn = false) →
        m.flt.levels.contains (40, mgtBlk 6) = false ∧ m.sens.leakLow = false)) ∧
    (s.m.flt.cur = some r → r.deadline ≠ 0 → r.acked = false → s.m.pwr.main = true → s.m.pwr.lull = 0 →
      Completes .graceExpiry s fun m => (∃ q, m.flt.cur = some q ∧
        q.step = min (r.step + 1) (if r.sev = 3 then 3 else 2) ∧ q.fenced = m.flt.fenced) ∧
        s.m.now + (r.deadline - s.m.ticks) ≤ m.now) ∧
    (s.m.flt.cur = some r → r.deadline ≠ 0 → r.acked = false → s.m.pwr.main = true → (s.m.pwr.lull = 1 ∨ s.m.pwr.lull = 2) →
      Completes .graceExpiry s fun m => m.flt.cur = some r ∧ m.pwr.lull = 3 ∧ m.pwr.wakeCause = 3) ∧
    (s.m.flt.cur = some r → s.m.pwr.main = false → Completes .graceExpiry s fun m => m = s.m)

/-! ### The switch dies: buffers, routing, queues, Calm, Headwind -/

/-- A packet's header is looked up (R60, R97, R112, R118, R119, R127, R131): one that fails an ingress check, or finds too
few cells, enters no buffer, and what follows of its packet is dropped; one for this module takes the cells that its pools
give, charged to its port, takes the next identifier, and waits in its die's queue for a local target. In CHECK a header
waits, by the model's choice (log entry 97). A FILL packet is taken off the stream. A header other than the one that
stands at the head of the stream is none, by the model's choice (log entry 11). -/
def Obligations.ArrivalsTakeCells : Prop :=
  ∀ (s : State) (p : Nat) (h : Hdr), s.m.rxHead p = some h → NothingDue s.m →
    let n := h.len + 8
    (∀ g, g ≠ h → Completes (.packetArrival p g) s fun m => m = s.m) ∧
    (LinkIn s.m p 6 → h.type = 0xF0 → h.tw % 256 = 1 → localHdrOk h = true → Completes (.packetArrival p h) s fun m =>
      (m.wire p).filling = true ∧ (m.wire p).rxq = (s.m.wire p).rxq.drop 32 ∧ OtherPorts p s.m m) ∧
    (LinkIn s.m p 5 → h.type ≠ 0xF0 → Completes (.packetArrival p h) s fun m => m = s.m) ∧
    (LinkIn s.m p 6 → (s.m.die (p / 32)).mode = 2 → s.m.dieFenced (p / 32) = false → h.type ≠ 0xF0 →
      s.m.inLookup p = false → (s.m.ingressFail p h ≠ 0 ∨ (s.m.die (p / 32)).freeCells < h.cells) →
      Completes (.packetArrival p h) s fun m =>
      m.net.pkts = s.m.net.pkts ∧ m.net.nextId = s.m.net.nextId ∧ m.pwr.activeAt = s.m.ticks ∧
      (m.die (p / 32)).freeCells = (s.m.die (p / 32)).freeCells ∧
      (m.wire p).rxq = (s.m.wire p).rxq.drop (32 + n) ∧ (m.wire p).rxSkip = 32 + n - (s.m.wire p).rxq.length) ∧
    (LinkIn s.m p 6 → (s.m.die (p / 32)).mode = 2 → s.m.dieFenced (p / 32) = false → h.type ≠ 0xF0 →
      s.m.inLookup p = false → s.m.ingressFail p h = 0 → h.cells ≤ (s.m.die (p / 32)).freeCells → h.mode ≠ 2 → h.vc ≠ 0 →
      h.type ≠ 0x15 → s.m.isOwn h.dest = true → Completes (.packetArrival p h) s fun m =>
      m.net.nextId = s.m.net.nextId + 1 ∧ (m.wire p).arriving = some s.m.net.nextId ∧
      (m.wire p).rxq = (s.m.wire p).rxq.drop 32 ∧ (m.wire p).charged = (s.m.wire p).charged + h.cells ∧
      s.m.net.nextId ∈ (m.die (p / 32)).localQ ∧ ∃ b ∈ m.net.pkts, b.id = s.m.net.nextId ∧ b.here = true ∧
        b.asArrived = h ∧ b.inPort = some p ∧ b.die = p / 32 ∧
        ∃ t, (s.m.die (p / 32)).take h.cells = some t ∧ b.chain = t.cells)

/-- The payload and the trailer of a packet arrive (R60, R106, R108, R122): a good one completes the packet where it
waits; a bad one frees the buffer of a packet of which nothing has left and which waits for no local target, and marks one
that waits. The trailer of a FILL packet is checked too. A payload other than the one in the stream is none, by the
model's choice (log entry 11). A multicast packet is checked against its entry (R259): without a valid entry, or in
another partition, it is discarded; where the entry marks the module as a member, and the module has a chip number (R100),
a packet from the fabric also waits for its local target. -/
def Obligations.TrailersAndMulticast : Prop :=
  (∀ (s : State) (p id : Nat) (b : BPkt), p < 256 → s.m.pwr.main = true → s.m.pwr.st ≠ 4 →
      let q := (s.m.wire p).rxq
      let n := b.pkt.h.len
      let k : Pkt := { b.pkt with pl := q.take n, t0 := BitVec.ofNat 32 (fieldBE q n 4), t1 := BitVec.ofNat 32 (fieldBE q (n + 4) 4) }
      let Came (m : Module) : Prop := (m.wire p).arriving = none ∧ (m.wire p).rxq = q.drop (n + 8)
      ((s.m.wire p).filling = true → 8 ≤ q.length →
        Completes (.packetTailArrival p [] (BitVec.ofNat 32 (fieldBE q 0 4)) (BitVec.ofNat 32 (fieldBE q 4 4))) s fun m =>
        (m.wire p).filling = false ∧ (m.wire p).rxq = q.drop 8 ∧ OtherPorts p s.m m) ∧
      ((s.m.wire p).filling = false → (s.m.wire p).arriving = some id → s.m.bp id = some b → b.mcast = false →
        b.mark = none → n + 8 ≤ q.length →
        (∀ pl t0 t1, (pl, t0, t1) ≠ (k.pl, k.t0, k.t1) → Completes (.packetTailArrival p pl t0 t1) s fun m => m = s.m) ∧
        (k.good = true → b.here = true → Completes (.packetTailArrival p k.pl k.t0 k.t1) s fun m =>
          Came m ∧ m.bp id = some { b with pkt := k, whole := true }) ∧
        (k.good = false → b.here = true → b.copies = [] → Completes (.packetTailArrival p k.pl k.t0 k.t1) s fun m =>
          Came m ∧ ∃ b', m.bp id = some b' ∧ b'.bad = true ∧ b'.whole = true) ∧
        (k.good = false → b.here = false → (∀ c ∈ b.copies, c.begun = false) →
          Completes (.packetTailArrival p k.pl k.t0 k.t1) s fun m => Came m ∧ m.bp id = none))) ∧
  (∀ (s : State) (id : Nat) (b : BPkt), s.m.bp id = some b → b.mcast = true → NothingDue s.m →
      let e := s.m.mcEntry b.pkt.h
      ((bitAt e.word0 16 = false ∨ bits e.word0 11 0 ≠ b.pkt.h.part) → Completes (.mcastReplication id) s fun m =>
        m.bp id = none ∧ m.net.queues = s.m.net.queues) ∧
      (bitAt e.word0 16 = true → bits e.word0 11 0 = b.pkt.h.part → bitAt e.word0 15 = true →
        s.m.chip ≠ 131071 →
        (∃ q, b.pkt.port = some q ∧ q < 256) → Completes (.mcastReplication id) s fun m =>
        id ∈ (m.die b.die).localQ ∧ ∃ b', m.bp id = some b' ∧ b'.here = true ∧ b'.mcast = false))

/-- A packet of the module's own (R131, R461, R492): it is lost while the fabric is not up and where its die is fenced; it
waits while its cells would leave less than EXPOSURE free; otherwise it leaves the packets that wait for cells and takes
the next identifier. -/
def Obligations.OwnPacketsWaitForCells : Prop :=
  ∀ (s : State) (i : Nat) (o : Orig), s.m.net.orig[i]? = some o →
    let d := o.die.getD (o.pkt.h.dest % 8)
    ((s.m.fabricUp = false ∨ s.m.dieFenced d = true) → Completes (.originatedPacketWait i) s fun m =>
      m.net.orig = s.m.net.orig.eraseIdx i ∧ m.net.pkts = s.m.net.pkts) ∧
    (s.m.fabricUp = true → s.m.dieFenced d = false →
      ((s.m.die d).mode ≠ 2 ∨ (s.m.die d).freeCells < s.m.exposure d + o.pkt.h.cells) →
      Completes (.originatedPacketWait i) s fun m => m = s.m) ∧
    (NothingDue s.m → s.m.fabricUp = true → s.m.dieFenced d = false → s.m.pwr.lull ≤ 1 → (s.m.die d).mode = 2 →
      (∀ b ∈ s.m.net.pkts, b.die = d → b.inPort = none → b.mcast = false) → s.m.exposure d + o.pkt.h.cells ≤ (s.m.die d).freeCells → Completes (.originatedPacketWait i) s fun m =>
      m.net.nextId = s.m.net.nextId + 1 ∧ ∃ l, m.net.orig = s.m.net.orig.eraseIdx i ++ l)

/-- The transmitter (R58, R64, R120, R123, R124, R176): VC0 goes before VC1, and VC1 before the others; the copy that
starts charges its cells to its VC; its last word leaves when its turn on its HUB channel has come, its words stand in the
stream of numbered segments behind those that waited, and a packet with no other use is freed. -/
def Obligations.EgressChargesAndFrees : Prop :=
  ∀ (s : State) (p id v : Nat) (b : BPkt) (c : Copy),
    (NothingDue s.m → LinkIn s.m p 6 → s.m.pwr.lull ≤ 1 → (s.m.wire p).sending = none → (s.m.wire p).replay.length < 128 → v ≤ 1 →
      bitAt (s.m.die (p / 32)).mcFenced (p % 32) = false →
      s.m.eligible (qKey p v 0) = true → (v = 1 → s.m.eligible (qKey p 0 0) = false) →
      s.m.headOf (qKey p v 0) = some (b, c) → Completes (.egressStart p) s fun m =>
      (m.wire p).sending = some b.id ∧ (m.wire p).used = (s.m.wire p).used.modify v (· + b.cells) ∧
      m.net.queues.get (qKey p v 0) = (s.m.net.queues.get (qKey p v 0)).erase b.id ∧
      (∃ b', m.bp b.id = some b' ∧ { c with begun := true } ∈ b'.copies) ∧
      ∀ q, q ≠ p → (m.wire q).sending = (s.m.wire q).sending) ∧
    (p < 256 → s.m.pwr.main = true → s.m.pwr.st ≠ 4 → (s.m.wire p).sending = some id → s.m.bp id = some b →
      b.whole = true → (s.m.wire p).replay.length < 128 → s.m.hubTurn b p = true →
      (b.copies.find? fun c => c.begun && c.port == p) = some c → c.h.type ≠ 0xF0 → Completes (.packetSent p) s fun m =>
      let k : Pkt := { h := c.h, pl := b.pkt.pl, t0 := b.pkt.t0, t1 := b.pkt.t1 }
      (m.wire p).sending = none ∧ m.pwr.activeAt = s.m.ticks ∧ .packet p k ∈ m.out ∧
      ((s.m.wire p).llq = [] → (s.m.link p).isolated = false → ∃ l : List Seg,
        (m.wire p).replay = (s.m.wire p).replay ++ l ∧
        l.flatMap (·.pay) ++ (m.wire p).txq = (s.m.wire p).txq ++ pktBytes k) ∧
      (b.copies = [c] → b.here = false → b.parked = false → b.mcast = false → m.bp id = none))

/-- The pool manager and the switch's registers (R129, R133 to R136, R141, R172, R11): a rebalancing step moves cells
between chains and loses none (of two pools off their targets the large one comes first by the model's choice, log entry
90); the end of a conversion leaves MODE 2 with the free cells of the bitmap in chains; RECOVER marks the cells free that
no packet holds and that are not retired; RESET_RING clears a capture ring's counts; ADMIT_SET admits ports that are
ACTIVE; a CLEAR register resets its counters. Headwind and shaping (R167, R184 to R186, R189): a HEADWIND sets its limit
on every die until HOLD_US has passed; at a refill boundary every shaper and policer, enabled or not, takes its new rates
and gains its rate in tokens, up to its bucket; a shaper whose slot has come leaves the timing wheel unless it is still in
debt. -/
def Obligations.PoolsLimitsAndTokens : Prop :=
  (∀ (s : State) (d mask blk off a b : Nat),
      let cells (x : Die) : List Nat := x.small ++ x.medium.flatten ++ x.large.flatten
      (d < 8 → (s.m.die d).mode = 2 → Completes (.rebalancerStep d) s fun m =>
        (cells (m.die d)).Perm (cells (s.m.die d)) ∧ (m.die d).mode = 2 ∧ (∀ e, e ≠ d → m.die e = s.m.die e) ∧
        ((s.m.die d).large.length < s.m.reg (swBlk d 4) 0x018 0 → 9 ≤ (s.m.die d).small.length →
          (m.die d).large = (s.m.die d).small.take 9 :: (s.m.die d).large)) ∧
      (d < 8 → (s.m.die d).mode < 2 → s.m.pwr.main = true → Completes (.poolConversionDone d) s fun m =>
        (m.die d).mode = 2 ∧ (cells (m.die d)).Perm (firstFree (s.m.die d).bitmap 262144) ∧
        (∀ l ∈ (m.die d).large, l.length = 9) ∧ (∀ l ∈ (m.die d).medium, l.length = 4)) ∧
      (d < 8 → s.m.pwr.main = true → s.m.recoverOk d = true → Completes (.recover d) s fun m =>
        (m.die d).mode = 1 ∧ cells (m.die d) = [] ∧ ∀ c, c < 262144 → ((m.die d).bitmap.getLsbD c = true ↔
          c ∉ (s.m.die d).retired ∧ ∀ k ∈ s.m.net.pkts, k.die = d → c ∉ k.chain)) ∧
      (d < 8 → s.m.pwr.main = true → Completes (.resetRing d) s fun m =>
        (m.die d).ring.seq = 0 ∧ (m.die d).ring.written = 0 ∧ (m.die d).ring.lost = 0 ∧
        (m.die d).ring.stopped = false ∧ (m.die d).ring.base = (s.m.die d).ring.base) ∧
      (d < 8 → s.m.pwr.main = true → Completes (.admitSet d mask) s fun m => ∀ j, j < 32 →
        bitAt m.net.admitted (32 * d + j) =
          (bitAt s.m.net.admitted (32 * d + j) || (bitAt mask j && s.m.active (32 * d + j)))) ∧
      (∀ f i, ((fieldsAt blk off).find? fun f => f.1.clr.isSome) = some (f, i) → f.clr = some (a, b) →
        Completes (.counterClear blk off) s fun m => m.mem = s.m.mem ∧ ∀ o lo, a ≤ o → o ≤ b → o < 2 ^ 26 → lo < 64 →
          m.reg blk o lo = regReset blk o lo)) ∧
  (∀ (s : State) (k : Pkt) (d i : Nat) (t : Throttle),
      (s.m.pwr.main = true → s.m.pwr.st ≠ 4 → k.h.type = 0x24 → k.h.intact = true → k.good = true → k.pl.length = 16 →
        Completes (.headwindReceived k) s fun m => ∀ d, d < 8 → ∃ t ∈ (m.die d).throttles, t.vc = k.h.tw % 8 ∧
          t.rate = fieldBE k.pl 9 1 ∧ t.until_ = s.m.ticks + us (fieldBE k.pl 10 2)) ∧
      ((s.m.die d).throttles[i]? = some t → Completes (.headwindHoldExpiry d i) s fun m =>
        (m.die d).throttles = (s.m.die d).throttles.eraseIdx i ∧ Waited s.m m t.until_ ∧
        ∀ e, e ≠ d → m.die e = s.m.die e) ∧
      (s.m.pwr.main = true → Completes .shaperRefill s fun m =>
        m.now = max s.m.now ((s.m.net.refill + 1) * 4096) ∧ m.net.refill = s.m.net.refill + 1 ∧
        (∀ j, s.m.net.shapers.get j ≠ default →
          let r (o : Nat) : Nat := s.m.reg (swBlk (j / 2048) 6) (0x10000 + 16 * (j % 2048) + o) 0
          let x := m.net.shapers.get j
          x.incr = r 4 ∧ x.burst = r 8 ∧ x.tokens = min ((s.m.net.shapers.get j).tokens + r 4) (16 * (r 8 : Int))) ∧
        (∀ j, s.m.net.policers.get j ≠ default →
          let r (o : Nat) : Nat := s.m.reg (swBlk (j / 2048) 6) (0x18000 + 32 * (j % 2048) + o) 0
          let x := m.net.policers.get j
          let y := s.m.net.policers.get j
          x.cir = r 4 ∧ x.pir = r 8 ∧ x.tc = min (y.tc + r 4) (16 * r 0xC) ∧ x.tp = min (y.tp + r 8) (16 * r 0x10))) ∧
      (d < 8 → Completes (.timingWheelSlot d) s fun m => ∀ j n, j / 2048 = d →
        (s.m.net.shapers.get j).slot = some n → n ≤ s.m.net.refill →
        (0 ≤ (s.m.net.shapers.get j).tokens → (m.net.shapers.get j).slot = none ∧ (m.net.shapers.get j).parked = false) ∧
        ((s.m.net.shapers.get j).tokens < 0 → (m.net.shapers.get j).slot.isSome = true)))

/-- What a link's entry to DOWN leaves due for *Routing decisions* again (R97, R172, R238, R264): a Directed packet, one
for a local member and a multicast copy queued for it are dropped, and a packet left without a copy is freed. Calm (R158
to R161): a head that has waited past the threshold on a lossy VC leaves the buffer; on a lossless VC its copy goes to VC0
of its Calm port, in Calm mode; a packet that waits for a local target on a lossless VC moves to its die's sink; a packet
on hold past CALM_HOLD_MS is discarded. -/
def Obligations.QueuedAndWaitingHeads : Prop :=
  (∀ (s : State) (p id : Nat) (b : BPkt) (c : Copy), p < 256 → c.due = true → c.port = p → c.begun = false →
      (c.h.mode = 2 ∨ c.fixed = true ∨ (c.h.type = 0x15 ∧ c.vc ≠ 0)) → b.copies = [c] → b.here = false → b.mcast = false →
      b.parked = false → s.m.bp id = some b →
      (s.m.net.queues.cells.filter fun x => qPort x.1 == p) = [(qKey p c.vc c.fq, [id])] →
      Completes (.rerouteQueued p) s fun m => m.bp id = none ∧ m.net.queues.get (qKey p c.vc c.fq) = []) ∧
  (∀ (s : State) (q p d i id t : Nat) (b : BPkt) (c : Copy), s.m.pwr.main = true → s.m.pwr.st ≠ 4 →
      let Alone : Prop := b.copies = [c] ∧ b.whole = true ∧ b.here = false ∧ b.parked = false ∧ b.mcast = false
      let Stalled : Prop := q < 131072 ∧ s.m.headOf q = some (b, c) ∧ (s.m.net.heads.get q).suspended = false ∧
        s.m.mayCalm (qPort q / 32) c.vc c.h.mode = true
      (Stalled → s.m.lossless (qPort q / 32) c.vc = false → Alone → Completes (.calmEntry q) s fun m => m.bp b.id = none) ∧
      (Stalled → s.m.lossless (qPort q / 32) c.vc = true → c.fixed = false → c.h.type ≠ 0x15 → s.m.isOwn c.h.dest = false →
        reCalmValid (s.m.routeEntry c.h.dest) = true → s.m.calmDir (reCalm (s.m.routeEntry c.h.dest)) ≠ 0 →
        s.m.active (reCalm (s.m.routeEntry c.h.dest)) = true → Completes (.calmEntry q) s fun m =>
        ∃ b', m.bp b.id = some b' ∧ ∃ c' ∈ b'.copies,
          c'.port = reCalm (s.m.routeEntry c.h.dest) ∧ c'.vc = 0 ∧ c'.h.mode = 3 ∧ c'.h.vc = 0 ∧ c'.begun = false) ∧
      (i < 65536 → (s.m.die d).localQ[i]? = some id → s.m.bp id = some b → b.die = d → b.headSince ≠ 0 → b.whole = true →
        b.parked = false → s.m.mayCalm d b.pkt.h.vc b.pkt.h.mode = true → s.m.lossless d b.pkt.h.vc = true →
        s.m.sinkFull d = false → Completes (.calmEntry (131072 + 65536 * d + i)) s fun m =>
        ∃ n k, (m.die d).sink = (s.m.die d).sink ++ [(n, k)] ∧ k.pl = b.pkt.pl ∧ k.h.vc = 0 ∧ k.h.mode = 3 ∧
          k.vcIn = some b.pkt.h.vc ∧ id ∉ (m.die d).localQ) ∧
      (p < 256 → s.m.active p = false → s.m.net.queues.get (qKey p 0 0) = [id] → s.m.bp id = some b → Alone →
        c.port = p → c.vc = 0 → c.fq = 0 → c.hold = some t → Completes (.calmHoldExpiry p) s fun m =>
        m.bp id = none ∧ Waited s.m m (t + ms (s.m.reg (swBlk (p / 32) 6) 0xD08 0))))

/-! ### Memory requests and ordering -/

/-- WRITE and the local copy of an MCAST_DATA (R111, R114, R318): the payload's bytes are stored at OFFSET in the tile
that `storeKey` names, the rest of the tile is what it was, every byte outside the bytes stored is what it was, and the
object is dirty; a request that meets a status stores nothing, and its source's record keeps the first status and the
count; where the check of the tile into which it is merged finds an error that is not corrected, the tile is poisoned and
the record says so (R326). -/
def Obligations.WritesStoreTheirBytes : Prop :=
  ∀ (s : State) (p : Pkt) (c : EccIn) (i t : Nat), (Performs s.m p 1 ∨ Performs s.m p 0x15) →
    (s.m.destStatus p = St.ok → s.m.store.locate p.h.offset = some (i, t) → p.pl.length = p.h.len →
      (p.pl.length = 2048 ∨ Sound s.m c (s.m.present (s.m.obj i) t)) → Completes (.write p c) s fun m =>
      let k := storeKey s.m i t
      let whole := (s.m.obj i).retain && !(s.m.obj i).wr.get t
      m.present (m.obj i) t = k ∧ (m.obj i).dirty = true ∧
      m.tileBytes k = splice (s.m.tileBytes (s.m.present (s.m.obj i) t)) (p.h.offset % 2048) p.pl ∧
      ∀ a, ¬ (tileAddr k + (if whole then 0 else p.h.offset % 2048) ≤ a ∧
          a < tileAddr k + (if whole then 2048 else p.h.offset % 2048 + p.pl.length)) →
        m.mem.byte a = s.m.mem.byte a) ∧
    (s.m.destStatus p ≠ St.ok → Completes (.write p c) s fun m => m.mem = s.m.mem ∧
      m.store.objs = s.m.store.objs ∧
      m.store.werr.get p.h.src =
        ((if (s.m.store.werr.get p.h.src).1 = 0 then s.m.destStatus p else (s.m.store.werr.get p.h.src).1),
         min ((s.m.store.werr.get p.h.src).2 + 1) 65535)) ∧
    (s.m.destStatus p = St.ok → s.m.store.locate p.h.offset = some (i, t) → p.pl.length ≠ 2048 →
      ¬ Sound s.m c (s.m.present (s.m.obj i) t) → Completes (.write p c) s fun m => m.mem = s.m.mem ∧
      m.store.objs = s.m.store.objs ∧ m.isPoisoned (s.m.present (s.m.obj i) t) = true ∧
      (m.store.werr.get p.h.src).2 = min ((s.m.store.werr.get p.h.src).2 + 1) 65535)

/-- The ten atomics (R330, R331): the 64-bit word at OFFSET takes the operation's value of the old word and operand A,
every byte outside the bytes stored is what it was, and the answer carries the old word. -/
def Obligations.AtomicsReplaceOneWord : Prop :=
  ∀ (s : State) (p : Pkt) (c : EccIn) (i t : Nat), Performs s.m p 4 → s.m.destStatus p = St.ok →
    s.m.store.locate p.h.offset = some (i, t) → Sound s.m c (s.m.present (s.m.obj i) t) →
    let o := p.h.offset % 2048
    let k := storeKey s.m i t
    let whole := (s.m.obj i).retain && !(s.m.obj i).wr.get t
    let old := leNat (slice (s.m.tileBytes (s.m.present (s.m.obj i) t)) o 8)
    let a := leNat (slice p.pl 0 8)
    let b := leNat (slice p.pl 8 8)
    let New (v : Nat) (m : Module) : Prop :=
      leNat (slice (m.tileBytes k) o 8) = v ∧ AnswerSent s.m m p 5 St.ok (leBytes 8 old ++ zeros 8) ∧
      ∀ x, ¬ (tileAddr k + (if whole then 0 else o) ≤ x ∧ x < tileAddr k + (if whole then 2048 else o + 8)) →
        m.mem.byte x = s.m.mem.byte x
    (bits p.h.tw 7 0 = 1 → Completes (.fetchAdd p c) s (New ((old + a) % 2 ^ 64))) ∧
    (bits p.h.tw 7 0 = 2 → Completes (.fetchAnd p c) s (New (old &&& a))) ∧
    (bits p.h.tw 7 0 = 3 → Completes (.fetchOr p c) s (New (old ||| a))) ∧
    (bits p.h.tw 7 0 = 4 → Completes (.fetchXor p c) s (New (old ^^^ a))) ∧
    (bits p.h.tw 7 0 = 5 → Completes (.fetchMaxS p c) s (New (if toSigned 64 old < toSigned 64 a then a else old))) ∧
    (bits p.h.tw 7 0 = 6 → Completes (.fetchMinS p c) s (New (if toSigned 64 a < toSigned 64 old then a else old))) ∧
    (bits p.h.tw 7 0 = 7 → Completes (.fetchMaxU p c) s (New (max old a))) ∧
    (bits p.h.tw 7 0 = 8 → Completes (.fetchMinU p c) s (New (min old a))) ∧
    (bits p.h.tw 7 0 = 9 → Completes (.swap p c) s (New a)) ∧
    (bits p.h.tw 7 0 = 10 → old = b → Completes (.compareSwap p c) s (New a)) ∧
    (bits p.h.tw 7 0 = 10 → old ≠ b → Completes (.compareSwap p c) s fun m =>
      m.mem = s.m.mem ∧ m.store.objs = s.m.store.objs ∧ AnswerSent s.m m p 5 St.ok (leBytes 8 old ++ zeros 8))

/-- READ_REQ and the FENCEs (R113, R114, R396, R400): a read is answered with the bytes asked for, and no byte of memory
changes; a FENCE is answered with its source's write-error record, which it clears; a restart FENCE also starts the
source's sequence anew. -/
def Obligations.ReadsAndFencesAnswer : Prop :=
  ∀ (s : State) (p : Pkt) (c : EccIn) (i t : Nat),
    let r := s.m.store.werr.get p.h.src
    let rec_ := beBytes 2 r.1 ++ beBytes 2 r.2 ++ zeros 12
    (Performs s.m p 2 → s.m.destStatus p = St.ok → inControl p.h.offset = false → inReserve p.h.offset = false →
      s.m.store.locate p.h.offset = some (i, t) → Sound s.m c (s.m.present (s.m.obj i) t) → Completes (.readReq p c) s fun m =>
      m.mem = s.m.mem ∧ m.store.objs = s.m.store.objs ∧ AnswerSent s.m m p 3 St.ok
        (slice (s.m.tileBytes (s.m.present (s.m.obj i) t)) (p.h.offset % 2048) (bits p.h.tw 11 0))) ∧
    (Performs s.m p 6 → p.good = true → p.h.ordered = true → p.h.seq ≠ 0 → p.h.len = 0 → Completes (.fence p) s fun m =>
      m.store.werr.get p.h.src = (0, 0) ∧ AnswerSent s.m m p 7 St.ok rec_ ∧ m.mem = s.m.mem) ∧
    (Performs s.m p 6 → p.good = true → p.h.ordered = true → p.h.seq = 0 → p.h.len = 0 →
      Completes (.restartFence p) s fun m => m.store.werr.get p.h.src = (0, 0) ∧ m.mem = s.m.mem ∧
        (m.src p.h.src).sync = true ∧ (m.src p.h.src).e = 1 ∧ (m.src p.h.src).parked = [] ∧
        ∀ x, x ≠ p.h.src → (m.src x).e = (s.m.src x).e ∧ (m.src x).sync = (s.m.src x).sync)

/-- Delivery (R119, R161, R393, R394): a whole packet that waits is handed to its target and leaves the buffer where it
has no copy; an ordered one only where its number is the one expected, which then advances; one ahead of it is parked; one
on VC0 goes to the Calm sink. One that crosses the HUB has its turn on its channel (R26, R124). What was held back follows
(R161, R394, R398, R399): a parked packet whose turn has come is committed; one queued for a window is offered again;
after GAP_TIMEOUT the missing numbers are given up, recorded as CHUNK_LOST and counted, and what is parked goes on; a
packet of the Calm sink goes to its target. -/
def Obligations.DeliveryInOrder : Prop :=
  (∀ (s : State) (d i id : Nat) (b : BPkt), s.m.working = true → (s.m.die d).localQ[i]? = some id →
      s.m.bp id = some b → b.whole = true → b.mcast = false → b.parked = false → (s.m.die d).early.contains (.buf id) = false →
      (s.m.crosses b = false ∨ s.m.hubFree b = true) → NoneRefused s.m → b.pkt.good = true → b.pkt.h.mark = false → b.pkt.h.type = 1 → b.copies = [] →
      let x := s.m.src b.pkt.h.src
      (b.pkt.h.vc ≠ 0 → b.pkt.h.ordered = false → Completes (.localDelivery d i) s fun m =>
        m.net.handed = s.m.net.handed ++ [b.pkt] ∧ m.bp id = none ∧ m.ord = s.m.ord) ∧
      (b.pkt.h.vc ≠ 0 → b.pkt.h.ordered = true → x.sync = true → b.pkt.h.seq ≠ 0 → b.pkt.h.seq = x.e →
        Completes (.localDelivery d i) s fun m => m.net.handed = s.m.net.handed ++ [b.pkt] ∧ m.bp id = none ∧
          (m.src b.pkt.h.src).e = seqNext x.e ∧ (m.src b.pkt.h.src).parked = x.parked) ∧
      (b.pkt.h.vc ≠ 0 → b.pkt.h.ordered = true →
        s.m.verdict b.pkt (s.m.queuedSame b.pkt (.buf id)) = .park → Completes (.localDelivery d i) s fun m =>
          m.net.handed = s.m.net.handed ∧ (m.src b.pkt.h.src).e = x.e ∧
          (m.src b.pkt.h.src).parked = x.parked ++ [{ seq := b.pkt.h.seq, pkt := b.pkt, id := some id }]) ∧
      (∀ n, b.pkt.h.vc = 0 → s.m.sinkSlot d = some n → b.die = d → Completes (.localDelivery d i) s fun m =>
        (m.die d).sink = (s.m.die d).sink ++ [(n, b.pkt)] ∧ m.bp id = none ∧ m.net.handed = s.m.net.handed)) ∧
  (∀ (s : State) (src d : Nat) (k : Park) (p : Pkt) (b : BPkt) (id : Nat), s.m.working = true → NoneRefused s.m →
      (k.seq = (s.m.src src).e → (s.m.src src).parked.find? (·.seq == (s.m.src src).e) = some k →
        k.pkt.h.src = src → k.pkt.h.seq = k.seq → k.pkt.h.type = 1 → Completes (.reorderCommit src) s fun m =>
        m.net.handed = s.m.net.handed ++ [k.pkt] ∧ (m.src src).e = seqNext k.seq ∧
        (m.src src).parked = (s.m.src src).parked.filter (·.seq != k.seq)) ∧
      ((s.m.die d).early = [.buf id] → s.m.bp id = some b → b.pkt.h.type = 1 → b.copies = [] → b.whole = true →
        b.mcast = false → s.m.verdict b.pkt (s.m.queuedSame b.pkt (.buf id)) = .commit →
        Completes (.windowOffer d) s fun m => (m.die d).early = [] ∧ m.net.handed = s.m.net.handed ++ [b.pkt] ∧
          (m.src b.pkt.h.src).e = seqNext b.pkt.h.seq) ∧
      ((s.m.src src).parked = [k] → k.pkt.h.src = src → k.pkt.h.seq = k.seq → k.pkt.h.type = 1 →
        Completes (.gapTimeout src) s fun m => (m.src src).parked = [] ∧ (m.src src).e = seqNext k.seq ∧
          m.net.handed = s.m.net.handed ++ [k.pkt] ∧ Waited s.m m ((s.m.src src).timer + (s.m.src src).limit) ∧
          (m.store.werr.get src).2 =
            min ((s.m.store.werr.get src).2 + seqDist k.seq (s.m.src src).e) 65535 ∧
          (m.store.werr.get src).1 =
            if (s.m.store.werr.get src).1 = 0 then St.chunkLost else (s.m.store.werr.get src).1) ∧
      (∀ n, s.m.dieFenced d = false → (s.m.die d).sink[0]? = some (n, p) → p.h.type = 1 → p.good = true → p.h.mark = false →
        p.h.ordered = false → Completes (.calmSinkDelivery d 0) s fun m =>
        (m.die d).sink = (s.m.die d).sink.filter (·.1 != n) ∧ m.net.handed = s.m.net.handed ++ [p]))

/-! ### Commands: arrival, gates, identity, events -/

/-- Arrival (R108, R427, R428, R431 to R433, R486): a command of an authorised host or an allowed address joins its
master's queue; one from elsewhere, one with a bad trailer and one that finds its queue full change no queue and no cache.
One with an unassigned opcode is answered BAD_OPCODE in every power state, also in standby and in a hold, by the model's
choice (log entry 17). Gates that every command's row passes (R432 to R434, R442, R506): a repeat is answered from the
cache and changes nothing else; a command that the module's state does not allow is answered BUSY; one that needs the main
domain wakes the module from Lull and stays queued; a version other than 1 and a length that is no multiple of 16 or too
long are answered BAD_PARAM, and the store, memory, the keep file, groups and contexts, routes, the security state and the
fault state stay. -/
def Obligations.CommandsArriveAndPassGates : Prop :=
  (∀ (s : State) (p : Pkt) (f : SbFrag), s.m.vaneUp = true →
      (s.m.pwr.main = true → p.h.type = 0x20 → p.good = true → p.h.part = 0 → s.m.sec.recovery = false →
        (s.m.isHost p.h.src = false → Completes (.cmdArrival p) s fun m => m.vane = s.m.vane ∧ m.store = s.m.store) ∧
        (s.m.isHost p.h.src = true → s.m.fromCache (cmdOf p) = none → opcodes.contains (cmdOf p).opcode = true →
          s.m.vane.hostQ.length < 64 → Completes (.cmdArrival p) s fun m =>
          m.vane.hostQ = s.m.vane.hostQ ++ [cmdOf p] ∧ m.vane.sideQ = s.m.vane.sideQ ∧
          m.net.handed = s.m.net.handed.erase p) ∧
        (s.m.isHost p.h.src = true → s.m.fromCache (cmdOf p) = none → opcodes.contains (cmdOf p).opcode = true →
          64 ≤ s.m.vane.hostQ.length → Completes (.cmdArrival p) s fun m =>
          m.vane.hostQ = s.m.vane.hostQ ∧ m.vane.hostCache = s.m.vane.hostCache) ∧
        (s.m.isHost p.h.src = true → s.m.fromCache (cmdOf p) = none → opcodes.contains (cmdOf p).opcode = false →
          Completes (.cmdArrival p) s fun m => Answered m (cmdOf p) 0x0010 ∧ m.vane.hostQ = s.m.vane.hostQ ∧
            m.store = s.m.store)) ∧
      (s.m.pwr.main = true → p.h.type = 0x20 → p.good = false → p.h.part = 0 → Completes (.cmdArrival p) s fun m =>
        m.vane = s.m.vane ∧ m.store = s.m.store ∧ m.net.handed = s.m.net.handed.erase p) ∧
      (s.m.sideAllowed f.addr = false → Completes (.sidebandDatagram f) s fun m =>
        m.vane = s.m.vane ∧ m.store = s.m.store) ∧
      (s.m.sideAllowed f.addr = true → f.total ≤ 2088 → f.off = 0 → f.data.length = f.total →
        let q := pktOf f.data
        let r : CmdReq := { side := true, opcode := bits q.h.tw 15 0, ver := bits q.h.tw 19 16, tag := q.h.tag,
                            addr := f.addr, udp := f.udp, body := q.pl }
        40 ≤ f.total → f.total = 40 + q.h.len → q.h.intact = true → q.good = true → q.h.illegal true = false →
        q.h.type = 0x20 → q.h.src = 131071 → (q.h.dest = 131071 ∨ q.h.dest = s.m.chip) → s.m.fromCache r = none →
        opcodes.contains r.opcode = true → s.m.vane.sideQ.length < 16 → Completes (.sidebandDatagram f) s fun m =>
        m.vane.sideQ = s.m.vane.sideQ ++ [r] ∧ m.vane.hostQ = s.m.vane.hostQ)) ∧
  (∀ (s : State) (i : Instr) (r : CmdReq) (op : Nat), request i = some (r, op, true) → r.opcode = op →
      s.m.vaneUp = true → s.m.vane.next = some r →
      (∀ m', s.m.fromCache r = some m' → Completes i s fun m => m = m'.popCmd r.side) ∧
      (s.m.fromCache r = none → s.m.busyFor op = true → Completes i s fun m =>
        m = (s.m.popCmd r.side).replyFinal r St.busy) ∧
      (s.m.fromCache r = none → s.m.busyFor op = false → s.m.pwr.lull ≠ 0 → standbyOp op = false → Completes i s fun m =>
        m = s.m.wake 2) ∧
      (s.m.fromCache r = none → s.m.busyFor op = false → s.m.pwr.lull = 0 →
        (r.ver ≠ 1 ∨ r.body.length < 16 ∨ 2048 < r.body.length ∨ r.body.length % 16 ≠ 0) → Completes i s fun m =>
        Answered m r St.badParam ∧ m.store = s.m.store ∧ m.keep = s.m.keep ∧ m.coll = s.m.coll ∧
        m.net.route = s.m.net.route ∧ m.mem = s.m.mem ∧ m.sec = s.m.sec ∧ m.flt = s.m.flt))

/-- The timers of assemblies and reassemblies, and event delivery (R428, R444, R446, R447): what is incomplete when its
time has passed is discarded; an event leaves its subscription's queue in order, with the next EVENT_SEQ. Subscriptions
(R446): a slot takes its master's mask, tag and path, a slot given up matches no event, a slot of the other master is
refused, and the list shows all sixteen. -/
def Obligations.AssembliesEventsAndSubscriptions : Prop :=
  (∀ (s : State) (i slot : Nat),
      (∀ a, s.m.vane.asms[i]? = some a → Completes (.assemblyTimeout i) s fun m =>
        m.vane.asms = s.m.vane.asms.eraseIdx i ∧ Waited s.m m (a.at_ + ms 10000) ∧
        (a.kind = 1 → m.sec.bankSt s.m.otherBank = if s.m.otherBank < s.m.sec.banks.length then 1 else 0) ∧
        (a.kind ≠ 1 → m.sec = s.m.sec)) ∧
      (∀ x, s.m.vane.reasms[i]? = some x → Completes (.reassemblyTimeout i) s fun m =>
        m.vane.reasms = s.m.vane.reasms.eraseIdx i ∧ Waited s.m m (x.at_ + ms 1000)) ∧
      (s.m.vaneUp = true → (s.m.vane.subs.get slot).used = true → (s.m.vane.subs.get slot).dropped = 0 →
        (s.m.vane.subs.get slot).side = true → ∀ e l, (s.m.vane.subs.get slot).queue = e :: l →
        Completes (.eventSend slot) s fun m => (m.vane.subs.get slot).queue = l ∧
          (m.vane.subs.get slot).seq = ((s.m.vane.subs.get slot).seq + 1) % 65536 ∧
          ∃ p : Pkt, p.h.type = 0x22 ∧ p.pl = e.pl ∧ m.out =
            .datagram (s.m.vane.subs.get slot).addr (s.m.vane.subs.get slot).udp p :: s.m.out)) ∧
  (∀ (s : State) (r : CmdReq), Runs s.m r 0x0C08 subLay →
      let k := r.u 1 1
      let own := (s.m.vane.subs.get k).used = false ∨ (s.m.vane.subs.get k).side = r.side
      (r.u 0 1 = 0 → k ≤ 15 → own → Completes (.eventSubscribe r) s fun m => Answered m r St.ok ∧
        (m.vane.subs.get k).used = true ∧ (m.vane.subs.get k).side = r.side ∧ (m.vane.subs.get k).mask = r.u 4 2 ∧
        (m.vane.subs.get k).tag = r.u 8 4 ∧ (m.vane.subs.get k).queue = [] ∧
        ∀ j, j ≠ k → m.vane.subs.get j = s.m.vane.subs.get j) ∧
      (r.u 0 1 = 0 → k ≤ 15 → ¬ own → Completes (.eventSubscribe r) s fun m => Answered m r St.notOwner ∧
        m.vane.subs = s.m.vane.subs) ∧
      (r.u 0 1 = 1 → k ≤ 15 → own → Completes (.eventUnsubscribe r) s fun m => Answered m r St.ok ∧
        (m.vane.subs.get k).used = false ∧ ∀ j, j ≠ k → m.vane.subs.get j = s.m.vane.subs.get j) ∧
      (r.u 0 1 = 2 → k ≤ 15 → Completes (.eventList r) s fun m =>
        Answered m r St.ok ((List.range 16).flatMap fun j => (s.m.vane.subs.get j).image) ∧
        m.vane.subs = s.m.vane.subs))

/-- Ownership (R435 to R438): the side-band takes any unit, and a host only one that a grant covers; a grant is the
side-band's to give and to take back. Identity and the keep file (R443, R510, R512): IDENTIFY reports the part and the
module's number and state; KEEP_READ returns the keep file's bytes; KEEP_WRITE stores its words, without their reserved
bits, and sets KEEP_VALID, or stores none of them where one is refused. -/
def Obligations.OwnershipIdentityAndKeepFile : Prop :=
  (∀ (s : State) (r : CmdReq),
      (Runs s.m r 0x0C01 [(0, 4, 32)] → s.m.unitOk (r.u 0 4) = true →
        (r.side = true ∨ s.m.vane.grants.any (covers (r.u 0 4)) = true) → Completes (.ownershipTake r) s fun m =>
        Answered m r St.ok ∧ m.owner (r.u 0 4) = some r.side) ∧
      (Runs s.m r 0x0C01 [(0, 4, 32)] → s.m.unitOk (r.u 0 4) = true → r.side = false →
        s.m.vane.grants.any (covers (r.u 0 4)) = false → Completes (.ownershipTake r) s fun m =>
        Answered m r St.denied ∧ m.vane.owners = s.m.vane.owners) ∧
      (Runs s.m r 0x0C02 [(0, 4, 32), (4, 1, 1)] → r.u 4 1 = 0 → r.side = true → s.m.grantOk (r.u 0 4) = true →
        Completes (.ownershipGrant r) s fun m => Answered m r St.ok ∧ r.u 0 4 ∈ m.vane.grants ∧
          ∀ u, u ∈ s.m.vane.grants → u ∈ m.vane.grants) ∧
      (Runs s.m r 0x0C02 [(0, 4, 32), (4, 1, 1)] → r.u 4 1 = 1 → r.side = true → s.m.grantOk (r.u 0 4) = true →
        Completes (.ownershipRevoke r) s fun m => Answered m r St.ok ∧ ∀ u, u ∈ m.vane.grants ↔
          (u ∈ s.m.vane.grants ∧ u ≠ r.u 0 4)) ∧
      (Runs s.m r 0x0C02 [(0, 4, 32), (4, 1, 1)] → r.u 4 1 = 0 → r.side = false →
        Completes (.ownershipGrant r) s fun m => Answered m r St.denied ∧ m.vane.grants = s.m.vane.grants)) ∧
  (∀ (s : State) (r : CmdReq),
      let lay := [(0, 2, 16), (2, 2, 16), (16, r.u 2 2, 8 * r.u 2 2)]
      let words := (List.range (r.u 2 2 / 4)).map fun i => (r.u 0 2 + 4 * i, r.u (16 + 4 * i) 4)
      (Runs s.m r 0x0101 [] → s.m.sec.recovery = false → Completes (.identify r) s fun m =>
        Answered m r St.ok ((List.range 12).map Config.serial ++ (List.range 2).map Config.stepping ++
          (List.range 4).map Config.dateCode ++ (List.range 6).map Config.mac ++ beBytes 4 s.m.chip ++
          beBytes 3 s.m.coord ++ beBytes 1 s.m.pwr.st ++ s.m.sec.digest s.m.sec.running)) ∧
      (Runs s.m r 0x0102 [(0, 2, 16), (2, 2, 16)] → keepRange r = true → Completes (.keepRead r) s fun m =>
        Answered m r St.ok (s.m.keep.read (r.u 0 2) (r.u 2 2)) ∧ m.keep = s.m.keep) ∧
      (Runs s.m r 0x0103 lay → keepRange r = true → s.m.mayChange r (unit 0x11 0) = true →
        (∀ x ∈ words, s.m.keepStatus r.side x.1 x.2 = St.ok) → Completes (.keepWrite r) s fun m =>
        Answered m r St.ok ∧ m.keep.valid = true ∧
        ∀ x ∈ words, 8 ≤ x.1 → m.keep.word x.1 = x.2 &&& keepMask x.1) ∧
      (Runs s.m r 0x0103 lay → keepRange r = true → s.m.mayChange r (unit 0x11 0) = true →
        (∃ x ∈ words, s.m.keepStatus r.side x.1 x.2 ≠ St.ok) → Completes (.keepWrite r) s fun m => m.keep = s.m.keep))

/-- A command with an unassigned opcode (R9) while the module is READY or in Lull and no recovery loader runs (log entry
17): one that comes by a CMD packet of an authorised host, and one that comes by a whole side-band datagram of an allowed
address, is answered BAD_OPCODE (0x0010); it joins no queue, and but for the reply and its copy for repeats nothing of the
module changes, the packet itself being taken. -/
def Obligations.UnassignedOpcodes : Prop :=
  ∀ (s : State) (p : Pkt) (f : SbFrag), s.m.vaneUp = true → s.m.sec.recovery = false →
    (s.m.pwr.st = 2 ∨ s.m.pwr.st = 3) →
    let c := cmdOf p
    let q := pktOf f.data
    let r : CmdReq := { side := true, opcode := bits q.h.tw 15 0, ver := bits q.h.tw 19 16, tag := q.h.tag,
                        addr := f.addr, udp := f.udp, body := q.pl }
    (s.m.pwr.main = true → p.h.type = 0x20 → p.good = true → p.h.part = 0 → s.m.isHost p.h.src = true →
      s.m.fromCache c = none → opcodes.contains c.opcode = false → Completes (.cmdArrival p) s fun m =>
      Answered m c 0x0010 ∧
      m = { s.m with vane := { s.m.vane with hostCache := m.vane.hostCache },
                     net := { s.m.net with handed := s.m.net.handed.erase p, orig := m.net.orig },
                     pwr := { s.m.pwr with lull := m.pwr.lull,
                                           wakeCause := m.pwr.wakeCause, wakeAt := m.pwr.wakeAt } }) ∧
    (s.m.sideAllowed f.addr = true → f.total ≤ 2088 → f.off = 0 → f.data.length = f.total → 40 ≤ f.total →
      f.total = 40 + q.h.len → q.h.intact = true → q.good = true → q.h.illegal true = false → q.h.type = 0x20 →
      q.h.src = 131071 → (q.h.dest = 131071 ∨ q.h.dest = s.m.chip) → s.m.fromCache r = none →
      opcodes.contains r.opcode = false → Completes (.sidebandDatagram f) s fun m => Answered m r 0x0010 ∧
      m = { s.m with vane := { s.m.vane with sideCache := m.vane.sideCache }, out := m.out })

/-! ### Commands that set the switch dies and the ports -/

/-- Settings written by commands (R440, R443): where every write of a command is legal and its master may change the
units, the command answers OK, and each register it names holds what was written, on every die that it covers. Shapers and
policers (R183, R185, R189): where its writes are legal, the command that first enables one starts it with a full bucket
and the rates written. -/
def Obligations.SettingsAreStored : Prop :=
  (∀ (s : State) (r : CmdReq),
      let Done (m : Module) (l : List RegW) : Prop := Answered m r St.ok ∧ Stored m l
      let May (us : List Nat) (l : List RegW) : Prop :=
        (∀ u ∈ us, s.m.mayChange r u = true) ∧ Legal (begun s.m r) r l
      let k := r.u 0 2
      let part := allDies 5 (0x1000 + 4 * k) (r.u 4 4) ++ allDies 6 (0x4000 + 4 * k) (r.u 8 4) ++
        allDies 16 (0x8000 + 4 * k) (r.u 12 4)
      let calm := allDies 6 0xD00 (r.u 4 4) ++ allDies 6 0xD04 (r.u 8 4) ++ allDies 6 0xD08 (r.u 12 4)
      let red := (onesOf (r.u 0 1) 8).flatMap fun d =>
        (List.range 3).map fun i => (⟨swBlk d 6, 0x800 + 16 * r.u 1 1 + 4 * i, r.u (4 + 4 * i) 4⟩ : RegW)
      let credit := (List.range 9).map fun i => (⟨portBlk (r.u 0 1), 0x020 + 4 * i, r.u (12 + 4 * i) 4⟩ : RegW)
      (Runs s.m r 0x0401 [(0, 2, 12), (4, 4, 32), (8, 4, 32), (12, 4, 32)] → May [unit 6 k] part →
        Completes (.partitionConfig r) s fun m => Done m part) ∧
      (Runs s.m r 0x0304 [(0, 4, 2), (4, 4, 32), (8, 4, 32), (12, 4, 32), (16, 64, 512)] → r.u 0 4 = 2 →
        May [unit 0x0E 0] calm → Completes (.calmWrite r) s fun m => Done m calm) ∧
      (Runs s.m r 0x0402 [(0, 4, 3), (4, 4, 32), (8, 2, 16), (10, 1, 8), (12, 4, 32), (16, 1, 8), (17, 1, 8), (20, 4, 32)] →
        r.u 0 4 = 1 → May [unit 0x0B 0] (allDies 6 0x2400 (r.u 4 4)) →
        Completes (.vcConfig r) s fun m => Done m (allDies 6 0x2400 (r.u 4 4))) ∧
      (Runs s.m r 0x0405 [(0, 1, 8), (1, 1, 8), (2, 1, 2), (4, 4, 32), (8, 4, 32), (12, 4, 32), (16, 1, 8), (17, 1, 8),
          (20, 4, 32)] → r.u 2 1 = 1 → r.u 1 1 < 16 → May ((onesOf (r.u 0 1) 8).map (unit 0x0A)) red →
        Completes (.redProfile r) s fun m => Done m red) ∧
      (Runs s.m r 0x0201 ([(0, 1, 8), (4, 4, 5), (8, 4, 32)] ++ (List.range 9).map (fun i => (12 + 4 * i, 4, 32)) ++
          [(48, 4, 32), (52, 4, 32), (56, 1, 2)]) → r.u 4 4 = 2 → May [unit 7 (r.u 0 1)] credit →
        Completes (.portConfig r) s fun m => Done m credit ∧ m.ports = s.m.ports)) ∧
  (∀ (s : State) (r : CmdReq),
      let n := r.u 0 2
      let b := swBlk (n / 2048) 6
      let o := 0x10000 + 16 * (n % 2048)
      let q := 0x18000 + 32 * (n % 2048)
      let shape : List RegW := [⟨b, o + 4, r.u 8 4⟩, ⟨b, o + 8, r.u 12 4⟩, ⟨b, o, r.u 4 4⟩]
      let police := (List.range 4).map (fun i => (⟨b, q + 4 + 4 * i, r.u (8 + 4 * i) 4⟩ : RegW)) ++ [⟨b, q, r.u 4 4⟩]
      (Runs s.m r 0x0403 [(0, 2, 14), (4, 4, 32), (8, 4, 32), (12, 4, 32)] → s.m.mayChange r (unit 8 n) = true →
        Legal (begun s.m r) r shape → (s.m.net.shapers.get n).on = false → bitAt (r.u 4 4) 15 = true →
        Completes (.shaperConfig r) s fun m => Answered m r St.ok ∧ Stored m shape ∧
          (m.net.shapers.get n).on = true ∧ (m.net.shapers.get n).incr = m.reg b (o + 4) 0 ∧
          (m.net.shapers.get n).burst = m.reg b (o + 8) 0 ∧
          (m.net.shapers.get n).tokens = 16 * (m.reg b (o + 8) 0 : Int)) ∧
      (Runs s.m r 0x0404 [(0, 2, 14), (4, 4, 32), (8, 4, 32), (12, 4, 32), (16, 4, 32), (20, 4, 32)] →
        s.m.mayChange r (unit 9 n) = true → Legal (begun s.m r) r police →
        (s.m.net.policers.get n).on = false → bitAt (r.u 4 4) 24 = true →
        Completes (.policerConfig r) s fun m => Answered m r St.ok ∧ Stored m police ∧
          (m.net.policers.get n).on = true ∧ (m.net.policers.get n).tc = 16 * m.reg b (q + 12) 0 ∧
          (m.net.policers.get n).tp = 16 * m.reg b (q + 16) 0))

/-- Forwarding tables (R147, R150, R152, R154, R257): a route entry, an Eddy position, a pinned entry and a multicast
entry read as they were written, and every other route and multicast entry and every other bucket of pinned entries as it
was; a pinned entry for a bucket that holds four is refused; ROUTE_READ returns the entries. -/
def Obligations.TablesReadAsWritten : Prop :=
  ∀ (s : State) (r : CmdReq),
    let n := r.u 12 2
    let f := r.u 8 4
    let entries := [(0, 1, 8), (1, 1, 8), (2, 2, 16), (8, 4, 32), (12, 2, 16), (16, 8 * n, 64 * n)]
    let chips := [(0, 1, 8), (1, 1, 8), (2, 2, 16), (8, 4, 32), (12, 2, 16), (16, 4 * n, 32 * n)]
    (Runs s.m r 0x0301 entries → r.u 0 1 = 0 → n ≤ 252 → f + n ≤ 131072 → s.m.mayChange r (unit 0x0C 0) = true →
      Completes (.routeWrite r) s fun m => Answered m r St.ok ∧ ∀ c, m.net.route.get c =
        if f ≤ c ∧ c < f + n then r.u (16 + 8 * (c - f)) 8 % 2 ^ 55 else s.m.net.route.get c) ∧
    (Runs s.m r 0x0301 chips → r.u 0 1 = 1 → r.u 1 1 < 64 → r.u 2 2 ≤ 1024 → n ≤ 504 → f + n ≤ r.u 2 2 →
      (∀ i, i < n → r.u (16 + 4 * i) 4 ≤ 131071) → s.m.mayChange r (unit 0x0C 0) = true →
      Completes (.eddySetWrite r) s fun m => Answered m r St.ok ∧ m.net.eddySize.get (r.u 1 1) = r.u 2 2 ∧
        ∀ i, i < n → (m.net.eddyChip.get (1024 * r.u 1 1 + f + i)).getD 131071 = r.u (16 + 4 * i) 4) ∧
    (Runs s.m r 0x0302 [(0, 1, 1), (1, 1, 8), (8, 4, 32), (12, 2, 16)] → r.u 0 1 = 0 → n ≤ 252 → f + n ≤ 131072 →
      Completes (.routeRead r) s fun m => m.net.route = s.m.net.route ∧
        Answered m r St.ok ((List.range n).flatMap fun i => beBytes 8 (s.m.net.route.get (f + i)))) ∧
    (Runs s.m r 0x0303 (pinLay r) → r.u 0 1 = 0 → r.u 1 1 = 1 → pinOk r = true →
      s.m.mayChange r (unit 0x0D 0) = true →
      ((s.m.net.pins.get (pinAt r 0).bucket).length < 4 → Completes (.pinWrite r) s fun m => Answered m r St.ok ∧
        pinAt r 0 ∈ m.net.pins.get (pinAt r 0).bucket ∧
        ∀ k, k ≠ (pinAt r 0).bucket → m.net.pins.get k = s.m.net.pins.get k) ∧
      (4 ≤ (s.m.net.pins.get (pinAt r 0).bucket).length → Completes (.pinWrite r) s fun m =>
        Answered m r St.noResource ∧ m.net.pins = s.m.net.pins)) ∧
    (Runs s.m r 0x0303 (pinLay r) → r.u 0 1 = 1 → r.u 1 1 = 1 → pinOk r = true →
      s.m.mayChange r (unit 0x0D 0) = true → Completes (.pinRemove r) s fun m => Answered m r St.ok ∧
        (∀ x ∈ m.net.pins.get (pinAt r 0).bucket, x.same (pinAt r 0) = false) ∧
        ∀ k, k ≠ (pinAt r 0).bucket → m.net.pins.get k = s.m.net.pins.get k) ∧
    (Runs s.m r 0x0505 ([(0, 2, 14)] ++ (List.range 5).map fun i => (8 + 8 * i, 8, 64)) →
      2 ≤ bits (r.u 8 8) 14 12 → s.m.mayChange r (unit 3 (r.u 0 2)) = true → Completes (.mcastConfig r) s fun m =>
      Answered m r St.ok ∧ (m.net.mcast.get (r.u 0 2)).word0 = r.u 8 8 % 2 ^ 17 ∧
        (m.net.mcast.get (r.u 0 2)).ports = (List.range 4).foldl (fun a k => a + r.u (16 + 8 * k) 8 * 2 ^ (64 * k)) 0 ∧
        ∀ k, k ≠ r.u 0 2 → m.net.mcast.get k = s.m.net.mcast.get k)

/-- Ports and capture (R75, R443, R308): PORT_STATUS returns the ports' images; CABLING_LOAD stores the plan entries;
WINDSOCK_CONFIG gives a die's ring its size and an empty capture, and answers its base, or NO_RESOURCE where the rings and
areas would not fit. -/
def Obligations.PortsPlansAndRings : Prop :=
  ∀ (s : State) (r : CmdReq),
    let words := (List.range (r.u 2 2)).map fun i => (0x400 + 4 * (r.u 0 2 + i), r.u (16 + 4 * i) 4)
    (Runs s.m r 0x0202 [(0, 1, 8), (1, 1, 8)] → r.u 1 1 ≠ 0 → r.u 1 1 ≤ 32 → r.u 0 1 + r.u 1 1 ≤ 256 →
      Completes (.portStatus r) s fun m => m.ports = s.m.ports ∧
        Answered m r St.ok ((List.range (r.u 1 1)).flatMap fun i => s.m.portImage (r.u 0 1 + i))) ∧
    (Runs s.m r 0x0203 [(0, 2, 16), (2, 2, 16), (16, 4 * r.u 2 2, 32 * r.u 2 2)] → r.u 2 2 ≠ 0 →
      r.u 0 2 + r.u 2 2 ≤ 256 → s.m.mayChange r (unit 0x0F 0) = true →
      (∀ x ∈ words, s.m.keepStatus r.side x.1 x.2 = St.ok) → Completes (.cablingLoad r) s fun m =>
      Answered m r St.ok ∧ m.keep.valid = true ∧ ∀ x ∈ words, m.keep.word x.1 = x.2 &&& keepMask x.1) ∧
    (Runs s.m r 0x0406 [(0, 1, 3), (1, 1, 8), (4, 4, 32), (8, 4, 32), (12, 4, 32), (16, 256, 2048)] →
      16 ≤ r.u 1 1 → r.u 1 1 ≤ 27 → r.u 1 1 ≠ (s.m.die (r.u 0 1)).ring.sizeLog2 →
      s.m.mayChange r (unit 0x0A (r.u 0 1)) = true →
      (s.m.r308 (s.m.ringBytes - ringSize (s.m.die (r.u 0 1)).ring.sizeLog2 + ringSize (r.u 1 1)) = true →
        Legal ((begun s.m r).resizeRing (r.u 0 1) (r.u 1 1)) r (windsockRegs r (swBlk (r.u 0 1) 8)) →
        Completes (.windsockConfig r) s fun m => (m.die (r.u 0 1)).ring.sizeLog2 = r.u 1 1 ∧
          (m.die (r.u 0 1)).ring.seq = 0 ∧ (m.die (r.u 0 1)).ring.stopped = false ∧
          Answered m r St.ok (beBytes 8 (m.die (r.u 0 1)).ring.base)) ∧
      (s.m.r308 (s.m.ringBytes - ringSize (s.m.die (r.u 0 1)).ring.sizeLog2 + ringSize (r.u 1 1)) = false →
        Completes (.windsockConfig r) s fun m => Answered m r St.noResource ∧ m.dies = s.m.dies))

/-- Groups (R223 to R225, R228, R230): a group is created with its partition and VC, its members set the epoch, the number
of members and the first sequence number, a plan entry keeps its child, one that names a local member beyond the group's
number is refused, and an idle group is deleted whole; one with an open context stays. -/
def Obligations.GroupsFollowTheirCommands : Prop :=
  ∀ (s : State) (r : CmdReq),
    let g := r.u 0 2
    let d := (r.u 4 4 + 2 ^ 32 - (s.m.grp g).epoch) % 2 ^ 32
    let nc := r.u 10 1
    let nl := r.u 12 2
    (Runs s.m r 0x0501 [(0, 2, 16), (2, 2, 12), (4, 1, 8)] → (s.m.grp g).used = false →
      (r.u 4 1 = 2 ∨ (4 ≤ r.u 4 1 ∧ r.u 4 1 ≤ 7)) → (s.m.coll.groups.cells.filter fun c => c.2.used).length < 4096 →
      Completes (.groupCreate r) s fun m => Answered m r St.ok ∧ (m.grp g).used = true ∧
        (m.grp g).part = r.u 2 2 ∧ (m.grp g).vc = r.u 4 1 ∧ ∀ k, k ≠ g → m.grp k = s.m.grp k) ∧
    (Runs s.m r 0x0502 [(0, 2, 16), (4, 4, 32), (8, 4, 18), (12, 4, 32)] → (s.m.grp g).used = true →
      s.m.mayChange r (unit 2 g) = true → s.m.groupBusy g = false → d ≠ 0 → d < 2 ^ 31 → r.u 8 4 ≠ 0 →
      r.u 8 4 ≤ 131072 → Completes (.groupMembers r) s fun m => Answered m r St.ok ∧ (m.grp g).epoch = r.u 4 4 ∧
        (m.grp g).n = r.u 8 4 ∧ (m.grp g).low = r.u 12 4 ∧ (m.grp g).done = [] ∧
        (m.grp g).plans = (s.m.grp g).plans ∧ ∀ k, k ≠ g → m.grp k = s.m.grp k) ∧
    (Runs s.m r 0x0503 [(0, 2, 16), (2, 1, 8), (3, 1, 8), (4, 4, 17), (8, 1, 3), (9, 1, 1), (10, 1, 8), (12, 2, 16),
        (14, 1, 2), (16, 12 * (nc + nl), 96 * (nc + nl))] → (s.m.grp g).used = true → r.u 2 1 < r.u 3 1 →
      r.u 3 1 ≤ 8 → nc = 1 → nl = 0 → r.u 14 1 = 0 → r.u 16 4 ≤ 131071 → r.u 20 4 ≤ 131071 → r.u 24 4 ≤ 131071 →
      s.m.mayChange r (unit 2 g) = true → (s.m.grp g).plans.cells = [] → Completes (.groupPlan r) s fun m =>
      Answered m r St.ok ∧ (m.grp g).plans.get (r.u 2 1) = some
        { nplanes := r.u 3 1, parent := r.u 4 4, kids := [⟨r.u 16 4, r.u 20 4, r.u 24 4⟩], locals := [],
          base := r.u 8 1, spread := r.u 9 1 }) ∧
    (Runs s.m r 0x0503 [(0, 2, 16), (2, 1, 8), (3, 1, 8), (4, 4, 17), (8, 1, 3), (9, 1, 1), (10, 1, 8), (12, 2, 16),
        (14, 1, 2), (16, 12 * (nc + nl), 96 * (nc + nl))] → (s.m.grp g).used = true → nc = 0 → nl = 1 →
      (s.m.grp g).n ≤ r.u 16 4 → Completes (.groupPlan r) s fun m => Answered m r St.badParam ∧ m.coll = s.m.coll) ∧
    (Runs s.m r 0x0504 [(0, 2, 16)] → (s.m.grp g).used = true → s.m.mayChange r (unit 2 g) = true →
      s.m.groupBusy g = false → Completes (.groupDelete r) s fun m => Answered m r St.ok ∧
        (m.grp g).used = false ∧ (m.owner (unit 2 g)) = none ∧ ∀ k, k ≠ g → m.grp k = s.m.grp k) ∧
    (Runs s.m r 0x0504 [(0, 2, 16)] → (s.m.grp g).used = true → s.m.mayChange r (unit 2 g) = true →
      s.m.groupBusy g = true → Completes (.groupDelete r) s fun m => m.coll = s.m.coll)

/-! ### The context store -/

/-- Objects made and unmade (R309 to R316): STORE_CREATE makes an object in the places found for it, and every byte of it
reads as zero, or it answers NO_RESOURCE and changes nothing; a resize within the segments held keeps them; STORE_DELETE
frees the handle. -/
def Obligations.ObjectsAreCreatedAndDeleted : Prop :=
  ∀ (s : State) (r : CmdReq) (i : Nat),
    let lay := [(0, 2, 12), (2, 1, 2), (3, 1, 3), (4, 2, 16), (6, 1, 1), (8, 4, 32), (12, 4, 32)]
    let made := s.m.store.create (r.u 0 2) (r.u 2 1) (r.u 3 1) (r.u 4 2) (r.u 6 1 == 1) (r.u 8 4) (r.u 12 4)
    (Runs s.m r 0x0601 lay → r.u 12 4 ≠ 0 → r.u 12 4 ≤ r.u 8 4 → ∀ t o, made = some (t, o, i) →
      Completes (.storeCreate r) s fun m => m.obj i = o ∧ o.part = r.u 0 2 ∧ o.size = r.u 12 4 ∧ o.max = r.u 8 4 ∧
        Answered m r St.ok (beBytes 4 o.handle ++ zeros 4 ++ beBytes 8 o.base) ∧
        ∀ e ∈ o.exts, ∀ j, j < 2 ^ 21 → m.mem.byte (tileAddr (tileKey e 0) + j) = 0) ∧
    (Runs s.m r 0x0601 lay → r.u 12 4 ≠ 0 → r.u 12 4 ≤ r.u 8 4 → made = none → Completes (.storeCreate r) s fun m =>
      Answered m r St.noResource ∧ m.store = s.m.store ∧ m.mem = s.m.mem) ∧
    (Runs s.m r 0x0602 [(0, 4, 32), (4, 4, 32)] → s.m.store.find (r.u 0 4) = some i →
      s.m.mayChange r (unit 1 i) = true → (s.m.obj i).job = none → (s.m.obj i).dig = none → (s.m.obj i).claims = [] →
      r.u 4 4 ≠ 0 →
      r.u 4 4 ≤ (s.m.obj i).max → (s.m.obj i).sealed_ = false →
      ceilDiv (r.u 4 4) 16384 ≤ (s.m.obj i).segs.length → Completes (.storeResize r) s fun m => Answered m r St.ok ∧
        (m.obj i).size = r.u 4 4 ∧ (m.obj i).handle = (s.m.obj i).handle ∧ (m.obj i).base = (s.m.obj i).base ∧
        (m.obj i).segs = (s.m.obj i).segs.take (ceilDiv (r.u 4 4) 16384) ∧ ∀ k, k ≠ i → m.obj k = s.m.obj k) ∧
    (Runs s.m r 0x0609 [(0, 4, 32)] → s.m.store.find (r.u 0 4) = some i → s.m.mayChange r (unit 1 i) = true →
      (s.m.obj i).job = none → (s.m.obj i).dig = none → (s.m.obj i).claims = [] → Completes (.storeDelete r) s fun m => Answered m r St.ok ∧
        m.store.find (r.u 0 4) = none ∧ m.owner (unit 1 i) = none ∧ ∀ k, k ≠ i → m.obj k = s.m.obj k)

/-- Versions (R317, R319, R322): a commit point of a dirty object raises VERSION by 1, and a commit of one that is not
dirty keeps it; a sealed object refuses a commit; sealing starts the digest as deferred work at a new version; UNSEAL
makes the object writable at a new version. -/
def Obligations.CommitsRaiseTheVersion : Prop :=
  ∀ (s : State) (r : CmdReq) (i e : Nat),
    let o := s.m.obj i
    let next := (o.version + 1) % 2 ^ 32
    s.m.store.find (r.u 0 4) = some i → s.m.mayChange r (unit 1 i) = true →
    (Runs s.m r 0x0605 [(0, 4, 32)] → o.dig = none → o.claims = [] → o.sealed_ = false →
      Completes (.storeCommit r) s fun m => (m.obj i).dirty = false ∧ (m.obj i).segs = o.segs ∧ m.mem = s.m.mem ∧
        (m.obj i).version = (if o.dirty then next else o.version) ∧
        Answered m r St.ok (beBytes 4 (if o.dirty then next else o.version))) ∧
    (Runs s.m r 0x0605 [(0, 4, 32)] → o.dig = none → o.claims = [] → o.sealed_ = true →
      Completes (.storeCommit r) s fun m => Answered m r St.sealed_ ∧ m.obj i = o) ∧
    (Runs s.m r 0x0606 [(0, 4, 32)] → o.dig = none → o.claims = [] → o.sealed_ = false → s.m.trk.room 4 = true →
      s.m.trk.pick = some e → e < 2 ^ 14 → Completes (.storeSeal r) s fun m => ∃ h, Deferred m r h 4 ∧
        (m.obj i).dig = some { kind := 2, entry := h, version := next } ∧ (m.obj i).version = next ∧
        (m.obj i).readOnly = true) ∧
    (Runs s.m r 0x0607 [(0, 4, 32)] → o.sealed_ = true → Completes (.storeUnseal r) s fun m =>
      Answered m r St.ok (beBytes 4 next) ∧ (m.obj i).sealed_ = false ∧ (m.obj i).version = next ∧ m.mem = s.m.mem)

/-- Digests and seals (R321, R322, R461): the digest of an object is SHAKE256 over its size and its tiles in order, each
as it was when the read reached it; a seal whose read ends well stores it and sets SEALED, one that meets a tile that is
poisoned or found bad ends unsealed with POISONED, and one that meets a tile on a unit of a fenced die with INTERNAL; the
digest of a sealed object is answered at once, and that of another is deferred work that changes nothing of it. Poison,
retirement, scrubbing and heat (R307, R325 to R328): each copy of a tile that a scrub finds bad is poisoned, and its bytes
stay; TILE_RETIRE of a poisoned tile, of whose copies one is poisoned, replaces the extent of that copy and leaves the
object dirty; at a halving each heat counter halves at least once for every multiple of 2^32 that the FTC has passed. -/
def Obligations.DigestsAndBadTiles : Prop :=
  (∀ (s : State) (r : CmdReq) (handle i e : Nat) (j : Job) (c : EccIn),
      let o := s.m.obj i
      let rest := (List.range (o.size - j.pos)).flatMap fun t => s.m.tileBytes (s.m.present o (j.pos + t))
      let dig := shake256 (beBytes 8 o.size ++ (j.got ++ rest)) 32
      let clean := ∀ t, j.pos ≤ t → t < o.size → s.m.isPoisoned (s.m.present o t) = false ∧ Sound s.m c (s.m.present o t)
      let near := ∀ t, j.pos ≤ t → t < o.size → s.m.unitDown (tileUnit (s.m.present o t)) = false
      let open_ := (s.m.trk.ents.get (j.entry % 2 ^ 14)).handle = j.entry ∧ (s.m.trk.ents.get (j.entry % 2 ^ 14)).st = 1
      (s.m.store.find handle = some i → o.dig = some j → j.kind = 2 → s.m.pwr.main = true → open_ →
        (near → clean → Completes (.sealDigestDone handle c) s fun m => (m.obj i).sealed_ = true ∧ (m.obj i).digest = dig ∧
          (m.obj i).dig = none ∧ (m.trk.ents.get (j.entry % 2 ^ 14)).st = 2 ∧ m.mem = s.m.mem) ∧
        (near → ¬ clean → Completes (.sealDigestDone handle c) s fun m => (m.obj i).sealed_ = o.sealed_ ∧
          (m.obj i).dig = none ∧ (m.trk.ents.get (j.entry % 2 ^ 14)).status = St.poisoned) ∧
        (¬ near → clean → Completes (.sealDigestDone handle c) s fun m => (m.obj i).sealed_ = o.sealed_ ∧
          (m.obj i).dig = none ∧ (m.trk.ents.get (j.entry % 2 ^ 14)).status = St.internal)) ∧
      (s.m.store.find handle = some i → o.dig = some j → j.kind = 3 → s.m.pwr.main = true → open_ → near → clean →
        Completes (.digestDone handle c) s fun m => m.obj i = { o with dig := none } ∧
          (m.trk.ents.get (j.entry % 2 ^ 14)).st = 2 ∧ (m.trk.ents.get (j.entry % 2 ^ 14)).data =
            beBytes 4 j.version ++ beBytes 1 (2 * b2n j.changed) ++ zeros 11 ++ dig) ∧
      (Runs s.m r 0x0608 [(0, 4, 32)] → s.m.store.find (r.u 0 4) = some i → o.sealed_ = true →
        Completes (.storeDigest r) s fun m => m.obj i = o ∧
          Answered m r St.ok (beBytes 4 o.version ++ [1] ++ zeros 11 ++ o.digest)) ∧
      (Runs s.m r 0x0608 [(0, 4, 32)] → s.m.store.find (r.u 0 4) = some i → o.sealed_ = false → o.dig = none →
        s.m.trk.room 4 = true → s.m.trk.pick = some e → e < 2 ^ 14 → Completes (.storeDigest r) s fun m => ∃ h, Deferred m r h 4 ∧
          m.obj i = { o with dig := some { kind := 3, entry := h, version := o.version } })) ∧
  (∀ (s : State) (r : CmdReq) (handle tile i x : Nat) (c : EccIn),
      let o := s.m.obj i
      let l := (if o.retain then [false, true] else [false]).map (s.m.store.keyOf o tile)
      let g := o.segOf (r.u 4 4)
      let second := if s.m.isPoisoned (s.m.present o (r.u 4 4)) then o.flip.get (r.u 4 4) else !o.flip.get (r.u 4 4)
      let old := (if second then g.b else g.a).getD
        (s.m.store.placeOf (o.handle % 16) g (r.u 4 4 % 16384)).1 (0, 0)
      (s.m.pwr.main = true → s.m.pwr.selfRefresh = false → handle ≠ 0 → s.m.store.find handle = some i →
        tile < 16384 * o.segs.length →
        (∀ k ∈ l, s.m.unitDown (tileUnit k) = false ∧
          s.m.reg (memBlk (tileUnit k)) (if tileUnit k < 16 then 0x004 else 0x00C) 0 ≠ 0) →
        Completes (.scrubTile handle tile c) s fun m => m.mem = s.m.mem ∧ m.store.objs = s.m.store.objs ∧
          ∀ q, m.isPoisoned q = true ↔ (s.m.isPoisoned q = true ∨ (q ∈ l ∧ ¬ Sound s.m c q))) ∧
      (Runs s.m r 0x060A [(0, 4, 32), (4, 4, 32)] → s.m.store.find (r.u 0 4) = some i →
        s.m.mayChange r (unit 1 i) = true → o.dig = none → o.sealed_ = false → r.u 4 4 < o.size →
        s.m.tilePoisoned o (r.u 4 4) = true → s.m.unitDown old.1 = false → s.m.store.lowest old.1 = some x →
        Completes (.tileRetire r) s fun m => Answered m r St.ok ∧ (m.obj i).dirty = true ∧ (m.obj i).cut = true ∧
          (m.obj i).prevHeld = false ∧ (m.store.units.get old.1).retired = (s.m.store.units.get old.1).retired + 1 ∧
          m.store.used.get (extKey (old.1, x)) = true ∧ ∀ n, n ≠ i → m.obj n = s.m.obj n) ∧
      (s.m.pwr.main = true → s.m.pwr.lull ≤ 1 → Completes .heatHalving s fun m =>
        m.now = max s.m.now ((s.m.store.heatAt + 1) * 2 ^ 32) ∧ m.store.heatAt = m.now / 2 ^ 32 ∧
        m.mem = s.m.mem ∧ s.m.store.heatAt < m.store.heatAt ∧
        ∀ n, m.store.heat.get n ≤ s.m.store.heat.get n / 2 ^ min 16 (m.store.heatAt - s.m.store.heatAt)))

/-- Migrations (R315, R323, R324): a placement that every segment already has is answered at once; a migration of a
segment is deferred work, and the extents it goes to are allocated; when the last tiles of a migration's last segment are
copied the segment has its new extents, the job ends, the entry's completion is requested, and the record of an object
that STORE_PLACE moves has its new placement only then. -/
def Obligations.MigrationsMoveSegments : Prop :=
  ∀ (s : State) (r : CmdReq) (i e : Nat) (o : Obj) (j : Job) (sg p d : Nat) (c : EccIn),
    let lay := [(0, 4, 32), (4, 1, 2), (5, 1, 3), (6, 2, 16)]
    let todo := (moves 0 (s.m.obj i).segs.length (r.u 4 1) (r.u 5 1) (r.u 6 2)).filter fun x =>
      !(((s.m.obj i).segs.getD x.1 {}).isAt x.2.1 x.2.2)
    (Runs s.m r 0x0603 lay → s.m.store.find (r.u 0 4) = some i → s.m.mayChange r (unit 1 i) = true →
      (s.m.obj i).job = none → (s.m.obj i).dig = none → todo = [] → Completes (.storePlace r) s fun m => Answered m r St.ok (zeros 12) ∧
        (m.obj i).placement = r.u 4 1 ∧ (m.obj i).localDie = r.u 5 1 ∧ (m.obj i).split = r.u 6 2 ∧
        (m.obj i).segs = (s.m.obj i).segs) ∧
    (Runs s.m r 0x0604 [(0, 4, 32), (4, 4, 32), (8, 4, 32), (12, 1, 2), (13, 1, 3), (14, 2, 16)] →
      s.m.store.find (r.u 0 4) = some i → s.m.mayChange r (unit 1 i) = true → (s.m.obj i).job = none →
      (s.m.obj i).dig = none → r.u 8 4 = 1 → r.u 4 4 < (s.m.obj i).segs.length → r.u 14 2 ≤ 1000 →
      r.u 12 1 < 2 → ((s.m.obj i).segs.getD (r.u 4 4) {}).isAt (r.u 12 1) (r.u 13 1) = false →
      s.m.trk.room 3 = true → s.m.trk.pick = some e → e < 2 ^ 14 →
      (s.m.store.newSeg (s.m.obj i).retain (r.u 12 1) (r.u 13 1)).isSome = true →
      Completes (.storeMigrate r) s fun m => ∃ h, Deferred m r h 3 ∧ (m.obj i).segs = (s.m.obj i).segs ∧
        ∃ q, (m.obj i).job = some q ∧ q.kind = 1 ∧ q.entry = h ∧ q.asked = 1 ∧ q.moved = 0 ∧
          q.todo = [(r.u 4 4, r.u 12 1, r.u 13 1)] ∧ q.place = none) ∧
    ((s.m.store.objs.cells.find? fun c => c.2.job.any fun j => j.entry == (s.m.trk.ents.get e).handle) =
        some (i, o) → s.m.obj i = o → o.job = some j → j.todo = [(sg, p, d)] → j.destA ≠ [] → s.m.pwr.main = true →
      (∀ b k, s.m.unitDown (tileUnit (s.m.store.keyIn o (o.segs.getD sg {}) k b)) = false ∧
        s.m.unitDown (tileUnit (s.m.store.keyIn o { placement := p, die := d, a := j.destA, b := j.destB } k b)) = false) →
      (s.m.trk.ents.get e).handle % 2 ^ 14 = e → (s.m.trk.ents.get e).st = 1 → j.entry = (s.m.trk.ents.get e).handle →
      Completes (.migrationSegmentDone e c) s fun m => (m.obj i).job = none ∧
        (m.obj i).segs = o.segs.set sg { placement := p, die := d, a := j.destA, b := j.destB } ∧
        (m.trk.ents.get e).st = 2 ∧ (m.trk.ents.get e).ended = true ∧ (m.trk.ents.get e).status = St.ok ∧
        (m.obj i).size = o.size ∧ (m.obj i).version = o.version ∧
        (j.place = none → (m.obj i).placement = o.placement ∧ (m.obj i).localDie = o.localDie ∧ (m.obj i).split = o.split) ∧
        ∀ x y z, j.place = some (x, y, z) → (m.obj i).placement = x ∧ (m.obj i).localDie = y ∧ (m.obj i).split = z)

/-! ### Engines -/

/-- The scalar instructions (R333, R345, R346): each writes s[D] with its function of its operands, and changes no other
register, no tile, mask or run counter; ALU's functions are those of *Scalar functions*, and a program whose ALU has one
of the reserved codes is refused. -/
def Obligations.ScalarInstructions : Prop :=
  (∀ w, bits w 31 26 = 2 → 16 ≤ bits w 4 0 → wordLegal w = false) ∧
  ∀ (s : State) (e w : Nat) (r : Run),
    let x := s.m.eng e
    let Do (c : Instr) (P : Word64 → Prop) : Prop := Completes c s fun m => EngineOnly e s.m m ∧
      ∃ v, P v ∧ Writes x (m.eng e) (x.pc + 1) (fD w) v
    (Issues s.m e 0x02 r w → bits w 4 0 < 16 →
      Do (.alu e) (scalarFn (bits w 4 0) (x.rd (fA w)) (x.rd (fB w)))) ∧
    (Issues s.m e 0x03 r w → Do (.addi e) fun v =>
      (v.toNat : Int) = ((x.rd (fA w)).toNat + toSigned 16 w) % 2 ^ 64) ∧
    (Issues s.m e 0x04 r w → Do (.andi e) fun v => v.toNat = (x.rd (fA w)).toNat &&& bits w 15 0) ∧
    (Issues s.m e 0x05 r w → Do (.ori e) fun v => v.toNat = (x.rd (fA w)).toNat ||| bits w 15 0) ∧
    (Issues s.m e 0x06 r w → Do (.xori e) fun v => v.toNat = (x.rd (fA w)).toNat ^^^ bits w 15 0) ∧
    (Issues s.m e 0x07 r w → bits w 7 6 < 3 → Do (.shi e)
      (scalarFn (6 + bits w 7 6) (x.rd (fA w)) (BitVec.ofNat 64 (bits w 5 0)))) ∧
    (Issues s.m e 0x08 r w → Do (.lih e) fun v => ∀ k, k < 64 → v.getLsbD k =
      if 16 * bits w 17 16 ≤ k ∧ k < 16 * bits w 17 16 + 16 then bitAt w (k - 16 * bits w 17 16)
      else (x.rd (fD w)).getLsbD k) ∧
    (Issues s.m e 0x0F r w → Do (.rdftc e) fun v => v.toNat = s.m.now % 2 ^ 64) ∧
    (Issues s.m e 0x1C r w → Do (.mpop e) fun v =>
      v.toNat = ((List.range 4096).filter fun k => bitAt (x.mask (bits w 20 19)) k).length) ∧
    (∀ i, Issues s.m e 0x11 r w → s.m.runObj r (handleOf (x.rd (fA w))) = .inl i →
      (s.m.obj i).version < 2 ^ 32 → Do (.verq e) fun v =>
      bits v.toNat 31 0 = (s.m.obj i).version ∧ v.getLsbD 32 = (s.m.obj i).dirty ∧
      v.getLsbD 33 = (s.m.obj i).prevHeld ∧ v.getLsbD 34 = (s.m.obj i).sealed_ ∧ v.toNat < 2 ^ 35)

/-- Branches, LOOP, JMP and WAITC (R345, R360, R422): the PC goes to the target where the condition holds and to the next
word otherwise, and no register but LOOP's s[D] changes; WAITC goes on at once where its count is reached, and otherwise
when it is. -/
def Obligations.BranchesAndWaits : Prop :=
  ∀ (s : State) (e w t : Nat) (r : Run),
    let x := s.m.eng e
    let dst := x.pc + BitVec.ofInt 14 (toSigned 16 w)
    let Go (c : Instr) (y : Bool) : Prop := Completes c s fun m => EngineOnly e s.m m ∧
      m.eng e = { x with pc := if y then dst else x.pc + 1 }
    let v := if fD w = 0 then 0 else x.rd (fD w) - 1
    (Issues s.m e 0x09 r w → Go (.beq e) (decide (x.rd (fD w) = x.rd (fA w)))) ∧
    (Issues s.m e 0x0A r w → Go (.bne e) (decide (x.rd (fD w) ≠ x.rd (fA w)))) ∧
    (Issues s.m e 0x0B r w → Go (.blt e) (decide ((x.rd (fD w)).toInt < (x.rd (fA w)).toInt))) ∧
    (Issues s.m e 0x0C r w → Go (.bltu e) (decide ((x.rd (fD w)).toNat < (x.rd (fA w)).toNat))) ∧
    (Issues s.m e 0x0D r w → Completes (.jmp e) s fun m => EngineOnly e s.m m ∧
      m.eng e = { x with pc := BitVec.ofNat 14 (bits w 13 0) }) ∧
    (Issues s.m e 0x0E r w → Completes (.loop e) s fun m => EngineOnly e s.m m ∧
      Writes x (m.eng e) (if v = 0 then x.pc + 1 else dst) (fD w) v) ∧
    (Issues s.m e 0x10 r w → (x.rd (fA w)).toNat ≤ s.m.now → Completes (.waitc e) s fun m =>
      EngineOnly e s.m m ∧ m.eng e = { x with pc := x.pc + 1 }) ∧
    (Issues s.m e 0x10 r w → s.m.now < (x.rd (fA w)).toNat → Completes (.waitc e) s fun m =>
      EngineOnly e s.m m ∧ m.eng e = { x with run := some { r with wait := some (x.rd (fA w)).toNat } }) ∧
    (x.run = some r → r.wait = some t → s.m.working = true → Completes (.waitcDone e) s fun m =>
      m.now = max s.m.now t ∧ m.eng e = { x with pc := x.pc + 1, run := some { r with wait := none } } ∧
      m.mem = s.m.mem ∧ m.store = s.m.store ∧ ∀ f, f ≠ e → m.eng f = s.m.eng f)

/-- Moves between registers, tiles and masks (R345, R358): 64-bit words in and out of a tile operand, whole operands
copied or cleared, masks combined bit by bit, made from a count, and moved to and from a quarter of a tile. -/
def Obligations.TilesAndMasks : Prop :=
  ∀ (s : State) (e w : Nat) (r : Run),
    let x := s.m.eng e
    let size (t : Nat) : Nat := if t < 6 then 2048 else 16384
    let word (t : Nat) : Nat := 8 * ((x.rd (fB w)).toNat % (size t / 8))
    let src := bits w 22 20
    let Mask (y : Engine) (k : Nat) (f : Nat → Bool) : Prop := y.pc = x.pc + 1 ∧
      { y with masks := x.masks, pc := x.pc } = x ∧ (∀ j, j < 4 → j ≠ k → y.mask j = x.mask j) ∧
      ∀ i, i < 4096 → bitAt (y.mask k) i = f i
    (Issues s.m e 0x14 r w → Completes (.movts e) s fun m => EngineOnly e s.m m ∧
      ∃ v, Writes x (m.eng e) (x.pc + 1) (fD w) v ∧
        leBytes 8 v.toNat = slice (x.vec (bits w 20 18)) (word (bits w 20 18)) 8) ∧
    (Issues s.m e 0x15 r w → Completes (.movst e) s fun m => EngineOnly e s.m m ∧
      Loads x (m.eng e) (x.pc + 1) (fT w) (splice (x.vec (fT w)) (word (fT w)) (leBytes 8 (x.rd (fA w)).toNat))) ∧
    (Issues s.m e 0x22 r w → decide (fT w < 6) = decide (src < 6) → Completes (.tcopy e) s fun m =>
      EngineOnly e s.m m ∧
      Loads x (m.eng e) (x.pc + 1) (fT w) (if bitAt w 19 then List.replicate (size (fT w)) 0 else x.vec src)) ∧
    (Issues s.m e 0x1B r w → bits w 19 17 < 7 → Completes (.maskop e) s fun m => EngineOnly e s.m m ∧
      Mask (m.eng e) (bits w 25 24) fun i =>
        let a := bitAt (x.mask (bits w 23 22)) i
        let b := bitAt (x.mask (bits w 21 20)) i
        match bits w 19 17 with
        | 0 => a && b
        | 1 => a || b
        | 2 => a ^^ b
        | 3 => a && !b
        | 4 => !a
        | 5 => true
        | _ => false) ∧
    (Issues s.m e 0x1D r w → Completes (.mrange e) s fun m => EngineOnly e s.m m ∧
      Mask (m.eng e) (bits w 25 24) fun i => decide (i < (x.rd (fA w)).toNat)) ∧
    (Issues s.m e 0x1E r w → bits w 23 21 < 6 → bitAt w 20 = false →
      Completes (.movm e) s fun m => EngineOnly e s.m m ∧ Mask (m.eng e) (bits w 25 24) fun i =>
        bitAt (byteAt (x.vec (bits w 23 21)) (512 * bits w 19 18 + i / 8)) (i % 8)) ∧
    (Issues s.m e 0x1E r w → bits w 23 21 < 6 → bitAt w 20 = true →
      Completes (.movm e) s fun m => EngineOnly e s.m m ∧ Loads x (m.eng e) (x.pc + 1) (bits w 23 21)
        (splice (x.vec (bits w 23 21)) (512 * bits w 19 18) (leBytes 512 (x.mask (bits w 25 24)))))

/-- The arithmetic instructions (R350 to R357): each changes only its destination, the run counters, the PC and the masks
or scalar register that it names. MAC adds the dot products of rows to each lane, saturating; a SCAN of a mask from 0
counts the bits below each element; RED's COUNT and presence follow the elements that take part; CVT of INT32 to INT32
copies. A VCHAIN writes 512 elements from kd on, whatever kx and kd, and leaves every element before its first and after
its last as it was; on integers an element that runs becomes its source element taken through the stages (sum, difference,
product, least and greatest with a scalar or an immediate), each result held within 32 bits and the last within the
destination's format, and one that does not run stays or becomes 0 (R351 to R354). -/
def Obligations.VectorInstructions : Prop :=
  ∀ (s : State) (e w : Nat) (r : Run),
    let x := s.m.eng e
    let acc := 6 + bits w 25 25
    let clamp (v : Int) : Int := max (-(2 ^ 31)) (min (2 ^ 31 - 1) v)
    let m2 := bits w 22 20
    let d3 := bits w 16 14
    let k := x.rd (bits w 8 4)
    let kc := x.rd (bits w 11 7)
    let fw := (s.m.wordOf r (x.pc.toNat + 1)).getD 0
    let fx := bits fw 31 28
    let fy := bits fw 27 24
    let fd := bits fw 23 20
    let kx := kxOf k
    let kd := kdOf k
    let n := bits w 25 23
    let st (j : Nat) : Nat := (s.m.wordOf r (x.pc.toNat + 2 + j)).getD 0
    let Fits : Prop := fx < 7 ∧ fy < 7 ∧ fd < 7 ∧ kx % 512 = 0 ∧ kd % 512 = 0 ∧ kx < vecLen (6 ≤ m2) fx ∧
      kd < vecLen (6 ≤ d3) fd ∧ ∀ j, j ≤ n → bits (st j) 25 24 = 0 → kx < vecLen (6 ≤ bits w 19 17) fy
    let Plain (z : Nat) : Prop := (bits z 31 26 ≤ 3 ∨ bits z 31 26 = 5 ∨ bits z 31 26 = 6) ∧
      (bits z 25 24 = 1 ∨ bits z 25 24 = 2)
    let fn (z : Nat) (v : Int) : Int :=
      let o := if bits z 25 24 = 1 then toSigned 32 (x.rd (bits z 23 19)).toNat else toSigned 16 (bits z 15 0)
      match bits z 31 26 with
      | 0 => v + o
      | 1 => v - o
      | 2 => o - v
      | 3 => v * o
      | 5 => min v o
      | _ => max v o
    let part (n : Nat) : List Nat := (List.range n).filter fun i => !bitAt w 10 || bitAt (x.mask (bits w 9 8)) i
    (Issues s.m e 0x16 r w → bits w 24 22 < 6 → bits w 21 19 < 6 →
      Completes (.mac e) s fun m => EngineOnly e s.m m ∧
      { (m.eng e) with a := x.a, pc := x.pc, cnt := x.cnt } = x ∧ (m.eng e).pc = x.pc + 1 ∧
      (∀ u, u < 8 → u ≠ acc → (m.eng e).vec u = x.vec u) ∧
      (bits w 18 17 = 0 → ∀ i j, i < 64 → j < 64 → intAt fInt32 ((m.eng e).vec acc) (64 * i + j) =
        clamp ((if bitAt w 16 then 0 else intAt fInt32 (x.vec acc) (64 * i + j)) +
          dot 32 (fun n => intAt fInt8 (x.vec (bits w 24 22)) (32 * i + n))
            fun n => intAt fInt8 (x.vec (bits w 21 19)) (32 * j + n)))) ∧
    (Issues s.m e 0x17 r w → Fits → Completes (.vchain e) s fun m =>
      m = { s.m with engs := m.engs, regs := m.regs, fresh := m.fresh } ∧ (∀ f, f ≠ e → m.eng f = s.m.eng f) ∧
      { (m.eng e) with t := x.t, a := x.a, pc := x.pc, cnt := x.cnt, masks := x.masks } = x ∧
      (m.eng e).pc = x.pc + BitVec.ofNat 14 (n + 3) ∧
      (∀ u, u < 8 → u ≠ d3 → (m.eng e).vec u = x.vec u) ∧
      (∀ b, (b < bytesOf fd kd ∨ bytesOf fd (kd + 512) ≤ b) → byteAt ((m.eng e).vec d3) b = byteAt (x.vec d3) b) ∧
      (fx < 3 → fd < 3 → bitAt w 9 = false → (∀ j, j ≤ n → Plain (st j)) → ∀ i, i < 512 → kd + i < vecLen (6 ≤ d3) fd →
        intAt fd ((m.eng e).vec d3) (kd + i) =
          if bitAt w 13 = true ∧ bitAt (x.mask (bits w 12 11)) (kx + i) = false then
            (if bitAt w 10 then 0 else intAt fd (x.vec d3) (kd + i))
          else max (intRange fd).1 (min (intRange fd).2 ((List.range (n + 1)).foldl (fun v j => clamp (fn (st j) v))
            (if kx + i < vecLen (6 ≤ m2) fx then intAt fx (x.vec m2) (kx + i) else 0))))) ∧
    (Issues s.m e 0x18 r w → decide (fT w < 6) = decide (m2 < 6) → fT w < 6 → bitAt w 19 = false →
      bitAt w 18 = true → bitAt w 17 = false → bitAt w 16 = false → bitAt w 5 = true → bits w 7 6 = 0 →
      x.rd (bits w 12 8) = 0 → Completes (.scan e) s fun m => EngineOnly e s.m m ∧ (m.eng e).pc = x.pc + 1 ∧
      { (m.eng e) with t := x.t, s := x.s, pc := x.pc, cnt := x.cnt } = x ∧
      (∀ j, j ≠ bits w 12 8 → (m.eng e).rd j = x.rd j) ∧ (∀ u, u < 8 → u ≠ fT w → (m.eng e).vec u = x.vec u) ∧
      (bits w 12 8 ≠ 0 → ((m.eng e).rd (bits w 12 8)).toNat = popcount (x.mask (bits w 15 14)) 512) ∧
      ∀ i, i < 512 → leAt ((m.eng e).vec (fT w)) (4 * i) 4 = popcount (x.mask (bits w 15 14)) i) ∧
    (Issues s.m e 0x19 r w → 1 ≤ fD w → fD w ≤ 30 → Completes (.red e) s fun m =>
      let n := vecLen (6 ≤ bits w 20 18) (bits w 17 14)
      EngineOnly e s.m m ∧ { (m.eng e) with s := x.s, pc := x.pc, cnt := x.cnt } = x ∧ (m.eng e).pc = x.pc + 1 ∧
      (∀ j, j ≠ fD w → j ≠ fD w + 1 → (m.eng e).rd j = x.rd j) ∧
      (m.eng e).rd (fD w + 1) = (if (part n).isEmpty then 0 else 1) ∧
      (bits w 13 11 = 6 → ((m.eng e).rd (fD w)).toNat = (part n).length) ∧
      (bits w 13 11 = 0 → bits w 17 14 < 3 → ((m.eng e).rd (fD w)).toInt =
        ((part n).map (intAt (bits w 17 14) (x.vec (bits w 20 18)))).foldl (· + ·) 0) ∧
      ((part n).isEmpty = true → (m.eng e).cnt = x.cnt)) ∧
    (Issues s.m e 0x1A r w → fT w < 6 → m2 < 6 → bits w 19 16 = fInt32 → bits w 15 12 = fInt32 →
      bitAt w 6 = false → kxOf kc = 0 → kdOf kc = 0 → Completes (.cvt e) s fun m => EngineOnly e s.m m ∧
      Loads x (m.eng e) (x.pc + 1) (fT w) (x.vec m2))

/-- Accesses (R333, R340, R347 to R349, R359, R360, R402): LDT, STT, ACQ and EMIT join the run's pending work, with the
data to be stored or sent as it is now, and the engine goes on; STRM covers its tiles in order and fetches up to 48 ahead;
a FENCE with nothing to wait for is over at once, and with something it stays; an access that finishes loads its tile or
word, or stores its tile. -/
def Obligations.EngineAccesses : Prop :=
  ∀ (s : State) (e w i : Nat) (r : Run) (a : Access) (c : EccIn),
    let x := s.m.eng e
    let h := handleOf (x.rd (fA w))
    let tile := (x.rd (fB w)).toNat
    let n := bits tile 63 32
    let Joins (b : Access) (m : Module) : Prop := EngineOnly e s.m m ∧ ∃ q, (m.eng e).run = some q ∧
      q.pend = r.pend ++ [{ b with pc := x.pc.toNat }] ∧ { (m.eng e) with run := x.run, pc := x.pc } = x ∧
      (m.eng e).pc = x.pc + 1
    let known := r.reads.any (·.handle == h) || decide (r.reads.length < 32)
    let hd := s.m.emitHdr r (x.rd (bits w 22 18)).toNat (x.rd (bits w 22 18 + 1)).toNat (x.rd (bits w 22 18 + 2)).toNat
    (Issues s.m e 0x12 r w → bitAt w 22 = false → s.m.runObj r h = .inl i →
      tile < (s.m.obj i).size → known = true →
      Completes (.ldt e) s (Joins
        { kind := 0, first := !r.named h, reg := fT w, handle := h, tile := tile,
          ver := if bits w 10 9 = 1 then some (bits (x.rd (fA w)).toNat 63 32) else none })) ∧
    (Issues s.m e 0x13 r w → s.m.runObj r h = .inl i → r.writes.contains h = true →
      tile < (s.m.obj i).size → (s.m.obj i).readOnly = false →
      Completes (.stt e) s (Joins { kind := 1, handle := h, tile := tile, bytes := x.vec (fT w) })) ∧
    (Issues s.m e 0x20 r w → s.m.runObj r h = .inl i → bits tile 39 8 < (s.m.obj i).size →
      known = true → Completes (.acq e) s (Joins
        { kind := 3, first := !r.named h, reg := fD w, handle := h, tile := bits tile 39 8, word := bits tile 7 0, scope := bits w 10 9 })) ∧
    (Issues s.m e 0x21 r w → r.redo = false → hd.ordered = false →
      emitLegal hd (16 * bits w 17 10) = true →
      Completes (.emit e) s (Joins { kind := 2, bytes := (x.vec (fT w)).take (16 * bits w 17 10), hdr := hd })) ∧
    (Issues s.m e 0x23 r w → (∀ b ∈ r.pend, b.kind = 1 → b.handle ≠ h) →
      x.streams.length = 2 → s.m.runObj r h = .inl i → 1 ≤ n → bits tile 31 0 + n ≤ (s.m.obj i).size → known = true →
      Completes (.strm e) s fun m => ∃ q, (m.eng e).streams[bits w 25 25]? = some q ∧ q.handle = h ∧
        q.tiles.length = min 48 n ∧ q.next = bits tile 31 0 + min 48 n ∧ q.left = n - min 48 n ∧
        (∀ t, t < min 48 n → (q.tiles.getD t {}).bytes =
          s.m.tileBytes (s.m.present (s.m.obj i) (bits tile 31 0 + t))) ∧
        m.mem = s.m.mem ∧ (m.eng e).pc = x.pc + 1) ∧
    (Issues s.m e 0x1F r w → r.pend = [] → bits w 25 24 = 0 → r.redo = false →
      ((s.m.trk.find r.handle).map (·.st)).getD 0 ≠ 4 →
      Completes (.fenceInstr e) s fun m => EngineOnly e s.m m ∧ (m.eng e).pc = x.pc + 1 ∧
        ∃ q, (m.eng e).run = some q ∧ q.fence = none ∧ q.pend = [] ∧ q.dests = r.dests) ∧
    (Issues s.m e 0x1F r w → (r.pend.any fun b => 2 ≤ b.kind) = true →
      Completes (.fenceInstr e) s fun m => EngineOnly e s.m m ∧
        m.eng e = { x with run := some { r with fence := some (bits w 25 24) } }) ∧
    (x.run = some r → s.m.working = true → r.pend = [a] → r.ending = none → r.fence = none → Shaped x →
      (a.kind = 0 → a.port = none → a.ver = none → a.reg < 6 → Readable s.m r a.handle a.tile i →
        Sound s.m c (s.m.present (s.m.obj i) a.tile) →
        Completes (.engineAccessDone e 0 c) s fun m =>
        (m.eng e).vec a.reg = s.m.tileBytes (s.m.present (s.m.obj i) a.tile) ∧ m.mem = s.m.mem ∧
        (∀ u, u < 8 → u ≠ a.reg → (m.eng e).vec u = x.vec u) ∧ (m.eng e).pc = x.pc ∧ (m.eng e).s = x.s ∧
        ∃ q, (m.eng e).run = some q ∧ q.pend = [] ∧ q.tiles = r.tiles + 1) ∧
      (a.kind = 3 → a.port = none → a.ver = none → a.scope = 0 → 1 ≤ a.reg → a.reg < 32 →
        Readable s.m r a.handle a.tile i → Sound s.m c (s.m.present (s.m.obj i) a.tile) →
        Completes (.engineAccessDone e 0 c) s fun m => (m.eng e).rd a.reg = BitVec.ofNat 64
          (leNat (slice (s.m.tileBytes (s.m.present (s.m.obj i) a.tile)) (8 * a.word) 8)) ∧
        (∀ j, j ≠ a.reg → (m.eng e).rd j = x.rd j) ∧ m.mem = s.m.mem ∧
        ∃ q, (m.eng e).run = some q ∧ q.pend = []) ∧
      (a.kind = 1 → Readable s.m r a.handle a.tile i → s.m.isPoisoned (s.m.writeCopy (s.m.obj i) a.tile) = false → r.writes.contains a.handle = true →
        (s.m.obj i).readOnly = false → a.bytes.length = 2048 → Completes (.engineAccessDone e 0 c) s fun m =>
        m.tileBytes (m.present (m.obj i) a.tile) = a.bytes ∧ (m.obj i).dirty = true ∧
        m.present (m.obj i) a.tile = storeKey s.m i a.tile ∧
        (∀ b, ¬ (tileAddr (storeKey s.m i a.tile) ≤ b ∧ b < tileAddr (storeKey s.m i a.tile) + 2048) →
          m.mem.byte b = s.m.mem.byte b) ∧
        ∃ q, (m.eng e).run = some q ∧ q.pend = [] ∧ a.handle ∈ q.stored))

/-- The end of a run (R317, R319, R341): HALT commits the objects that the run has stored to and frees the engine with OK;
TRAP and the time limit end it with their status and commit nothing; each releases the run's claims and closes its entry;
the sequences to the chips that have not answered its FENCE when its time ends begin again (R398). FENCE_ACK at the module
that sent the FENCE (R397, R401): one of a restart FENCE opens the sequence to that chip; one that an engine's FENCE
awaits is taken off the list of those awaited, and what it confirms is no longer unconfirmed; one that no FENCE awaits any
more confirms what it did and ends no FENCE. -/
def Obligations.RunsEndAndFencesAreAcknowledged : Prop :=
  (∀ (s : State) (e w i h : Nat) (r : Run),
      let x := s.m.eng e
      let Over (m : Module) (st : Nat) : Prop := (m.eng e).run = none ∧ (m.eng e).s = x.s ∧ m.mem = s.m.mem ∧
        (∀ f, f ≠ e → m.eng f = s.m.eng f) ∧ (m.obj i).claims = (s.m.obj i).claims.erase e ∧
        ∃ t, m.trk.find r.handle = some t ∧ t.st = 3 ∧ t.status = st
      Endable s.m e r → r.writes = [h] → s.m.store.find h = some i → (s.m.obj i).handle = h →
      (Issues s.m e 0x00 r w → r.stored = [h] → Completes (.halt e) s fun m =>
        Over m St.ok ∧ (m.obj i).version = ((s.m.obj i).version + 1) % 2 ^ 32 ∧ (m.obj i).dirty = false) ∧
      (Issues s.m e 0x01 r w → bits w 15 0 ≠ 0 → Completes (.trap e) s fun m => Over m (bits w 15 0) ∧
        (m.obj i).version = (s.m.obj i).version ∧ (m.obj i).dirty = (s.m.obj i).dirty) ∧
      (s.m.working = true → Completes (.runTimeLimit e) s fun m => Over m St.timeout ∧ Waited s.m m r.due ∧
        (m.obj i).version = (s.m.obj i).version ∧ (m.obj i).dirty = (s.m.obj i).dirty ∧
        (r.fence = some 2 → r.asked = true → ∀ c ∈ r.acks, (m.dst c).asked = true ∧ (m.dst c).up = false))) ∧
  (∀ (s : State) (p : Pkt) (o : Nat × Nat) (r : Run) (e : Nat), Performs s.m p 7 → p.h.tw % 65536 = St.ok →
      let c := p.h.src
      let x := s.m.dst c
      let Confirmed (m : Module) : Prop := (m.dst c).out = x.out.erase o ∧ (m.dst c).conf = max x.conf o.2 ∧
        (m.dst c).next = x.next ∧ (∀ d, d ≠ c → m.dst d = s.m.dst d) ∧ m.mem = s.m.mem
      (p.h.tag = tagRestart → x.asked = true → x.up = false → (∀ f, f < 128 → (s.m.runOf f).fence = none) →
        Completes (.fenceAckReceived p) s fun m =>
        (m.dst c).up = true ∧ (m.dst c).next = 1 ∧ (m.dst c).unconf = 0 ∧ ∀ d, d ≠ c → m.dst d = s.m.dst d) ∧
      (p.h.tag ≠ tagRestart → p.h.tag ≠ tagConfirm → (x.out.find? fun q => q.1 == p.h.tag) = some o →
        fieldBE p.pl 0 2 = St.ok → (∀ f, f < 128 → f ≠ e → (s.m.runOf f).fence = none) →
        (e < 128 → (s.m.eng e).run = some r → r.ending = none → r.fence = some 2 → r.ftag = p.h.tag → r.asked = true →
          c ∈ r.acks → (r.acks.erase c).isEmpty = false → (r.pend.any fun a => 1 ≤ a.kind) = false →
          Completes (.fenceAckReceived p) s fun m => Confirmed m ∧
          (m.eng e).run = some { r with acks := r.acks.erase c }) ∧
        ((s.m.runOf e).fence = none → Completes (.fenceAckReceived p) s fun m => Confirmed m ∧ m.engs = s.m.engs)))

/-! ### Programs, dispatch and built-in kernels -/

/-- Programs (R335 to R337, R444): an image that comes whole and is legal becomes resident under its digest, and one that
is not legal does not; a program that no run uses can be unloaded, and one that a run uses cannot. -/
def Obligations.ProgramsLoadAndUnload : Prop :=
  ∀ (s : State) (r : CmdReq) (slot : Nat),
    let n := r.u 32 4
    let words := (List.range n).map fun i => r.u (48 + 4 * i) 4
    let image := words.flatMap (beBytes 4)
    let d := r.body.take 32
    let free := leastBelow 256 fun i => !(s.m.kern.progs.get i).used
    let Whole : Prop := Runs s.m r 0x0701 (fragLay r.body 4) ∧ s.m.vane.asms = [] ∧ r.u 36 4 = 0 ∧ r.u 40 2 = n ∧ 1 ≤ n ∧
      n ≤ 500 ∧ shake256 image 32 = d ∧ s.m.kern.find d = none
    (Whole → reservedDigest d = false → imageLegal words = true → free = some slot →
      s.m.kern.words + n ≤ 1048576 → Completes (.programLoad r) s fun m =>
      Answered m r St.ok (beBytes 1 slot) ∧ m.kern.find d = some slot ∧ m.vane.asms = [] ∧
      (m.kern.progs.get slot).words = words.map (BitVec.ofNat 32) ∧
      ∀ k, k ≠ slot → m.kern.progs.get k = s.m.kern.progs.get k) ∧
    (Whole → imageLegal words = false → Completes (.programLoad r) s fun m => Answered m r St.badParam ∧
      m.kern = s.m.kern) ∧
    (Runs s.m r 0x0702 [(0, 32, 256)] → s.m.kern.find d = some slot → slot < 256 → s.m.mayChange r (unit 4 slot) = true →
      (s.m.kern.progs.get slot).builtin = 0 → s.m.progUsed slot = false → Completes (.programUnload r) s fun m =>
      Answered m r St.ok ∧ (m.kern.progs.get slot).used = false ∧ m.owner (unit 4 slot) = none ∧
      ∀ k, k ≠ slot → m.kern.progs.get k = s.m.kern.progs.get k) ∧
    (Runs s.m r 0x0702 [(0, 32, 256)] → s.m.kern.find d = some slot → s.m.mayChange r (unit 4 slot) = true →
      (s.m.kern.progs.get slot).builtin = 0 → s.m.progUsed slot = true → Completes (.programUnload r) s fun m =>
      m.kern = s.m.kern)

/-- Runs (R338, R343, R344, R366, R422): a descriptor whose checks pass takes a tracker entry and the last place of its
die's queue, whether it comes by KERNEL_INVOKE or KERNEL_RUN; one whose check fails is answered with that status; a free
engine takes a ready run, whose parameters stand in s1 to s24; a launch count that is reached makes its run ready. -/
def Obligations.RunsQueueAndStart : Prop :=
  ∀ (s : State) (p : Pkt) (r : CmdReq) (d : Desc) (q : QRun) (k e slot : Nat),
    let Queued (c : Instr) : Prop := Completes c s fun m => ∃ h, (m.dsp k).queue =
      (s.m.dsp k).queue ++ [{ handle := h, slot := slot, desc := d }] ∧ (∃ t, m.trk.find h = some t ∧ t.kind = 2 ∧
        t.st = 1) ∧ (∀ j, j ≠ k → m.dsp j = s.m.dsp j) ∧ m.store.objs = s.m.store.objs ∧ m.engs = s.m.engs
    let Free : Prop := s.m.checkDesc d = (St.ok, slot) ∧ k < 8 ∧ s.m.dieFenced k = false ∧
      (s.m.dsp k).queue.length < 1024 ∧ s.m.trk.room 2 = true ∧ s.m.trk.pick = some e ∧ e < 2 ^ 14
    let v := bits p.h.tw 7 5
    let own := descOf p.pl p.h.part p.h.src p.h.tag (if v = 0 then 3 else v) (bitAt p.h.tw 4) false
    let cmd := descOf (r.body.drop 16) (r.u 0 2) r.master r.tag 3 (bitAt (r.u 2 1) 4) true
    (Performs s.m p 0x30 → p.good = true → bits p.h.tw 3 0 = k → v ≠ 1 → v ≠ 2 → bits p.h.tw 31 8 = 0 → p.h.offset = 0 →
      own = some d → (Free → Queued (.kernelInvoke p)) ∧
      (k < 8 → (s.m.checkDesc d).1 ≠ St.ok → Completes (.kernelInvoke p) s fun m => m.kern = s.m.kern ∧ m.trk = s.m.trk ∧
        (s.m.fabricUp = true → ∃ o : Orig, m.net.orig = s.m.net.orig ++ [o] ∧ o.pkt.h.type = 0x31 ∧
          o.pkt.h.dest = p.h.src ∧ o.pkt.h.tag = p.h.tag ∧ o.pkt.h.tw % 65536 = (s.m.checkDesc d).1))) ∧
    (Runs s.m r 0x0703 [(0, 2, 12), (2, 1, 5), (16, r.body.length - 16, 8 * (r.body.length - 16))] →
      r.u 2 1 % 16 = k → cmd = some d → Free → Queued (.kernelRun r)) ∧
    (k < 8 → s.m.working = true → s.m.dieFenced k = false →
      ((List.range 16).find? fun i => (s.m.eng (16 * k + i)).run.isNone && !bitAt s.m.flt.engines (16 * k + i)) = some e →
      (s.m.dsp k).queue = [q] → q.desc.launch ≤ s.m.now → s.m.running k (some q.desc.part) < s.m.engMax k q.desc.part →
      q.desc.writes = [] → q.desc.params.length = 24 → Completes (.runDispatch k) s fun m => (m.dsp k).queue = [] ∧
      (m.eng (16 * k + e)).pc = 0 ∧ (∃ z, (m.eng (16 * k + e)).run = some z ∧ z.handle = q.handle ∧ z.desc = q.desc ∧
        z.start = s.m.now ∧ z.pend = [] ∧ z.reads = []) ∧
      (∀ j, j < 24 → (m.eng (16 * k + e)).rd (j + 1) = q.desc.params.getD j 0) ∧
      (∀ f, f ≠ 16 * k + e → m.eng f = s.m.eng f) ∧ m.mem = s.m.mem ∧ m.store = s.m.store) ∧
    (s.m.coll.ctxs.cells = [] → s.m.kern.dsps.cells = [(k, { (s.m.dsp k) with queue := [q] })] → s.m.working = true →
      (∃ t, s.m.trk.find q.handle = some t ∧ t.waiting = true) → Completes .launchReached s fun m =>
      m.now = max s.m.now q.desc.launch ∧ (∃ t, m.trk.find q.handle = some t ∧ t.waiting = false) ∧
      m.kern = s.m.kern ∧ m.engs = s.m.engs)

/-- Built-in kernels, step by step (R364, R372, R374, R378, R381, R384, R386, R387): ATTN_PARTIAL over no tokens joins its
merge and contributes as absent; ATTN_FINAL without a destination halts with its outputs as data; an update that joins
nothing fixes its weights' version, and halts with it; GATHER sends the tile it is at as an ordered WRITE; CONVERT and
COMPACT fix what they read, and halt past the last element, COMPACT with the count that it kept; a CONVERT whose
destination is not in the run's write list is refused before it reads (R366). -/
def Obligations.KernelsStep : Prop :=
  ∀ (s : State) (e i : Nat) (r : Run),
    let Ended (m : Module) : Prop := (m.eng e).run = none ∧ m.mem = s.m.mem ∧
      (∀ f, f ≠ e → m.eng f = s.m.eng f) ∧ ∃ t, m.trk.find r.handle = some t ∧ t.st = 3 ∧ t.status = St.ok
    let At (m : Module) (phase cur : Nat) : Prop := ∃ q, (m.eng e).run = some q ∧ q.phase = phase ∧ q.cur = cur ∧
      q.ending = none ∧ m.mem = s.m.mem
    let w3 := r.p 3
    let n2 := bits (r.p 2) 15 0
    let d2 := bits (r.p 2) 23 16
    let f2 := bits (r.p 2) 35 32
    let tiles := ceilDiv n2 (256 / (d2 + 2))
    (RunsKernel s.m e 1 r → r.phase = 0 → r.pend = [] → r.ending = none → attnLegal r = true → r.hi 2 = 0 →
      (∀ g, (s.m.grp g).vc < 8) →
      bitAt w3 24 = true → s.m.store.find (r.writes.headD 0) = some i →
      1 + ceilDiv (bits w3 15 8) (256 / (bits w3 7 0 + 2)) ≤ (s.m.obj i).size → Completes (.attnPartial e) s fun m =>
      At m 1 0 ∧ ∃ q, (m.eng e).run = some q ∧ q.pend.length = 1 + ceilDiv (bits w3 15 8) (256 / (bits w3 7 0 + 2)) ∧
        (∃ a l, q.pend = a :: l ∧ a.hdr.type = 0x10 ∧ ∀ b ∈ l, b.hdr.type = 0x11 ∧ bitAt b.hdr.tw 16 = true ∧
          b.bytes = [])) ∧
    (RunsKernel s.m e 2 r → Endable s.m e r → r.writes = [] → r.reads = [] → r.lo 1 = 0 → 1 ≤ n2 → 1 ≤ d2 → d2 ≤ 254 →
      (f2 = fBf16 ∨ f2 = fFp32) → bits (r.p 2) 63 36 = 0 → n2 * d2 * (if f2 = fBf16 then 2 else 4) ≤ 2048 →
      (∀ t, t < tiles → ReadsWell s.m r (r.lo 0) (r.hi 0 + t) i) → Completes (.attnFinal e) s fun m => Ended m ∧
      (m.eng e).vec 0 = padTo 2048 (pad16 (finalRecords n2 d2 (toSigned 8 (bits (r.p 2) 31 24)) f2
        ((List.range tiles).map fun t => s.m.tileBytes (s.m.present (s.m.obj i) (r.hi 0 + t)))).1)) ∧
    (∀ adam : Bool, RunsKernel s.m e (if adam then 4 else 3) r → r.ending = none →
      (r.phase = 0 → updLegal r adam = true → bitAt (r.p 4) 40 = false → s.m.runObj r (r.lo 0) = .inl i →
        (∀ h ∈ [r.lo 0, r.lo 1] ++ (if adam then [r.lo 2] else []), ∃ j, s.m.runObj r h = .inl j ∧
          (s.m.obj j).dirty = false) →
        Completes (if adam then .updateAdamw e else .updateSgdm e) s fun m => At m 3 0 ∧
          ∃ q, (m.eng e).run = some q ∧ q.aux = [(s.m.obj i).version]) ∧
      (r.phase = 3 → ceilDiv (bits (r.p 4) 39 0) 512 ≤ r.cur →
        Completes (if adam then .updateAdamw e else .updateSgdm e) s fun m =>
          At m (if bitAt (r.p 4) 41 then 4 else 5) 0) ∧
      (r.phase = 5 → Endable s.m e r → r.writes = [] →
        Completes (if adam then .updateAdamw e else .updateSgdm e) s fun m => Ended m ∧
          leNat (slice ((m.eng e).vec 0) 0 8) = (r.aux.headD 0 + 1) % 2 ^ 32 ∧
          leNat (slice ((m.eng e).vec 0) 8 8) = bits (r.p 4) 39 0)) ∧
    (RunsKernel s.m e 5 r → r.ending = none → r.phase = 1 → r.pend = [] → r.cur < r.lo 1 → r.aux.headD 0 = 0 →
      r.desc.chip < 2 ^ 17 →
      ReadsWell s.m r (r.lo 0) (r.hi 0 + r.cur) i → r.reads = [] → Completes (.gather e) s fun m => At m 1 (r.cur + 1) ∧
      ∃ q a, (m.eng e).run = some q ∧ q.pend = [a] ∧ a.kind = 2 ∧ a.hdr.type = 1 ∧ a.hdr.ordered = true ∧
        a.bytes = s.m.tileBytes (s.m.present (s.m.obj i) (r.hi 0 + r.cur))) ∧
    (RunsKernel s.m e 6 r → r.phase = 0 → r.ending = none → bits (r.p 3) 43 40 ≤ 4 → bits (r.p 3) 63 44 = 0 →
      Completes (.compact e) s fun m => At m 1 0 ∧ ∃ q, (m.eng e).run = some q ∧ q.aux = [0]) ∧
    (RunsKernel s.m e 6 r → r.phase = 1 → Endable s.m e r → r.writes = [] → bits (r.p 3) 43 40 ≤ 4 →
      ceilDiv (bits (r.p 3) 39 0) (perTile (bits (r.p 3) 43 40) 0) ≤ r.cur →
      r.aux.headD 0 % perTile (bits (r.p 3) 43 40) 0 = 0 → r.aux.headD 0 < 2 ^ 64 → Completes (.compact e) s fun m =>
      Ended m ∧ leNat (slice ((m.eng e).vec 0) 0 8) = r.aux.headD 0) ∧
    (RunsKernel s.m e 7 r → r.phase = 0 → r.ending = none → 1 ≤ bits (r.p 2) 39 0 → bits (r.p 2) 43 40 ≤ 6 →
      bits (r.p 2) 47 44 ≤ 6 → bits (r.p 2) 49 48 = 2 → bits (r.p 2) 63 50 = 0 → bits (r.p 3) 63 32 = 0 →
      s.m.runObj r (r.lo 0) = .inl i → r.writes.contains (r.lo 1) = true → Completes (.convert e) s fun m => At m 1 0 ∧
      ∃ q, (m.eng e).run = some q ∧ q.aux = [1, r.lo 3, 0]) ∧
    (RunsKernel s.m e 7 r → r.phase = 0 → Endable s.m e r → r.writes = [] → Completes (.convert e) s fun m =>
      (m.eng e).run = none ∧ m.mem = s.m.mem ∧
      ∃ t, m.trk.find r.handle = some t ∧ t.st = 3 ∧ t.status = St.badParam) ∧
    (RunsKernel s.m e 7 r → r.phase = 1 → Endable s.m e r → r.writes = [] →
      ceilDiv (bits (r.p 2) 39 0) (perTile (bits (r.p 2) 47 44) 0) ≤ r.cur → Completes (.convert e) s Ended)

/-! ### Collectives -/

/-- Joins (R232, R235, R236, R287): a refused number is answered NO_RESOURCE, a number below LOW ALREADY_COMPLETE and one
64 or more above it BUSY, and none of these changes a context or a group; a join of no elements is done at once, with a
context of its number open too (log entry 105); the first join of an open context gives it its signature, and its member
has joined. -/
def Obligations.JoinsFollowTheWindow : Prop :=
  ∀ (s : State) (p : Pkt) (c : Ctx) (y : Plane) (q : Nat),
    let gno := p.h.tag
    let g := s.m.grp gno
    let d := (p.h.tw + 2 ^ 32 - g.low) % 2 ^ 32
    let h := gno * 65536 + p.h.tw % 65536
    let open_ := (s.m.ctx h).used
    let ps := joinPlanes (if open_ then (s.m.ctx h).plans else g.plans) p
    let Sent (m : Module) (st : Nat) : Prop := s.m.fabricUp = true → ∃ o : Orig, m.net.orig = s.m.net.orig ++ [o] ∧
      o.pkt.h.type = 0x12 ∧ o.pkt.h.dest = p.h.src ∧ o.out = some q ∧ fieldBE o.pkt.pl 0 2 = st ∧
      byteAt o.pkt.pl 2 = 0xFF
    let Turned (st : Nat) : Prop := Completes (.collJoin p) s fun m => m.coll = s.m.coll ∧ Sent m st
    Arrives s.m p 0x10 → Rests s.m → gno < 65536 → g.used = true → g.part = p.h.part → p.port = some q → q < 256 →
    g.vc < 8 →
    (g.isRefused p.h.tw = true → 2 ^ 31 ≤ d ∨ d < 64 → Turned St.noResource) ∧
    (g.isRefused p.h.tw = false → 2 ^ 31 ≤ d → Turned St.alreadyComplete) ∧
    (64 ≤ d → d < 2 ^ 31 → Turned St.busy) ∧
    (g.isRefused p.h.tw = false → d < 64 → (g.empties.find? fun x => x.1 == p.h.tw) = none →
      g.done.contains p.h.tw = false → p.pl.length = 48 → joinValid p.pl g.n = true →
      (1 ≤ d → sgCount p.pl = 0 → ps.isEmpty = false →
        (∀ i ∈ ps, open_ = true → (s.m.plane h i).first = some (sigDigest p.pl)) → g.done.contains g.low = false →
        Completes (.collJoin p) s fun m => Sent m St.okEmpty ∧ m.coll.ctxs = s.m.coll.ctxs ∧
        (m.grp gno).empties = g.empties ++ [(p.h.tw, sigDigest p.pl)] ∧ (m.grp gno).done = g.done ++ [p.h.tw] ∧
        (m.grp gno).low = g.low) ∧
      (s.m.ctx h = c → c.used = true → c.sig = none → c.planes = [y] → c.early = [] → s.m.now < sgLaunch p.pl →
        y = { on := true } → ps = [0] → 0 < sgCount p.pl →
        sgOp p.pl < 3 → Completes (.collJoin p) s fun m => OtherCtxs h s.m m ∧ (m.ctx h).sig = some (p.pl.take 40) ∧
        (m.ctx h).launched = false ∧ (m.plane h 0).joined = [joinMember p.pl] ∧
        (m.plane h 0).first = some (sigDigest p.pl) ∧ m.net.orig = s.m.net.orig ∧ m.mem = s.m.mem))

/-- The check of a plane and its end (R244, R251, R281, R282, R286, R288): a child's SUMMARY is kept and its digest must
be the plane's; CHECKED from the parent makes the plane checked and starts its data timer; COMPLETE from the parent ends
the plane, and with the only plane the context. -/
def Obligations.PlanesAreCheckedAndEnd : Prop :=
  ∀ (s : State) (p : Pkt) (c : Ctx) (y : Plane) (sg dig : Bytes) (k : Child),
    let h := p.h.tag
    let n := fieldBE p.pl 16 4 % 2 ^ 18
    p.h.offset % 8 = 0 → Staging s.m h c y sg → sgOp sg < 3 → (s.m.cplan h 0).isRoot = false →
    (Reaches s.m p 0x11 → kindOf p = 4 → (s.m.cplan h 0).kids.find? (·.chip == p.h.src) = some k → p.pl.length = 32 →
      y.sums = [] → y.dataOn = false → y.first = some dig → n ≤ k.hi + 1 - k.lo →
      (dig = p.pl.take 16 → Completes (.summary p) s fun m => OtherCtxs h s.m m ∧
        m.plane h 0 = { y with sums := [(p.h.src, n, 0, 0)] }) ∧
      (dig ≠ p.pl.take 16 → Completes (.summary p) s fun m => OtherCtxs h s.m m ∧
        (m.plane h 0).fail = some St.mismatch ∧ (m.plane h 0).sub = some St.mismatch)) ∧
    (Reaches s.m p 0x12 → kindOf p = 3 → (s.m.cplan h 0).parent = p.h.src → Completes (.checked p) s fun m =>
      OtherCtxs h s.m m ∧ (m.plane h 0).checked = true ∧ (m.plane h 0).steps = [] ∧
      (m.plane h 0).dataDue.isSome = true ∧ m.mem = s.m.mem) ∧
    (Reaches s.m p 0x12 → kindOf p = 4 → (s.m.cplan h 0).parent = p.h.src → Completes (.complete p) s fun m =>
      OtherCtxs h s.m m ∧ (m.ctx h).used = false)

/-- What a reduction receives before its launch count (R238 to R242, R245 to R247, R250): it keeps a member's
contribution, whole or masked, a child's piece of a partial and its anchors, and a result tile and its mask from the
parent. A tile step's room and its anchors (R242, R245, R250): TILE_STEP_ADMIT admits the one step that waits and has
room; the agreed anchors from the parent come into force for a step that waits for them, and what it holds is added. -/
def Obligations.ReductionsTakeTheirTiles : Prop :=
  (∀ (s : State) (p : Pkt) (c : Ctx) (y : Plane) (sg : Bytes) (l : Loc),
      let h := p.h.tag
      let g := c.geo
      let t := p.h.offset / 2048
      let off := p.h.offset
      let In (ins : Instr) (P : Plane → Prop) : Prop := Completes ins s fun m => OtherCtxs h s.m m ∧ m.mem = s.m.mem ∧
        P (m.plane h 0)
      off % 2048 = 0 → Staging s.m h c y sg → g.op < 3 → g.np = 1 →
      (Reaches s.m p 0x11 → t * g.r.ei < g.total →
        (c.sender (s.m.cplan h 0) p = some l →
          (kindOf p = 0 → isMasked p = false → isAbsent p = false → p.pl.length = 2048 →
            In (.contrib p) fun z => ∃ x, z.steps = [x] ∧ x.tile = t ∧ x.got = [l.member] ∧
              (x.admitted = false → x.raws.map (·.bytes) = [p.pl]) ∧
              (x.admitted = true → g.r.staged = true → x.raws.map (·.bytes) = [p.pl]) ∧
              (x.admitted = true → g.r.staged = false → x.raws = [] ∧ x.part = joinPart g.r {}
                (contribPart g.r (suppliedAnchors g.r (g.inElems t)) p.pl none (g.inElems t)))) ∧
          (kindOf p = 1 → In (.collMask p) fun z => z.steps = [] ∧ ∃ x, z.halves = [x] ∧ x.mask = true ∧ x.off = off ∧
            x.bytes = p.pl)) ∧
        ((s.m.cplan h 0).kidChips.contains p.h.src = true → 2 ≤ g.r.npieces (g.inElems t) →
          (kindOf p = 2 → In (.partialPiece p) fun z => ∃ x, z.steps = [x] ∧ x.tile = t ∧
            x.pieces = [(p.h.src, bits p.h.tw 25 21, p.pl)] ∧ x.got = []) ∧
          (kindOf p = 3 → g.r.staged = true → badAnchor g.r (anchorsFrom g.r (g.inElems t) p.pl) = false →
            In (.anchorUp p) fun z => ∃ x, z.steps = [x] ∧ x.tile = t ∧
              x.kidAnch = [(p.h.src, anchorsFrom g.r (g.inElems t) p.pl)] ∧ x.agreed = none))) ∧
      (Reaches s.m p 0x12 → (s.m.cplan h 0).parent = p.h.src → (s.m.cplan h 0).isRoot = false → t < g.resTiles →
        (kindOf p = 0 → statusOf p = St.ok → isMasked p = false → isAbsent p = false → p.pl.length = 2048 →
          (s.m.dstsOf h 0 t).isEmpty = false → In (.resultTile p) fun z => ∃ x, z.rets = [x] ∧ x.tile = t ∧
            x.bytes = p.pl ∧ x.dsts = s.m.dstsOf h 0 t ∧ z.steps = []) ∧
        (kindOf p = 1 → In (.resultMask p) fun z => z.rets = [] ∧ ∃ x, z.halves = [x] ∧ x.mask = true ∧ x.off = off ∧
          x.bytes = p.pl))) ∧
  (∀ (s : State) (p : Pkt) (h d : Nat) (c : Ctx) (y : Plane) (sg : Bytes) (x : TStep),
      let g := c.geo
      Staging s.m h c { y with steps := [] } sg → Rests s.m → g.op < 3 → g.np = 1 → (s.m.cplan h 0).kids = [] → x.sent = false →
      x.pieces = [] → s.m.ctx h = c →
      let on : State := { s with m := s.m.updPlane h 0 fun z => { z with steps := [x] } }
      let k := anchorsFrom g.r (g.inElems x.tile) p.pl
      (s.m.coll.ctxs.cells = [(h, c)] → s.m.working = true → x.admitted = false → x.raws = [] →
        on.m.stepDie h 0 x.tile = d → on.m.canAdmit h 0 x.tile = true → Completes (.tileStepAdmit d) on fun m =>
        (m.plane h 0).steps = [{ x with admitted := true }] ∧ m.mem = s.m.mem) ∧
      (Reaches on.m p 0x12 → p.h.tag = h → kindOf p = 2 → p.h.offset = 2048 * x.tile → x.tile * g.r.ei < g.total →
        g.r.staged = true → (s.m.cplan h 0).parent = p.h.src → (s.m.cplan h 0).isRoot = false → x.agreed = none →
        badAnchor g.r k = false → Completes (.anchorDown p) on fun m => m.mem = s.m.mem ∧ OtherCtxs h s.m m ∧
        ∃ z, (m.plane h 0).steps = [z] ∧ z.tile = x.tile ∧ z.agreed = some k ∧ z.raws = [] ∧ z.got = x.got))

/-- Gathers and exchanges (R249, R250, R270 to R273): a tile of a tree neighbour is retained for everyone else, its
elements beyond the count as 0 (R199); a member's send tile and a neighbour's CARRY tile wait, each in a tile of the
staging area, for the launch count, the first under its destination and block; a ROW or COLUMN declaration is kept, and a
complete one whose total or block is too large bars its member. -/
def Obligations.GathersAndExchanges : Prop :=
  ∀ (s : State) (p : Pkt) (c : Ctx) (y : Plane) (sg : Bytes) (l : Loc),
    let h := p.h.tag
    let g := c.geo
    let t := p.h.offset / 2048
    let x : Decl := { member := l.member, k := t, bytes := p.pl }
    let bad := declared [x] l.member c.n && c.badDecl [x] l.member
    let blk := g.count / g.r.ei
    let place := s.m.stagePlace
    let In (ins : Instr) (P : Module → Prop) : Prop := Completes ins s fun m => OtherCtxs h s.m m ∧ m.mem = s.m.mem ∧ P m
    p.h.offset % 2048 = 0 → Staging s.m h c y sg → g.np = 1 → c.barred = [] → c.xpark = [] → y.sub = none → y.xlost = false → place.any s.m.placeDown = false →
    (Reaches s.m p 0x11 → kindOf p = 5 → (g.op = 3 ∨ g.op = 4) → (s.m.cplan h 0).kidChips.contains p.h.src = true →
      t < g.resTiles → isMasked p = false → isAbsent p = false → p.pl.length = 2048 →
      (s.m.dstsOf h 0 t (some p.h.src)).isEmpty = false → In (.collGather p) fun m => ∃ r, (m.plane h 0).rets = [r] ∧
        r.tile = t ∧ r.absent = false ∧ r.mask = none ∧ r.bytes = cutTile g.r.inF (g.resElems t) p.pl ∧
        r.dsts = s.m.dstsOf h 0 t (some p.h.src)) ∧
    (Reaches s.m p 0x14 →
      (kindOf p = 0 → g.op = 5 → c.sender (s.m.cplan h 0) p = some l → 0 < blk → t / blk < 2 ^ 17 →
        In (.xchgSend p) fun m => m.net.orig = s.m.net.orig ∧ (m.plane h 0).xwait =
          [{ src := l.member, dst := t / blk, b := t % blk, bytes := p.pl, place := place }]) ∧
      (kindOf p = 1 → g.op = 5 → (s.m.cplan h 0).kidChips.contains p.h.src = true → In (.xchgCarry p) fun m =>
        m.net.orig = s.m.net.orig ∧ (m.plane h 0).xwait = [{ src := bits p.h.offset 46 30, dst := bits p.h.tw 16 0
                                                             b := bits p.h.offset 29 11, bytes := p.pl, place := place }]) ∧
      (g.op = 6 → c.sender (s.m.cplan h 0) p = some l → t < ceilDiv c.n 512 → c.rows = [] → c.cols = [] →
        (kindOf p = 3 → bad = false → In (.xchgRow p) fun m => (m.ctx h).rows = [x] ∧ (m.ctx h).cols = []) ∧
        (kindOf p = 4 → bad = false → In (.xchgColumn p) fun m => (m.ctx h).cols = [x] ∧ (m.ctx h).rows = []) ∧
        (kindOf p = 3 → bad = true → Completes (.xchgRow p) s fun m => OtherCtxs h s.m m ∧
          (m.ctx h).barred = [l.member])))

/-- Acknowledgements and notices (R250, R251, R281, R292, R294, R298): a destination's OK is noted at the retained tile; a
child's SUBTREE_DONE is noted and its repeat is answered BUSY; a child's failure notice fails the plane here and starts
its notice timer; a loss notice is kept as told; a packet that names no context is answered CONTEXT_LOST. The failure
timers (R289 to R292): a plane whose join time passes is over with TIMEOUT, one whose data time passes gives up every
chunk it awaits, a retained tile that a destination has not acknowledged counts one more resend and a new time, and a
plane notice counts its repeats until the limit, when the subtree ends. -/
def Obligations.NoticesAndFailureTimers : Prop :=
  (∀ (s : State) (p : Pkt) (c : Ctx) (y : Plane) (sg : Bytes) (l : Loc) (x : Ret) (d e : RDst),
      let h := p.h.tag
      let g := c.geo
      let st := statusOf p
      let off := p.h.offset
      let k := g.chunkOfRes (off / 2048)
      (Reaches s.m p 0x13 → st = St.ok → s.m.ctx h = c → c.planes = [y] → c.launched = true → c.sig = some sg → g.op = 0 →
        c.sender (s.m.cplan h 0) p = some l → y.on = true → y.ended = false → y.fail = none → y.summary = true →
        y.checked = false → y.steps = [] → y.rets = [x] → x.tile = off / 2048 → x.dsts = [d, e] → d.role = 0 →
        d.id = l.member → d.acked = false → d.due.isSome = true → e.role = 1 → e.acked = false → e.due.isSome = true →
        Completes (.collAck p) s fun m => OtherCtxs h s.m m ∧ m.mem = s.m.mem ∧
          (m.plane h 0).rets = [{ x with dsts := [{ d with acked := true }, e] }]) ∧
      (Staging s.m h c y sg → g.op < 3 → Reaches s.m p 0x13 → s.m.fromLocal h p = false → off = planeOff 0 →
        (s.m.cplan h 0).parent ≠ p.h.src → (s.m.cplan h 0).isRoot = false →
        (s.m.cplan h 0).kidChips.contains p.h.src = true → y.dataOn = false → y.summary = false →
        (st = St.ok → y.kidsDone = [] → Completes (.subtreeDone p) s fun m => OtherCtxs h s.m m ∧
          m.plane h 0 = { y with kidsDone := [(p.h.src, St.ok)] }) ∧
        (st = St.ok → y.kidsDone.any (·.1 == p.h.src) = true → (s.m.grp (h / 65536)).vc < 8 → Completes (.subtreeDone p) s fun m =>
          m.coll = s.m.coll ∧ (s.m.fabricUp = true → ∃ o : Orig, m.net.orig = s.m.net.orig ++ [o] ∧
            o.pkt.h.type = 0x13 ∧ o.pkt.h.dest = p.h.src ∧ o.pkt.h.tw = St.busy)) ∧
        (st ≠ St.ok → st ≠ St.busy → st ≠ St.alreadyComplete → st ≠ St.chunkLost → y.kidsDone = [] →
          Completes (.failureNotice p) s fun m => OtherCtxs h s.m m ∧ (m.plane h 0).fail = some st ∧
            (m.plane h 0).sub = some st ∧ (m.plane h 0).kidsDone = [(p.h.src, st)] ∧ (m.plane h 0).probeDue.isSome = true)) ∧
      (Staging s.m h c y sg → g.op < 3 → g.np = 1 → Reaches s.m p 0x12 → kindOf p = 0 → st = St.chunkLost →
        (s.m.cplan h 0).parent = p.h.src → (s.m.cplan h 0).isRoot = false → k < g.chunks →
        Completes (.lossNotice p) s fun m => OtherCtxs h s.m m ∧ (m.plane h 0).told = [k] ∧ (m.plane h 0).gone = [] ∧
          m.mem = s.m.mem) ∧
      (Arrives s.m p 0x13 → s.m.unrecorded p = true →
        st = St.ok → s.m.coll.noticed.get h = 0 → (s.m.collVc p (h / 65536)) < 8 →
        Completes (.noContextAnswer p) s fun m => m.coll.ctxs = s.m.coll.ctxs ∧ m.coll.groups = s.m.coll.groups ∧
          m.coll.noticed.get h = s.m.ticks + 1 ∧ (s.m.fabricUp = true → ∃ o : Orig, m.net.orig = s.m.net.orig ++ [o] ∧
            o.pkt.h.type = 0x13 ∧ o.pkt.h.dest = p.h.src ∧ o.pkt.h.tw = St.contextLost ∧ o.pkt.h.offset = off))) ∧
  (∀ (s : State) (h t st : Nat) (c : Ctx) (y : Plane) (sg : Bytes) (x : Ret) (d : RDst),
      let g := c.geo
      let wait := ms (s.m.collReg 0x02C 0)
      s.m.working = true → Rests s.m → (s.m.cplan h 0).isRoot = false →
      (Staging s.m h c y sg → g.op < 3 → c.joinDue = some t → y.summary = false →
        Completes (.joinTimeout h) s fun m => OtherCtxs h s.m m ∧ Waited s.m m t ∧ (m.ctx h).joinDue = none ∧
          (m.plane h 0).fail = some St.timeout ∧ (m.plane h 0).sub = some St.timeout) ∧
      (Staging s.m h c y sg → g.op < 3 → g.np = 1 → y.lost = [] → y.dataDue = some t → s.m.now + (t - s.m.ticks) < sgLaunch sg →
        Completes (.dataTimeout h 0) s fun m => OtherCtxs h s.m m ∧ Waited s.m m t ∧
          (m.plane h 0).dataDue = none ∧ m.mem = s.m.mem ∧ ∀ k, k < g.chunks → g.insOf k ≠ [] → k ∈ (m.plane h 0).gone) ∧
      (s.m.ctx h = c → c.used = true → c.planes = [y] → c.launched = true → c.sig = some sg → g.op = 0 → y.on = true →
        y.ended = false → y.fail = none → y.summary = true → y.checked = false → y.steps = [] → y.rets = [x] →
        x.dsts = [d] → d.acked = false → d.due = some t → s.m.placeLost x.place = false →
        s.m.store.damaged.get (resKey x.place) < 2 → d.resends < s.m.collReg 0x028 17 →
        Completes (.ackTimeout h 0 (2048 * x.tile)) s fun m => OtherCtxs h s.m m ∧ Waited s.m m t ∧
          (m.plane h 0).rets = [{ x with dsts := [{ d with resends := d.resends + 1, due := some (m.ticks +
            us (s.m.collReg 0x028 0)) }] }] ∧ m.mem = s.m.mem) ∧
      (s.m.ctx h = c → c.used = true → c.planes = [y] → y.on = true → y.ended = false → y.sub = some st →
        y.probeDue = some t →
        (y.probes < s.m.collReg 0x02C 14 → Completes (.probeTimer h 0) s fun m => OtherCtxs h s.m m ∧
          Waited s.m m t ∧ m.plane h 0 = { y with probes := y.probes + 1, probeDue := some (m.ticks + wait) }) ∧
        (s.m.collReg 0x02C 14 ≤ y.probes → Completes (.probeTimer h 0) s fun m => OtherCtxs h s.m m ∧
          Waited s.m m t ∧ (m.ctx h).used = false)))

/-! ### Time, power, faults and security by command -/

/-- Time and power settings (R40, R45, R425, R443, R454, R504): where its writes are legal, each command's registers hold
what was written; TIME_STATUS reports the time block; LULL_ENTER starts the entry, or sets IDLE_MS, where nothing is open,
and is BUSY and does nothing else otherwise. -/
def Obligations.TimeAndPowerSettings : Prop :=
  ∀ (s : State) (r : CmdReq),
    let b := mgtBlk 2
    let q := mgtBlk 6
    let n := begun s.m r
    let rest := sel (r.u 0 4) 0 [(⟨b, 0x000, r.u 4 4⟩ : RegW)] ++ sel (r.u 0 4) 1 [⟨b, 0x004, r.u 8 4⟩] ++
      sel (r.u 0 4) 2 [⟨b, 0x008, r.u 12 4⟩] ++ sel (r.u 0 4) 3 [⟨b, 0x00C, r.u 16 4⟩] ++
      sel (r.u 0 4) 4 [⟨b, 0x010, r.u 20 4⟩]
    let cap : List RegW := (if r.u 2 2 = 0 then [] else [⟨q, 0x008, r.u 2 2⟩]) ++ [⟨q, 0x004, r.u 0 2⟩]
    let pace : List RegW := [⟨q, 0x000, r.u 0 4⟩, ⟨q, 0x00C, r.u 4 4⟩, ⟨q, 0x010, r.u 8 4⟩,
      ⟨q, 0x014, r.u 12 4⟩]
    let idle : List RegW := [⟨q, 0x308, r.u 4 4⟩] ++ wakeCount r
    (Runs s.m r 0x0801 [(0, 4, 6), (4, 4, 32), (8, 4, 32), (12, 4, 32), (16, 4, 32), (20, 4, 32), (24, 8, 64)] →
      s.m.mayChange r (unit 0x10 0) = true → bitAt (r.u 0 4) 5 = false → bitAt (r.u 4 4) 4 = false → Legal n r rest →
      Completes (.timeConfig r) s fun m => Answered m r St.ok ∧ Stored m rest ∧ m.now = s.m.now) ∧
    (Runs s.m r 0x0802 [] → Completes (.timeStatus r) s fun m => m.time = s.m.time ∧ Answered m r St.ok
      (beBytes 4 (n.view b 0x020) ++ beBytes 4 (n.view b 0x028) ++ beBytes 4 (n.view b 0x02C) ++ zeros 4 ++
        beBytes 8 s.m.now)) ∧
    (Runs s.m r 0x0901 [(0, 2, 16), (2, 2, 16)] → r.u 0 2 < 8192 → r.u 2 2 < 1024 → Legal n r cap →
      Completes (.powerCap r) s fun m => Answered m r St.ok ∧ Stored m cap ∧ m.keep.field 0x014 12 0 = r.u 0 2) ∧
    (Runs s.m r 0x0902 [(0, 4, 32), (4, 4, 32), (8, 4, 32), (12, 4, 32)] → Legal n r pace →
      Completes (.paceConfig r) s fun m => Stored m pace ∧ ∃ d, Answered m r St.ok d ∧ d.length = 40) ∧
    (Runs s.m r 0x0903 lullLay → r.u 0 1 = 1 → s.m.trk.anyOpen = false → Legal n r idle →
      Completes (.lullIdleSet r) s fun m =>
      Answered m r St.ok ∧ Stored m idle ∧ m.pwr.activeAt = s.m.ticks ∧ m.pwr.lull = s.m.pwr.lull) ∧
    (Runs s.m r 0x0903 lullLay → r.u 0 1 = 1 → s.m.trk.anyOpen = true → Completes (.lullIdleSet r) s fun m =>
      m = n.replyFinal r St.busy) ∧
    (Runs s.m r 0x0903 lullLay → r.u 0 1 = 0 → r.u 4 4 ≤ 3600000 → s.m.trk.anyOpen = false → s.m.pwr.st = 2 →
      r.u 8 8 = 0 → Completes (.lullEnter r) s fun m => Answered m r St.ok ∧ m.pwr.lull = 1) ∧
    (Runs s.m r 0x0903 lullLay → r.u 0 1 = 0 → r.u 4 4 ≤ 3600000 → s.m.trk.anyOpen = true →
      Completes (.lullEnter r) s fun m => m = n.replyFinal r St.busy) ∧
    (Runs s.m r 0x0A03 [(0, 1, 8), (1, 1, 8)] → 56 ≤ r.u 0 1 → Completes (.severitySet r) s fun m =>
      Answered m r St.badParam ∧ m.flt = s.m.flt) ∧
    (Runs s.m r 0x0A03 [(0, 1, 8), (1, 1, 8)] → r.u 0 1 < 56 → r.u 1 1 ≤ 3 → Legal n r
      [⟨mgtBlk 3, 0x100 + 4 * r.u 0 1, r.u 1 1⟩] → Completes (.severitySet r) s fun m => Answered m r St.ok ∧
        m.reg (mgtBlk 3) (0x100 + 4 * r.u 0 1) 0 = r.u 1 1 ∧ m.flt = s.m.flt)

/-- Faults and firmware by command (R457, R464, R465, R468, R469, R480, R481, R484, R488): a status reports the open
record, and the history its sixteen entries newest first; clearing every source that is not active closes the record; an
injected fault opens a record marked as such and acts on no resource, and only in factory test mode; a fragment of
firmware marks the other bank as being written; a verified bank that reads well is named for the next boot, and one that
does not is SIGNATURE_BAD; ATTEST is deferred work. -/
def Obligations.FaultsAndFirmware : Prop :=
  ∀ (s : State) (r : CmdReq) (x : Rec) (i : StartIn) (e : Nat),
    let bank := s.m.sec.banks.getD (r.u 0 1) {}
    (Runs s.m r 0x0A01 [(0, 1, 8)] → r.u 0 1 = 0 → s.m.flt.cur = some x → Completes (.faultStatus r) s fun m =>
      m.flt = s.m.flt ∧ Answered m r St.ok ((s.m.shown x).image s.m.flt.active)) ∧
    (Runs s.m r 0x0A01 [(0, 1, 8)] → r.u 0 1 = 1 → Completes (.faultHistory r) s fun m => m.flt = s.m.flt ∧
      Answered m r St.ok ((List.range 16).flatMap fun k =>
        s.m.keep.read (0xC00 + 64 * ((s.m.keep.field 0x3F8 3 0 + 15 - k) % 16)) 64)) ∧
    (Runs s.m r 0x0A02 [(0, 8, 64)] → s.m.flt.cur = some x → x.slot = none → s.m.flt.fenced = 0 → s.m.flt.active = 0 →
      (∀ k, bitAt x.sources k = true → k < 56 ∧ bitAt (r.u 0 8) k = true) →
      Completes (.faultClear r) s fun m => m.flt.cur = none ∧ m.flt.ports = 0 ∧ m.flt.engines = 0 ∧
        m.flt.last = some { x with acked := true, deadline := 0, sources := 0, isOpen := false } ∧
        Answered m r St.ok (zeros 8)) ∧
    (Runs s.m r 0x0A02 [(0, 8, 64)] → s.m.flt.cur = some x → x.sources ≠ 0 → r.u 0 8 = 0 →
      Completes (.faultClear r) s fun m => m.flt.cur = some { x with acked := true, deadline := 0 } ∧
        Answered m r St.ok (zeros 8)) ∧
    (Runs s.m r 0x0F02 [(0, 1, 8), (4, 4, 32)] → s.m.sec.testMode = true → r.u 0 1 ≤ 55 → r.u 4 4 = 1 →
      s.m.flt.cur = none → s.m.pwr.standby = true → Completes (.faultInject r) s fun m => Answered m r St.ok ∧
        (∃ y, m.flt.cur = some y ∧ y.first = r.u 0 1 ∧ y.inject = true ∧ y.test = true ∧ y.sources = 2 ^ r.u 0 1) ∧
        m.flt.ports = s.m.flt.ports ∧ m.flt.fenced = s.m.flt.fenced ∧ m.flt.engines = s.m.flt.engines ∧
        m.flt.levels = s.m.flt.levels) ∧
    (Runs s.m r 0x0F02 [(0, 1, 8), (4, 4, 32)] → s.m.sec.testMode = false → Completes (.faultInject r) s fun m =>
      m.flt = s.m.flt ∧ Answered m r St.notInTestMode) ∧
    (Runs s.m r 0x0F01 (fragLay r.body 1) → r.u 32 4 = 29856 → r.u 36 4 = 0 → r.u 40 2 = 1984 → s.m.vane.asms = [] →
      Completes (.testModeEnter r) s fun m => Answered m r St.ok (beBytes 4 (29856 - 1984)) ∧ m.sec = s.m.sec ∧
        m.vane.asms.length = 1) ∧
    (Runs s.m r 0x0B01 [(0, 32, 256)] → s.m.sec.identityOk = true → s.m.trk.room 4 = true → s.m.trk.pick = some e →
      e < 2 ^ 14 → Completes (.attest r) s fun m => ∃ h, Deferred m r h 4 ∧ m.sec = s.m.sec) ∧
    (Runs s.m r 0x0B02 (fragLay r.body 1) → 1984 < r.u 32 4 → r.u 32 4 ≤ 2 ^ 24 → r.u 32 4 % 16 = 0 → r.u 36 4 = 0 →
      r.u 40 2 = 1984 → s.m.vane.asms = [] → s.m.staging = false → s.m.otherBank < s.m.sec.banks.length →
      Completes (.firmwareStage r) s fun m => Answered m r St.ok (beBytes 4 (r.u 32 4 - 1984)) ∧
        m.sec.bankSt s.m.otherBank = 3 ∧ m.sec.running = s.m.sec.running ∧ m.vane.asms.length = 1) ∧
    (Runs s.m r 0x0B03 [(0, 1, 8), (1, 1, 1)] → r.u 0 1 ≤ 1 → r.u 1 1 = 0 → bank.st = 2 →
      bank.reads (if r.u 0 1 = 0 then i.bankA else i.bankB) = true → s.m.minVersion ≤ s.m.sec.version (r.u 0 1) →
      s.m.keep.valid = true → Completes (.firmwareActivate r i) s fun m => Answered m r St.ok ∧
        m.bootBank = r.u 0 1 ∧ m.sec = s.m.sec ∧ m.pwr.main = s.m.pwr.main) ∧
    (Runs s.m r 0x0B03 [(0, 1, 8), (1, 1, 1)] → r.u 0 1 ≤ 1 → bank.st ≠ 3 →
      bank.reads (if r.u 0 1 = 0 then i.bankA else i.bankB) = false → Completes (.firmwareActivate r i) s fun m =>
      Answered m r St.signatureBad ∧ m.sec = s.m.sec ∧ m.keep = s.m.keep)

/-- Resets (R466, R489, R496 to R498, R501): kinds 0, 1 and 3 end factory test mode, empty the queues, the tracker and the
contexts, stop every engine and keep the count of the FTC; kind 2 takes one port down, clears ADMIT_AUTO where HOLD_ADMIT
is set (R502, log entry 109) and leaves the objects as they were, and memory where no packet was arriving there. Memory
that a reset loses reads as zero by the model's choice (log entry 4). -/
def Obligations.ResetsStopAndKeep : Prop :=
  ∀ (s : State) (r : CmdReq) (i : StartIn),
    let After (m : Module) : Prop := m.sec.testMode = false ∧ m.vane.hostQ = [] ∧ m.vane.sideQ = [] ∧
      m.trk.ents.cells = [] ∧ m.coll.ctxs.cells = [] ∧ m.engs.cells = [] ∧ m.net.handed = [] ∧ m.now = s.m.now ∧
      m.pwr.booted = true ∧ m.pwr.lull = 0
    (Runs s.m r 0x0904 (resetLay r) → r.u 0 1 = 0 → Completes (.resetWarm r i) s fun m => After m ∧
      m.store.objs.cells = [] ∧ ∀ a, m.mem.byte a = 0) ∧
    (Runs s.m r 0x0904 (resetLay r) → r.u 0 1 = 1 → s.m.pwr.main = true →
      s.m.store.objs.wf = true → Completes (.resetWarmStoreKept r i) s fun m =>
      After m ∧ m.net.route = s.m.net.route ∧ m.net.mcast = s.m.net.mcast ∧
        ∀ k, (m.obj k).version = (s.m.obj k).version ∧ (m.obj k).dirty = (s.m.obj k).dirty ∧
          (m.obj k).claims = [] ∧ (m.obj k).job = none) ∧
    (Runs s.m r 0x0904 (resetLay r) → r.u 0 1 = 3 → Completes (.resetCold r i) s fun m => After m ∧
      m.store.objs.cells = [] ∧ m.sec.identityOk = s.m.sec.identityOk ∧ ∀ a, m.mem.byte a = 0) ∧
    (Runs s.m r 0x0904 (resetLay r) → r.u 0 1 = 2 → Completes (.resetPort r) s fun m =>
      (m.link (r.u 1 1)).st = 0 ∧ (m.link (r.u 1 1)).isolated = (s.m.link (r.u 1 1)).isolated ∧
      (m.wire (r.u 1 1)).replay = [] ∧ m.store.objs = s.m.store.objs ∧ m.sec.testMode = s.m.sec.testMode ∧
      (s.m.keep.field 0x010 1 1 = 1 → ∀ d, d < 8 → m.reg (swBlk d 5) 0x000 0 = 0) ∧
      ((s.m.wire (r.u 1 1)).arriving = none → m.mem = s.m.mem))

/-- The tracker and control space (R439, R440, R446, R449 to R451): a status is the entry's image; an abort of an open
deferred command moves it to ABORTING and waits, and one of an entry that is over is ALREADY_COMPLETE; an entry whose work
is over sends its final report and is done; register reads return the words of the control space, and a write stores its
registers, or none of them where one is illegal. -/
def Obligations.TrackerAndControlSpace : Prop :=
  ∀ (s : State) (r q : CmdReq) (e : TEnt) (k : Nat) (l : List RegW),
    let n := begun s.m r
    let h := r.u 4 4
    let words := (List.range (r.u 8 2)).map fun j => r.u (16 + 4 * j) 4
    let us := (l.map fun x => unit 0x12 x.blk).eraseDups
    (Runs s.m r 0x0C03 [(0, 1, 8), (4, 4, 32)] → r.u 0 1 = 0 → s.m.trk.find h = some e → e.kind = 4 →
      Completes (.opStatus r) s fun m => m.trk = s.m.trk ∧ Answered m r St.ok e.image h) ∧
    (Runs s.m r 0x0C04 [(0, 1, 8), (4, 4, 32)] → r.u 0 1 = 0 → s.m.trk.find h = some e → e.kind = 4 → e.st = 1 →
      e.side = r.side → Completes (.opAbort r) s fun m => ∃ t, m.trk.find h = some t ∧ t.st = 4 ∧
        t.aborts = e.aborts ++ [r] ∧ m.store = s.m.store) ∧
    (Runs s.m r 0x0C04 [(0, 1, 8), (4, 4, 32)] → r.u 0 1 = 0 → s.m.trk.find h = some e → e.kind = 4 → e.st = 3 →
      e.side = r.side → Completes (.opAbort r) s fun m => m.trk = s.m.trk ∧ Answered m r St.alreadyComplete e.image h) ∧
    (s.m.vaneUp = true → k < 2 ^ 14 → s.m.trk.ents.get k = e → e.handle % 2 ^ 14 = k → e.handle ≠ 0 → e.kind = 3 →
      e.ended = true → e.st = 2 → e.req = some q → e.aborts = [] → e.status ≠ St.busy →
      (∃ c ∈ s.m.vane.cache q.side, c.keyOf q = true ∧ c.body = q.body ∧ c.final = [] ∧
        ∃ x, c.first = some x ∧ fieldBE x.pl 4 4 = e.handle) →
      Completes (.entryFinish k) s fun m => (m.trk.ents.get k).st = 3 ∧ (m.trk.ents.get k).ftcEnd = s.m.now ∧
        (m.trk.ents.get k).status = e.status ∧ m.trk.done = s.m.trk.done ++ [k] ∧
        Answered m q e.status e.data e.handle ∧ ∀ j, j ≠ k → m.trk.ents.get j = s.m.trk.ents.get j) ∧
    (Runs s.m r 0x0C05 [(0, 1, 8), (16, 2, 16), (18, 2, 16), (20, 2, 16)] → r.u 0 1 = 1 → (blkKind (r.u 16 2)).isSome →
      r.u 18 2 % 8 = 0 → r.u 20 2 ≤ 252 → Completes (.countersRead r) s fun m => Answered m r St.ok (beBytes 8 s.m.now ++
        (List.range (r.u 20 2)).flatMap fun j => beBytes 8 (n.regVal (r.u 16 2) (r.u 18 2 + 8 * j)))) ∧
    (Runs s.m r 0x0C06 [(0, 8, 64), (8, 2, 16)] → regRange r = true → Completes (.regRead r) s fun m =>
      Answered m r St.ok (n.readCtl (r.u 0 8) (r.u 8 2)) ∧ m.mem = s.m.mem ∧ m.store = s.m.store) ∧
    (Runs s.m r 0x0C07 [(0, 8, 64), (8, 2, 16), (16, 4 * r.u 8 2, 32 * r.u 8 2)] → regRange r = true →
      regsOfWords (r.u 0 8) words = some l → (∀ u ∈ us, s.m.mayChange r u = true) →
      (Legal n r l → (∀ x ∈ l, blkKind x.blk = some .coll) → (l.map fun x => (x.blk, x.off)).Nodup →
        Completes (.regWrite r) s fun m => Answered m r St.ok ∧ Stored m l) ∧
      ((∃ x ∈ l, n.regStatus (l.foldl (fun m x => m.store1 x) n) r.side x ≠ St.ok) → Completes (.regWrite r) s fun m =>
        m.keep = s.m.keep ∧ m.net.route = s.m.net.route ∧ m.ports = s.m.ports ∧
        ∀ x ∈ l, ∀ f ∈ fieldsAt x.blk x.off, f.1.acc = .rw → m.reg x.blk x.off f.1.lo = s.m.reg x.blk x.off f.1.lo))

/-! ### What a command leaves unchanged -/

namespace Sys2Proof.Claims

/-- Commands that may change memory. -/
def changesMem : Instr → Bool
  | .standbyPowerOff | .brownout | .hardwareTrip | .enable .. | .equaliseTimeout .. | .alignTimeout ..
  | .switchFrameReached .. | .helloTimeout .. | .markerLoss .. | .rerouteQueued .. | .packetArrival ..
  | .mcastReplication .. | .packetTailArrival .. | .write .. | .readReq .. | .fetchAdd .. | .fetchAnd .. | .fetchOr ..
  | .fetchXor .. | .fetchMaxS .. | .fetchMinS .. | .fetchMaxU .. | .fetchMinU .. | .swap .. | .compareSwap ..
  | .egressStart .. | .packetSent .. | .originatedPacketWait .. | .calmEntry .. | .portConfig .. | .routeWrite ..
  | .calmWrite .. | .partitionConfig .. | .vcConfig .. | .shaperConfig .. | .policerConfig .. | .redProfile ..
  | .windsockConfig .. | .storeCreate .. | .storeResize .. | .storePlace .. | .storeMigrate ..
  | .migrationSegmentDone .. | .storeDelete .. | .tileRetire .. | .scrubTile .. | .launchReached
  | .engineAccessDone .. | .attnFinal .. | .updateSgdm .. | .updateAdamw .. | .compact .. | .convert .. | .collJoin ..
  | .contrib .. | .collMask .. | .partialPiece .. | .anchorUp .. | .summary .. | .collGather .. | .tileStepAdmit ..
  | .resultTile .. | .resultMask .. | .anchorDown .. | .checked .. | .complete .. | .lossNotice .. | .collAck ..
  | .subtreeDone .. | .failureNotice .. | .noContextAnswer .. | .xchgSend .. | .xchgCarry .. | .xchgRow ..
  | .xchgColumn .. | .joinTimeout .. | .dataTimeout .. | .ackTimeout .. | .probeTimer .. | .timeConfig ..
  | .powerCap .. | .paceConfig .. | .lullEnter .. | .lullIdleSet .. | .resetWarm .. | .resetWarmStoreKept ..
  | .resetPort .. | .resetCold .. | .faultRaise .. | .graceExpiry | .severitySet .. | .firmwareActivate ..
  | .opAbort .. | .regWrite .. => true
  | _ => false

/-- Commands that may change the context store. -/
def changesStore : Instr → Bool
  | .coldStart .. | .standbyPowerOff | .brownout | .inputRestored .. | .hardwareTrip | .localDelivery ..
  | .reorderCommit .. | .windowOffer .. | .gapTimeout .. | .write .. | .readReq .. | .fetchAdd .. | .fetchAnd ..
  | .fetchOr .. | .fetchXor .. | .fetchMaxS .. | .fetchMinS .. | .fetchMaxU .. | .fetchMinU .. | .swap ..
  | .compareSwap .. | .fence .. | .restartFence .. | .fenceAckReceived .. | .calmEntry .. | .calmSinkDelivery ..
  | .portConfig .. | .calmWrite .. | .partitionConfig .. | .vcConfig .. | .shaperConfig .. | .policerConfig ..
  | .redProfile .. | .windsockConfig .. | .storeCreate .. | .storeResize .. | .storePlace .. | .storeMigrate ..
  | .migrationSegmentDone .. | .storeCommit .. | .storeSeal .. | .sealDigestDone .. | .storeUnseal ..
  | .storeDigest .. | .digestDone .. | .storeDelete .. | .tileRetire .. | .scrubTile .. | .heatHalving
  | .kernelInvoke .. | .runDispatch .. | .launchReached | .runTimeLimit .. | .engineAccessDone .. | .halt ..
  | .trap .. | .verq .. | .ldt .. | .stt .. | .vchain .. | .cvt .. | .fenceInstr .. | .acq .. | .emit .. | .strm ..
  | .attnPartial .. | .attnFinal .. | .updateSgdm .. | .updateAdamw .. | .gather .. | .compact .. | .convert ..
  | .collJoin .. | .contrib .. | .collMask .. | .partialPiece .. | .anchorUp .. | .summary .. | .collGather ..
  | .tileStepAdmit .. | .resultTile .. | .resultMask .. | .anchorDown .. | .checked .. | .complete .. | .lossNotice ..
  | .collAck .. | .subtreeDone .. | .failureNotice .. | .noContextAnswer .. | .xchgSend .. | .xchgCarry ..
  | .xchgRow .. | .xchgColumn .. | .joinTimeout .. | .dataTimeout .. | .ackTimeout .. | .probeTimer ..
  | .timeSample .. | .ptpSync .. | .stepNow | .timeConfig .. | .powerCap .. | .paceConfig .. | .lullEnter ..
  | .lullIdleSet .. | .resetWarm .. | .resetWarmStoreKept .. | .resetCold .. | .graceExpiry | .faultClear ..
  | .severitySet .. | .firmwareActivate .. | .opAbort .. | .regWrite .. => true
  | _ => false

/-- Commands that may change the security state. -/
def changesSec : Instr → Bool
  | .coldStart .. | .standbyPowerOff | .enable .. | .downTimerExpiry .. | .fenceAckReceived ..
  | .poolConversionDone .. | .assemblyTimeout .. | .portConfig .. | .calmWrite .. | .partitionConfig .. | .vcConfig ..
  | .shaperConfig .. | .policerConfig .. | .redProfile .. | .windsockConfig .. | .runTimeLimit ..
  | .engineAccessDone .. | .halt .. | .trap .. | .verq .. | .ldt .. | .stt .. | .vchain .. | .cvt .. | .fenceInstr ..
  | .acq .. | .emit .. | .strm .. | .attnPartial .. | .attnFinal .. | .updateSgdm .. | .updateAdamw .. | .gather ..
  | .compact .. | .convert .. | .timeConfig .. | .powerCap .. | .paceConfig .. | .lullEnter .. | .lullIdleSet ..
  | .resetWarm .. | .resetWarmStoreKept .. | .resetCold .. | .graceExpiry | .severitySet .. | .firmwareStage ..
  | .firmwareActivate .. | .opAbort .. | .entryFinish .. | .regWrite .. | .testModeEnter .. => true
  | _ => false

/-- Commands that may change the programs or a dispatcher. -/
def changesKern : Instr → Bool
  | .coldStart .. | .standbyPowerOff | .brownout | .inputRestored .. | .hardwareTrip | .fenceAckReceived ..
  | .programLoad .. | .programUnload .. | .kernelRun .. | .kernelInvoke .. | .runDispatch .. | .runTimeLimit ..
  | .engineAccessDone .. | .halt .. | .trap .. | .verq .. | .ldt .. | .stt .. | .vchain .. | .cvt .. | .fenceInstr ..
  | .acq .. | .emit .. | .strm .. | .attnPartial .. | .attnFinal .. | .updateSgdm .. | .updateAdamw .. | .gather ..
  | .compact .. | .convert .. | .resetWarm .. | .resetWarmStoreKept .. | .resetCold .. | .graceExpiry
  | .firmwareActivate .. | .opAbort .. => true
  | _ => false

/-- Commands that may change groups and contexts. -/
def changesColl : Instr → Bool
  | .standbyPowerOff | .brownout | .hardwareTrip | .groupCreate .. | .groupMembers .. | .groupPlan ..
  | .groupDelete .. | .launchReached | .collJoin .. | .contrib .. | .collMask .. | .partialPiece .. | .anchorUp ..
  | .summary .. | .collGather .. | .tileStepAdmit .. | .resultTile .. | .resultMask .. | .anchorDown .. | .checked ..
  | .complete .. | .lossNotice .. | .collAck .. | .subtreeDone .. | .failureNotice .. | .noContextAnswer ..
  | .xchgSend .. | .xchgCarry .. | .xchgRow .. | .xchgColumn .. | .joinTimeout .. | .dataTimeout .. | .ackTimeout ..
  | .probeTimer .. | .resetWarm .. | .resetWarmStoreKept .. | .resetCold .. | .graceExpiry | .firmwareActivate ..
  | .opAbort .. => true
  | _ => false

/-- Commands that may change an engine. -/
def changesEngs : Instr → Bool
  | .standbyPowerOff | .brownout | .hardwareTrip | .fenceAckReceived .. | .runDispatch .. | .runTimeLimit ..
  | .engineAccessDone .. | .waitcDone .. | .halt .. | .trap .. | .alu .. | .addi .. | .andi .. | .ori .. | .xori ..
  | .shi .. | .lih .. | .beq .. | .bne .. | .blt .. | .bltu .. | .jmp .. | .loop .. | .rdftc .. | .waitc .. | .verq ..
  | .ldt .. | .stt .. | .movts .. | .movst .. | .mac .. | .vchain .. | .scan .. | .red .. | .cvt .. | .maskop ..
  | .mpop .. | .mrange .. | .movm .. | .fenceInstr .. | .acq .. | .emit .. | .tcopy .. | .strm .. | .attnPartial ..
  | .attnFinal .. | .updateSgdm .. | .updateAdamw .. | .gather .. | .compact .. | .convert .. | .resetWarm ..
  | .resetWarmStoreKept .. | .resetCold .. | .graceExpiry | .firmwareActivate .. | .opAbort .. => true
  | _ => false

/-- Commands that may change a sequence, sent or received. -/
def changesOrd : Instr → Bool
  | .standbyPowerOff | .brownout | .hardwareTrip | .localDelivery .. | .reorderCommit .. | .windowOffer ..
  | .gapTimeout .. | .restartFence .. | .fenceAckReceived .. | .calmSinkDelivery .. | .keepWrite .. | .portConfig ..
  | .cablingLoad .. | .calmWrite .. | .partitionConfig .. | .vcConfig .. | .shaperConfig .. | .policerConfig ..
  | .redProfile .. | .windsockConfig .. | .runTimeLimit .. | .engineAccessDone .. | .halt .. | .trap .. | .verq ..
  | .ldt .. | .stt .. | .vchain .. | .cvt .. | .fenceInstr .. | .acq .. | .emit .. | .strm .. | .attnPartial ..
  | .attnFinal .. | .updateSgdm .. | .updateAdamw .. | .gather .. | .compact .. | .convert .. | .timeConfig ..
  | .powerCap .. | .paceConfig .. | .lullEnter .. | .lullIdleSet .. | .resetWarm .. | .resetWarmStoreKept ..
  | .resetCold .. | .faultRaise .. | .graceExpiry | .faultClear .. | .severitySet .. | .firmwareActivate ..
  | .opAbort .. | .regWrite .. => true
  | _ => false

/-- Commands that may change the operation tracker. -/
def changesTrk : Instr → Bool
  | .standbyPowerOff | .brownout | .hardwareTrip | .fenceAckReceived .. | .keepWrite .. | .portConfig ..
  | .cablingLoad .. | .routeWrite .. | .eddySetWrite .. | .pinWrite .. | .pinRemove .. | .calmWrite ..
  | .partitionConfig .. | .vcConfig .. | .shaperConfig .. | .policerConfig .. | .redProfile .. | .windsockConfig ..
  | .groupCreate .. | .groupMembers .. | .groupPlan .. | .groupDelete .. | .mcastConfig .. | .storeCreate ..
  | .storeResize .. | .storePlace .. | .storeMigrate .. | .migrationSegmentDone .. | .storeCommit .. | .storeSeal ..
  | .sealDigestDone .. | .storeUnseal .. | .storeDigest .. | .digestDone .. | .storeDelete .. | .tileRetire ..
  | .programLoad .. | .programUnload .. | .kernelRun .. | .kernelInvoke .. | .runDispatch .. | .launchReached
  | .runTimeLimit .. | .engineAccessDone .. | .halt .. | .trap .. | .verq .. | .ldt .. | .stt .. | .vchain ..
  | .cvt .. | .fenceInstr .. | .acq .. | .emit .. | .strm .. | .attnPartial .. | .attnFinal .. | .updateSgdm ..
  | .updateAdamw .. | .gather .. | .compact .. | .convert .. | .collJoin .. | .contrib .. | .collMask ..
  | .partialPiece .. | .anchorUp .. | .summary .. | .collGather .. | .tileStepAdmit .. | .resultTile ..
  | .resultMask .. | .anchorDown .. | .checked .. | .complete .. | .lossNotice .. | .collAck .. | .subtreeDone ..
  | .failureNotice .. | .xchgSend .. | .xchgCarry .. | .xchgRow .. | .xchgColumn .. | .joinTimeout ..
  | .dataTimeout .. | .ackTimeout .. | .probeTimer .. | .timeConfig .. | .resetWarm .. | .resetWarmStoreKept ..
  | .resetCold .. | .graceExpiry | .attest .. | .firmwareStage .. | .firmwareActivate .. | .ownershipTake ..
  | .opAbort .. | .entryFinish .. | .regWrite .. => true
  | _ => false

end Sys2Proof.Claims

/-- The frames of what the module stores: a command outside `changesMem` leaves every byte of memory, one outside
`changesStore` the context store, one outside `changesSec` the security state, and one outside `changesKern` the programs
and the dispatchers as they were. -/
def Obligations.FramesOfWhatIsStored : Prop :=
  ∀ (c : Instr) (s t : State), exec c s = .next t →
    (changesMem c = false → t.m.mem = s.m.mem ∧ ∀ a, t.m.mem.byte a = s.m.mem.byte a) ∧
    (changesStore c = false → t.m.store = s.m.store) ∧
    (changesSec c = false → t.m.sec = s.m.sec) ∧
    (changesKern c = false → t.m.kern = s.m.kern)

/-- The frames of what runs: a command outside `changesColl` leaves the groups and contexts, one outside `changesEngs` every
engine, one outside `changesOrd` the sequences, and one outside `changesTrk` the operation tracker as they were. -/
def Obligations.FramesOfWhatRuns : Prop :=
  ∀ (c : Instr) (s t : State), exec c s = .next t →
    (changesColl c = false → t.m.coll = s.m.coll) ∧ (changesEngs c = false → t.m.engs = s.m.engs) ∧
    (changesOrd c = false → t.m.ord = s.m.ord) ∧ (changesTrk c = false → t.m.trk = s.m.trk)
end

