-- ==== Sys2Proof/Laws/Tab.lean ====
section
/-!
SUPPORT. The laws of the sparse tables and of memory: a row reads back what was put into it, every other row stays,
and every operation keeps the canonical form.
-/
namespace Sys2Proof.Machine

variable {α : Type}

/-! ### Cells -/

theorem lookupCell_eraseCell_same (d : α) (k : Nat) (l : List (Nat × α)) : lookupCell d k (eraseCell k l) = d := by
  induction l with
  | nil => rfl
  | cons c l ih => by_cases h : c.1 = k <;> simp [eraseCell, lookupCell, h, ih]

theorem lookupCell_eraseCell_other (d : α) {j k : Nat} (hjk : j ≠ k) (l : List (Nat × α)) :
    lookupCell d j (eraseCell k l) = lookupCell d j l := by
  induction l with
  | nil => rfl
  | cons c l ih =>
    by_cases h : c.1 = k
    · have : c.1 ≠ j := fun e => hjk (e ▸ h)
      simp [eraseCell, lookupCell, h, ih, Ne.symm hjk]
    · simp [eraseCell, lookupCell, h, ih]

theorem lookupCell_insertCell_same (d : α) (k : Nat) (a : α) (l : List (Nat × α)) :
    lookupCell d k (insertCell k a l) = a := by
  induction l with
  | nil => simp [insertCell, lookupCell]
  | cons c l ih =>
    by_cases h : k < c.1
    · simp [insertCell, lookupCell, h]
    · by_cases e : c.1 = k
      · simp [insertCell, lookupCell, e]
      · simp [insertCell, lookupCell, h, e, ih]

theorem lookupCell_insertCell_other (d : α) {j k : Nat} (hjk : j ≠ k) (a : α) (l : List (Nat × α)) :
    lookupCell d j (insertCell k a l) = lookupCell d j l := by
  have hkj : k ≠ j := Ne.symm hjk
  induction l with
  | nil => simp [insertCell, lookupCell, hkj]
  | cons c l ih =>
    by_cases h : k < c.1
    · simp [insertCell, lookupCell, h, hkj]
    · by_cases e : c.1 = k
      · simp [insertCell, lookupCell, e, hkj]
      · simp [insertCell, lookupCell, h, e, ih]

/-- Rising keys, as a proposition on the list. -/
theorem risingKeys_iff (l : List (Nat × α)) : risingKeys l = true ↔ l.Pairwise fun a b => a.1 < b.1 := by
  induction l with
  | nil => simp [risingKeys]
  | cons a l ih =>
    cases l with
    | nil => simp [risingKeys]
    | cons b l =>
      rw [risingKeys, Bool.and_eq_true, ih, List.pairwise_cons (a := a), decide_eq_true_iff]
      constructor
      · rintro ⟨hab, hl⟩
        refine ⟨fun c hc => ?_, hl⟩
        rcases List.mem_cons.1 hc with rfl | hc
        · exact hab
        · exact Nat.lt_trans hab ((List.pairwise_cons.1 hl).1 c hc)
      · rintro ⟨ha, hl⟩
        exact ⟨ha b (List.mem_cons_self ..), hl⟩

theorem eraseCell_sublist (k : Nat) (l : List (Nat × α)) : (eraseCell k l).Sublist l := by
  induction l with
  | nil => exact List.Sublist.slnil
  | cons c l ih =>
    by_cases h : c.1 = k
    · simpa [eraseCell, h] using ih.cons c
    · simpa [eraseCell, h] using ih.cons_cons c

theorem mem_insertCell {k : Nat} {a : α} {l : List (Nat × α)} {c : Nat × α} (h : c ∈ insertCell k a l) :
    c = (k, a) ∨ c ∈ l := by
  induction l with
  | nil => simpa [insertCell] using h
  | cons b l ih =>
    by_cases hk : k < b.1
    · simpa [insertCell, hk] using h
    · by_cases e : b.1 = k
      · rw [insertCell, if_neg hk, if_pos (by simpa using e)] at h
        rcases List.mem_cons.1 h with h | h
        · exact .inl h
        · exact .inr (List.mem_cons_of_mem _ h)
      · rw [insertCell, if_neg hk, if_neg (by simpa using e)] at h
        rcases List.mem_cons.1 h with h | h
        · exact .inr (h ▸ List.mem_cons_self ..)
        · exact (ih h).imp id (List.mem_cons_of_mem _)

theorem insertCell_rising (k : Nat) (a : α) (l : List (Nat × α)) (h : l.Pairwise fun x y => x.1 < y.1) :
    (insertCell k a l).Pairwise fun x y => x.1 < y.1 := by
  induction l with
  | nil => simp [insertCell]
  | cons b l ih =>
    obtain ⟨hb, hl⟩ := List.pairwise_cons.1 h
    by_cases hk : k < b.1
    · rw [insertCell, if_pos hk]
      refine List.pairwise_cons.2 ⟨fun c hc => ?_, h⟩
      rcases List.mem_cons.1 hc with rfl | hc
      · exact hk
      · exact Nat.lt_trans hk (hb c hc)
    · by_cases e : b.1 = k
      · rw [insertCell, if_neg hk, if_pos (by simpa using e)]
        exact List.pairwise_cons.2 ⟨fun c hc => by simpa [e] using hb c hc, hl⟩
      · rw [insertCell, if_neg hk, if_neg (by simpa using e)]
        refine List.pairwise_cons.2 ⟨fun c hc => ?_, ih hl⟩
        rcases mem_insertCell hc with rfl | hc
        · exact lt_of_le_of_ne (Nat.le_of_not_lt hk) e
        · exact hb c hc

/-! ### Tables -/

/-- The canonical form as a proposition. -/
theorem Tab.wf_iff [Inhabited α] [DecidableEq α] (t : Tab α) :
    t.wf = true ↔ t.cells.Pairwise (fun a b => a.1 < b.1) ∧ ∀ c ∈ t.cells, c.2 ≠ default := by
  simp [Tab.wf, risingKeys_iff]

/-- A table that lists part of what a canonical one lists is canonical. -/
theorem Tab.wf_of_sublist [Inhabited α] [DecidableEq α] {t u : Tab α} (h : u.cells.Sublist t.cells) (ht : t.wf = true) :
    u.wf = true := by
  rw [Tab.wf_iff] at ht ⊢
  exact ⟨ht.1.sublist h, fun c hc => ht.2 c (h.subset hc)⟩

@[simp] theorem Tab.wf_empty [Inhabited α] [DecidableEq α] : ({} : Tab α).wf = true := rfl

theorem Tab.put_wf [Inhabited α] [DecidableEq α] {t : Tab α} (h : t.wf = true) (k : Nat) (a : α) :
    (t.put k a).wf = true := by
  by_cases ha : a = default
  · rw [Tab.put, if_pos ha]; exact Tab.wf_of_sublist (eraseCell_sublist k t.cells) h
  · rw [Tab.put, if_neg ha, Tab.wf_iff]
    rw [Tab.wf_iff] at h
    refine ⟨insertCell_rising k a _ h.1, fun c hc => ?_⟩
    rcases mem_insertCell hc with rfl | hc
    · exact ha
    · exact h.2 c hc

theorem Tab.upd_wf [Inhabited α] [DecidableEq α] {t : Tab α} (h : t.wf = true) (k : Nat) (f : α → α) :
    (t.upd k f).wf = true := Tab.put_wf h k _

theorem Tab.del_wf [Inhabited α] [DecidableEq α] {t : Tab α} (h : t.wf = true) (k : Nat) : (t.del k).wf = true :=
  Tab.wf_of_sublist (eraseCell_sublist k t.cells) h

theorem Tab.keep_wf [Inhabited α] [DecidableEq α] {t : Tab α} (h : t.wf = true) (p : Nat → α → Bool) :
    (t.keep p).wf = true := Tab.wf_of_sublist List.filter_sublist h

/-- A row reads back what was put into it. -/
@[simp] theorem Tab.get_put_same [Inhabited α] [DecidableEq α] (t : Tab α) (k : Nat) (a : α) : (t.put k a).get k = a := by
  by_cases h : a = default
  · simp [Tab.put, Tab.get, h, lookupCell_eraseCell_same]
  · simp [Tab.put, Tab.get, h, lookupCell_insertCell_same]

/-- Every other row stays. -/
theorem Tab.get_put_other [Inhabited α] [DecidableEq α] (t : Tab α) {j k : Nat} (h : j ≠ k) (a : α) :
    (t.put k a).get j = t.get j := by
  by_cases e : a = default
  · simp [Tab.put, Tab.get, e, lookupCell_eraseCell_other _ h]
  · simp [Tab.put, Tab.get, e, lookupCell_insertCell_other _ h]

@[simp] theorem Tab.get_upd_same [Inhabited α] [DecidableEq α] (t : Tab α) (k : Nat) (f : α → α) :
    (t.upd k f).get k = f (t.get k) := Tab.get_put_same t k _

theorem Tab.get_upd_other [Inhabited α] [DecidableEq α] (t : Tab α) {j k : Nat} (h : j ≠ k) (f : α → α) :
    (t.upd k f).get j = t.get j := Tab.get_put_other t h _

@[simp] theorem Tab.get_del_same [Inhabited α] (t : Tab α) (k : Nat) : (t.del k).get k = default :=
  lookupCell_eraseCell_same _ k t.cells

theorem Tab.get_del_other [Inhabited α] (t : Tab α) {j k : Nat} (h : j ≠ k) : (t.del k).get j = t.get j :=
  lookupCell_eraseCell_other _ h t.cells

@[simp] theorem Tab.get_empty [Inhabited α] (k : Nat) : ({} : Tab α).get k = default := rfl

/-! ### Memory -/
namespace Memory

/-- A row of a list of cells that holds none of that key reads as the default. -/
theorem lookupCell_absent (d : α) {k : Nat} {l : List (Nat × α)} (h : ∀ c ∈ l, c.1 ≠ k) : lookupCell d k l = d := by
  induction l with
  | nil => rfl
  | cons c l ih =>
    rw [lookupCell, if_neg (by simpa using h c (List.mem_cons_self ..)), ih fun b hb => h b (List.mem_cons_of_mem _ hb)]

/-- Filtering cells by their key keeps the rows whose key passes. -/
theorem lookupCell_filter (d : α) {k : Nat} (p : Nat → Bool) (hk : p k = true) (l : List (Nat × α)) :
    lookupCell d k (l.filter fun c => p c.1) = lookupCell d k l := by
  induction l with
  | nil => rfl
  | cons c l ih =>
    by_cases e : c.1 = k
    · simp [lookupCell, e, hk]
    · by_cases hp : p c.1 = true <;> simp [lookupCell, e, hp, ih]

theorem lookupCell_append_absent (d : α) {k : Nat} {l : List (Nat × α)} (h : ∀ c ∈ l, c.1 ≠ k) (r : List (Nat × α)) :
    lookupCell d k (l ++ r) = lookupCell d k r := by
  induction l with
  | nil => rfl
  | cons c l ih =>
    rw [List.cons_append, lookupCell, if_neg (by simpa using h c (List.mem_cons_self ..)),
      ih fun b hb => h b (List.mem_cons_of_mem _ hb)]

theorem lookupCell_append_of_absent_right (d : α) {k : Nat} (l : List (Nat × α)) {r : List (Nat × α)}
    (h : ∀ c ∈ r, c.1 ≠ k) : lookupCell d k (l ++ r) = lookupCell d k l := by
  induction l with
  | nil => exact lookupCell_absent d h
  | cons c l ih => by_cases e : c.1 = k <;> simp [lookupCell, e, ih]

theorem listed_range (a : Nat) (l : Bytes) : ∀ c ∈ listed a l, a ≤ c.1 ∧ c.1 < a + l.length ∧ c.2 ≠ 0 := by
  induction l generalizing a with
  | nil => simp [listed]
  | cons b l ih =>
    intro c hc
    by_cases hb : b = 0
    · rw [listed, if_pos hb] at hc
      have := ih (a + 1) c hc
      simp only [List.length_cons]; exact ⟨by omega, by omega, this.2.2⟩
    · rw [listed, if_neg hb] at hc
      rcases List.mem_cons.1 hc with rfl | hc
      · exact ⟨Nat.le_refl _, by simp, hb⟩
      · have := ih (a + 1) c hc
        simp only [List.length_cons]; exact ⟨by omega, by omega, this.2.2⟩

theorem listed_rising (a : Nat) (l : Bytes) : (listed a l).Pairwise fun x y => x.1 < y.1 := by
  induction l generalizing a with
  | nil => simp [listed]
  | cons b l ih =>
    by_cases hb : b = 0
    · rw [listed, if_pos hb]; exact ih (a + 1)
    · rw [listed, if_neg hb]
      exact List.pairwise_cons.2 ⟨fun c hc => (listed_range (a + 1) l c hc).1, ih (a + 1)⟩

theorem lookupCell_listed (a : Nat) (l : Bytes) (i : Nat) (hi : i < l.length) :
    lookupCell 0 (a + i) (listed a l) = l.getD i 0 := by
  induction l generalizing a i with
  | nil => simp at hi
  | cons b l ih =>
    cases i with
    | zero =>
      by_cases hb : b = 0
      · rw [listed, if_pos hb, lookupCell_absent _ fun c hc => by have := (listed_range (a + 1) l c hc).1; omega]
        simp [hb]
      · rw [listed, if_neg hb]; simp [lookupCell]
    | succ i =>
      have := ih (a + 1) i (by simpa using hi)
      rw [show a + 1 + i = a + (i + 1) by omega] at this
      by_cases hb : b = 0
      · rw [listed, if_pos hb]; simpa using this
      · rw [listed, if_neg hb]; simpa [lookupCell] using this

theorem write_wf {m : Memory} (h : m.wf = true) (a : Nat) (l : Bytes) : (m.write a l).wf = true := by
  rw [Memory.wf, Tab.wf_iff] at h ⊢
  obtain ⟨hr, hd⟩ := h
  refine ⟨?_, ?_⟩
  · simp only [write, List.append_assoc]
    refine List.pairwise_append.2 ⟨hr.sublist List.filter_sublist, List.pairwise_append.2
      ⟨listed_rising a l, hr.sublist List.filter_sublist, ?_⟩, ?_⟩
    · intro x hx y hy
      have := listed_range a l x hx
      have := (List.mem_filter.1 hy).2
      simp at this; omega
    · intro x hx y hy
      have hx := (List.mem_filter.1 hx).2
      simp at hx
      rcases List.mem_append.1 hy with hy | hy
      · have := listed_range a l y hy; omega
      · have := (List.mem_filter.1 hy).2; simp at this; omega
  · intro c hc
    simp only [write, List.append_assoc] at hc
    rcases List.mem_append.1 hc with hc | hc
    · exact hd c (List.mem_filter.1 hc).1
    · rcases List.mem_append.1 hc with hc | hc
      · exact (listed_range a l c hc).2.2
      · exact hd c (List.mem_filter.1 hc).1

theorem erase_wf {m : Memory} (h : m.wf = true) (a n : Nat) : (m.erase a n).wf = true :=
  Tab.wf_of_sublist List.filter_sublist h

/-- A byte inside the bytes written reads as written. -/
theorem byte_write_in (m : Memory) (a : Nat) (l : Bytes) (i : Nat) (hi : i < l.length) :
    (m.write a l).byte (a + i) = l.getD i 0 := by
  simp only [byte, Tab.get, write, List.append_assoc]
  rw [lookupCell_append_absent _ fun c hc => by have := (List.mem_filter.1 hc).2; simp at this; omega,
    lookupCell_append_of_absent_right _ _ fun c hc => by have := (List.mem_filter.1 hc).2; simp at this; omega]
  exact lookupCell_listed a l i hi

/-- A byte outside the bytes written stays. -/
theorem byte_write_out (m : Memory) (a : Nat) (l : Bytes) (x : Nat) (hx : x < a ∨ a + l.length ≤ x) :
    (m.write a l).byte x = m.byte x := by
  simp only [byte, Tab.get, write, List.append_assoc]
  rcases hx with hx | hx
  · rw [lookupCell_append_of_absent_right, lookupCell_filter _ (fun k => decide (k < a)) (by simpa using hx)]
    intro c hc
    rcases List.mem_append.1 hc with hc | hc
    · have := listed_range a l c hc; omega
    · have := (List.mem_filter.1 hc).2; simp at this; omega
  · rw [lookupCell_append_absent, lookupCell_append_absent,
      lookupCell_filter _ (fun k => decide (a + l.length ≤ k)) (by simpa using hx)]
    · intro c hc; have := listed_range a l c hc; omega
    · intro c hc; have := (List.mem_filter.1 hc).2; simp at this; omega

theorem byte_erase_in (m : Memory) (a n x : Nat) (h : a ≤ x ∧ x < a + n) : (m.erase a n).byte x = 0 := by
  refine lookupCell_absent _ fun c hc e => ?_
  have := (List.mem_filter.1 hc).2
  simp at this; omega

theorem byte_erase_out (m : Memory) (a n x : Nat) (h : x < a ∨ a + n ≤ x) : (m.erase a n).byte x = m.byte x :=
  lookupCell_filter _ (fun k => !(decide (a ≤ k) && decide (k < a + n))) (by simp; omega) m.cells

end Memory

end Sys2Proof.Machine
end

