-- ==== Sys2Proof/Laws/Canon.lean ====
section
/-!
SUPPORT. The canonical form of the module's tables (Canon, Safety.lean) under the shapes that the model's operations have:
a record update, a branch, a fold, an operation that answers more than a module.
-/
namespace Sys2Proof.Machine

theorem Tab.mapRows_wf {α : Type} [Inhabited α] [DecidableEq α] {t : Tab α} (h : t.wf = true) (f : α → α) :
    (Tab.mapRows t f).wf = true := by
  unfold Tab.mapRows
  generalize t.keys = l
  induction l generalizing t with
  | nil => exact h
  | cons k l ih => exact ih (Tab.upd_wf h k f)

/-! ### The parts -/

theorem Canon.regs {m : Module} (h : Canon m) : m.regs.wf = true := h.1
theorem Canon.mem {m : Module} (h : Canon m) : Memory.wf m.mem = true := h.2.1
theorem Canon.ports {m : Module} (h : Canon m) : m.ports.wf = true := h.2.2.1
theorem Canon.dies {m : Module} (h : Canon m) : m.dies.wf = true := h.2.2.2.1
theorem Canon.engs {m : Module} (h : Canon m) : m.engs.wf = true := h.2.2.2.2

/-! ### Operations that answer a module and more, or perhaps none -/

/-- The module of a pair is canonical. -/
def Canon1 {γ : Type} (x : Module × γ) : Prop := Canon x.1

/-- The module of an answer, where there is one, is canonical. -/
structure CanonO (o : Option Module) : Prop where
  get : ∀ y, o = some y → Canon y

/-- The same for an answer of a module and something more. -/
structure CanonOP {γ : Type} (o : Option (Module × γ)) : Prop where
  get : ∀ y w, o = some (y, w) → Canon y

theorem canon1_mk_eq {γ : Type} {m : Module} {w : γ} : Canon1 (m, w) = Canon m := rfl
theorem canon_fst_eq {γ : Type} {x : Module × γ} : Canon x.1 = Canon1 x := rfl
theorem Canon1.of_eq {γ : Type} {x : Module × γ} {y : Module} {w : γ} (h : Canon1 x) (e : x = (y, w)) : Canon y := by
  rw [e] at h
  exact h

theorem canonO_none : CanonO none := ⟨fun _ h => nomatch h⟩
theorem canonO_some {m : Module} (h : Canon m) : CanonO (some m) := ⟨fun _ e => Option.some.inj e ▸ h⟩
theorem canonOP_none {γ : Type} : CanonOP (none : Option (Module × γ)) := ⟨fun _ _ h => nomatch h⟩
theorem canonOP_some {γ : Type} {m : Module} {w : γ} (h : Canon m) : CanonOP (some (m, w)) := ⟨fun _ _ e => by
  cases e
  exact h⟩

theorem canon_getD {o : Option Module} {m : Module} (h : CanonO o) (hm : Canon m) : Canon (o.getD m) := by
  cases o with
  | none => exact hm
  | some y => exact h.get y rfl

/-! ### Record updates -/

/-- An update of any other field. -/
theorem canon_lit {m : Module} {a1 a2 a3 a4 a5 a6 a7 a8 a9 a10 a11 a12 a13 a14 a15} :
    Canon ⟨m.regs, m.mem, m.ports, m.dies, a1, a2, a3, a4, a5, a6, a7, a8, a9, a10, m.engs, a11, a12, a13, a14, a15⟩ =
      Canon m := rfl

/-- An update of memory. -/
theorem canon_setMem {m : Module} {x : Memory} (h : Canon m) (hx : Memory.wf x = true) : Canon { m with mem := x } :=
  ⟨h.1, hx, h.2.2⟩

theorem canon_memWrite {m : Module} {x l a1 a2 a3 a4 a5 a6 a7 a8 a9 a10 a11 a12 a13 a14 a15} (h : Canon m) :
    Canon ⟨m.regs, Memory.write m.mem x l, m.ports, m.dies, a1, a2, a3, a4, a5, a6, a7, a8, a9, a10, m.engs, a11, a12,
      a13, a14, a15⟩ := ⟨h.1, Memory.write_wf h.2.1 _ _, h.2.2⟩

theorem canon_memErase {m : Module} {x l a1 a2 a3 a4 a5 a6 a7 a8 a9 a10 a11 a12 a13 a14 a15} (h : Canon m) :
    Canon ⟨m.regs, Memory.erase m.mem x l, m.ports, m.dies, a1, a2, a3, a4, a5, a6, a7, a8, a9, a10, m.engs, a11, a12,
      a13, a14, a15⟩ := ⟨h.1, Memory.erase_wf h.2.1 _ _, h.2.2⟩

theorem mem_empty_wf : Memory.wf {} = true := rfl
theorem keep_wf_mem {m : Memory} (h : Memory.wf m = true) (p : Nat → Byte → Bool) : Memory.wf (Tab.keep m p) = true :=
  Tab.keep_wf h p

/-! ### Branches and folds -/

theorem canon_ite {c : Prop} [Decidable c] {a b : Module} (ha : Canon a) (hb : Canon b) :
    Canon (if c then a else b) := by
  split <;> assumption

theorem canon_ite_fst {γ : Type} {c : Prop} [Decidable c] {a b : Module × γ} (ha : Canon1 a) (hb : Canon1 b) :
    Canon1 (if c then a else b) := by
  split <;> assumption

theorem canonO_ite {c : Prop} [Decidable c] {a b : Option Module} (ha : CanonO a) (hb : CanonO b) :
    CanonO (if c then a else b) := by
  split <;> assumption

theorem wf_ite {α : Type} [Inhabited α] [DecidableEq α] {c : Prop} [Decidable c] {a b : Tab α} (ha : a.wf = true)
    (hb : b.wf = true) : (if c then a else b).wf = true := by
  split <;> assumption

theorem mem_ite {c : Prop} [Decidable c] {a b : Memory} (ha : Memory.wf a = true) (hb : Memory.wf b = true) :
    Memory.wf (if c then a else b) = true := by
  split <;> assumption

theorem canon_foldl {β : Type} {f : Module → β → Module} (hf : ∀ m b, Canon m → Canon (f m b)) {m : Module}
    {l : List β} (h : Canon m) : Canon (l.foldl f m) := by
  induction l generalizing m with
  | nil => exact h
  | cons b l ih => exact ih (hf m b h)

theorem foldl_tuple {β γ : Type} {f : Module × γ → β → Module × γ} (hf : ∀ m b, Canon1 m → Canon1 (f m b))
    {m : Module × γ} {l : List β} (h : Canon1 m) : Canon1 (l.foldl f m) := by
  induction l generalizing m with
  | nil => exact h
  | cons b l ih => exact ih (hf m b h)

end Sys2Proof.Machine
end

