-- ==== Sys2Proof/Laws/CanonRegs.lean ====
section
/-!
SUPPORT. The operations of Machine/Regs.lean keep the canonical form of the module's tables (Safety.lean): one lemma for
each, which proofs about the rows cite.
-/
set_option linter.unusedSimpArgs false
set_option linter.unusedTactic false
set_option linter.unreachableTactic false
namespace Sys2Proof.Machine

theorem canon_setReg {a0 : Module} {a1 a2 a3 a4 : Nat} (h0 : Canon a0) : Canon (a0.setReg a1 a2 a3 a4) :=
  ⟨Tab.put_wf h0.1 _ _, h0.2⟩

theorem canon_count {m : Module} {blk off n : Nat} (hm : Canon m) :
    Canon (m.count blk off n) := by
  unfold Module.count
  repeat' first
    | with_reducible assumption
    | with_reducible apply canon_setReg
    | simp only [canon_lit, canon1_mk_eq, canon_fst_eq]
    | split

theorem canon_setDie {a0 : Module} {a1 : Nat} {a2 : Die} (h0 : Canon a0) : Canon (a0.setDie a1 a2) := by
  simp only [Canon, Module.setDie] at h0 ⊢
  exact ⟨h0.1, h0.2.1, h0.2.2.1, Tab.put_wf h0.2.2.2.1 _ _, h0.2.2.2.2⟩

theorem canon_setPort {a0 : Module} {a1 : Nat} {a2 : Port} (h0 : Canon a0) : Canon (a0.setPort a1 a2) := by
  simp only [Canon, Module.setPort] at h0 ⊢
  exact ⟨h0.1, h0.2.1, Tab.put_wf h0.2.2.1 _ _, h0.2.2.2⟩

theorem canon_setWire {m : Module} {p : Nat} {x : Wire} (hm : Canon m) :
    Canon (m.setWire p x) := by
  unfold Module.setWire
  exact canon_setPort hm

theorem canon_setSched {m : Module} {p : Nat} {x : Sched} (hm : Canon m) :
    Canon (m.setSched p x) := by
  unfold Module.setSched
  exact canon_setPort hm

theorem canon_reach {m : Module} {t : Nat} (hm : Canon m) :
    Canon (m.reach t) := by
  unfold Module.reach
  simp only [canon_lit, canon1_mk_eq]
  exact hm

theorem canon_setLink {m : Module} {p : Nat} {x : Link} (hm : Canon m) :
    Canon (m.setLink p x) := by
  unfold Module.setLink
  exact canon_setPort hm

theorem canon_clearRegs {m : Module} {blk a b : Nat} (hm : Canon m) :
    Canon (m.clearRegs blk a b) := by
  unfold Module.clearRegs
  repeat' first
    | with_reducible assumption
    | simp only [canon_lit, canon1_mk_eq, canon_fst_eq]
    | lift_lets
    | refine ⟨?_, ?_, ?_, ?_, ?_⟩
    | with_reducible apply Canon.regs
    | with_reducible apply Canon.mem
    | with_reducible apply Canon.ports
    | with_reducible apply Canon.dies
    | with_reducible apply Canon.engs
    | with_reducible apply Tab.keep_wf

theorem canon_resetBlocks {m : Module} {p : Nat → Bool} (hm : Canon m) :
    Canon (m.resetBlocks p) := by
  unfold Module.resetBlocks
  repeat' first
    | with_reducible assumption
    | simp only [canon_lit, canon1_mk_eq, canon_fst_eq]
    | lift_lets
    | refine ⟨?_, ?_, ?_, ?_, ?_⟩
    | with_reducible apply Canon.regs
    | with_reducible apply Canon.mem
    | with_reducible apply Canon.ports
    | with_reducible apply Canon.dies
    | with_reducible apply Canon.engs
    | with_reducible apply Tab.keep_wf

theorem canon_pass {m : Module} {t : Nat} (hm : Canon m) :
    Canon (m.pass t) := by
  unfold Module.pass
  repeat' first
    | with_reducible assumption
    | refine fun _ => ?_
    | with_reducible apply canon_foldl
    | with_reducible apply canon_ite
    | simp only [canon_lit, canon1_mk_eq, canon_fst_eq]
    | lift_lets
    | split

theorem canon_tick {m : Module} (hm : Canon m) :
    Canon (m.tick) := by
  unfold Module.tick
  simp only [canon_lit, canon1_mk_eq]
  exact hm

end Sys2Proof.Machine
end

