-- ==== Sys2Proof/Laws/CanonOps.lean ====
section
/-!
SUPPORT. The operations of Machine/Ops.lean keep the canonical form of the module's tables (Safety.lean): one lemma for
each, which proofs about the rows cite.
-/
set_option linter.unusedSimpArgs false
set_option linter.unusedTactic false
set_option linter.unreachableTactic false
namespace Sys2Proof.Machine

theorem canon_updEntry {m : Module} {h : Nat} {f : TEnt → TEnt} (hm : Canon m) :
    Canon (m.updEntry h f) := by
  unfold Module.updEntry
  simp only [canon_lit, canon1_mk_eq]
  exact hm

theorem canon_eventTo {m : Module} {slot code : Nat} {pl : Bytes} (hm : Canon m) :
    Canon (m.eventTo slot code pl) := by
  unfold Module.eventTo
  repeat' first
    | with_reducible assumption
    | with_reducible apply canon_count
    | with_reducible apply canon_ite
    | simp only [canon_lit, canon1_mk_eq, canon_fst_eq]

theorem canon_wake {m : Module} {cause : Nat} (hm : Canon m) :
    Canon (m.wake cause) := by
  unfold Module.wake
  repeat' first
    | with_reducible assumption
    | with_reducible apply canon_ite
    | simp only [canon_lit, canon1_mk_eq, canon_fst_eq]

theorem canon_event {m : Module} {code : Nat} {pl : Bytes} (hm : Canon m) :
    Canon (m.event code pl) := by
  unfold Module.event
  repeat' first
    | with_reducible assumption
    | refine fun _ => ?_
    | with_reducible apply canon_eventTo
    | with_reducible apply canon_wake
    | with_reducible apply canon_foldl
    | with_reducible apply canon_ite

theorem canon_originate {m : Module} {p : Pkt} {die out : Option Nat} {ev : Bool} {outs : List (Option Nat × Hdr)} (hm : Canon m) :
    Canon (m.originate p die out ev outs) := by
  unfold Module.originate
  repeat' first
    | with_reducible assumption
    | with_reducible apply canon_wake
    | with_reducible apply canon_ite
    | simp only [canon_lit, canon1_mk_eq, canon_fst_eq]

theorem canon_enterFatal {m : Module} {r : Rec} (hm : Canon m) :
    Canon1 (m.enterFatal r) := by
  unfold Module.enterFatal
  simp only [canon_lit, canon1_mk_eq]
  exact hm

theorem canon_enterFatal_eq {m : Module} {r : Rec} {y : Module} {w : Rec} (hm : Canon m)
    (e : m.enterFatal r = (y, w)) : Canon y :=
  Canon1.of_eq (canon_enterFatal hm) e

theorem canon_writeHistory {m : Module} {r : Rec} {close : Nat} (hm : Canon m) :
    Canon (m.writeHistory r close) := by
  unfold Module.writeHistory
  repeat' first
    | with_reducible assumption
    | simp only [canon_lit, canon1_mk_eq, canon_fst_eq]
    | split

theorem canon_faultEvent {m : Module} {reason src : Nat} {r : Rec} {active : Nat} (hm : Canon m) :
    Canon (m.faultEvent reason src r active) := by
  unfold Module.faultEvent
  exact canon_event hm

theorem canon_raise {m : Module} {src blk detail : Nat} {inj : Bool} (hm : Canon m) :
    Canon (m.raise src blk detail inj) := by
  unfold Module.raise
  repeat' first
    | with_reducible assumption
    | with_reducible apply canon_count
    | with_reducible apply canon_enterFatal
    | with_reducible apply canon_writeHistory
    | with_reducible apply canon_faultEvent
    | with_reducible apply canon_ite
    | with_reducible apply canon_ite_fst
    | simp only [canon_lit, canon1_mk_eq, canon_fst_eq]
    | split

theorem canon_requestDone {m : Module} {h : Nat} (hm : Canon m) :
    Canon (m.requestDone h) := by
  unfold Module.requestDone
  exact canon_updEntry hm

theorem canon_closeEntry {m : Module} {h : Nat} (hm : Canon m) :
    Canon (m.closeEntry h) := by
  unfold Module.closeEntry
  repeat' first
    | with_reducible assumption
    | with_reducible apply canon_updEntry
    | with_reducible apply canon_count
    | with_reducible apply canon_ite
    | simp only [canon_lit, canon1_mk_eq, canon_fst_eq]
    | split

theorem canon_pins {m : Module} (hm : Canon m) :
    Canon (m.pins) := by
  unfold Module.pins
  simp only [canon_lit, canon1_mk_eq]
  exact hm

theorem canon_level {m : Module} {src blk detail : Nat} {on : Bool} (hm : Canon m) :
    Canon (m.level src blk detail on) := by
  unfold Module.level
  repeat' first
    | with_reducible assumption
    | with_reducible apply canon_pins
    | with_reducible apply canon_raise
    | with_reducible apply canon_ite
    | simp only [canon_lit, canon1_mk_eq, canon_fst_eq]

theorem canon_workOver {m : Module} {h status : Nat} {data : Bytes} (hm : Canon m) :
    Canon (m.workOver h status data) := by
  unfold Module.workOver
  exact canon_updEntry (canon_requestDone hm)

theorem canon_emit {m : Module} {o : Out} (hm : Canon m) :
    Canon (m.emit o) := by
  unfold Module.emit
  simp only [canon_lit, canon1_mk_eq]
  exact hm

theorem canon_openEntry_O {m : Module} {e : TEnt} (hm : Canon m) :
    CanonOP (m.openEntry e) := by
  unfold Module.openEntry
  repeat' first
    | with_reducible assumption
    | with_reducible apply canon_count
    | simp only [canon_lit, canon1_mk_eq, canon_fst_eq]
    | exact canonOP_none
    | with_reducible apply canonOP_some
    | split

theorem canon_openEntry {m : Module} {e : TEnt} {y : Module} {w : Nat} (hm : Canon m)
    (e : m.openEntry e = some (y, w)) : Canon y :=
  (canon_openEntry_O hm).get y w e

theorem canon_answer {m : Module} {q : Pkt} {type tw : Nat} {pl : Bytes} {die : Option Nat} {t0 : Option Word} (hm : Canon m) :
    Canon (m.answer q type tw pl die t0) := by
  unfold Module.answer
  exact canon_originate hm

theorem canon_sendReply {m : Module} {r : CmdReq} {x : Reply} (hm : Canon m) :
    Canon (m.sendReply r x) := by
  unfold Module.sendReply
  repeat' first
    | with_reducible assumption
    | with_reducible apply canon_emit
    | with_reducible apply canon_originate
    | simp only [canon_lit]
    | with_reducible apply canon_ite

theorem canon_cachePut {m : Module} {r : CmdReq} {first : Option Reply} {final : List Reply} (hm : Canon m) :
    Canon (m.cachePut r first final) := by
  unfold Module.cachePut
  simp only [canon_lit, canon1_mk_eq]
  exact hm

theorem canon_replyFinal {m : Module} {r : CmdReq} {status : Nat} {data : Bytes} {handle : Nat} (hm : Canon m) :
    Canon (m.replyFinal r status data handle) := by
  unfold Module.replyFinal
  repeat' first
    | with_reducible assumption
    | refine fun _ => ?_
    | with_reducible apply canon_sendReply
    | with_reducible apply canon_cachePut
    | with_reducible apply canon_foldl
    | with_reducible apply canon_ite

theorem canon_replyLate {m : Module} {r : CmdReq} {status : Nat} {parts : List (Nat × Bytes)} {handle : Nat} (hm : Canon m) :
    Canon (m.replyLate r status parts handle) := by
  unfold Module.replyLate
  repeat' first
    | with_reducible assumption
    | refine fun _ => ?_
    | with_reducible apply canon_sendReply
    | with_reducible apply canon_foldl
    | with_reducible apply canon_ite
    | simp only [canon_lit, canon1_mk_eq, canon_fst_eq]
    | lift_lets
    | split

theorem canon_replyDeferred {m : Module} {r : CmdReq} {handle : Nat} {data : Bytes} (hm : Canon m) :
    Canon (m.replyDeferred r handle data) := by
  unfold Module.replyDeferred
  exact canon_cachePut (canon_sendReply hm)

theorem canon_requestAbort {m : Module} {h : Nat} (hm : Canon m) :
    Canon (m.requestAbort h) := by
  unfold Module.requestAbort
  exact canon_updEntry hm

end Sys2Proof.Machine
end

