-- ==== Sys2Proof/Laws/CanonReserve.lean ====
section
/-!
SUPPORT. The operations of Machine/Reserve.lean keep the canonical form of the module's tables (Safety.lean): one lemma for
each, which proofs about the rows cite.
-/
set_option linter.unusedSimpArgs false
set_option linter.unusedTactic false
set_option linter.unreachableTactic false
namespace Sys2Proof.Machine

theorem canon_freeRes {m : Module} {tile : Nat} (hm : Canon m) :
    Canon (m.freeRes tile) := by
  unfold Module.freeRes
  repeat' first
    | with_reducible assumption
    | with_reducible apply canon_ite
    | simp only [canon_lit, canon1_mk_eq, canon_fst_eq]

theorem canon_poison {m : Module} {handle tile k use : Nat} (hm : Canon m) :
    Canon (m.poison handle tile k use) := by
  unfold Module.poison
  repeat' first
    | with_reducible assumption
    | with_reducible apply canon_count
    | with_reducible apply canon_raise
    | with_reducible apply canon_event
    | simp only [canon_lit, canon1_mk_eq, canon_fst_eq]

theorem canon_check1 {m : Module} {handle tile k use : Nat} (hm : Canon m) :
    Canon (m.check1 handle tile k use) := by
  unfold Module.check1
  repeat' first
    | with_reducible assumption
    | with_reducible apply canon_count
    | with_reducible apply canon_poison
    | with_reducible apply canon_raise
    | with_reducible apply canon_ite
    | simp only [canon_lit, canon1_mk_eq, canon_fst_eq]

theorem canon_countRead {m : Module} {k n : Nat} (hm : Canon m) :
    Canon (m.countRead k n) := by
  unfold Module.countRead
  exact canon_count hm

theorem canon_countWrite {m : Module} {k n : Nat} (hm : Canon m) :
    Canon (m.countWrite k n) := by
  unfold Module.countWrite
  exact canon_count hm

theorem canon_freshTile {m : Module} {k : Nat} (hm : Canon m) :
    Canon (m.freshTile k) := by
  unfold Module.freshTile
  simp only [canon_lit, canon1_mk_eq]
  exact hm

theorem canon_freeSlot {m : Module} {d s : Nat} (hm : Canon m) :
    Canon (m.freeSlot d s) := by
  unfold Module.freeSlot
  repeat' first
    | with_reducible assumption
    | with_reducible apply canon_setDie
    | with_reducible apply canon_freeRes
    | with_reducible apply canon_level
    | with_reducible apply canon_ite

theorem canon_resLoss {m : Module} {tile : Nat} (hm : Canon m) :
    Canon (m.resLoss tile) := by
  unfold Module.resLoss
  repeat' first
    | with_reducible assumption
    | with_reducible apply canon_freeSlot
    | with_reducible apply canon_ite
    | simp only [canon_lit, canon1_mk_eq, canon_fst_eq]
    | lift_lets
    | split
    | with_reducible apply canon_memErase

theorem canon_checkRes {m : Module} {tile use : Nat} (hm : Canon m) :
    Canon (m.checkRes tile use) := by
  unfold Module.checkRes
  repeat' first
    | with_reducible assumption
    | with_reducible apply canon_check1
    | with_reducible apply canon_resLoss
    | with_reducible apply canon_ite

theorem canon_strikeCells {m : Module} {l : List (Nat × Nat)} (hm : Canon m) :
    Canon (m.strikeCells l) := by
  unfold Module.strikeCells
  repeat' first
    | with_reducible assumption
    | refine fun _ => ?_
    | with_reducible apply canon_foldl
    | with_reducible apply canon_setDie

theorem canon_strike {m : Module} {c : EccIn} (hm : Canon m) :
    Canon (m.strike c) := by
  unfold Module.strike
  repeat' first
    | with_reducible assumption
    | refine fun _ => ?_
    | with_reducible apply canon_strikeCells
    | with_reducible apply canon_foldl
    | with_reducible apply canon_ite
    | simp only [canon_lit, canon1_mk_eq, canon_fst_eq]

theorem canon_dropRing {m : Module} {d : Nat} (hm : Canon m) :
    Canon (m.dropRing d) := by
  unfold Module.dropRing
  repeat' first
    | with_reducible assumption
    | refine fun _ => ?_
    | with_reducible apply canon_freeRes
    | with_reducible apply canon_setDie
    | with_reducible apply canon_foldl

theorem canon_packRings {m : Module} (hm : Canon m) :
    Canon (m.packRings) := by
  unfold Module.packRings
  repeat' first
    | with_reducible assumption
    | refine fun _ => ?_
    | with_reducible apply canon_setDie
    | with_reducible apply canon_dropRing
    | with_reducible apply foldl_tuple
    | with_reducible apply canon_ite
    | simp only [canon_lit, canon1_mk_eq, canon_fst_eq]

end Sys2Proof.Machine
end

