-- ==== Sys2Proof/Laws/CanonBuffers.lean ====
section
/-!
SUPPORT. The operations of Machine/Buffers.lean keep the canonical form of the module's tables (Safety.lean): one lemma for
each, which proofs about the rows cite.
-/
set_option linter.unusedSimpArgs false
set_option linter.unusedTactic false
set_option linter.unreachableTactic false
namespace Sys2Proof.Machine

theorem canon_followHold {m : Module} {d : Nat} (hm : Canon m) :
    Canon (m.followHold d) := by
  unfold Module.followHold
  repeat' first
    | with_reducible assumption
    | refine fun _ => ?_
    | with_reducible apply canon_setDie
    | with_reducible apply canon_count
    | with_reducible apply canon_foldl
    | with_reducible apply canon_ite
    | simp only [canon_lit, canon1_mk_eq, canon_fst_eq]
    | lift_lets
    | split

theorem canon_followBacked {m : Module} {d : Nat} (hm : Canon m) :
    Canon (m.followBacked d) := by
  unfold Module.followBacked
  repeat' first
    | with_reducible assumption
    | refine fun _ => ?_
    | with_reducible apply canon_followHold
    | with_reducible apply canon_level
    | with_reducible apply canon_setDie
    | with_reducible apply canon_foldl
    | with_reducible apply canon_ite
    | simp only [canon_lit, canon1_mk_eq, canon_fst_eq]
    | lift_lets
    | split

theorem canon_updBp {m : Module} {id : Nat} {f : BPkt → BPkt} (hm : Canon m) :
    Canon (m.updBp id f) := by
  unfold Module.updBp
  simp only [canon_lit, canon1_mk_eq]
  exact hm

theorem canon_skipRest {m : Module} {p len : Nat} (hm : Canon m) :
    Canon (m.skipRest p len) := by
  unfold Module.skipRest
  exact canon_setWire hm

theorem canon_creditFlush {m : Module} {p : Nat} (hm : Canon m) :
    Canon (m.creditFlush p) := by
  unfold Module.creditFlush
  repeat' first
    | with_reducible assumption
    | with_reducible apply canon_setWire
    | with_reducible apply canon_ite

theorem canon_creditReturn {m : Module} {p v c : Nat} (hm : Canon m) :
    Canon (m.creditReturn p v c) := by
  unfold Module.creditReturn
  exact canon_creditFlush (canon_setWire hm)

theorem canon_checkBacked {m : Module} {d : Nat} (hm : Canon m) :
    Canon (m.checkBacked d) := by
  unfold Module.checkBacked
  repeat' first
    | with_reducible assumption
    | refine fun _ => ?_
    | with_reducible apply canon_level
    | with_reducible apply canon_setDie
    | with_reducible apply canon_creditFlush
    | with_reducible apply canon_followBacked
    | with_reducible apply canon_foldl
    | with_reducible apply canon_ite

theorem canon_freeBp {m : Module} {id : Nat} (hm : Canon m) :
    Canon (m.freeBp id) := by
  unfold Module.freeBp
  repeat' first
    | with_reducible assumption
    | with_reducible apply canon_setDie
    | with_reducible apply canon_setWire
    | with_reducible apply canon_skipRest
    | with_reducible apply canon_creditReturn
    | with_reducible apply canon_checkBacked
    | with_reducible apply canon_ite
    | simp only [canon_lit, canon1_mk_eq, canon_fst_eq]
    | lift_lets
    | split

theorem canon_correctCells {m : Module} {b : BPkt} (hm : Canon m) :
    Canon (m.correctCells b) := by
  unfold Module.correctCells
  repeat' first
    | with_reducible assumption
    | with_reducible apply canon_count
    | with_reducible apply canon_setDie
    | with_reducible apply canon_ite

theorem canon_correctOf {m : Module} {id : Option Nat} (hm : Canon m) :
    Canon (m.correctOf id) := by
  unfold Module.correctOf
  split
  · exact canon_correctCells hm
  · exact hm

theorem canon_settle {m : Module} {id : Nat} (hm : Canon m) :
    Canon (m.settle id) := by
  unfold Module.settle
  repeat' first
    | with_reducible assumption
    | with_reducible apply canon_freeBp
    | with_reducible apply canon_ite
    | split

theorem canon_alloc_O {m : Module} {d c : Nat} (hm : Canon m) :
    CanonOP (m.alloc d c) := by
  unfold Module.alloc
  repeat' first
    | with_reducible assumption
    | with_reducible apply canon_count
    | with_reducible apply canon_setDie
    | with_reducible apply canon_ite
    | simp only [canon_lit, canon1_mk_eq, canon_fst_eq]
    | exact canonOP_none
    | with_reducible apply canonOP_some
    | split

theorem canon_closeTurn {m : Module} {p : Nat} (hm : Canon m) :
    Canon (m.closeTurn p) := by
  unfold Module.closeTurn
  repeat' first
    | with_reducible assumption
    | refine fun _ => ?_
    | with_reducible apply canon_setSched
    | with_reducible apply canon_foldl
    | with_reducible apply canon_ite
    | simp only [canon_lit, canon1_mk_eq, canon_fst_eq]
    | lift_lets
    | split

theorem canon_alloc {m : Module} {d c : Nat} {y : Module} {w : List Nat} (hm : Canon m)
    (e : m.alloc d c = some (y, w)) : Canon y :=
  (canon_alloc_O hm).get y w e

theorem canon_capture {m : Module} {r : WsRec} {h : Hdr} (hm : Canon m) :
    Canon (m.capture r h) := by
  unfold Module.capture
  repeat' first
    | with_reducible assumption
    | with_reducible apply canon_setDie
    | with_reducible apply canon_countWrite
    | with_reducible apply canon_ite
    | lift_lets
    | with_reducible apply canon_memWrite

theorem canon_captureDrop {m : Module} {d inPort : Nat} {h : Hdr} {ftc step others outPort outVc kind depth : Nat} (hm : Canon m) :
    Canon (m.captureDrop d inPort h ftc step others outPort outVc kind depth) := by
  unfold Module.captureDrop
  exact canon_capture hm

theorem canon_newHead {m : Module} {k : Nat} (hm : Canon m) :
    Canon (m.newHead k) := by
  unfold Module.newHead
  repeat' first
    | with_reducible assumption
    | with_reducible apply canon_setSched
    | with_reducible apply canon_ite
    | simp only [canon_lit, canon1_mk_eq, canon_fst_eq]
    | split

theorem canon_enqueue {m : Module} {id : Nat} {c : Copy} (hm : Canon m) :
    Canon (m.enqueue id c) := by
  unfold Module.enqueue
  repeat' first
    | with_reducible assumption
    | with_reducible apply canon_updBp
    | with_reducible apply canon_newHead
    | with_reducible apply canon_ite
    | simp only [canon_lit, canon1_mk_eq, canon_fst_eq]

theorem canon_unqueue {m : Module} {id k : Nat} (hm : Canon m) :
    Canon (m.unqueue id k) := by
  unfold Module.unqueue
  repeat' first
    | with_reducible assumption
    | with_reducible apply canon_newHead
    | with_reducible apply canon_ite
    | simp only [canon_lit, canon1_mk_eq, canon_fst_eq]

theorem canon_dropCopy {m : Module} {id : Nat} {c : Copy} (hm : Canon m) :
    Canon (m.dropCopy id c) := by
  unfold Module.dropCopy
  exact canon_updBp (canon_closeTurn (canon_unqueue hm))

theorem canon_dropUnbegun {m : Module} {id : Nat} (hm : Canon m) :
    Canon (m.dropUnbegun id) := by
  unfold Module.dropUnbegun
  repeat' first
    | with_reducible assumption
    | refine fun _ => ?_
    | with_reducible apply canon_dropCopy
    | with_reducible apply canon_foldl
    | split

theorem canon_checkHolds {m : Module} (hm : Canon m) :
    Canon (m.checkHolds) := by
  unfold Module.checkHolds
  repeat' first
    | with_reducible assumption
    | refine fun _ => ?_
    | with_reducible apply canon_checkBacked
    | with_reducible apply canon_foldl

theorem canon_record {m : Module} {b : BPkt} {r : WsRec} (hm : Canon m) :
    Canon (m.record b r) := by
  unfold Module.record
  repeat' first
    | with_reducible assumption
    | refine fun _ => ?_
    | with_reducible apply canon_updBp
    | with_reducible apply canon_capture
    | with_reducible apply canon_foldl
    | with_reducible apply canon_ite
    | simp only [canon_lit, canon1_mk_eq, canon_fst_eq]
    | lift_lets
    | split

theorem canon_hubEnter {m : Module} {b : BPkt} {p : Nat} (hm : Canon m) :
    Canon (m.hubEnter b p) := by
  unfold Module.hubEnter
  repeat' first
    | with_reducible assumption
    | with_reducible apply canon_setDie
    | with_reducible apply canon_ite

theorem canon_putMark {m : Module} {id reason : Nat} (hm : Canon m) :
    Canon (m.putMark id reason) := by
  unfold Module.putMark
  repeat' first
    | with_reducible assumption
    | with_reducible apply canon_count
    | with_reducible apply canon_updBp
    | with_reducible apply canon_raise
    | with_reducible apply canon_capture
    | with_reducible apply canon_record
    | with_reducible apply canon_ite
    | simp only [canon_lit, canon1_mk_eq, canon_fst_eq]
    | split

theorem canon_markBad {m : Module} {id reason : Nat} (hm : Canon m) :
    Canon (m.markBad id reason) := by
  unfold Module.markBad
  repeat' first
    | with_reducible assumption
    | with_reducible apply canon_updBp
    | with_reducible apply canon_dropUnbegun
    | with_reducible apply canon_putMark
    | with_reducible apply canon_freeBp
    | with_reducible apply canon_ite
    | simp only [canon_lit, canon1_mk_eq, canon_fst_eq]
    | split

theorem canon_inputLost {m : Module} {p : Nat} (hm : Canon m) :
    Canon (m.inputLost p) := by
  unfold Module.inputLost
  repeat' first
    | with_reducible assumption
    | with_reducible apply canon_setWire
    | with_reducible apply canon_updBp
    | with_reducible apply canon_dropUnbegun
    | with_reducible apply canon_putMark
    | with_reducible apply canon_markBad
    | with_reducible apply canon_ite
    | simp only [canon_lit, canon1_mk_eq, canon_fst_eq]
    | split

theorem canon_hubLeave {m : Module} {id p : Nat} (hm : Canon m) :
    Canon (m.hubLeave id p) := by
  unfold Module.hubLeave
  repeat' first
    | with_reducible assumption
    | with_reducible apply canon_setDie
    | with_reducible apply canon_ite
    | simp only [canon_lit, canon1_mk_eq, canon_fst_eq]
    | split

theorem canon_abandon {m : Module} {p : Nat} (hm : Canon m) :
    Canon (m.abandon p) := by
  unfold Module.abandon
  repeat' first
    | with_reducible assumption
    | with_reducible apply canon_updBp
    | with_reducible apply canon_settle
    | with_reducible apply canon_hubLeave
    | with_reducible apply canon_setWire
    | simp only [canon_lit, canon1_mk_eq, canon_fst_eq]
    | split

theorem canon_dropRecord {m : Module} {b : BPkt} {step p v kind q : Nat} (hm : Canon m) :
    Canon (m.dropRecord b step p v kind q) := by
  unfold Module.dropRecord
  repeat' first
    | with_reducible assumption
    | with_reducible apply canon_updBp
    | with_reducible apply canon_captureDrop
    | with_reducible apply canon_record
    | with_reducible apply canon_ite

theorem canon_captureLost {m : Module} {b : BPkt} {step : Nat} (hm : Canon m) :
    Canon (m.captureLost b step) := by
  unfold Module.captureLost
  repeat' first
    | with_reducible assumption
    | with_reducible apply canon_captureDrop
    | with_reducible apply canon_updBp
    | with_reducible apply canon_dropRecord
    | with_reducible apply canon_ite
    | simp only [canon_lit, canon1_mk_eq, canon_fst_eq]
    | lift_lets
    | split

end Sys2Proof.Machine
end

