-- ==== Sys2Proof/Laws/CanonFirmware.lean ====
section
/-!
SUPPORT. The operations of Machine/Firmware.lean keep the canonical form of the module's tables (Safety.lean): one lemma for
each, which proofs about the rows cite.
-/
set_option linter.unusedSimpArgs false
set_option linter.unusedTactic false
set_option linter.unreachableTactic false
namespace Sys2Proof.Machine

theorem canon_raiseMinimum {m : Module} (hm : Canon m) :
    Canon (m.raiseMinimum) := by
  unfold Module.raiseMinimum
  repeat' first
    | with_reducible assumption
    | with_reducible apply canon_ite
    | simp only [canon_lit, canon1_mk_eq, canon_fst_eq]

theorem canon_boot {m : Module} {a b : Bool} (hm : Canon m) :
    Canon (m.boot a b) := by
  unfold Module.boot
  repeat' first
    | with_reducible assumption
    | with_reducible apply canon_count
    | with_reducible apply canon_raise
    | with_reducible apply canon_ite
    | simp only [canon_lit, canon1_mk_eq, canon_fst_eq]

end Sys2Proof.Machine
end

