-- ==== Sys2Proof/Laws/CanonSources.lean ====
section
/-!
SUPPORT. The operations of Machine/Sources.lean keep the canonical form of the module's tables (Safety.lean): one lemma for
each, which proofs about the rows cite.
-/
set_option linter.unusedSimpArgs false
set_option linter.unusedTactic false
set_option linter.unreachableTactic false
namespace Sys2Proof.Machine

theorem canon_timeState {m : Module} {st : Nat} (hm : Canon m) :
    Canon (m.timeState st) := by
  unfold Module.timeState
  repeat' first
    | with_reducible assumption
    | with_reducible apply canon_event
    | with_reducible apply canon_level
    | with_reducible apply canon_ite
    | simp only [canon_lit, canon1_mk_eq, canon_fst_eq]

theorem canon_loseSource {m : Module} (hm : Canon m) :
    Canon (m.loseSource) := by
  unfold Module.loseSource
  repeat' first
    | with_reducible assumption
    | with_reducible apply canon_timeState
    | with_reducible apply canon_ite
    | simp only [canon_lit, canon1_mk_eq, canon_fst_eq]

theorem canon_takeSource {m : Module} {s : Nat} (hm : Canon m) :
    Canon (m.takeSource s) := by
  unfold Module.takeSource
  repeat' first
    | with_reducible assumption
    | with_reducible apply canon_count
    | simp only [canon_lit, canon1_mk_eq, canon_fst_eq]

theorem canon_adopt {m : Module} {s : Nat} (hm : Canon m) :
    Canon (m.adopt s) := by
  unfold Module.adopt
  repeat' first
    | with_reducible assumption
    | with_reducible apply canon_takeSource
    | with_reducible apply canon_timeState
    | with_reducible apply canon_ite
    | simp only [canon_lit, canon1_mk_eq, canon_fst_eq]

theorem canon_reselect {m : Module} (hm : Canon m) :
    Canon (m.reselect) := by
  unfold Module.reselect
  repeat' first
    | with_reducible assumption
    | with_reducible apply canon_loseSource
    | with_reducible apply canon_adopt
    | with_reducible apply canon_ite
    | simp only [canon_lit, canon1_mk_eq, canon_fst_eq]
    | lift_lets
    | split

end Sys2Proof.Machine
end

