-- ==== Sys2Proof/Laws/CanonStream.lean ====
section
/-!
SUPPORT. The operations of Machine/Stream.lean keep the canonical form of the module's tables (Safety.lean): one lemma for
each, which proofs about the rows cite.
-/
set_option linter.unusedSimpArgs false
set_option linter.unusedTactic false
set_option linter.unreachableTactic false
namespace Sys2Proof.Machine

theorem canon_sendSeg {m : Module} {p : Nat} {s : Option Seg} (hm : Canon m) :
    Canon (m.sendSeg p s) := by
  unfold Module.sendSeg
  repeat' first
    | with_reducible assumption
    | with_reducible apply canon_emit
    | with_reducible apply canon_setWire
    | with_reducible apply canon_ite

theorem canon_sendNumbered {m : Module} {p : Nat} (hm : Canon m) :
    Canon (m.sendNumbered p) := by
  unfold Module.sendNumbered
  exact canon_sendSeg (canon_setWire hm)

theorem canon_putWords {m : Module} {p : Nat} {k : Pkt} (hm : Canon m) :
    Canon (m.putWords p k) := by
  unfold Module.putWords
  exact canon_setWire hm

theorem canon_fillWords {m : Module} {p : Nat} (hm : Canon m) :
    Canon (m.fillWords p) := by
  unfold Module.fillWords
  repeat' first
    | with_reducible assumption
    | refine fun _ => ?_
    | with_reducible apply canon_putWords
    | with_reducible apply canon_foldl

theorem canon_segDue {m : Module} {p : Nat} (hm : Canon m) :
    Canon (m.segDue p) := by
  unfold Module.segDue
  repeat' first
    | with_reducible assumption
    | with_reducible apply canon_sendSeg
    | with_reducible apply canon_sendNumbered
    | with_reducible apply canon_fillWords
    | with_reducible apply canon_ite

theorem canon_resendSegs {m : Module} {p : Nat} (hm : Canon m) :
    Canon (m.resendSegs p) := by
  unfold Module.resendSegs
  repeat' first
    | with_reducible assumption
    | refine fun _ => ?_
    | with_reducible apply canon_sendSeg
    | with_reducible apply canon_foldl

theorem canon_rxDrop {m : Module} {p n : Nat} (hm : Canon m) :
    Canon (m.rxDrop p n) := by
  unfold Module.rxDrop
  exact canon_setWire hm

theorem canon_takeLocal_O {m : Module} {p sub : Nat} (hm : Canon m) :
    CanonOP (m.takeLocal p sub) := by
  unfold Module.takeLocal
  repeat' first
    | with_reducible assumption
    | with_reducible apply canon_rxDrop
    | exact canonOP_none
    | with_reducible apply canonOP_some
    | split

theorem canon_takeLocal {m : Module} {p sub : Nat} {y : Module} {w : Pkt} (hm : Canon m)
    (e : m.takeLocal p sub = some (y, w)) : Canon y :=
  (canon_takeLocal_O hm).get y w e

theorem canon_countWords {m : Module} {p w i : Nat} {nums : List Nat} {l : List RxWord} (hm : Canon m) :
    Canon (m.countWords p w i nums l) := by
  unfold Module.countWords
  repeat' first
    | with_reducible assumption
    | refine fun _ => ?_
    | with_reducible apply canon_count
    | with_reducible apply canon_foldl
    | with_reducible apply canon_ite
    | split

theorem canon_packSegs {a0 : Module} {a1 a2 : Nat} (h0 : Canon a0) : Canon (@Module.packSegs a0 a1 a2) := by
  induction a2 generalizing a0 with
  | zero => exact h0
  | succ n ih =>
    unfold Module.packSegs
    split
    · exact h0
    · exact ih (canon_sendNumbered h0)

theorem canon_sendPkt {m : Module} {p : Nat} {k : Pkt} (hm : Canon m) :
    Canon (m.sendPkt p k) := by
  unfold Module.sendPkt
  exact canon_packSegs (canon_emit (canon_putWords hm))

theorem canon_sendLocal {m : Module} {p : Nat} {k : Pkt} (hm : Canon m) :
    Canon (m.sendLocal p k) := by
  unfold Module.sendLocal
  repeat' first
    | with_reducible assumption
    | with_reducible apply canon_setWire
    | with_reducible apply canon_sendPkt
    | with_reducible apply canon_ite

theorem canon_replaySegs {m : Module} {p : Nat} (hm : Canon m) :
    Canon (m.replaySegs p) := by
  unfold Module.replaySegs
  exact canon_resendSegs (canon_count (canon_setWire hm))

theorem canon_sendWaiting {m : Module} {p : Nat} (hm : Canon m) :
    Canon (m.sendWaiting p) := by
  unfold Module.sendWaiting
  repeat' first
    | with_reducible assumption
    | refine fun _ => ?_
    | with_reducible apply canon_sendPkt
    | with_reducible apply canon_setWire
    | with_reducible apply canon_foldl

theorem canon_takeTail {m : Module} {p : Nat} {i : SegHead} (hm : Canon m) :
    Canon (m.takeTail p i) := by
  unfold Module.takeTail
  repeat' first
    | with_reducible assumption
    | with_reducible apply canon_setWire
    | with_reducible apply canon_packSegs
    | with_reducible apply canon_replaySegs
    | with_reducible apply canon_ite

theorem canon_takeSeg {m : Module} {p : Nat} {h : SegHead} (hm : Canon m) :
    Canon (m.takeSeg p h) := by
  unfold Module.takeSeg
  repeat' first
    | with_reducible assumption
    | with_reducible apply canon_takeTail
    | with_reducible apply canon_setWire
    | with_reducible apply canon_ite

end Sys2Proof.Machine
end

