-- ==== Sys2Proof/Laws/CanonLinks.lean ====
section
/-!
SUPPORT. The operations of Machine/Links.lean keep the canonical form of the module's tables (Safety.lean): one lemma for
each, which proofs about the rows cite.
-/
set_option linter.unusedSimpArgs false
set_option linter.unusedTactic false
set_option linter.unreachableTactic false
namespace Sys2Proof.Machine

theorem canon_checkReady {m : Module} (hm : Canon m) :
    Canon (m.checkReady) := by
  unfold Module.checkReady
  repeat' first
    | with_reducible assumption
    | with_reducible apply canon_raiseMinimum
    | with_reducible apply canon_ite
    | simp only [canon_lit, canon1_mk_eq, canon_fst_eq]

theorem canon_portEvent {m : Module} {p code : Nat} (hm : Canon m) :
    Canon (m.portEvent p code) := by
  unfold Module.portEvent
  exact canon_event hm

theorem canon_dropMembers {m : Module} {p : Nat} {down : Bool} (hm : Canon m) :
    Canon (m.dropMembers p down) := by
  unfold Module.dropMembers
  repeat' first
    | with_reducible assumption
    | refine fun _ => ?_
    | with_reducible apply canon_count
    | with_reducible apply canon_settle
    | with_reducible apply canon_dropCopy
    | with_reducible apply canon_foldl
    | with_reducible apply canon_ite
    | simp only [canon_lit, canon1_mk_eq, canon_fst_eq]
    | split

theorem canon_pinsLost {m : Module} {p : Nat} (hm : Canon m) :
    Canon (m.pinsLost p) := by
  unfold Module.pinsLost
  repeat' first
    | with_reducible assumption
    | refine fun _ => ?_
    | with_reducible apply canon_event
    | with_reducible apply canon_foldl
    | with_reducible apply canon_ite

theorem canon_leaveActive {m : Module} {p : Nat} {down : Bool} (hm : Canon m) :
    Canon (m.leaveActive p down) := by
  unfold Module.leaveActive
  repeat' first
    | with_reducible assumption
    | with_reducible apply canon_dropMembers
    | with_reducible apply canon_pinsLost
    | with_reducible apply canon_ite

theorem canon_enterLink {m : Module} {p st : Nat} (hm : Canon m) :
    Canon (m.enterLink p st) := by
  unfold Module.enterLink
  exact canon_setLink hm

theorem canon_enterActive {m : Module} {p : Nat} (hm : Canon m) :
    Canon (m.enterActive p) := by
  unfold Module.enterActive
  repeat' first
    | with_reducible assumption
    | with_reducible apply canon_enterLink
    | with_reducible apply canon_setWire
    | with_reducible apply canon_creditFlush
    | with_reducible apply canon_reselect
    | with_reducible apply canon_resendSegs
    | with_reducible apply canon_checkBacked
    | with_reducible apply canon_ite
    | simp only [canon_lit, canon1_mk_eq, canon_fst_eq]

theorem canon_finishCheck {m : Module} {p result : Nat} (hm : Canon m) :
    Canon (m.finishCheck p result) := by
  unfold Module.finishCheck
  repeat' first
    | with_reducible assumption
    | with_reducible apply canon_setLink
    | with_reducible apply canon_leaveActive
    | with_reducible apply canon_reselect
    | with_reducible apply canon_enterLink
    | with_reducible apply canon_enterActive
    | with_reducible apply canon_ite

theorem canon_finishSwap {m : Module} {b : Nat} (hm : Canon m) :
    Canon (m.finishSwap b) := by
  unfold Module.finishSwap
  repeat' first
    | with_reducible assumption
    | refine fun _ => ?_
    | with_reducible apply canon_setLink
    | with_reducible apply canon_finishCheck
    | with_reducible apply canon_foldl
    | with_reducible apply canon_ite
    | simp only [canon_lit, canon1_mk_eq, canon_fst_eq]
    | lift_lets
    | split

theorem canon_check {m : Module} {p : Nat} (hm : Canon m) :
    Canon (m.check p) := by
  unfold Module.check
  repeat' first
    | with_reducible assumption
    | with_reducible apply canon_setLink
    | with_reducible apply canon_portEvent
    | with_reducible apply canon_finishCheck
    | with_reducible apply canon_finishSwap
    | with_reducible apply canon_ite
    | simp only [canon_lit, canon1_mk_eq, canon_fst_eq]
    | split

theorem canon_enterHello {m : Module} {p frame : Nat} (hm : Canon m) :
    Canon (m.enterHello p frame) := by
  unfold Module.enterHello
  repeat' first
    | with_reducible assumption
    | with_reducible apply canon_enterLink
    | with_reducible apply canon_setWire
    | with_reducible apply canon_checkBacked
    | with_reducible apply canon_ite

theorem canon_runCheck {m : Module} {p : Nat} (hm : Canon m) :
    Canon (m.runCheck p) := by
  unfold Module.runCheck
  repeat' first
    | with_reducible assumption
    | with_reducible apply canon_setLink
    | with_reducible apply canon_finishCheck
    | with_reducible apply canon_check
    | with_reducible apply canon_portEvent
    | with_reducible apply canon_ite
    | simp only [canon_lit, canon1_mk_eq, canon_fst_eq]
    | split

theorem canon_onPort {m : Module} {p : Nat} {f : Module → Module} (hm : Canon m) (hf : ∀ x0, Canon x0 → Canon (f x0)) :
    Canon (m.onPort p f) := by
  unfold Module.onPort
  repeat' first
    | with_reducible assumption
    | with_reducible apply hf
    | with_reducible apply canon_ite

theorem canon_row_lanesLocked {p : Nat} {m : Module} (hm : Canon m) :
    Canon (lanesLocked p m) := by
  unfold lanesLocked
  repeat' first
    | with_reducible assumption
    | refine fun _ => ?_
    | with_reducible apply canon_onPort
    | with_reducible apply canon_enterLink
    | with_reducible apply canon_setLink
    | with_reducible apply canon_ite

theorem canon_startRetrain {m : Module} {p cap : Nat} (hm : Canon m) :
    Canon (m.startRetrain p cap) := by
  unfold Module.startRetrain
  repeat' first
    | with_reducible assumption
    | with_reducible apply canon_count
    | with_reducible apply canon_leaveActive
    | with_reducible apply canon_reselect
    | with_reducible apply canon_setLink
    | with_reducible apply canon_setWire
    | with_reducible apply canon_ite

theorem canon_enterDown {m : Module} {p : Nat} (hm : Canon m) :
    Canon (m.enterDown p) := by
  unfold Module.enterDown
  repeat' first
    | with_reducible assumption
    | with_reducible apply canon_leaveActive
    | with_reducible apply canon_inputLost
    | with_reducible apply canon_abandon
    | with_reducible apply canon_count
    | with_reducible apply canon_portEvent
    | with_reducible apply canon_setLink
    | with_reducible apply canon_setPort
    | with_reducible apply canon_setWire
    | with_reducible apply canon_reselect
    | with_reducible apply canon_checkBacked
    | with_reducible apply canon_ite
    | simp only [canon_lit, canon1_mk_eq, canon_fst_eq]

theorem canon_row_enable {p : Nat} {on : Bool} {m : Module} (hm : Canon m) :
    Canon (enable p on m) := by
  unfold enable
  repeat' first
    | with_reducible assumption
    | with_reducible apply canon_setReg
    | with_reducible apply canon_enterDown
    | with_reducible apply canon_checkReady
    | with_reducible apply canon_ite

theorem canon_row_widthLimit {p v : Nat} {m : Module} (hm : Canon m) :
    Canon (widthLimit p v m) := by
  unfold widthLimit
  repeat' first
    | with_reducible assumption
    | with_reducible apply canon_startRetrain
    | with_reducible apply canon_setReg
    | with_reducible apply canon_ite

theorem canon_takeHello {m : Module} {p : Nat} {k : Pkt} (hm : Canon m) :
    Canon (m.takeHello p k) := by
  unfold Module.takeHello
  repeat' first
    | with_reducible assumption
    | with_reducible apply canon_setLink
    | with_reducible apply canon_setWire
    | with_reducible apply canon_check
    | with_reducible apply canon_portEvent
    | with_reducible apply canon_ite

theorem canon_row_hello {p : Nat} {pk : Pkt} {m : Module} (hm : Canon m) :
    Canon (hello p pk m) := by
  unfold hello
  repeat' first
    | with_reducible assumption
    | refine fun _ => ?_
    | with_reducible apply canon_onPort
    | refine canon_takeLocal ?_ (by with_reducible assumption)
    | with_reducible apply canon_takeHello
    | with_reducible apply canon_count
    | with_reducible apply canon_ite
    | lift_lets
    | split

theorem canon_row_lightReceived {p : Nat} {m : Module} (hm : Canon m) :
    Canon (lightReceived p m) := by
  unfold lightReceived
  repeat' first
    | with_reducible assumption
    | refine fun _ => ?_
    | with_reducible apply canon_onPort
    | with_reducible apply canon_enterLink
    | with_reducible apply canon_ite

theorem canon_row_timeTransmit {p txFrame rxFrame tTx tRx : Nat} {m : Module} (hm : Canon m) :
    Canon (timeTransmit p txFrame rxFrame tTx tRx m) := by
  unfold timeTransmit
  repeat' first
    | with_reducible assumption
    | refine fun _ => ?_
    | with_reducible apply canon_onPort
    | with_reducible apply canon_reach
    | with_reducible apply canon_setLink
    | with_reducible apply canon_sendLocal
    | with_reducible apply canon_pass
    | with_reducible apply canon_ite
    | simp only [canon_lit, canon1_mk_eq, canon_fst_eq]
    | split

theorem canon_laneFail {m : Module} {p lane : Nat} (hm : Canon m) :
    Canon (m.laneFail p lane) := by
  unfold Module.laneFail
  exact canon_startRetrain (canon_setLink (canon_raise hm))

theorem canon_row_helloTransmit {p : Nat} {m : Module} (hm : Canon m) :
    Canon (helloTransmit p m) := by
  unfold helloTransmit
  repeat' first
    | with_reducible assumption
    | refine fun _ => ?_
    | with_reducible apply canon_onPort
    | with_reducible apply canon_reach
    | with_reducible apply canon_checkBacked
    | with_reducible apply canon_setWire
    | with_reducible apply canon_setLink
    | with_reducible apply canon_sendLocal
    | with_reducible apply canon_pass
    | with_reducible apply canon_ite

theorem canon_row_alignTimeout {p : Nat} {m : Module} (hm : Canon m) :
    Canon (alignTimeout p m) := by
  unfold alignTimeout
  repeat' first
    | with_reducible assumption
    | refine fun _ => ?_
    | with_reducible apply canon_onPort
    | with_reducible apply canon_enterDown
    | with_reducible apply canon_reach
    | with_reducible apply canon_pass
    | with_reducible apply canon_ite

theorem canon_row_syncFifoResume {p : Nat} {m : Module} (hm : Canon m) :
    Canon (syncFifoResume p m) := by
  unfold syncFifoResume
  repeat' first
    | with_reducible assumption
    | refine fun _ => ?_
    | with_reducible apply canon_onPort
    | with_reducible apply canon_creditFlush
    | with_reducible apply canon_setWire
    | with_reducible apply canon_checkBacked

theorem canon_row_replayTimeout {p : Nat} {m : Module} (hm : Canon m) :
    Canon (replayTimeout p m) := by
  unfold replayTimeout
  repeat' first
    | with_reducible assumption
    | refine fun _ => ?_
    | with_reducible apply canon_onPort
    | with_reducible apply canon_replaySegs
    | with_reducible apply canon_reach
    | with_reducible apply canon_pass
    | with_reducible apply canon_ite

theorem canon_row_replayLimitReached {p lane : Nat} {m : Module} (hm : Canon m) :
    Canon (replayLimitReached p lane m) := by
  unfold replayLimitReached
  repeat' first
    | with_reducible assumption
    | refine fun _ => ?_
    | with_reducible apply canon_onPort
    | with_reducible apply canon_laneFail
    | with_reducible apply canon_raise
    | with_reducible apply canon_ite

theorem canon_row_markerLoss {p : Nat} {m : Module} (hm : Canon m) :
    Canon (markerLoss p m) := by
  unfold markerLoss
  repeat' first
    | with_reducible assumption
    | refine fun _ => ?_
    | with_reducible apply canon_onPort
    | with_reducible apply canon_enterDown
    | with_reducible apply canon_raise
    | with_reducible apply canon_ite

theorem canon_row_frameMarkersFound {p frame : Nat} {lanes : List (List Nat)} {m : Module} (hm : Canon m) :
    Canon (frameMarkersFound p lanes frame m) := by
  unfold frameMarkersFound
  repeat' first
    | with_reducible assumption
    | refine fun _ => ?_
    | with_reducible apply canon_onPort
    | with_reducible apply canon_enterHello
    | with_reducible apply canon_setLink
    | with_reducible apply canon_ite
    | simp only [canon_lit, canon1_mk_eq, canon_fst_eq]
    | split

theorem canon_row_retrain {p : Nat} {m : Module} (hm : Canon m) :
    Canon (retrain p m) := by
  unfold retrain
  repeat' first
    | with_reducible assumption
    | refine fun _ => ?_
    | with_reducible apply canon_onPort
    | with_reducible apply canon_startRetrain

theorem canon_row_laneSerExceeded {p lane ppm : Nat} {m : Module} (hm : Canon m) :
    Canon (laneSerExceeded p lane ppm m) := by
  unfold laneSerExceeded
  repeat' first
    | with_reducible assumption
    | refine fun _ => ?_
    | with_reducible apply canon_onPort
    | with_reducible apply canon_laneFail
    | with_reducible apply canon_ite

theorem canon_row_helloLost {p : Nat} {m : Module} (hm : Canon m) :
    Canon (helloLost p m) := by
  unfold helloLost
  repeat' first
    | with_reducible assumption
    | refine fun _ => ?_
    | with_reducible apply canon_onPort
    | with_reducible apply canon_reach
    | with_reducible apply canon_portEvent
    | with_reducible apply canon_setLink
    | with_reducible apply canon_pass
    | with_reducible apply canon_ite

theorem canon_row_tuningDone {p : Nat} {m : Module} (hm : Canon m) :
    Canon (tuningDone p m) := by
  unfold tuningDone
  repeat' first
    | with_reducible assumption
    | refine fun _ => ?_
    | with_reducible apply canon_onPort
    | with_reducible apply canon_emit
    | with_reducible apply canon_setLink
    | with_reducible apply canon_ite

theorem canon_row_helloTimeout {p : Nat} {m : Module} (hm : Canon m) :
    Canon (helloTimeout p m) := by
  unfold helloTimeout
  repeat' first
    | with_reducible assumption
    | refine fun _ => ?_
    | with_reducible apply canon_onPort
    | with_reducible apply canon_enterDown
    | with_reducible apply canon_reach
    | with_reducible apply canon_pass
    | with_reducible apply canon_ite

theorem canon_mismatch {m : Module} {p : Nat} (hm : Canon m) :
    Canon (m.mismatch p) := by
  unfold Module.mismatch
  exact canon_portEvent (canon_finishCheck (canon_setLink hm))

theorem canon_row_swapHoldExpiry {p : Nat} {m : Module} (hm : Canon m) :
    Canon (swapHoldExpiry p m) := by
  unfold swapHoldExpiry
  repeat' first
    | with_reducible assumption
    | refine fun _ => ?_
    | with_reducible apply canon_onPort
    | with_reducible apply canon_mismatch
    | with_reducible apply canon_reach
    | with_reducible apply canon_pass
    | with_reducible apply canon_ite
    | split

theorem canon_row_segmentReceived {p : Nat} {i : SegIn} {m : Module} (hm : Canon m) :
    Canon (segmentReceived p i m) := by
  unfold segmentReceived
  repeat' first
    | with_reducible assumption
    | refine fun _ => ?_
    | with_reducible apply canon_onPort
    | with_reducible apply canon_countWords
    | with_reducible apply canon_setWire
    | with_reducible apply canon_count
    | with_reducible apply canon_takeSeg
    | with_reducible apply canon_ite

theorem canon_row_switchFrameReached {p : Nat} {m : Module} (hm : Canon m) :
    Canon (switchFrameReached p m) := by
  unfold switchFrameReached
  repeat' first
    | with_reducible assumption
    | refine fun _ => ?_
    | with_reducible apply canon_onPort
    | with_reducible apply canon_enterDown
    | with_reducible apply canon_enterLink
    | with_reducible apply canon_setLink
    | with_reducible apply canon_portEvent
    | with_reducible apply canon_runCheck
    | with_reducible apply canon_ite

theorem canon_row_downTimerExpiry {p : Nat} {m : Module} (hm : Canon m) :
    Canon (downTimerExpiry p m) := by
  unfold downTimerExpiry
  repeat' first
    | with_reducible assumption
    | refine fun _ => ?_
    | with_reducible apply canon_onPort
    | with_reducible apply canon_checkReady
    | with_reducible apply canon_checkBacked
    | with_reducible apply canon_enterLink
    | with_reducible apply canon_reach
    | with_reducible apply canon_pass
    | with_reducible apply canon_setWire
    | with_reducible apply canon_ite

theorem canon_row_lockLoss {p lane : Nat} {m : Module} (hm : Canon m) :
    Canon (lockLoss p lane m) := by
  unfold lockLoss
  repeat' first
    | with_reducible assumption
    | refine fun _ => ?_
    | with_reducible apply canon_onPort
    | with_reducible apply canon_laneFail
    | with_reducible apply canon_ite

theorem canon_row_equaliseTimeout {p lanes : Nat} {m : Module} (hm : Canon m) :
    Canon (equaliseTimeout p lanes m) := by
  unfold equaliseTimeout
  repeat' first
    | with_reducible assumption
    | refine fun _ => ?_
    | with_reducible apply canon_onPort
    | with_reducible apply canon_reach
    | with_reducible apply canon_enterDown
    | with_reducible apply canon_enterLink
    | with_reducible apply canon_setLink
    | with_reducible apply canon_pass
    | with_reducible apply canon_ite

end Sys2Proof.Machine
end

