-- ==== Sys2Proof/Laws/CanonSwitch.lean ====
section
/-!
SUPPORT. The operations of Machine/Switch.lean keep the canonical form of the module's tables (Safety.lean): one lemma for
each, which proofs about the rows cite.
-/
set_option linter.unusedSimpArgs false
set_option linter.unusedTactic false
set_option linter.unreachableTactic false
namespace Sys2Proof.Machine

theorem canon_localHeads {m : Module} {d : Nat} (hm : Canon m) :
    Canon (m.localHeads d) := by
  unfold Module.localHeads
  repeat' first
    | with_reducible assumption
    | refine fun _ => ?_
    | with_reducible apply canon_updBp
    | with_reducible apply canon_foldl
    | split

theorem canon_discardIfNone {m : Module} {id : Nat} (hm : Canon m) :
    Canon (m.discardIfNone id) := by
  unfold Module.discardIfNone
  repeat' first
    | with_reducible assumption
    | with_reducible apply canon_freeBp
    | with_reducible apply canon_ite
    | split

theorem canon_calmEgress {m : Module} {d : Nat} {h : Hdr} {inPort : Option Nat} {came : Bool} (hm : Canon m) :
    Canon1 (m.calmEgress d h inPort came) := by
  unfold Module.calmEgress
  repeat' first
    | with_reducible assumption
    | with_reducible apply canon_raise
    | with_reducible apply canon_count
    | with_reducible apply canon_ite_fst
    | simp only [canon_lit, canon1_mk_eq, canon_fst_eq]

theorem canon_noRoute {m : Module} {d e : Nat} (hm : Canon m) :
    Canon1 (m.noRoute d e) := by
  unfold Module.noRoute
  repeat' first
    | with_reducible assumption
    | with_reducible apply canon_count
    | with_reducible apply canon_raise
    | with_reducible apply canon_ite
    | simp only [canon_lit, canon1_mk_eq, canon_fst_eq]

theorem canon_tradewind {m : Module} {d : Nat} {h : Hdr} {chip : Nat} {inPort : Option Nat} (hm : Canon m) :
    Canon1 (m.tradewind d h chip inPort) := by
  unfold Module.tradewind
  repeat' first
    | with_reducible assumption
    | with_reducible apply canon_noRoute
    | with_reducible apply canon_count
    | with_reducible apply canon_calmEgress
    | with_reducible apply canon_ite_fst
    | simp only [canon_lit, canon1_mk_eq, canon_fst_eq]

theorem canon_drawEddy {m : Module} {d g : Nat} (hm : Canon m) :
    Canon1 (m.drawEddy d g) := by
  unfold Module.drawEddy
  repeat' first
    | with_reducible assumption
    | with_reducible apply canon_setDie
    | simp only [canon_lit, canon1_mk_eq, canon_fst_eq]

theorem canon_eddyDraw {m : Module} {d g : Nat} {h : Hdr} (hm : Canon m) :
    Canon1 (m.eddyDraw d g h) := by
  unfold Module.eddyDraw
  repeat' first
    | with_reducible assumption
    | with_reducible apply canon_drawEddy
    | with_reducible apply canon_count
    | simp only [canon_lit, canon1_mk_eq, canon_fst_eq]
    | split

theorem canon_policy {m : Module} {d g : Nat} {h : Hdr} (hm : Canon m) :
    Canon1 (m.policy d g h) := by
  unfold Module.policy
  repeat' first
    | with_reducible assumption
    | with_reducible apply canon_eddyDraw
    | with_reducible apply canon_count
    | with_reducible apply canon_ite_fst
    | simp only [canon_lit, canon1_mk_eq, canon_fst_eq]

theorem canon_byTable {m : Module} {d : Nat} {h : Hdr} {inPort : Option Nat} (hm : Canon m) :
    Canon1 (m.byTable d h inPort) := by
  unfold Module.byTable
  repeat' first
    | with_reducible assumption
    | with_reducible apply canon_tradewind
    | with_reducible apply canon_ite_fst

theorem canon_afterDraw {m : Module} {d : Nat} {h : Hdr} {inPort : Option Nat} (hm : Canon m) :
    Canon1 (m.afterDraw d h inPort) := by
  unfold Module.afterDraw
  repeat' first
    | with_reducible assumption
    | with_reducible apply canon_byTable
    | with_reducible apply canon_ite_fst
    | simp only [canon_lit, canon1_mk_eq, canon_fst_eq]

theorem canon_decide {m : Module} {d g : Nat} {h : Hdr} {inPort : Option Nat} {first : Bool} (hm : Canon m) :
    Canon1 (m.decide d g h inPort first) := by
  unfold Module.decide
  repeat' first
    | with_reducible assumption
    | with_reducible apply canon_calmEgress
    | with_reducible apply canon_count
    | with_reducible apply canon_tradewind
    | with_reducible apply canon_policy
    | with_reducible apply canon_afterDraw
    | with_reducible apply canon_byTable
    | with_reducible apply canon_ite_fst
    | simp only [canon_lit, canon1_mk_eq, canon_fst_eq]
    | split

theorem canon_drawRed {m : Module} {d g : Nat} (hm : Canon m) :
    Canon1 (m.drawRed d g) := by
  unfold Module.drawRed
  repeat' first
    | with_reducible assumption
    | with_reducible apply canon_setDie
    | simp only [canon_lit, canon1_mk_eq, canon_fst_eq]

theorem canon_redDecide {m : Module} {eg prof avg d g : Nat} (hm : Canon m) :
    Canon1 (m.redDecide eg prof avg d g) := by
  unfold Module.redDecide
  repeat' first
    | with_reducible assumption
    | with_reducible apply canon_drawRed
    | with_reducible apply canon_ite_fst
    | simp only [canon_lit, canon1_mk_eq, canon_fst_eq]

theorem canon_detect {m : Module} {d g p v c : Nat} {h : Hdr} (hm : Canon m) :
    Canon1 (m.detect d g p v c h) := by
  unfold Module.detect
  repeat' first
    | with_reducible assumption
    | with_reducible apply canon_count
    | with_reducible apply canon_redDecide
    | with_reducible apply canon_ite_fst
    | simp only [canon_lit, canon1_mk_eq, canon_fst_eq]

theorem canon_throttle {m : Module} {d dest vc part rate hold : Nat} (hm : Canon m) :
    Canon (m.throttle d dest vc part rate hold) := by
  unfold Module.throttle
  exact canon_setDie hm

theorem canon_throttleAll {m : Module} {dest vc part rate hold : Nat} (hm : Canon m) :
    Canon (m.throttleAll dest vc part rate hold) := by
  unfold Module.throttleAll
  repeat' first
    | with_reducible assumption
    | refine fun _ => ?_
    | with_reducible apply canon_throttle
    | with_reducible apply canon_foldl

theorem canon_headwind {m : Module} {d : Nat} {h : Hdr} {reason port q : Nat} (hm : Canon m) :
    Canon (m.headwind d h reason port q) := by
  unfold Module.headwind
  repeat' first
    | with_reducible assumption
    | with_reducible apply canon_setDie
    | with_reducible apply canon_throttleAll
    | with_reducible apply canon_originate
    | with_reducible apply canon_count
    | with_reducible apply canon_ite

theorem canon_passRecord {m : Module} {b : BPkt} {p v kind q : Nat} (hm : Canon m) :
    Canon (m.passRecord b p v kind q) := by
  unfold Module.passRecord
  repeat' first
    | with_reducible assumption
    | with_reducible apply canon_updBp
    | with_reducible apply canon_capture
    | with_reducible apply canon_record
    | with_reducible apply canon_ite

theorem canon_averaged {m : Module} {p v q : Nat} (hm : Canon m) :
    Canon (m.averaged p v q) := by
  unfold Module.averaged
  repeat' first
    | with_reducible assumption
    | with_reducible apply canon_setDie
    | with_reducible apply canon_ite

theorem canon_putCopy {m : Module} {id d g p v : Nat} {h : Hdr} {hold : Option Nat} {fixed : Bool} (hm : Canon m) :
    Canon (m.putCopy id d g p v h hold fixed) := by
  unfold Module.putCopy
  repeat' first
    | with_reducible assumption
    | with_reducible apply canon_detect
    | with_reducible apply canon_dropRecord
    | with_reducible apply canon_headwind
    | with_reducible apply canon_passRecord
    | with_reducible apply canon_enqueue
    | with_reducible apply canon_averaged
    | with_reducible apply canon_ite
    | simp only [canon_lit, canon1_mk_eq, canon_fst_eq]
    | split

theorem canon_pushLocal {m : Module} {d id : Nat} (hm : Canon m) :
    Canon (m.pushLocal d id) := by
  unfold Module.pushLocal
  exact canon_localHeads (canon_setDie (canon_updBp hm))

theorem canon_apply {m : Module} {id d g : Nat} {x : Dec} {held : Option (Nat × Nat)} (hm : Canon m) :
    Canon (m.apply id d g x held) := by
  unfold Module.apply
  repeat' first
    | with_reducible assumption
    | with_reducible apply canon_putCopy
    | with_reducible apply canon_updBp
    | with_reducible apply canon_pushLocal
    | with_reducible apply canon_passRecord
    | with_reducible apply canon_dropRecord
    | simp only [canon_lit, canon1_mk_eq, canon_fst_eq]
    | split

theorem canon_redecide {m : Module} {b : BPkt} {c : Copy} (hm : Canon m) :
    Canon (m.redecide b c) := by
  unfold Module.redecide
  repeat' first
    | with_reducible assumption
    | with_reducible apply canon_dropCopy
    | with_reducible apply canon_discardIfNone
    | with_reducible apply canon_count
    | with_reducible apply canon_decide
    | with_reducible apply canon_apply
    | with_reducible apply canon_ite
    | simp only [canon_lit, canon1_mk_eq, canon_fst_eq]

theorem canon_redecideOn {m : Module} {p : Nat} {f : Copy → Bool} (hm : Canon m) :
    Canon (m.redecideOn p f) := by
  unfold Module.redecideOn
  repeat' first
    | with_reducible assumption
    | refine fun _ => ?_
    | with_reducible apply canon_redecide
    | with_reducible apply canon_count
    | with_reducible apply canon_foldl
    | with_reducible apply canon_ite
    | simp only [canon_lit, canon1_mk_eq, canon_fst_eq]
    | lift_lets
    | split

theorem canon_row_rerouteQueued {p : Nat} {m : Module} (hm : Canon m) :
    Canon (rerouteQueued p m) := by
  unfold rerouteQueued
  repeat' first
    | with_reducible assumption
    | refine fun _ => ?_
    | with_reducible apply canon_count
    | with_reducible apply canon_redecide
    | with_reducible apply canon_redecideOn
    | with_reducible apply canon_foldl
    | with_reducible apply canon_ite
    | simp only [canon_lit, canon1_mk_eq, canon_fst_eq]
    | split

theorem canon_rerouteDue {m : Module} (hm : Canon m) :
    Canon (m.rerouteDue) := by
  unfold Module.rerouteDue
  repeat' first
    | with_reducible assumption
    | refine fun _ => ?_
    | with_reducible apply canon_row_rerouteQueued
    | with_reducible apply canon_foldl
    | with_reducible apply canon_ite
    | simp only [canon_lit, canon1_mk_eq, canon_fst_eq]
    | lift_lets
    | split

theorem canon_cmdRefused {m : Module} {k : Nat} {h : Hdr} (hm : Canon m) :
    Canon (m.cmdRefused k h) := by
  unfold Module.cmdRefused
  repeat' first
    | with_reducible assumption
    | refine fun _ => ?_
    | with_reducible apply canon_count
    | with_reducible apply canon_foldl
    | with_reducible apply canon_ite
    | simp only [canon_lit, canon1_mk_eq, canon_fst_eq]
    | lift_lets
    | split

theorem canon_ringReset {m : Module} {d : Nat} (hm : Canon m) :
    Canon (m.ringReset d) := by
  unfold Module.ringReset
  exact canon_setDie hm

theorem canon_dropHeader {m : Module} {p : Nat} {h : Hdr} (hm : Canon m) :
    Canon (m.dropHeader p h) := by
  unfold Module.dropHeader
  exact canon_checkBacked (canon_creditReturn (canon_skipRest hm))

theorem canon_row_poolConversionDone {d : Nat} {m : Module} (hm : Canon m) :
    Canon (poolConversionDone d m) := by
  unfold poolConversionDone
  repeat' first
    | with_reducible assumption
    | with_reducible apply canon_checkReady
    | with_reducible apply canon_checkBacked
    | with_reducible apply canon_setDie
    | with_reducible apply canon_ite

theorem canon_addBp {m : Module} {b : BPkt} (hm : Canon m) :
    Canon (m.addBp b) := by
  unfold Module.addBp
  simp only [canon_lit, canon1_mk_eq]
  exact hm

theorem canon_drawRed_eq {m : Module} {d g : Nat} {y : Module} {w : Nat} (hm : Canon m)
    (e : m.drawRed d g = (y, w)) : Canon y :=
  Canon1.of_eq (canon_drawRed hm) e

theorem canon_redDecide_eq {m : Module} {eg prof avg d g : Nat} {y : Module} {w : Bool} (hm : Canon m)
    (e : m.redDecide eg prof avg d g = (y, w)) : Canon y :=
  Canon1.of_eq (canon_redDecide hm) e

theorem canon_detect_eq {m : Module} {d g p v c : Nat} {h : Hdr} {y : Module} {w : Option Hdr × Nat × Nat} (hm : Canon m)
    (e : m.detect d g p v c h = (y, w)) : Canon y :=
  Canon1.of_eq (canon_detect hm) e

theorem canon_calmEgress_eq {m : Module} {d : Nat} {h : Hdr} {inPort : Option Nat} {came : Bool} {y : Module} {w : Dec} (hm : Canon m)
    (e : m.calmEgress d h inPort came = (y, w)) : Canon y :=
  Canon1.of_eq (canon_calmEgress hm) e

theorem canon_noRoute_eq {m : Module} {d e : Nat} {y : Module} {w : Dec} (hm : Canon m)
    (e : m.noRoute d e = (y, w)) : Canon y :=
  Canon1.of_eq (canon_noRoute hm) e

theorem canon_tradewind_eq {m : Module} {d : Nat} {h : Hdr} {chip : Nat} {inPort : Option Nat} {y : Module} {w : Dec} (hm : Canon m)
    (e : m.tradewind d h chip inPort = (y, w)) : Canon y :=
  Canon1.of_eq (canon_tradewind hm) e

theorem canon_drawEddy_eq {m : Module} {d g : Nat} {y : Module} {w : Nat} (hm : Canon m)
    (e : m.drawEddy d g = (y, w)) : Canon y :=
  Canon1.of_eq (canon_drawEddy hm) e

theorem canon_eddyDraw_eq {m : Module} {d g : Nat} {h : Hdr} {y : Module} {w : Hdr} (hm : Canon m)
    (e : m.eddyDraw d g h = (y, w)) : Canon y :=
  Canon1.of_eq (canon_eddyDraw hm) e

theorem canon_policy_eq {m : Module} {d g : Nat} {h : Hdr} {y : Module} {w : Hdr} (hm : Canon m)
    (e : m.policy d g h = (y, w)) : Canon y :=
  Canon1.of_eq (canon_policy hm) e

theorem canon_byTable_eq {m : Module} {d : Nat} {h : Hdr} {inPort : Option Nat} {y : Module} {w : Dec} (hm : Canon m)
    (e : m.byTable d h inPort = (y, w)) : Canon y :=
  Canon1.of_eq (canon_byTable hm) e

theorem canon_afterDraw_eq {m : Module} {d : Nat} {h : Hdr} {inPort : Option Nat} {y : Module} {w : Dec} (hm : Canon m)
    (e : m.afterDraw d h inPort = (y, w)) : Canon y :=
  Canon1.of_eq (canon_afterDraw hm) e

theorem canon_decide_eq {m : Module} {d g : Nat} {h : Hdr} {inPort : Option Nat} {first : Bool} {y : Module} {w : Dec} (hm : Canon m)
    (e : m.decide d g h inPort first = (y, w)) : Canon y :=
  Canon1.of_eq (canon_decide hm) e

theorem canon_lookupOwn {m : Module} {id d : Nat} {o : Orig} (hm : Canon m) :
    Canon (m.lookupOwn id d o) := by
  unfold Module.lookupOwn
  repeat' first
    | with_reducible assumption
    | refine fun _ => ?_
    | with_reducible apply canon_discardIfNone
    | with_reducible apply canon_putCopy
    | with_reducible apply canon_count
    | with_reducible apply canon_updBp
    | with_reducible apply canon_decide
    | with_reducible apply canon_apply
    | with_reducible apply canon_foldl
    | with_reducible apply canon_ite
    | simp only [canon_lit, canon1_mk_eq, canon_fst_eq]
    | split

theorem canon_launch_O {m : Module} {d : Nat} {o : Orig} (hm : Canon m) :
    CanonO (m.launch d o) := by
  unfold Module.launch
  repeat' first
    | with_reducible assumption
    | refine canon_alloc ?_ (by with_reducible assumption)
    | with_reducible apply canon_addBp
    | with_reducible apply canon_checkBacked
    | with_reducible apply canon_lookupOwn
    | with_reducible apply canonO_ite
    | simp only [canon_lit, canon1_mk_eq, canon_fst_eq]
    | lift_lets
    | exact canonO_none
    | with_reducible apply canonO_some
    | split

theorem canon_launch {m : Module} {d : Nat} {o : Orig} {y : Module} (hm : Canon m)
    (e : m.launch d o = some y) : Canon y :=
  (canon_launch_O hm).get y e

theorem canon_row_originatedPacketWait {i : Nat} {m : Module} (hm : Canon m) :
    Canon (originatedPacketWait i m) := by
  unfold originatedPacketWait
  repeat' first
    | with_reducible assumption
    | with_reducible apply canon_count
    | with_reducible apply canon_launch_O
    | with_reducible apply canon_getD
    | with_reducible apply canon_rerouteDue
    | with_reducible apply canon_ite
    | simp only [canon_lit, canon1_mk_eq, canon_fst_eq]
    | split

theorem canon_ingressCount {m : Module} {p k : Nat} (hm : Canon m) :
    Canon (m.ingressCount p k) := by
  unfold Module.ingressCount
  repeat' first
    | with_reducible assumption
    | with_reducible apply canon_raise
    | with_reducible apply canon_count
    | with_reducible apply canon_ite

theorem canon_rebuildPool {m : Module} {d : Nat} (hm : Canon m) :
    Canon (m.rebuildPool d) := by
  unfold Module.rebuildPool
  exact canon_setDie hm

theorem canon_police {m : Module} {p : Nat} {h : Hdr} (hm : Canon m) :
    Canon1 (m.police p h) := by
  unfold Module.police
  repeat' first
    | with_reducible assumption
    | with_reducible apply canon_count
    | with_reducible apply canon_ite_fst
    | simp only [canon_lit, canon1_mk_eq, canon_fst_eq]
    | split

theorem canon_police_eq {m : Module} {p : Nat} {h : Hdr} {y : Module} {w : Hdr} (hm : Canon m)
    (e : m.police p h = (y, w)) : Canon y :=
  Canon1.of_eq (canon_police hm) e

theorem canon_row_admitSet {d mask : Nat} {m : Module} (hm : Canon m) :
    Canon (admitSet d mask m) := by
  unfold admitSet
  repeat' first
    | with_reducible assumption
    | refine fun _ => ?_
    | with_reducible apply canon_foldl
    | with_reducible apply canon_ite
    | simp only [canon_lit, canon1_mk_eq, canon_fst_eq]

theorem canon_rehold {m : Module} (hm : Canon m) :
    Canon (m.rehold) := by
  unfold Module.rehold
  repeat' first
    | with_reducible assumption
    | refine fun _ => ?_
    | with_reducible apply canon_redecide
    | with_reducible apply canon_foldl

theorem canon_row_resetRing {d : Nat} {m : Module} (hm : Canon m) :
    Canon (resetRing d m) := by
  unfold resetRing
  repeat' first
    | with_reducible assumption
    | with_reducible apply canon_ringReset
    | with_reducible apply canon_ite

theorem canon_fillTail {m : Module} {p : Nat} (hm : Canon m) :
    Canon (m.fillTail p) := by
  unfold Module.fillTail
  repeat' first
    | with_reducible assumption
    | with_reducible apply canon_setWire
    | with_reducible apply canon_count
    | with_reducible apply canon_ite

theorem canon_packetWhole {m : Module} {p id : Nat} {b : BPkt} (hm : Canon m) :
    Canon (m.packetWhole p id b) := by
  unfold Module.packetWhole
  repeat' first
    | with_reducible assumption
    | with_reducible apply canon_putMark
    | with_reducible apply canon_updBp
    | with_reducible apply canon_settle
    | with_reducible apply canon_markBad
    | with_reducible apply canon_dropUnbegun
    | with_reducible apply canon_raise
    | with_reducible apply canon_count
    | with_reducible apply canon_freeBp
    | with_reducible apply canon_captureLost
    | with_reducible apply canon_ite

theorem canon_row_packetTailArrival {p : Nat} {pl : Bytes} {t0 t1 : Word} {m : Module} (hm : Canon m) :
    Canon (packetTailArrival p pl t0 t1 m) := by
  unfold packetTailArrival
  repeat' first
    | with_reducible assumption
    | refine fun _ => ?_
    | with_reducible apply canon_onPort
    | with_reducible apply canon_fillTail
    | with_reducible apply canon_setWire
    | with_reducible apply canon_updBp
    | with_reducible apply canon_packetWhole
    | with_reducible apply canon_ite
    | simp only [canon_lit, canon1_mk_eq, canon_fst_eq]
    | split

theorem canon_mcPorts {m : Module} {d : Nat} {e : MEntry} {from_ : Option Nat} (hm : Canon m) :
    Canon1 (m.mcPorts d e from_) := by
  unfold Module.mcPorts
  repeat' first
    | with_reducible assumption
    | refine fun _ => ?_
    | with_reducible apply canon_count
    | with_reducible apply foldl_tuple
    | with_reducible apply canon_ite_fst
    | simp only [canon_lit, canon1_mk_eq, canon_fst_eq]

theorem canon_mcPorts_eq {m : Module} {d : Nat} {e : MEntry} {from_ : Option Nat} {y : Module} {w : List Nat} (hm : Canon m)
    (e : m.mcPorts d e from_ = (y, w)) : Canon y :=
  Canon1.of_eq (canon_mcPorts hm) e

theorem canon_localHeader {m : Module} {p : Nat} {h : Hdr} (hm : Canon m) :
    Canon (m.localHeader p h) := by
  unfold Module.localHeader
  repeat' first
    | with_reducible assumption
    | with_reducible apply canon_count
    | with_reducible apply canon_skipRest
    | with_reducible apply canon_rxDrop
    | with_reducible apply canon_setWire
    | with_reducible apply canon_ite

theorem canon_wsReasons {m : Module} {d p : Nat} {h : Hdr} (hm : Canon m) :
    Canon1 (m.wsReasons d p h) := by
  unfold Module.wsReasons
  repeat' first
    | with_reducible assumption
    | with_reducible apply canon_setDie
    | simp only [canon_lit, canon1_mk_eq, canon_fst_eq]

theorem canon_wsReasons_eq {m : Module} {d p : Nat} {h : Hdr} {y : Module} {w : Nat} (hm : Canon m)
    (e : m.wsReasons d p h = (y, w)) : Canon y :=
  Canon1.of_eq (canon_wsReasons hm) e

theorem canon_row_recover {d : Nat} {m : Module} (hm : Canon m) :
    Canon (recover d m) := by
  unfold recover
  repeat' first
    | with_reducible assumption
    | with_reducible apply canon_rebuildPool
    | with_reducible apply canon_ite

theorem canon_lookup {m : Module} {p : Nat} {h : Hdr} (hm : Canon m) :
    Canon (m.lookup p h) := by
  unfold Module.lookup
  repeat' first
    | with_reducible assumption
    | with_reducible apply canon_wsReasons
    | refine canon_alloc ?_ (by with_reducible assumption)
    | with_reducible apply canon_dropHeader
    | with_reducible apply canon_captureDrop
    | with_reducible apply canon_raise
    | with_reducible apply canon_count
    | with_reducible apply canon_setWire
    | with_reducible apply canon_checkBacked
    | with_reducible apply canon_police
    | with_reducible apply canon_addBp
    | with_reducible apply canon_freeBp
    | with_reducible apply canon_dropRecord
    | with_reducible apply canon_updBp
    | with_reducible apply canon_decide
    | with_reducible apply canon_discardIfNone
    | with_reducible apply canon_apply
    | with_reducible apply canon_ite
    | simp only [canon_lit, canon1_mk_eq, canon_fst_eq]
    | lift_lets
    | split

theorem canon_row_rebalancerStep {d : Nat} {m : Module} (hm : Canon m) :
    Canon (rebalancerStep d m) := by
  unfold rebalancerStep
  repeat' first
    | with_reducible assumption
    | with_reducible apply canon_setDie
    | with_reducible apply canon_ite

theorem canon_row_packetArrival {p : Nat} {h : Hdr} {m : Module} (hm : Canon m) :
    Canon (packetArrival p h m) := by
  unfold packetArrival
  repeat' first
    | with_reducible assumption
    | refine fun _ => ?_
    | with_reducible apply canon_onPort
    | with_reducible apply canon_localHeader
    | with_reducible apply canon_dropHeader
    | with_reducible apply canon_rxDrop
    | with_reducible apply canon_wake
    | with_reducible apply canon_lookup
    | with_reducible apply canon_captureDrop
    | with_reducible apply canon_ingressCount
    | with_reducible apply canon_rerouteDue
    | with_reducible apply canon_cmdRefused
    | with_reducible apply canon_ite
    | simp only [canon_lit, canon1_mk_eq, canon_fst_eq]
    | split

theorem canon_row_counterClear {blk off : Nat} {m : Module} (hm : Canon m) :
    Canon (counterClear blk off m) := by
  unfold counterClear
  repeat' first
    | with_reducible assumption
    | with_reducible apply canon_clearRegs
    | split

theorem canon_row_mcastReplication {id : Nat} {m : Module} (hm : Canon m) :
    Canon (mcastReplication id m) := by
  unfold mcastReplication
  repeat' first
    | with_reducible assumption
    | refine fun _ => ?_
    | with_reducible apply canon_updBp
    | with_reducible apply canon_freeBp
    | with_reducible apply canon_dropRecord
    | with_reducible apply canon_count
    | with_reducible apply canon_mcPorts
    | with_reducible apply canon_putCopy
    | with_reducible apply canon_pushLocal
    | with_reducible apply canon_discardIfNone
    | with_reducible apply canon_rerouteDue
    | with_reducible apply canon_passRecord
    | with_reducible apply canon_foldl
    | with_reducible apply canon_ite
    | simp only [canon_lit, canon1_mk_eq, canon_fst_eq]
    | split

end Sys2Proof.Machine
end

