-- ==== Sys2Proof/Laws/CanonTraffic.lean ====
section
/-!
SUPPORT. The operations of Machine/Traffic.lean keep the canonical form of the module's tables (Safety.lean): one lemma for
each, which proofs about the rows cite.
-/
set_option linter.unusedSimpArgs false
set_option linter.unusedTactic false
set_option linter.unreachableTactic false
namespace Sys2Proof.Machine

theorem canon_taken {m : Module} {p : Pkt} (hm : Canon m) :
    Canon (m.taken p) := by
  unfold Module.taken
  simp only [canon_lit, canon1_mk_eq]
  exact hm

theorem canon_toSink {m : Module} {id : Nat} (hm : Canon m) :
    Canon (m.toSink id) := by
  unfold Module.toSink
  repeat' first
    | with_reducible assumption
    | refine fun _ => ?_
    | with_reducible apply canon_correctCells
    | with_reducible apply canon_level
    | with_reducible apply canon_countWrite
    | with_reducible apply canon_freshTile
    | with_reducible apply canon_count
    | with_reducible apply canon_setDie
    | with_reducible apply canon_settle
    | with_reducible apply canon_updBp
    | with_reducible apply canon_localHeads
    | with_reducible apply canon_foldl
    | with_reducible apply canon_ite
    | simp only [canon_lit, canon1_mk_eq, canon_fst_eq]
    | split

theorem canon_refillShaper {m : Module} {s : Nat} (hm : Canon m) :
    Canon (m.refillShaper s) := by
  unfold Module.refillShaper
  simp only [canon_lit, canon1_mk_eq]
  exact hm

theorem canon_refillPolicer {m : Module} {s : Nat} (hm : Canon m) :
    Canon (m.refillPolicer s) := by
  unfold Module.refillPolicer
  simp only [canon_lit, canon1_mk_eq]
  exact hm

theorem canon_syncHeads {m : Module} (hm : Canon m) :
    Canon (m.syncHeads) := by
  unfold Module.syncHeads
  repeat' first
    | with_reducible assumption
    | refine fun _ => ?_
    | with_reducible apply canon_foldl
    | with_reducible apply canon_ite
    | simp only [canon_lit, canon1_mk_eq, canon_fst_eq]

theorem canon_row_shaperRefill {m : Module} (hm : Canon m) :
    Canon (shaperRefill m) := by
  unfold shaperRefill
  repeat' first
    | with_reducible assumption
    | refine fun _ => ?_
    | with_reducible apply canon_reach
    | with_reducible apply canon_refillShaper
    | with_reducible apply canon_refillPolicer
    | with_reducible apply canon_syncHeads
    | with_reducible apply canon_foldl
    | with_reducible apply canon_ite
    | simp only [canon_lit, canon1_mk_eq, canon_fst_eq]

theorem canon_row_headwindReceived {p : Pkt} {m : Module} (hm : Canon m) :
    Canon (headwindReceived p m) := by
  unfold headwindReceived
  repeat' first
    | with_reducible assumption
    | with_reducible apply canon_taken
    | with_reducible apply canon_count
    | with_reducible apply canon_throttleAll
    | with_reducible apply canon_ite

theorem canon_placeWheel {m : Module} {s : Nat} (hm : Canon m) :
    Canon (m.placeWheel s) := by
  unfold Module.placeWheel
  repeat' first
    | with_reducible assumption
    | with_reducible apply canon_count
    | with_reducible apply canon_ite
    | simp only [canon_lit, canon1_mk_eq, canon_fst_eq]

theorem canon_onSend {m : Module} {k len : Nat} (hm : Canon m) :
    Canon (m.onSend k len) := by
  unfold Module.onSend
  repeat' first
    | with_reducible assumption
    | refine fun _ => ?_
    | with_reducible apply canon_placeWheel
    | with_reducible apply canon_foldl
    | with_reducible apply canon_ite
    | simp only [canon_lit, canon1_mk_eq, canon_fst_eq]

theorem canon_startCopy {m : Module} {p k : Nat} {b : BPkt} {c : Copy} (hm : Canon m) :
    Canon (m.startCopy p k b c) := by
  unfold Module.startCopy
  repeat' first
    | with_reducible assumption
    | with_reducible apply canon_updBp
    | with_reducible apply canon_unqueue
    | with_reducible apply canon_hubEnter
    | with_reducible apply canon_setWire
    | with_reducible apply canon_syncHeads
    | with_reducible apply canon_onSend
    | with_reducible apply canon_count
    | with_reducible apply canon_headwind
    | with_reducible apply canon_ite
    | lift_lets
    | split

theorem canon_wfqAdvance {m : Module} {p v f : Nat} (hm : Canon m) :
    Canon (m.wfqAdvance p v f) := by
  unfold Module.wfqAdvance
  exact canon_setSched hm

theorem canon_drr {m : Module} {p z2 : Nat} (hm : Canon m) :
    Canon1 (m.drr p z2) := by
  induction z2 generalizing m p with
  | zero =>
    unfold Module.drr
    repeat' first
      | with_reducible assumption
      | simp only [canon_lit, canon1_mk_eq, canon_fst_eq]
  | succ n ih =>
    unfold Module.drr
    repeat' first
      | with_reducible assumption
      | with_reducible apply canon_setSched
      | with_reducible apply canon_wfqAdvance
      | with_reducible apply ih
      | with_reducible apply canon_ite_fst
      | simp only [canon_lit, canon1_mk_eq, canon_fst_eq]
      | split

theorem canon_drr_eq {m : Module} {p z2 : Nat} {y : Module} {w : Option Nat} (hm : Canon m)
    (e : m.drr p z2 = (y, w)) : Canon y :=
  Canon1.of_eq (canon_drr hm) e

theorem canon_endTurn {m : Module} {p : Nat} (hm : Canon m) :
    Canon (m.endTurn p) := by
  unfold Module.endTurn
  repeat' first
    | with_reducible assumption
    | with_reducible apply canon_setSched
    | with_reducible apply canon_ite
    | simp only [canon_lit, canon1_mk_eq, canon_fst_eq]
    | split

theorem canon_schedule {m : Module} {p : Nat} (hm : Canon m) :
    Canon1 (m.schedule p) := by
  unfold Module.schedule
  repeat' first
    | with_reducible assumption
    | with_reducible apply canon_drr
    | with_reducible apply canon_ite_fst
    | with_reducible apply canon_endTurn
    | simp only [canon_lit, canon1_mk_eq, canon_fst_eq]

theorem canon_schedule_eq {m : Module} {p : Nat} {y : Module} {w : Option Nat} (hm : Canon m)
    (e : m.schedule p = (y, w)) : Canon y :=
  Canon1.of_eq (canon_schedule hm) e

theorem canon_abandonFenced {m : Module} {p : Nat} (hm : Canon m) :
    Canon (m.abandonFenced p) := by
  unfold Module.abandonFenced
  repeat' first
    | with_reducible assumption
    | with_reducible apply canon_settle
    | with_reducible apply canon_count
    | with_reducible apply canon_dropCopy
    | split

theorem canon_row_headwindHoldExpiry {d i : Nat} {m : Module} (hm : Canon m) :
    Canon (headwindHoldExpiry d i m) := by
  unfold headwindHoldExpiry
  repeat' first
    | with_reducible assumption
    | with_reducible apply canon_reach
    | with_reducible apply canon_setDie
    | with_reducible apply canon_pass
    | simp only [canon_lit, canon1_mk_eq, canon_fst_eq]
    | split

theorem canon_row_timingWheelSlot {d : Nat} {m : Module} (hm : Canon m) :
    Canon (timingWheelSlot d m) := by
  unfold timingWheelSlot
  repeat' first
    | with_reducible assumption
    | refine fun _ => ?_
    | with_reducible apply canon_placeWheel
    | with_reducible apply canon_foldl
    | with_reducible apply canon_ite
    | simp only [canon_lit, canon1_mk_eq, canon_fst_eq]
    | split

theorem canon_sendDone {m : Module} {p : Nat} (hm : Canon m) :
    Canon (m.sendDone p) := by
  unfold Module.sendDone
  repeat' first
    | with_reducible assumption
    | with_reducible apply canon_endTurn
    | with_reducible apply canon_sendWaiting
    | with_reducible apply canon_setWire
    | with_reducible apply canon_enterDown
    | with_reducible apply canon_ite

theorem canon_calmFixed {m : Module} {b : BPkt} {c : Copy} (hm : Canon m) :
    Canon (m.calmFixed b c) := by
  unfold Module.calmFixed
  repeat' first
    | with_reducible assumption
    | with_reducible apply canon_count
    | with_reducible apply canon_settle
    | with_reducible apply canon_dropRecord
    | with_reducible apply canon_raise
    | with_reducible apply canon_putCopy
    | with_reducible apply canon_ite

theorem canon_calmMove {m : Module} {d : Nat} {b : BPkt} {c : Copy} (hm : Canon m) :
    Canon (m.calmMove d b c) := by
  unfold Module.calmMove
  repeat' first
    | with_reducible assumption
    | (intro mm; first | (have hmm : Canon mm := ?_; on_goal 1 => clear_value mm) | clear_value mm)
    | unfold mm
    | lift_lets
    | with_reducible apply canon_ite
    | split
    | with_reducible apply canon_dropCopy
    | with_reducible apply canon_count
    | with_reducible apply canon_settle
    | with_reducible apply canon_dropRecord
    | with_reducible apply canon_calmFixed
    | refine canon_calmEgress_eq ?_ (by with_reducible assumption)
    | with_reducible apply canon_discardIfNone
    | with_reducible apply canon_apply

theorem canon_row_calmEntry {q : Nat} {m : Module} (hm : Canon m) :
    Canon (calmEntry q m) := by
  unfold calmEntry
  repeat' first
    | with_reducible assumption
    | with_reducible apply canon_calmMove
    | with_reducible apply canon_reach
    | with_reducible apply canon_count
    | with_reducible apply canon_dropRecord
    | with_reducible apply canon_setDie
    | with_reducible apply canon_localHeads
    | with_reducible apply canon_settle
    | with_reducible apply canon_updBp
    | with_reducible apply canon_level
    | with_reducible apply canon_toSink
    | with_reducible apply canon_pass
    | with_reducible apply canon_ite
    | simp only [canon_lit, canon1_mk_eq, canon_fst_eq]
    | split

theorem canon_row_egressStart {p : Nat} {m : Module} (hm : Canon m) :
    Canon (egressStart p m) := by
  unfold egressStart
  repeat' first
    | with_reducible assumption
    | refine fun _ => ?_
    | with_reducible apply canon_onPort
    | with_reducible apply canon_abandonFenced
    | with_reducible apply canon_schedule
    | with_reducible apply canon_startCopy
    | with_reducible apply canon_rerouteDue
    | with_reducible apply canon_ite
    | simp only [canon_lit, canon1_mk_eq, canon_fst_eq]
    | split

theorem canon_row_packetSent {p : Nat} {m : Module} (hm : Canon m) :
    Canon (packetSent p m) := by
  unfold packetSent
  repeat' first
    | with_reducible assumption
    | refine fun _ => ?_
    | with_reducible apply canon_onPort
    | with_reducible apply canon_sendDone
    | with_reducible apply canon_correctCells
    | with_reducible apply canon_hubLeave
    | with_reducible apply canon_count
    | with_reducible apply canon_sendPkt
    | with_reducible apply canon_settle
    | with_reducible apply canon_updBp
    | with_reducible apply canon_ite
    | simp only [canon_lit, canon1_mk_eq, canon_fst_eq]
    | lift_lets
    | split

theorem canon_row_calmHoldExpiry {p : Nat} {m : Module} (hm : Canon m) :
    Canon (calmHoldExpiry p m) := by
  unfold calmHoldExpiry
  repeat' first
    | with_reducible assumption
    | refine fun _ => ?_
    | with_reducible apply canon_onPort
    | with_reducible apply canon_reach
    | with_reducible apply canon_settle
    | with_reducible apply canon_raise
    | with_reducible apply canon_count
    | with_reducible apply canon_dropCopy
    | with_reducible apply canon_pass
    | with_reducible apply canon_ite
    | simp only [canon_lit, canon1_mk_eq, canon_fst_eq]
    | split

end Sys2Proof.Machine
end

