-- ==== Sys2Proof/Laws/CanonStore.lean ====
section
/-!
SUPPORT. The operations of Machine/Store.lean keep the canonical form of the module's tables (Safety.lean): one lemma for
each, which proofs about the rows cite.
-/
set_option linter.unusedSimpArgs false
set_option linter.unusedTactic false
set_option linter.unreachableTactic false
namespace Sys2Proof.Machine

theorem canon_warm {m : Module} {off : Nat} (hm : Canon m) :
    Canon (m.warm off) := by
  unfold Module.warm
  simp only [canon_lit, canon1_mk_eq]
  exact hm

theorem canon_setObj {m : Module} {i : Nat} {o : Obj} (hm : Canon m) :
    Canon (m.setObj i o) := by
  unfold Module.setObj
  simp only [canon_lit, canon1_mk_eq]
  exact hm

theorem canon_storeTile {a0 : Module} {a1 : Nat} {a2 : Nat} {a3 : Nat} {a4 : Bytes} (h0 : Canon a0) : Canon (@Module.storeTile a0 a1 a2 a3 a4) := by
  unfold Module.storeTile
  extract_lets o whole src m1 m2
  have hm : Canon m2 := by
    unfold m2 m1
    split
    · exact canon_warm h0
    · exact canon_countRead (canon_warm h0)
  clear_value m2
  split
  · exact canon_countWrite (canon_setObj (canon_setMem (canon_freshTile hm)
      (Memory.write_wf hm.mem _ _)))
  · refine canon_countWrite (canon_setObj (canon_setMem ?_ (Memory.write_wf hm.mem _ _)))
    exact canon_ite (canon_freshTile hm) hm

theorem canon_wipeExts {m : Module} {l : List (Nat × Nat)} (hm : Canon m) :
    Canon (m.wipeExts l) := by
  unfold Module.wipeExts
  repeat' first
    | with_reducible assumption
    | refine fun _ => ?_
    | with_reducible apply canon_foldl
    | simp only [canon_lit, canon1_mk_eq, canon_fst_eq]
    | with_reducible apply canon_memErase

theorem canon_progress {m : Module} {j : Job} (hm : Canon m) :
    Canon (m.progress j) := by
  unfold Module.progress
  exact canon_updEntry hm

theorem canon_failJob {m : Module} {i : Nat} {st : Nat} (hm : Canon m) :
    Canon (m.failJob i st) := by
  unfold Module.failJob
  repeat' first
    | with_reducible assumption
    | refine fun _ => ?_
    | with_reducible apply canon_wipeExts
    | with_reducible apply canon_workOver
    | with_reducible apply canon_setObj
    | with_reducible apply canon_progress
    | with_reducible apply canon_foldl
    | with_reducible apply canon_ite
    | simp only [canon_lit, canon1_mk_eq, canon_fst_eq]
    | lift_lets
    | split

theorem canon_endDigest {m : Module} {i : Nat} {j : Job} {st : Nat} (hm : Canon m) :
    Canon (m.endDigest i j st) := by
  unfold Module.endDigest
  repeat' first
    | with_reducible assumption
    | with_reducible apply canon_workOver
    | with_reducible apply canon_setObj
    | with_reducible apply canon_ite

theorem canon_digestTile {m : Module} {i : Nat} (hm : Canon m) :
    Canon (m.digestTile i) := by
  unfold Module.digestTile
  repeat' first
    | with_reducible assumption
    | with_reducible apply canon_check1
    | with_reducible apply canon_countRead
    | with_reducible apply canon_endDigest
    | with_reducible apply canon_setObj
    | with_reducible apply canon_ite
    | simp only [canon_lit, canon1_mk_eq, canon_fst_eq]
    | split

theorem canon_finishDigest {m : Module} {i kind : Nat} (hm : Canon m) :
    Canon (m.finishDigest i kind) := by
  unfold Module.finishDigest
  repeat' first
    | with_reducible assumption
    | refine fun _ => ?_
    | with_reducible apply canon_digestTile
    | with_reducible apply canon_endDigest
    | with_reducible apply canon_foldl
    | with_reducible apply canon_ite
    | simp only [canon_lit, canon1_mk_eq, canon_fst_eq]
    | split

theorem canon_row_sealDigestDone {handle : Nat} {c : EccIn} {m : Module} (hm : Canon m) :
    Canon (sealDigestDone handle c m) := by
  unfold sealDigestDone
  repeat' first
    | with_reducible assumption
    | with_reducible apply canon_strike
    | with_reducible apply canon_finishDigest
    | simp only [canon_lit, canon1_mk_eq, canon_fst_eq]
    | split

theorem canon_moveTile {m : Module} {handle tile src dst : Nat} (hm : Canon m) :
    Canon (m.moveTile handle tile src dst) := by
  unfold Module.moveTile
  repeat' first
    | with_reducible assumption
    | with_reducible apply canon_check1
    | with_reducible apply canon_countRead
    | with_reducible apply canon_freshTile
    | with_reducible apply canon_countWrite
    | simp only [canon_lit, canon1_mk_eq, canon_fst_eq]
    | lift_lets
    | with_reducible apply canon_memWrite

theorem canon_copyTile {m : Module} {i : Nat} (hm : Canon m) :
    Canon (m.copyTile i) := by
  unfold Module.copyTile
  repeat' first
    | with_reducible assumption
    | refine fun _ => ?_
    | with_reducible apply canon_moveTile
    | with_reducible apply canon_setObj
    | with_reducible apply foldl_tuple
    | with_reducible apply canon_failJob
    | simp only [canon_lit, canon1_mk_eq, canon_fst_eq]
    | split

theorem canon_jobsTick {m : Module} (hm : Canon m) :
    Canon (m.jobsTick) := by
  unfold Module.jobsTick
  repeat' first
    | with_reducible assumption
    | refine fun _ => ?_
    | with_reducible apply canon_copyTile
    | with_reducible apply canon_digestTile
    | with_reducible apply canon_foldl
    | with_reducible apply canon_ite

theorem canon_clockTick {m : Module} (hm : Canon m) :
    Canon (m.clockTick) := by
  unfold Module.clockTick
  repeat' first
    | with_reducible assumption
    | refine fun _ => ?_
    | with_reducible apply canon_jobsTick
    | with_reducible apply canon_segDue
    | with_reducible apply canon_foldl
    | with_reducible apply canon_ite
    | simp only [canon_lit, canon1_mk_eq, canon_fst_eq]

theorem canon_storeResize {m : Module} {i size : Nat} (hm : Canon m) :
    Canon1 (m.storeResize i size) := by
  unfold Module.storeResize
  repeat' first
    | with_reducible assumption
    | refine fun _ => ?_
    | with_reducible apply canon_freshTile
    | with_reducible apply canon_wipeExts
    | with_reducible apply canon_setObj
    | with_reducible apply canon_foldl
    | with_reducible apply canon_ite
    | with_reducible apply canon_ite_fst
    | simp only [canon_lit, canon1_mk_eq, canon_fst_eq]
    | lift_lets
    | split
    | refine ⟨?_, ?_, ?_, ?_, ?_⟩
    | with_reducible apply Canon.regs
    | with_reducible apply Canon.mem
    | with_reducible apply Canon.ports
    | with_reducible apply Canon.dies
    | with_reducible apply Canon.engs
    | with_reducible apply Memory.erase_wf

theorem canon_storeResize_eq {m : Module} {i size : Nat} {y : Module} {w : Nat} (hm : Canon m)
    (e : m.storeResize i size = (y, w)) : Canon y :=
  Canon1.of_eq (canon_storeResize hm) e

theorem canon_nextSegment {a0 : Module} {a1 : Nat} {a2 : Job} {a3 : Nat} (h0 : Canon a0) : Canon1 (@Module.nextSegment a0 a1 a2 a3) := by
  induction a3 generalizing a0 a2 with
  | zero => exact h0
  | succ n ih =>
    unfold Module.nextSegment
    repeat' first
    | with_reducible assumption
    | (intro mm)
    | simp only [canon1_mk_eq]
    | with_reducible apply ih
    | with_reducible apply canon_wipeExts
    | simp only [canon_lit]
    | split
theorem canon_nextSegment_eq {a0 : Module} {a1 : Nat} {a2 : Job} {a3 : Nat} {y : Module} {z} (h0 : Canon a0) (e : @Module.nextSegment a0 a1 a2 a3 = (y, z)) : Canon y := by
  have h := @canon_nextSegment a0 a1 a2 a3 h0
  rw [e] at h; exact h

theorem canon_advanceJob {m : Module} {i : Nat} {j : Job} (hm : Canon m) :
    Canon (m.advanceJob i j) := by
  unfold Module.advanceJob
  repeat' first
    | with_reducible assumption
    | with_reducible apply canon_nextSegment
    | with_reducible apply canon_progress
    | with_reducible apply canon_setObj
    | with_reducible apply canon_workOver
    | simp only [canon_lit, canon1_mk_eq, canon_fst_eq]
    | split

theorem canon_row_heatHalving {m : Module} (hm : Canon m) :
    Canon (heatHalving m) := by
  unfold heatHalving
  repeat' first
    | with_reducible assumption
    | with_reducible apply canon_reach
    | with_reducible apply canon_ite
    | simp only [canon_lit, canon1_mk_eq, canon_fst_eq]

theorem canon_scrubReserve {m : Module} {tile : Nat} (hm : Canon m) :
    Canon (m.scrubReserve tile) := by
  unfold Module.scrubReserve
  repeat' first
    | with_reducible assumption
    | with_reducible apply canon_checkRes
    | with_reducible apply canon_countRead
    | with_reducible apply canon_count
    | with_reducible apply canon_ite

theorem canon_storeCreate {m : Module} {part placement die split : Nat} {retain : Bool} {max size : Nat} (hm : Canon m) :
    Canon1 (m.storeCreate part placement die split retain max size) := by
  unfold Module.storeCreate
  repeat' first
    | with_reducible assumption
    | with_reducible apply canon_wipeExts
    | simp only [canon_lit, canon1_mk_eq, canon_fst_eq]
    | split

theorem canon_storeCreate_eq {m : Module} {part placement die split : Nat} {retain : Bool} {max size : Nat} {y : Module} {w : (Nat ⊕ Nat)} (hm : Canon m)
    (e : m.storeCreate part placement die split retain max size = (y, w)) : Canon y :=
  Canon1.of_eq (canon_storeCreate hm) e

theorem canon_storeDelete {m : Module} {i : Nat} (hm : Canon m) :
    Canon (m.storeDelete i) := by
  unfold Module.storeDelete
  repeat' first
    | with_reducible assumption
    | with_reducible apply canon_wipeExts
    | simp only [canon_lit, canon1_mk_eq, canon_fst_eq]

theorem canon_replaceExtent {m : Module} {handle : Nat} {old new : Nat × Nat} {bad : Nat} {tileAt : Nat → Nat} (hm : Canon m) :
    Canon (m.replaceExtent handle old new bad tileAt) := by
  unfold Module.replaceExtent
  repeat' first
    | with_reducible assumption
    | refine fun _ => ?_
    | with_reducible apply canon_wipeExts
    | with_reducible apply canon_countWrite
    | with_reducible apply canon_moveTile
    | with_reducible apply canon_foldl
    | with_reducible apply canon_ite
    | simp only [canon_lit, canon1_mk_eq, canon_fst_eq]

theorem canon_retire {m : Module} {i tile : Nat} (hm : Canon m) :
    Canon1 (m.retire i tile) := by
  unfold Module.retire
  repeat' first
    | with_reducible assumption
    | with_reducible apply canon_setObj
    | with_reducible apply canon_replaceExtent
    | simp only [canon_lit, canon1_mk_eq, canon_fst_eq]
    | split

theorem canon_retire_eq {m : Module} {i tile : Nat} {y : Module} {w : Nat} (hm : Canon m)
    (e : m.retire i tile = (y, w)) : Canon y :=
  Canon1.of_eq (canon_retire hm) e

theorem canon_switchSegment {m : Module} {i : Nat} (hm : Canon m) :
    Canon1 (m.switchSegment i) := by
  unfold Module.switchSegment
  repeat' first
    | with_reducible assumption
    | refine fun _ => ?_
    | with_reducible apply canon_copyTile
    | with_reducible apply canon_wipeExts
    | with_reducible apply canon_setObj
    | with_reducible apply canon_foldl
    | simp only [canon_lit, canon1_mk_eq, canon_fst_eq]
    | split

theorem canon_switchSegment_eq {m : Module} {i : Nat} {y : Module} {w : Option Job} (hm : Canon m)
    (e : m.switchSegment i = (y, w)) : Canon y :=
  Canon1.of_eq (canon_switchSegment hm) e

theorem canon_settleMoves {m : Module} (hm : Canon m) :
    Canon (m.settleMoves) := by
  unfold Module.settleMoves
  repeat' first
    | with_reducible assumption
    | refine fun _ => ?_
    | with_reducible apply canon_switchSegment
    | with_reducible apply canon_foldl
    | simp only [canon_lit, canon1_mk_eq, canon_fst_eq]

theorem canon_row_digestDone {handle : Nat} {c : EccIn} {m : Module} (hm : Canon m) :
    Canon (digestDone handle c m) := by
  unfold digestDone
  repeat' first
    | with_reducible assumption
    | with_reducible apply canon_strike
    | with_reducible apply canon_finishDigest
    | simp only [canon_lit, canon1_mk_eq, canon_fst_eq]
    | split

theorem canon_scrubCopy {m : Module} {handle tile k : Nat} (hm : Canon m) :
    Canon (m.scrubCopy handle tile k) := by
  unfold Module.scrubCopy
  repeat' first
    | with_reducible assumption
    | with_reducible apply canon_check1
    | with_reducible apply canon_countRead
    | with_reducible apply canon_count
    | with_reducible apply canon_ite

theorem canon_row_scrubTile {handle tile : Nat} {e : EccIn} {m : Module} (hm : Canon m) :
    Canon (scrubTile handle tile e m) := by
  unfold scrubTile
  repeat' first
    | with_reducible assumption
    | refine fun _ => ?_
    | with_reducible apply canon_strike
    | with_reducible apply canon_scrubReserve
    | with_reducible apply canon_scrubCopy
    | with_reducible apply canon_foldl
    | with_reducible apply canon_ite
    | simp only [canon_lit, canon1_mk_eq, canon_fst_eq]
    | split

theorem canon_row_migrationSegmentDone {entry : Nat} {c : EccIn} {m : Module} (hm : Canon m) :
    Canon (migrationSegmentDone entry c m) := by
  unfold migrationSegmentDone
  repeat' first
    | with_reducible assumption
    | with_reducible apply canon_strike
    | with_reducible apply canon_switchSegment
    | with_reducible apply canon_workOver
    | with_reducible apply canon_setObj
    | with_reducible apply canon_progress
    | with_reducible apply canon_advanceJob
    | refine canon_switchSegment_eq ?_ ‹_›
    | with_reducible apply canon_ite
    | simp only [canon_lit, canon1_mk_eq, canon_fst_eq]
    | split

end Sys2Proof.Machine
end

