-- ==== Sys2Proof/Laws/CanonOrdering.lean ====
section
/-!
SUPPORT. The operations of Machine/Ordering.lean keep the canonical form of the module's tables (Safety.lean): one lemma for
each, which proofs about the rows cite.
-/
set_option linter.unusedSimpArgs false
set_option linter.unusedTactic false
set_option linter.unreachableTactic false
namespace Sys2Proof.Machine

theorem canon_writeError {m : Module} {src status n : Nat} (hm : Canon m) :
    Canon (m.writeError src status n) := by
  unfold Module.writeError
  simp only [canon_lit, canon1_mk_eq]
  exact hm

theorem canon_fenceAck {m : Module} {p : Pkt} {status : Nat} (hm : Canon m) :
    Canon (m.fenceAck p status) := by
  unfold Module.fenceAck
  repeat' first
    | with_reducible assumption
    | with_reducible apply canon_answer
    | simp only [canon_lit, canon1_mk_eq, canon_fst_eq]

theorem canon_kernelRefuse {m : Module} {p : Pkt} {status : Nat} {die : Option Nat} (hm : Canon m) :
    Canon (m.kernelRefuse p status die) := by
  unfold Module.kernelRefuse
  exact canon_originate hm

theorem canon_refuse {m : Module} {p : Pkt} {status : Nat} {die : Option Nat} (hm : Canon m) :
    Canon (m.refuse p status die) := by
  unfold Module.refuse
  repeat' first
    | with_reducible assumption
    | with_reducible apply canon_writeError
    | with_reducible apply canon_answer
    | with_reducible apply canon_fenceAck
    | with_reducible apply canon_kernelRefuse
    | with_reducible apply canon_ite

theorem canon_refuseReserved {m : Module} (hm : Canon m) :
    Canon (m.refuseReserved) := by
  unfold Module.refuseReserved
  repeat' first
    | with_reducible assumption
    | refine fun _ => ?_
    | with_reducible apply canon_refuse
    | with_reducible apply canon_taken
    | with_reducible apply canon_foldl
    | with_reducible apply canon_ite
    | simp only [canon_lit, canon1_mk_eq, canon_fst_eq]
    | lift_lets
    | split

theorem canon_perform {m : Module} {p : Pkt} {type : Nat} {f : Module → Module} (hm : Canon m) (hf : ∀ x0, Canon x0 → Canon (f x0)) :
    Canon (m.perform p type f) := by
  unfold Module.perform
  repeat' first
    | with_reducible assumption
    | with_reducible apply hf
    | with_reducible apply canon_taken
    | with_reducible apply canon_refuseReserved
    | with_reducible apply canon_ite

theorem canon_answerMark {m : Module} {d : Nat} {p : Pkt} (hm : Canon m) :
    Canon (m.answerMark d p) := by
  unfold Module.answerMark
  repeat' first
    | with_reducible assumption
    | with_reducible apply canon_headwind
    | with_reducible apply canon_ite

theorem canon_leaveBuffer {m : Module} {id : Option Nat} (hm : Canon m) :
    Canon (m.leaveBuffer id) := by
  unfold Module.leaveBuffer
  repeat' first
    | with_reducible assumption
    | with_reducible apply canon_setDie
    | with_reducible apply canon_localHeads
    | with_reducible apply canon_settle
    | with_reducible apply canon_updBp
    | simp only [canon_lit, canon1_mk_eq, canon_fst_eq]
    | split

theorem canon_letGo {m : Module} {id : Option Nat} (hm : Canon m) :
    Canon (m.letGo id) := by
  unfold Module.letGo
  repeat' first
    | with_reducible assumption
    | with_reducible apply canon_leaveBuffer
    | with_reducible apply canon_updBp
    | split

theorem canon_setSrc {m : Module} {s : Nat} {x : Src} (hm : Canon m) :
    Canon (m.setSrc s x) := by
  unfold Module.setSrc
  simp only [canon_lit, canon1_mk_eq]
  exact hm

theorem canon_gapStart {m : Module} {s : Nat} (hm : Canon m) :
    Canon (m.gapStart s) := by
  unfold Module.gapStart
  exact canon_setSrc hm

theorem canon_handOver {m : Module} {p : Pkt} {id : Option Nat} (hm : Canon m) :
    Canon (m.handOver p id) := by
  unfold Module.handOver
  repeat' first
    | with_reducible assumption
    | with_reducible apply canon_letGo
    | with_reducible apply canon_count
    | with_reducible apply canon_refuse
    | with_reducible apply canon_leaveBuffer
    | with_reducible apply canon_correctOf
    | with_reducible apply canon_refuseReserved
    | with_reducible apply canon_ite
    | simp only [canon_lit, canon1_mk_eq, canon_fst_eq]
    | lift_lets
    | split

theorem canon_commitSeq {m : Module} {p : Pkt} {id : Option Nat} (hm : Canon m) :
    Canon (m.commitSeq p id) := by
  unfold Module.commitSeq
  exact canon_handOver (canon_count (canon_gapStart (canon_setSrc hm)))

theorem canon_takeUnsync {m : Module} {p : Pkt} {id : Option Nat} (hm : Canon m) :
    Canon (m.takeUnsync p id) := by
  unfold Module.takeUnsync
  repeat' first
    | with_reducible assumption
    | with_reducible apply canon_commitSeq
    | with_reducible apply canon_count
    | simp only [canon_lit, canon1_mk_eq, canon_fst_eq]

theorem canon_park {m : Module} {p : Pkt} {id : Option Nat} (hm : Canon m) :
    Canon (m.park p id) := by
  unfold Module.park
  repeat' first
    | with_reducible assumption
    | with_reducible apply canon_setSrc
    | with_reducible apply canon_gapStart
    | with_reducible apply canon_count
    | with_reducible apply canon_updBp
    | with_reducible apply canon_localHeads
    | with_reducible apply canon_setDie
    | with_reducible apply canon_ite
    | simp only [canon_lit, canon1_mk_eq, canon_fst_eq]
    | split

theorem canon_late {m : Module} {p : Pkt} {id : Option Nat} (hm : Canon m) :
    Canon (m.late p id) := by
  unfold Module.late
  exact canon_letGo (canon_refuse (canon_count hm))

theorem canon_reorder {m : Module} {p : Pkt} {id : Option Nat} {queued : Bool} (hm : Canon m) :
    Canon (m.reorder p id queued) := by
  unfold Module.reorder
  repeat' first
    | with_reducible assumption
    | with_reducible apply canon_commitSeq
    | with_reducible apply canon_takeUnsync
    | with_reducible apply canon_park
    | with_reducible apply canon_late
    | split

theorem canon_overflow {m : Module} {d : Nat} {e : Early} {p : Pkt} (hm : Canon m) :
    Canon (m.overflow d e p) := by
  unfold Module.overflow
  repeat' first
    | with_reducible assumption
    | refine fun _ => ?_
    | with_reducible apply canon_setDie
    | with_reducible apply canon_count
    | with_reducible apply canon_foldl
    | with_reducible apply canon_ite
    | simp only [canon_lit, canon1_mk_eq, canon_fst_eq]
    | lift_lets
    | split

theorem canon_deliver {m : Module} {d : Nat} {p : Pkt} {id : Option Nat} {this : Early} (hm : Canon m) :
    Canon (m.deliver d p id this) := by
  unfold Module.deliver
  repeat' first
    | with_reducible assumption
    | with_reducible apply canon_count
    | with_reducible apply canon_answerMark
    | with_reducible apply canon_letGo
    | with_reducible apply canon_reorder
    | with_reducible apply canon_handOver
    | with_reducible apply canon_ite
    | lift_lets
    | split

theorem canon_row_localDelivery {d i : Nat} {m : Module} (hm : Canon m) :
    Canon (localDelivery d i m) := by
  unfold localDelivery
  repeat' first
    | with_reducible assumption
    | with_reducible apply canon_toSink
    | with_reducible apply canon_deliver
    | with_reducible apply canon_level
    | with_reducible apply canon_setDie
    | with_reducible apply canon_count
    | with_reducible apply canon_overflow
    | with_reducible apply canon_ite
    | simp only [canon_lit, canon1_mk_eq, canon_fst_eq]
    | split

theorem canon_atomic {m : Module} {p : Pkt} {c : EccIn} {op : Nat} (hm : Canon m) :
    Canon (m.atomic p c op) := by
  unfold Module.atomic
  repeat' first
    | with_reducible assumption
    | refine fun _ => ?_
    | with_reducible apply canon_perform
    | with_reducible apply canon_strike
    | with_reducible apply canon_answer
    | with_reducible apply canon_check1
    | with_reducible apply canon_storeTile
    | with_reducible apply canon_countRead
    | with_reducible apply canon_warm
    | with_reducible apply canon_ite
    | simp only [canon_lit, canon1_mk_eq, canon_fst_eq]
    | lift_lets
    | split

theorem canon_row_fetchMaxU {p : Pkt} {c : EccIn} {m : Module} (hm : Canon m) :
    Canon (fetchMaxU p c m) := by
  unfold fetchMaxU
  exact canon_atomic hm

theorem canon_leaveSink {m : Module} {d : Nat} {s : Nat} {p : Pkt} (hm : Canon m) :
    Canon (m.leaveSink d s p) := by
  unfold Module.leaveSink
  repeat' first
    | with_reducible assumption
    | refine fun _ => ?_
    | with_reducible apply canon_freeSlot
    | with_reducible apply canon_countRead
    | with_reducible apply canon_foldl
    | with_reducible apply canon_ite
    | simp only [canon_lit, canon1_mk_eq, canon_fst_eq]
    | lift_lets
    | split

theorem canon_dropSource {m : Module} {src : Nat} (hm : Canon m) :
    Canon1 (m.dropSource src) := by
  unfold Module.dropSource
  repeat' first
    | with_reducible assumption
    | refine fun _ => ?_
    | with_reducible apply canon_setSrc
    | with_reducible apply canon_letGo
    | with_reducible apply canon_freeSlot
    | split
    | with_reducible apply canon_foldl
    | simp only [canon_lit, canon1_mk_eq, canon_fst_eq]

theorem canon_dropSource_eq {m : Module} {src : Nat} {y : Module} {w : Nat} (hm : Canon m)
    (e : m.dropSource src = (y, w)) : Canon y :=
  Canon1.of_eq (canon_dropSource hm) e

theorem canon_row_swap {p : Pkt} {c : EccIn} {m : Module} (hm : Canon m) :
    Canon (swap p c m) := by
  unfold swap
  exact canon_atomic hm

theorem canon_castFromSink {m : Module} {d : Nat} {p : Pkt} (hm : Canon m) :
    Canon (m.castFromSink d p) := by
  unfold Module.castFromSink
  repeat' first
    | with_reducible assumption
    | with_reducible apply canon_count
    | with_reducible apply canon_originate
    | with_reducible apply canon_ite

theorem canon_commitRun {m : Module} {src z2 : Nat} (hm : Canon m) :
    Canon (m.commitRun src z2) := by
  induction z2 generalizing m src with
  | zero =>
    unfold Module.commitRun
    repeat' first
      | with_reducible assumption
  | succ n ih =>
    unfold Module.commitRun
    repeat' first
      | with_reducible assumption
      | with_reducible apply canon_setSrc
      | with_reducible apply canon_commitSeq
      | with_reducible apply ih
      | simp only [canon_lit, canon1_mk_eq, canon_fst_eq]
      | split

theorem canon_row_gapTimeout {src : Nat} {m : Module} (hm : Canon m) :
    Canon (gapTimeout src m) := by
  unfold gapTimeout
  repeat' first
    | with_reducible assumption
    | with_reducible apply canon_reach
    | with_reducible apply canon_writeError
    | with_reducible apply canon_count
    | with_reducible apply canon_commitRun
    | with_reducible apply canon_gapStart
    | with_reducible apply canon_setSrc
    | with_reducible apply canon_pass
    | with_reducible apply canon_ite
    | simp only [canon_lit, canon1_mk_eq, canon_fst_eq]
    | split

theorem canon_row_fetchOr {p : Pkt} {c : EccIn} {m : Module} (hm : Canon m) :
    Canon (fetchOr p c m) := by
  unfold fetchOr
  exact canon_atomic hm

theorem canon_row_fetchXor {p : Pkt} {c : EccIn} {m : Module} (hm : Canon m) :
    Canon (fetchXor p c m) := by
  unfold fetchXor
  exact canon_atomic hm

theorem canon_row_windowOffer {d : Nat} {m : Module} (hm : Canon m) :
    Canon (windowOffer d m) := by
  unfold windowOffer
  repeat' first
    | with_reducible assumption
    | refine fun _ => ?_
    | with_reducible apply canon_setDie
    | with_reducible apply canon_reorder
    | with_reducible apply canon_leaveSink
    | with_reducible apply canon_foldl
    | with_reducible apply canon_ite
    | simp only [canon_lit, canon1_mk_eq, canon_fst_eq]
    | split

theorem canon_row_reorderCommit {src : Nat} {m : Module} (hm : Canon m) :
    Canon (reorderCommit src m) := by
  unfold reorderCommit
  repeat' first
    | with_reducible assumption
    | with_reducible apply canon_commitSeq
    | with_reducible apply canon_setSrc
    | with_reducible apply canon_ite
    | lift_lets
    | split

theorem canon_row_fetchAdd {p : Pkt} {c : EccIn} {m : Module} (hm : Canon m) :
    Canon (fetchAdd p c m) := by
  unfold fetchAdd
  exact canon_atomic hm

theorem canon_row_calmSinkDelivery {d i : Nat} {m : Module} (hm : Canon m) :
    Canon (calmSinkDelivery d i m) := by
  unfold calmSinkDelivery
  repeat' first
    | with_reducible assumption
    | refine fun _ => ?_
    | with_reducible apply canon_freeSlot
    | with_reducible apply canon_countRead
    | with_reducible apply canon_castFromSink
    | with_reducible apply canon_deliver
    | with_reducible apply canon_overflow
    | with_reducible apply canon_leaveSink
    | with_reducible apply canon_foldl
    | with_reducible apply canon_ite
    | simp only [canon_lit, canon1_mk_eq, canon_fst_eq]
    | split

theorem canon_row_restartFence {p : Pkt} {m : Module} (hm : Canon m) :
    Canon (restartFence p m) := by
  unfold restartFence
  repeat' first
    | with_reducible assumption
    | refine fun _ => ?_
    | with_reducible apply canon_perform
    | with_reducible apply canon_fenceAck
    | with_reducible apply canon_dropSource
    | with_reducible apply canon_count
    | with_reducible apply canon_setSrc
    | with_reducible apply canon_ite
    | simp only [canon_lit, canon1_mk_eq, canon_fst_eq]

theorem canon_row_compareSwap {p : Pkt} {c : EccIn} {m : Module} (hm : Canon m) :
    Canon (compareSwap p c m) := by
  unfold compareSwap
  exact canon_atomic hm

theorem canon_row_fetchAnd {p : Pkt} {c : EccIn} {m : Module} (hm : Canon m) :
    Canon (fetchAnd p c m) := by
  unfold fetchAnd
  exact canon_atomic hm

theorem canon_row_fetchMinS {p : Pkt} {c : EccIn} {m : Module} (hm : Canon m) :
    Canon (fetchMinS p c m) := by
  unfold fetchMinS
  exact canon_atomic hm

theorem canon_row_fetchMaxS {p : Pkt} {c : EccIn} {m : Module} (hm : Canon m) :
    Canon (fetchMaxS p c m) := by
  unfold fetchMaxS
  exact canon_atomic hm

theorem canon_row_fence {p : Pkt} {m : Module} (hm : Canon m) :
    Canon (fence p m) := by
  unfold fence
  repeat' first
    | with_reducible assumption
    | refine fun _ => ?_
    | with_reducible apply canon_perform
    | with_reducible apply canon_fenceAck
    | with_reducible apply canon_ite

theorem canon_row_write {p : Pkt} {c : EccIn} {m : Module} (hm : Canon m) :
    Canon (write p c m) := by
  unfold write
  repeat' first
    | with_reducible assumption
    | refine fun _ => ?_
    | with_reducible apply canon_strike
    | with_reducible apply canon_writeError
    | with_reducible apply canon_check1
    | with_reducible apply canon_storeTile
    | with_reducible apply canon_perform
    | with_reducible apply canon_ite
    | simp only [canon_lit, canon1_mk_eq, canon_fst_eq]
    | split

theorem canon_row_fetchMinU {p : Pkt} {c : EccIn} {m : Module} (hm : Canon m) :
    Canon (fetchMinU p c m) := by
  unfold fetchMinU
  exact canon_atomic hm

end Sys2Proof.Machine
end

