-- ==== Sys2Proof/Laws/CanonCollective.lean ====
section
/-!
SUPPORT. The operations of Machine/Collective.lean keep the canonical form of the module's tables (Safety.lean): one lemma for
each, which proofs about the rows cite.
-/
set_option linter.unusedSimpArgs false
set_option linter.unusedTactic false
set_option linter.unreachableTactic false
namespace Sys2Proof.Machine

theorem canon_land {m : Module} {handle t off part : Nat} {d : Bytes} (hm : Canon m) :
    Canon1 (m.land handle t off part d) := by
  unfold Module.land
  repeat' first
    | with_reducible assumption
    | with_reducible apply canon_check1
    | with_reducible apply canon_storeTile
    | with_reducible apply canon_ite
    | simp only [canon_lit, canon1_mk_eq, canon_fst_eq]
    | split

theorem canon_clearLanding {m : Module} {p : Pkt} {o : Nat} (hm : Canon m) :
    Canon (m.clearLanding p o) := by
  unfold Module.clearLanding
  repeat' first
    | with_reducible assumption
    | refine fun _ => ?_
    | with_reducible apply canon_land
    | with_reducible apply canon_foldl
    | with_reducible apply canon_ite
    | simp only [canon_lit, canon1_mk_eq, canon_fst_eq]
    | lift_lets
    | split

theorem canon_swept {m x : Module} (_hm : Canon m) (hm2 : Canon x) :
    Canon (m.swept x) := by
  unfold Module.swept
  repeat' first
    | with_reducible assumption
    | refine fun _ => ?_
    | with_reducible apply canon_freeRes
    | with_reducible apply canon_foldl
    | with_reducible apply canon_ite

theorem canon_setCtx {m : Module} {h : Nat} {c : Ctx} (hm : Canon m) :
    Canon (m.setCtx h c) := by
  unfold Module.setCtx
  simp only [canon_lit, canon1_mk_eq]
  exact hm

theorem canon_updCtx {m : Module} {h : Nat} {f : Ctx → Ctx} (hm : Canon m) :
    Canon (m.updCtx h f) := by
  unfold Module.updCtx
  exact canon_setCtx hm

theorem canon_syncEntry {m : Module} {h : Nat} (hm : Canon m) :
    Canon (m.syncEntry h) := by
  unfold Module.syncEntry
  repeat' first
    | with_reducible assumption
    | with_reducible apply canon_updEntry
    | with_reducible apply canon_ite

theorem canon_collFailed {m : Module} {h plane reason status member : Nat} {chunk : Option Nat} (hm : Canon m) :
    Canon (m.collFailed h plane reason status member chunk) := by
  unfold Module.collFailed
  exact canon_event hm

theorem canon_collCount {m : Module} {off n : Nat} (hm : Canon m) :
    Canon (m.collCount off n) := by
  unfold Module.collCount
  exact canon_count hm

theorem canon_toChip {m : Module} {h chip type tw off : Nat} {pl : Bytes} {die : Option Nat} (hm : Canon m) :
    Canon (m.toChip h chip type tw off pl die) := by
  unfold Module.toChip
  exact canon_originate hm

theorem canon_land_eq {m : Module} {handle t off part : Nat} {d : Bytes} {y : Module} {w : Nat} (hm : Canon m)
    (e : m.land handle t off part d = (y, w)) : Canon y :=
  Canon1.of_eq (canon_land hm) e

theorem canon_landComplete {m : Module} {handle p part : Nat} {pl : Bytes} (hm : Canon m) :
    Canon (m.landComplete handle p part pl) := by
  unfold Module.landComplete
  repeat' first
    | with_reducible assumption
    | with_reducible apply canon_land
    | with_reducible apply canon_storeTile
    | with_reducible apply canon_ite
    | simp only [canon_lit, canon1_mk_eq, canon_fst_eq]
    | split

theorem canon_completeTo {m : Module} {h p status : Nat} {pl : Bytes} {l : Loc} (hm : Canon m) :
    Canon (m.completeTo h p status pl l) := by
  unfold Module.completeTo
  repeat' first
    | with_reducible assumption
    | with_reducible apply canon_count
    | with_reducible apply canon_landComplete
    | with_reducible apply canon_originate
    | with_reducible apply canon_ite

theorem canon_updPlane {m : Module} {h p : Nat} {f : Plane → Plane} (hm : Canon m) :
    Canon (m.updPlane h p f) := by
  unfold Module.updPlane
  exact canon_updCtx hm

theorem canon_setGrp {m : Module} {g : Nat} {x : Group} (hm : Canon m) :
    Canon (m.setGrp g x) := by
  unfold Module.setGrp
  simp only [canon_lit, canon1_mk_eq]
  exact hm

theorem canon_seqDone {m : Module} {gno seq : Nat} (hm : Canon m) :
    Canon (m.seqDone gno seq) := by
  unfold Module.seqDone
  repeat' first
    | with_reducible assumption
    | with_reducible apply canon_setGrp
    | with_reducible apply canon_ite

theorem canon_freeCtx {m : Module} {h : Nat} (hm : Canon m) :
    Canon (m.freeCtx h) := by
  unfold Module.freeCtx
  repeat' first
    | with_reducible assumption
    | with_reducible apply canon_syncEntry
    | with_reducible apply canon_collCount
    | with_reducible apply canon_seqDone
    | with_reducible apply canon_count
    | with_reducible apply canon_updEntry
    | with_reducible apply canon_closeEntry
    | with_reducible apply canon_ite
    | simp only [canon_lit, canon1_mk_eq, canon_fst_eq]
    | split

theorem canon_endPlane {m : Module} {h p status : Nat} {pl : Bytes} (hm : Canon m) :
    Canon (m.endPlane h p status pl) := by
  unfold Module.endPlane
  repeat' first
    | with_reducible assumption
    | refine fun _ => ?_
    | with_reducible apply canon_toChip
    | with_reducible apply canon_completeTo
    | with_reducible apply canon_requestDone
    | with_reducible apply canon_updPlane
    | with_reducible apply canon_updCtx
    | with_reducible apply canon_freeCtx
    | with_reducible apply canon_syncEntry
    | with_reducible apply canon_foldl
    | with_reducible apply canon_ite

theorem canon_fresh {m : Module} {n : Nat} (hm : Canon m) : Canon { m with fresh := n } := hm

theorem canon_endRoot {m : Module} {h p status : Nat} (hm : Canon m) :
    Canon (m.endRoot h p status) := by
  unfold Module.endRoot
  exact canon_endPlane (canon_fresh (canon_ite hm (canon_collCount hm)))

theorem canon_failLate {m : Module} {h p : Nat} (hm : Canon m) :
    Canon (m.failLate h p) := by
  unfold Module.failLate
  repeat' first
    | with_reducible assumption
    | with_reducible apply canon_collCount
    | with_reducible apply canon_ite

theorem canon_recordTerm {m : Module} {h p status : Nat} (hm : Canon m) :
    Canon (m.recordTerm h p status) := by
  unfold Module.recordTerm
  repeat' first
    | with_reducible assumption
    | with_reducible apply canon_endRoot
    | with_reducible apply canon_failLate
    | with_reducible apply canon_ite

theorem canon_planeNotice {m : Module} {h p status chip : Nat} (hm : Canon m) :
    Canon (m.planeNotice h p status chip) := by
  unfold Module.planeNotice
  exact canon_collCount (canon_toChip hm)

theorem canon_noticeUp {m : Module} {h p status : Nat} (hm : Canon m) :
    Canon (m.noticeUp h p status) := by
  unfold Module.noticeUp
  exact canon_updPlane (canon_planeNotice hm)

theorem canon_planeFail {m : Module} {h p status reason member : Nat} (hm : Canon m) :
    Canon (m.planeFail h p status reason member) := by
  unfold Module.planeFail
  repeat' first
    | with_reducible assumption
    | with_reducible apply canon_collFailed
    | with_reducible apply canon_recordTerm
    | with_reducible apply canon_noticeUp
    | with_reducible apply canon_failLate
    | with_reducible apply canon_planeNotice
    | with_reducible apply canon_ite

theorem canon_xchgPlace {m : Module} {x : XTile} (hm : Canon m) :
    Canon1 (m.xchgPlace x) := by
  unfold Module.xchgPlace
  repeat' first
    | with_reducible assumption
    | refine fun _ => ?_
    | with_reducible apply canon_countWrite
    | with_reducible apply canon_freshTile
    | with_reducible apply canon_foldl
    | with_reducible apply canon_ite
    | simp only [canon_lit, canon1_mk_eq, canon_fst_eq]
    | lift_lets
    | split

theorem canon_xchgRoute {m : Module} {h : Nat} {x : XTile} (hm : Canon m) :
    Canon (m.xchgRoute h x) := by
  unfold Module.xchgRoute
  repeat' first
    | with_reducible assumption
    | refine fun _ => ?_
    | with_reducible apply canon_count
    | with_reducible apply canon_updPlane
    | with_reducible apply canon_foldl
    | with_reducible apply canon_ite
    | simp only [canon_lit, canon1_mk_eq, canon_fst_eq]
    | lift_lets
    | split

theorem canon_xchgUnpark {m : Module} {h : Nat} {mem : Nat} (hm : Canon m) :
    Canon (m.xchgUnpark h mem) := by
  unfold Module.xchgUnpark
  repeat' first
    | with_reducible assumption
    | refine fun _ => ?_
    | with_reducible apply canon_xchgRoute
    | with_reducible apply canon_updCtx
    | with_reducible apply canon_foldl
    | with_reducible apply canon_ite
    | simp only [canon_lit, canon1_mk_eq, canon_fst_eq]
    | lift_lets
    | split

theorem canon_check_ {m : Module} {h p : Nat} (hm : Canon m) :
    Canon (m.check_ h p) := by
  unfold Module.check_
  repeat' first
    | with_reducible assumption
    | refine fun _ => ?_
    | with_reducible apply canon_toChip
    | with_reducible apply canon_updPlane
    | with_reducible apply canon_foldl

theorem canon_summaryPass {m : Module} {h p : Nat} (hm : Canon m) :
    Canon (m.summaryPass h p) := by
  unfold Module.summaryPass
  repeat' first
    | with_reducible assumption
    | with_reducible apply canon_planeFail
    | with_reducible apply canon_count
    | with_reducible apply canon_updPlane
    | with_reducible apply canon_endRoot
    | with_reducible apply canon_check_
    | with_reducible apply canon_toChip
    | with_reducible apply canon_ite

theorem canon_donePass {m : Module} {h p : Nat} (hm : Canon m) :
    Canon (m.donePass h p) := by
  unfold Module.donePass
  repeat' first
    | with_reducible assumption
    | with_reducible apply canon_endRoot
    | with_reducible apply canon_updPlane
    | with_reducible apply canon_toChip
    | with_reducible apply canon_ite

theorem canon_landCount {m : Module} {h mem : Nat} (hm : Canon m) :
    Canon (m.landCount h mem) := by
  unfold Module.landCount
  repeat' first
    | with_reducible assumption
    | with_reducible apply canon_count
    | split

theorem canon_xchgLoss {m : Module} {h p reason member : Nat} (hm : Canon m) :
    Canon (m.xchgLoss h p reason member) := by
  unfold Module.xchgLoss
  repeat' first
    | with_reducible assumption
    | with_reducible apply canon_collFailed
    | with_reducible apply canon_updPlane
    | with_reducible apply canon_noticeUp
    | with_reducible apply canon_ite

theorem canon_xchgTile {m : Module} {h p : Nat} {x : XTile} (hm : Canon m) :
    Canon1 (m.xchgTile h p x) := by
  unfold Module.xchgTile
  repeat' first
    | with_reducible assumption
    | with_reducible apply canon_count
    | with_reducible apply canon_updPlane
    | with_reducible apply canon_toChip
    | with_reducible apply canon_land
    | with_reducible apply canon_landCount
    | with_reducible apply canon_xchgLoss
    | with_reducible apply canon_originate
    | with_reducible apply canon_ite_fst
    | simp only [canon_lit, canon1_mk_eq, canon_fst_eq]
    | lift_lets
    | split

theorem canon_xchgTile_eq {m : Module} {h p : Nat} {x : XTile} {y : Module} {w : Option XTile} (hm : Canon m)
    (e : m.xchgTile h p x = (y, w)) : Canon y :=
  Canon1.of_eq (canon_xchgTile hm) e

theorem canon_xchgStage {m : Module} {h p : Nat} {x : XTile} (hm : Canon m) :
    Canon (m.xchgStage h p x) := by
  unfold Module.xchgStage
  repeat' first
    | with_reducible assumption
    | with_reducible apply canon_countWrite
    | with_reducible apply canon_freshTile
    | with_reducible apply canon_updPlane
    | simp only [canon_fst_eq]
    | lift_lets
    | with_reducible apply canon_xchgPlace
    | split

theorem canon_xchgPass {m : Module} {h p : Nat} (hm : Canon m) :
    Canon (m.xchgPass h p) := by
  unfold Module.xchgPass
  repeat' first
    | with_reducible assumption
    | refine fun _ => ?_
    | with_reducible apply canon_updPlane
    | with_reducible apply canon_xchgTile
    | with_reducible apply canon_xchgStage
    | with_reducible apply canon_foldl
    | with_reducible apply canon_ite
    | simp only [canon_lit, canon1_mk_eq, canon_fst_eq]
    | split

theorem canon_updStep {m : Module} {h p t : Nat} {f : TStep → TStep} (hm : Canon m) :
    Canon (m.updStep h p t f) := by
  unfold Module.updStep
  exact canon_updPlane hm

theorem canon_joinKids {m : Module} {h p t : Nat} (hm : Canon m) :
    Canon (m.joinKids h p t) := by
  unfold Module.joinKids
  repeat' first
    | with_reducible assumption
    | refine fun _ => ?_
    | with_reducible apply canon_count
    | with_reducible apply canon_updStep
    | with_reducible apply canon_foldl
    | with_reducible apply canon_ite
    | simp only [canon_lit, canon1_mk_eq, canon_fst_eq]
    | split

theorem canon_redEvents {m : Module} {d : Nat} {c : Cnt} (hm : Canon m) :
    Canon (m.redEvents d c) := by
  unfold Module.redEvents
  exact canon_count (canon_count (canon_count hm))

theorem canon_addRaws {m : Module} {h p t : Nat} {anch : List Nat} (hm : Canon m) :
    Canon (m.addRaws h p t anch) := by
  unfold Module.addRaws
  repeat' first
    | with_reducible assumption
    | with_reducible apply canon_redEvents
    | with_reducible apply canon_updStep
    | simp only [canon_lit, canon1_mk_eq, canon_fst_eq]
    | split

theorem canon_agree {m : Module} {h p t : Nat} {a : List Nat} (hm : Canon m) :
    Canon (m.agree h p t a) := by
  unfold Module.agree
  repeat' first
    | with_reducible assumption
    | refine fun _ => ?_
    | with_reducible apply canon_updStep
    | with_reducible apply canon_count
    | with_reducible apply canon_toChip
    | with_reducible apply canon_addRaws
    | with_reducible apply canon_foldl

theorem canon_stepPass {m : Module} {h p t : Nat} (hm : Canon m) :
    Canon (m.stepPass h p t) := by
  unfold Module.stepPass
  repeat' first
    | with_reducible assumption
    | refine fun _ => ?_
    | with_reducible apply canon_joinKids
    | with_reducible apply canon_agree
    | with_reducible apply canon_toChip
    | with_reducible apply canon_updStep
    | with_reducible apply canon_count
    | with_reducible apply canon_updPlane
    | with_reducible apply canon_foldl
    | with_reducible apply canon_ite
    | simp only [canon_lit, canon1_mk_eq, canon_fst_eq]
    | lift_lets
    | split

theorem canon_retain {m : Module} {h p : Nat} {x : Ret} (hm : Canon m) :
    Canon (m.retain h p x) := by
  unfold Module.retain
  exact canon_collCount (canon_updCtx (canon_updPlane (canon_countWrite (canon_freshTile hm))))

theorem canon_produce {m : Module} {h p r : Nat} (hm : Canon m) :
    Canon (m.produce h p r) := by
  unfold Module.produce
  repeat' first
    | with_reducible assumption
    | with_reducible apply canon_count
    | with_reducible apply canon_redEvents
    | with_reducible apply canon_updPlane
    | with_reducible apply canon_collCount
    | with_reducible apply canon_retain
    | with_reducible apply canon_ite

theorem canon_rootPass {m : Module} {h p : Nat} (hm : Canon m) :
    Canon (m.rootPass h p) := by
  unfold Module.rootPass
  repeat' first
    | with_reducible assumption
    | refine fun _ => ?_
    | with_reducible apply canon_produce
    | with_reducible apply canon_updPlane
    | with_reducible apply canon_foldl
    | with_reducible apply canon_ite

theorem canon_dropRet {m : Module} {h p tile : Nat} (hm : Canon m) :
    Canon (m.dropRet h p tile) := by
  unfold Module.dropRet
  exact canon_updCtx (canon_updPlane hm)

theorem canon_useRet {m : Module} {x : Ret} (hm : Canon m) :
    Canon1 (m.useRet x) := by
  unfold Module.useRet
  repeat' first
    | with_reducible assumption
    | with_reducible apply canon_countRead
    | with_reducible apply canon_checkRes
    | with_reducible apply canon_ite
    | simp only [canon_lit, canon1_mk_eq, canon_fst_eq]

theorem canon_useRet_eq {m : Module} {x : Ret} {y : Module} {w : Bool} (hm : Canon m)
    (e : m.useRet x = (y, w)) : Canon y :=
  Canon1.of_eq (canon_useRet hm) e

theorem canon_lossDown {m : Module} {h p off : Nat} (hm : Canon m) :
    Canon (m.lossDown h p off) := by
  unfold Module.lossDown
  repeat' first
    | with_reducible assumption
    | refine fun _ => ?_
    | with_reducible apply canon_toChip
    | with_reducible apply canon_originate
    | with_reducible apply canon_foldl

theorem canon_recordChunk {m : Module} {h p c off : Nat} (hm : Canon m) :
    Canon (m.recordChunk h p c off) := by
  unfold Module.recordChunk
  repeat' first
    | with_reducible assumption
    | with_reducible apply canon_failLate
    | with_reducible apply canon_updPlane
    | with_reducible apply canon_lossDown
    | with_reducible apply canon_collCount
    | with_reducible apply canon_ite

theorem canon_chunkUp {m : Module} {h p c off : Nat} (hm : Canon m) :
    Canon (m.chunkUp h p c off) := by
  unfold Module.chunkUp
  repeat' first
    | with_reducible assumption
    | with_reducible apply canon_recordChunk
    | with_reducible apply canon_updPlane
    | with_reducible apply canon_collCount
    | with_reducible apply canon_toChip
    | with_reducible apply canon_ite

theorem canon_chunkLoss {m : Module} {h p c reason member : Nat} (hm : Canon m) :
    Canon (m.chunkLoss h p c reason member) := by
  unfold Module.chunkLoss
  repeat' first
    | with_reducible assumption
    | with_reducible apply canon_chunkUp
    | with_reducible apply canon_collFailed
    | with_reducible apply canon_ite

theorem canon_retBad {m : Module} {h p : Nat} {x : Ret} {reason : Nat} (hm : Canon m) :
    Canon (m.retBad h p x reason) := by
  unfold Module.retBad
  exact canon_chunkLoss (canon_dropRet (canon_raise (canon_collCount hm)))

theorem canon_sendTo {m : Module} {h p : Nat} {x : Ret} {ds : List RDst} (hm : Canon m) :
    Canon (m.sendTo h p x ds) := by
  unfold Module.sendTo
  repeat' first
    | with_reducible assumption
    | refine fun _ => ?_
    | with_reducible apply canon_originate
    | with_reducible apply canon_foldl
    | with_reducible apply canon_ite
    | simp only [canon_lit, canon1_mk_eq, canon_fst_eq]
    | lift_lets
    | split

theorem canon_updDst {m : Module} {h p tile : Nat} {d : RDst} {f : RDst → RDst} (hm : Canon m) :
    Canon (m.updDst h p tile d f) := by
  unfold Module.updDst
  exact canon_updPlane hm

theorem canon_ackWait {m : Module} {h p tile : Nat} {d : RDst} (hm : Canon m) :
    Canon (m.ackWait h p tile d) := by
  unfold Module.ackWait
  exact canon_chunkLoss (canon_updDst hm)

theorem canon_landTile {m : Module} {h p : Nat} {x : Ret} {d : RDst} (hm : Canon m) :
    Canon (m.landTile h p x d) := by
  unfold Module.landTile
  repeat' first
    | with_reducible assumption
    | with_reducible apply canon_land
    | with_reducible apply canon_updDst
    | with_reducible apply canon_landCount
    | with_reducible apply canon_ackWait
    | with_reducible apply canon_collCount
    | with_reducible apply canon_ite
    | simp only [canon_lit, canon1_mk_eq, canon_fst_eq]

theorem canon_sendRet {m : Module} {h p : Nat} {x : Ret} (hm : Canon m) :
    Canon (m.sendRet h p x) := by
  unfold Module.sendRet
  repeat' first
    | with_reducible assumption
    | refine fun _ => ?_
    | with_reducible apply canon_dropRet
    | with_reducible apply canon_useRet
    | with_reducible apply canon_retBad
    | with_reducible apply canon_sendTo
    | with_reducible apply canon_updPlane
    | with_reducible apply canon_landTile
    | with_reducible apply canon_foldl
    | with_reducible apply canon_ite
    | simp only [canon_lit, canon1_mk_eq, canon_fst_eq]
    | split

theorem canon_sendPass {m : Module} {h p : Nat} (hm : Canon m) :
    Canon (m.sendPass h p) := by
  unfold Module.sendPass
  repeat' first
    | with_reducible assumption
    | refine fun _ => ?_
    | with_reducible apply canon_sendRet
    | with_reducible apply canon_foldl
    | with_reducible apply canon_ite

theorem canon_advPlane {m : Module} {h p : Nat} (hm : Canon m) :
    Canon (m.advPlane h p) := by
  unfold Module.advPlane
  repeat' first
    | with_reducible assumption
    | refine fun _ => ?_
    | with_reducible apply canon_summaryPass
    | with_reducible apply canon_donePass
    | with_reducible apply canon_xchgPass
    | with_reducible apply canon_stepPass
    | with_reducible apply canon_rootPass
    | with_reducible apply canon_sendPass
    | with_reducible apply canon_foldl
    | with_reducible apply canon_ite

theorem canon_advance {m : Module} {h : Nat} (hm : Canon m) :
    Canon (m.advance h) := by
  unfold Module.advance
  repeat' first
    | with_reducible assumption
    | refine fun _ => ?_
    | with_reducible apply canon_updCtx
    | with_reducible apply canon_syncEntry
    | with_reducible apply canon_advPlane
    | with_reducible apply canon_foldl
    | with_reducible apply canon_ite

theorem canon_resume {m : Module} (hm : Canon m) :
    Canon (m.resume) := by
  unfold Module.resume
  repeat' first
    | with_reducible assumption
    | refine fun _ => ?_
    | with_reducible apply canon_advance
    | with_reducible apply canon_foldl
    | with_reducible apply canon_ite

theorem canon_collEvent {m : Module} {f : Module → Module} (hm : Canon m) (hf : ∀ x0, Canon x0 → Canon (f x0)) :
    Canon (m.collEvent f) := by
  unfold Module.collEvent
  repeat' first
    | with_reducible assumption
    | with_reducible apply hf
    | with_reducible apply canon_swept
    | with_reducible apply canon_resume

theorem canon_abortCtx {m : Module} {h : Nat} (hm : Canon m) :
    Canon (m.abortCtx h) := by
  unfold Module.abortCtx
  repeat' first
    | with_reducible assumption
    | refine fun _ => ?_
    | with_reducible apply canon_collEvent
    | with_reducible apply canon_updCtx
    | with_reducible apply canon_planeFail
    | with_reducible apply canon_foldl
    | with_reducible apply canon_ite

theorem canon_answerJoin {m : Module} {p : Pkt} {status : Nat} (hm : Canon m) :
    Canon (m.answerJoin p status) := by
  unfold Module.answerJoin
  repeat' first
    | with_reducible assumption
    | with_reducible apply canon_originate
    | with_reducible apply canon_land
    | with_reducible apply canon_landComplete
    | with_reducible apply canon_ite
    | simp only [canon_lit, canon1_mk_eq, canon_fst_eq]
    | split

theorem canon_noRecord {m : Module} {p : Pkt} (hm : Canon m) :
    Canon (m.noRecord p) := by
  unfold Module.noRecord
  repeat' first
    | with_reducible assumption
    | with_reducible apply canon_collCount
    | with_reducible apply canon_collFailed
    | with_reducible apply canon_answerJoin
    | with_reducible apply canon_originate
    | with_reducible apply canon_ite
    | simp only [canon_lit, canon1_mk_eq, canon_fst_eq]

theorem canon_allocCtx_O {m : Module} {h seq : Nat} (hm : Canon m) :
    CanonO (m.allocCtx h seq) := by
  unfold Module.allocCtx
  repeat' first
    | with_reducible assumption
    | refine fun _ => ?_
    | refine canon_openEntry ?_ (by with_reducible assumption)
    | with_reducible apply canon_setCtx
    | with_reducible apply canon_collCount
    | with_reducible apply canon_planeFail
    | with_reducible apply canon_foldl
    | with_reducible apply canonO_ite
    | simp only [canon_lit, canon1_mk_eq, canon_fst_eq]
    | lift_lets
    | exact canonO_none
    | with_reducible apply canonO_some
    | split

theorem canon_allocCtx {m : Module} {h seq : Nat} {y : Module} (hm : Canon m)
    (e : m.allocCtx h seq = some y) : Canon y :=
  (canon_allocCtx_O hm).get y e

theorem canon_refuseCtx {m : Module} {h seq : Nat} (hm : Canon m) :
    Canon (m.refuseCtx h seq) := by
  unfold Module.refuseCtx
  repeat' first
    | with_reducible assumption
    | refine fun _ => ?_
    | with_reducible apply canon_collFailed
    | with_reducible apply canon_collCount
    | with_reducible apply canon_count
    | with_reducible apply canon_planeNotice
    | with_reducible apply canon_setGrp
    | with_reducible apply canon_seqDone
    | with_reducible apply canon_foldl
    | with_reducible apply canon_ite
    | simp only [canon_lit, canon1_mk_eq, canon_fst_eq]
    | split

theorem canon_ackTile {m : Module} {h chip status off : Nat} (hm : Canon m) :
    Canon (m.ackTile h chip status off) := by
  unfold Module.ackTile
  exact canon_toChip hm

theorem canon_openStep {m : Module} {h p t : Nat} (hm : Canon m) :
    Canon (m.openStep h p t) := by
  unfold Module.openStep
  repeat' first
    | with_reducible assumption
    | with_reducible apply canon_updPlane
    | with_reducible apply canon_ite

theorem canon_fenceMembers {m : Module} {ports : List Nat} (hm : Canon m) :
    Canon (m.fenceMembers ports) := by
  unfold Module.fenceMembers
  repeat' first
    | with_reducible assumption
    | refine fun _ => ?_
    | with_reducible apply canon_collEvent
    | with_reducible apply canon_planeFail
    | with_reducible apply canon_foldl
    | with_reducible apply canon_ite

theorem canon_stepsLost {m : Module} {h p k n reason : Nat} (hm : Canon m) :
    Canon (m.stepsLost h p k n reason) := by
  unfold Module.stepsLost
  exact canon_chunkLoss (canon_updPlane (canon_collCount hm))

theorem canon_bind {m : Module} {h mem e : Nat} {p : Pkt} (hm : Canon m) :
    Canon (m.bind h mem e p) := by
  unfold Module.bind
  repeat' first
    | with_reducible assumption
    | with_reducible apply canon_land
    | with_reducible apply canon_updCtx
    | simp only [canon_lit, canon1_mk_eq, canon_fst_eq]

theorem canon_fenceColl {m : Module} {d : Nat} (hm : Canon m) :
    Canon (m.fenceColl d) := by
  unfold Module.fenceColl
  repeat' first
    | with_reducible assumption
    | refine fun _ => ?_
    | with_reducible apply canon_collEvent
    | with_reducible apply canon_stepsLost
    | with_reducible apply canon_retBad
    | with_reducible apply canon_foldl
    | with_reducible apply canon_ite

theorem canon_admitStep {m : Module} {h p t : Nat} (hm : Canon m) :
    Canon (m.admitStep h p t) := by
  unfold Module.admitStep
  repeat' first
    | with_reducible assumption
    | refine fun _ => ?_
    | with_reducible apply canon_countRead
    | with_reducible apply canon_updStep
    | with_reducible apply canon_addRaws
    | with_reducible apply canon_foldl
    | with_reducible apply canon_ite
    | simp only [canon_lit, canon1_mk_eq, canon_fst_eq]
    | split

end Sys2Proof.Machine
end

