-- ==== Sys2Proof/Laws/CanonEngine.lean ====
section
/-!
SUPPORT. The operations of Machine/Engine.lean keep the canonical form of the module's tables (Safety.lean): one lemma for
each, which proofs about the rows cite.
-/
set_option linter.unusedSimpArgs false
set_option linter.unusedTactic false
set_option linter.unreachableTactic false
namespace Sys2Proof.Machine

theorem canon_auditSent {m : Module} {rec : Bytes} (hm : Canon m) :
    Canon (m.auditSent rec) := by
  unfold Module.auditSent
  simp only [canon_lit, canon1_mk_eq]
  exact hm

theorem canon_setDsp {m : Module} {d : Nat} {x : Dsp} (hm : Canon m) :
    Canon (m.setDsp d x) := by
  unfold Module.setDsp
  simp only [canon_lit, canon1_mk_eq]
  exact hm

theorem canon_settleDeficit {m : Module} {d : Nat} (hm : Canon m) :
    Canon (m.settleDeficit d) := by
  unfold Module.settleDeficit
  exact canon_setDsp hm

theorem canon_proxy {m : Module} {e : Nat} {r : Run} (hm : Canon m) :
    Canon (m.proxy e r) := by
  unfold Module.proxy
  repeat' first
    | with_reducible assumption
    | refine fun _ => ?_
    | with_reducible apply canon_originate
    | with_reducible apply canon_count
    | with_reducible apply canon_foldl

theorem canon_setEng {m : Module} {e : Nat} {x : Engine} (hm : Canon m) :
    Canon (m.setEng e x) := by
  unfold Module.setEng
  repeat' first
    | with_reducible assumption
    | simp only [canon_lit, canon1_mk_eq, canon_fst_eq]
    | lift_lets
    | refine ⟨?_, ?_, ?_, ?_, ?_⟩
    | with_reducible apply Canon.regs
    | with_reducible apply Canon.mem
    | with_reducible apply Canon.ports
    | with_reducible apply Canon.dies
    | with_reducible apply Canon.engs
    | with_reducible apply Tab.put_wf

theorem canon_sendResult {m : Module} {d : Desc} {handle status die : Nat} {parts : List (Nat × Bytes)} (hm : Canon m) :
    Canon (m.sendResult d handle status die parts) := by
  unfold Module.sendResult
  repeat' first
    | with_reducible assumption
    | refine fun _ => ?_
    | with_reducible apply canon_auditSent
    | with_reducible apply canon_updEntry
    | with_reducible apply canon_workOver
    | with_reducible apply canon_originate
    | with_reducible apply canon_foldl
    | with_reducible apply canon_ite

theorem canon_closeRun {m : Module} {d : Desc} {handle status : Nat} (hm : Canon m) :
    Canon (m.closeRun d handle status) := by
  unfold Module.closeRun
  repeat' first
    | with_reducible assumption
    | with_reducible apply canon_workOver
    | with_reducible apply canon_closeEntry
    | with_reducible apply canon_ite
    | simp only [canon_lit, canon1_mk_eq, canon_fst_eq]
    | split

theorem canon_finishRun {m : Module} {e : Nat} (hm : Canon m) :
    Canon (m.finishRun e) := by
  unfold Module.finishRun
  repeat' first
    | with_reducible assumption
    | refine fun _ => ?_
    | with_reducible apply canon_settleDeficit
    | with_reducible apply canon_setObj
    | with_reducible apply canon_proxy
    | with_reducible apply canon_count
    | with_reducible apply canon_updEntry
    | with_reducible apply canon_setEng
    | with_reducible apply canon_sendResult
    | with_reducible apply canon_closeRun
    | with_reducible apply canon_foldl
    | with_reducible apply canon_ite
    | simp only [canon_lit, canon1_mk_eq, canon_fst_eq]
    | split

theorem canon_updEng {m : Module} {e : Nat} {f : Engine → Engine} (hm : Canon m) :
    Canon (m.updEng e f) := by
  unfold Module.updEng
  exact canon_setEng hm

theorem canon_updRun {m : Module} {e : Nat} {f : Run → Run} (hm : Canon m) :
    Canon (m.updRun e f) := by
  unfold Module.updRun
  exact canon_updEng hm

theorem canon_setDst {m : Module} {c : Nat} {x : Dst} (hm : Canon m) :
    Canon (m.setDst c x) := by
  unfold Module.setDst
  simp only [canon_lit, canon1_mk_eq]
  exact hm

theorem canon_sendFence {m : Module} {chip part tag seq : Nat} {die : Option Nat} (hm : Canon m) :
    Canon (m.sendFence chip part tag seq die) := by
  unfold Module.sendFence
  exact canon_originate hm

theorem canon_restartDst {m : Module} {chip : Nat} {part : Nat} {die : Nat} (hm : Canon m) :
    Canon (m.restartDst chip part die) := by
  unfold Module.restartDst
  repeat' first
    | with_reducible assumption
    | refine fun _ => ?_
    | with_reducible apply canon_sendFence
    | with_reducible apply canon_setDst
    | with_reducible apply canon_foldl
    | with_reducible apply canon_ite
    | simp only [canon_lit, canon1_mk_eq, canon_fst_eq]
    | lift_lets
    | split

theorem canon_takeSeq {m : Module} {chip : Nat} (hm : Canon m) :
    Canon1 (m.takeSeq chip) := by
  unfold Module.takeSeq
  repeat' first
    | with_reducible assumption
    | with_reducible apply canon_setDst
    | simp only [canon_lit, canon1_mk_eq, canon_fst_eq]

theorem canon_takeSeq_eq {m : Module} {chip : Nat} {y : Module} {w : Nat} (hm : Canon m)
    (e : m.takeSeq chip = (y, w)) : Canon y :=
  Canon1.of_eq (canon_takeSeq hm) e

theorem canon_fenceTo {m : Module} {chip part tag die : Nat} (hm : Canon m) :
    Canon (m.fenceTo chip part tag die) := by
  unfold Module.fenceTo
  repeat' first
    | with_reducible assumption
    | with_reducible apply canon_takeSeq
    | with_reducible apply canon_sendFence
    | with_reducible apply canon_setDst
    | simp only [canon_lit, canon1_mk_eq, canon_fst_eq]

theorem canon_retireIns {m : Module} {e : Nat} {x : Engine} {n : Nat} (hm : Canon m) :
    Canon (m.retireIns e x n) := by
  unfold Module.retireIns
  exact canon_count (canon_setEng hm)

theorem canon_fill {a0 : Module} {a1 a2 a3 : Nat} (h0 : Canon a0) : Canon (@Module.fill a0 a1 a2 a3) := by
  induction a3 generalizing a0 with
  | zero => exact h0
  | succ n ih =>
    unfold Module.fill
    extract_lets s
    split
    · exact h0
    · split
      · exact h0
      · extract_lets o
        split
        · exact h0
        · refine ih (canon_updEng (canon_countRead (canon_warm ?_)))
          exact canon_ite (canon_check1 h0) h0

theorem canon_fillAll {m : Module} {e : Nat} (hm : Canon m) :
    Canon (m.fillAll e) := by
  unfold Module.fillAll
  repeat' first
    | with_reducible assumption
    | refine fun _ => ?_
    | with_reducible apply canon_fill
    | with_reducible apply canon_foldl
    | with_reducible apply canon_ite
    | simp only [canon_lit, canon1_mk_eq, canon_fst_eq]
    | lift_lets
    | split

theorem canon_endRun {m : Module} {e : Nat} {x : RunEnd} (hm : Canon m) :
    Canon (m.endRun e x) := by
  unfold Module.endRun
  repeat' first
    | with_reducible assumption
    | with_reducible apply canon_requestDone
    | with_reducible apply canon_updRun
    | with_reducible apply canon_ite
    | simp only [canon_lit, canon1_mk_eq, canon_fst_eq]
    | split

theorem canon_failRun {m : Module} {e status : Nat} {pc : Option Nat} (hm : Canon m) :
    Canon (m.failRun e status pc) := by
  unfold Module.failRun
  exact canon_endRun hm

theorem canon_abortNow {m : Module} {e : Nat} (hm : Canon m) :
    Canon (m.abortNow e) := by
  unfold Module.abortNow
  repeat' first
    | with_reducible assumption
    | refine fun _ => ?_
    | with_reducible apply canon_failRun
    | with_reducible apply canon_foldl
    | with_reducible apply canon_ite
    | simp only [canon_lit, canon1_mk_eq, canon_fst_eq]
    | lift_lets
    | split

theorem canon_fenceOver {m : Module} {e : Nat} (hm : Canon m) :
    Canon (m.fenceOver e) := by
  unfold Module.fenceOver
  repeat' first
    | with_reducible assumption
    | with_reducible apply canon_updRun
    | with_reducible apply canon_retireIns
    | with_reducible apply canon_abortNow
    | with_reducible apply canon_ite

theorem canon_openDst {m : Module} {chip part die : Nat} (hm : Canon m) :
    Canon (m.openDst chip part die) := by
  unfold Module.openDst
  repeat' first
    | with_reducible assumption
    | with_reducible apply canon_sendFence
    | with_reducible apply canon_setDst
    | with_reducible apply canon_ite

theorem canon_fenceStep {m : Module} {e : Nat} (hm : Canon m) :
    Canon (m.fenceStep e) := by
  unfold Module.fenceStep
  repeat' first
    | with_reducible assumption
    | refine fun _ => ?_
    | with_reducible apply canon_updRun
    | with_reducible apply canon_fenceTo
    | with_reducible apply canon_fenceOver
    | with_reducible apply canon_openDst
    | with_reducible apply canon_foldl
    | with_reducible apply canon_ite
    | simp only [canon_lit, canon1_mk_eq, canon_fst_eq]
    | split

theorem canon_pump {m : Module} {e : Nat} (hm : Canon m) :
    Canon (m.pump e) := by
  unfold Module.pump
  repeat' first
    | with_reducible assumption
    | with_reducible apply canon_finishRun
    | with_reducible apply canon_fenceStep
    | with_reducible apply canon_ite

theorem canon_pumpFences {m : Module} (hm : Canon m) :
    Canon (m.pumpFences) := by
  unfold Module.pumpFences
  repeat' first
    | with_reducible assumption
    | refine fun _ => ?_
    | with_reducible apply canon_pump
    | with_reducible apply canon_foldl
    | with_reducible apply canon_ite
    | simp only [canon_lit, canon1_mk_eq, canon_fst_eq]
    | lift_lets
    | split

theorem canon_killRun {m : Module} {e status : Nat} (hm : Canon m) :
    Canon (m.killRun e status) := by
  unfold Module.killRun
  repeat' first
    | with_reducible assumption
    | with_reducible apply canon_pump
    | with_reducible apply canon_updRun
    | with_reducible apply canon_failRun
    | simp only [canon_lit, canon1_mk_eq, canon_fst_eq]
    | split

theorem canon_pushEmit {m : Module} {e : Nat} {h : Hdr} {b : Bytes} (hm : Canon m) :
    Canon (m.pushEmit e h b) := by
  unfold Module.pushEmit
  repeat' first
    | with_reducible assumption
    | with_reducible apply canon_openDst
    | with_reducible apply canon_updRun
    | with_reducible apply canon_ite

theorem canon_sawRead {m : Module} {e : Nat} {o : Obj} {ver : Option Nat} (hm : Canon m) :
    Canon (m.sawRead e o ver) := by
  unfold Module.sawRead
  exact canon_updRun hm

theorem canon_readWord {m : Module} {e handle tile : Nat} {ver : Option Nat} {first : Bool} (hm : Canon m) :
    Canon1 (m.readWord e handle tile ver first) := by
  unfold Module.readWord
  repeat' first
    | with_reducible assumption
    | with_reducible apply canon_check1
    | with_reducible apply canon_countRead
    | with_reducible apply canon_warm
    | with_reducible apply canon_sawRead
    | with_reducible apply canon_ite_fst
    | simp only [canon_lit, canon1_mk_eq, canon_fst_eq]
    | lift_lets
    | split

theorem canon_readWord_eq {m : Module} {e handle tile : Nat} {ver : Option Nat} {first : Bool} {y : Module} {w : (Bytes ⊕ Nat)} (hm : Canon m)
    (e : m.readWord e handle tile ver first = (y, w)) : Canon y :=
  Canon1.of_eq (canon_readWord hm) e

theorem canon_tileIn {m : Module} {e : Nat} (hm : Canon m) :
    Canon (m.tileIn e) := by
  unfold Module.tileIn
  exact canon_updRun (canon_count hm)

theorem canon_readTile {m : Module} {e handle tile : Nat} {ver : Option Nat} {first : Bool} (hm : Canon m) :
    Canon1 (m.readTile e handle tile ver first) := by
  unfold Module.readTile
  repeat' first
    | with_reducible assumption
    | with_reducible apply canon_readWord
    | refine canon_readWord_eq ?_ (by with_reducible assumption)
    | with_reducible apply canon_tileIn
    | simp only [canon_lit, canon1_mk_eq, canon_fst_eq]
    | split

theorem canon_readTile_eq {m : Module} {e handle tile : Nat} {ver : Option Nat} {first : Bool} {y : Module} {w : (Bytes ⊕ Nat)} (hm : Canon m)
    (e : m.readTile e handle tile ver first = (y, w)) : Canon y :=
  Canon1.of_eq (canon_readTile hm) e

theorem canon_putTile {m : Module} {e handle tile : Nat} {b : Bytes} (hm : Canon m) :
    Canon1 (m.putTile e handle tile b) := by
  unfold Module.putTile
  repeat' first
    | with_reducible assumption
    | with_reducible apply canon_count
    | with_reducible apply canon_storeTile
    | with_reducible apply canon_updRun
    | with_reducible apply canon_ite_fst
    | simp only [canon_lit, canon1_mk_eq, canon_fst_eq]
    | split

theorem canon_putTile_eq {m : Module} {e handle tile : Nat} {b : Bytes} {y : Module} {w : Nat} (hm : Canon m)
    (e : m.putTile e handle tile b = (y, w)) : Canon y :=
  Canon1.of_eq (canon_putTile hm) e

theorem canon_issue {m : Module} {e op : Nat} {f : Module → Engine → Run → Nat → Module} (hm : Canon m) (hf : ∀ x0 x1 x2 x3, Canon x0 → Canon (f x0 x1 x2 x3)) :
    Canon (m.issue e op f) := by
  unfold Module.issue
  repeat' first
    | with_reducible assumption
    | with_reducible apply hf
    | with_reducible apply canon_ite
    | simp only [canon_lit, canon1_mk_eq, canon_fst_eq]
    | split

theorem canon_branch {m : Module} {e : Nat} {x : Engine} {w : Nat} {taken : Bool} (hm : Canon m) :
    Canon (m.branch e x w taken) := by
  unfold Module.branch
  exact canon_retireIns hm

theorem canon_neverRan {m : Module} {d : Desc} {handle status die : Nat} (hm : Canon m) :
    Canon (m.neverRan d handle status die) := by
  unfold Module.neverRan
  exact canon_closeRun (canon_sendResult hm)

theorem canon_abortRun {m : Module} {handle : Nat} (hm : Canon m) :
    Canon (m.abortRun handle) := by
  unfold Module.abortRun
  repeat' first
    | with_reducible assumption
    | with_reducible apply canon_pump
    | with_reducible apply canon_failRun
    | with_reducible apply canon_neverRan
    | simp only [canon_lit, canon1_mk_eq, canon_fst_eq]
    | split

theorem canon_loadDone {m : Module} {e : Nat} {a : Access} (hm : Canon m) :
    Canon (m.loadDone e a) := by
  unfold Module.loadDone
  repeat' first
    | with_reducible assumption
    | with_reducible apply canon_failRun
    | with_reducible apply canon_check1
    | with_reducible apply canon_updEng
    | with_reducible apply canon_fill
    | with_reducible apply canon_tileIn
    | refine canon_readTile_eq ?_ (by with_reducible assumption)
    | with_reducible apply canon_ite
    | simp only [canon_lit, canon1_mk_eq, canon_fst_eq]
    | split

theorem canon_refetch {m : Module} {e : Nat} (hm : Canon m) :
    Canon (m.refetch e) := by
  unfold Module.refetch
  repeat' first
    | with_reducible assumption
    | refine fun _ => ?_
    | with_reducible apply canon_fill
    | with_reducible apply canon_updEng
    | with_reducible apply canon_foldl

theorem canon_row_fenceAckReceived {p : Pkt} {m : Module} (hm : Canon m) :
    Canon (fenceAckReceived p m) := by
  unfold fenceAckReceived
  repeat' first
    | with_reducible assumption
    | refine fun _ => ?_
    | with_reducible apply canon_perform
    | with_reducible apply canon_setDst
    | with_reducible apply canon_sendFence
    | with_reducible apply canon_updRun
    | with_reducible apply canon_failRun
    | with_reducible apply canon_pump
    | with_reducible apply canon_pumpFences
    | with_reducible apply canon_foldl
    | with_reducible apply canon_ite
    | simp only [canon_lit, canon1_mk_eq, canon_fst_eq]
    | split

theorem canon_row_waitcDone {e : Nat} {m : Module} (hm : Canon m) :
    Canon (waitcDone e m) := by
  unfold waitcDone
  repeat' first
    | with_reducible assumption
    | with_reducible apply canon_updRun
    | with_reducible apply canon_reach
    | with_reducible apply canon_retireIns
    | with_reducible apply canon_ite
    | simp only [canon_lit, canon1_mk_eq, canon_fst_eq]
    | split

theorem canon_emitNow_O {m : Module} {e : Nat} {a : Access} (hm : Canon m) :
    CanonO (m.emitNow e a) := by
  unfold Module.emitNow
  repeat' first
    | with_reducible assumption
    | with_reducible apply canon_takeSeq
    | refine canon_launch ?_ (by with_reducible assumption)
    | with_reducible apply canon_updRun
    | with_reducible apply canon_fenceTo
    | with_reducible apply canon_clearLanding
    | with_reducible apply canon_ite
    | with_reducible apply canon_ite_fst
    | with_reducible apply canonO_ite
    | simp only [canon_lit, canon1_mk_eq, canon_fst_eq]
    | lift_lets
    | exact canonO_none
    | with_reducible apply canonO_some
    | split

theorem canon_emitNow {m : Module} {e : Nat} {a : Access} {y : Module} (hm : Canon m)
    (e : m.emitNow e a = some y) : Canon y :=
  (canon_emitNow_O hm).get y e

theorem canon_acqDone {m : Module} {e : Nat} {a : Access} (hm : Canon m) :
    Canon (m.acqDone e a) := by
  unfold Module.acqDone
  repeat' first
    | with_reducible assumption
    | refine canon_readWord_eq ?_ (by with_reducible assumption)
    | with_reducible apply canon_failRun
    | with_reducible apply canon_updEng
    | with_reducible apply canon_refetch
    | with_reducible apply canon_ite
    | simp only [canon_lit, canon1_mk_eq, canon_fst_eq]
    | split

theorem canon_row_engineAccessDone {e i : Nat} {c : EccIn} {m : Module} (hm : Canon m) :
    Canon (engineAccessDone e i c m) := by
  unfold engineAccessDone
  repeat' first
    | with_reducible assumption
    | with_reducible apply canon_updRun
    | with_reducible apply canon_strike
    | with_reducible apply canon_loadDone
    | with_reducible apply canon_putTile
    | with_reducible apply canon_failRun
    | refine canon_emitNow ?_ (by with_reducible assumption)
    | with_reducible apply canon_acqDone
    | with_reducible apply canon_pump
    | with_reducible apply canon_fillAll
    | with_reducible apply canon_ite
    | simp only [canon_lit, canon1_mk_eq, canon_fst_eq]
    | lift_lets
    | split

theorem canon_row_runTimeLimit {e : Nat} {m : Module} (hm : Canon m) :
    Canon (runTimeLimit e m) := by
  unfold runTimeLimit
  repeat' first
    | with_reducible assumption
    | with_reducible apply canon_pump
    | with_reducible apply canon_failRun
    | with_reducible apply canon_reach
    | with_reducible apply canon_restartDst
    | with_reducible apply canon_pass
    | with_reducible apply canon_foldl
    | refine fun _ => ?_
    | with_reducible apply canon_ite
    | split

end Sys2Proof.Machine
end

