-- ==== Sys2Proof/Laws/CanonEngineRows.lean ====
section
/-!
SUPPORT. The operations of Machine/EngineRows.lean keep the canonical form of the module's tables (Safety.lean): one lemma for
each, which proofs about the rows cite.
-/
set_option linter.unusedSimpArgs false
set_option linter.unusedTactic false
set_option linter.unreachableTactic false
namespace Sys2Proof.Machine

theorem canon_branchIf {m : Module} {e op : Nat} {f : Word64 → Word64 → Bool} (hm : Canon m) :
    Canon (m.branchIf e op f) := by
  unfold Module.branchIf
  repeat' first
    | with_reducible assumption
    | refine fun _ => ?_
    | with_reducible apply canon_issue
    | with_reducible apply canon_branch

theorem canon_vecHs {m : Module} {e n : Nat} (hm : Canon m) :
    Canon (m.vecHs e n) := by
  unfold Module.vecHs
  exact canon_count hm

theorem canon_row_tcopy {e : Nat} {m : Module} (hm : Canon m) :
    Canon (tcopy e m) := by
  unfold tcopy
  repeat' first
    | with_reducible assumption
    | refine fun _ => ?_
    | with_reducible apply canon_issue
    | with_reducible apply canon_vecHs
    | with_reducible apply canon_retireIns

theorem canon_row_bne {e : Nat} {m : Module} (hm : Canon m) :
    Canon (bne e m) := by
  unfold bne
  exact canon_branchIf hm

theorem canon_row_red {e : Nat} {m : Module} (hm : Canon m) :
    Canon (red e m) := by
  unfold red
  repeat' first
    | with_reducible assumption
    | refine fun _ => ?_
    | with_reducible apply canon_issue
    | with_reducible apply canon_vecHs
    | with_reducible apply canon_retireIns

theorem canon_row_bltu {e : Nat} {m : Module} (hm : Canon m) :
    Canon (bltu e m) := by
  unfold bltu
  exact canon_branchIf hm

theorem canon_scalar {m : Module} {e op : Nat} {f : Nat → Word64 → Word64} (hm : Canon m) :
    Canon (m.scalar e op f) := by
  unfold Module.scalar
  repeat' first
    | with_reducible assumption
    | refine fun _ => ?_
    | with_reducible apply canon_issue
    | with_reducible apply canon_retireIns

theorem canon_row_xori {e : Nat} {m : Module} (hm : Canon m) :
    Canon (xori e m) := by
  unfold xori
  exact canon_scalar hm

theorem canon_row_movm {e : Nat} {m : Module} (hm : Canon m) :
    Canon (movm e m) := by
  unfold movm
  repeat' first
    | with_reducible assumption
    | refine fun _ => ?_
    | with_reducible apply canon_issue
    | with_reducible apply canon_retireIns

theorem canon_row_blt {e : Nat} {m : Module} (hm : Canon m) :
    Canon (blt e m) := by
  unfold blt
  exact canon_branchIf hm

theorem canon_pushAcc {m : Module} {e : Nat} {r : Run} {a : Access} (hm : Canon m) :
    Canon (m.pushAcc e r a) := by
  unfold Module.pushAcc
  exact canon_retireIns hm

theorem canon_row_alu {e : Nat} {m : Module} (hm : Canon m) :
    Canon (alu e m) := by
  unfold alu
  repeat' first
    | with_reducible assumption
    | refine fun _ => ?_
    | with_reducible apply canon_issue
    | with_reducible apply canon_retireIns

theorem canon_row_cvt {e : Nat} {m : Module} (hm : Canon m) :
    Canon (cvt e m) := by
  unfold cvt
  repeat' first
    | with_reducible assumption
    | refine fun _ => ?_
    | with_reducible apply canon_issue
    | with_reducible apply canon_pump
    | with_reducible apply canon_failRun
    | with_reducible apply canon_vecHs
    | with_reducible apply canon_retireIns
    | with_reducible apply canon_ite

theorem canon_row_addi {e : Nat} {m : Module} (hm : Canon m) :
    Canon (addi e m) := by
  unfold addi
  exact canon_scalar hm

theorem canon_row_stt {e : Nat} {m : Module} (hm : Canon m) :
    Canon (stt e m) := by
  unfold stt
  repeat' first
    | with_reducible assumption
    | refine fun _ => ?_
    | with_reducible apply canon_issue
    | with_reducible apply canon_pump
    | with_reducible apply canon_failRun
    | with_reducible apply canon_pushAcc
    | simp only [canon_lit, canon1_mk_eq, canon_fst_eq]
    | split

theorem canon_row_movts {e : Nat} {m : Module} (hm : Canon m) :
    Canon (movts e m) := by
  unfold movts
  repeat' first
    | with_reducible assumption
    | refine fun _ => ?_
    | with_reducible apply canon_issue
    | with_reducible apply canon_retireIns

theorem canon_row_acq {e : Nat} {m : Module} (hm : Canon m) :
    Canon (acq e m) := by
  unfold acq
  repeat' first
    | with_reducible assumption
    | refine fun _ => ?_
    | with_reducible apply canon_issue
    | with_reducible apply canon_pump
    | with_reducible apply canon_failRun
    | with_reducible apply canon_pushAcc
    | simp only [canon_lit, canon1_mk_eq, canon_fst_eq]
    | split

theorem canon_row_maskop {e : Nat} {m : Module} (hm : Canon m) :
    Canon (maskop e m) := by
  unfold maskop
  repeat' first
    | with_reducible assumption
    | refine fun _ => ?_
    | with_reducible apply canon_issue
    | with_reducible apply canon_retireIns

theorem canon_row_strm {e : Nat} {m : Module} (hm : Canon m) :
    Canon (strm e m) := by
  unfold strm
  repeat' first
    | with_reducible assumption
    | refine fun _ => ?_
    | with_reducible apply canon_issue
    | with_reducible apply canon_pump
    | with_reducible apply canon_failRun
    | with_reducible apply canon_retireIns
    | with_reducible apply canon_sawRead
    | with_reducible apply canon_fill
    | with_reducible apply canon_ite
    | simp only [canon_lit, canon1_mk_eq, canon_fst_eq]
    | lift_lets
    | split

theorem canon_row_movst {e : Nat} {m : Module} (hm : Canon m) :
    Canon (movst e m) := by
  unfold movst
  repeat' first
    | with_reducible assumption
    | refine fun _ => ?_
    | with_reducible apply canon_issue
    | with_reducible apply canon_retireIns

theorem canon_row_loop {e : Nat} {m : Module} (hm : Canon m) :
    Canon (loop e m) := by
  unfold loop
  repeat' first
    | with_reducible assumption
    | refine fun _ => ?_
    | with_reducible apply canon_issue
    | with_reducible apply canon_branch

theorem canon_row_beq {e : Nat} {m : Module} (hm : Canon m) :
    Canon (beq e m) := by
  unfold beq
  exact canon_branchIf hm

theorem canon_row_ldt {e : Nat} {m : Module} (hm : Canon m) :
    Canon (ldt e m) := by
  unfold ldt
  repeat' first
    | with_reducible assumption
    | refine fun _ => ?_
    | with_reducible apply canon_issue
    | with_reducible apply canon_pump
    | with_reducible apply canon_failRun
    | with_reducible apply canon_pushAcc
    | with_reducible apply canon_ite
    | simp only [canon_lit, canon1_mk_eq, canon_fst_eq]
    | split

theorem canon_row_mac {e : Nat} {m : Module} (hm : Canon m) :
    Canon (mac e m) := by
  unfold mac
  repeat' first
    | with_reducible assumption
    | refine fun _ => ?_
    | with_reducible apply canon_issue
    | with_reducible apply canon_count
    | with_reducible apply canon_retireIns

theorem canon_row_halt {e : Nat} {m : Module} (hm : Canon m) :
    Canon (halt e m) := by
  unfold halt
  repeat' first
    | with_reducible assumption
    | refine fun _ => ?_
    | with_reducible apply canon_issue
    | with_reducible apply canon_pump
    | with_reducible apply canon_count
    | with_reducible apply canon_endRun

theorem canon_row_vchain {e : Nat} {m : Module} (hm : Canon m) :
    Canon (vchain e m) := by
  unfold vchain
  repeat' first
    | with_reducible assumption
    | refine fun _ => ?_
    | with_reducible apply canon_issue
    | with_reducible apply canon_pump
    | with_reducible apply canon_failRun
    | with_reducible apply canon_count
    | with_reducible apply canon_retireIns
    | with_reducible apply canon_ite
    | simp only [canon_lit, canon1_mk_eq, canon_fst_eq]

theorem canon_row_rdftc {e : Nat} {m : Module} (hm : Canon m) :
    Canon (rdftc e m) := by
  unfold rdftc
  repeat' first
    | with_reducible assumption
    | refine fun _ => ?_
    | with_reducible apply canon_issue
    | with_reducible apply canon_retireIns

theorem canon_row_mrange {e : Nat} {m : Module} (hm : Canon m) :
    Canon (mrange e m) := by
  unfold mrange
  repeat' first
    | with_reducible assumption
    | refine fun _ => ?_
    | with_reducible apply canon_issue
    | with_reducible apply canon_retireIns

theorem canon_row_scan {e : Nat} {m : Module} (hm : Canon m) :
    Canon (scan e m) := by
  unfold scan
  repeat' first
    | with_reducible assumption
    | refine fun _ => ?_
    | with_reducible apply canon_issue
    | with_reducible apply canon_vecHs
    | with_reducible apply canon_retireIns

theorem canon_row_jmp {e : Nat} {m : Module} (hm : Canon m) :
    Canon (jmp e m) := by
  unfold jmp
  repeat' first
    | with_reducible assumption
    | refine fun _ => ?_
    | with_reducible apply canon_issue
    | with_reducible apply canon_retireIns

theorem canon_row_verq {e : Nat} {m : Module} (hm : Canon m) :
    Canon (verq e m) := by
  unfold verq
  repeat' first
    | with_reducible assumption
    | refine fun _ => ?_
    | with_reducible apply canon_issue
    | with_reducible apply canon_pump
    | with_reducible apply canon_failRun
    | with_reducible apply canon_retireIns
    | simp only [canon_lit, canon1_mk_eq, canon_fst_eq]
    | split

theorem canon_row_shi {e : Nat} {m : Module} (hm : Canon m) :
    Canon (shi e m) := by
  unfold shi
  exact canon_scalar hm

theorem canon_row_waitc {e : Nat} {m : Module} (hm : Canon m) :
    Canon (waitc e m) := by
  unfold waitc
  repeat' first
    | with_reducible assumption
    | refine fun _ => ?_
    | with_reducible apply canon_issue
    | with_reducible apply canon_retireIns
    | with_reducible apply canon_updRun
    | with_reducible apply canon_ite

theorem canon_row_lih {e : Nat} {m : Module} (hm : Canon m) :
    Canon (lih e m) := by
  unfold lih
  repeat' first
    | with_reducible assumption
    | refine fun _ => ?_
    | with_reducible apply canon_issue
    | with_reducible apply canon_retireIns

theorem canon_row_andi {e : Nat} {m : Module} (hm : Canon m) :
    Canon (andi e m) := by
  unfold andi
  exact canon_scalar hm

theorem canon_row_ori {e : Nat} {m : Module} (hm : Canon m) :
    Canon (ori e m) := by
  unfold ori
  exact canon_scalar hm

theorem canon_row_mpop {e : Nat} {m : Module} (hm : Canon m) :
    Canon (mpop e m) := by
  unfold mpop
  repeat' first
    | with_reducible assumption
    | refine fun _ => ?_
    | with_reducible apply canon_issue
    | with_reducible apply canon_retireIns

theorem canon_row_fenceInstr {e : Nat} {m : Module} (hm : Canon m) :
    Canon (fenceInstr e m) := by
  unfold fenceInstr
  repeat' first
    | with_reducible assumption
    | refine fun _ => ?_
    | with_reducible apply canon_issue
    | with_reducible apply canon_fenceStep
    | with_reducible apply canon_updRun
    | with_reducible apply canon_pump

theorem canon_row_emit {e : Nat} {m : Module} (hm : Canon m) :
    Canon (emit e m) := by
  unfold emit
  repeat' first
    | with_reducible assumption
    | refine fun _ => ?_
    | with_reducible apply canon_issue
    | with_reducible apply canon_pump
    | with_reducible apply canon_failRun
    | with_reducible apply canon_fenceStep
    | with_reducible apply canon_updRun
    | with_reducible apply canon_pushEmit
    | with_reducible apply canon_retireIns
    | with_reducible apply canon_abortNow
    | with_reducible apply canon_ite

theorem canon_row_trap {e : Nat} {m : Module} (hm : Canon m) :
    Canon (trap e m) := by
  unfold trap
  repeat' first
    | with_reducible assumption
    | refine fun _ => ?_
    | with_reducible apply canon_issue
    | with_reducible apply canon_pump
    | with_reducible apply canon_count
    | with_reducible apply canon_failRun

end Sys2Proof.Machine
end

