-- ==== Sys2Proof/Laws/CanonPrograms.lean ====
section
/-!
SUPPORT. The operations of Machine/Programs.lean keep the canonical form of the module's tables (Safety.lean): one lemma for
each, which proofs about the rows cite.
-/
set_option linter.unusedSimpArgs false
set_option linter.unusedTactic false
set_option linter.unreachableTactic false
namespace Sys2Proof.Machine

theorem canon_submit {m : Module} {d : Desc} {die : Nat} {entry : TEnt} (hm : Canon m) :
    Canon1 (m.submit d die entry) := by
  unfold Module.submit
  repeat' first
    | with_reducible assumption
    | with_reducible apply canon_count
    | refine canon_openEntry ?_ (by with_reducible assumption)
    | with_reducible apply canon_settleDeficit
    | with_reducible apply canon_setDsp
    | with_reducible apply canon_ite_fst
    | simp only [canon_lit, canon1_mk_eq, canon_fst_eq]
    | lift_lets
    | split

theorem canon_submit_eq {m : Module} {d : Desc} {die : Nat} {entry : TEnt} {y : Module} {w : (Nat ⊕ Nat)} (hm : Canon m)
    (e : m.submit d die entry = (y, w)) : Canon y :=
  Canon1.of_eq (canon_submit hm) e

theorem canon_installProgram {m : Module} {image : Bytes} (hm : Canon m) :
    Canon1 (m.installProgram image) := by
  unfold Module.installProgram
  repeat' first
    | with_reducible assumption
    | with_reducible apply canon_ite_fst
    | simp only [canon_lit, canon1_mk_eq, canon_fst_eq]
    | split

theorem canon_installProgram_eq {m : Module} {image : Bytes} {y : Module} {w : Nat} (hm : Canon m)
    (e : m.installProgram image = (y, w)) : Canon y :=
  Canon1.of_eq (canon_installProgram hm) e

theorem canon_row_kernelInvoke {p : Pkt} {m : Module} (hm : Canon m) :
    Canon (kernelInvoke p m) := by
  unfold kernelInvoke
  repeat' first
    | with_reducible assumption
    | refine fun _ => ?_
    | with_reducible apply canon_perform
    | with_reducible apply canon_kernelRefuse
    | refine canon_submit_eq ?_ (by with_reducible assumption)
    | with_reducible apply canon_ite
    | lift_lets
    | split

theorem canon_startRun {m : Module} {d e : Nat} {q : QRun} (hm : Canon m) :
    Canon (m.startRun d e q) := by
  unfold Module.startRun
  repeat' first
    | with_reducible assumption
    | refine fun _ => ?_
    | with_reducible apply canon_setDsp
    | with_reducible apply canon_setEng
    | with_reducible apply canon_setObj
    | with_reducible apply canon_count
    | with_reducible apply canon_updEntry
    | with_reducible apply canon_foldl
    | with_reducible apply canon_ite
    | simp only [canon_lit, canon1_mk_eq, canon_fst_eq]
    | split

theorem canon_row_runDispatch {d : Nat} {m : Module} (hm : Canon m) :
    Canon (runDispatch d m) := by
  unfold runDispatch
  repeat' first
    | with_reducible assumption
    | with_reducible apply canon_settleDeficit
    | with_reducible apply canon_setDsp
    | with_reducible apply canon_startRun
    | with_reducible apply canon_ite
    | simp only [canon_lit, canon1_mk_eq, canon_fst_eq]
    | split

theorem canon_unloadProgram {m : Module} {d : Bytes} (hm : Canon m) :
    Canon1 (m.unloadProgram d) := by
  unfold Module.unloadProgram
  repeat' first
    | with_reducible assumption
    | with_reducible apply canon_ite_fst
    | simp only [canon_lit, canon1_mk_eq, canon_fst_eq]
    | split

theorem canon_unloadProgram_eq {m : Module} {d : Bytes} {y : Module} {w : Nat} (hm : Canon m)
    (e : m.unloadProgram d = (y, w)) : Canon y :=
  Canon1.of_eq (canon_unloadProgram hm) e

theorem canon_row_launchReached {m : Module} (hm : Canon m) :
    Canon (launchReached m) := by
  unfold launchReached
  repeat' first
    | with_reducible assumption
    | refine fun _ => ?_
    | with_reducible apply canon_reach
    | with_reducible apply canon_updEntry
    | with_reducible apply canon_advance
    | with_reducible apply canon_foldl
    | with_reducible apply canon_ite
    | simp only [canon_lit, canon1_mk_eq, canon_fst_eq]
    | split

end Sys2Proof.Machine
end

