-- ==== Sys2Proof/Laws/CanonKernels.lean ====
section
/-!
SUPPORT. The operations of Machine/Kernels.lean keep the canonical form of the module's tables (Safety.lean): one lemma for
each, which proofs about the rows cite.
-/
set_option linter.unusedSimpArgs false
set_option linter.unusedTactic false
set_option linter.unreachableTactic false
namespace Sys2Proof.Machine

theorem canon_kernel {m : Module} {e code : Nat} {f : Module → Run → Module} (hm : Canon m) (hf : ∀ x0 x1, Canon x0 → Canon (f x0 x1)) :
    Canon (m.kernel e code f) := by
  unfold Module.kernel
  repeat' first
    | with_reducible assumption
    | with_reducible apply hf
    | with_reducible apply canon_ite
    | split

theorem canon_kFail {m : Module} {e status : Nat} (hm : Canon m) :
    Canon (m.kFail e status) := by
  unfold Module.kFail
  exact canon_pump (canon_failRun hm)

theorem canon_kFlags {m : Module} {e : Nat} {empty : Bool} {dirty : Bool} (hm : Canon m) :
    Canon (m.kFlags e empty dirty) := by
  unfold Module.kFlags
  repeat' first
    | with_reducible assumption
    | refine fun _ => ?_
    | with_reducible apply canon_updRun
    | with_reducible apply canon_foldl
    | with_reducible apply canon_ite
    | simp only [canon_lit, canon1_mk_eq, canon_fst_eq]
    | lift_lets
    | split

theorem canon_kCnt {m : Module} {e : Nat} {c : Cnt} (hm : Canon m) :
    Canon (m.kCnt e c) := by
  unfold Module.kCnt
  exact canon_updEng hm

theorem canon_kStep {m : Module} {e phase cur : Nat} (hm : Canon m) :
    Canon (m.kStep e phase cur) := by
  unfold Module.kStep
  exact canon_updRun hm

theorem canon_kColl {m : Module} {e group seq type tw off : Nat} {pl : Bytes} (hm : Canon m) :
    Canon (m.kColl e group seq type tw off pl) := by
  unfold Module.kColl
  exact canon_pushEmit hm

theorem canon_landRead {m : Module} {e handle : Nat} {k : Module → Bytes → Module} (hm : Canon m) (hf : ∀ x0 x1, Canon x0 → Canon (k x0 x1)) :
    Canon (m.landRead e handle k) := by
  unfold Module.landRead
  repeat' first
    | with_reducible assumption
    | with_reducible apply hf
    | refine canon_readWord_eq ?_ (by with_reducible assumption)
    | with_reducible apply canon_kFail
    | split

theorem canon_kRead {m : Module} {e handle tile : Nat} {ver : Option Nat} {k : Module → Bytes → Module} (hm : Canon m) (hf : ∀ x0 x1, Canon x0 → Canon (k x0 x1)) :
    Canon (m.kRead e handle tile ver k) := by
  unfold Module.kRead
  repeat' first
    | with_reducible assumption
    | with_reducible apply hf
    | with_reducible apply canon_kFail
    | refine canon_readTile_eq ?_ (by with_reducible assumption)
    | with_reducible apply canon_updRun
    | split

theorem canon_kStore {m : Module} {e handle tile : Nat} {b : Bytes} {k : Module → Module} (hm : Canon m) (hf : ∀ x0, Canon x0 → Canon (k x0)) :
    Canon (m.kStore e handle tile b k) := by
  unfold Module.kStore
  repeat' first
    | with_reducible assumption
    | with_reducible apply hf
    | with_reducible apply canon_putTile
    | with_reducible apply canon_kFail
    | with_reducible apply canon_ite
    | simp only [canon_lit, canon1_mk_eq, canon_fst_eq]

theorem canon_kReadN {a0 : Module} {a1 a2 a3 : Nat} {a4 : Option Nat} {a5 : Nat} {a6 : List Bytes} (h0 : Canon a0) : Canon1 (@Module.kReadN a0 a1 a2 a3 a4 a5 a6) := by
  induction a5 generalizing a0 a3 a6 with
  | zero => exact h0
  | succ n ih =>
    unfold Module.kReadN
    repeat' first
    | with_reducible assumption
    | simp only [canon1_mk_eq]
    | refine canon_readTile_eq ?_ (by assumption)
    | with_reducible apply ih
    | with_reducible apply canon_updRun
    | split
theorem canon_kReadN_eq {a0 : Module} {a1 a2 a3 : Nat} {a4 : Option Nat} {a5 : Nat} {a6 : List Bytes} {y : Module} {z} (h0 : Canon a0) (e : @Module.kReadN a0 a1 a2 a3 a4 a5 a6 = (y, z)) : Canon y := by
  have h := @canon_kReadN a0 a1 a2 a3 a4 a5 a6 h0
  rw [e] at h; exact h

theorem canon_kHalt {m : Module} {e : Nat} {data : Bytes} {z : RunEnd} (hm : Canon m) :
    Canon (m.kHalt e data z) := by
  unfold Module.kHalt
  exact canon_pump (canon_endRun (canon_updEng hm))

theorem canon_update {m : Module} {e : Nat} {adam : Bool} (hm : Canon m) :
    Canon (m.update e adam) := by
  unfold Module.update
  repeat' first
    | with_reducible assumption
    | refine fun _ => ?_
    | with_reducible apply canon_kernel
    | with_reducible apply canon_kFail
    | with_reducible apply canon_updRun
    | with_reducible apply canon_kCnt
    | with_reducible apply canon_kStep
    | with_reducible apply canon_kColl
    | with_reducible apply canon_landRead
    | with_reducible apply canon_kRead
    | with_reducible apply canon_kStore
    | refine canon_kReadN_eq ?_ (by with_reducible assumption)
    | with_reducible apply canon_pushEmit
    | with_reducible apply canon_kHalt
    | with_reducible apply canon_ite
    | simp only [canon_lit, canon1_mk_eq, canon_fst_eq]
    | lift_lets
    | split

theorem canon_kFix {m : Module} {e : Nat} {r : Run} {handle vmode ver : Nat} (hm : Canon m) :
    Canon (m.kFix e r handle vmode ver) := by
  unfold Module.kFix
  repeat' first
    | with_reducible assumption
    | with_reducible apply canon_kFail
    | with_reducible apply canon_kStep
    | with_reducible apply canon_updRun
    | split

theorem canon_row_convert {e : Nat} {m : Module} (hm : Canon m) :
    Canon (convert e m) := by
  unfold convert
  repeat' first
    | with_reducible assumption
    | refine fun _ => ?_
    | with_reducible apply canon_kernel
    | with_reducible apply canon_kFail
    | with_reducible apply canon_kFix
    | with_reducible apply canon_kHalt
    | refine canon_kReadN_eq ?_ (by with_reducible assumption)
    | with_reducible apply canon_kStore
    | with_reducible apply canon_kCnt
    | with_reducible apply canon_kStep
    | with_reducible apply canon_ite
    | simp only [canon_lit, canon1_mk_eq, canon_fst_eq]
    | split

theorem canon_row_gather {e : Nat} {m : Module} (hm : Canon m) :
    Canon (gather e m) := by
  unfold gather
  repeat' first
    | with_reducible assumption
    | refine fun _ => ?_
    | with_reducible apply canon_kernel
    | with_reducible apply canon_kFail
    | with_reducible apply canon_kFix
    | refine canon_kReadN_eq ?_ (by with_reducible assumption)
    | with_reducible apply canon_kStep
    | with_reducible apply canon_pushEmit
    | with_reducible apply canon_fenceStep
    | with_reducible apply canon_updRun
    | with_reducible apply canon_kHalt
    | with_reducible apply canon_kFlags
    | with_reducible apply canon_pump
    | with_reducible apply canon_ite
    | simp only [canon_lit, canon1_mk_eq, canon_fst_eq]
    | split

theorem canon_row_attnPartial {e : Nat} {m : Module} (hm : Canon m) :
    Canon (attnPartial e m) := by
  unfold attnPartial
  repeat' first
    | with_reducible assumption
    | refine fun _ => ?_
    | with_reducible apply canon_kernel
    | with_reducible apply canon_kFail
    | with_reducible apply canon_kStep
    | with_reducible apply canon_kColl
    | refine canon_kReadN_eq ?_ (by with_reducible assumption)
    | with_reducible apply canon_kCnt
    | with_reducible apply canon_kHalt
    | with_reducible apply canon_landRead
    | with_reducible apply canon_kFlags
    | with_reducible apply canon_foldl
    | with_reducible apply canon_ite
    | simp only [canon_lit, canon1_mk_eq, canon_fst_eq]
    | lift_lets
    | split

theorem canon_row_compact {e : Nat} {m : Module} (hm : Canon m) :
    Canon (compact e m) := by
  unfold compact
  repeat' first
    | with_reducible assumption
    | refine fun _ => ?_
    | with_reducible apply canon_kernel
    | with_reducible apply canon_kFail
    | with_reducible apply canon_kStep
    | with_reducible apply canon_updRun
    | with_reducible apply canon_kHalt
    | with_reducible apply canon_kStore
    | with_reducible apply canon_kRead
    | with_reducible apply canon_updEng
    | with_reducible apply canon_ite

theorem canon_row_updateSgdm {e : Nat} {m : Module} (hm : Canon m) :
    Canon (updateSgdm e m) := by
  unfold updateSgdm
  exact canon_update hm

theorem canon_row_updateAdamw {e : Nat} {m : Module} (hm : Canon m) :
    Canon (updateAdamw e m) := by
  unfold updateAdamw
  exact canon_update hm

theorem canon_kStoreAll {m : Module} {e handle tile : Nat} {k : Module → Module} {z5 : List Bytes} (hm : Canon m) (hf : ∀ x0, Canon x0 → Canon (k x0)) :
    Canon (m.kStoreAll e handle tile k z5) := by
  induction z5 generalizing m e handle tile k with
  | nil =>
    unfold Module.kStoreAll
    repeat' first
      | with_reducible assumption
      | with_reducible apply hf
  | cons x xs ih =>
    unfold Module.kStoreAll
    repeat' first
      | with_reducible assumption
      | refine fun _ => ?_
      | with_reducible apply canon_kStore
      | with_reducible apply ih

theorem canon_row_attnFinal {e : Nat} {m : Module} (hm : Canon m) :
    Canon (attnFinal e m) := by
  unfold attnFinal
  repeat' first
    | with_reducible assumption
    | refine fun _ => ?_
    | with_reducible apply canon_kernel
    | with_reducible apply canon_kFail
    | refine canon_kReadN_eq ?_ (by with_reducible assumption)
    | with_reducible apply canon_kCnt
    | with_reducible apply canon_kHalt
    | with_reducible apply canon_kStoreAll
    | with_reducible apply canon_kFlags
    | with_reducible apply canon_ite
    | simp only [canon_lit, canon1_mk_eq, canon_fst_eq]
    | split

end Sys2Proof.Machine
end

