-- ==== Sys2Proof/Laws/CanonTime.lean ====
section
/-!
SUPPORT. The operations of Machine/Time.lean keep the canonical form of the module's tables (Safety.lean): one lemma for
each, which proofs about the rows cite.
-/
set_option linter.unusedSimpArgs false
set_option linter.unusedTactic false
set_option linter.unreachableTactic false
namespace Sys2Proof.Machine

theorem canon_stepPeriods {m : Module} {a b : Nat} (hm : Canon m) :
    Canon (m.stepPeriods a b) := by
  unfold Module.stepPeriods
  simp only [canon_lit, canon1_mk_eq]
  exact hm

theorem canon_stepFtc {m : Module} {d : ℤ} (hm : Canon m) :
    Canon (m.stepFtc d) := by
  unfold Module.stepFtc
  repeat' first
    | with_reducible assumption
    | with_reducible apply canon_stepPeriods
    | with_reducible apply canon_count
    | simp only [canon_lit, canon1_mk_eq, canon_fst_eq]

theorem canon_row_stepNow {m : Module} (hm : Canon m) :
    Canon (stepNow m) := by
  unfold stepNow
  repeat' first
    | with_reducible assumption
    | with_reducible apply canon_stepFtc
    | with_reducible apply canon_ite

theorem canon_row_holdoverExpiry {m : Module} (hm : Canon m) :
    Canon (holdoverExpiry m) := by
  unfold holdoverExpiry
  repeat' first
    | with_reducible assumption
    | with_reducible apply canon_timeState
    | with_reducible apply canon_reach
    | with_reducible apply canon_pass
    | with_reducible apply canon_ite

theorem canon_row_ppsPulse {m : Module} (hm : Canon m) :
    Canon (ppsPulse m) := by
  unfold ppsPulse
  repeat' first
    | with_reducible assumption
    | with_reducible apply canon_reach
    | with_reducible apply canon_pass
    | with_reducible apply canon_ite
    | simp only [canon_lit, canon1_mk_eq, canon_fst_eq]

theorem canon_takeTime {m : Module} {p : Nat} {k : Pkt} (hm : Canon m) :
    Canon (m.takeTime p k) := by
  unfold Module.takeTime
  exact canon_reselect (canon_count (canon_setPort hm))

theorem canon_onTime {m : Module} {p : Nat} {pk : Pkt} {f : Module → Pkt → Module} (hm : Canon m) (hf : ∀ x0 x1, Canon x0 → Canon (f x0 x1)) :
    Canon (m.onTime p pk f) := by
  unfold Module.onTime
  repeat' first
    | with_reducible assumption
    | with_reducible apply hf
    | refine canon_takeLocal ?_ (by with_reducible assumption)
    | with_reducible apply canon_takeTime
    | with_reducible apply canon_count
    | with_reducible apply canon_ite
    | lift_lets
    | split

theorem canon_steer {m : Module} {t2 : ℤ} (hm : Canon m) :
    Canon (m.steer t2) := by
  unfold Module.steer
  repeat' first
    | with_reducible assumption
    | with_reducible apply canon_stepFtc
    | with_reducible apply canon_timeState
    | with_reducible apply canon_ite
    | simp only [canon_lit, canon1_mk_eq, canon_fst_eq]

theorem canon_row_ptpSync {i : PtpIn} {m : Module} (hm : Canon m) :
    Canon (ptpSync i m) := by
  unfold ptpSync
  repeat' first
    | with_reducible assumption
    | with_reducible apply canon_count
    | with_reducible apply canon_steer
    | with_reducible apply canon_emit
    | with_reducible apply canon_ite

theorem canon_sample {m : Module} {p : Nat} {t1 t2 t3 t4 : ℤ} (hm : Canon m) :
    Canon (m.sample p t1 t2 t3 t4) := by
  unfold Module.sample
  repeat' first
    | with_reducible assumption
    | with_reducible apply canon_count
    | with_reducible apply canon_steer
    | with_reducible apply canon_setPort
    | with_reducible apply canon_ite
    | simp only [canon_lit, canon1_mk_eq, canon_fst_eq]

theorem canon_row_timeSample {p : Nat} {pk : Pkt} {t1 t4 : Nat} {m : Module} (hm : Canon m) :
    Canon (timeSample p pk t1 t4 m) := by
  unfold timeSample
  repeat' first
    | with_reducible assumption
    | refine fun _ => ?_
    | with_reducible apply canon_onPort
    | with_reducible apply canon_onTime
    | with_reducible apply canon_sample
    | with_reducible apply canon_ite
    | lift_lets
    | split

theorem canon_row_ptpAnnounce {addr : Bytes} {master : PtpAnn} {m : Module} (hm : Canon m) :
    Canon (ptpAnnounce addr master m) := by
  unfold ptpAnnounce
  repeat' first
    | with_reducible assumption
    | with_reducible apply canon_reselect
    | with_reducible apply canon_ite
    | simp only [canon_lit, canon1_mk_eq, canon_fst_eq]

theorem canon_row_sourceSwitch {m : Module} (hm : Canon m) :
    Canon (sourceSwitch m) := by
  unfold sourceSwitch
  repeat' first
    | with_reducible assumption
    | with_reducible apply canon_takeSource
    | with_reducible apply canon_reach
    | with_reducible apply canon_pass
    | with_reducible apply canon_ite
    | split

theorem canon_row_ptpMasterLost {m : Module} (hm : Canon m) :
    Canon (ptpMasterLost m) := by
  unfold ptpMasterLost
  repeat' first
    | with_reducible assumption
    | with_reducible apply canon_reselect
    | with_reducible apply canon_ite
    | simp only [canon_lit, canon1_mk_eq, canon_fst_eq]

theorem canon_row_acquireTimeout {m : Module} (hm : Canon m) :
    Canon (acquireTimeout m) := by
  unfold acquireTimeout
  repeat' first
    | with_reducible assumption
    | with_reducible apply canon_timeState
    | with_reducible apply canon_reach
    | with_reducible apply canon_pass
    | with_reducible apply canon_ite

theorem canon_row_candidateLoss {p : Nat} {m : Module} (hm : Canon m) :
    Canon (candidateLoss p m) := by
  unfold candidateLoss
  repeat' first
    | with_reducible assumption
    | refine fun _ => ?_
    | with_reducible apply canon_onPort
    | with_reducible apply canon_reach
    | with_reducible apply canon_reselect
    | with_reducible apply canon_setPort
    | with_reducible apply canon_pass
    | simp only [canon_lit, canon1_mk_eq, canon_fst_eq]
    | split

theorem canon_row_candidateAppears {p : Nat} {pk : Pkt} {m : Module} (hm : Canon m) :
    Canon (candidateAppears p pk m) := by
  unfold candidateAppears
  repeat' first
    | with_reducible assumption
    | refine fun _ => ?_
    | with_reducible apply canon_onPort
    | with_reducible apply canon_onTime

end Sys2Proof.Machine
end

