-- ==== Sys2Proof/Laws/CanonFaults.lean ====
section
/-!
SUPPORT. The operations of Machine/Faults.lean keep the canonical form of the module's tables (Safety.lean): one lemma for
each, which proofs about the rows cite.
-/
set_option linter.unusedSimpArgs false
set_option linter.unusedTactic false
set_option linter.unreachableTactic false
namespace Sys2Proof.Machine

theorem canon_discardBuffer {m : Module} {d : Nat} {moved : List Nat} (hm : Canon m) :
    Canon (m.discardBuffer d moved) := by
  unfold Module.discardBuffer
  repeat' first
    | with_reducible assumption
    | refine fun _ => ?_
    | with_reducible apply canon_dropUnbegun
    | with_reducible apply canon_setSrc
    | with_reducible apply canon_freeBp
    | with_reducible apply canon_updBp
    | with_reducible apply canon_count
    | with_reducible apply canon_foldl
    | with_reducible apply canon_ite
    | simp only [canon_lit, canon1_mk_eq, canon_fst_eq]
    | split

theorem canon_moveSources {m : Module} {l : List Nat} (hm : Canon m) :
    Canon (m.moveSources l) := by
  unfold Module.moveSources
  repeat' first
    | with_reducible assumption
    | refine fun _ => ?_
    | with_reducible apply canon_dropSource
    | with_reducible apply canon_count
    | with_reducible apply canon_writeError
    | with_reducible apply canon_setSrc
    | with_reducible apply canon_foldl
    | with_reducible apply canon_ite
    | simp only [canon_lit, canon1_mk_eq, canon_fst_eq]

theorem canon_liftDie {m : Module} {d : Nat} (hm : Canon m) :
    Canon (m.liftDie d) := by
  unfold Module.liftDie
  repeat' first
    | with_reducible assumption
    | with_reducible apply canon_moveSources
    | with_reducible apply canon_rebuildPool
    | with_reducible apply canon_ite
    | simp only [canon_lit, canon1_mk_eq, canon_fst_eq]

theorem canon_bufferError {m : Module} {b : BPkt} (hm : Canon m) :
    Canon (m.bufferError b) := by
  unfold Module.bufferError
  repeat' first
    | with_reducible assumption
    | with_reducible apply canon_setSrc
    | with_reducible apply canon_markBad
    | with_reducible apply canon_ite

theorem canon_hubError {m : Module} {detail : Nat} (hm : Canon m) :
    Canon (m.hubError detail) := by
  unfold Module.hubError
  repeat' first
    | with_reducible assumption
    | with_reducible apply canon_bufferError
    | split

theorem canon_recordAbort {m : Module} {h : Nat} (hm : Canon m) :
    Canon (m.recordAbort h) := by
  unfold Module.recordAbort
  repeat' first
    | with_reducible assumption
    | with_reducible apply canon_requestAbort
    | with_reducible apply canon_abortCtx
    | with_reducible apply canon_abortRun
    | with_reducible apply canon_ite
    | simp only [canon_lit, canon1_mk_eq, canon_fst_eq]
    | split

theorem canon_liftAll {m : Module} (hm : Canon m) :
    Canon (m.liftAll) := by
  unfold Module.liftAll
  repeat' first
    | with_reducible assumption
    | refine fun _ => ?_
    | with_reducible apply canon_setDie
    | with_reducible apply canon_setLink
    | with_reducible apply canon_liftDie
    | with_reducible apply canon_foldl
    | simp only [canon_lit, canon1_mk_eq, canon_fst_eq]

theorem canon_closeRecord {m : Module} (hm : Canon m) :
    Canon (m.closeRecord) := by
  unfold Module.closeRecord
  repeat' first
    | with_reducible assumption
    | with_reducible apply canon_liftAll
    | with_reducible apply canon_writeHistory
    | with_reducible apply canon_faultEvent
    | simp only [canon_lit, canon1_mk_eq, canon_fst_eq]
    | split

theorem canon_mcFenceEvent {m : Module} {p : Nat} (hm : Canon m) :
    Canon (m.mcFenceEvent p) := by
  unfold Module.mcFenceEvent
  exact canon_event hm

theorem canon_row_levelSourceInactive {src blk : Nat} {m : Module} (hm : Canon m) :
    Canon (levelSourceInactive src blk m) := by
  unfold levelSourceInactive
  repeat' first
    | with_reducible assumption
    | with_reducible apply canon_pins
    | with_reducible apply canon_level
    | with_reducible apply canon_ite
    | simp only [canon_lit, canon1_mk_eq, canon_fst_eq]

theorem canon_cellError {m : Module} {d c : Nat} (hm : Canon m) :
    Canon (m.cellError d c) := by
  unfold Module.cellError
  repeat' first
    | with_reducible assumption
    | with_reducible apply canon_bufferError
    | with_reducible apply canon_setDie
    | simp only [canon_lit, canon1_mk_eq, canon_fst_eq]
    | split

theorem canon_isolatePort {m : Module} {p : Nat} (hm : Canon m) :
    Canon (m.isolatePort p) := by
  unfold Module.isolatePort
  repeat' first
    | with_reducible assumption
    | with_reducible apply canon_inputLost
    | with_reducible apply canon_enterDown
    | with_reducible apply canon_setLink
    | with_reducible apply canon_ite
    | simp only [canon_lit, canon1_mk_eq, canon_fst_eq]

theorem canon_isolatePorts {m : Module} {ports : List Nat} (hm : Canon m) :
    Canon (m.isolatePorts ports) := by
  unfold Module.isolatePorts
  repeat' first
    | with_reducible assumption
    | refine fun _ => ?_
    | with_reducible apply canon_setDie
    | with_reducible apply canon_mcFenceEvent
    | with_reducible apply canon_isolatePort
    | with_reducible apply canon_fenceMembers
    | with_reducible apply canon_foldl
    | simp only [canon_lit, canon1_mk_eq, canon_fst_eq]

theorem canon_isolateEngines {m : Module} {l : List Nat} (hm : Canon m) :
    Canon (m.isolateEngines l) := by
  unfold Module.isolateEngines
  repeat' first
    | with_reducible assumption
    | refine fun _ => ?_
    | with_reducible apply canon_killRun
    | with_reducible apply canon_foldl
    | simp only [canon_lit, canon1_mk_eq, canon_fst_eq]

theorem canon_fenceOne {m : Module} {d : Nat} (hm : Canon m) :
    Canon (m.fenceOne d) := by
  unfold Module.fenceOne
  repeat' first
    | with_reducible assumption
    | with_reducible apply canon_fenceColl
    | with_reducible apply canon_discardBuffer
    | with_reducible apply canon_moveSources
    | with_reducible apply canon_isolatePorts
    | with_reducible apply canon_isolateEngines
    | with_reducible apply canon_ite
    | simp only [canon_lit, canon1_mk_eq, canon_fst_eq]

theorem canon_fenceDie {m : Module} {d : Nat} (hm : Canon m) :
    Canon (m.fenceDie d) := by
  unfold Module.fenceDie
  repeat' first
    | with_reducible assumption
    | refine fun _ => ?_
    | with_reducible apply canon_fenceOne
    | with_reducible apply canon_foldl
    | with_reducible apply canon_ite

theorem canon_hold {m : Module} (hm : Canon m) :
    Canon (m.hold) := by
  unfold Module.hold
  repeat' first
    | with_reducible assumption
    | refine fun _ => ?_
    | with_reducible apply canon_count
    | with_reducible apply canon_enterDown
    | with_reducible apply canon_recordAbort
    | with_reducible apply canon_killRun
    | with_reducible apply canon_foldl
    | with_reducible apply canon_ite
    | simp only [canon_lit, canon1_mk_eq, canon_fst_eq]

theorem canon_escDo {m : Module} {x : Esc} (hm : Canon m) :
    Canon (m.escDo x) := by
  unfold Module.escDo
  repeat' first
    | with_reducible assumption
    | with_reducible apply canon_isolatePorts
    | with_reducible apply canon_isolateEngines
    | with_reducible apply canon_recordAbort
    | with_reducible apply canon_fenceDie
    | with_reducible apply canon_hold
    | split

theorem canon_escalate {m : Module} {r : Rec} (hm : Canon m) :
    Canon (m.escalate r) := by
  unfold Module.escalate
  repeat' first
    | with_reducible assumption
    | refine fun _ => ?_
    | with_reducible apply canon_escDo
    | with_reducible apply canon_count
    | with_reducible apply canon_writeHistory
    | with_reducible apply canon_faultEvent
    | with_reducible apply canon_foldl
    | with_reducible apply canon_ite
    | simp only [canon_lit, canon1_mk_eq, canon_fst_eq]

theorem canon_row_graceExpiry {m : Module} (hm : Canon m) :
    Canon (graceExpiry m) := by
  unfold graceExpiry
  repeat' first
    | with_reducible assumption
    | with_reducible apply canon_reach
    | with_reducible apply canon_wake
    | with_reducible apply canon_escalate
    | with_reducible apply canon_pass
    | with_reducible apply canon_ite
    | simp only [canon_lit, canon1_mk_eq, canon_fst_eq]
    | split

theorem canon_row_faultRaise {src blk detail : Nat} {m : Module} (hm : Canon m) :
    Canon (faultRaise src blk detail m) := by
  unfold faultRaise
  repeat' first
    | with_reducible assumption
    | with_reducible apply canon_pins
    | with_reducible apply canon_level
    | with_reducible apply canon_hubError
    | with_reducible apply canon_cellError
    | with_reducible apply canon_raise
    | with_reducible apply canon_ite
    | simp only [canon_lit, canon1_mk_eq, canon_fst_eq]

theorem canon_faultClear {m : Module} {bitmap : Nat} (hm : Canon m) :
    Canon1 (m.faultClear bitmap) := by
  unfold Module.faultClear
  repeat' first
    | with_reducible assumption
    | with_reducible apply canon_closeRecord
    | with_reducible apply canon_ite
    | simp only [canon_lit, canon1_mk_eq, canon_fst_eq]
    | split

theorem canon_faultClear_eq {m : Module} {bitmap : Nat} {y : Module} {w : Nat} (hm : Canon m)
    (e : m.faultClear bitmap = (y, w)) : Canon y :=
  Canon1.of_eq (canon_faultClear hm) e

end Sys2Proof.Machine
end

