-- ==== Sys2Proof/Laws/CanonPower.lean ====
section
/-!
SUPPORT. The operations of Machine/Power.lean keep the canonical form of the module's tables (Safety.lean): one lemma for
each, which proofs about the rows cite.
-/
set_option linter.unusedSimpArgs false
set_option linter.unusedTactic false
set_option linter.unreachableTactic false
namespace Sys2Proof.Machine

theorem canon_boardLevels {m : Module} (hm : Canon m) :
    Canon (m.boardLevels) := by
  unfold Module.boardLevels
  repeat' first
    | with_reducible assumption
    | refine fun _ => ?_
    | with_reducible apply canon_pins
    | with_reducible apply canon_level
    | with_reducible apply canon_foldl
    | with_reducible apply canon_ite
    | simp only [canon_lit, canon1_mk_eq, canon_fst_eq]
    | lift_lets
    | split

theorem canon_row_wakeComplete {m : Module} (hm : Canon m) :
    Canon (wakeComplete m) := by
  unfold wakeComplete
  repeat' first
    | with_reducible assumption
    | with_reducible apply canon_checkHolds
    | with_reducible apply canon_count
    | with_reducible apply canon_ite
    | simp only [canon_lit, canon1_mk_eq, canon_fst_eq]

theorem canon_restartVane {m : Module} (hm : Canon m) :
    Canon (m.restartVane) := by
  unfold Module.restartVane
  simp only [canon_lit, canon1_mk_eq]
  exact hm

theorem canon_holdAdmit {m : Module} (hm : Canon m) :
    Canon (m.holdAdmit) := by
  unfold Module.holdAdmit
  repeat' first
    | with_reducible assumption
    | refine fun _ => ?_
    | with_reducible apply canon_setReg
    | with_reducible apply canon_foldl
    | with_reducible apply canon_ite

theorem canon_leaveRefresh {m : Module} {i : StartIn} (hm : Canon m) :
    Canon (m.leaveRefresh i) := by
  unfold Module.leaveRefresh
  repeat' first
    | with_reducible assumption
    | refine fun _ => ?_
    | with_reducible apply canon_raise
    | with_reducible apply canon_foldl
    | with_reducible apply canon_ite
    | simp only [canon_lit, canon1_mk_eq, canon_fst_eq]

theorem canon_trainUnit {m : Module} {i : StartIn} {cold : Bool} {u src : Nat} {x : MUnit} (hm : Canon m) :
    Canon (m.trainUnit i cold u src x) := by
  unfold Module.trainUnit
  repeat' first
    | with_reducible assumption
    | with_reducible apply canon_raise
    | with_reducible apply canon_ite
    | simp only [canon_lit, canon1_mk_eq, canon_fst_eq]

theorem canon_populate {m : Module} {i : StartIn} {cold : Bool} (hm : Canon m) :
    Canon (m.populate i cold) := by
  unfold Module.populate
  repeat' first
    | with_reducible assumption
    | refine fun _ => ?_
    | with_reducible apply canon_raise
    | with_reducible apply canon_trainUnit
    | with_reducible apply canon_foldl
    | with_reducible apply canon_ite
    | simp only [canon_lit, canon1_mk_eq, canon_fst_eq]

theorem canon_startMain {m : Module} {i : StartIn} {up : Up} (hm : Canon m) :
    Canon (m.startMain i up) := by
  unfold Module.startMain
  repeat' first
    | with_reducible assumption
    | refine fun _ => ?_
    | with_reducible apply canon_raise
    | with_reducible apply canon_setDie
    | with_reducible apply canon_leaveRefresh
    | with_reducible apply canon_trainUnit
    | with_reducible apply canon_populate
    | with_reducible apply canon_setLink
    | with_reducible apply canon_pins
    | with_reducible apply canon_foldl
    | with_reducible apply canon_ite
    | simp only [canon_lit, canon1_mk_eq, canon_fst_eq]
    | split

theorem canon_coldBoot {m : Module} {i : StartIn} (hm : Canon m) :
    Canon (m.coldBoot i) := by
  unfold Module.coldBoot
  repeat' first
    | with_reducible assumption
    | with_reducible apply canon_holdAdmit
    | with_reducible apply canon_boot
    | with_reducible apply canon_timeState
    | with_reducible apply canon_startMain
    | with_reducible apply canon_pins
    | with_reducible apply canon_reselect
    | with_reducible apply canon_ite

theorem canon_row_coldStart {i : StartIn} {m : Module} (hm : Canon m) :
    Canon (coldStart i m) := by
  unfold coldStart
  repeat' first
    | with_reducible assumption
    | with_reducible apply canon_raise
    | with_reducible apply canon_coldBoot
    | with_reducible apply canon_boardLevels
    | with_reducible apply canon_ite
    | simp only [canon_lit, canon1_mk_eq, canon_fst_eq]

theorem canon_row_lullWake {m : Module} (hm : Canon m) :
    Canon (lullWake m) := by
  unfold lullWake
  repeat' first
    | with_reducible assumption
    | with_reducible apply canon_wake
    | with_reducible apply canon_ite

theorem canon_resetRegs {m : Module} {up : Up} (hm : Canon m) :
    Canon (m.resetRegs up) := by
  unfold Module.resetRegs
  repeat' first
    | with_reducible assumption
    | simp only [canon_lit, canon1_mk_eq, canon_fst_eq]
    | lift_lets
    | refine ⟨?_, ?_, ?_, ?_, ?_⟩
    | with_reducible apply Canon.regs
    | with_reducible apply Canon.mem
    | with_reducible apply Canon.ports
    | with_reducible apply Canon.dies
    | with_reducible apply Canon.engs
    | with_reducible apply Tab.keep_wf

theorem canon_row_lullWakeCount {m : Module} (hm : Canon m) :
    Canon (lullWakeCount m) := by
  unfold lullWakeCount
  repeat' first
    | with_reducible assumption
    | with_reducible apply canon_reach
    | with_reducible apply canon_wake
    | with_reducible apply canon_ite
    | simp only [canon_lit, canon1_mk_eq, canon_fst_eq]
    | split

theorem canon_portReset {m : Module} {p : Nat} (hm : Canon m) :
    Canon (m.portReset p) := by
  unfold Module.portReset
  repeat' first
    | with_reducible assumption
    | with_reducible apply canon_enterDown
    | with_reducible apply canon_clearRegs
    | with_reducible apply canon_resetBlocks
    | with_reducible apply canon_setLink
    | with_reducible apply canon_setWire
    | with_reducible apply canon_holdAdmit
    | simp only [canon_lit, canon1_mk_eq, canon_fst_eq]

theorem canon_row_stickyClear {v : Nat} {m : Module} (hm : Canon m) :
    Canon (stickyClear v m) := by
  unfold stickyClear
  repeat' first
    | with_reducible assumption
    | with_reducible apply canon_setReg
    | with_reducible apply canon_ite

theorem canon_portsDown {m : Module} (hm : Canon m) :
    Canon (m.portsDown) := by
  unfold Module.portsDown
  repeat' first
    | with_reducible assumption
    | refine fun _ => ?_
    | with_reducible apply canon_enterDown
    | with_reducible apply canon_foldl

theorem canon_loseMain {m : Module} {up : Up} (hm : Canon m) :
    Canon (m.loseMain up) := by
  unfold Module.loseMain
  repeat' first
    | with_reducible assumption
    | simp only [canon_lit, canon1_mk_eq, canon_fst_eq]
    | lift_lets
    | split
    | refine ⟨?_, ?_, ?_, ?_, ?_⟩
    | with_reducible apply Canon.regs
    | with_reducible apply Canon.mem
    | with_reducible apply Canon.ports
    | with_reducible apply Canon.dies
    | with_reducible exact Tab.wf_empty
    | exact mem_empty_wf
    | with_reducible apply Tab.mapRows_wf
    | with_reducible apply keep_wf_mem

theorem canon_reraise {m : Module} (hm : Canon m) :
    Canon (m.reraise) := by
  unfold Module.reraise
  repeat' first
    | with_reducible assumption
    | refine fun _ => ?_
    | with_reducible apply canon_level
    | with_reducible apply canon_foldl
    | simp only [canon_lit, canon1_mk_eq, canon_fst_eq]

theorem canon_coldReset {m : Module} {i : StartIn} (hm : Canon m) :
    Canon (m.coldReset i) := by
  unfold Module.coldReset
  repeat' first
    | with_reducible assumption
    | with_reducible apply canon_closeRecord
    | with_reducible apply canon_portsDown
    | with_reducible apply canon_restartVane
    | with_reducible apply canon_resetRegs
    | with_reducible apply canon_loseMain
    | with_reducible apply canon_coldBoot
    | with_reducible apply canon_reraise
    | simp only [canon_lit, canon1_mk_eq, canon_fst_eq]
    | refine ⟨?_, ?_, ?_, ?_, ?_⟩
    | with_reducible apply Canon.regs
    | with_reducible apply Canon.mem
    | with_reducible apply Canon.dies
    | with_reducible apply Canon.engs
    | with_reducible exact Tab.wf_empty

theorem canon_paceStatus {m : Module} {bits_ : Nat} (hm : Canon m) :
    Canon (m.paceStatus bits_) := by
  unfold Module.paceStatus
  repeat' first
    | with_reducible assumption
    | with_reducible apply canon_setReg
    | with_reducible apply canon_event
    | with_reducible apply canon_ite
    | simp only [canon_lit, canon1_mk_eq, canon_fst_eq]

theorem canon_row_lullEntryDone {m : Module} (hm : Canon m) :
    Canon (lullEntryDone m) := by
  unfold lullEntryDone
  repeat' first
    | with_reducible assumption
    | with_reducible apply canon_count
    | with_reducible apply canon_ite
    | simp only [canon_lit, canon1_mk_eq, canon_fst_eq]

theorem canon_row_standbyPowerOff {m : Module} (hm : Canon m) :
    Canon (standbyPowerOff m) := by
  unfold standbyPowerOff
  repeat' first
    | with_reducible assumption
    | with_reducible apply canon_ite
    | simp only [canon_lit, canon1_mk_eq, canon_fst_eq]
    | refine ⟨?_, ?_, ?_, ?_, ?_⟩
    | with_reducible exact Tab.wf_empty
    | exact mem_empty_wf

theorem canon_enterLull {m : Module} (hm : Canon m) :
    Canon (m.enterLull) := by
  unfold Module.enterLull
  repeat' first
    | with_reducible assumption
    | with_reducible apply canon_checkHolds
    | with_reducible apply canon_ite
    | simp only [canon_lit, canon1_mk_eq, canon_fst_eq]

theorem canon_row_lullIdleExpiry {m : Module} (hm : Canon m) :
    Canon (lullIdleExpiry m) := by
  unfold lullIdleExpiry
  repeat' first
    | with_reducible assumption
    | with_reducible apply canon_enterLull
    | with_reducible apply canon_reach
    | with_reducible apply canon_pass
    | with_reducible apply canon_ite

theorem canon_warmReset {m : Module} {i : StartIn} {kept : Bool} (hm : Canon m) :
    Canon (m.warmReset i kept) := by
  unfold Module.warmReset
  repeat' first
    | with_reducible assumption
    | with_reducible apply canon_closeRecord
    | with_reducible apply canon_portsDown
    | with_reducible apply canon_settleMoves
    | with_reducible apply canon_restartVane
    | with_reducible apply canon_resetRegs
    | with_reducible apply canon_loseMain
    | with_reducible apply canon_reraise
    | with_reducible apply canon_holdAdmit
    | with_reducible apply canon_boot
    | with_reducible apply canon_startMain
    | with_reducible apply canon_pins
    | with_reducible apply canon_reselect
    | with_reducible apply canon_ite
    | simp only [canon_lit, canon1_mk_eq, canon_fst_eq]

theorem canon_threshold {m : Module} {src blk : Nat} {on off : Bool} (hm : Canon m) :
    Canon (m.threshold src blk on off) := by
  unfold Module.threshold
  repeat' first
    | with_reducible assumption
    | with_reducible apply canon_level
    | with_reducible apply canon_ite

theorem canon_mainOff {m : Module} (hm : Canon m) :
    Canon (m.mainOff) := by
  unfold Module.mainOff
  repeat' first
    | with_reducible assumption
    | with_reducible apply canon_loseMain
    | with_reducible apply canon_resetBlocks
    | with_reducible apply canon_pins
    | with_reducible apply canon_reselect
    | with_reducible apply canon_holdAdmit
    | simp only [canon_lit, canon1_mk_eq, canon_fst_eq]

theorem canon_row_sensorSample {i : SensorIn} {m : Module} (hm : Canon m) :
    Canon (sensorSample i m) := by
  unfold sensorSample
  repeat' first
    | with_reducible assumption
    | refine fun _ => ?_
    | with_reducible apply canon_level
    | with_reducible apply canon_threshold
    | with_reducible apply canon_pins
    | with_reducible apply canon_foldl
    | with_reducible apply canon_ite
    | simp only [canon_lit, canon1_mk_eq, canon_fst_eq]

theorem canon_row_brownout {m : Module} (hm : Canon m) :
    Canon (brownout m) := by
  unfold brownout
  repeat' first
    | with_reducible assumption
    | with_reducible apply canon_mainOff
    | with_reducible apply canon_ite
    | simp only [canon_lit, canon1_mk_eq, canon_fst_eq]

theorem canon_row_leakDetected {own board : Bool} {m : Module} (hm : Canon m) :
    Canon (leakDetected own board m) := by
  unfold leakDetected
  repeat' first
    | with_reducible assumption
    | with_reducible apply canon_pins
    | with_reducible apply canon_level
    | with_reducible apply canon_ite
    | simp only [canon_lit, canon1_mk_eq, canon_fst_eq]

theorem canon_row_inputRestored {i : StartIn} {m : Module} (hm : Canon m) :
    Canon (inputRestored i m) := by
  unfold inputRestored
  repeat' first
    | with_reducible assumption
    | with_reducible apply canon_startMain
    | with_reducible apply canon_ite
    | simp only [canon_lit, canon1_mk_eq, canon_fst_eq]

theorem canon_row_paceUpdate {i : PaceIn} {m : Module} (hm : Canon m) :
    Canon (paceUpdate i m) := by
  unfold paceUpdate
  repeat' first
    | with_reducible assumption
    | with_reducible apply canon_checkHolds
    | with_reducible apply canon_paceStatus
    | with_reducible apply canon_level
    | with_reducible apply canon_pins
    | with_reducible apply canon_ite
    | simp only [canon_lit, canon1_mk_eq, canon_fst_eq]

theorem canon_row_hardwareTrip {m : Module} (hm : Canon m) :
    Canon (hardwareTrip m) := by
  unfold hardwareTrip
  repeat' first
    | with_reducible assumption
    | with_reducible apply canon_mainOff
    | with_reducible apply canon_pins
    | with_reducible apply canon_level
    | with_reducible apply canon_ite
    | simp only [canon_lit, canon1_mk_eq, canon_fst_eq]

theorem canon_row_limitUpdatesClear {v : Nat} {m : Module} (hm : Canon m) :
    Canon (limitUpdatesClear v m) := by
  unfold limitUpdatesClear
  repeat' first
    | with_reducible assumption
    | with_reducible apply canon_setReg
    | with_reducible apply canon_ite

theorem canon_row_standbyPowerOn {flagGood crcGood : Bool} {m : Module} (hm : Canon m) :
    Canon (standbyPowerOn flagGood crcGood m) := by
  unfold standbyPowerOn
  repeat' first
    | with_reducible assumption
    | with_reducible apply canon_raise
    | with_reducible apply canon_boardLevels
    | with_reducible apply canon_ite
    | simp only [canon_lit, canon1_mk_eq, canon_fst_eq]

theorem canon_row_sidebandLinkChange {up : Bool} {m : Module} (hm : Canon m) :
    Canon (sidebandLinkChange up m) := by
  unfold sidebandLinkChange
  repeat' first
    | with_reducible assumption
    | with_reducible apply canon_level
    | with_reducible apply canon_ite
    | simp only [canon_lit, canon1_mk_eq, canon_fst_eq]

theorem canon_row_batterySample {mv : Nat} {m : Module} (hm : Canon m) :
    Canon (batterySample mv m) := by
  unfold batterySample
  repeat' first
    | with_reducible assumption
    | with_reducible apply canon_level
    | with_reducible apply canon_ite
    | simp only [canon_lit, canon1_mk_eq, canon_fst_eq]

end Sys2Proof.Machine
end

