-- ==== Sys2Proof/Laws/CanonWrite.lean ====
section
/-!
SUPPORT. The operations of Machine/Write.lean keep the canonical form of the module's tables (Safety.lean): one lemma for
each, which proofs about the rows cite.
-/
set_option linter.unusedSimpArgs false
set_option linter.unusedTactic false
set_option linter.unreachableTactic false
namespace Sys2Proof.Machine

theorem canon_store1 {m : Module} {x : RegW} (hm : Canon m) :
    Canon (m.store1 x) := by
  unfold Module.store1
  repeat' first
    | with_reducible assumption
    | refine fun _ => ?_
    | with_reducible apply canon_setReg
    | with_reducible apply canon_foldl
    | with_reducible apply canon_ite

theorem canon_keepWrite {m : Module} {l : List (Nat × Nat)} (hm : Canon m) :
    Canon (m.keepWrite l) := by
  unfold Module.keepWrite
  repeat' first
    | with_reducible assumption
    | with_reducible apply canon_reselect
    | with_reducible apply canon_ite
    | simp only [canon_lit, canon1_mk_eq, canon_fst_eq]

theorem canon_syncShaper {m : Module} {s : Nat} (hm : Canon m) :
    Canon (m.syncShaper s) := by
  unfold Module.syncShaper
  repeat' first
    | with_reducible assumption
    | with_reducible apply canon_syncHeads
    | simp only [canon_lit, canon1_mk_eq, canon_fst_eq]

theorem canon_syncPolicer {m : Module} {s : Nat} (hm : Canon m) :
    Canon (m.syncPolicer s) := by
  unfold Module.syncPolicer
  simp only [canon_lit, canon1_mk_eq]
  exact hm

theorem canon_regEffect {m : Module} {x : RegW} (hm : Canon m) :
    Canon (m.regEffect x) := by
  unfold Module.regEffect
  repeat' first
    | with_reducible assumption
    | refine fun _ => ?_
    | with_reducible apply canon_clearRegs
    | with_reducible apply canon_onPort
    | with_reducible apply canon_startRetrain
    | with_reducible apply canon_rebuildPool
    | with_reducible apply canon_row_admitSet
    | with_reducible apply canon_rehold
    | with_reducible apply canon_packRings
    | with_reducible apply canon_syncShaper
    | with_reducible apply canon_syncPolicer
    | with_reducible apply canon_ringReset
    | with_reducible apply canon_reselect
    | with_reducible apply canon_row_stepNow
    | with_reducible apply canon_setReg
    | with_reducible apply canon_wake
    | with_reducible apply canon_ite
    | simp only [canon_lit, canon1_mk_eq, canon_fst_eq]
    | lift_lets
    | split

theorem canon_ringEnable {m : Module} {x : RegW} (hm : Canon m) :
    Canon (m.ringEnable x) := by
  unfold Module.ringEnable
  repeat' first
    | with_reducible assumption
    | with_reducible apply canon_ringReset
    | with_reducible apply canon_setDie
    | with_reducible apply canon_ite

theorem canon_linkCtrl {m : Module} {x : RegW} (hm : Canon m) :
    Canon (m.linkCtrl x) := by
  unfold Module.linkCtrl
  repeat' first
    | with_reducible assumption
    | with_reducible apply canon_row_enable
    | with_reducible apply canon_row_widthLimit
    | with_reducible apply canon_ite

theorem canon_ppsEnable {m : Module} {x : RegW} (hm : Canon m) :
    Canon (m.ppsEnable x) := by
  unfold Module.ppsEnable
  repeat' first
    | with_reducible assumption
    | refine fun _ => ?_
    | with_reducible apply canon_foldl
    | with_reducible apply canon_ite
    | simp only [canon_lit, canon1_mk_eq, canon_fst_eq]
    | lift_lets
    | split

theorem canon_writeReg {m : Module} {x : RegW} (hm : Canon m) :
    Canon (m.writeReg x) := by
  unfold Module.writeReg
  repeat' first
    | with_reducible assumption
    | with_reducible apply canon_keepWrite
    | with_reducible apply canon_regEffect
    | with_reducible apply canon_store1
    | with_reducible apply canon_ringEnable
    | with_reducible apply canon_linkCtrl
    | with_reducible apply canon_ppsEnable
    | with_reducible apply canon_ite

theorem canon_writeRegs {m : Module} {side : Bool} {l : List RegW} (hm : Canon m) :
    Canon1 (m.writeRegs side l) := by
  unfold Module.writeRegs
  repeat' first
    | with_reducible assumption
    | refine fun _ => ?_
    | with_reducible apply canon_writeReg
    | with_reducible apply canon_store1
    | with_reducible apply canon_foldl
    | simp only [canon_lit, canon1_mk_eq, canon_fst_eq]
    | split

theorem canon_writeRegs_eq {m : Module} {side : Bool} {l : List RegW} {y : Module} {w : Nat} (hm : Canon m)
    (e : m.writeRegs side l = (y, w)) : Canon y :=
  Canon1.of_eq (canon_writeRegs hm) e

end Sys2Proof.Machine
end

