-- ==== Sys2Proof/Laws/CanonCommands.lean ====
section
/-!
SUPPORT. The operations of Machine/Commands.lean keep the canonical form of the module's tables (Safety.lean): one lemma for
each, which proofs about the rows cite.
-/
set_option linter.unusedSimpArgs false
set_option linter.unusedTactic false
set_option linter.unreachableTactic false
namespace Sys2Proof.Machine

theorem canon_fromCache_O {m : Module} {r : CmdReq} (hm : Canon m) :
    CanonO (m.fromCache r) := by
  unfold Module.fromCache
  repeat' first
    | with_reducible assumption
    | refine fun _ => ?_
    | with_reducible apply canon_sendReply
    | with_reducible apply canon_count
    | with_reducible apply canon_foldl
    | simp only [canon_lit, canon1_mk_eq, canon_fst_eq]
    | exact canonO_none
    | with_reducible apply canonO_some
    | split

theorem canon_fromCache {m : Module} {r : CmdReq} {y : Module} (hm : Canon m)
    (e : m.fromCache r = some y) : Canon y :=
  (canon_fromCache_O hm).get y e

theorem canon_admitCmd {m : Module} {r : CmdReq} (hm : Canon m) :
    Canon (m.admitCmd r) := by
  unfold Module.admitCmd
  repeat' first
    | with_reducible assumption
    | refine canon_fromCache ?_ (by with_reducible assumption)
    | with_reducible apply canon_replyFinal
    | with_reducible apply canon_count
    | with_reducible apply canon_ite
    | simp only [canon_lit, canon1_mk_eq, canon_fst_eq]
    | lift_lets
    | split

theorem canon_refuseCmd {m : Module} (hm : Canon m) :
    Canon (m.refuseCmd) := by
  unfold Module.refuseCmd
  exact canon_count hm

theorem canon_arrive {m : Module} {r : CmdReq} (hm : Canon m) :
    Canon (m.arrive r) := by
  unfold Module.arrive
  repeat' first
    | with_reducible assumption
    | with_reducible apply canon_admitCmd
    | with_reducible apply canon_refuseCmd
    | with_reducible apply canon_ite

theorem canon_popCmd {m : Module} {side : Bool} (hm : Canon m) :
    Canon (m.popCmd side) := by
  unfold Module.popCmd
  simp only [canon_lit, canon1_mk_eq]
  exact hm

theorem canon_takeCmd {m : Module} {r : CmdReq} (hm : Canon m) :
    Canon1 (m.takeCmd r) := by
  unfold Module.takeCmd
  repeat' first
    | with_reducible assumption
    | with_reducible apply canon_arrive
    | refine canon_fromCache ?_ (by with_reducible assumption)
    | with_reducible apply canon_popCmd
    | with_reducible apply canon_replyFinal
    | with_reducible apply canon_wake
    | with_reducible apply canon_count
    | with_reducible apply canon_ite
    | with_reducible apply canon_ite_fst
    | simp only [canon_lit, canon1_mk_eq, canon_fst_eq]
    | lift_lets
    | split

theorem canon_takeCmd_eq {m : Module} {r : CmdReq} {y : Module} {w : Bool} (hm : Canon m)
    (e : m.takeCmd r = (y, w)) : Canon y :=
  Canon1.of_eq (canon_takeCmd hm) e

theorem canon_command {m : Module} {r : CmdReq} {op : Nat} {row : Bool} {lay : List (Nat × Nat × Nat)} {f : Module → Module} (hm : Canon m) (hf : ∀ x0, Canon x0 → Canon (f x0)) :
    Canon (m.command r op row lay f) := by
  unfold Module.command
  repeat' first
    | with_reducible assumption
    | with_reducible apply hf
    | refine canon_takeCmd_eq ?_ (by with_reducible assumption)
    | with_reducible apply canon_replyFinal
    | with_reducible apply canon_ite
    | lift_lets
    | split

theorem canon_setOwner {m : Module} {u : Nat} {o : Option Bool} (hm : Canon m) :
    Canon (m.setOwner u o) := by
  unfold Module.setOwner
  repeat' first
    | with_reducible assumption
    | with_reducible apply canon_event
    | with_reducible apply canon_ite
    | simp only [canon_lit, canon1_mk_eq, canon_fst_eq]

theorem canon_claim {m : Module} {r : CmdReq} {us : List Nat} (hm : Canon m) :
    Canon (m.claim r us) := by
  unfold Module.claim
  repeat' first
    | with_reducible assumption
    | refine fun _ => ?_
    | with_reducible apply canon_setOwner
    | with_reducible apply canon_foldl
    | with_reducible apply canon_ite

theorem canon_deferCmd {m : Module} {r : CmdReq} {e : TEnt} {f : Module → Nat → Module} (hm : Canon m) (hf : ∀ x0 x1, Canon x0 → Canon (f x0 x1)) :
    Canon (m.deferCmd r e f) := by
  unfold Module.deferCmd
  repeat' first
    | with_reducible assumption
    | with_reducible apply hf
    | refine canon_openEntry ?_ (by with_reducible assumption)
    | with_reducible apply canon_replyFinal
    | with_reducible apply canon_count
    | with_reducible apply canon_replyDeferred
    | split

theorem canon_row_eventSend {slot : Nat} {m : Module} (hm : Canon m) :
    Canon (eventSend slot m) := by
  unfold eventSend
  repeat' first
    | with_reducible assumption
    | with_reducible apply canon_count
    | with_reducible apply canon_emit
    | with_reducible apply canon_originate
    | with_reducible apply canon_ite
    | simp only [canon_lit, canon1_mk_eq, canon_fst_eq]

theorem canon_freeBytes {m : Module} {n : Nat} (hm : Canon m) :
    Canon1 (m.freeBytes n) := by
  unfold Module.freeBytes
  simp only [canon_lit, canon1_mk_eq]
  exact hm

theorem canon_freeBytes_eq {m : Module} {n : Nat} {y : Module} {w : Bytes} (hm : Canon m)
    (e : m.freeBytes n = (y, w)) : Canon y :=
  Canon1.of_eq (canon_freeBytes hm) e

theorem canon_fragment {m : Module} {r : CmdReq} {kind k : Nat} (hm : Canon m) :
    Canon1 (m.fragment r kind k) := by
  unfold Module.fragment
  repeat' first
    | with_reducible assumption
    | with_reducible apply canon_ite_fst
    | simp only [canon_lit, canon1_mk_eq, canon_fst_eq]

theorem canon_fragment_eq {m : Module} {r : CmdReq} {kind k : Nat} {y : Module} {w : Frag} (hm : Canon m)
    (e : m.fragment r kind k = (y, w)) : Canon y :=
  Canon1.of_eq (canon_fragment hm) e

theorem canon_change {m : Module} {r : CmdReq} {us : List Nat} {f : Module → Module × Nat × Bytes} (hm : Canon m) (hf : ∀ x0, Canon x0 → Canon1 (f x0)) :
    Canon (m.change r us f) := by
  unfold Module.change
  repeat' first
    | with_reducible assumption
    | with_reducible apply hf
    | with_reducible apply canon_replyFinal
    | with_reducible apply canon_claim
    | with_reducible apply canon_ite
    | simp only [canon_lit, canon1_mk_eq, canon_fst_eq]

theorem canon_markBank {m : Module} {k st : Nat} {image : Bytes} (hm : Canon m) :
    Canon (m.markBank k st image) := by
  unfold Module.markBank
  simp only [canon_lit, canon1_mk_eq]
  exact hm

theorem canon_vane {m : Module} {v : Vane} (hm : Canon m) : Canon { m with vane := v } := hm

theorem canon_row_assemblyTimeout {i : Nat} {m : Module} (hm : Canon m) :
    Canon (assemblyTimeout i m) := by
  unfold assemblyTimeout
  split
  · exact hm
  · exact canon_ite (canon_markBank (canon_vane (canon_pass hm))) (canon_vane (canon_pass hm))

theorem canon_row_reassemblyTimeout {i : Nat} {m : Module} (hm : Canon m) :
    Canon (reassemblyTimeout i m) := by
  unfold reassemblyTimeout
  split
  · exact hm
  · exact canon_refuseCmd (canon_vane (canon_pass hm))

theorem canon_replyLost {m : Module} {r : CmdReq} (hm : Canon m) :
    Canon (m.replyLost r) := by
  unfold Module.replyLost
  repeat' first
    | with_reducible assumption
    | refine fun _ => ?_
    | with_reducible apply canon_sendReply
    | with_reducible apply canon_foldl

theorem canon_row_cmdArrival {p : Pkt} {m : Module} (hm : Canon m) :
    Canon (cmdArrival p m) := by
  unfold cmdArrival
  repeat' first
    | with_reducible assumption
    | with_reducible apply canon_taken
    | with_reducible apply canon_refuseCmd
    | with_reducible apply canon_arrive
    | with_reducible apply canon_replyLost
    | with_reducible apply canon_ite

theorem canon_datagram {m : Module} {addr : Bytes} {udp : Nat} {l : Bytes} (hm : Canon m) :
    Canon (m.datagram addr udp l) := by
  unfold Module.datagram
  repeat' first
    | with_reducible assumption
    | with_reducible apply canon_refuseCmd
    | with_reducible apply canon_arrive
    | with_reducible apply canon_ite

theorem canon_row_sidebandDatagram {f : SbFrag} {m : Module} (hm : Canon m) :
    Canon (sidebandDatagram f m) := by
  unfold sidebandDatagram
  repeat' first
    | with_reducible assumption
    | with_reducible apply canon_refuseCmd
    | with_reducible apply canon_datagram
    | with_reducible apply canon_ite
    | simp only [canon_lit, canon1_mk_eq, canon_fst_eq]

end Sys2Proof.Machine
end

