-- ==== Sys2Proof/Laws/CanonCmdNet.lean ====
section
/-!
SUPPORT. The operations of Machine/CmdNet.lean keep the canonical form of the module's tables (Safety.lean): one lemma for
each, which proofs about the rows cite.
-/
set_option linter.unusedSimpArgs false
set_option linter.unusedTactic false
set_option linter.unreachableTactic false
namespace Sys2Proof.Machine

theorem canon_row_portStatus {r : CmdReq} {m : Module} (hm : Canon m) :
    Canon (portStatus r m) := by
  unfold portStatus
  repeat' first
    | with_reducible assumption
    | refine fun _ => ?_
    | with_reducible apply canon_command
    | with_reducible apply canon_replyFinal
    | with_reducible apply canon_ite

theorem canon_firmwareDigest {m : Module} (hm : Canon m) :
    Canon1 (m.firmwareDigest) := by
  unfold Module.firmwareDigest
  repeat' first
    | with_reducible assumption
    | with_reducible apply canon_freeBytes
    | with_reducible apply canon_ite_fst
    | simp only [canon_lit, canon1_mk_eq, canon_fst_eq]

theorem canon_firmwareDigest_eq {m : Module} {y : Module} {w : Bytes} (hm : Canon m)
    (e : m.firmwareDigest = (y, w)) : Canon y :=
  Canon1.of_eq (canon_firmwareDigest hm) e

theorem canon_row_identify {r : CmdReq} {m : Module} (hm : Canon m) :
    Canon (identify r m) := by
  unfold identify
  repeat' first
    | with_reducible assumption
    | refine fun _ => ?_
    | with_reducible apply canon_command
    | with_reducible apply canon_firmwareDigest
    | with_reducible apply canon_replyFinal
    | simp only [canon_lit, canon1_mk_eq, canon_fst_eq]

theorem canon_setRegs {m : Module} {r : CmdReq} {us : List Nat} {l : List RegW} (hm : Canon m) :
    Canon (m.setRegs r us l) := by
  unfold Module.setRegs
  repeat' first
    | with_reducible assumption
    | refine fun _ => ?_
    | with_reducible apply canon_change
    | with_reducible apply canon_writeRegs
    | simp only [canon_lit, canon1_mk_eq, canon_fst_eq]

theorem canon_row_policerConfig {r : CmdReq} {m : Module} (hm : Canon m) :
    Canon (policerConfig r m) := by
  unfold policerConfig
  repeat' first
    | with_reducible assumption
    | refine fun _ => ?_
    | with_reducible apply canon_command
    | with_reducible apply canon_setRegs

theorem canon_resizeRing {m : Module} {d n : Nat} (hm : Canon m) :
    Canon (m.resizeRing d n) := by
  unfold Module.resizeRing
  repeat' first
    | with_reducible assumption
    | with_reducible apply canon_dropRing
    | with_reducible apply canon_setDie
    | with_reducible apply canon_packRings
    | with_reducible apply canon_ite
    | simp only [canon_lit, canon1_mk_eq, canon_fst_eq]
    | split

theorem canon_setWindsock {m : Module} {r : CmdReq} {d n : Nat} (hm : Canon m) :
    Canon1 (m.setWindsock r d n) := by
  unfold Module.setWindsock
  repeat' first
    | with_reducible assumption
    | with_reducible apply canon_writeRegs
    | with_reducible apply canon_resizeRing
    | with_reducible apply canon_ite_fst
    | simp only [canon_lit, canon1_mk_eq, canon_fst_eq]

theorem canon_setWindsock_eq {m : Module} {r : CmdReq} {d n : Nat} {y : Module} {w : Nat × Bytes} (hm : Canon m)
    (e : m.setWindsock r d n = (y, w)) : Canon y :=
  Canon1.of_eq (canon_setWindsock hm) e

theorem canon_row_calmWrite {r : CmdReq} {m : Module} (hm : Canon m) :
    Canon (calmWrite r m) := by
  unfold calmWrite
  repeat' first
    | with_reducible assumption
    | refine fun _ => ?_
    | with_reducible apply canon_command
    | with_reducible apply canon_setRegs

theorem canon_row_routeRead {r : CmdReq} {m : Module} (hm : Canon m) :
    Canon (routeRead r m) := by
  unfold routeRead
  repeat' first
    | with_reducible assumption
    | refine fun _ => ?_
    | with_reducible apply canon_command
    | with_reducible apply canon_replyFinal
    | with_reducible apply canon_ite

theorem canon_row_pinWrite {r : CmdReq} {m : Module} (hm : Canon m) :
    Canon (pinWrite r m) := by
  unfold pinWrite
  repeat' first
    | with_reducible assumption
    | refine fun _ => ?_
    | with_reducible apply canon_command
    | with_reducible apply canon_replyFinal
    | with_reducible apply canon_change
    | with_reducible apply canon_ite
    | simp only [canon_lit, canon1_mk_eq, canon_fst_eq]
    | split

theorem canon_row_keepWrite {r : CmdReq} {m : Module} (hm : Canon m) :
    Canon (keepWrite r m) := by
  unfold keepWrite
  repeat' first
    | with_reducible assumption
    | refine fun _ => ?_
    | with_reducible apply canon_command
    | with_reducible apply canon_replyFinal
    | with_reducible apply canon_change
    | with_reducible apply canon_keepWrite
    | with_reducible apply canon_ite
    | simp only [canon_lit, canon1_mk_eq, canon_fst_eq]
    | split

theorem canon_row_routeWrite {r : CmdReq} {m : Module} (hm : Canon m) :
    Canon (routeWrite r m) := by
  unfold routeWrite
  repeat' first
    | with_reducible assumption
    | refine fun _ => ?_
    | with_reducible apply canon_command
    | with_reducible apply canon_replyFinal
    | with_reducible apply canon_change
    | with_reducible apply canon_rehold
    | with_reducible apply canon_ite
    | simp only [canon_lit, canon1_mk_eq, canon_fst_eq]

theorem canon_row_groupMembers {r : CmdReq} {m : Module} (hm : Canon m) :
    Canon (groupMembers r m) := by
  unfold groupMembers
  repeat' first
    | with_reducible assumption
    | refine fun _ => ?_
    | with_reducible apply canon_command
    | with_reducible apply canon_replyFinal
    | with_reducible apply canon_change
    | with_reducible apply canon_setGrp
    | with_reducible apply canon_ite
    | with_reducible apply canon_ite_fst
    | simp only [canon_lit, canon1_mk_eq, canon_fst_eq]

theorem canon_row_groupDelete {r : CmdReq} {m : Module} (hm : Canon m) :
    Canon (groupDelete r m) := by
  unfold groupDelete
  repeat' first
    | with_reducible assumption
    | refine fun _ => ?_
    | with_reducible apply canon_command
    | with_reducible apply canon_replyFinal
    | with_reducible apply canon_setOwner
    | with_reducible apply canon_setGrp
    | with_reducible apply canon_ite

theorem canon_row_portConfig {r : CmdReq} {m : Module} (hm : Canon m) :
    Canon (portConfig r m) := by
  unfold portConfig
  repeat' first
    | with_reducible assumption
    | refine fun _ => ?_
    | with_reducible apply canon_command
    | with_reducible apply canon_setRegs

theorem canon_row_partitionConfig {r : CmdReq} {m : Module} (hm : Canon m) :
    Canon (partitionConfig r m) := by
  unfold partitionConfig
  repeat' first
    | with_reducible assumption
    | refine fun _ => ?_
    | with_reducible apply canon_command
    | with_reducible apply canon_setRegs

theorem canon_row_shaperConfig {r : CmdReq} {m : Module} (hm : Canon m) :
    Canon (shaperConfig r m) := by
  unfold shaperConfig
  repeat' first
    | with_reducible assumption
    | refine fun _ => ?_
    | with_reducible apply canon_command
    | with_reducible apply canon_setRegs

theorem canon_recheck {m : Module} {p : Nat} (hm : Canon m) :
    Canon (m.recheck p) := by
  unfold Module.recheck
  repeat' first
    | with_reducible assumption
    | with_reducible apply canon_enterLink
    | with_reducible apply canon_check
    | with_reducible apply canon_setLink
    | with_reducible apply canon_ite

theorem canon_row_cablingLoad {r : CmdReq} {m : Module} (hm : Canon m) :
    Canon (cablingLoad r m) := by
  unfold cablingLoad
  repeat' first
    | with_reducible assumption
    | refine fun _ => ?_
    | with_reducible apply canon_command
    | with_reducible apply canon_replyFinal
    | with_reducible apply canon_change
    | with_reducible apply canon_recheck
    | with_reducible apply canon_keepWrite
    | with_reducible apply canon_foldl
    | with_reducible apply canon_ite
    | simp only [canon_lit, canon1_mk_eq, canon_fst_eq]
    | split

theorem canon_row_keepRead {r : CmdReq} {m : Module} (hm : Canon m) :
    Canon (keepRead r m) := by
  unfold keepRead
  repeat' first
    | with_reducible assumption
    | refine fun _ => ?_
    | with_reducible apply canon_command
    | with_reducible apply canon_replyFinal
    | with_reducible apply canon_ite

theorem canon_row_pinRemove {r : CmdReq} {m : Module} (hm : Canon m) :
    Canon (pinRemove r m) := by
  unfold pinRemove
  repeat' first
    | with_reducible assumption
    | refine fun _ => ?_
    | with_reducible apply canon_command
    | with_reducible apply canon_replyFinal
    | with_reducible apply canon_change
    | with_reducible apply canon_ite
    | simp only [canon_lit, canon1_mk_eq, canon_fst_eq]

theorem canon_row_windsockConfig {r : CmdReq} {m : Module} (hm : Canon m) :
    Canon (windsockConfig r m) := by
  unfold windsockConfig
  repeat' first
    | with_reducible assumption
    | refine fun _ => ?_
    | with_reducible apply canon_command
    | with_reducible apply canon_replyFinal
    | with_reducible apply canon_change
    | with_reducible apply canon_setWindsock
    | with_reducible apply canon_ite

theorem canon_row_mcastConfig {r : CmdReq} {m : Module} (hm : Canon m) :
    Canon (mcastConfig r m) := by
  unfold mcastConfig
  repeat' first
    | with_reducible assumption
    | refine fun _ => ?_
    | with_reducible apply canon_command
    | with_reducible apply canon_replyFinal
    | with_reducible apply canon_change
    | with_reducible apply canon_ite
    | simp only [canon_lit, canon1_mk_eq, canon_fst_eq]

theorem canon_row_groupPlan {r : CmdReq} {m : Module} (hm : Canon m) :
    Canon (groupPlan r m) := by
  unfold groupPlan
  repeat' first
    | with_reducible assumption
    | refine fun _ => ?_
    | with_reducible apply canon_command
    | with_reducible apply canon_replyFinal
    | with_reducible apply canon_change
    | with_reducible apply canon_setGrp
    | with_reducible apply canon_ite
    | with_reducible apply canon_ite_fst
    | simp only [canon_lit, canon1_mk_eq, canon_fst_eq]

theorem canon_row_eddySetWrite {r : CmdReq} {m : Module} (hm : Canon m) :
    Canon (eddySetWrite r m) := by
  unfold eddySetWrite
  repeat' first
    | with_reducible assumption
    | refine fun _ => ?_
    | with_reducible apply canon_command
    | with_reducible apply canon_replyFinal
    | with_reducible apply canon_change
    | with_reducible apply canon_ite
    | simp only [canon_lit, canon1_mk_eq, canon_fst_eq]

theorem canon_row_vcConfig {r : CmdReq} {m : Module} (hm : Canon m) :
    Canon (vcConfig r m) := by
  unfold vcConfig
  repeat' first
    | with_reducible assumption
    | refine fun _ => ?_
    | with_reducible apply canon_command
    | with_reducible apply canon_replyFinal
    | with_reducible apply canon_setRegs
    | with_reducible apply canon_ite

theorem canon_row_redProfile {r : CmdReq} {m : Module} (hm : Canon m) :
    Canon (redProfile r m) := by
  unfold redProfile
  repeat' first
    | with_reducible assumption
    | refine fun _ => ?_
    | with_reducible apply canon_command
    | with_reducible apply canon_replyFinal
    | with_reducible apply canon_setRegs
    | with_reducible apply canon_ite

theorem canon_row_groupCreate {r : CmdReq} {m : Module} (hm : Canon m) :
    Canon (groupCreate r m) := by
  unfold groupCreate
  repeat' first
    | with_reducible assumption
    | refine fun _ => ?_
    | with_reducible apply canon_command
    | with_reducible apply canon_replyFinal
    | with_reducible apply canon_claim
    | with_reducible apply canon_setGrp
    | with_reducible apply canon_ite

end Sys2Proof.Machine
end

