-- ==== Sys2Proof/Laws/CanonCmdStore.lean ====
section
/-!
SUPPORT. The operations of Machine/CmdStore.lean keep the canonical form of the module's tables (Safety.lean): one lemma for
each, which proofs about the rows cite.
-/
set_option linter.unusedSimpArgs false
set_option linter.unusedTactic false
set_option linter.unreachableTactic false
namespace Sys2Proof.Machine

theorem canon_onObj {m : Module} {r : CmdReq} {f : Module → Nat → Module} (hm : Canon m) (hf : ∀ x0 x1, Canon x0 → Canon (f x0 x1)) :
    Canon (m.onObj r f) := by
  unfold Module.onObj
  repeat' first
    | with_reducible assumption
    | with_reducible apply hf
    | with_reducible apply canon_replyFinal
    | with_reducible apply canon_ite
    | split

theorem canon_endObj {a0 : Module} {a1 : CmdReq} {a2 : Nat} {a3 : Module × Nat} {a4 : Bytes} (h0 : Canon a0) (h3 : Canon a3.1) : Canon (@Module.endObj a0 a1 a2 a3 a4) := by
  unfold Module.endObj
  split
  · exact canon_replyFinal (canon_claim h3)
  · exact canon_replyFinal h0

theorem canon_row_storeResize {r : CmdReq} {m : Module} (hm : Canon m) :
    Canon (storeResize r m) := by
  unfold storeResize
  repeat' first
    | with_reducible assumption
    | refine fun _ => ?_
    | with_reducible apply canon_command
    | with_reducible apply canon_onObj
    | with_reducible apply canon_replyFinal
    | with_reducible apply canon_endObj
    | with_reducible apply canon_storeResize
    | with_reducible apply canon_ite
    | simp only [canon_lit, canon1_mk_eq, canon_fst_eq]

theorem canon_migrate {m : Module} {r : CmdReq} {i : Nat} {o : Obj} {todo : List (Nat × Nat × Nat)} {rate : Nat} {place : Option (Nat × Nat × Nat)} (hm : Canon m) :
    Canon (m.migrate r i o todo rate place) := by
  unfold Module.migrate
  repeat' first
    | with_reducible assumption
    | refine fun _ => ?_
    | with_reducible apply canon_replyFinal
    | with_reducible apply canon_deferCmd
    | with_reducible apply canon_advanceJob
    | with_reducible apply canon_claim
    | with_reducible apply canon_setObj
    | with_reducible apply canon_ite

theorem canon_row_storeMigrate {r : CmdReq} {m : Module} (hm : Canon m) :
    Canon (storeMigrate r m) := by
  unfold storeMigrate
  repeat' first
    | with_reducible assumption
    | refine fun _ => ?_
    | with_reducible apply canon_command
    | with_reducible apply canon_onObj
    | with_reducible apply canon_replyFinal
    | with_reducible apply canon_migrate
    | with_reducible apply canon_ite

theorem canon_row_storePlace {r : CmdReq} {m : Module} (hm : Canon m) :
    Canon (storePlace r m) := by
  unfold storePlace
  repeat' first
    | with_reducible assumption
    | refine fun _ => ?_
    | with_reducible apply canon_command
    | with_reducible apply canon_onObj
    | with_reducible apply canon_replyFinal
    | with_reducible apply canon_endObj
    | with_reducible apply canon_setObj
    | with_reducible apply canon_migrate
    | with_reducible apply canon_ite

theorem canon_row_storeCreate {r : CmdReq} {m : Module} (hm : Canon m) :
    Canon (storeCreate r m) := by
  unfold storeCreate
  repeat' first
    | with_reducible assumption
    | refine fun _ => ?_
    | with_reducible apply canon_command
    | with_reducible apply canon_replyFinal
    | refine canon_storeCreate_eq ?_ (by with_reducible assumption)
    | with_reducible apply canon_claim
    | with_reducible apply canon_ite
    | lift_lets
    | split

theorem canon_row_kernelRun {r : CmdReq} {m : Module} (hm : Canon m) :
    Canon (kernelRun r m) := by
  unfold kernelRun
  repeat' first
    | with_reducible assumption
    | refine fun _ => ?_
    | with_reducible apply canon_command
    | with_reducible apply canon_replyFinal
    | refine canon_submit_eq ?_ (by with_reducible assumption)
    | with_reducible apply canon_replyDeferred
    | with_reducible apply canon_ite
    | lift_lets
    | split

theorem canon_row_storeDelete {r : CmdReq} {m : Module} (hm : Canon m) :
    Canon (storeDelete r m) := by
  unfold storeDelete
  repeat' first
    | with_reducible assumption
    | refine fun _ => ?_
    | with_reducible apply canon_command
    | with_reducible apply canon_onObj
    | with_reducible apply canon_replyFinal
    | with_reducible apply canon_setOwner
    | with_reducible apply canon_storeDelete
    | with_reducible apply canon_ite

theorem canon_row_programLoad {r : CmdReq} {m : Module} (hm : Canon m) :
    Canon (programLoad r m) := by
  unfold programLoad
  repeat' first
    | with_reducible assumption
    | refine fun _ => ?_
    | with_reducible apply canon_command
    | with_reducible apply canon_replyFinal
    | refine canon_fragment_eq ?_ (by with_reducible assumption)
    | with_reducible apply canon_installProgram
    | with_reducible apply canon_claim
    | with_reducible apply canon_ite
    | simp only [canon_lit, canon1_mk_eq, canon_fst_eq]
    | split

theorem canon_row_tileRetire {r : CmdReq} {m : Module} (hm : Canon m) :
    Canon (tileRetire r m) := by
  unfold tileRetire
  repeat' first
    | with_reducible assumption
    | refine fun _ => ?_
    | with_reducible apply canon_command
    | with_reducible apply canon_onObj
    | with_reducible apply canon_replyFinal
    | with_reducible apply canon_endObj
    | with_reducible apply canon_retire
    | with_reducible apply canon_ite
    | simp only [canon_lit, canon1_mk_eq, canon_fst_eq]

theorem canon_row_storeSeal {r : CmdReq} {m : Module} (hm : Canon m) :
    Canon (storeSeal r m) := by
  unfold storeSeal
  repeat' first
    | with_reducible assumption
    | refine fun _ => ?_
    | with_reducible apply canon_command
    | with_reducible apply canon_onObj
    | with_reducible apply canon_replyFinal
    | with_reducible apply canon_deferCmd
    | with_reducible apply canon_claim
    | with_reducible apply canon_setObj
    | with_reducible apply canon_ite

theorem canon_row_programUnload {r : CmdReq} {m : Module} (hm : Canon m) :
    Canon (programUnload r m) := by
  unfold programUnload
  repeat' first
    | with_reducible assumption
    | refine fun _ => ?_
    | with_reducible apply canon_command
    | with_reducible apply canon_replyFinal
    | with_reducible apply canon_unloadProgram
    | with_reducible apply canon_setOwner
    | with_reducible apply canon_ite
    | simp only [canon_lit, canon1_mk_eq, canon_fst_eq]
    | split

theorem canon_row_storeDigest {r : CmdReq} {m : Module} (hm : Canon m) :
    Canon (storeDigest r m) := by
  unfold storeDigest
  repeat' first
    | with_reducible assumption
    | refine fun _ => ?_
    | with_reducible apply canon_command
    | with_reducible apply canon_replyFinal
    | with_reducible apply canon_deferCmd
    | with_reducible apply canon_setObj
    | with_reducible apply canon_ite
    | simp only [canon_lit, canon1_mk_eq, canon_fst_eq]
    | split

theorem canon_row_storeCommit {r : CmdReq} {m : Module} (hm : Canon m) :
    Canon (storeCommit r m) := by
  unfold storeCommit
  repeat' first
    | with_reducible assumption
    | refine fun _ => ?_
    | with_reducible apply canon_command
    | with_reducible apply canon_onObj
    | with_reducible apply canon_replyFinal
    | with_reducible apply canon_endObj
    | with_reducible apply canon_setObj
    | with_reducible apply canon_ite

theorem canon_reserveBytes {m : Module} {off n : Nat} (hm : Canon m) :
    Canon1 (m.reserveBytes off n) := by
  unfold Module.reserveBytes
  repeat' first
    | with_reducible assumption
    | with_reducible apply canon_freeBytes
    | with_reducible apply canon_ite_fst
    | simp only [canon_lit, canon1_mk_eq, canon_fst_eq]

theorem canon_reserveBytes_eq {m : Module} {off n : Nat} {y : Module} {w : Bytes} (hm : Canon m)
    (e : m.reserveBytes off n = (y, w)) : Canon y :=
  Canon1.of_eq (canon_reserveBytes hm) e

theorem canon_row_readReq {p : Pkt} {c : EccIn} {m : Module} (hm : Canon m) :
    Canon (readReq p c m) := by
  unfold readReq
  repeat' first
    | with_reducible assumption
    | refine fun _ => ?_
    | (intro mm; first | (have hmm : Canon mm := ?_; on_goal 1 => clear_value mm) | clear_value mm)
    | unfold mm
    | lift_lets
    | with_reducible apply canon_ite
    | split
    | with_reducible apply canon_perform
    | with_reducible apply canon_strike
    | with_reducible apply canon_answer
    | with_reducible apply canon_checkRes
    | with_reducible apply canon_countRead
    | refine canon_reserveBytes_eq ?_ (by with_reducible assumption)
    | with_reducible apply canon_check1
    | with_reducible apply canon_warm

theorem canon_row_storeUnseal {r : CmdReq} {m : Module} (hm : Canon m) :
    Canon (storeUnseal r m) := by
  unfold storeUnseal
  repeat' first
    | with_reducible assumption
    | refine fun _ => ?_
    | with_reducible apply canon_command
    | with_reducible apply canon_onObj
    | with_reducible apply canon_replyFinal
    | with_reducible apply canon_endObj
    | with_reducible apply canon_setObj
    | with_reducible apply canon_ite

end Sys2Proof.Machine
end

