-- ==== Sys2Proof/Laws/CanonCmdSys.lean ====
section
/-!
SUPPORT. The operations of Machine/CmdSys.lean keep the canonical form of the module's tables (Safety.lean): one lemma for
each, which proofs about the rows cite.
-/
set_option linter.unusedSimpArgs false
set_option linter.unusedTactic false
set_option linter.unreachableTactic false
namespace Sys2Proof.Machine

theorem canon_leaveNow {m : Module} (hm : Canon m) :
    Canon (m.leaveNow) := by
  unfold Module.leaveNow
  repeat' first
    | with_reducible assumption
    | refine fun _ => ?_
    | refine canon_launch ?_ ‹_›
    | with_reducible apply canon_sendNumbered
    | with_reducible apply canon_fillWords
    | with_reducible apply canon_sendPkt
    | with_reducible apply canon_foldl
    | with_reducible apply canon_ite
    | simp only [canon_lit, canon1_mk_eq, canon_fst_eq]
    | split

theorem canon_replyFirst {m : Module} {r : CmdReq} (hm : Canon m) :
    Canon (m.replyFirst r) := by
  unfold Module.replyFirst
  repeat' first
    | with_reducible assumption
    | refine fun _ => ?_
    | with_reducible apply canon_replyFinal
    | with_reducible apply canon_leaveNow
    | with_reducible apply canon_foldl
    | with_reducible apply canon_ite
    | simp only [canon_lit, canon1_mk_eq, canon_fst_eq]
    | lift_lets
    | split

theorem canon_flushSlot {m : Module} {slot n : Nat} (hm : Canon m) :
    Canon (m.flushSlot slot n) := by
  induction n generalizing m with
  | zero => exact hm
  | succ n ih => exact ih (canon_ite (canon_leaveNow (canon_row_eventSend hm)) (canon_row_eventSend hm))

theorem canon_closeForReset {m : Module} (hm : Canon m) :
    Canon (m.closeForReset) := by
  unfold Module.closeForReset
  repeat' first
    | with_reducible assumption
    | refine fun _ => ?_
    | with_reducible apply canon_closeRecord
    | with_reducible apply canon_flushSlot
    | with_reducible apply canon_foldl
    | with_reducible apply canon_ite
    | simp only [canon_lit, canon1_mk_eq, canon_fst_eq]
    | lift_lets
    | split

theorem canon_row_eventSubscribe {r : CmdReq} {m : Module} (hm : Canon m) :
    Canon (eventSubscribe r m) := by
  unfold eventSubscribe
  repeat' first
    | with_reducible assumption
    | refine fun _ => ?_
    | with_reducible apply canon_command
    | with_reducible apply canon_replyFinal
    | with_reducible apply canon_ite
    | simp only [canon_lit, canon1_mk_eq, canon_fst_eq]

theorem canon_row_resetPort {r : CmdReq} {m : Module} (hm : Canon m) :
    Canon (resetPort r m) := by
  unfold resetPort
  repeat' first
    | with_reducible assumption
    | refine fun _ => ?_
    | with_reducible apply canon_command
    | with_reducible apply canon_portReset
    | with_reducible apply canon_replyFinal
    | with_reducible apply canon_replyFirst

theorem canon_abortLate {m : Module} {r : CmdReq} {data : Bytes} {h : Nat} (hm : Canon m) :
    Canon (m.abortLate r data h) := by
  unfold Module.abortLate
  exact canon_replyFinal (canon_count hm)

theorem canon_row_opAbort {r : CmdReq} {m : Module} (hm : Canon m) :
    Canon (opAbort r m) := by
  unfold opAbort
  repeat' first
    | with_reducible assumption
    | refine fun _ => ?_
    | with_reducible apply canon_command
    | with_reducible apply canon_replyFinal
    | with_reducible apply canon_abortLate
    | with_reducible apply canon_replyDeferred
    | with_reducible apply canon_updEntry
    | with_reducible apply canon_recordAbort
    | with_reducible apply canon_ite
    | simp only [canon_lit, canon1_mk_eq, canon_fst_eq]
    | split

theorem canon_row_timeStatus {r : CmdReq} {m : Module} (hm : Canon m) :
    Canon (timeStatus r m) := by
  unfold timeStatus
  repeat' first
    | with_reducible assumption
    | refine fun _ => ?_
    | with_reducible apply canon_command
    | with_reducible apply canon_replyFinal

theorem canon_row_ownershipGrant {r : CmdReq} {m : Module} (hm : Canon m) :
    Canon (ownershipGrant r m) := by
  unfold ownershipGrant
  repeat' first
    | with_reducible assumption
    | refine fun _ => ?_
    | with_reducible apply canon_command
    | with_reducible apply canon_replyFinal
    | with_reducible apply canon_ite
    | simp only [canon_lit, canon1_mk_eq, canon_fst_eq]

theorem canon_row_ownershipTake {r : CmdReq} {m : Module} (hm : Canon m) :
    Canon (ownershipTake r m) := by
  unfold ownershipTake
  repeat' first
    | with_reducible assumption
    | refine fun _ => ?_
    | with_reducible apply canon_command
    | with_reducible apply canon_replyFinal
    | with_reducible apply canon_setOwner
    | with_reducible apply canon_ite

theorem canon_freeRegs {m : Module} {r : CmdReq} {l : List RegW} {data : Module → Bytes} (hm : Canon m) :
    Canon (m.freeRegs r l data) := by
  unfold Module.freeRegs
  repeat' first
    | with_reducible assumption
    | with_reducible apply canon_writeRegs
    | with_reducible apply canon_replyFinal
    | with_reducible apply canon_ite
    | simp only [canon_lit, canon1_mk_eq, canon_fst_eq]

theorem canon_row_severitySet {r : CmdReq} {m : Module} (hm : Canon m) :
    Canon (severitySet r m) := by
  unfold severitySet
  repeat' first
    | with_reducible assumption
    | refine fun _ => ?_
    | with_reducible apply canon_command
    | with_reducible apply canon_replyFinal
    | with_reducible apply canon_freeRegs
    | with_reducible apply canon_ite

theorem canon_row_attest {r : CmdReq} {m : Module} (hm : Canon m) :
    Canon (attest r m) := by
  unfold attest
  repeat' first
    | with_reducible assumption
    | refine fun _ => ?_
    | with_reducible apply canon_command
    | with_reducible apply canon_replyFinal
    | with_reducible apply canon_deferCmd
    | with_reducible apply canon_ite

theorem canon_row_faultInject {r : CmdReq} {m : Module} (hm : Canon m) :
    Canon (faultInject r m) := by
  unfold faultInject
  repeat' first
    | with_reducible assumption
    | refine fun _ => ?_
    | with_reducible apply canon_command
    | with_reducible apply canon_replyFinal
    | with_reducible apply canon_raise
    | with_reducible apply canon_foldl
    | with_reducible apply canon_ite

theorem canon_row_faultHistory {r : CmdReq} {m : Module} (hm : Canon m) :
    Canon (faultHistory r m) := by
  unfold faultHistory
  repeat' first
    | with_reducible assumption
    | refine fun _ => ?_
    | with_reducible apply canon_command
    | with_reducible apply canon_replyFinal

theorem canon_row_regRead {r : CmdReq} {m : Module} (hm : Canon m) :
    Canon (regRead r m) := by
  unfold regRead
  repeat' first
    | with_reducible assumption
    | refine fun _ => ?_
    | with_reducible apply canon_command
    | with_reducible apply canon_replyFinal
    | with_reducible apply canon_ite

theorem canon_row_powerCap {r : CmdReq} {m : Module} (hm : Canon m) :
    Canon (powerCap r m) := by
  unfold powerCap
  repeat' first
    | with_reducible assumption
    | refine fun _ => ?_
    | with_reducible apply canon_command
    | with_reducible apply canon_replyFinal
    | with_reducible apply canon_freeRegs
    | with_reducible apply canon_ite

theorem canon_row_countersRead {r : CmdReq} {m : Module} (hm : Canon m) :
    Canon (countersRead r m) := by
  unfold countersRead
  repeat' first
    | with_reducible assumption
    | refine fun _ => ?_
    | with_reducible apply canon_command
    | with_reducible apply canon_replyFinal
    | with_reducible apply canon_ite

theorem canon_row_paceConfig {r : CmdReq} {m : Module} (hm : Canon m) :
    Canon (paceConfig r m) := by
  unfold paceConfig
  repeat' first
    | with_reducible assumption
    | refine fun _ => ?_
    | with_reducible apply canon_command
    | with_reducible apply canon_freeRegs

theorem canon_row_resetWarmStoreKept {r : CmdReq} {i : StartIn} {m : Module} (hm : Canon m) :
    Canon (resetWarmStoreKept r i m) := by
  unfold resetWarmStoreKept
  repeat' first
    | with_reducible assumption
    | refine fun _ => ?_
    | with_reducible apply canon_command
    | with_reducible apply canon_warmReset
    | with_reducible apply canon_replyFinal
    | with_reducible apply canon_replyFirst
    | with_reducible apply canon_closeForReset

theorem canon_row_resetCold {r : CmdReq} {i : StartIn} {m : Module} (hm : Canon m) :
    Canon (resetCold r i m) := by
  unfold resetCold
  repeat' first
    | with_reducible assumption
    | refine fun _ => ?_
    | with_reducible apply canon_command
    | with_reducible apply canon_coldReset
    | with_reducible apply canon_replyFinal
    | with_reducible apply canon_replyFirst
    | with_reducible apply canon_closeForReset

theorem canon_workEnd {m : Module} {e : TEnt} (hm : Canon m) :
    Canon (m.workEnd e) := by
  unfold Module.workEnd
  repeat' first
    | with_reducible assumption
    | with_reducible apply canon_workOver
    | with_reducible apply canon_count
    | with_reducible apply canon_markBank
    | with_reducible apply canon_ite

theorem canon_row_faultClear {r : CmdReq} {m : Module} (hm : Canon m) :
    Canon (faultClear r m) := by
  unfold faultClear
  repeat' first
    | with_reducible assumption
    | refine fun _ => ?_
    | with_reducible apply canon_command
    | with_reducible apply canon_faultClear
    | with_reducible apply canon_replyFinal
    | simp only [canon_lit, canon1_mk_eq, canon_fst_eq]

theorem canon_row_opStatus {r : CmdReq} {m : Module} (hm : Canon m) :
    Canon (opStatus r m) := by
  unfold opStatus
  repeat' first
    | with_reducible assumption
    | refine fun _ => ?_
    | with_reducible apply canon_command
    | with_reducible apply canon_replyFinal
    | with_reducible apply canon_ite
    | lift_lets
    | split

theorem canon_row_eventList {r : CmdReq} {m : Module} (hm : Canon m) :
    Canon (eventList r m) := by
  unfold eventList
  repeat' first
    | with_reducible assumption
    | refine fun _ => ?_
    | with_reducible apply canon_command
    | with_reducible apply canon_replyFinal
    | with_reducible apply canon_ite

theorem canon_row_firmwareActivate {r : CmdReq} {i : StartIn} {m : Module} (hm : Canon m) :
    Canon (firmwareActivate r i m) := by
  unfold firmwareActivate
  repeat' first
    | with_reducible assumption
    | refine fun _ => ?_
    | with_reducible apply canon_command
    | with_reducible apply canon_replyFinal
    | with_reducible apply canon_count
    | with_reducible apply canon_warmReset
    | with_reducible apply canon_closeForReset
    | with_reducible apply canon_replyFirst
    | with_reducible apply canon_ite
    | simp only [canon_lit, canon1_mk_eq, canon_fst_eq]

theorem canon_row_entryFinish {idx : Nat} {m : Module} (hm : Canon m) :
    Canon (entryFinish idx m) := by
  unfold entryFinish
  repeat' first
    | with_reducible assumption
    | refine fun _ => ?_
    | with_reducible apply canon_workEnd
    | with_reducible apply canon_replyFinal
    | with_reducible apply canon_updEntry
    | with_reducible apply canon_closeEntry
    | with_reducible apply canon_replyLate
    | with_reducible apply canon_foldl
    | with_reducible apply canon_ite
    | lift_lets
    | split

theorem canon_row_eventUnsubscribe {r : CmdReq} {m : Module} (hm : Canon m) :
    Canon (eventUnsubscribe r m) := by
  unfold eventUnsubscribe
  repeat' first
    | with_reducible assumption
    | refine fun _ => ?_
    | with_reducible apply canon_command
    | with_reducible apply canon_replyFinal
    | with_reducible apply canon_ite
    | simp only [canon_lit, canon1_mk_eq, canon_fst_eq]

theorem canon_row_ownershipRevoke {r : CmdReq} {m : Module} (hm : Canon m) :
    Canon (ownershipRevoke r m) := by
  unfold ownershipRevoke
  repeat' first
    | with_reducible assumption
    | refine fun _ => ?_
    | with_reducible apply canon_command
    | with_reducible apply canon_replyFinal
    | with_reducible apply canon_ite
    | simp only [canon_lit, canon1_mk_eq, canon_fst_eq]

theorem canon_row_resetWarm {r : CmdReq} {i : StartIn} {m : Module} (hm : Canon m) :
    Canon (resetWarm r i m) := by
  unfold resetWarm
  repeat' first
    | with_reducible assumption
    | refine fun _ => ?_
    | with_reducible apply canon_command
    | with_reducible apply canon_replyFinal
    | with_reducible apply canon_warmReset
    | with_reducible apply canon_closeForReset
    | with_reducible apply canon_replyFirst
    | with_reducible apply canon_ite

theorem canon_row_regWrite {r : CmdReq} {m : Module} (hm : Canon m) :
    Canon (regWrite r m) := by
  unfold regWrite
  repeat' first
    | with_reducible assumption
    | refine fun _ => ?_
    | with_reducible apply canon_command
    | with_reducible apply canon_replyFinal
    | with_reducible apply canon_setRegs
    | with_reducible apply canon_ite
    | lift_lets
    | split

theorem canon_row_lullEnter {r : CmdReq} {m : Module} (hm : Canon m) :
    Canon (lullEnter r m) := by
  unfold lullEnter
  repeat' first
    | with_reducible assumption
    | refine fun _ => ?_
    | with_reducible apply canon_command
    | with_reducible apply canon_replyFinal
    | with_reducible apply canon_enterLull
    | with_reducible apply canon_freeRegs
    | with_reducible apply canon_ite

theorem canon_row_timeConfig {r : CmdReq} {m : Module} (hm : Canon m) :
    Canon (timeConfig r m) := by
  unfold timeConfig
  repeat' first
    | with_reducible assumption
    | refine fun _ => ?_
    | with_reducible apply canon_command
    | with_reducible apply canon_change
    | with_reducible apply canon_writeRegs
    | with_reducible apply canon_ite_fst
    | simp only [canon_lit, canon1_mk_eq, canon_fst_eq]

theorem canon_row_testModeEnter {r : CmdReq} {m : Module} (hm : Canon m) :
    Canon (testModeEnter r m) := by
  unfold testModeEnter
  repeat' first
    | with_reducible assumption
    | refine fun _ => ?_
    | with_reducible apply canon_command
    | with_reducible apply canon_replyFinal
    | refine canon_fragment_eq ?_ (by with_reducible assumption)
    | with_reducible apply canon_count
    | with_reducible apply canon_ite
    | simp only [canon_lit, canon1_mk_eq, canon_fst_eq]
    | split

theorem canon_row_lullIdleSet {r : CmdReq} {m : Module} (hm : Canon m) :
    Canon (lullIdleSet r m) := by
  unfold lullIdleSet
  repeat' first
    | with_reducible assumption
    | refine fun _ => ?_
    | with_reducible apply canon_command
    | with_reducible apply canon_freeRegs
    | with_reducible apply canon_replyFinal
    | with_reducible apply canon_ite

theorem canon_row_firmwareStage {r : CmdReq} {m : Module} (hm : Canon m) :
    Canon (firmwareStage r m) := by
  unfold firmwareStage
  repeat' first
    | with_reducible assumption
    | refine fun _ => ?_
    | with_reducible apply canon_command
    | with_reducible apply canon_replyFinal
    | refine canon_fragment_eq ?_ (by with_reducible assumption)
    | with_reducible apply canon_markBank
    | with_reducible apply canon_count
    | with_reducible apply canon_deferCmd
    | with_reducible apply canon_ite
    | lift_lets
    | split

theorem canon_row_faultStatus {r : CmdReq} {m : Module} (hm : Canon m) :
    Canon (faultStatus r m) := by
  unfold faultStatus
  repeat' first
    | with_reducible assumption
    | refine fun _ => ?_
    | with_reducible apply canon_command
    | with_reducible apply canon_replyFinal
    | with_reducible apply canon_ite

end Sys2Proof.Machine
end

