-- ==== Sys2Proof/Laws/CanonCollRows.lean ====
section
/-!
SUPPORT. The operations of Machine/CollRows.lean keep the canonical form of the module's tables (Safety.lean): one lemma for
each, which proofs about the rows cite.
-/
set_option linter.unusedSimpArgs false
set_option linter.unusedTactic false
set_option linter.unreachableTactic false
namespace Sys2Proof.Machine

theorem canon_pair {m : Module} {h p : Nat} {pk : Pkt} (hm : Canon m) :
    Canon1 (m.pair h p pk) := by
  unfold Module.pair
  repeat' first
    | with_reducible assumption
    | with_reducible apply canon_updPlane
    | with_reducible apply canon_ite_fst
    | simp only [canon_lit, canon1_mk_eq, canon_fst_eq]
    | split

theorem canon_touch {m : Module} {h p : Nat} {data : Bool} (hm : Canon m) :
    Canon (m.touch h p data) := by
  unfold Module.touch
  exact canon_updCtx hm

theorem canon_relayGather {m : Module} {h : Nat} {pk : Pkt} (hm : Canon m) :
    Canon (m.relayGather h pk) := by
  unfold Module.relayGather
  repeat' first
    | with_reducible assumption
    | refine fun _ => ?_
    | with_reducible apply canon_pair
    | with_reducible apply canon_touch
    | with_reducible apply canon_retain
    | with_reducible apply canon_ackTile
    | with_reducible apply canon_foldl
    | with_reducible apply canon_ite
    | simp only [canon_lit, canon1_mk_eq, canon_fst_eq]
    | lift_lets
    | split

theorem canon_giveUp {m : Module} {h p k reason : Nat} (hm : Canon m) :
    Canon (m.giveUp h p k reason) := by
  unfold Module.giveUp
  repeat' first
    | with_reducible assumption
    | refine fun _ => ?_
    | with_reducible apply canon_dropRet
    | with_reducible apply canon_updPlane
    | with_reducible apply canon_chunkLoss
    | with_reducible apply canon_foldl

theorem canon_staleIn {m : Module} {p : Pkt} (hm : Canon m) :
    Canon (m.staleIn p) := by
  unfold Module.staleIn
  repeat' first
    | with_reducible assumption
    | with_reducible apply canon_toChip
    | with_reducible apply canon_collCount
    | with_reducible apply canon_ite

theorem canon_emptyIn {m : Module} {p : Pkt} (hm : Canon m) :
    Canon (m.emptyIn p) := by
  unfold Module.emptyIn
  repeat' first
    | with_reducible assumption
    | with_reducible apply canon_planeNotice
    | with_reducible apply canon_collFailed
    | with_reducible apply canon_staleIn
    | with_reducible apply canon_ite

theorem canon_collIn {m : Module} {p : Pkt} {alloc : Bool} {f : Module → Module} (hm : Canon m) (hf : ∀ x0, Canon x0 → Canon (f x0)) :
    Canon (m.collIn p alloc f) := by
  unfold Module.collIn
  repeat' first
    | with_reducible assumption
    | with_reducible apply canon_noRecord
    | with_reducible apply canon_collCount
    | with_reducible apply canon_collEvent
    | with_reducible apply canon_staleIn
    | with_reducible apply canon_emptyIn
    | refine canon_allocCtx ?_ (by with_reducible assumption)
    | with_reducible apply canon_refuseCtx
    | with_reducible apply canon_ite
    | lift_lets
    | split

theorem canon_digestIn {m : Module} {h p : Nat} {dig : Bytes} {member : Nat} (hm : Canon m) :
    Canon (m.digestIn h p dig member) := by
  unfold Module.digestIn
  repeat' first
    | with_reducible assumption
    | with_reducible apply canon_updPlane
    | with_reducible apply canon_planeFail
    | with_reducible apply canon_ite
    | split

theorem canon_applySummary {m : Module} {h : Nat} {pk : Pkt} (hm : Canon m) :
    Canon (m.applySummary h pk) := by
  unfold Module.applySummary
  repeat' first
    | with_reducible assumption
    | with_reducible apply canon_touch
    | with_reducible apply canon_updPlane
    | with_reducible apply canon_planeFail
    | with_reducible apply canon_digestIn
    | with_reducible apply canon_ite
    | simp only [canon_lit, canon1_mk_eq, canon_fst_eq]
    | split

theorem canon_row_summary {p : Pkt} {m : Module} (hm : Canon m) :
    Canon (summary p m) := by
  unfold summary
  repeat' first
    | with_reducible assumption
    | refine fun _ => ?_
    | with_reducible apply canon_perform
    | with_reducible apply canon_collIn
    | with_reducible apply canon_advance
    | with_reducible apply canon_applySummary
    | with_reducible apply canon_ite

theorem canon_applyCarry {m : Module} {h : Nat} {pk : Pkt} (hm : Canon m) :
    Canon (m.applyCarry h pk) := by
  unfold Module.applyCarry
  repeat' first
    | with_reducible assumption
    | with_reducible apply canon_count
    | with_reducible apply canon_updPlane
    | with_reducible apply canon_touch
    | with_reducible apply canon_ite

theorem canon_keepEarly {m : Module} {h : Nat} {pk : Pkt} (hm : Canon m) :
    Canon (m.keepEarly h pk) := by
  unfold Module.keepEarly
  exact canon_updCtx hm

theorem canon_pair_eq {m : Module} {h p : Nat} {pk : Pkt} {y : Module} {w : Option (Bool × Option Nat × Bytes)} (hm : Canon m)
    (e : m.pair h p pk = (y, w)) : Canon y :=
  Canon1.of_eq (canon_pair hm) e

theorem canon_contribIn {m : Module} {h p mem t : Nat} {absent : Bool} {mask : Option Nat} {bytes : Bytes} {again : Bool} (hm : Canon m) :
    Canon (m.contribIn h p mem t absent mask bytes again) := by
  unfold Module.contribIn
  repeat' first
    | with_reducible assumption
    | with_reducible apply canon_count
    | with_reducible apply canon_openStep
    | with_reducible apply canon_collCount
    | with_reducible apply canon_countWrite
    | with_reducible apply canon_freshTile
    | with_reducible apply canon_updStep
    | with_reducible apply canon_addRaws
    | with_reducible apply canon_ite
    | lift_lets
    | split

theorem canon_gatherIn {m : Module} {h p r : Nat} {src : Option Nat} {absent : Bool} {mask : Option Nat} {bytes : Bytes} (hm : Canon m) :
    Canon (m.gatherIn h p r src absent mask bytes) := by
  unfold Module.gatherIn
  repeat' first
    | with_reducible assumption
    | with_reducible apply canon_updPlane
    | with_reducible apply canon_retain
    | with_reducible apply canon_ite

theorem canon_applyContrib {m : Module} {h : Nat} {pk : Pkt} {again : Bool} (hm : Canon m) :
    Canon (m.applyContrib h pk again) := by
  unfold Module.applyContrib
  repeat' first
    | with_reducible assumption
    | with_reducible apply canon_pair
    | with_reducible apply canon_touch
    | with_reducible apply canon_contribIn
    | with_reducible apply canon_gatherIn
    | with_reducible apply canon_ite
    | simp only [canon_lit, canon1_mk_eq, canon_fst_eq]
    | lift_lets
    | split

theorem canon_applyGather {m : Module} {h : Nat} {pk : Pkt} (hm : Canon m) :
    Canon (m.applyGather h pk) := by
  unfold Module.applyGather
  repeat' first
    | with_reducible assumption
    | with_reducible apply canon_pair
    | with_reducible apply canon_touch
    | with_reducible apply canon_ackTile
    | with_reducible apply canon_gatherIn
    | with_reducible apply canon_ite
    | simp only [canon_lit, canon1_mk_eq, canon_fst_eq]
    | split

theorem canon_applyPartial {m : Module} {h : Nat} {pk : Pkt} (hm : Canon m) :
    Canon (m.applyPartial h pk) := by
  unfold Module.applyPartial
  repeat' first
    | with_reducible assumption
    | with_reducible apply canon_openStep
    | with_reducible apply canon_touch
    | with_reducible apply canon_updStep
    | with_reducible apply canon_ite

theorem canon_applyAnchorUp {m : Module} {h : Nat} {pk : Pkt} (hm : Canon m) :
    Canon (m.applyAnchorUp h pk) := by
  unfold Module.applyAnchorUp
  repeat' first
    | with_reducible assumption
    | with_reducible apply canon_count
    | with_reducible apply canon_openStep
    | with_reducible apply canon_touch
    | with_reducible apply canon_updStep
    | with_reducible apply canon_ite
    | lift_lets
    | split

theorem canon_applySend {m : Module} {h : Nat} {pk : Pkt} (hm : Canon m) :
    Canon (m.applySend h pk) := by
  unfold Module.applySend
  repeat' first
    | with_reducible assumption
    | with_reducible apply canon_count
    | with_reducible apply canon_updPlane
    | with_reducible apply canon_touch
    | with_reducible apply canon_xchgRoute
    | with_reducible apply canon_xchgPlace
    | with_reducible apply canon_updCtx
    | with_reducible apply canon_ite
    | simp only [canon_lit, canon1_mk_eq, canon_fst_eq]
    | split

theorem canon_barMember {m : Module} {h : Nat} {l : Loc} (hm : Canon m) :
    Canon (m.barMember h l) := by
  unfold Module.barMember
  exact canon_updCtx (canon_completeTo (canon_collFailed hm))

theorem canon_applyDecl {m : Module} {h : Nat} {pk : Pkt} {row : Bool} (hm : Canon m) :
    Canon (m.applyDecl h pk row) := by
  unfold Module.applyDecl
  repeat' first
    | with_reducible assumption
    | with_reducible apply canon_touch
    | with_reducible apply canon_updCtx
    | with_reducible apply canon_barMember
    | with_reducible apply canon_xchgUnpark
    | with_reducible apply canon_ite
    | simp only [canon_lit, canon1_mk_eq, canon_fst_eq]
    | split

theorem canon_applyAnchorDown {m : Module} {h : Nat} {pk : Pkt} (hm : Canon m) :
    Canon (m.applyAnchorDown h pk) := by
  unfold Module.applyAnchorDown
  repeat' first
    | with_reducible assumption
    | with_reducible apply canon_count
    | with_reducible apply canon_touch
    | with_reducible apply canon_agree
    | with_reducible apply canon_ite
    | lift_lets
    | split

theorem canon_applyResult {m : Module} {h : Nat} {pk : Pkt} (hm : Canon m) :
    Canon (m.applyResult h pk) := by
  unfold Module.applyResult
  repeat' first
    | with_reducible assumption
    | with_reducible apply canon_pair
    | with_reducible apply canon_touch
    | with_reducible apply canon_retain
    | with_reducible apply canon_ackTile
    | with_reducible apply canon_ite
    | simp only [canon_lit, canon1_mk_eq, canon_fst_eq]
    | split

theorem canon_applyData {m : Module} {h : Nat} {pk : Pkt} {again : Bool} (hm : Canon m) :
    Canon (m.applyData h pk again) := by
  unfold Module.applyData
  repeat' first
    | with_reducible assumption
    | with_reducible apply canon_applyCarry
    | with_reducible apply canon_keepEarly
    | with_reducible apply canon_collCount
    | with_reducible apply canon_touch
    | with_reducible apply canon_applyContrib
    | with_reducible apply canon_applyGather
    | with_reducible apply canon_applyPartial
    | with_reducible apply canon_applyAnchorUp
    | with_reducible apply canon_applySend
    | with_reducible apply canon_applyDecl
    | with_reducible apply canon_applyAnchorDown
    | with_reducible apply canon_applyResult
    | with_reducible apply canon_relayGather
    | with_reducible apply canon_ite

theorem canon_dataRow {m : Module} {p : Pkt} {type kind : Nat} (hm : Canon m) :
    Canon (m.dataRow p type kind) := by
  unfold Module.dataRow
  repeat' first
    | with_reducible assumption
    | refine fun _ => ?_
    | with_reducible apply canon_perform
    | with_reducible apply canon_collIn
    | with_reducible apply canon_advance
    | with_reducible apply canon_applyData
    | with_reducible apply canon_ite

theorem canon_row_anchorUp {p : Pkt} {m : Module} (hm : Canon m) :
    Canon (anchorUp p m) := by
  unfold anchorUp
  exact canon_dataRow hm

theorem canon_row_resultTile {p : Pkt} {m : Module} (hm : Canon m) :
    Canon (resultTile p m) := by
  unfold resultTile
  repeat' first
    | with_reducible assumption
    | with_reducible apply canon_dataRow
    | with_reducible apply canon_ite

theorem canon_row_contrib {p : Pkt} {m : Module} (hm : Canon m) :
    Canon (contrib p m) := by
  unfold contrib
  exact canon_dataRow hm

theorem canon_row_xchgRow {p : Pkt} {m : Module} (hm : Canon m) :
    Canon (xchgRow p m) := by
  unfold xchgRow
  exact canon_dataRow hm

theorem canon_joinEmpty {m : Module} {p : Pkt} {h : Nat} (hm : Canon m) :
    Canon (m.joinEmpty p h) := by
  unfold Module.joinEmpty
  repeat' first
    | with_reducible assumption
    | refine fun _ => ?_
    | with_reducible apply canon_digestIn
    | with_reducible apply canon_setGrp
    | with_reducible apply canon_answerJoin
    | with_reducible apply canon_seqDone
    | with_reducible apply canon_foldl
    | with_reducible apply canon_ite

theorem canon_chunkNotice {m : Module} {h : Nat} {pk : Pkt} (hm : Canon m) :
    Canon (m.chunkNotice h pk) := by
  unfold Module.chunkNotice
  repeat' first
    | with_reducible assumption
    | with_reducible apply canon_keepEarly
    | with_reducible apply canon_chunkUp
    | with_reducible apply canon_ite

theorem canon_lossTold {m : Module} {h q : Nat} {pk : Pkt} (hm : Canon m) :
    Canon (m.lossTold h q pk) := by
  unfold Module.lossTold
  repeat' first
    | with_reducible assumption
    | with_reducible apply canon_updPlane
    | with_reducible apply canon_ite

theorem canon_takeEarly {m : Module} {h : Nat} {pk : Pkt} (hm : Canon m) :
    Canon (m.takeEarly h pk) := by
  unfold Module.takeEarly
  repeat' first
    | with_reducible assumption
    | with_reducible apply canon_chunkNotice
    | with_reducible apply canon_lossTold
    | with_reducible apply canon_applyData
    | with_reducible apply canon_ite
    | simp only [canon_lit]

theorem canon_joinCtx {m : Module} {h : Nat} {p : Pkt} (hm : Canon m) :
    Canon (m.joinCtx h p) := by
  unfold Module.joinCtx
  repeat' first
    | with_reducible assumption
    | refine fun _ => ?_
    | with_reducible apply canon_collCount
    | with_reducible apply canon_updCtx
    | with_reducible apply canon_bind
    | with_reducible apply canon_digestIn
    | with_reducible apply canon_updPlane
    | with_reducible apply canon_takeEarly
    | with_reducible apply canon_advance
    | with_reducible apply canon_touch
    | with_reducible apply canon_foldl
    | with_reducible apply canon_ite
    | lift_lets
    | split

theorem canon_joinIn {m : Module} {p : Pkt} (hm : Canon m) :
    Canon (m.joinIn p) := by
  unfold Module.joinIn
  repeat' first
    | with_reducible assumption
    | with_reducible apply canon_noRecord
    | with_reducible apply canon_answerJoin
    | with_reducible apply canon_collCount
    | with_reducible apply canon_collFailed
    | with_reducible apply canon_joinEmpty
    | with_reducible apply canon_joinCtx
    | refine canon_allocCtx ?_ (by with_reducible assumption)
    | with_reducible apply canon_refuseCtx
    | with_reducible apply canon_ite
    | lift_lets
    | split

theorem canon_row_collJoin {p : Pkt} {m : Module} (hm : Canon m) :
    Canon (collJoin p m) := by
  unfold collJoin
  repeat' first
    | with_reducible assumption
    | refine fun _ => ?_
    | with_reducible apply canon_perform
    | with_reducible apply canon_collEvent
    | with_reducible apply canon_joinIn
    | with_reducible apply canon_ite

theorem canon_row_lossNotice {p : Pkt} {m : Module} (hm : Canon m) :
    Canon (lossNotice p m) := by
  unfold lossNotice
  repeat' first
    | with_reducible assumption
    | refine fun _ => ?_
    | with_reducible apply canon_perform
    | with_reducible apply canon_collIn
    | with_reducible apply canon_lossDown
    | with_reducible apply canon_touch
    | with_reducible apply canon_advance
    | with_reducible apply canon_lossTold
    | with_reducible apply canon_keepEarly
    | with_reducible apply canon_ite

theorem canon_row_dataTimeout {handle plane : Nat} {m : Module} (hm : Canon m) :
    Canon (dataTimeout handle plane m) := by
  unfold dataTimeout
  repeat' first
    | with_reducible assumption
    | refine fun _ => ?_
    | with_reducible apply canon_collEvent
    | with_reducible apply canon_reach
    | with_reducible apply canon_updPlane
    | with_reducible apply canon_xchgLoss
    | with_reducible apply canon_advance
    | with_reducible apply canon_giveUp
    | with_reducible apply canon_pass
    | with_reducible apply canon_foldl
    | with_reducible apply canon_ite
    | simp only [canon_lit, canon1_mk_eq, canon_fst_eq]
    | split

theorem canon_resend {m : Module} {h p : Nat} {x : Ret} {d : RDst} (hm : Canon m) :
    Canon (m.resend h p x d) := by
  unfold Module.resend
  repeat' first
    | with_reducible assumption
    | with_reducible apply canon_ackWait
    | with_reducible apply canon_useRet
    | with_reducible apply canon_retBad
    | with_reducible apply canon_updDst
    | with_reducible apply canon_sendTo
    | with_reducible apply canon_collCount
    | with_reducible apply canon_ite
    | simp only [canon_lit, canon1_mk_eq, canon_fst_eq]

theorem canon_ackDst {m : Module} {h p r : Nat} {d : RDst} {st : Nat} (hm : Canon m) :
    Canon (m.ackDst h p r d st) := by
  unfold Module.ackDst
  repeat' first
    | with_reducible assumption
    | with_reducible apply canon_updDst
    | with_reducible apply canon_resend
    | with_reducible apply canon_ite
    | split

theorem canon_row_anchorDown {p : Pkt} {m : Module} (hm : Canon m) :
    Canon (anchorDown p m) := by
  unfold anchorDown
  exact canon_dataRow hm

theorem canon_row_partialPiece {p : Pkt} {m : Module} (hm : Canon m) :
    Canon (partialPiece p m) := by
  unfold partialPiece
  exact canon_dataRow hm

theorem canon_row_xchgColumn {p : Pkt} {m : Module} (hm : Canon m) :
    Canon (xchgColumn p m) := by
  unfold xchgColumn
  exact canon_dataRow hm

theorem canon_row_checked {p : Pkt} {m : Module} (hm : Canon m) :
    Canon (checked p m) := by
  unfold checked
  repeat' first
    | with_reducible assumption
    | refine fun _ => ?_
    | with_reducible apply canon_perform
    | with_reducible apply canon_collIn
    | with_reducible apply canon_advance
    | with_reducible apply canon_check_
    | with_reducible apply canon_touch
    | with_reducible apply canon_ite

theorem canon_row_xchgCarry {p : Pkt} {m : Module} (hm : Canon m) :
    Canon (xchgCarry p m) := by
  unfold xchgCarry
  exact canon_dataRow hm

theorem canon_row_collGather {p : Pkt} {m : Module} (hm : Canon m) :
    Canon (collGather p m) := by
  unfold collGather
  exact canon_dataRow hm

theorem canon_row_xchgSend {p : Pkt} {m : Module} (hm : Canon m) :
    Canon (xchgSend p m) := by
  unfold xchgSend
  exact canon_dataRow hm

theorem canon_row_joinTimeout {handle : Nat} {m : Module} (hm : Canon m) :
    Canon (joinTimeout handle m) := by
  unfold joinTimeout
  repeat' first
    | with_reducible assumption
    | refine fun _ => ?_
    | with_reducible apply canon_collEvent
    | with_reducible apply canon_reach
    | with_reducible apply canon_updCtx
    | with_reducible apply canon_planeFail
    | with_reducible apply canon_pass
    | with_reducible apply canon_foldl
    | with_reducible apply canon_ite
    | simp only [canon_lit, canon1_mk_eq, canon_fst_eq]
    | split

theorem canon_row_resultMask {p : Pkt} {m : Module} (hm : Canon m) :
    Canon (resultMask p m) := by
  unfold resultMask
  exact canon_dataRow hm

theorem canon_row_subtreeDone {p : Pkt} {m : Module} (hm : Canon m) :
    Canon (subtreeDone p m) := by
  unfold subtreeDone
  repeat' first
    | with_reducible assumption
    | refine fun _ => ?_
    | with_reducible apply canon_perform
    | with_reducible apply canon_collIn
    | with_reducible apply canon_toChip
    | with_reducible apply canon_advance
    | with_reducible apply canon_updPlane
    | with_reducible apply canon_touch
    | with_reducible apply canon_ite

theorem canon_row_tileStepAdmit {d : Nat} {m : Module} (hm : Canon m) :
    Canon (tileStepAdmit d m) := by
  unfold tileStepAdmit
  repeat' first
    | with_reducible assumption
    | refine fun _ => ?_
    | with_reducible apply canon_collEvent
    | with_reducible apply canon_advance
    | with_reducible apply canon_admitStep
    | with_reducible apply canon_ite
    | simp only [canon_lit, canon1_mk_eq, canon_fst_eq]
    | split

theorem canon_row_collMask {p : Pkt} {m : Module} (hm : Canon m) :
    Canon (collMask p m) := by
  unfold collMask
  exact canon_dataRow hm

theorem canon_ackXchg {m : Module} {h p mem t st : Nat} (hm : Canon m) :
    Canon (m.ackXchg h p mem t st) := by
  unfold Module.ackXchg
  repeat' first
    | with_reducible assumption
    | with_reducible apply canon_updPlane
    | with_reducible apply canon_xchgLoss
    | with_reducible apply canon_ite

theorem canon_endSubtree {m : Module} {h p st : Nat} (hm : Canon m) :
    Canon (m.endSubtree h p st) := by
  unfold Module.endSubtree
  exact canon_endPlane hm

theorem canon_noticeIn {m : Module} {h q : Nat} {p : Pkt} (hm : Canon m) :
    Canon (m.noticeIn h q p) := by
  unfold Module.noticeIn
  repeat' first
    | with_reducible assumption
    | with_reducible apply canon_toChip
    | with_reducible apply canon_updPlane
    | with_reducible apply canon_advance
    | with_reducible apply canon_failLate
    | with_reducible apply canon_recordTerm
    | with_reducible apply canon_noticeUp
    | with_reducible apply canon_planeNotice
    | with_reducible apply canon_ite

theorem canon_row_failureNotice {p : Pkt} {m : Module} (hm : Canon m) :
    Canon (failureNotice p m) := by
  unfold failureNotice
  repeat' first
    | with_reducible assumption
    | refine fun _ => ?_
    | with_reducible apply canon_perform
    | with_reducible apply canon_collIn
    | with_reducible apply canon_touch
    | with_reducible apply canon_chunkNotice
    | with_reducible apply canon_advance
    | with_reducible apply canon_endSubtree
    | with_reducible apply canon_noticeIn
    | with_reducible apply canon_ite

theorem canon_row_complete {p : Pkt} {m : Module} (hm : Canon m) :
    Canon (complete p m) := by
  unfold complete
  repeat' first
    | with_reducible assumption
    | refine fun _ => ?_
    | with_reducible apply canon_perform
    | with_reducible apply canon_collIn
    | with_reducible apply canon_touch
    | with_reducible apply canon_endPlane
    | with_reducible apply canon_ite

theorem canon_row_noContextAnswer {p : Pkt} {m : Module} (hm : Canon m) :
    Canon (noContextAnswer p m) := by
  unfold noContextAnswer
  repeat' first
    | with_reducible assumption
    | refine fun _ => ?_
    | with_reducible apply canon_perform
    | with_reducible apply canon_noRecord
    | with_reducible apply canon_ite

theorem canon_row_ackTimeout {handle plane off : Nat} {m : Module} (hm : Canon m) :
    Canon (ackTimeout handle plane off m) := by
  unfold ackTimeout
  repeat' first
    | with_reducible assumption
    | refine fun _ => ?_
    | with_reducible apply canon_collEvent
    | with_reducible apply canon_reach
    | with_reducible apply canon_advance
    | with_reducible apply canon_resend
    | with_reducible apply canon_pass
    | with_reducible apply canon_foldl
    | with_reducible apply canon_ite
    | simp only [canon_lit, canon1_mk_eq, canon_fst_eq]
    | split

theorem canon_row_probeTimer {handle plane : Nat} {m : Module} (hm : Canon m) :
    Canon (probeTimer handle plane m) := by
  unfold probeTimer
  repeat' first
    | with_reducible assumption
    | refine fun _ => ?_
    | with_reducible apply canon_collEvent
    | with_reducible apply canon_reach
    | with_reducible apply canon_endSubtree
    | with_reducible apply canon_collFailed
    | with_reducible apply canon_collCount
    | with_reducible apply canon_toChip
    | with_reducible apply canon_updPlane
    | with_reducible apply canon_pass
    | with_reducible apply canon_ite
    | simp only [canon_lit, canon1_mk_eq, canon_fst_eq]
    | split

theorem canon_row_collAck {p : Pkt} {m : Module} (hm : Canon m) :
    Canon (collAck p m) := by
  unfold collAck
  repeat' first
    | with_reducible assumption
    | refine fun _ => ?_
    | with_reducible apply canon_perform
    | with_reducible apply canon_collIn
    | with_reducible apply canon_touch
    | with_reducible apply canon_advance
    | with_reducible apply canon_ackXchg
    | with_reducible apply canon_ackDst
    | with_reducible apply canon_endSubtree
    | with_reducible apply canon_updPlane
    | with_reducible apply canon_foldl
    | with_reducible apply canon_ite
    | split

end Sys2Proof.Machine
end

