-- ==== Sys2Proof/Laws/Line.lean ====
section
/-!
SUPPORT. How a received segment is read: a codeword's symbols from its levels, the bytes of a frame whose scrambled content
is zero, and evaluations of the decoder, of the scrambler and of CRC-32C that keep their registers as numbers.
-/
namespace Sys2Proof.Machine

/-! ### Folds that keep the accumulator a number -/

/-- `foldl` that reduces its accumulator at each element. -/
def foldNum {β : Type} (f : Nat → β → Nat) : List β → Nat → Nat
  | [], a => a
  | b :: l, a => match f a b with
    | 0 => foldNum f l 0
    | k + 1 => foldNum f l (k + 1)

theorem foldNum_eq {β : Type} (f : Nat → β → Nat) (l : List β) (a : Nat) : foldNum f l a = l.foldl f a := by
  induction l generalizing a with
  | nil => rfl
  | cons b l ih =>
    rw [foldNum, List.foldl_cons]
    cases f a b with
    | zero => exact ih 0
    | succ k => exact ih (k + 1)

/-! ### Codewords (R51, R53) -/

theorem gfMul_zero (a : Nat) : gfMul a 0 = 0 := by
  have h : ∀ n a, gfMulN n a 0 = 0 := by
    intro n
    induction n with
    | zero => intro a; rfl
    | succ n ih => intro a; simp [gfMulN, gfX, ih]
  exact h 10 a

/-- The word of zeros is a codeword. -/
theorem rsDecode_zeros : rsDecode (List.replicate 544 0) = some (List.replicate 544 0, 0) := by
  have h : ∀ j n, (List.replicate n 0).foldl (fun a s => gfMul (gfAlpha j) a ^^^ s) 0 = 0 := by
    intro j n
    induction n with
    | zero => rfl
    | succ n ih => rw [List.replicate_succ, List.foldl_cons, gfMul_zero]; exact ih
  have k : (rsSyndromes (List.replicate 544 0)).all (· == 0) = true := by
    refine List.all_eq_true.2 fun x hx => ?_
    obtain ⟨j, _, rfl⟩ := List.mem_map.1 hx
    rw [h]; rfl
  unfold rsDecode
  rw [if_neg (by rw [List.length_replicate]; decide)]
  exact if_pos k

/-- A word whose syndromes are zero is a codeword. -/
theorem rsDecode_of {w : List Nat} (hl : w.length = 544)
    (h : ((List.range 30).all fun j => foldNum (fun a s => gfMul (gfAlpha j) a ^^^ s) w 0 == 0) = true) :
    rsDecode w = some (w, 0) := by
  have k : (rsSyndromes w).all (· == 0) = true := by
    simp only [foldNum_eq] at h
    simpa [rsSyndromes, List.all_eq_true] using h
  unfold rsDecode
  rw [if_neg (by simp [hl])]
  exact if_pos k

theorem levelSym_zeros (n k : Nat) : levelSym (List.replicate n 0) k = 0 := by
  have z : ∀ i, (List.replicate n 0).getD i 0 = 0 := by
    intro i
    simp only [List.getD_eq_getElem?_getD, List.getElem?_replicate]
    split <;> rfl
  simp only [levelSym, z]; rfl

/-- The symbols read from levels are those that the levels were formed from. -/
theorem levelSym_symLevels (w : List Nat) (h : (w.all (· < 1024)) = true) :
    (List.range w.length).map (levelSym (w.flatMap symLevels)) = w := by
  induction w with
  | nil => rfl
  | cons a w ih =>
    simp only [List.all_cons, Bool.and_eq_true] at h
    rw [List.length_cons, List.range_succ_eq_map, List.map_cons, List.map_map]
    have one : ∀ a < 1024, ∀ l, levelSym (symLevels a ++ l) 0 = a := by
      intro a ha l
      have g : ∀ x, grayPair (grayLevel x) = x % 4 := by
        intro x
        have : x % 4 < 4 := Nat.mod_lt _ (by decide)
        unfold grayPair grayLevel
        generalize x % 4 = y at *
        interval_cases y <;> rfl
      simp only [levelSym, symLevels, List.cons_append, List.nil_append, Nat.mul_zero, Nat.zero_add, List.getD_cons_zero, List.getD_cons_succ, g]
      omega
    congr 1
    · exact one a (by simpa using h.1) _
    · refine Eq.trans (List.map_congr_left fun k _ => ?_) (ih h.2)
      simp only [Function.comp, List.flatMap_cons, levelSym, symLevels]
      simp only [Nat.mul_add, Nat.mul_one, Nat.add_zero, Nat.succ_eq_add_one, List.cons_append, List.nil_append,
        List.getD_cons_succ, show ∀ i, 5 * k + 5 + i = 5 * k + i + 1 + 1 + 1 + 1 + 1 from fun i => by omega]

/-! ### The scrambler (R54) -/

/-- The register of the scrambler after `n` steps. -/
def scramAt : Nat → Nat → Nat
  | 0, s => s
  | n + 1, s => match scramStep s with
    | 0 => scramAt n 0
    | k + 1 => scramAt n (k + 1)

theorem scramAt_succ (n s : Nat) : scramAt (n + 1) s = scramAt n (scramStep s) := by
  rw [scramAt]
  cases scramStep s <;> rfl

theorem scramBits_add (a b s : Nat) : scramBits (a + b) s = scramBits a s ++ scramBits b (scramAt a s) := by
  induction a generalizing s with
  | zero => rw [Nat.zero_add]; rfl
  | succ a ih => rw [Nat.succ_add, scramBits, scramBits, ih, scramAt_succ, List.cons_append]

theorem scramBits_length (n s : Nat) : (scramBits n s).length = n := by
  induction n generalizing s with
  | zero => rfl
  | succ n ih => rw [scramBits, List.length_cons, ih]

/-- The bits of `n` steps as a number are the low bits of the register after them. -/
theorem ofBits_scramBits (n s : Nat) (h : n ≤ 31) : ofBits (scramBits n s) = scramAt n s % 2 ^ n := by
  induction n with
  | zero => simp [scramBits, ofBits, Nat.mod_one]
  | succ n ih =>
    have e : scramBits (n + 1) s = scramBits n s ++ [bitAt (scramStep (scramAt n s)) 0] := scramBits_add n 1 s
    have e2 : scramAt (n + 1) s = scramStep (scramAt n s) := by
      clear ih e h
      induction n generalizing s with
      | zero => rw [scramAt_succ]; rfl
      | succ n ih => rw [scramAt_succ, ih, ← scramAt_succ]
    rw [e, e2]
    unfold ofBits at *
    rw [List.foldl_append, ih (by omega)]
    generalize scramAt n s = r
    have z : b2n (bitAt (scramStep r) 0) = scramStep r % 2 := by
      simp only [bitAt, b2n]
      rcases Nat.mod_two_eq_zero_or_one (scramStep r) with q | q <;> simp [q]
    have m : ∀ x, x % 2 ^ 31 % 2 ^ (n + 1) = x % 2 ^ (n + 1) := fun x => Nat.mod_mod_of_dvd x (Nat.pow_dvd_pow 2 h)
    simp only [List.foldl_cons, List.foldl_nil, z]
    unfold scramStep
    rw [m, show ∀ x, x % 2 ^ 31 % 2 = x % 2 from fun x => Nat.mod_mod_of_dvd x ⟨2 ^ 30, rfl⟩, Nat.pow_succ, Nat.mul_comm (2 ^ n) 2,
      Nat.mod_mul]
    have f2 : (b2n (bitAt r 30) + b2n (bitAt r 27)) % 2 < 2 := Nat.mod_lt _ (by decide)
    rw [show (r * 2 + (b2n (bitAt r 30) + b2n (bitAt r 27)) % 2) / 2 = r by omega]
    omega

/-- A bit of the scrambler register after a step. -/
theorem scramStep_testBit (s i : Nat) : (scramStep s).testBit i =
    (decide (i < 31) && if i = 0 then s.testBit 30 != s.testBit 27 else s.testBit (i - 1)) := by
  have z : (b2n (bitAt s 30) + b2n (bitAt s 27)) % 2 = (s.testBit 30 != s.testBit 27).toNat := by
    cases a : s.testBit 30 <;> cases b : s.testBit 27 <;>
      simp only [bitAt, b2n, Nat.testBit_eq_decide_div_mod_eq, decide_eq_false_iff_not, decide_eq_true_eq] at * <;> simp [*]
  rw [scramStep, z, Nat.testBit_mod_two_pow, Nat.mul_comm]
  congr 1
  rcases i with _ | i
  · cases s.testBit 30 != s.testBit 27 <;> simp [Nat.testBit_zero] 
  · rw [Nat.testBit_succ, if_neg (Nat.succ_ne_zero i), Nat.add_sub_cancel]
    congr 1
    have := Bool.toNat_lt (s.testBit 30 != s.testBit 27)
    omega

/-- Eight steps of the scrambler at once. -/
def scram8 (s : Nat) : Nat :=
  Nat.mod (Nat.add (Nat.mul s 256) (Nat.mod (Nat.xor (Nat.div s 8388608) (Nat.div s 1048576)) 256)) 2147483648

theorem scramAt_eight (s : Nat) : scramAt 8 s = scram8 s := by
  simp only [scramAt_succ]
  refine Nat.eq_of_testBit_eq fun i => ?_
  have e : scram8 s = (2 ^ 8 * s + (s / 2 ^ 23 ^^^ s / 2 ^ 20) % 2 ^ 8) % 2 ^ 31 := by
    rw [Nat.mul_comm]; rfl
  rw [e, Nat.testBit_mod_two_pow, Nat.testBit_two_pow_mul_add _ (Nat.mod_lt _ (by decide))]
  simp only [Nat.testBit_mod_two_pow, Nat.testBit_xor, Nat.testBit_div_two_pow]
  have h0 : ∀ t, scramAt 0 t = t := fun _ => rfl
  simp only [h0, scramStep_testBit]
  by_cases h : i < 8
  · rcases i with _|_|_|_|_|_|_|_|i
    case succ.succ.succ.succ.succ.succ.succ.succ => omega
    all_goals simp
  · rw [if_neg h]
    obtain ⟨j, rfl⟩ : ∃ j, i = j + 8 := ⟨i - 8, by omega⟩
    by_cases g : j + 8 < 31
    · simp [show j + 1 < 31 by omega, show j + 2 < 31 by omega, show j + 3 < 31 by omega,
        show j + 4 < 31 by omega, show j + 5 < 31 by omega, show j + 6 < 31 by omega, show j + 7 < 31 by omega, g]
    · simp [g]

/-- The register after eight times `n` steps. -/
def scramRun : Nat → Nat → Nat
  | 0, s => s
  | n + 1, s => match scram8 s with
    | 0 => scramRun n 0
    | k + 1 => scramRun n (k + 1)

theorem scramAt_add (a b s : Nat) : scramAt (a + b) s = scramAt b (scramAt a s) := by
  induction a generalizing s with
  | zero => rw [Nat.zero_add]; rfl
  | succ a ih => rw [Nat.succ_add, scramAt_succ, ih, scramAt_succ]

theorem scramRun_eq (n s : Nat) : scramRun n s = scramAt (8 * n) s := by
  induction n generalizing s with
  | zero => rfl
  | succ n ih =>
    rw [show 8 * (n + 1) = 8 + 8 * n by omega, scramAt_add, scramAt_eight, ← ih, scramRun]
    cases scram8 s <;> rfl

/-- The bits of `n` steps, each register formed before the next step. -/
def scramList : Nat → Nat → List Bool
  | 0, _ => []
  | n + 1, s => match scramStep s with
    | 0 => false :: scramList n 0
    | k + 1 => bitAt (k + 1) 0 :: scramList n (k + 1)

theorem scramBits_eq (n s : Nat) : scramBits n s = scramList n s := by
  induction n generalizing s with
  | zero => rfl
  | succ n ih => rw [scramBits, scramList, ih]; cases scramStep s <;> rfl

/-! ### The bytes of a segment whose symbols are zero -/

/-- Bytes of the scrambler's sequence. -/
def scramBytes : Nat → Nat → Bytes
  | 0, _ => []
  | n + 1, s => match scram8 s with
    | 0 => 0 :: scramBytes n 0
    | k + 1 => BitVec.ofNat 8 (k + 1) :: scramBytes n (k + 1)

theorem scramBytes_succ (n s : Nat) : scramBytes (n + 1) s = BitVec.ofNat 8 (scramAt 8 s) :: scramBytes n (scramAt 8 s) := by
  rw [scramBytes, scramAt_eight]
  cases scram8 s <;> rfl

theorem scramBytes_length (n s : Nat) : (scramBytes n s).length = n := by
  induction n generalizing s with
  | zero => rfl
  | succ n ih => rw [scramBytes_succ, List.length_cons, ih]

theorem groups_append {n k : Nat} {l : List Bool} (h : l.length = n * k) (j : Nat) (r : List Bool) :
    groups n (k + j) (l ++ r) = groups n k l ++ groups n j r := by
  induction k generalizing l with
  | zero => have := List.length_eq_zero_iff.1 h; subst this; simp [groups]
  | succ k ih =>
    have e : n ≤ l.length := by rw [h, Nat.mul_succ]; omega
    rw [Nat.succ_add, groups, groups, List.take_append_of_le_length e, List.drop_append_of_le_length e, ih (by
      rw [List.length_drop, h, Nat.mul_succ]; omega), List.cons_append]

theorem groups_length (n k : Nat) (l : List Bool) : (groups n k l).length = k := by
  induction k generalizing l with
  | zero => rfl
  | succ k ih => rw [groups, List.length_cons, ih]

theorem groups_scramBits (n s : Nat) : (groups 8 n (scramBits (8 * n) s)).map (BitVec.ofNat 8) = scramBytes n s := by
  induction n generalizing s with
  | zero => rfl
  | succ n ih =>
    rw [show 8 * (n + 1) = 8 + 8 * n by omega, scramBits_add,
      show ∀ l, groups 8 (n + 1) l = groups 8 (1 + n) l from fun l => by rw [Nat.add_comm], groups_append (k := 1) (scramBits_length 8 s),
      List.map_append, ih, scramBytes_succ]
    have e : groups 8 1 (scramBits 8 s) = [ofBits (scramBits 8 s)] := by
      rw [groups, groups, List.take_of_length_le (by rw [scramBits_length])]
    rw [e, ofBits_scramBits 8 s (by decide)]
    simp [BitVec.ofNat, Fin.ofNat]

theorem zeros_symBits (n : Nat) : (List.replicate n 0).flatMap symBits = List.replicate (10 * n) false := by
  induction n with
  | zero => rfl
  | succ n ih =>
    rw [List.replicate_succ, List.flatMap_cons, ih, show symBits 0 = List.replicate 10 false by decide,
      List.replicate_append_replicate]
    congr 1; omega

theorem zeros_scrambled {n : Nat} {l : List Bool} (h : l.length = n) :
    ((List.replicate n false).zip l).map (fun x => x.1 != x.2) = l := by
  induction l generalizing n with
  | nil => subst h; rfl
  | cons a l ih =>
    subst h
    rw [List.length_cons, List.replicate_succ, List.zip_cons_cons, List.map_cons, ih rfl]
    simp

/-- The symbols of a frame whose segment 2 ends in four symbols, the others zero. -/
def endSyms (v : List Nat) : List Nat := List.replicate 19734 0 ++ (v ++ List.replicate 13158 0)

/-- The registers of the scrambler where segment 2 starts, and 8,220 bytes later. -/
def scramSeg : Nat := scramAt 131456 (scramAt 128 (2 ^ 31 - 1))
def scramEnd : Nat := scramAt 65760 scramSeg

/-- The last four bytes of that segment. -/
def endBytes (v : List Nat) : Bytes :=
  (groups 8 4 ((((v.flatMap symBits).drop 4).take 32).zip (scramBits 32 scramEnd) |>.map fun x => x.1 != x.2)).map (BitVec.ofNat 8)

theorem endSyms_bytes {v : List Nat} (hv : v.length = 4) (h4 : (v.flatMap symBits).take 4 = List.replicate 4 false) :
    ((frameBytes (endSyms v)).drop 16448).take 8224 = scramBytes 8220 scramSeg ++ endBytes v := by
  have hb : (v.flatMap symBits).length = 40 := by
    match v, hv with
    | [a, b, c, d], _ => simp [symBits]
  obtain ⟨vt, ht⟩ : ∃ vt, v.flatMap symBits = List.replicate 4 false ++ vt := ⟨(v.flatMap symBits).drop 4, by
    rw [← h4, List.take_append_drop]⟩
  have hl : vt.length = 36 := by
    have := hb; rw [ht, List.length_append, List.length_replicate] at this; omega
  have hbits : (endSyms v).flatMap symBits = List.replicate 128 false ++ (List.replicate 131456 false ++
      (List.replicate 65760 false ++ (vt ++ List.replicate 131580 false))) := by
    rw [endSyms, List.flatMap_append, List.flatMap_append, zeros_symBits, zeros_symBits, ht]
    simp only [← List.append_assoc, List.replicate_append_replicate]
  have hsc : scramble ((endSyms v).flatMap symBits) = (List.replicate 128 false ++
      scramBits 131456 (scramAt 128 (2 ^ 31 - 1))) ++ (scramBits 65760 scramSeg ++
        (((vt ++ List.replicate 131580 false).zip (scramBits 131616 scramEnd)).map fun x => x.1 != x.2)) := by
    have hn : ((endSyms v).flatMap symBits).length = 128 + (131456 + (65760 + 131616)) := by
      rw [hbits]; simp only [List.length_append, List.length_replicate, hl]
    rw [scramble, hn, hbits, List.take_left' (List.length_replicate ..), List.drop_left' (List.length_replicate ..),
      scramBits_add, List.drop_left' (scramBits_length ..), scramBits_add, scramBits_add,
      List.zip_append (by rw [List.length_replicate, scramBits_length]), List.map_append,
      List.zip_append (by rw [List.length_replicate, scramBits_length]), List.map_append,
      zeros_scrambled (scramBits_length ..), zeros_scrambled (scramBits_length ..), List.append_assoc]
    rfl
  have hend : (((vt ++ List.replicate 131580 false).zip (scramBits 131616 scramEnd)).map fun x => x.1 != x.2) =
      (((vt.take 32).zip (scramBits 32 scramEnd)).map fun x => x.1 != x.2) ++
        (((vt.drop 32 ++ List.replicate 131580 false).zip (scramBits 131584 (scramAt 32 scramEnd))).map fun x => x.1 != x.2) := by
    conv => lhs; rw [← List.take_append_drop 32 vt, List.append_assoc, show 131616 = 32 + 131584 from rfl, scramBits_add,
      List.zip_append (by rw [List.length_take, scramBits_length, hl]; rfl), List.map_append]
  have l1 : (List.replicate 128 false ++ scramBits 131456 (scramAt 128 (2 ^ 31 - 1))).length = 8 * 16448 := by
    rw [List.length_append, List.length_replicate, scramBits_length]
  have l2 : (scramBits 65760 scramSeg).length = 8 * 8220 := scramBits_length ..
  have l3 : (((vt.take 32).zip (scramBits 32 scramEnd)).map fun x => x.1 != x.2).length = 8 * 4 := by
    rw [List.length_map, List.length_zip, List.length_take, scramBits_length, hl]; rfl
  rw [frameBytes, hsc, hend, show 41120 = 16448 + (8220 + (4 + 16448)) from rfl, groups_append l1, groups_append l2,
    groups_append l3, List.map_append, List.map_append, List.map_append,
    List.drop_left' (by rw [List.length_map]; exact groups_length ..), show (65760 : Nat) = 8 * 8220 from rfl, groups_scramBits,
    ← List.append_assoc, List.take_left' (by rw [List.length_append, scramBytes_length, List.length_map, groups_length])]
  rw [endBytes, ht, List.drop_left' (List.length_replicate ..)]

/-! ### That segment as a lane brings it -/

/-- A lane that brings zeros, and one codeword where segment 2 ends. -/
def endLane (w : List Nat) : List Nat := List.replicate (2720 * 38) 0 ++ w.flatMap symLevels

theorem symLevels_length (w : List Nat) : (w.flatMap symLevels).length = 5 * w.length := by
  induction w with
  | nil => rfl
  | cons a w ih => rw [List.flatMap_cons, List.length_append, ih, List.length_cons]; simp only [symLevels, List.length_cons]; simp; omega

theorem rxWord_zeros (w : List Nat) {k : Nat} (hk : k < 38) :
    rxWord [endLane w] 0 k = { lane := 0, k := k, got := some (List.replicate 544 0, 0) } := by
  have e : (endLane w).drop (2720 * k) = List.replicate 2720 0 ++ (List.replicate (2720 * (37 - k)) 0 ++ w.flatMap symLevels) := by
    rw [endLane, show 2720 * 38 = 2720 * k + (2720 + 2720 * (37 - k)) by omega, ← List.replicate_append_replicate,
      List.append_assoc, List.drop_left' (List.length_replicate ..), ← List.replicate_append_replicate, List.append_assoc]
  have f : (List.range 544).map (levelSym (List.replicate 2720 0)) = List.replicate 544 0 := by
    refine List.eq_replicate_iff.2 ⟨by rw [List.length_map, List.length_range], fun b hb => ?_⟩
    obtain ⟨j, _, rfl⟩ := List.mem_map.1 hb
    exact levelSym_zeros 2720 j
  simp only [rxWord, List.getD_cons_zero, e, List.take_left' (List.length_replicate ..), List.length_replicate]
  rw [f, rsDecode_zeros]
  rfl

theorem rxWord_end {w : List Nat} (hl : w.length = 544) (h : (w.all (· < 1024)) = true) (hd : rsDecode w = some (w, 0)) :
    rxWord [endLane w] 0 38 = { lane := 0, k := 38, got := some (w, 0) } := by
  have n : (w.flatMap symLevels).length = 2720 := by rw [symLevels_length, hl]
  have f : (List.range 544).map (levelSym (w.flatMap symLevels)) = w := by
    have := levelSym_symLevels w h; rwa [hl] at this
  simp only [rxWord, List.getD_cons_zero, endLane, List.drop_left' (List.length_replicate ..), List.take_of_length_le (Nat.le_of_eq n),
    n, f, hd]
  rfl

theorem carries_seg2 : ((List.range 64).filter fun k => carries 1 0 k 2) = (List.range 13).map (25 + ·) ++ [38] := by
  decide +kernel

/-- What is read of segment 2 from a lane whose codeword at its end brings the segment's last four symbols. -/
theorem readSegment_end {w v t : List Nat} (hw : w = List.replicate 202 0 ++ (v ++ t)) (hv : v.length = 4)
    (hl : w.length = 544) (h : (w.all (· < 1024)) = true) (hd : rsDecode w = some (w, 0))
    (h4 : (v.flatMap symBits).take 4 = List.replicate 4 false) :
    readSegment 1 2 [endLane w] = (scramBytes 8220 scramSeg ++ endBytes v,
      ((List.range 13).map fun k => { lane := 0, k := 25 + k, got := some (List.replicate 544 0, 0) }) ++
        [{ lane := 0, k := 38, got := some (w, 0) }]) := by
  have hz : ((List.range 13).map (25 + ·)).map (rxWord [endLane w] 0) =
      (List.range 13).map fun k => { lane := 0, k := 25 + k, got := some (List.replicate 544 0, 0) } := by
    rw [List.map_map]
    refine List.map_congr_left fun k hk => ?_
    have := List.mem_range.1 hk
    exact rxWord_zeros w (show 25 + k < 38 by omega)
  have hs : segWords 1 2 [endLane w] = ((List.range 13).map fun k =>
      { lane := 0, k := 25 + k, got := some (List.replicate 544 0, 0) }) ++ [{ lane := 0, k := 38, got := some (w, 0) }] := by
    have r : (List.range 1).flatMap (fun j => ((List.range (64 / 1)).filter fun k => carries 1 j k 2).map fun k => rxWord [endLane w] j k) =
        ((List.range 64).filter fun k => carries 1 0 k 2).map (rxWord [endLane w] 0) := by
      rw [List.range_one, List.flatMap_singleton]
    rw [segWords, r, carries_seg2, List.map_append, hz, List.map_singleton, rxWord_end hl h hd]
  have sy : ((List.range frameSyms).map fun s =>
      if 65792 * 2 / 10 ≤ s && s ≤ (65792 * 2 + 65791) / 10 then rxSymbol 1 (segWords 1 2 [endLane w]) s else 0) = endSyms v := by
    refine List.ext_getElem (by rw [List.length_map, List.length_range, endSyms, List.length_append, List.length_append,
      List.length_replicate, List.length_replicate, hv]; rfl) fun s h1 h2 => ?_
    have hs1 : s < 32896 := by rw [List.length_map, List.length_range] at h1; exact h1
    rw [List.getElem_map, List.getElem_range]
    have z : ∀ n i, (List.replicate n 0).getD i 0 = 0 := by
      intro n i
      simp only [List.getD_eq_getElem?_getD, List.getElem?_replicate]
      split <;> rfl
    have sym : 13158 ≤ s → s ≤ 19737 → rxSymbol 1 (segWords 1 2 [endLane w]) s = if s / 514 = 38 then w.getD (s % 514) 0 else 0 := by
      intro a b
      have z' := z 544
      rw [rxSymbol, hs, Nat.mod_one, Nat.div_one]
      generalize List.replicate 544 0 = zs at z' ⊢
      obtain ⟨k, hk⟩ : ∃ k, s / 514 = k := ⟨_, rfl⟩
      have k1 : 25 ≤ k := by omega
      have k2 : k < 39 := by omega
      rw [hk]
      clear hs hz hk a b
      interval_cases k <;> simp [List.range_succ] <;> exact z' _
    have b0 : ∀ i, i < 202 → w.getD i 0 = 0 := by
      intro i hi
      rw [hw, List.getD_append _ _ _ _ (by rw [List.length_replicate]; exact hi)]
      exact z 202 i
    have b1 : ∀ i (hi : i < v.length), w.getD (202 + i) 0 = v[i] := by
      intro i hi
      rw [hw, List.getD_append_right _ _ _ _ (by rw [List.length_replicate]; omega), List.length_replicate,
        Nat.add_sub_cancel_left, List.getD_append _ _ _ _ hi, List.getD_eq_getElem _ _ hi]
    simp only [endSyms]
    rcases Nat.lt_or_ge s 19734 with c | c
    · rw [List.getElem_append_left (by rw [List.length_replicate]; exact c), List.getElem_replicate]
      split
      · rename_i q
        simp only [Bool.and_eq_true, decide_eq_true_eq] at q
        rw [sym (by omega) (by omega)]
        split
        · exact b0 _ (by omega)
        · rfl
      · rfl
    · rw [List.getElem_append_right (by rw [List.length_replicate]; exact c)]
      simp only [List.length_replicate]
      rcases Nat.lt_or_ge s 19738 with d | d
      · rw [List.getElem_append_left (by omega), if_pos (by simp; omega), sym (by omega) (by omega), if_pos (by omega), ← b1,
          show s % 514 = 202 + (s - 19734) by omega]
      · rw [List.getElem_append_right (by omega), List.getElem_replicate, if_neg (by simp; omega)]
  rw [readSegment]
  simp only [sy]
  rw [show 8224 * 2 = 16448 from rfl, endSyms_bytes hv h4, hs]

/-! ### CRC-32C on numbers (R104) -/

/-- One bit of the register. -/
def crcBitNum (c : Nat) : Nat := Nat.xor (Nat.div c 2) (Nat.mul (Nat.mod c 2) 2197175160)
/-- One byte of the register. -/
def crcByteNum (c b : Nat) : Nat :=
  crcBitNum (crcBitNum (crcBitNum (crcBitNum (crcBitNum (crcBitNum (crcBitNum (crcBitNum (Nat.xor c b))))))))

/-- The CRC register after `n` bytes of the scrambler's sequence. -/
def crcScram : Nat → Nat → Nat → Nat
  | 0, _, c => c
  | n + 1, s, c => match scram8 s with
    | 0 => crcScram n 0 (crcByteNum c 0)
    | k + 1 => match crcByteNum c (Nat.mod (k + 1) 256) with
      | 0 => crcScram n (k + 1) 0
      | d + 1 => crcScram n (k + 1) (d + 1)

theorem crcScram_succ (n s c : Nat) :
    crcScram (n + 1) s c = crcScram n (scram8 s) (crcByteNum c (scram8 s % 256)) := by
  rw [crcScram]
  cases scram8 s with
  | zero => rfl
  | succ k =>
    simp only
    rw [show Nat.mod (k + 1) 256 = (k + 1) % 256 from rfl]
    cases crcByteNum c ((k + 1) % 256) <;> rfl

theorem crcBit_toNat (c : Word) : (crcBit c).toNat = crcBitNum c.toNat := by
  have e : c.getLsbD 0 = (c.toNat % 2 == 1) := by
    simp only [BitVec.getLsbD, Nat.testBit_zero]; rfl
  have n : crcBitNum c.toNat = c.toNat / 2 ^^^ c.toNat % 2 * 2197175160 := rfl
  unfold crcBit
  rw [e, n]
  rcases Nat.mod_two_eq_zero_or_one c.toNat with h | h <;>
    simp [h, crcPoly, BitVec.toNat_ushiftRight, Nat.shiftRight_succ]

theorem crc_scramBytes (n s : Nat) : (crc32c (scramBytes n s)).toNat = crcScram n s 4294967295 ^^^ 4294967295 := by
  have h : ∀ (n s : Nat) (c : Word), ((scramBytes n s).foldl crcByte c).toNat = crcScram n s c.toNat := by
    intro n
    induction n with
    | zero => intro s c; rfl
    | succ n ih =>
      intro s c
      rw [scramBytes_succ, List.foldl_cons, ih, crcScram_succ, scramAt_eight]
      congr 1
      have e : (c ^^^ (BitVec.ofNat 8 (scram8 s)).zeroExtend 32).toNat = Nat.xor c.toNat (scram8 s % 256) := by
        rw [BitVec.toNat_xor]
        refine congrArg (c.toNat ^^^ ·) ?_
        simp [BitVec.toNat_setWidth]
        omega
      simp only [crcByte, crcByteNum, crcBit_toNat, e]
  rw [crc32c, BitVec.toNat_xor, h]
  rfl

/-- That segment is good where its last four bytes are the CRC of those before. -/
theorem readLanes_end {w v t : List Nat} (hw : w = List.replicate 202 0 ++ (v ++ t)) (hv : v.length = 4)
    (hl : w.length = 544) (h : (w.all (· < 1024)) = true) (hd : rsDecode w = some (w, 0))
    (h4 : (v.flatMap symBits).take 4 = List.replicate 4 false)
    (hc : beNat (endBytes v) = (crc32c (scramBytes 8220 scramSeg)).toNat) :
    (readLanes 2 [0] [endLane w]).bad = false ∧
      (readLanes 2 [0] [endLane w]).h.seqValid = bitAt (fieldBE (scramBytes 8220 scramSeg ++ endBytes v) 18 1) 0 := by
  have n : (endBytes v).length = 4 := by rw [endBytes, List.length_map, groups_length]
  have n2 := scramBytes_length 8220 scramSeg
  have f : fieldBE (scramBytes 8220 scramSeg ++ endBytes v) (8192 + 28) 4 = beNat (endBytes v) := by
    simp only [fieldBE, slice]
    rw [List.drop_left' n2, List.take_of_length_le (Nat.le_of_eq n), n]
    simp
  have c : (SegHead.read (scramBytes 8220 scramSeg ++ endBytes v)).crcOk = true := by
    simp only [SegHead.read]
    rw [List.length_append, n2, n, f, List.take_left' n2, hc]
    simp
  have e : ([0] : List Nat).length = 1 := rfl
  generalize hb : scramBytes 8220 scramSeg ++ endBytes v = b at c ⊢
  have r := readSegment_end hw hv hl h hd h4
  rw [hb] at r
  generalize List.replicate 544 0 = zs at r
  refine ⟨?_, ?_⟩
  · simp only [readLanes, e, r, c]
    simp [List.range_succ]
  · simp only [readLanes, e, r]
    rfl

end Sys2Proof.Machine
end

