-- ==== Sys2Proof/Laws/State.lean ====
section
/-!
SUPPORT. What the elementary updates of the state do and leave: one lemma for each field of the module under each
update, so that a proof about a command unfolds no record; the reads of the register store and of the keep file after
a write; and what each of the shared operations can do.
-/
namespace Sys2Proof.Machine

@[simp] theorem State.withM_pending (s : State) (f : Module → Module) : (s.withM f).pending = s.pending := rfl
@[simp] theorem State.withM_m (s : State) (f : Module → Module) : (s.withM f).m = f s.m := rfl
@[simp] theorem State.reset_pending : State.reset.pending = [] := rfl

/-! ### Outputs -/

@[simp] theorem Module.emit_out (m : Module) (o : Out) : (m.emit o).out = o :: m.out := rfl
@[simp] theorem Module.emit_regs (m : Module) (o : Out) : (m.emit o).regs = m.regs := rfl
@[simp] theorem Module.emit_mem (m : Module) (o : Out) : (m.emit o).mem = m.mem := rfl
@[simp] theorem Module.emit_ports (m : Module) (o : Out) : (m.emit o).ports = m.ports := rfl
@[simp] theorem Module.emit_dies (m : Module) (o : Out) : (m.emit o).dies = m.dies := rfl
@[simp] theorem Module.emit_net (m : Module) (o : Out) : (m.emit o).net = m.net := rfl
@[simp] theorem Module.emit_pwr (m : Module) (o : Out) : (m.emit o).pwr = m.pwr := rfl
@[simp] theorem Module.emit_sens (m : Module) (o : Out) : (m.emit o).sens = m.sens := rfl
@[simp] theorem Module.emit_keep (m : Module) (o : Out) : (m.emit o).keep = m.keep := rfl
@[simp] theorem Module.emit_time (m : Module) (o : Out) : (m.emit o).time = m.time := rfl
@[simp] theorem Module.emit_vane (m : Module) (o : Out) : (m.emit o).vane = m.vane := rfl
@[simp] theorem Module.emit_trk (m : Module) (o : Out) : (m.emit o).trk = m.trk := rfl
@[simp] theorem Module.emit_store (m : Module) (o : Out) : (m.emit o).store = m.store := rfl
@[simp] theorem Module.emit_ord (m : Module) (o : Out) : (m.emit o).ord = m.ord := rfl
@[simp] theorem Module.emit_coll (m : Module) (o : Out) : (m.emit o).coll = m.coll := rfl
@[simp] theorem Module.emit_engs (m : Module) (o : Out) : (m.emit o).engs = m.engs := rfl
@[simp] theorem Module.emit_kern (m : Module) (o : Out) : (m.emit o).kern = m.kern := rfl
@[simp] theorem Module.emit_flt (m : Module) (o : Out) : (m.emit o).flt = m.flt := rfl
@[simp] theorem Module.emit_sec (m : Module) (o : Out) : (m.emit o).sec = m.sec := rfl
@[simp] theorem Module.emit_fresh (m : Module) (o : Out) : (m.emit o).fresh = m.fresh := rfl

/-! ### The FTC and the clock of durations (R407, R421) -/

@[simp] theorem Module.pass_regs (m : Module) (t : Nat) : (m.pass t).regs = m.regs := rfl
@[simp] theorem Module.pass_mem (m : Module) (t : Nat) : (m.pass t).mem = m.mem := rfl
@[simp] theorem Module.pass_ports (m : Module) (t : Nat) : (m.pass t).ports = m.ports := rfl
@[simp] theorem Module.pass_dies (m : Module) (t : Nat) : (m.pass t).dies = m.dies := rfl
@[simp] theorem Module.pass_net (m : Module) (t : Nat) : (m.pass t).net = m.net := rfl
@[simp] theorem Module.pass_pwr (m : Module) (t : Nat) : (m.pass t).pwr = m.pwr := rfl
@[simp] theorem Module.pass_sens (m : Module) (t : Nat) : (m.pass t).sens = m.sens := rfl
@[simp] theorem Module.pass_keep (m : Module) (t : Nat) : (m.pass t).keep = m.keep := rfl
@[simp] theorem Module.pass_vane (m : Module) (t : Nat) : (m.pass t).vane = m.vane := rfl
@[simp] theorem Module.pass_trk (m : Module) (t : Nat) : (m.pass t).trk = m.trk := rfl
@[simp] theorem Module.pass_store (m : Module) (t : Nat) : (m.pass t).store = m.store := rfl
@[simp] theorem Module.pass_ord (m : Module) (t : Nat) : (m.pass t).ord = m.ord := rfl
@[simp] theorem Module.pass_coll (m : Module) (t : Nat) : (m.pass t).coll = m.coll := rfl
@[simp] theorem Module.pass_engs (m : Module) (t : Nat) : (m.pass t).engs = m.engs := rfl
@[simp] theorem Module.pass_kern (m : Module) (t : Nat) : (m.pass t).kern = m.kern := rfl
@[simp] theorem Module.pass_flt (m : Module) (t : Nat) : (m.pass t).flt = m.flt := rfl
@[simp] theorem Module.pass_sec (m : Module) (t : Nat) : (m.pass t).sec = m.sec := rfl
@[simp] theorem Module.pass_out (m : Module) (t : Nat) : (m.pass t).out = m.out := rfl
@[simp] theorem Module.pass_fresh (m : Module) (t : Nat) : (m.pass t).fresh = m.fresh := rfl
@[simp] theorem Module.reach_regs (m : Module) (t : Nat) : (m.reach t).regs = m.regs := rfl
@[simp] theorem Module.reach_mem (m : Module) (t : Nat) : (m.reach t).mem = m.mem := rfl
@[simp] theorem Module.reach_ports (m : Module) (t : Nat) : (m.reach t).ports = m.ports := rfl
@[simp] theorem Module.reach_dies (m : Module) (t : Nat) : (m.reach t).dies = m.dies := rfl
@[simp] theorem Module.reach_net (m : Module) (t : Nat) : (m.reach t).net = m.net := rfl
@[simp] theorem Module.reach_pwr (m : Module) (t : Nat) : (m.reach t).pwr = m.pwr := rfl
@[simp] theorem Module.reach_sens (m : Module) (t : Nat) : (m.reach t).sens = m.sens := rfl
@[simp] theorem Module.reach_keep (m : Module) (t : Nat) : (m.reach t).keep = m.keep := rfl
@[simp] theorem Module.reach_vane (m : Module) (t : Nat) : (m.reach t).vane = m.vane := rfl
@[simp] theorem Module.reach_trk (m : Module) (t : Nat) : (m.reach t).trk = m.trk := rfl
@[simp] theorem Module.reach_store (m : Module) (t : Nat) : (m.reach t).store = m.store := rfl
@[simp] theorem Module.reach_ord (m : Module) (t : Nat) : (m.reach t).ord = m.ord := rfl
@[simp] theorem Module.reach_coll (m : Module) (t : Nat) : (m.reach t).coll = m.coll := rfl
@[simp] theorem Module.reach_engs (m : Module) (t : Nat) : (m.reach t).engs = m.engs := rfl
@[simp] theorem Module.reach_kern (m : Module) (t : Nat) : (m.reach t).kern = m.kern := rfl
@[simp] theorem Module.reach_flt (m : Module) (t : Nat) : (m.reach t).flt = m.flt := rfl
@[simp] theorem Module.reach_sec (m : Module) (t : Nat) : (m.reach t).sec = m.sec := rfl
@[simp] theorem Module.reach_out (m : Module) (t : Nat) : (m.reach t).out = m.out := rfl
@[simp] theorem Module.reach_fresh (m : Module) (t : Nat) : (m.reach t).fresh = m.fresh := rfl
@[simp] theorem Module.pass_stepSum (m : Module) (t : Nat) : (m.pass t).time.stepSum = m.time.stepSum := rfl
@[simp] theorem Module.now_pass (m : Module) (t : Nat) : (m.pass t).now = m.now + (t - m.ticks) := rfl
@[simp] theorem Module.now_reach (m : Module) (t : Nat) : (m.reach t).now = max m.now t := rfl

/-- Where the steps have not added more than the FTC holds, the clock of durations after `pass` has reached the instant. -/
theorem Module.ticks_pass (m : Module) (t : Nat) (h : m.time.stepSum ≤ (m.time.ftc : Int)) :
    (m.pass t).ticks = max m.ticks t := by
  simp only [Module.pass, Module.ticks]
  omega

/-- The FTC never passes back: no row's instant lowers it. -/
theorem Module.now_le_pass (m : Module) (t : Nat) : m.now ≤ (m.pass t).now := by
  simp

/-! ### The register store (R5, R8, R11) -/

@[simp] theorem Module.setReg_mem (m : Module) (blk off lo v : Nat) : (m.setReg blk off lo v).mem = m.mem := rfl
@[simp] theorem Module.setReg_ports (m : Module) (blk off lo v : Nat) : (m.setReg blk off lo v).ports = m.ports := rfl
@[simp] theorem Module.setReg_dies (m : Module) (blk off lo v : Nat) : (m.setReg blk off lo v).dies = m.dies := rfl
@[simp] theorem Module.setReg_net (m : Module) (blk off lo v : Nat) : (m.setReg blk off lo v).net = m.net := rfl
@[simp] theorem Module.setReg_pwr (m : Module) (blk off lo v : Nat) : (m.setReg blk off lo v).pwr = m.pwr := rfl
@[simp] theorem Module.setReg_sens (m : Module) (blk off lo v : Nat) : (m.setReg blk off lo v).sens = m.sens := rfl
@[simp] theorem Module.setReg_keep (m : Module) (blk off lo v : Nat) : (m.setReg blk off lo v).keep = m.keep := rfl
@[simp] theorem Module.setReg_time (m : Module) (blk off lo v : Nat) : (m.setReg blk off lo v).time = m.time := rfl
@[simp] theorem Module.setReg_vane (m : Module) (blk off lo v : Nat) : (m.setReg blk off lo v).vane = m.vane := rfl
@[simp] theorem Module.setReg_trk (m : Module) (blk off lo v : Nat) : (m.setReg blk off lo v).trk = m.trk := rfl
@[simp] theorem Module.setReg_store (m : Module) (blk off lo v : Nat) : (m.setReg blk off lo v).store = m.store := rfl
@[simp] theorem Module.setReg_ord (m : Module) (blk off lo v : Nat) : (m.setReg blk off lo v).ord = m.ord := rfl
@[simp] theorem Module.setReg_coll (m : Module) (blk off lo v : Nat) : (m.setReg blk off lo v).coll = m.coll := rfl
@[simp] theorem Module.setReg_engs (m : Module) (blk off lo v : Nat) : (m.setReg blk off lo v).engs = m.engs := rfl
@[simp] theorem Module.setReg_kern (m : Module) (blk off lo v : Nat) : (m.setReg blk off lo v).kern = m.kern := rfl
@[simp] theorem Module.setReg_flt (m : Module) (blk off lo v : Nat) : (m.setReg blk off lo v).flt = m.flt := rfl
@[simp] theorem Module.setReg_sec (m : Module) (blk off lo v : Nat) : (m.setReg blk off lo v).sec = m.sec := rfl
@[simp] theorem Module.setReg_out (m : Module) (blk off lo v : Nat) : (m.setReg blk off lo v).out = m.out := rfl
@[simp] theorem Module.setReg_fresh (m : Module) (blk off lo v : Nat) : (m.setReg blk off lo v).fresh = m.fresh := rfl

@[simp] theorem Module.clearRegs_mem (m : Module) (blk a b : Nat) : (m.clearRegs blk a b).mem = m.mem := rfl
@[simp] theorem Module.clearRegs_ports (m : Module) (blk a b : Nat) : (m.clearRegs blk a b).ports = m.ports := rfl
@[simp] theorem Module.clearRegs_dies (m : Module) (blk a b : Nat) : (m.clearRegs blk a b).dies = m.dies := rfl
@[simp] theorem Module.clearRegs_net (m : Module) (blk a b : Nat) : (m.clearRegs blk a b).net = m.net := rfl
@[simp] theorem Module.clearRegs_pwr (m : Module) (blk a b : Nat) : (m.clearRegs blk a b).pwr = m.pwr := rfl
@[simp] theorem Module.clearRegs_sens (m : Module) (blk a b : Nat) : (m.clearRegs blk a b).sens = m.sens := rfl
@[simp] theorem Module.clearRegs_keep (m : Module) (blk a b : Nat) : (m.clearRegs blk a b).keep = m.keep := rfl
@[simp] theorem Module.clearRegs_time (m : Module) (blk a b : Nat) : (m.clearRegs blk a b).time = m.time := rfl
@[simp] theorem Module.clearRegs_vane (m : Module) (blk a b : Nat) : (m.clearRegs blk a b).vane = m.vane := rfl
@[simp] theorem Module.clearRegs_trk (m : Module) (blk a b : Nat) : (m.clearRegs blk a b).trk = m.trk := rfl
@[simp] theorem Module.clearRegs_store (m : Module) (blk a b : Nat) : (m.clearRegs blk a b).store = m.store := rfl
@[simp] theorem Module.clearRegs_ord (m : Module) (blk a b : Nat) : (m.clearRegs blk a b).ord = m.ord := rfl
@[simp] theorem Module.clearRegs_coll (m : Module) (blk a b : Nat) : (m.clearRegs blk a b).coll = m.coll := rfl
@[simp] theorem Module.clearRegs_engs (m : Module) (blk a b : Nat) : (m.clearRegs blk a b).engs = m.engs := rfl
@[simp] theorem Module.clearRegs_kern (m : Module) (blk a b : Nat) : (m.clearRegs blk a b).kern = m.kern := rfl
@[simp] theorem Module.clearRegs_flt (m : Module) (blk a b : Nat) : (m.clearRegs blk a b).flt = m.flt := rfl
@[simp] theorem Module.clearRegs_sec (m : Module) (blk a b : Nat) : (m.clearRegs blk a b).sec = m.sec := rfl
@[simp] theorem Module.clearRegs_out (m : Module) (blk a b : Nat) : (m.clearRegs blk a b).out = m.out := rfl
@[simp] theorem Module.clearRegs_fresh (m : Module) (blk a b : Nat) : (m.clearRegs blk a b).fresh = m.fresh := rfl

@[simp] theorem Module.resetBlocks_mem (m : Module) (p : Nat → Bool) : (m.resetBlocks p).mem = m.mem := rfl
@[simp] theorem Module.resetBlocks_ports (m : Module) (p : Nat → Bool) : (m.resetBlocks p).ports = m.ports := rfl
@[simp] theorem Module.resetBlocks_dies (m : Module) (p : Nat → Bool) : (m.resetBlocks p).dies = m.dies := rfl
@[simp] theorem Module.resetBlocks_net (m : Module) (p : Nat → Bool) : (m.resetBlocks p).net = m.net := rfl
@[simp] theorem Module.resetBlocks_pwr (m : Module) (p : Nat → Bool) : (m.resetBlocks p).pwr = m.pwr := rfl
@[simp] theorem Module.resetBlocks_sens (m : Module) (p : Nat → Bool) : (m.resetBlocks p).sens = m.sens := rfl
@[simp] theorem Module.resetBlocks_keep (m : Module) (p : Nat → Bool) : (m.resetBlocks p).keep = m.keep := rfl
@[simp] theorem Module.resetBlocks_time (m : Module) (p : Nat → Bool) : (m.resetBlocks p).time = m.time := rfl
@[simp] theorem Module.resetBlocks_vane (m : Module) (p : Nat → Bool) : (m.resetBlocks p).vane = m.vane := rfl
@[simp] theorem Module.resetBlocks_trk (m : Module) (p : Nat → Bool) : (m.resetBlocks p).trk = m.trk := rfl
@[simp] theorem Module.resetBlocks_store (m : Module) (p : Nat → Bool) : (m.resetBlocks p).store = m.store := rfl
@[simp] theorem Module.resetBlocks_ord (m : Module) (p : Nat → Bool) : (m.resetBlocks p).ord = m.ord := rfl
@[simp] theorem Module.resetBlocks_coll (m : Module) (p : Nat → Bool) : (m.resetBlocks p).coll = m.coll := rfl
@[simp] theorem Module.resetBlocks_engs (m : Module) (p : Nat → Bool) : (m.resetBlocks p).engs = m.engs := rfl
@[simp] theorem Module.resetBlocks_kern (m : Module) (p : Nat → Bool) : (m.resetBlocks p).kern = m.kern := rfl
@[simp] theorem Module.resetBlocks_flt (m : Module) (p : Nat → Bool) : (m.resetBlocks p).flt = m.flt := rfl
@[simp] theorem Module.resetBlocks_sec (m : Module) (p : Nat → Bool) : (m.resetBlocks p).sec = m.sec := rfl
@[simp] theorem Module.resetBlocks_out (m : Module) (p : Nat → Bool) : (m.resetBlocks p).out = m.out := rfl
@[simp] theorem Module.resetBlocks_fresh (m : Module) (p : Nat → Bool) : (m.resetBlocks p).fresh = m.fresh := rfl

/-- A field reads back what was written to it. -/
@[simp] theorem Module.reg_setReg_same (m : Module) (blk off lo : Nat) (v : Nat) (hv : v < 2 ^ 64) :
    (m.setReg blk off lo v).reg blk off lo = v := by
  unfold Module.reg Module.setReg
  simp only [Tab.get_put_same]
  by_cases h : v = regReset blk off lo
  · simp [h]
  · simp only [if_neg h, BitVec.toNat_ofNat]
    exact Nat.mod_eq_of_lt hv

/-- A write to a field leaves every field with another key. -/
theorem Module.reg_setReg_other (m : Module) (blk off lo v : Nat) {blk' off' lo' : Nat}
    (h : regKey blk' off' lo' ≠ regKey blk off lo) :
    (m.setReg blk off lo v).reg blk' off' lo' = m.reg blk' off' lo' := by
  unfold Module.reg Module.setReg
  simp only [Tab.get_put_other m.regs h]

/-- Fields in the range that a register can have (bits below 64, offsets below 2^26) have keys of their own. -/
theorem regKey_inj {blk off lo blk' off' lo' : Nat} (ho : off < 2 ^ 26) (hl : lo < 64) (ho' : off' < 2 ^ 26)
    (hl' : lo' < 64) (h : regKey blk off lo = regKey blk' off' lo') : blk = blk' ∧ off = off' ∧ lo = lo' := by
  unfold regKey at h
  omega

/-- What counting can do: the counter's field is written, or no map has that counter and nothing changes. -/
theorem Module.count_cases (m : Module) (blk off n : Nat) :
    (∃ v, m.count blk off n = m.setReg blk off 0 v) ∨ (m.count blk off n = m) := by
  unfold Module.count
  split
  · exact .inl ⟨_, rfl⟩
  · exact .inr rfl

@[simp] theorem Module.count_mem (m : Module) (blk off n : Nat) : (m.count blk off n).mem = m.mem := by
  obtain ⟨v, h⟩ | h := m.count_cases blk off n <;> rw [h]
  rfl
@[simp] theorem Module.count_ports (m : Module) (blk off n : Nat) : (m.count blk off n).ports = m.ports := by
  obtain ⟨v, h⟩ | h := m.count_cases blk off n <;> rw [h]
  rfl
@[simp] theorem Module.count_dies (m : Module) (blk off n : Nat) : (m.count blk off n).dies = m.dies := by
  obtain ⟨v, h⟩ | h := m.count_cases blk off n <;> rw [h]
  rfl
@[simp] theorem Module.count_net (m : Module) (blk off n : Nat) : (m.count blk off n).net = m.net := by
  obtain ⟨v, h⟩ | h := m.count_cases blk off n <;> rw [h]
  rfl
@[simp] theorem Module.count_pwr (m : Module) (blk off n : Nat) : (m.count blk off n).pwr = m.pwr := by
  obtain ⟨v, h⟩ | h := m.count_cases blk off n <;> rw [h]
  rfl
@[simp] theorem Module.count_sens (m : Module) (blk off n : Nat) : (m.count blk off n).sens = m.sens := by
  obtain ⟨v, h⟩ | h := m.count_cases blk off n <;> rw [h]
  rfl
@[simp] theorem Module.count_keep (m : Module) (blk off n : Nat) : (m.count blk off n).keep = m.keep := by
  obtain ⟨v, h⟩ | h := m.count_cases blk off n <;> rw [h]
  rfl
@[simp] theorem Module.count_time (m : Module) (blk off n : Nat) : (m.count blk off n).time = m.time := by
  obtain ⟨v, h⟩ | h := m.count_cases blk off n <;> rw [h]
  rfl
@[simp] theorem Module.count_vane (m : Module) (blk off n : Nat) : (m.count blk off n).vane = m.vane := by
  obtain ⟨v, h⟩ | h := m.count_cases blk off n <;> rw [h]
  rfl
@[simp] theorem Module.count_trk (m : Module) (blk off n : Nat) : (m.count blk off n).trk = m.trk := by
  obtain ⟨v, h⟩ | h := m.count_cases blk off n <;> rw [h]
  rfl
@[simp] theorem Module.count_store (m : Module) (blk off n : Nat) : (m.count blk off n).store = m.store := by
  obtain ⟨v, h⟩ | h := m.count_cases blk off n <;> rw [h]
  rfl
@[simp] theorem Module.count_ord (m : Module) (blk off n : Nat) : (m.count blk off n).ord = m.ord := by
  obtain ⟨v, h⟩ | h := m.count_cases blk off n <;> rw [h]
  rfl
@[simp] theorem Module.count_coll (m : Module) (blk off n : Nat) : (m.count blk off n).coll = m.coll := by
  obtain ⟨v, h⟩ | h := m.count_cases blk off n <;> rw [h]
  rfl
@[simp] theorem Module.count_engs (m : Module) (blk off n : Nat) : (m.count blk off n).engs = m.engs := by
  obtain ⟨v, h⟩ | h := m.count_cases blk off n <;> rw [h]
  rfl
@[simp] theorem Module.count_kern (m : Module) (blk off n : Nat) : (m.count blk off n).kern = m.kern := by
  obtain ⟨v, h⟩ | h := m.count_cases blk off n <;> rw [h]
  rfl
@[simp] theorem Module.count_flt (m : Module) (blk off n : Nat) : (m.count blk off n).flt = m.flt := by
  obtain ⟨v, h⟩ | h := m.count_cases blk off n <;> rw [h]
  rfl
@[simp] theorem Module.count_sec (m : Module) (blk off n : Nat) : (m.count blk off n).sec = m.sec := by
  obtain ⟨v, h⟩ | h := m.count_cases blk off n <;> rw [h]
  rfl
@[simp] theorem Module.count_out (m : Module) (blk off n : Nat) : (m.count blk off n).out = m.out := by
  obtain ⟨v, h⟩ | h := m.count_cases blk off n <;> rw [h]
  rfl
@[simp] theorem Module.count_fresh (m : Module) (blk off n : Nat) : (m.count blk off n).fresh = m.fresh := by
  obtain ⟨v, h⟩ | h := m.count_cases blk off n <;> rw [h]
  rfl

/-! ### The keep file (R6, R510) -/

/-- The stored byte reads back. -/
@[simp] theorem Keep.raw_setRaw_same (k : Keep) (o : Nat) (b : Byte) : (k.setRaw o b).raw o = b := by
  unfold Keep.raw Keep.setRaw
  simp only [Tab.get_put_same]
  by_cases h : b = keepResetByte o <;> simp [h]

/-- Every other byte stays. -/
theorem Keep.raw_setRaw_other (k : Keep) {o x : Nat} (h : x ≠ o) (b : Byte) : (k.setRaw o b).raw x = k.raw x := by
  unfold Keep.raw Keep.setRaw
  simp only [Tab.get_put_other k.bytes h]

@[simp] theorem Keep.setRaw_valid (k : Keep) (o : Nat) (b : Byte) : (k.setRaw o b).valid = k.valid := rfl
@[simp] theorem Keep.setRaw_battGood (k : Keep) (o : Nat) (b : Byte) : (k.setRaw o b).battGood = k.battGood := rfl
@[simp] theorem Keep.setRaw_batLow (k : Keep) (o : Nat) (b : Byte) : (k.setRaw o b).batLow = k.batLow := rfl

/-! ### Waking and originating (R505 to R507, R537) -/

/-- What a wake cause can do: it changes the power state alone. -/
theorem Module.wake_cases (m : Module) (c : Nat) :
    ((m.pwr.lull = 1 ∨ m.pwr.lull = 2) ∧
      m.wake c = { m with pwr := { m.pwr with lull := 3, wakeCause := c, wakeAt := m.ticks } }) ∨ m.wake c = m := by
  unfold Module.wake
  by_cases h : m.pwr.lull = 1 ∨ m.pwr.lull = 2
  · exact .inl ⟨h, by simp [h]⟩
  · exact .inr (by simp [h])

@[simp] theorem Module.wake_regs (m : Module) (c : Nat) : (m.wake c).regs = m.regs := by
  obtain ⟨-, h⟩ | h := m.wake_cases c <;> rw [h]
@[simp] theorem Module.wake_mem (m : Module) (c : Nat) : (m.wake c).mem = m.mem := by
  obtain ⟨-, h⟩ | h := m.wake_cases c <;> rw [h]
@[simp] theorem Module.wake_ports (m : Module) (c : Nat) : (m.wake c).ports = m.ports := by
  obtain ⟨-, h⟩ | h := m.wake_cases c <;> rw [h]
@[simp] theorem Module.wake_dies (m : Module) (c : Nat) : (m.wake c).dies = m.dies := by
  obtain ⟨-, h⟩ | h := m.wake_cases c <;> rw [h]
@[simp] theorem Module.wake_net (m : Module) (c : Nat) : (m.wake c).net = m.net := by
  obtain ⟨-, h⟩ | h := m.wake_cases c <;> rw [h]
@[simp] theorem Module.wake_sens (m : Module) (c : Nat) : (m.wake c).sens = m.sens := by
  obtain ⟨-, h⟩ | h := m.wake_cases c <;> rw [h]
@[simp] theorem Module.wake_keep (m : Module) (c : Nat) : (m.wake c).keep = m.keep := by
  obtain ⟨-, h⟩ | h := m.wake_cases c <;> rw [h]
@[simp] theorem Module.wake_time (m : Module) (c : Nat) : (m.wake c).time = m.time := by
  obtain ⟨-, h⟩ | h := m.wake_cases c <;> rw [h]
@[simp] theorem Module.wake_vane (m : Module) (c : Nat) : (m.wake c).vane = m.vane := by
  obtain ⟨-, h⟩ | h := m.wake_cases c <;> rw [h]
@[simp] theorem Module.wake_trk (m : Module) (c : Nat) : (m.wake c).trk = m.trk := by
  obtain ⟨-, h⟩ | h := m.wake_cases c <;> rw [h]
@[simp] theorem Module.wake_store (m : Module) (c : Nat) : (m.wake c).store = m.store := by
  obtain ⟨-, h⟩ | h := m.wake_cases c <;> rw [h]
@[simp] theorem Module.wake_ord (m : Module) (c : Nat) : (m.wake c).ord = m.ord := by
  obtain ⟨-, h⟩ | h := m.wake_cases c <;> rw [h]
@[simp] theorem Module.wake_coll (m : Module) (c : Nat) : (m.wake c).coll = m.coll := by
  obtain ⟨-, h⟩ | h := m.wake_cases c <;> rw [h]
@[simp] theorem Module.wake_engs (m : Module) (c : Nat) : (m.wake c).engs = m.engs := by
  obtain ⟨-, h⟩ | h := m.wake_cases c <;> rw [h]
@[simp] theorem Module.wake_kern (m : Module) (c : Nat) : (m.wake c).kern = m.kern := by
  obtain ⟨-, h⟩ | h := m.wake_cases c <;> rw [h]
@[simp] theorem Module.wake_flt (m : Module) (c : Nat) : (m.wake c).flt = m.flt := by
  obtain ⟨-, h⟩ | h := m.wake_cases c <;> rw [h]
@[simp] theorem Module.wake_sec (m : Module) (c : Nat) : (m.wake c).sec = m.sec := by
  obtain ⟨-, h⟩ | h := m.wake_cases c <;> rw [h]
@[simp] theorem Module.wake_out (m : Module) (c : Nat) : (m.wake c).out = m.out := by
  obtain ⟨-, h⟩ | h := m.wake_cases c <;> rw [h]
@[simp] theorem Module.wake_fresh (m : Module) (c : Nat) : (m.wake c).fresh = m.fresh := by
  obtain ⟨-, h⟩ | h := m.wake_cases c <;> rw [h]

/-- What originating a packet can do: where the module is READY or in Lull the packet joins the tail of those that wait
for cells, and a module in Lull wakes; elsewhere nothing happens. -/
theorem Module.originate_cases (m : Module) (p : Pkt) (die out : Option Nat) (ev : Bool)
    (outs : List (Option Nat × Hdr)) :
    (m.fabricUp = true ∧ m.originate p die out ev outs =
      ({ m with net := { m.net with orig := m.net.orig ++ [Orig.mk p die out ev outs] } }).wake 1) ∨
    (m.fabricUp = false ∧ m.originate p die out ev outs = m) := by
  unfold Module.originate
  by_cases h : m.fabricUp = true
  · exact .inl ⟨h, by simp [h]⟩
  · exact .inr ⟨by simpa using h, by simp [h]⟩

@[simp] theorem Module.originate_regs (m : Module) (p : Pkt) (die out : Option Nat) (ev : Bool)
    (outs : List (Option Nat × Hdr)) : (m.originate p die out ev outs).regs = m.regs := by
  obtain ⟨-, h⟩ | ⟨-, h⟩ := m.originate_cases p die out ev outs <;> rw [h]
  exact Module.wake_regs _ 1
@[simp] theorem Module.originate_mem (m : Module) (p : Pkt) (die out : Option Nat) (ev : Bool)
    (outs : List (Option Nat × Hdr)) : (m.originate p die out ev outs).mem = m.mem := by
  obtain ⟨-, h⟩ | ⟨-, h⟩ := m.originate_cases p die out ev outs <;> rw [h]
  exact Module.wake_mem _ 1
@[simp] theorem Module.originate_ports (m : Module) (p : Pkt) (die out : Option Nat) (ev : Bool)
    (outs : List (Option Nat × Hdr)) : (m.originate p die out ev outs).ports = m.ports := by
  obtain ⟨-, h⟩ | ⟨-, h⟩ := m.originate_cases p die out ev outs <;> rw [h]
  exact Module.wake_ports _ 1
@[simp] theorem Module.originate_dies (m : Module) (p : Pkt) (die out : Option Nat) (ev : Bool)
    (outs : List (Option Nat × Hdr)) : (m.originate p die out ev outs).dies = m.dies := by
  obtain ⟨-, h⟩ | ⟨-, h⟩ := m.originate_cases p die out ev outs <;> rw [h]
  exact Module.wake_dies _ 1
@[simp] theorem Module.originate_sens (m : Module) (p : Pkt) (die out : Option Nat) (ev : Bool)
    (outs : List (Option Nat × Hdr)) : (m.originate p die out ev outs).sens = m.sens := by
  obtain ⟨-, h⟩ | ⟨-, h⟩ := m.originate_cases p die out ev outs <;> rw [h]
  exact Module.wake_sens _ 1
@[simp] theorem Module.originate_keep (m : Module) (p : Pkt) (die out : Option Nat) (ev : Bool)
    (outs : List (Option Nat × Hdr)) : (m.originate p die out ev outs).keep = m.keep := by
  obtain ⟨-, h⟩ | ⟨-, h⟩ := m.originate_cases p die out ev outs <;> rw [h]
  exact Module.wake_keep _ 1
@[simp] theorem Module.originate_time (m : Module) (p : Pkt) (die out : Option Nat) (ev : Bool)
    (outs : List (Option Nat × Hdr)) : (m.originate p die out ev outs).time = m.time := by
  obtain ⟨-, h⟩ | ⟨-, h⟩ := m.originate_cases p die out ev outs <;> rw [h]
  exact Module.wake_time _ 1
@[simp] theorem Module.originate_vane (m : Module) (p : Pkt) (die out : Option Nat) (ev : Bool)
    (outs : List (Option Nat × Hdr)) : (m.originate p die out ev outs).vane = m.vane := by
  obtain ⟨-, h⟩ | ⟨-, h⟩ := m.originate_cases p die out ev outs <;> rw [h]
  exact Module.wake_vane _ 1
@[simp] theorem Module.originate_trk (m : Module) (p : Pkt) (die out : Option Nat) (ev : Bool)
    (outs : List (Option Nat × Hdr)) : (m.originate p die out ev outs).trk = m.trk := by
  obtain ⟨-, h⟩ | ⟨-, h⟩ := m.originate_cases p die out ev outs <;> rw [h]
  exact Module.wake_trk _ 1
@[simp] theorem Module.originate_store (m : Module) (p : Pkt) (die out : Option Nat) (ev : Bool)
    (outs : List (Option Nat × Hdr)) : (m.originate p die out ev outs).store = m.store := by
  obtain ⟨-, h⟩ | ⟨-, h⟩ := m.originate_cases p die out ev outs <;> rw [h]
  exact Module.wake_store _ 1
@[simp] theorem Module.originate_ord (m : Module) (p : Pkt) (die out : Option Nat) (ev : Bool)
    (outs : List (Option Nat × Hdr)) : (m.originate p die out ev outs).ord = m.ord := by
  obtain ⟨-, h⟩ | ⟨-, h⟩ := m.originate_cases p die out ev outs <;> rw [h]
  exact Module.wake_ord _ 1
@[simp] theorem Module.originate_coll (m : Module) (p : Pkt) (die out : Option Nat) (ev : Bool)
    (outs : List (Option Nat × Hdr)) : (m.originate p die out ev outs).coll = m.coll := by
  obtain ⟨-, h⟩ | ⟨-, h⟩ := m.originate_cases p die out ev outs <;> rw [h]
  exact Module.wake_coll _ 1
@[simp] theorem Module.originate_engs (m : Module) (p : Pkt) (die out : Option Nat) (ev : Bool)
    (outs : List (Option Nat × Hdr)) : (m.originate p die out ev outs).engs = m.engs := by
  obtain ⟨-, h⟩ | ⟨-, h⟩ := m.originate_cases p die out ev outs <;> rw [h]
  exact Module.wake_engs _ 1
@[simp] theorem Module.originate_kern (m : Module) (p : Pkt) (die out : Option Nat) (ev : Bool)
    (outs : List (Option Nat × Hdr)) : (m.originate p die out ev outs).kern = m.kern := by
  obtain ⟨-, h⟩ | ⟨-, h⟩ := m.originate_cases p die out ev outs <;> rw [h]
  exact Module.wake_kern _ 1
@[simp] theorem Module.originate_flt (m : Module) (p : Pkt) (die out : Option Nat) (ev : Bool)
    (outs : List (Option Nat × Hdr)) : (m.originate p die out ev outs).flt = m.flt := by
  obtain ⟨-, h⟩ | ⟨-, h⟩ := m.originate_cases p die out ev outs <;> rw [h]
  exact Module.wake_flt _ 1
@[simp] theorem Module.originate_sec (m : Module) (p : Pkt) (die out : Option Nat) (ev : Bool)
    (outs : List (Option Nat × Hdr)) : (m.originate p die out ev outs).sec = m.sec := by
  obtain ⟨-, h⟩ | ⟨-, h⟩ := m.originate_cases p die out ev outs <;> rw [h]
  exact Module.wake_sec _ 1
@[simp] theorem Module.originate_out (m : Module) (p : Pkt) (die out : Option Nat) (ev : Bool)
    (outs : List (Option Nat × Hdr)) : (m.originate p die out ev outs).out = m.out := by
  obtain ⟨-, h⟩ | ⟨-, h⟩ := m.originate_cases p die out ev outs <;> rw [h]
  exact Module.wake_out _ 1
@[simp] theorem Module.originate_fresh (m : Module) (p : Pkt) (die out : Option Nat) (ev : Bool)
    (outs : List (Option Nat × Hdr)) : (m.originate p die out ev outs).fresh = m.fresh := by
  obtain ⟨-, h⟩ | ⟨-, h⟩ := m.originate_cases p die out ev outs <;> rw [h]
  exact Module.wake_fresh _ 1

/-! ### The operation tracker (R448, R449) -/

/-- A change of one tracker entry leaves every other entry. -/
theorem Module.updEntry_other (m : Module) (h : Nat) (f : TEnt → TEnt) {i : Nat} (hi : i ≠ h % 2 ^ 14) :
    (m.updEntry h f).trk.ents.get i = m.trk.ents.get i :=
  Tab.get_upd_other _ hi _

/-- The entry of the handle is changed, unless its generation no longer matches. -/
theorem Module.updEntry_same (m : Module) (h : Nat) (f : TEnt → TEnt) :
    (m.updEntry h f).trk.ents.get (h % 2 ^ 14) =
      if (m.trk.ents.get (h % 2 ^ 14)).handle == h then f (m.trk.ents.get (h % 2 ^ 14))
      else m.trk.ents.get (h % 2 ^ 14) :=
  Tab.get_upd_same _ _ _

@[simp] theorem Module.updEntry_regs (m : Module) (h : Nat) (f : TEnt → TEnt) : (m.updEntry h f).regs = m.regs := rfl
@[simp] theorem Module.updEntry_mem (m : Module) (h : Nat) (f : TEnt → TEnt) : (m.updEntry h f).mem = m.mem := rfl
@[simp] theorem Module.updEntry_ports (m : Module) (h : Nat) (f : TEnt → TEnt) : (m.updEntry h f).ports = m.ports := rfl
@[simp] theorem Module.updEntry_dies (m : Module) (h : Nat) (f : TEnt → TEnt) : (m.updEntry h f).dies = m.dies := rfl
@[simp] theorem Module.updEntry_net (m : Module) (h : Nat) (f : TEnt → TEnt) : (m.updEntry h f).net = m.net := rfl
@[simp] theorem Module.updEntry_pwr (m : Module) (h : Nat) (f : TEnt → TEnt) : (m.updEntry h f).pwr = m.pwr := rfl
@[simp] theorem Module.updEntry_sens (m : Module) (h : Nat) (f : TEnt → TEnt) : (m.updEntry h f).sens = m.sens := rfl
@[simp] theorem Module.updEntry_keep (m : Module) (h : Nat) (f : TEnt → TEnt) : (m.updEntry h f).keep = m.keep := rfl
@[simp] theorem Module.updEntry_time (m : Module) (h : Nat) (f : TEnt → TEnt) : (m.updEntry h f).time = m.time := rfl
@[simp] theorem Module.updEntry_vane (m : Module) (h : Nat) (f : TEnt → TEnt) : (m.updEntry h f).vane = m.vane := rfl
@[simp] theorem Module.updEntry_store (m : Module) (h : Nat) (f : TEnt → TEnt) : (m.updEntry h f).store = m.store := rfl
@[simp] theorem Module.updEntry_ord (m : Module) (h : Nat) (f : TEnt → TEnt) : (m.updEntry h f).ord = m.ord := rfl
@[simp] theorem Module.updEntry_coll (m : Module) (h : Nat) (f : TEnt → TEnt) : (m.updEntry h f).coll = m.coll := rfl
@[simp] theorem Module.updEntry_engs (m : Module) (h : Nat) (f : TEnt → TEnt) : (m.updEntry h f).engs = m.engs := rfl
@[simp] theorem Module.updEntry_kern (m : Module) (h : Nat) (f : TEnt → TEnt) : (m.updEntry h f).kern = m.kern := rfl
@[simp] theorem Module.updEntry_flt (m : Module) (h : Nat) (f : TEnt → TEnt) : (m.updEntry h f).flt = m.flt := rfl
@[simp] theorem Module.updEntry_sec (m : Module) (h : Nat) (f : TEnt → TEnt) : (m.updEntry h f).sec = m.sec := rfl
@[simp] theorem Module.updEntry_out (m : Module) (h : Nat) (f : TEnt → TEnt) : (m.updEntry h f).out = m.out := rfl
@[simp] theorem Module.updEntry_fresh (m : Module) (h : Nat) (f : TEnt → TEnt) : (m.updEntry h f).fresh = m.fresh := rfl

end Sys2Proof.Machine
end

