-- ==== Sys2Proof/Laws/Tables.lean ====
section
/-!
SUPPORT. Reads of the module's tables after a write: ports with their links and wires, dies, contexts; and what the check
of a tile, a tile written whole and a place of the reserve that is freed can do (R306, R326, R329).
-/
namespace Sys2Proof.Machine

/-! ### Ports -/

@[simp] theorem Module.port_setPort_same (m : Module) (p : Nat) (x : Port) : (m.setPort p x).port p = x :=
  Tab.get_put_same _ _ _
theorem Module.port_setPort_other (m : Module) {p q : Nat} (h : q ≠ p) (x : Port) : (m.setPort p x).port q = m.port q :=
  Tab.get_put_other _ h _

@[simp] theorem Module.link_setLink_same (m : Module) (p : Nat) (x : Link) : (m.setLink p x).link p = x := by
  simp [Module.setLink, Module.link]
theorem Module.link_setLink_other (m : Module) {p q : Nat} (h : q ≠ p) (x : Link) : (m.setLink p x).link q = m.link q := by
  simp only [Module.setLink, Module.link, Module.port_setPort_other m h]
@[simp] theorem Module.wire_setLink (m : Module) (p q : Nat) (x : Link) : (m.setLink p x).wire q = m.wire q := by
  by_cases h : q = p
  · subst h
    simp [Module.setLink, Module.wire]
  · simp only [Module.setLink, Module.wire, Module.port_setPort_other m h]

@[simp] theorem Module.wire_setWire_same (m : Module) (p : Nat) (x : Wire) : (m.setWire p x).wire p = x := by
  simp [Module.setWire, Module.wire]
theorem Module.wire_setWire_other (m : Module) {p q : Nat} (h : q ≠ p) (x : Wire) : (m.setWire p x).wire q = m.wire q := by
  simp only [Module.setWire, Module.wire, Module.port_setPort_other m h]
@[simp] theorem Module.link_setWire (m : Module) (p q : Nat) (x : Wire) : (m.setWire p x).link q = m.link q := by
  by_cases h : q = p
  · subst h
    simp [Module.setWire, Module.link]
  · simp only [Module.setWire, Module.link, Module.port_setPort_other m h]

/-! ### Dies -/

@[simp] theorem Module.die_setDie_same (m : Module) (d : Nat) (x : Die) : (m.setDie d x).die d = x :=
  Tab.get_put_same _ _ _
theorem Module.die_setDie_other (m : Module) {d e : Nat} (h : e ≠ d) (x : Die) : (m.setDie d x).die e = m.die e :=
  Tab.get_put_other _ h _

/-! ### Contexts -/

@[simp] theorem Module.ctx_setCtx_same (m : Module) (h : Nat) (c : Ctx) : (m.setCtx h c).ctx h = c :=
  Tab.get_put_same _ _ _
theorem Module.ctx_setCtx_other (m : Module) {h j : Nat} (hj : j ≠ h) (c : Ctx) : (m.setCtx h c).ctx j = m.ctx j :=
  Tab.get_put_other _ hj _
@[simp] theorem Module.ctx_updCtx_same (m : Module) (h : Nat) (f : Ctx → Ctx) : (m.updCtx h f).ctx h = f (m.ctx h) :=
  Module.ctx_setCtx_same m h _
theorem Module.ctx_updCtx_other (m : Module) {h j : Nat} (hj : j ≠ h) (f : Ctx → Ctx) : (m.updCtx h f).ctx j = m.ctx j :=
  Module.ctx_setCtx_other m hj _
theorem Module.ctx_updPlane_other (m : Module) {h j : Nat} (hj : j ≠ h) (p : Nat) (f : Plane → Plane) :
    (m.updPlane h p f).ctx j = m.ctx j :=
  Module.ctx_updCtx_other m hj _

/-! ### Checks of tiles -/

/-- What the check of a tile can do: nothing, where it holds no error or is poisoned already; it corrects an error of one
symbol and counts it; or it poisons the tile, having raised the controller's source for an uncorrectable ECC error. -/
theorem Module.check1_cases (m : Module) (handle tile k use : Nat) :
    m.check1 handle tile k use = m ∨
    (m.store.damaged.get k = 1 ∧ m.check1 handle tile k use =
      ({ m with store := { m.store with damaged := m.store.damaged.del k } }).count (memBlk (m.unitOf k)) 0x110) ∨
    (m.isPoisoned k = false ∧ (m.check1 handle tile k use = m.poison handle tile k use ∨
      m.check1 handle tile k use =
        (m.raise (if m.unitOf k < 16 then 29 else 34) (memBlk (m.unitOf k)) 0).poison handle tile k use)) := by
  unfold Module.check1
  by_cases h0 : m.store.damaged.get k = 0
  · exact .inl (by simp [h0])
  · by_cases h1 : m.store.damaged.get k = 1
    · exact .inr (.inl ⟨h1, by simp [h1]⟩)
    · by_cases hp : m.isPoisoned k = true
      · exact .inl (by simp [h0, h1, hp])
      · refine .inr (.inr ⟨by simpa using hp, ?_⟩)
        by_cases h2 : m.store.damaged.get k = 2
        · exact .inr (by simp [h2, hp])
        · exact .inl (by simp [h0, h1, h2, hp])

/-- A tile without an error that ECC does not correct passes its check: nothing is poisoned or raised. -/
theorem Module.check1_sound (m : Module) (handle tile k use : Nat) (h : m.store.damaged.get k < 2) :
    (m.check1 handle tile k use).store.poisoned = m.store.poisoned ∧ (m.check1 handle tile k use).flt = m.flt := by
  unfold Module.check1
  by_cases h0 : m.store.damaged.get k = 0
  · simp [h0]
  · have h1 : m.store.damaged.get k = 1 := by omega
    simp [h1]

/-- A tile written whole holds no error and is not poisoned. -/
@[simp] theorem Module.isPoisoned_freshTile (m : Module) (k : Nat) : (m.freshTile k).isPoisoned k = false :=
  Tab.get_del_same _ _
@[simp] theorem Module.freshTile_mem (m : Module) (k : Nat) : (m.freshTile k).mem = m.mem := rfl
@[simp] theorem Module.freshTile_regs (m : Module) (k : Nat) : (m.freshTile k).regs = m.regs := rfl
@[simp] theorem Module.freshTile_coll (m : Module) (k : Nat) : (m.freshTile k).coll = m.coll := rfl
@[simp] theorem Module.freshTile_net (m : Module) (k : Nat) : (m.freshTile k).net = m.net := rfl
@[simp] theorem Module.freshTile_flt (m : Module) (k : Nat) : (m.freshTile k).flt = m.flt := rfl

/-- Freeing a place of the reserve changes nothing where it is not poisoned, and the store alone where it is. -/
theorem Module.freeRes_cases (m : Module) (tile : Nat) :
    (m.isPoisoned (resKey tile) = false ∧ m.freeRes tile = m) ∨
    (m.isPoisoned (resKey tile) = true ∧ m.freeRes tile = { m with store := (m.freeRes tile).store }) := by
  unfold Module.freeRes
  by_cases h : m.isPoisoned (resKey tile) = true
  · exact .inr ⟨h, by simp [h]⟩
  · exact .inl ⟨by simpa using h, by simp [h]⟩

/-- Where no tile of the reserve is poisoned, the end of an event of the collective engine retires none. -/
theorem Module.swept_quiet (m x : Module) (h : ∀ k ∈ x.store.poisoned.keys, k < 2 ^ 48) : m.swept x = x := by
  unfold Module.swept
  rw [if_neg]
  simp only [List.any_eq_true, decide_eq_true_eq, not_exists, not_and, Nat.not_le]
  exact h

end Sys2Proof.Machine
end

