-- ==== Sys2Proof/WellFormed.lean ====
section
/-!
DEFINITION. Which commands are well formed: numbers of ports, dies, engines, entries and blocks within the machine,
fields within their widths, packets and payloads within their lengths.
-/
namespace Sys2Proof

/-- An IPv4 or IPv6 address. -/
def addrOk (a : Bytes) : Bool := a.length == 4 || a.length == 16

/-- A packet: payload within 2,048 bytes; the port it came by, or 256 + e for engine e. -/
def pktOk (p : Pkt) : Bool := p.pl.length ≤ 2048 && p.port.all (· < 384)

/-- A command request. -/
def cmdOk (r : CmdReq) : Bool :=
  r.opcode < 65536 && r.ver < 16 && r.tag < 2 ^ 32 && r.chip < 131072 && r.udp < 65536 && r.body.length ≤ 2048 &&
  r.port < 256 && r.pathLen < 16 && r.path < 2 ^ 64 && (!r.side || addrOk r.addr)

/-- What a start observes. -/
def startOk (i : StartIn) : Bool :=
  i.trainOk < 2 ^ 32 && i.keptOk < 2 ^ 32 && i.training.all (fun t => t.length == 32) && i.dimms.length ≤ 16 &&
  i.badCells.length ≤ 8 && i.badCells.all (·.all (· < 262144)) && i.seed.length ≤ 32 && i.check.length ≤ 16

/-- A sample of the sensors. -/
def sensorOk (i : SensorIn) : Bool :=
  i.oeC.length ≤ 16 && i.stackC.length ≤ 16 && i.feedBad < 65536 && i.laserBad < 4 && i.lanes.all (fun l => l.1 < 1024)

/-- One update of the pace loop. -/
def paceOk (i : PaceIn) : Bool := i.rails.length ≤ 9

/-- Levels of a PAM4 lane. -/
def levelsOk (l : List Nat) : Bool := l.all (· < 4)

/-- A received segment. -/
def segOk (i : SegIn) : Bool :=
  i.lanes.length ≤ 4 && i.lanes.all levelsOk && i.idx < 5

/-- A datagram fragment. -/
def fragOk (f : SbFrag) : Bool := addrOk f.addr && f.udp < 65536 && f.ident < 2 ^ 32

/-- Whether a command is well formed. -/
def wellFormed (i : Instr) : Bool :=
  match i with
  | .standbyPowerOn _ _ => true
  | .coldStart start => startOk start
  | .standbyPowerOff => true
  | .brownout => true
  | .inputRestored start => startOk start
  | .hardwareTrip => true
  | .leakDetected _ _ => true
  | .sensorSample inp => sensorOk inp
  | .batterySample mv => mv < 4096
  | .sidebandLinkChange _ => true
  | .paceUpdate inp => paceOk inp
  | .stickyClear v => v < 32
  | .limitUpdatesClear v => v < 2 ^ 32
  | .syncFifoResume p => p < 256
  | .enable p _ => p < 256
  | .retrain p => p < 256
  | .widthLimit p v => p < 256 && v ≤ 2
  | .downTimerExpiry p => p < 256
  | .tuningDone p => p < 256
  | .lightReceived p => p < 256
  | .lanesLocked p => p < 256
  | .equaliseTimeout p lanes => p < 256 && lanes < 16
  | .frameMarkersFound p lanes frame => p < 256 && lanes.length ≤ 4 && lanes.all levelsOk && frame < 65536
  | .alignTimeout p => p < 256
  | .hello p pk => p < 256 && pktOk pk
  | .switchFrameReached p => p < 256
  | .helloTimeout p => p < 256
  | .swapHoldExpiry p => p < 256
  | .helloTransmit p => p < 256
  | .timeTransmit p txFrame rxFrame tTx tRx =>
    p < 256 && txFrame < 65536 && rxFrame < 65536 && tTx < 2 ^ 64 && tRx < 2 ^ 64
  | .helloLost p => p < 256
  | .segmentReceived p inp => p < 256 && segOk inp
  | .replayTimeout p => p < 256
  | .replayLimitReached p lane => p < 256 && lane < 4
  | .lockLoss p lane => p < 256 && lane < 4
  | .laneSerExceeded p lane ppm => p < 256 && lane < 4 && ppm ≤ 1000000
  | .markerLoss p => p < 256
  | .rerouteQueued p => p < 256
  | .packetArrival p _ => p < 256
  | .mcastReplication _ => true
  | .packetTailArrival p pl _ _ => p < 256 && pl.length ≤ 2048
  | .localDelivery d _ => d < 8
  | .reorderCommit src => src < 131072
  | .windowOffer d => d < 8
  | .gapTimeout src => src < 131072
  | .write p _ => pktOk p
  | .readReq p _ => pktOk p
  | .fetchAdd p _ => pktOk p
  | .fetchAnd p _ => pktOk p
  | .fetchOr p _ => pktOk p
  | .fetchXor p _ => pktOk p
  | .fetchMaxS p _ => pktOk p
  | .fetchMinS p _ => pktOk p
  | .fetchMaxU p _ => pktOk p
  | .fetchMinU p _ => pktOk p
  | .swap p _ => pktOk p
  | .compareSwap p _ => pktOk p
  | .fence p => pktOk p
  | .restartFence p => pktOk p
  | .fenceAckReceived p => pktOk p
  | .headwindReceived p => pktOk p
  | .headwindHoldExpiry d _ => d < 8
  | .egressStart p => p < 256
  | .packetSent p => p < 256
  | .originatedPacketWait _ => true
  | .rebalancerStep d => d < 8
  | .poolConversionDone d => d < 8
  | .recover d => d < 8
  | .calmEntry q => q < 131072 + 8 * 65536
  | .calmHoldExpiry p => p < 256
  | .calmSinkDelivery d _ => d < 8
  | .shaperRefill => true
  | .timingWheelSlot d => d < 8
  | .resetRing d => d < 8
  | .admitSet d mask => d < 8 && mask < 2 ^ 32
  | .counterClear blk off => blk < 8192 && off < 2 ^ 20
  | .cmdArrival p => pktOk p
  | .sidebandDatagram f => fragOk f
  | .reassemblyTimeout _ => true
  | .assemblyTimeout _ => true
  | .eventSend slot => slot < 16
  | .identify r => cmdOk r
  | .keepRead r => cmdOk r
  | .keepWrite r => cmdOk r
  | .portConfig r => cmdOk r
  | .portStatus r => cmdOk r
  | .cablingLoad r => cmdOk r
  | .routeWrite r => cmdOk r
  | .eddySetWrite r => cmdOk r
  | .routeRead r => cmdOk r
  | .pinWrite r => cmdOk r
  | .pinRemove r => cmdOk r
  | .calmWrite r => cmdOk r
  | .partitionConfig r => cmdOk r
  | .vcConfig r => cmdOk r
  | .shaperConfig r => cmdOk r
  | .policerConfig r => cmdOk r
  | .redProfile r => cmdOk r
  | .windsockConfig r => cmdOk r
  | .groupCreate r => cmdOk r
  | .groupMembers r => cmdOk r
  | .groupPlan r => cmdOk r
  | .groupDelete r => cmdOk r
  | .mcastConfig r => cmdOk r
  | .storeCreate r => cmdOk r
  | .storeResize r => cmdOk r
  | .storePlace r => cmdOk r
  | .storeMigrate r => cmdOk r
  | .migrationSegmentDone entry _ => entry < 16384
  | .storeCommit r => cmdOk r
  | .storeSeal r => cmdOk r
  | .sealDigestDone handle _ => handle < 2 ^ 32
  | .storeUnseal r => cmdOk r
  | .storeDigest r => cmdOk r
  | .digestDone handle _ => handle < 2 ^ 32
  | .storeDelete r => cmdOk r
  | .tileRetire r => cmdOk r
  | .scrubTile handle tile _ => handle < 2 ^ 32 && tile < 2 ^ 32
  | .heatHalving => true
  | .programLoad r => cmdOk r
  | .programUnload r => cmdOk r
  | .kernelRun r => cmdOk r
  | .kernelInvoke p => pktOk p
  | .runDispatch d => d < 8
  | .launchReached => true
  | .runTimeLimit e => e < 128
  | .engineAccessDone e _ _ => e < 128
  | .waitcDone e => e < 128
  | .halt e => e < 128
  | .trap e => e < 128
  | .alu e => e < 128
  | .addi e => e < 128
  | .andi e => e < 128
  | .ori e => e < 128
  | .xori e => e < 128
  | .shi e => e < 128
  | .lih e => e < 128
  | .beq e => e < 128
  | .bne e => e < 128
  | .blt e => e < 128
  | .bltu e => e < 128
  | .jmp e => e < 128
  | .loop e => e < 128
  | .rdftc e => e < 128
  | .waitc e => e < 128
  | .verq e => e < 128
  | .ldt e => e < 128
  | .stt e => e < 128
  | .movts e => e < 128
  | .movst e => e < 128
  | .mac e => e < 128
  | .vchain e => e < 128
  | .scan e => e < 128
  | .red e => e < 128
  | .cvt e => e < 128
  | .maskop e => e < 128
  | .mpop e => e < 128
  | .mrange e => e < 128
  | .movm e => e < 128
  | .fenceInstr e => e < 128
  | .acq e => e < 128
  | .emit e => e < 128
  | .tcopy e => e < 128
  | .strm e => e < 128
  | .attnPartial e => e < 128
  | .attnFinal e => e < 128
  | .updateSgdm e => e < 128
  | .updateAdamw e => e < 128
  | .gather e => e < 128
  | .compact e => e < 128
  | .convert e => e < 128
  | .collJoin p => pktOk p
  | .contrib p => pktOk p
  | .collMask p => pktOk p
  | .partialPiece p => pktOk p
  | .anchorUp p => pktOk p
  | .summary p => pktOk p
  | .collGather p => pktOk p
  | .tileStepAdmit d => d < 8
  | .resultTile p => pktOk p
  | .resultMask p => pktOk p
  | .anchorDown p => pktOk p
  | .checked p => pktOk p
  | .complete p => pktOk p
  | .lossNotice p => pktOk p
  | .collAck p => pktOk p
  | .subtreeDone p => pktOk p
  | .failureNotice p => pktOk p
  | .noContextAnswer p => pktOk p
  | .xchgSend p => pktOk p
  | .xchgCarry p => pktOk p
  | .xchgRow p => pktOk p
  | .xchgColumn p => pktOk p
  | .joinTimeout handle => handle < 2 ^ 32
  | .dataTimeout handle plane => handle < 2 ^ 32 && plane < 8
  | .ackTimeout handle plane off => handle < 2 ^ 32 && plane < 8 && off < 2 ^ 47
  | .probeTimer handle plane => handle < 2 ^ 32 && plane < 8
  | .timeSample p pk t1 t4 => p < 256 && pktOk pk && t1 < 2 ^ 64 && t4 < 2 ^ 64
  | .ptpSync inp => addrOk inp.addr
  | .ptpAnnounce addr master => addrOk addr && master.master < 2 ^ 64
  | .ptpMasterLost => true
  | .candidateLoss p => p < 256
  | .sourceSwitch => true
  | .holdoverExpiry => true
  | .acquireTimeout => true
  | .stepNow => true
  | .ppsPulse => true
  | .timeConfig r => cmdOk r
  | .timeStatus r => cmdOk r
  | .powerCap r => cmdOk r
  | .paceConfig r => cmdOk r
  | .lullEnter r => cmdOk r
  | .lullIdleSet r => cmdOk r
  | .lullIdleExpiry => true
  | .lullEntryDone => true
  | .lullWake => true
  | .lullWakeCount => true
  | .wakeComplete => true
  | .resetWarm r start => cmdOk r && startOk start
  | .resetWarmStoreKept r start => cmdOk r && startOk start
  | .resetPort r => cmdOk r
  | .resetCold r start => cmdOk r && startOk start
  | .faultRaise src blk detail => src < 56 && blk < 8192 && detail < 2 ^ 32
  | .graceExpiry => true
  | .faultStatus r => cmdOk r
  | .faultHistory r => cmdOk r
  | .faultClear r => cmdOk r
  | .severitySet r => cmdOk r
  | .attest r => cmdOk r
  | .firmwareStage r => cmdOk r
  | .firmwareActivate r start => cmdOk r && startOk start
  | .ownershipTake r => cmdOk r
  | .ownershipGrant r => cmdOk r
  | .ownershipRevoke r => cmdOk r
  | .opStatus r => cmdOk r
  | .opAbort r => cmdOk r
  | .entryFinish idx => idx < 16384
  | .countersRead r => cmdOk r
  | .regRead r => cmdOk r
  | .regWrite r => cmdOk r
  | .eventSubscribe r => cmdOk r
  | .eventUnsubscribe r => cmdOk r
  | .eventList r => cmdOk r
  | .testModeEnter r => cmdOk r
  | .faultInject r => cmdOk r
  | .candidateAppears p pk => p < 256 && pktOk pk
  | .levelSourceInactive src blk => src < 56 && blk < 8192

end Sys2Proof
end

