-- ==== Sys2Proof/Tests/Slice0.lean ====
section
/-!
SUPPORT. The model's own tests: ill-formed commands that the check refuses, single steps whose results the manual's worked
examples give, and for each statement a state and operands that meet the hypotheses of each of its clauses.
-/
namespace Sys2Proof.Tests
open Sys2Proof.Machine Sys2Proof.Claims

set_option Elab.async false

/-! ### States for the tests -/

/-- A state with nothing waiting. -/
def st (m : Module) : State := { m := m }

/-- A module that is up and running, each die's pool holding 29 free cells. -/
def up : Module :=
  { pwr := { booted := true, main := true, st := 2, supervisors := true, kernels := true, trained := true }
    dies := ⟨(List.range 8).map fun d => (d, { mode := 2, small := List.range 16, medium := [[16, 17, 18, 19]], large := [(List.range 9).map (· + 20)] })⟩ }

/-- The module of a link in a training state. -/
def linkM (p n : Nat) (l : Link := {}) (w : Wire := {}) : Module :=
  { up with ports := up.ports.put p { link := { l with st := n }, wire := w } }

/-- A link-local packet of a kind in W7 with a payload. -/
def local_ (kind : Nat) (pl : Bytes := zeros 64) : Pkt :=
  Pkt.make ({ w0 := BitVec.ofNat 32 (0xF0 * 2 ^ 24 + 131071), w1 := 131071, w7 := BitVec.ofNat 32 kind } : Hdr) pl

def hello0 : Pkt := local_ 2

/-- The same with fields of registers, by block, offset and lowest bit. -/
def withReg (m : Module) (b o l v : Nat) : Module := { m with regs := m.regs.put (regKey b o l) (some (BitVec.ofNat 64 v)) }

/-- The same with a word of the keep file, which is valid. -/
def withKeep (m : Module) (o v : Nat) : Module :=
  { m with keep := { m.keep with valid := true, bytes := (List.range 4).foldl (fun t i => t.put (o + i) (some (BitVec.ofNat 8 (v / 256 ^ (3 - i))))) m.keep.bytes } }

/-- TIME with VALID set. -/
def time0 : Pkt := local_ 3 (zeros 4 ++ [2, 1] ++ zeros 26)

/-- A packet's header, complete: type, VC, destination, source, partition, tag, TYPE_WORD, offset; length `n`. -/
def hd (type vc dest src part : Nat) (n : Nat := 0) (tag tw off : Nat := 0) : Hdr :=
  ((mkHdr type vc dest src part tag tw off).setLen n).sealed

/-- A buffered packet with a copy waiting on a port. -/
def waiting (id p vc : Nat) (h : Hdr) : BPkt :=
  { id := id, die := p / 32, pkt := Pkt.make h [], chain := [1], whole := true, copies := [{ port := p, vc := vc, h := h }] }

/-- A packet of a type for partition 0, from chip 1. -/
def pk (type vc : Nat) (pl : Bytes := []) (tag tw off : Nat := 0) (src : Nat := 1) : Pkt :=
  Pkt.make (mkHdr type vc 7 src 0 tag tw off) pl

/-- An object of four tiles at offset 0, its 16 extents the first of each stack. -/
def obj0 : Obj :=
  { handle := 2 ^ 20, max := 16384, size := 4, segs := [{ a := (List.range 16).map fun u => (u, 0) }] }

/-- The same module with objects. -/
def withObjs (m : Module) (l : List (Nat × Obj)) : Module := { m with store := { m.store with objs := ⟨l⟩ } }

def obj1 : Module := withObjs up [(0, obj0)]

/-- A side-band command of an opcode, its parameters padded to a multiple of 16 bytes. -/
def ask (op : Nat) (l : Bytes := []) : CmdReq :=
  { side := true, opcode := op, tag := 1, addr := [169, 254, 0, 1], body := padTo (max 16 (16 * ceilDiv l.length 16)) l }

/-- The module with a command waiting. -/
def asked (m : Module) (r : CmdReq) : Module :=
  { m with vane := { m.vane with sideQ := if r.side then [r] else [], hostQ := if r.side then [] else [r] } }

/-- A packet buffered on die 0 for a local target, of its source's sequence number `n` where that is not 0. -/
def local1 (vc n : Nat) (h : Hdr := mkHdr 1 vc 7 1 0 0 0) : BPkt :=
  { id := 1, pkt := Pkt.make (if n = 0 then h else (h.setOrdered true).setSeq n) (zeros 16), chain := [1], whole := true, here := true }

/-- That packet at the head of die 0's local targets, beside the window of its source. -/
def arrived (b : BPkt) (x : Src := {}) : Module :=
  { up with net := { pkts := [b] }, dies := up.dies.upd 0 fun d => { d with localQ := [1] }, ord := { srcs := ⟨[(1, x)]⟩ } }

/-- A datagram in one fragment, carrying a command with 16 zero bytes of parameters. -/
def frag (op : Nat) : SbFrag :=
  let p := Pkt.make ((mkHdr 0x20 1 131071 131071 0 1 (op + 0x10000)).setMode 0) (zeros 16)
  { addr := [169, 254, 0, 1], total := 56, data := p.h.bytes ++ p.pl ++ beBytes 4 p.t0.toNat ++ zeros 4 }

/-- A command waits whose reply is cached. -/
def repeated : Module :=
  { asked up (ask 0x0101) with vane := { (asked up (ask 0x0101)).vane with sideCache := [{ tag := 1, opcode := 0x0101, body := (ask 0x0101).body }] } }

/-- An object with a job open on it. -/
def withJob (j : Job) : Module :=
  { withObjs up [(0, { obj0 with job := some j })] with trk := { ents := ⟨[(0, { handle := j.entry, kind := 4, st := 1 })]⟩ } }

/-- The same with a poisoned tile. -/
def poison1 (m : Module) (t : Nat) : Module :=
  { m with store := { m.store with poisoned := ⟨[(m.present (m.obj 0) t, true)]⟩ } }

/-- Engine 127 at the first of some program words, with a run. -/
def eng1 (w : List Nat) (r : Run := {}) (x : Engine := {}) (m : Module := obj1) : Module :=
  { m with engs := ⟨[(127, { x with run := some { r with slot := 5 } })]⟩
           kern := { progs := ⟨[(5, { used := true, words := w.map (BitVec.ofNat 32) })]⟩ } }

/-- Scalar register 1 of an engine. -/
def s1 (v : Nat) : Engine := { s := 0 :: BitVec.ofNat 64 v :: List.replicate 30 0 }

/-- The module with an open tracker entry of a kind at index 0. -/
def withEnt (m : Module) (kind : Nat) (side : Bool := true) : Module :=
  { m with trk := { ents := ⟨[(0, { handle := 5 * 2 ^ 14, kind := kind, st := 1, side := side })]⟩ } }

/-- Engine 127 with a run of a built-in kernel. -/
def kern1 (code : Nat) (r : Run) : Module :=
  { withEnt obj1 2 with engs := ⟨[(127, { run := some r })]⟩, kern := { progs := ⟨[(5, { used := true, builtin := code })]⟩ } }

/-- A run of the program in slot 5 with parameters. -/
def run5 (l : List Nat) : Run :=
  { handle := 5 * 2 ^ 14, slot := 5, desc := { params := l.map (BitVec.ofNat 64) } }

/-- Its packet FENCE_ACK. -/
def ack (tag : Nat) (pl : Bytes := []) : Pkt := pk 7 3 pl tag 0

/-- A program of one HALT, loaded in slot 5, its digest `d`. -/
def prog1 (d : Bytes) (m : Module := obj1) : Module :=
  { m with kern := { progs := ⟨[(5, { used := true, digest := d, words := [0] })]⟩ } }

/-- PROGRAM_LOAD of one instruction, by the digest of its image. -/
def loadOf (w : Nat) : CmdReq :=
  ask 0x0701 (shake256 (beBytes 4 w) 32 ++ [0, 0, 0, 1, 0, 0, 0, 0, 0, 1] ++ zeros 6 ++ beBytes 4 w)

def loadCmd : CmdReq := loadOf 0
def badLoad : CmdReq := loadOf (2 * 2 ^ 26 + 31)

/-- A run descriptor of the program with digest 0, no writes, on partition 0; its KERNEL_INVOKE and KERNEL_RUN on die 7,
and what they ask for. -/
def desc0 : Bytes := zeros 304
def invoke0 : Pkt := pk 0x30 3 desc0 0 7
def run0 : CmdReq := ask 0x0703 ([0, 0, 7] ++ zeros 13 ++ desc0)
def descI : Desc :=
  (descOf invoke0.pl invoke0.h.part invoke0.h.src invoke0.h.tag (if bits invoke0.h.tw 7 5 = 0 then 3 else bits invoke0.h.tw 7 5)
    (bitAt invoke0.h.tw 4) false).getD default
def descC : Desc :=
  (descOf (run0.body.drop 16) (run0.u 0 2) run0.master run0.tag 3 (bitAt (run0.u 2 1) 4) true).getD default

theorem some_getD {o : Option Desc} (h : o.isSome = true) : o = some (o.getD default) := by
  cases o with
  | none => cases h
  | some d => rfl

theorem make_good (h : Hdr) (pl : Bytes) : (Pkt.make h pl).good = true := by
  have z : bitAt 0 0 = false := by decide
  simp [Pkt.good, Pkt.make, z]

/-- Context 3 of group 5: a module with a parent (chip 9), a child (chip 8) and a local member (chip 1 on port 4). -/
def h1 : Nat := 5 * 65536 + 3
def plan1 : Plan := { parent := 9, kids := [{ chip := 8, lo := 1, hi := 1 }], locals := [{ chip := 1, port := 4 }] }

/-- A signature: operation, formats and COUNT, launching at 2^40, of member 0. -/
def sig1 (op fmt count : Nat) : Bytes :=
  [0, 0, 0, 0, BitVec.ofNat 8 op, 0, BitVec.ofNat 8 fmt, 0] ++ beBytes 8 count ++ zeros 12 ++ beBytes 8 (2 ^ 40) ++ zeros 12

def ctx1 (sg : Bytes) (y : Plane := { on := true }) (x : Plan := plan1) : Ctx :=
  { used := true, handle := h1, group := 5, seq := 3, n := 2, sig := some sg, launched := false,
    plans := ⟨[(0, some x)]⟩, planes := [y] }

def grp1 : Group := { used := true, n := 2, low := 3, plans := ⟨[(0, some plan1)]⟩ }

/-- The module with that group, and with a context where one is given. -/
def coll1 (c : Option Ctx) (g : Group := grp1) : Module :=
  { (withKeep up 0x008 7) with coll := { groups := ⟨[(5, g)]⟩, ctxs := ⟨(c.map fun c => (h1, c)).toList⟩ } }

/-- A collective packet: type, TAG, TYPE_WORD, offset, source chip, arrival port. -/
def cpk (type tag tw off src : Nat) (port : Nat) (pl : Bytes := []) : Pkt :=
  { Pkt.make (mkHdr type 2 7 src 0 tag tw off) pl with port := some port }

theorem cpk_good (type tag tw off src port : Nat) (pl : Bytes) : (cpk type tag tw off src port pl).good = true :=
  make_good (mkHdr type 2 7 src 0 tag tw off) pl

def int32 (op : Nat) : Bytes := sig1 op 0x22 512
def fp32 (op : Nat) : Bytes := sig1 op 0x44 512

/-- The one bit of the number 4. -/
theorem one_bit {k : Nat} (h : bitAt 4 k = true) : 2 = k := by
  rcases k with _ | _ | _ | k
  · simp [bitAt] at h
  · simp [bitAt] at h
  · rfl
  · have l : 4 < 2 ^ (k + 3) := by have := Nat.one_le_two_pow (n := k); rw [pow_add]; omega
    simp [bitAt, Nat.div_eq_of_lt l] at h

/-- Link `p` in a training state with received words. -/
def rxM (p n : Nat) (k : Pkt) (w : Wire := {}) : Module := linkM p n {} { w with rxq := pktBytes k }

/-- A module and a packet that the taking of a link-local packet answers. -/
def took (m : Module) (p sub : Nat) : Module × Pkt := (m.takeLocal p sub).getD (m, {})

/-- Lane 0 at the marker, with the symbols of a frame's head. -/
def marked : List (List Nat) := [markerLevels]

theorem rests_of {m : Module}
    (k : (m.coll.ctxs.cells.all fun c => c.2.planes.all fun y => y.steps.all fun x => !x.sent) = true) :
    ∀ h, ∀ y ∈ (m.ctx h).planes, ∀ x ∈ y.steps, x.sent = false := by
  intro h y hy x hx
  unfold Module.ctx Tab.get at hy
  generalize m.coll.ctxs.cells = l at k hy
  induction l with
  | nil => cases hy
  | cons a l ih =>
    simp only [List.all_cons, Bool.and_eq_true] at k
    unfold lookupCell at hy
    split at hy
    · have z := k.1
      simp only [List.all_eq_true] at z
      simpa using z y hy x hx
    · exact ih k.2 hy

/-- An object with a seal or a digest open on it. -/
def withDig (j : Job) : Module :=
  { withObjs up [(0, { obj0 with dig := some j })] with trk := { ents := ⟨[(0, { handle := j.entry, kind := 4, st := 1 })]⟩ } }

theorem quiet1 {p n q : Nat} (l : Link) (w : Wire) (h : q ≠ p) : ((linkM p n l w).link q).st < 3 := by
  have d : (default : Port).link.st < 3 := by decide
  simp only [linkM, up, Module.link, Module.port, Tab.get, Tab.put]
  split <;> simp_all [insertCell, eraseCell, lookupCell, Ne.symm h]

theorem nojob1 (p n : Nat) (l : Link) (w : Wire) (i : Nat) :
    ((linkM p n l w).obj i).job = none ∧ ((linkM p n l w).obj i).dig = none := ⟨rfl, rfl⟩

/-- The codeword of a lane that ends a segment of zeros: four symbols before the last 308 complete its CRC-32C. -/
def endSyms4 : List Nat := [44, 783, 354, 96]
def endWord : List Nat := List.replicate 202 0 ++ (endSyms4 ++ (List.replicate 308 0 ++
  [539, 894, 939, 314, 917, 507, 122, 522, 629, 334, 787, 528, 928, 905, 707, 676, 749, 646, 991, 651, 355, 702, 436, 537,
    181, 856, 93, 749, 902, 41]))

theorem endWord_decodes : rsDecode endWord = some (endWord, 0) := rsDecode_of (by decide +kernel) (by decide +kernel)

theorem scramSeg_eq : scramSeg = 16646662 := by
  rw [scramSeg, show 131456 = 8 * 16432 from rfl, show 128 = 8 * 16 from rfl, ← scramRun_eq, ← scramRun_eq]
  decide +kernel

theorem endBytes_eq : endBytes endSyms4 = [0xaf, 0x0b, 0x16, 0xf7] := by
  have e : scramEnd = 1222320376 := by
    rw [scramEnd, scramSeg_eq, show 65760 = 8 * 8220 from rfl, ← scramRun_eq]
    decide +kernel
  rw [endBytes, e, scramBits_eq]
  decide +kernel

theorem endCrc : beNat (endBytes endSyms4) = (crc32c (scramBytes 8220 scramSeg)).toNat := by
  rw [endBytes_eq, scramSeg_eq, crc_scramBytes]
  decide +kernel

/-- A link at width 1, and segment 2 of a frame as its lane 0 brings it. -/
def endM : Module := linkM 0 6 { lanes := 1 }
def endSeg : SegIn := { lanes := [endLane endWord], idx := 2 }

theorem endSeg_read (f : Nat) : endM.readSeg 0 f endSeg = readLanes 2 [0] [endLane endWord] := by
  have x : endM.rxLanes 0 f = (false, [0]) := rfl
  have d : endM.deskewed 0 endSeg 0 = endLane endWord := by
    simp only [Module.deskewed, endSeg]
    rfl
  simp only [Module.readSeg, x, d, List.map_cons, List.map_nil, Bool.false_eq_true, if_false]
  rfl

theorem endSeg_good (f : Nat) : (endM.readSeg 0 f endSeg).bad = false ∧ (endM.readSeg 0 f endSeg).h.seqValid = true := by
  have r := readLanes_end (t := endWord.drop 206) (by decide +kernel) (by decide +kernel) (by decide +kernel) (by decide +kernel)
    endWord_decodes (by decide +kernel) endCrc
  rw [endBytes_eq, scramSeg_eq] at r
  rw [endSeg_read]
  exact ⟨r.1, r.2.trans (by decide +kernel)⟩

theorem unit_up {m : Module} (h : m.flt.fenced = 0) (u : Nat) : m.unitDown u = false := by
  simp [Module.unitDown, Module.dieFenced, h, bitAt]

/-- The module after a command. -/
def after (c : Instr) (m : Module) : Module :=
  match exec c (st m) with
  | .next t => t.m
  | _ => m

/-! ### Well-formed commands, and an ill-formed one for each check -/

/-- Numbers of ports, dies, engines, blocks, entries, lanes, slots and planes outside the machine. -/
theorem test_ill_formed_units :
    [Instr.enable 256 true, .widthLimit 0 3, .equaliseTimeout 0 16, .frameMarkersFound 0 [[4]] 0, .replayLimitReached 0 4,
     .laneSerExceeded 0 0 1000001, .recover 8, .admitSet 0 (2 ^ 32), .counterClear 8192 0, .counterClear 0 (2 ^ 20),
     .headwindHoldExpiry 8 0, .calmEntry 655360, .gapTimeout 131072, .eventSend 16, .migrationSegmentDone 16384 {},
     .sealDigestDone (2 ^ 32) {}, .scrubTile 0 (2 ^ 32) {}, .halt 128, .entryFinish 16384,
     .dataTimeout 0 8, .ackTimeout 0 0 (2 ^ 47), .faultRaise 56 0 0, .faultRaise 0 8192 0, .faultRaise 0 0 (2 ^ 32),
     .levelSourceInactive 56 0, .stickyClear 32, .limitUpdatesClear (2 ^ 32), .batterySample 4096,
     .timeTransmit 0 65536 0 0 0, .timeTransmit 0 0 65536 0 0,
     .timeTransmit 0 0 0 (2 ^ 64) 0, .timeTransmit 0 0 0 0 (2 ^ 64), .timeSample 0 {} (2 ^ 64) 0,
     .timeSample 0 {} 0 (2 ^ 64), .frameMarkersFound 0 [] 65536].all (fun i => !wellFormed i) = true := by decide +kernel

/-- Packets, requests, datagrams, samples and starts outside their lengths and widths. -/
theorem test_ill_formed_contents :
    [Instr.fence { pl := zeros 2049 }, .fence { port := some 384 }, .packetTailArrival 256 [] 0 0,
     .packetTailArrival 0 (zeros 2049) 0 0, .hello 0 { pl := zeros 2049 }, .timeSample 0 { pl := zeros 2049 } 0 0,
     .candidateAppears 0 { pl := zeros 2049 },
     .identify { opcode := 65536 }, .identify { ver := 16 }, .identify { tag := 2 ^ 32 }, .identify { chip := 131072 },
     .identify { udp := 65536 }, .identify { body := zeros 2049 }, .identify { port := 256 }, .identify { pathLen := 16 },
     .identify { path := 2 ^ 64 }, .identify { side := true, addr := [1] }, .sidebandDatagram { addr := [1] },
     .sidebandDatagram { addr := zeros 4, ident := 2 ^ 32 }, .ptpSync { addr := [] }, .ptpAnnounce (zeros 4) { master := 2 ^ 64 },
     .coldStart { trainOk := 2 ^ 32 }, .coldStart { training := [[]] }, .coldStart { dimms := List.replicate 17 (0, 0) },
     .coldStart { badCells := [[262144]] }, .sensorSample { oeC := List.replicate 17 0 }, .sensorSample { laserBad := 4 },
     .sensorSample { lanes := [(1024, 0)] }, .paceUpdate { rails := List.replicate 10 {} },
     .segmentReceived 0 { idx := 5 }, .segmentReceived 0 { lanes := [[4]] },
     .resetCold {} { bankA := true, keptOk := 2 ^ 32 }].all (fun i => !wellFormed i) = true := by decide +kernel

theorem test_well_formed :
    [Instr.enable 255 true, .widthLimit 255 2, .fence (pk 6 3), .identify (ask 0x0101), .sidebandDatagram (frag 0x0101),
     .coldStart {}, .sensorSample {}, .paceUpdate {}, .halt 127, .shaperRefill].all wellFormed = true := by decide +kernel

/-! ### The manual's worked examples -/

/-- *One port in both trees*: the blocks of port P200 and of engine 77. -/
theorem test_blocks : (pgBlk 200, portBlk 200, engBlk 77) = (0x0601, 0x1408, 0x041D) := by decide

/-- *A WRITE on the wire*: the header of an ordered WRITE of 32 bytes. -/
def wire0 : Pkt :=
  Pkt.make (((mkHdr 1 3 1043 515 42 0x1C2D 0 0x3A400800).setOrdered true).setSeq 7) ((List.range 32).map (BitVec.ofNat 8))

theorem test_write_on_the_wire : wire0.h.words = [0x01600413, 0x40000203, 0x02A1FFFF, 0x00070200, 0x55740000, 0x3A400800,
    0x00001C2D, 0] ∧ wire0.t0 = 0x46DD794E := by decide +kernel

/-- The same after the first module forwards it. -/
theorem test_forwarded_header : (wire0.h.setHop 1).sealed.check = 0x5474 := by decide +kernel

/-- *A Directed command two hops out*: the egress port, PATH and HOP_COUNT at M1, and PATH of the reply from M3. -/
theorem test_directed_hop :
    (match (up.decide 4 0 (((mkHdr 0x20 1 131071 600 0 0 0).setMode 2).setHop 2 |>.setPath 0x89F1000000000000) (some 12) true).2 with
      | .port q _ h => (q, h.path, h.hop)
      | _ => (0, 0, 0)) = (137, 0xF10000000000000C, 1) ∧ replyPath 2 0x0C8E = 0x8E0C000000000000 := by decide +kernel

/-- *An entry, a failed port and a Calm escape*: the fields of a route entry. -/
theorem test_route_entry :
    let e := 0x001F909493929190
    ((List.range 4).map (rePort e), reFail e, reCalm e, reN e) = ([0x90, 0x91, 0x92, 0x93], 0x94, 0x90, 3) ∧
    (reValid e, reFailValid e, reCalmValid e, reHash e, reDiscard e) = (true, true, true, false, false) := by decide +kernel

/-- *A 400 Gb/s shaper*: SHAPER_CONFIG fills it to 1,048,576 sixteenths. -/
theorem test_shaper_fills :
    let r := ask 0x0403 ([32, 0, 0, 0] ++ beBytes 4 0x9582 ++ beBytes 4 819200 ++ beBytes 4 65536)
    let x := (after (.shaperConfig r) (asked up r)).net.shapers.get 8192
    (x.on, x.incr, x.tokens) = (true, 819200, 1048576) := by decide +kernel

/-- *Chunk sizes, examples*. -/
theorem test_chunk_sizes : [(fBf16, fFp32), (fFp32, fBf16), (fInt8, fInt32), (fB4, fB8), (fBf16, fB8)].map
    (fun f => Red.chunk { inF := f.1, outF := f.2 }) = [1024, 1024, 2048, 3968, 31744] := by decide +kernel

/-- *Two-pass BF16 sum with a flushed element*: the anchors of X and of Y, the conversions, and the results. -/
def bf16 : Red := { inF := fBf16, outF := fBf16, n := 3 }
def bf16M1 : Bytes := [0x49, 0x40, 0x80, 0x3F] ++ zeros 124
def bf16M2 : Bytes := [0xA0, 0xC0, 0x80, 0x3B] ++ zeros 124
def bf16M3 : Bytes := [0x80, 0x2B, 0x00, 0x3B] ++ zeros 124
def bf16Sum (i : Nat) : PEl :=
  [bf16M1, bf16M2, bf16M3].foldl (fun a t => joinEl bf16 a (elemPart bf16 [0x82] t none i).1) {}

theorem test_bf16_anchors :
    (maxAnchors (anchorsOf bf16 bf16M1 none 64) (anchorsOf bf16 bf16M2 none 64), anchorsOf bf16 bf16M3 none 64) =
      ([0x82], [0x77]) := by decide +kernel

theorem test_bf16_sum :
    ((elemPart bf16 [0x82] bf16M3 none 0).2.flush, (bf16Sum 0).v, (bf16Sum 1).v) = (1, [-119 * 2 ^ 32], [0x4060000000]) ∧
    (List.range 2).map (fun i => (floatElem bf16 8 (floatExact bf16 [0x82] i (bf16Sum i))).1) = [0xBFEE, 0x3F81] := by
  decide +kernel

/-- *INT8 sum re-quantised to INT8*: element values and SAT of element 0. -/
theorem test_int8_sum :
    let r : Red := { inF := fInt8, outF := fInt8, word := 1, n := 3 }
    [256, 5, -5, -257].map (fun x => (intElem r { pres := true, v := [x] })) =
      [(127, { sat := 1 }), (2, {}), (-2, {}), (-128, {})] := by decide +kernel

/-- *SOFTMAX_MERGE of two partials*: the merged record, and FLUSH of the second partial. -/
theorem test_softmax_merge :
    let r : Red := { op := 7, inF := fSmx, outF := fSmx, word := 2 * 256, n := 2 }
    let p1 := [5, 0x180000000, 0x200000000, 0xFFFFFFFF40000000].flatMap (leBytes 8)
    let p2 := [3, 0x100000001, 0xC0000002, 1].flatMap (leBytes 8)
    let a := maxAnchors (anchorsOf r p1 none 1) (anchorsOf r p2 none 1)
    let e := [p1, p2].foldl (fun z t => joinEl r z (elemPart r a t none 0).1) {}
    (smxRecord r a 0 e).1 = [5, 0x1C0000000, 0x230000000, -0xC0000000] ∧ (elemPart r a p2 none 0).2.flush = 1 := by
  decide +kernel

/-- *From offset to stack*: tile 2,279 of a spread segment with h = 5 lies on H12, in slot 142. -/
theorem test_spread_place : up.store.placeOf 5 {} 2279 = (12, 142) := by decide +kernel

/-- *The sum of positive elements*: the program's words are legal. -/
theorem test_program_legal :
    imageLegal [0x8B680000, 0x1CC20020, 0x8C013000, 0x0CE20000, 0x24400007, 0x48400000, 0x5C8D8200, 0x44400000, 0x1A000000,
      0, 0x38E0FFFB, 0x65190000, 0x55080000, 0x4D032000, 0] = true := by decide +kernel

/-- SHI of that program: s6 becomes the count shifted up by 32. -/
theorem test_shi :
    ((after (.shi 127) (eng1 [0x1CC20020] {} { s := 0 :: 0 :: 5 :: List.replicate 29 0 })).eng 127).rd 6 = 0x500000000 := by
  decide +kernel

/-- BEQ of that program, taken: to word 11 from word 4. -/
theorem test_beq : ((after (.beq 127) (eng1 [0, 0, 0, 0, 0x24400007] {} { pc := 4 })).eng 127).pc = 11 := by decide +kernel

/-- LOOP of that program at its last pass: the next word, s7 at 0. -/
theorem test_loop :
    let x := (after (.loop 127) (eng1 [0x38E0FFFB] {} { s := List.replicate 7 0 ++ 1 :: List.replicate 24 0 })).eng 127
    (x.pc, x.rd 7) = (1, 0) := by decide +kernel

/-- *exp2 of −0.498046875*, and of −0.5. -/
theorem test_exp2 : [0xBEFF0000, 0xBF000000].map (fun v => exBits (exExp2 (fpIn v).1).1) = [0x3F3543BA, 0x3F3504F3] := by
  decide +kernel

/-- *One sample*: S is 12 units ahead. -/
theorem test_time_sample :
    let k := local_ 3 (zeros 4 ++ [2, 1, 0, 0] ++ beBytes 8 0x100C294 ++ beBytes 8 0x1002654 ++ zeros 8)
    let w : Wire := { txFrames := [(0, 0x1000000)], rxFrames := [(0, 0x100E8D0)] }
    let m := { withKeep (rxM 5 6 k w) 0x018 2 with time := { st := 2, source := some 5 } }
    (after (.timeSample 5 k 0x1000000 0x100E8D0) m).time.offset = 12 := by decide +kernel

/-- *A laser feed fault on OE5*, steps 1 to 3: the record, the merge at 40 ms, and the fence of OE5. -/
def laser1 : Module := after (.faultRaise 3 0x0D10 0) { up with flt := { num := 0x26 } }
def laser2 : Module := after (.faultRaise 2 (portBlk 82) 0) { laser1 with time := { laser1.time with ftc := ms 40 } }

theorem test_laser_feed :
    (laser1.flt.cur.map fun r => (r.num, r.sev, r.deadline)) = some (0x27, 2, ms 1000) ∧
    (laser2.flt.cur.map fun r => (r.sources, r.sev, r.deadline)) = some (0x0C, 2, ms 1040) := by decide +kernel

theorem test_laser_fence :
    let m := after .graceExpiry laser2
    (m.flt.cur.map fun r => (r.step, r.fenced, r.deadline)) = some (1, 0x2000, ms 2040) := by decide +kernel

/-- *The first keep-file write*: the chip number and the coordinates apply, and the keep file is valid. -/
theorem test_first_keep_write :
    let r := ask 0x0103 ([0, 0, 0, 0x50] ++ zeros 12 ++ [0, 0, 0x413, 0x30205, 2, 0x1130, 2, 0, 0x1000, 0, 0, 0, 0, 0, 0, 0,
      0x258, 0x1FFFF, 0x1FFFF, 0x1FFFF].flatMap (beBytes 4))
    let m := after (.keepWrite r) (asked up r)
    (m.chip, m.coord, m.keep.valid, m.isHost 600, m.fabricEn) = (1043, 0x30205, true, true, true) := by decide +kernel

/-! ### The block -/

/-- From reset a step with no command waiting counts the FTC (log entry 7). -/
theorem test_idle_step : (match step State.reset with | .next t => t.m.now | _ => 0) = 1 := by decide +kernel

/-- The command put in front runs, and leaves the queue; no row of the table has bits, so no word spells one. -/
theorem test_front_command :
    (match step { State.reset with pending := [.leakDetected true false, .heatHalving] } with
      | .next t => (t.pending, t.m.sens.leakLow)
      | _ => ([], false)) = ([.heatHalving], true) ∧ decodeTableWord 8 0 = none := by decide +kernel

/-- R135: the single bit changed in a cell of the packet that leaves is corrected and counted. -/
theorem test_ecc_corrected :
    let b : BPkt := { id := 1, whole := true, chain := [7], copies := [{ begun := true }] }
    let m := { linkM 0 6 {} { sending := some 1 } with net := { pkts := [b] }, dies := ⟨[(0, { mode := 2, soft := [7, 8] })]⟩ }
    (after (.packetSent 0) m).reg (swBlk 0 4) 0x120 0 = 1 := by decide +kernel

/-! ### A state and operands that meet the hypotheses of each clause of each statement -/

theorem witness_StepRunsTheFrontCommand :
    ∃ (c : Instr) (l : List Instr) (s : State), s.pending = c :: l :=
  ⟨.heatHalving, [.shaperRefill], { pending := [.heatHalving, .shaperRefill] }, by decide +kernel⟩

theorem witness_IdleStepCountsTheFtc :
    (∃ (s : State), s.pending = [] ∧
     let NoJob : Prop := ∀ i, (s.m.obj i).job = none ∧ (s.m.obj i).dig = none
     s.m.pwr.standby = true ∧ (∀ q, (s.m.link q).st < 3) ∧ NoJob) ∧
    (∃ (s : State), s.pending = [] ∧ s.m.pwr.standby = false) ∧
    (∃ (s : State), ∃ p, s.pending = [] ∧
     let Quiet (p : Nat) : Prop := ∀ q, q ≠ p → (s.m.link q).st < 3
     let NoJob : Prop := ∀ i, (s.m.obj i).job = none ∧ (s.m.obj i).dig = none
     p < 256 ∧ 3 ≤ (s.m.link p).st ∧ s.m.pwr.standby = true ∧ Quiet p ∧ NoJob ∧ Canon s.m ∧ s.m.time.ftc + 1 < 2 ^ 64 ∧
     s.m.time.stepSum ≤ s.m.time.ftc ∧ (s.m.wire p).segAt ≤ s.m.ticks + 1) ∧
    (∃ (s : State), ∃ p, s.pending = [] ∧
     let Quiet (p : Nat) : Prop := ∀ q, q ≠ p → (s.m.link q).st < 3
     let NoJob : Prop := ∀ i, (s.m.obj i).job = none ∧ (s.m.obj i).dig = none
     p < 256 ∧ 3 ≤ (s.m.link p).st ∧ s.m.pwr.standby = true ∧ Quiet p ∧ NoJob ∧ Canon s.m ∧ s.m.time.ftc + 1 < 2 ^ 64 ∧
     s.m.time.stepSum ≤ s.m.time.ftc ∧ (s.m.wire p).segAt ≤ s.m.ticks + 1 ∧ (s.m.link p).st = 3) ∧
    (∃ (s : State), ∃ p, s.pending = [] ∧
     let Quiet (p : Nat) : Prop := ∀ q, q ≠ p → (s.m.link q).st < 3
     let NoJob : Prop := ∀ i, (s.m.obj i).job = none ∧ (s.m.obj i).dig = none
     p < 256 ∧ 3 ≤ (s.m.link p).st ∧ s.m.pwr.standby = true ∧ Quiet p ∧ NoJob ∧ Canon s.m ∧ s.m.time.ftc + 1 < 2 ^ 64 ∧
     s.m.time.stepSum ≤ s.m.time.ftc ∧ (s.m.wire p).segAt ≤ s.m.ticks + 1 ∧ (s.m.link p).st = 6 ∧
     (s.m.wire p).sending = none ∧ (s.m.wire p).replay.length < 128 ∧ s.m.pwr.lull ≤ 1) :=
  ⟨⟨st up,
    by exact ⟨by decide +kernel, by decide +kernel, fun _ => (by decide : (default : Port).link.st < 3), fun _ => ⟨rfl, rfl⟩⟩⟩,
   ⟨st { up with pwr := { up.pwr with standby := false } }, by decide +kernel⟩,
   ⟨st (linkM 0 6 {} {}), 0,
    by exact ⟨by decide +kernel, by decide +kernel, by decide +kernel, by decide +kernel, fun _ h => quiet1 _ _ h, nojob1 _ _ _ _, by unfold Canon; decide +kernel, by decide +kernel, by decide +kernel, by decide +kernel⟩⟩,
   ⟨st (linkM 0 3 {} {}), 0,
    by exact ⟨by decide +kernel, by decide +kernel, by decide +kernel, by decide +kernel, fun _ h => quiet1 _ _ h, nojob1 _ _ _ _, by unfold Canon; decide +kernel, by decide +kernel, by decide +kernel, by decide +kernel, by decide +kernel⟩⟩,
   ⟨st (linkM 0 6 {} {}), 0,
    by exact ⟨by decide +kernel, by decide +kernel, by decide +kernel, by decide +kernel, fun _ h => quiet1 _ _ h, nojob1 _ _ _ _, by unfold Canon; decide +kernel, by decide +kernel, by decide +kernel, by decide +kernel, by decide +kernel, by decide +kernel, by decide +kernel, by decide +kernel⟩⟩⟩

theorem witness_CommandsRunInTurn :
    ∃ (c : Instr) (n k : Module), exec c { pending := [], m := n } = .next { pending := [], m := k } :=
  ⟨.heatHalving, up, heatHalving up, by rfl⟩

theorem witness_StepKeepsTablesCanonical :
    ∃ (s t : State), Canon s.m ∧ step s = .next t :=
  ⟨{ pending := [.heatHalving], m := up }, { m := heatHalving up }, by exact ⟨by unfold Canon; decide +kernel, rfl⟩⟩

theorem witness_TrainingAdvances :
    (∃ (s : State) (p : Nat), LinkIn s.m p 0 ∧ s.m.enabled p = true ∧ (s.m.link p).isolated = false ∧
     s.m.pwr.trained = true) ∧
    (∃ (s : State) (p : Nat), LinkIn s.m p 0 ∧ s.m.pwr.trained = false) ∧
    (∃ (s : State) (p : Nat), LinkIn s.m p 1) ∧
    (∃ (s : State) (p : Nat), LinkIn s.m p 1 ∧ (s.m.link p).tuned = true) ∧
    (∃ (s : State) (p : Nat), LinkIn s.m p 2) ∧
    (∃ (s : State) (p lanes : Nat), LinkIn s.m p 2 ∧ lanes % 16 ≠ 0) ∧
    (∃ (frame : Nat) (levels : List (List Nat)), ∃ k,
     let places := (levels.take 4).map fun x => markerAt x 0
     let carried (k : Nat) : Nat := frameNumAt (levels.getD ((places.idxOf? (some k)).getD 0) []) k
     (places.filterMap id).min? = some k ∧ carried k ≠ frame) ∧
    (∃ (s : State) (p frame : Nat) (levels : List (List Nat)), ∃ k,
     let places := (levels.take 4).map fun x => markerAt x 0
     let carried (k : Nat) : Nat := frameNumAt (levels.getD ((places.idxOf? (some k)).getD 0) []) k
     LinkIn s.m p 3 ∧ (places.filterMap id).min? = some k ∧ carried k = frame) :=
  ⟨⟨st (withReg (linkM 255 0) (portBlk 255) 0 0 1), 255, by dsimp only [LinkIn]; decide +kernel⟩,
   ⟨st { linkM 255 0 with pwr := { up.pwr with trained := false } }, 255, by dsimp only [LinkIn]; decide +kernel⟩,
   ⟨st (linkM 0 1 {} {}), 0, by dsimp only [LinkIn]; decide +kernel⟩,
   ⟨st (linkM 0 1 { tuned := true } {}), 0, by dsimp only [LinkIn]; decide +kernel⟩,
   ⟨st (linkM 0 2 {} {}), 0, by dsimp only [LinkIn]; decide +kernel⟩,
   ⟨st (linkM 0 2 {} {}), 0, 1, by dsimp only [LinkIn]; decide +kernel⟩,
   ⟨frameNumAt markerLevels 0 + 1, marked, 0, by dsimp only; decide +kernel⟩,
   ⟨st (linkM 255 3 {} {}), 255, frameNumAt markerLevels 0, marked, 0, by dsimp only [LinkIn]; decide +kernel⟩⟩

theorem witness_LinksGoDownOrRetrain :
    (∃ (s : State) (p lanes : Nat), LinkIn s.m p 2 ∧ lanes % 16 = 0) ∧
    (∃ (s : State) (p : Nat), LinkIn s.m p 3) ∧
    (∃ (s : State) (p : Nat), LinkIn s.m p 4) ∧
    (∃ (s : State) (p : Nat), LinkIn s.m p 6) ∧
    (∃ (s : State) (p : Nat), ∃ st, (st = 5 ∨ st = 7) ∧ LinkIn s.m p st) ∧
    (∃ (s : State) (p : Nat), ∃ st, (st = 3 ∨ st = 4) ∧ LinkIn s.m p st) ∧
    (∃ (s : State) (p : Nat), ∃ st, 0 < st ∧ LinkIn s.m p st) ∧
    (∃ (s : State) (p : Nat), (LinkIn s.m p 6 ∨ LinkIn s.m p 7)) ∧
    (∃ (s : State) (p v : Nat), (LinkIn s.m p 6 ∨ LinkIn s.m p 7) ∧ v < 3 ∧ s.m.reg (portBlk p) 0 3 ≠ v) ∧
    (∃ (s : State) (p lane : Nat), LinkIn s.m p 6 ∧ lane < 4) ∧
    (∃ (s : State) (p lane ppm : Nat), LinkIn s.m p 6 ∧ lane < 4 ∧ s.m.reg (portBlk p) 0x048 0 < ppm) ∧
    (∃ (s : State) (p : Nat), LinkIn s.m p 6 ∧ s.m.reg (portBlk p) 0x044 10 ≤ (s.m.wire p).replays) :=
  ⟨⟨st (linkM 0 2 {} {}), 0, 16, by dsimp only [LinkIn]; decide +kernel⟩,
   ⟨st (linkM 0 3 {} {}), 0, by dsimp only [LinkIn]; decide +kernel⟩,
   ⟨st (linkM 255 4 {} {}), 255, by dsimp only [LinkIn]; decide +kernel⟩,
   ⟨st (linkM 0 6 {} {}), 0, by dsimp only [LinkIn]; decide +kernel⟩,
   ⟨st (linkM 0 5 {} {}), 0, 5, by dsimp only [LinkIn]; decide +kernel⟩,
   ⟨st (linkM 0 3 {} {}), 0, 3, by dsimp only [LinkIn]; decide +kernel⟩,
   ⟨st (linkM 0 1 {} {}), 0, 1, by dsimp only [LinkIn]; decide +kernel⟩,
   ⟨st (linkM 0 6 {} {}), 0, by dsimp only [LinkIn]; decide +kernel⟩,
   ⟨st (linkM 0 7 {} {}), 0, 2, by dsimp only [LinkIn]; decide +kernel⟩,
   ⟨st (linkM 0 6 {} {}), 0, 3, by dsimp only [LinkIn]; decide +kernel⟩,
   ⟨st (linkM 0 6 {} {}), 0, 0, 1000000, by dsimp only [LinkIn]; decide +kernel⟩,
   ⟨st (linkM 0 6 {} { replays := 100000 }), 0, by dsimp only [LinkIn]; decide +kernel⟩⟩

theorem witness_HelloAndCheck :
    (∃ (s : State) (p : Nat) (k : Pkt) (n : Module), ∃ pk, s.m.takeLocal p 2 = some (n, k) ∧ pk ≠ k) ∧
    (∃ (s : State) (p : Nat) (k : Pkt) (n : Module), ∃ st, s.m.takeLocal p 2 = some (n, k) ∧ 4 ≤ st ∧ LinkIn s.m p st ∧
     linkLocalOk k = false) ∧
    (∃ (s : State) (p : Nat) (k : Pkt) (n : Module), s.m.takeLocal p 2 = some (n, k) ∧ LinkIn s.m p 4 ∧
     linkLocalOk k = true) ∧
    (∃ (s : State) (p : Nat) (k : Pkt) (n : Module), s.m.takeLocal p 2 = some (n, k) ∧ LinkIn s.m p 7 ∧
     linkLocalOk k = true) ∧
    (∃ (s : State) (p : Nat), ∃ f g, LinkIn s.m p 4 ∧ (s.m.link p).nb.echoed = true ∧ (s.m.link p).nb.mySwitch = some f ∧
     (s.m.link p).nb.peerSwitch = some g ∧ frameReached f (s.m.wire p).txFrame = true ∧
     frameReached g (s.m.wire p).rxFrame = true) ∧
    (∃ (s : State) (p : Nat), ∃ st t, (st = 5 ∨ st = 6) ∧ LinkIn s.m p st ∧ (s.m.link p).holdUntil = some t) ∧
    (∃ (s : State) (p : Nat), ∃ st, 5 ≤ st ∧ LinkIn s.m p st ∧ (s.m.link p).nb.lost = false) :=
  ⟨⟨st (rxM 0 4 (hello0) {}), 0, (took (rxM 0 4 (hello0) {}) 0 2).2, (took (rxM 0 4 (hello0) {}) 0 2).1, {},
    by decide +kernel⟩,
   ⟨st (rxM 0 4 ({ hello0 with t1 := 5 }) {}), 0, (took (rxM 0 4 ({ hello0 with t1 := 5 }) {}) 0 2).2,
    (took (rxM 0 4 ({ hello0 with t1 := 5 }) {}) 0 2).1, 4, by dsimp only [LinkIn]; decide +kernel⟩,
   ⟨st (rxM 0 4 (hello0) {}), 0, (took (rxM 0 4 (hello0) {}) 0 2).2, (took (rxM 0 4 (hello0) {}) 0 2).1,
    by dsimp only [LinkIn]; decide +kernel⟩,
   ⟨st (rxM 0 7 (hello0) {}), 0, (took (rxM 0 7 (hello0) {}) 0 2).2, (took (rxM 0 7 (hello0) {}) 0 2).1,
    by dsimp only [LinkIn]; decide +kernel⟩,
   ⟨st (linkM 0 4 { nb := { echoed := true, mySwitch := some 7, peerSwitch := some 9 } } { txFrame := 8, rxFrame := 9 }),
    0, 7, 9, by dsimp only [LinkIn]; decide +kernel⟩,
   ⟨st (linkM 0 5 { holdUntil := some 9 } {}), 0, 5, 9, by dsimp only [LinkIn]; decide +kernel⟩,
   ⟨st (linkM 255 7 {} {}), 255, 7, by dsimp only [LinkIn]; decide +kernel⟩⟩

theorem witness_SegmentsMoveInOrder :
    (∃ (s : State) (p : Nat), ∃ st, 4 ≤ st ∧ LinkIn s.m p st) ∧
    (∃ (s : State) (p a b t u : Nat), ∃ st, 6 ≤ st ∧ LinkIn s.m p st ∧ (a, t) ∈ (s.m.wire p).txFrames ∧
     (b, u) ∈ (s.m.wire p).rxFrames) ∧
    (∃ (s : State) (p a b t u : Nat), ((a, t) ∉ (s.m.wire p).txFrames ∨ (b, u) ∉ (s.m.wire p).rxFrames)) ∧
    (∃ (s : State) (p : Nat), ∃ st, 4 ≤ st ∧ LinkIn s.m p st ∧ (s.m.wire p).replay ≠ []) ∧
    (∃ (s : State) (p st : Nat) (i : SegIn), 4 ≤ st ∧ LinkIn s.m p st ∧ (s.m.link p).isolated = false ∧
     let w := s.m.wire p
     let r := s.m.readSeg p (if i.idx = 0 then (w.rxFrame + 1) % 65536 else w.rxFrame) i
     r.bad = true) ∧
    (∃ (s : State) (p st : Nat) (i : SegIn), 4 ≤ st ∧ LinkIn s.m p st ∧ (s.m.link p).isolated = false ∧
     let w := s.m.wire p
     let r := s.m.readSeg p (if i.idx = 0 then (w.rxFrame + 1) % 65536 else w.rxFrame) i
     r.bad = false ∧ r.h.seqValid = true) ∧
    (∃ (s : State) (p : Nat), ∃ st, LinkIn s.m p st) ∧
    (∃ (s : State) (p : Nat), p < 256 ∧ s.m.pwr.main = true) :=
  ⟨⟨st (linkM 0 4 {} {}), 0, 4, by dsimp only [LinkIn]; decide +kernel⟩,
   ⟨st (linkM 0 6 {} { txFrames := [(1, 5)], rxFrames := [(2, 6)] }), 0, 1, 2, 5, 6, 6,
    by dsimp only [LinkIn]; decide +kernel⟩,
   ⟨st up, 0, 1, 2, 5, 6, by decide +kernel⟩,
   ⟨st (linkM 0 7 {} { replay := [{}] }), 0, 7, by dsimp only [LinkIn]; decide +kernel⟩,
   ⟨st (linkM 0 4 {} {}), 0, 4, {}, by dsimp only [LinkIn]; decide +kernel⟩,
   ⟨st endM, 0, 6, endSeg, by exact ⟨by decide, ⟨by decide +kernel, by decide +kernel⟩, by decide +kernel, endSeg_good _⟩⟩,
   ⟨st (linkM 0 6 {} { paused := true }), 0, 6, by dsimp only [LinkIn]; decide +kernel⟩,
   ⟨st up, 255, by decide +kernel⟩⟩

theorem witness_DomainsComeAndGo :
    (∃ (s : State), s.m.pwr.standby = false) ∧
    (∃ (s : State), s.m.pwr.standby = true) ∧
    (∃ (s : State), s.m.pwr.standby = true ∧ s.m.pwr.booted = false) ∧
    (∃ (s : State), s.m.pwr.standby = true) ∧
    (∃ (s : State), s.m.pwr.standby = true ∧ s.m.pwr.inputOk = false) ∧
    (∃ (s : State), s.m.pwr.standby = true ∧ s.m.pwr.hwTrip = false) :=
  ⟨⟨st { pwr := { standby := false } }, by decide +kernel⟩,
   ⟨State.reset, by decide +kernel⟩,
   ⟨State.reset, by decide +kernel⟩,
   ⟨st up, by decide +kernel⟩,
   ⟨st { up with pwr := { up.pwr with inputOk := false } }, by decide +kernel⟩,
   ⟨st up, by decide +kernel⟩⟩

theorem witness_SensorsDriveLevelSources :
    (∃ (s : State), s.m.pwr.standby = true) ∧
    (∃ (s : State) (own board : Bool), s.m.pwr.standby = true ∧ (own || board) = true) :=
  ⟨⟨State.reset, by decide +kernel⟩,
   ⟨State.reset, true, false, by decide +kernel⟩⟩

theorem witness_PaceLoopStaysWithinLimits :
    (∃ (s : State), s.m.pwr.main = true ∧ (∀ r ∈ s.m.pwr.railMv, 620 ≤ r ∧ r ≤ 860) ∧ (∀ t ∈ s.m.pwr.throttle, t ≤ 7)) ∧
    (∃ (s : State), s.m.pwr.standby = true) ∧
    (∃ (s : State) (v : Nat), s.m.pwr.standby = true ∧ v ≠ 0) :=
  ⟨⟨st up, by decide +kernel⟩,
   ⟨State.reset, by decide +kernel⟩,
   ⟨State.reset, 4294967295, by decide +kernel⟩⟩

theorem witness_LullEntryAndWake :
    (∃ (s : State), s.m.pwr.st = 2 ∧ s.m.pwr.lull = 0 ∧ s.m.reg (mgtBlk 6) 0x308 0 ≠ 0 ∧ s.m.quiet = true) ∧
    (∃ (s : State), s.m.pwr.lull = 1 ∧ s.m.net.pkts = [] ∧ s.m.net.orig = []) ∧
    (∃ (s : State), (s.m.pwr.lull = 1 ∨ s.m.pwr.lull = 2) ∧ s.m.pwr.standby = true) ∧
    (∃ (s : State) (t : Nat) (l : List Nat), (s.m.pwr.lull = 1 ∨ s.m.pwr.lull = 2) ∧
     sortBy id (s.m.launches.filter (· != 0)) = t :: l) ∧
    (∃ (s : State), s.m.pwr.lull = 3) :=
  ⟨⟨st (withReg up (mgtBlk 6) 0x308 0 5), by decide +kernel⟩,
   ⟨st { up with pwr := { up.pwr with lull := 1 } }, by decide +kernel⟩,
   ⟨st { up with pwr := { up.pwr with lull := 1 } }, by decide +kernel⟩,
   ⟨st (withReg { up with pwr := { up.pwr with lull := 2 } } (mgtBlk 6) 0x310 0 77), 77, [], by decide +kernel⟩,
   ⟨st { up with pwr := { up.pwr with lull := 3 } }, by decide +kernel⟩⟩

theorem witness_TimePacketsSteerTheFtc :
    (∃ (s : State) (p st : Nat) (k : Pkt) (n : Module), ∃ pk, 4 ≤ st ∧ LinkIn s.m p st ∧ s.m.takeLocal p 3 = some (n, k) ∧
     pk ≠ k) ∧
    (∃ (s : State) (p st : Nat) (k : Pkt) (n : Module), 4 ≤ st ∧ LinkIn s.m p st ∧
     let unnamed := stampOf (s.m.wire p).txFrames (fieldBE k.pl 2 2) = none ∨ stampOf (s.m.wire p).rxFrames (fieldBE k.pl 0 2) = none
     s.m.takeLocal p 3 = some (n, k) ∧ linkLocalOk k = false ∧ unnamed) ∧
    (∃ (s : State) (p st : Nat) (k : Pkt) (n : Module), 4 ≤ st ∧ LinkIn s.m p st ∧ s.m.takeLocal p 3 = some (n, k) ∧
     linkLocalOk k = false) ∧
    (∃ (s : State) (p st : Nat) (k : Pkt) (n : Module), 4 ≤ st ∧ LinkIn s.m p st ∧ s.m.takeLocal p 3 = some (n, k) ∧
     linkLocalOk k = true) ∧
    (∃ (s : State) (p st : Nat) (k : Pkt) (n : Module), 4 ≤ st ∧ LinkIn s.m p st ∧
     let unnamed := stampOf (s.m.wire p).txFrames (fieldBE k.pl 2 2) = none ∨ stampOf (s.m.wire p).rxFrames (fieldBE k.pl 0 2) = none
     s.m.takeLocal p 3 = some (n, k) ∧ linkLocalOk k = true ∧ unnamed) ∧
    (∃ (s : State) (p st : Nat), ∃ t, 4 ≤ st ∧ LinkIn s.m p st ∧ (s.m.port p).timeAt = some t) ∧
    (∃ (s : State) (i : PtpIn), s.m.reg (mgtBlk 2) 0x010 0 ≠ 0 ∧ s.m.pwr.standby = true ∧ s.m.ptpEn = true ∧
     s.m.time.ptpMaster.isSome = true ∧ s.m.sideAllowed i.addr = true ∧ i.domain = s.m.keep.field 0x018 9 3 ∧
     i.transport = s.m.keep.field 0x018 11 10 ∧ s.m.time.source = some 256 ∧ s.m.time.st = 2) ∧
    (∃ (s : State) (p st a b : Nat) (k : Pkt) (n : Module), s.m.reg (mgtBlk 2) 0x010 0 ≠ 0 ∧
     let de2 : Int := ((b : Int) - a) - ((fieldBE k.pl 8 8 : Int) - fieldBE k.pl 16 8)
     let Names : Prop := s.m.takeLocal p 3 = some (n, k) ∧ linkLocalOk k = true ∧ s.m.time.source = some p ∧ s.m.time.st = 2 ∧ stampOf (s.m.wire p).txFrames (fieldBE k.pl 2 2) = some a ∧ stampOf (s.m.wire p).rxFrames (fieldBE k.pl 0 2) = some b
     4 ≤ st ∧ LinkIn s.m p st ∧ Names ∧ s.m.time.deltas ≠ [] ∧
     (2 * de2 - median2 s.m.time.deltas < -128 ∨ 128 < 2 * de2 - median2 s.m.time.deltas)) ∧
    (∃ (s : State) (p a b : Nat) (k : Pkt) (n : Module), s.m.reg (mgtBlk 2) 0x010 0 ≠ 0 ∧
     let de2 : Int := ((b : Int) - a) - ((fieldBE k.pl 8 8 : Int) - fieldBE k.pl 16 8)
     let Names : Prop := s.m.takeLocal p 3 = some (n, k) ∧ linkLocalOk k = true ∧ s.m.time.source = some p ∧ s.m.time.st = 2 ∧ stampOf (s.m.wire p).txFrames (fieldBE k.pl 2 2) = some a ∧ stampOf (s.m.wire p).rxFrames (fieldBE k.pl 0 2) = some b
     LinkIn s.m p 6 ∧ Names ∧ s.m.fabricEn = true ∧ bitAt (fieldBE k.pl 5 1) 0 = true ∧
     fieldBE k.pl 4 1 < s.m.reg (mgtBlk 2) 0x008 0 ∧
     (s.m.time.deltas = [] ∨ (-128 ≤ 2 * de2 - median2 s.m.time.deltas ∧ 2 * de2 - median2 s.m.time.deltas ≤ 128))) :=
  ⟨⟨st (rxM 0 6 (time0) {}), 0, 6, (took (rxM 0 6 (time0) {}) 0 3).2, (took (rxM 0 6 (time0) {}) 0 3).1, {},
    by dsimp only [LinkIn]; decide +kernel⟩,
   ⟨st (rxM 0 4 ({ time0 with t1 := 5 }) {}), 0, 4, (took (rxM 0 4 ({ time0 with t1 := 5 }) {}) 0 3).2,
    (took (rxM 0 4 ({ time0 with t1 := 5 }) {}) 0 3).1, by dsimp only [LinkIn]; decide +kernel⟩,
   ⟨st (rxM 0 4 ({ time0 with t1 := 5 }) {}), 0, 4, (took (rxM 0 4 ({ time0 with t1 := 5 }) {}) 0 3).2,
    (took (rxM 0 4 ({ time0 with t1 := 5 }) {}) 0 3).1, by dsimp only [LinkIn]; decide +kernel⟩,
   ⟨st (rxM 0 6 (time0) {}), 0, 6, (took (rxM 0 6 (time0) {}) 0 3).2, (took (rxM 0 6 (time0) {}) 0 3).1,
    by dsimp only [LinkIn]; decide +kernel⟩,
   ⟨st (rxM 0 6 (time0) {}), 0, 6, (took (rxM 0 6 (time0) {}) 0 3).2, (took (rxM 0 6 (time0) {}) 0 3).1,
    by dsimp only [LinkIn]; decide +kernel⟩,
   ⟨st { up with ports := up.ports.put 3 { link := { st := 6 }, timeAt := some 0 } }, 3, 6, 0,
    by dsimp only [LinkIn]; decide +kernel⟩,
   ⟨st { (withKeep up 0x018 3) with time := { st := 2, source := some 256, ptpMaster := some 9 } },
    { addr := [169, 254, 0, 1] }, by decide +kernel⟩,
   ⟨st ({ withKeep (rxM 5 6 time0 ({ txFrames := [(0, 0)], rxFrames := [(0, 1000)] })) 0x018 2 with time := { st := 2, source := some 5, deltas := [0] } }),
    5, 6, 0, 1000,
    (took ({ withKeep (rxM 5 6 time0 ({ txFrames := [(0, 0)], rxFrames := [(0, 1000)] })) 0x018 2 with time := { st := 2, source := some 5, deltas := [0] } }) 5 3).2,
    (took ({ withKeep (rxM 5 6 time0 ({ txFrames := [(0, 0)], rxFrames := [(0, 1000)] })) 0x018 2 with time := { st := 2, source := some 5, deltas := [0] } }) 5 3).1,
    by dsimp only [LinkIn]; decide +kernel⟩,
   ⟨st ({ withKeep (rxM 5 6 time0 ({ txFrames := [(0, 0)], rxFrames := [(0, 1000)] })) 0x018 2 with time := { st := 2, source := some 5 } }),
    5, 0, 1000,
    (took ({ withKeep (rxM 5 6 time0 ({ txFrames := [(0, 0)], rxFrames := [(0, 1000)] })) 0x018 2 with time := { st := 2, source := some 5 } }) 5 3).2,
    (took ({ withKeep (rxM 5 6 time0 ({ txFrames := [(0, 0)], rxFrames := [(0, 1000)] })) 0x018 2 with time := { st := 2, source := some 5 } }) 5 3).1,
    by dsimp only [LinkIn]; decide +kernel⟩⟩

theorem witness_TimeSourcesAndSteps :
    (∃ (s : State) (addr : Bytes) (i : PtpAnn), s.m.pwr.standby = true ∧ s.m.ptpEn = true ∧ s.m.sideAllowed addr = true ∧
     i.domain = s.m.keep.field 0x018 9 3 ∧ i.transport = s.m.keep.field 0x018 11 10) ∧
    (∃ (s : State) (i : PtpAnn), s.m.pwr.standby = true ∧
     (i.domain ≠ s.m.keep.field 0x018 9 3 ∨ i.transport ≠ s.m.keep.field 0x018 11 10)) ∧
    (∃ (s : State), s.m.pwr.standby = true) ∧
    (∃ (s : State) (x t : Nat), s.m.pwr.standby = true ∧ s.m.time.better = some (x, t) ∧ s.m.candidate x = true) ∧
    (∃ (s : State), s.m.pwr.standby = true ∧ s.m.time.st = 3) ∧
    (∃ (s : State), s.m.pwr.standby = true ∧ s.m.time.st = 1 ∧ s.m.time.source = none) ∧
    (∃ (s : State), s.m.pwr.standby = true ∧ s.m.reg (mgtBlk 2) 0x018 0 = 0) ∧
    (∃ (s : State), s.m.pwr.standby = true ∧ s.m.reg (mgtBlk 2) 0x018 0 ≠ 0) ∧
    (∃ (s : State), s.m.pwr.standby = true ∧ s.m.reg (mgtBlk 2) 0x000 3 = 0) ∧
    (∃ (s : State), s.m.pwr.standby = true ∧ s.m.reg (mgtBlk 2) 0x000 3 ≠ 0 ∧ s.m.sens.pps = true) ∧
    (∃ (s : State), s.m.pwr.standby = true ∧ s.m.reg (mgtBlk 2) 0x000 3 ≠ 0 ∧ s.m.sens.pps = false) :=
  ⟨⟨st (withKeep up 0x018 3), [169, 254, 0, 1], { master := 9 }, by decide +kernel⟩,
   ⟨State.reset, { domain := 1 }, by decide +kernel⟩,
   ⟨State.reset, by decide +kernel⟩,
   ⟨st { (withKeep up 0x018 3) with time := { ptpMaster := some 9, better := some (256, 4) } }, 256, 4, by decide +kernel⟩,
   ⟨st { (up) with time := { st := 3 } }, by decide +kernel⟩,
   ⟨st { (up) with time := { st := 1 } }, by decide +kernel⟩,
   ⟨State.reset, by decide +kernel⟩,
   ⟨st (withReg up (mgtBlk 2) 0x018 0 9), by decide +kernel⟩,
   ⟨State.reset, by decide +kernel⟩,
   ⟨st { (withReg up (mgtBlk 2) 0x000 3 1) with sens := { pps := true } }, by decide +kernel⟩,
   ⟨st (withReg up (mgtBlk 2) 0x000 3 1), by decide +kernel⟩⟩

theorem witness_RaisesOpenOrMerge :
    (∃ (s : State) (src blk detail : Nat), s.m.pwr.standby = true ∧ (s.m.pwr.main = true ∨ standbySource src = true) ∧
     src < 56 ∧ isLevel src = false ∧
     let hub := (s.m.die (detail / 32 % 8)).hubOut.find? fun x => x.1 == detail % 32
     let cell := s.m.net.pkts.find? fun b => b.die == blk / 256 && b.chain.contains detail
     (src = 10 → hub = none) ∧ (src = 11 → cell = none) ∧ s.m.flt.cur = none) ∧
    (∃ (s : State) (src blk detail : Nat), ∃ r, s.m.pwr.standby = true ∧
     (s.m.pwr.main = true ∨ standbySource src = true) ∧ src < 56 ∧ isLevel src = false ∧
     let hub := (s.m.die (detail / 32 % 8)).hubOut.find? fun x => x.1 == detail % 32
     let cell := s.m.net.pkts.find? fun b => b.die == blk / 256 && b.chain.contains detail
     (src = 10 → hub = none) ∧ (src = 11 → cell = none) ∧ s.m.flt.cur = some r) ∧
    (∃ (s : State) (src blk detail : Nat), ∃ b, s.m.pwr.standby = true ∧
     (s.m.pwr.main = true ∨ standbySource src = true) ∧ src < 56 ∧ isLevel src = false ∧
     let hub := (s.m.die (detail / 32 % 8)).hubOut.find? fun x => x.1 == detail % 32
     let cell := s.m.net.pkts.find? fun b => b.die == blk / 256 && b.chain.contains detail
     s.m.bp b.id = some b ∧ ((src = 10 ∧ ∃ y, hub = some y ∧ y.2.1 = b.id) ∨ (src = 11 ∧ cell = some b))) :=
  ⟨⟨st up, 2, 0, 0, by dsimp only; decide +kernel⟩,
   ⟨st { up with flt := { cur := some {} } }, 55, 0, 0, {}, by dsimp only; decide +kernel⟩,
   ⟨st { up with net := { pkts := [waiting 1 0 1 {}] } }, 11, 3, 1, waiting 1 0 1 {}, by dsimp only; decide +kernel⟩⟩

theorem witness_LevelsAndEscalation :
    (∃ (s : State) (src : Nat), s.m.pwr.standby = true ∧ (s.m.pwr.main = true ∨ standbySource src = true) ∧ src < 56 ∧
     isLevel src = true) ∧
    (∃ (s : State) (r : Rec), s.m.flt.cur = some r ∧ r.deadline ≠ 0 ∧ r.acked = false ∧ s.m.pwr.main = true ∧
     s.m.pwr.lull = 0) ∧
    (∃ (s : State) (r : Rec), s.m.flt.cur = some r ∧ r.deadline ≠ 0 ∧ r.acked = false ∧ s.m.pwr.main = true ∧
     (s.m.pwr.lull = 1 ∨ s.m.pwr.lull = 2)) ∧
    (∃ (s : State) (r : Rec), s.m.flt.cur = some r ∧ s.m.pwr.main = false) :=
  ⟨⟨State.reset, 38, by decide +kernel⟩,
   ⟨st { up with flt := { cur := some { deadline := 5 } } }, { deadline := 5 }, by decide +kernel⟩,
   ⟨st { { up with pwr := { up.pwr with lull := 2 } } with flt := { cur := some { deadline := 5 } } }, { deadline := 5 },
    by decide +kernel⟩,
   ⟨st { flt := { cur := some { deadline := 5 } } }, { deadline := 5 }, by decide +kernel⟩⟩

theorem witness_ArrivalsTakeCells :
    (∃ (s : State) (p : Nat) (h : Hdr), ∃ g, s.m.rxHead p = some h ∧ NothingDue s.m ∧ g ≠ h) ∧
    (∃ (s : State) (p : Nat) (h : Hdr), s.m.rxHead p = some h ∧ NothingDue s.m ∧ LinkIn s.m p 6 ∧ h.type = 0xF0 ∧
     h.tw % 256 = 1 ∧ localHdrOk h = true) ∧
    (∃ (s : State) (p : Nat) (h : Hdr), s.m.rxHead p = some h ∧ NothingDue s.m ∧ LinkIn s.m p 5 ∧ h.type ≠ 0xF0) ∧
    (∃ (s : State) (p : Nat) (h : Hdr), s.m.rxHead p = some h ∧ NothingDue s.m ∧ LinkIn s.m p 6 ∧
     (s.m.die (p / 32)).mode = 2 ∧ s.m.dieFenced (p / 32) = false ∧ h.type ≠ 0xF0 ∧ s.m.inLookup p = false ∧
     (s.m.ingressFail p h ≠ 0 ∨ (s.m.die (p / 32)).freeCells < h.cells)) ∧
    (∃ (s : State) (p : Nat) (h : Hdr), s.m.rxHead p = some h ∧ NothingDue s.m ∧ LinkIn s.m p 6 ∧
     (s.m.die (p / 32)).mode = 2 ∧ s.m.dieFenced (p / 32) = false ∧ h.type ≠ 0xF0 ∧ s.m.inLookup p = false ∧
     s.m.ingressFail p h = 0 ∧ h.cells ≤ (s.m.die (p / 32)).freeCells ∧ h.mode ≠ 2 ∧ h.vc ≠ 0 ∧ h.type ≠ 0x15 ∧
     s.m.isOwn h.dest = true) :=
  ⟨⟨st (rxM 0 6 (local_ 1 [])), 0, (local_ 1 []).h, {}, by dsimp only [NothingDue]; decide +kernel⟩,
   ⟨st (rxM 0 6 (local_ 1 [])), 0, (local_ 1 []).h, by dsimp only [LinkIn, NothingDue]; decide +kernel⟩,
   ⟨st (rxM 0 5 (Pkt.make (hd 1 3 7 1 5) [])), 0, (Pkt.make (hd 1 3 7 1 5) []).h,
    by dsimp only [LinkIn, NothingDue]; decide +kernel⟩,
   ⟨st (rxM 0 6 ({ Pkt.make (hd 1 3 7 1 5) [] with h := { hd 1 3 7 1 5 with w6 := 1 } })), 0,
    ({ Pkt.make (hd 1 3 7 1 5) [] with h := { hd 1 3 7 1 5 with w6 := 1 } }).h,
    by dsimp only [LinkIn, NothingDue]; decide +kernel⟩,
   ⟨st (withKeep (rxM 0 6 (Pkt.make (hd 1 3 7 1 5) (zeros 16))) 0x008 7), 0, (Pkt.make (hd 1 3 7 1 5) (zeros 16)).h,
    by dsimp only [LinkIn, NothingDue]; decide +kernel⟩⟩

theorem witness_TrailersAndMulticast :
    (∃ (s : State) (p : Nat), p < 256 ∧ s.m.pwr.main = true ∧ s.m.pwr.st ≠ 4 ∧
     let q := (s.m.wire p).rxq
     (s.m.wire p).filling = true ∧ 8 ≤ q.length) ∧
    (∃ (s : State) (p id : Nat) (b : BPkt), ∃ pl t0 t1, p < 256 ∧ s.m.pwr.main = true ∧ s.m.pwr.st ≠ 4 ∧
     let q := (s.m.wire p).rxq
     let n := b.pkt.h.len
     let k : Pkt := { b.pkt with pl := q.take n, t0 := BitVec.ofNat 32 (fieldBE q n 4), t1 := BitVec.ofNat 32 (fieldBE q (n + 4) 4) }
     (s.m.wire p).filling = false ∧ (s.m.wire p).arriving = some id ∧ s.m.bp id = some b ∧ b.mcast = false ∧
     b.mark = none ∧ n + 8 ≤ q.length ∧ (pl, t0, t1) ≠ (k.pl, k.t0, k.t1)) ∧
    (∃ (s : State) (p id : Nat) (b : BPkt), p < 256 ∧ s.m.pwr.main = true ∧ s.m.pwr.st ≠ 4 ∧
     let q := (s.m.wire p).rxq
     let n := b.pkt.h.len
     let k : Pkt := { b.pkt with pl := q.take n, t0 := BitVec.ofNat 32 (fieldBE q n 4), t1 := BitVec.ofNat 32 (fieldBE q (n + 4) 4) }
     (s.m.wire p).filling = false ∧ (s.m.wire p).arriving = some id ∧ s.m.bp id = some b ∧ b.mcast = false ∧
     b.mark = none ∧ n + 8 ≤ q.length ∧ k.good = true ∧ b.here = true) ∧
    (∃ (s : State) (p id : Nat) (b : BPkt), p < 256 ∧ s.m.pwr.main = true ∧ s.m.pwr.st ≠ 4 ∧
     let q := (s.m.wire p).rxq
     let n := b.pkt.h.len
     let k : Pkt := { b.pkt with pl := q.take n, t0 := BitVec.ofNat 32 (fieldBE q n 4), t1 := BitVec.ofNat 32 (fieldBE q (n + 4) 4) }
     (s.m.wire p).filling = false ∧ (s.m.wire p).arriving = some id ∧ s.m.bp id = some b ∧ b.mcast = false ∧
     b.mark = none ∧ n + 8 ≤ q.length ∧ k.good = false ∧ b.here = true ∧ b.copies = []) ∧
    (∃ (s : State) (p id : Nat) (b : BPkt), p < 256 ∧ s.m.pwr.main = true ∧ s.m.pwr.st ≠ 4 ∧
     let q := (s.m.wire p).rxq
     let n := b.pkt.h.len
     let k : Pkt := { b.pkt with pl := q.take n, t0 := BitVec.ofNat 32 (fieldBE q n 4), t1 := BitVec.ofNat 32 (fieldBE q (n + 4) 4) }
     (s.m.wire p).filling = false ∧ (s.m.wire p).arriving = some id ∧ s.m.bp id = some b ∧ b.mcast = false ∧
     b.mark = none ∧ n + 8 ≤ q.length ∧ k.good = false ∧ b.here = false ∧ (∀ c ∈ b.copies, c.begun = false)) ∧
    (∃ (s : State) (id : Nat) (b : BPkt), s.m.bp id = some b ∧ b.mcast = true ∧ NothingDue s.m ∧
     let e := s.m.mcEntry b.pkt.h
     (bitAt e.word0 16 = false ∨ bits e.word0 11 0 ≠ b.pkt.h.part)) ∧
    (∃ (s : State) (id : Nat) (b : BPkt), s.m.bp id = some b ∧ b.mcast = true ∧ NothingDue s.m ∧
     let e := s.m.mcEntry b.pkt.h
     bitAt e.word0 16 = true ∧ bits e.word0 11 0 = b.pkt.h.part ∧ bitAt e.word0 15 = true ∧ s.m.chip ≠ 131071 ∧
     (∃ q, b.pkt.port = some q ∧ q < 256)) :=
  ⟨⟨st (linkM 0 6 {} { filling := true, rxq := zeros 8 }), 0, by dsimp only; decide +kernel⟩,
   ⟨st { linkM 0 6 {} { arriving := some 1, rxq := zeros 16 ++ beBytes 4 (crc32c (zeros 16)).toNat ++ zeros 4 } with net := { pkts := [{ id := 1, here := true, pkt := { h := hd 1 3 7 1 5 16 } }] } },
    0, 1, { id := 1, here := true, pkt := { h := hd 1 3 7 1 5 16 } }, [], 0, 0, by dsimp only; decide +kernel⟩,
   ⟨st { linkM 0 6 {} { arriving := some 1, rxq := zeros 16 ++ beBytes 4 (crc32c (zeros 16)).toNat ++ zeros 4 } with net := { pkts := [{ id := 1, here := true, pkt := { h := hd 1 3 7 1 5 16 } }] } },
    0, 1, { id := 1, here := true, pkt := { h := hd 1 3 7 1 5 16 } }, by dsimp only; decide +kernel⟩,
   ⟨st { linkM 0 6 {} { arriving := some 1, rxq := zeros 24 } with net := { pkts := [{ id := 1, here := true, pkt := { h := hd 1 3 7 1 5 16 } }] } },
    0, 1, { id := 1, here := true, pkt := { h := hd 1 3 7 1 5 16 } }, by dsimp only; decide +kernel⟩,
   ⟨st { linkM 0 6 {} { arriving := some 1, rxq := zeros 24 } with net := { pkts := [{ id := 1, pkt := { h := hd 1 3 7 1 5 16 } }] } },
    0, 1, { id := 1, pkt := { h := hd 1 3 7 1 5 16 } }, by dsimp only; decide +kernel⟩,
   ⟨st { up with net := { pkts := [{ id := 1, mcast := true, pkt := { h := hd 0x15 3 7 1 5 16, port := some 0 } }] } }, 1,
    { id := 1, mcast := true, pkt := { h := hd 0x15 3 7 1 5 16, port := some 0 } },
    by dsimp only [NothingDue]; decide +kernel⟩,
   ⟨st (withKeep { up with net := { pkts := [{ id := 1, mcast := true, pkt := { h := hd 0x15 3 7 1 5 16, port := some 0 } }], mcast := ⟨[(0, { word0 := 2 ^ 16 + 2 ^ 15 + 5 })]⟩ } } 0x008 7),
    1, { id := 1, mcast := true, pkt := { h := hd 0x15 3 7 1 5 16, port := some 0 } },
    by dsimp only [NothingDue]; decide +kernel⟩⟩

theorem witness_OwnPacketsWaitForCells :
    (∃ (s : State) (i : Nat) (o : Orig), s.m.net.orig[i]? = some o ∧
     let d := o.die.getD (o.pkt.h.dest % 8)
     (s.m.fabricUp = false ∨ s.m.dieFenced d = true)) ∧
    (∃ (s : State) (i : Nat) (o : Orig), s.m.net.orig[i]? = some o ∧
     let d := o.die.getD (o.pkt.h.dest % 8)
     s.m.fabricUp = true ∧ s.m.dieFenced d = false ∧
     ((s.m.die d).mode ≠ 2 ∨ (s.m.die d).freeCells < s.m.exposure d + o.pkt.h.cells)) ∧
    (∃ (s : State) (i : Nat) (o : Orig), s.m.net.orig[i]? = some o ∧
     let d := o.die.getD (o.pkt.h.dest % 8)
     NothingDue s.m ∧ s.m.fabricUp = true ∧ s.m.dieFenced d = false ∧ s.m.pwr.lull ≤ 1 ∧ (s.m.die d).mode = 2 ∧
     (∀ b ∈ s.m.net.pkts, b.die = d → b.inPort = none → b.mcast = false) ∧
     s.m.exposure d + o.pkt.h.cells ≤ (s.m.die d).freeCells) :=
  ⟨⟨st { net := { orig := [{ pkt := { h := hd 1 3 7 1 5 16 } }] } }, 0, { pkt := { h := hd 1 3 7 1 5 16 } },
    by dsimp only; decide +kernel⟩,
   ⟨st { up with dies := {}, net := { orig := [{ pkt := { h := hd 1 3 7 1 5 16 } }] } }, 0,
    { pkt := { h := hd 1 3 7 1 5 16 } }, by dsimp only; decide +kernel⟩,
   ⟨st { up with net := { orig := [{ pkt := { h := hd 1 3 7 1 5 16 } }] } }, 0, { pkt := { h := hd 1 3 7 1 5 16 } },
    by dsimp only [NothingDue]; decide +kernel⟩⟩

theorem witness_EgressChargesAndFrees :
    (∃ (s : State) (p v : Nat) (b : BPkt) (c : Copy), NothingDue s.m ∧ LinkIn s.m p 6 ∧ s.m.pwr.lull ≤ 1 ∧
     (s.m.wire p).sending = none ∧ (s.m.wire p).replay.length < 128 ∧ v ≤ 1 ∧
     bitAt (s.m.die (p / 32)).mcFenced (p % 32) = false ∧ s.m.eligible (qKey p v 0) = true ∧
     (v = 1 → s.m.eligible (qKey p 0 0) = false) ∧ s.m.headOf (qKey p v 0) = some (b, c)) ∧
    (∃ (s : State) (p id : Nat) (b : BPkt) (c : Copy), p < 256 ∧ s.m.pwr.main = true ∧ s.m.pwr.st ≠ 4 ∧
     (s.m.wire p).sending = some id ∧ s.m.bp id = some b ∧ b.whole = true ∧ (s.m.wire p).replay.length < 128 ∧
     s.m.hubTurn b p = true ∧ (b.copies.find? fun c => c.begun && c.port == p) = some c ∧ c.h.type ≠ 0xF0) :=
  ⟨⟨st { linkM 0 6 {} { peerAdv := [9, 9, 9, 9, 9, 9, 9, 9, 9] } with net := { pkts := [waiting 1 0 1 (hd 0x20 1 7 1 0)], queues := ⟨[(qKey 0 1 0, [1])]⟩ } },
    0, 1, waiting 1 0 1 (hd 0x20 1 7 1 0), { port := 0, vc := 1, h := hd 0x20 1 7 1 0 },
    by dsimp only [LinkIn, NothingDue]; decide +kernel⟩,
   ⟨st { linkM 0 6 {} { sending := some 1 } with net := { pkts := [{ id := 1, whole := true, copies := [{ begun := true }] }] } },
    0, 1, { id := 1, whole := true, copies := [{ begun := true }] }, { begun := true }, by decide +kernel⟩⟩

theorem witness_PoolsLimitsAndTokens :
    (∃ (s : State) (d : Nat), d < 8 ∧ (s.m.die d).mode = 2) ∧
    (∃ (s : State) (d : Nat), d < 8 ∧ (s.m.die d).mode < 2 ∧ s.m.pwr.main = true) ∧
    (∃ (s : State) (d : Nat), d < 8 ∧ s.m.pwr.main = true ∧ s.m.recoverOk d = true) ∧
    (∃ (s : State) (d : Nat), d < 8 ∧ s.m.pwr.main = true) ∧
    (∃ (blk off a b : Nat), ∃ f i, ((fieldsAt blk off).find? fun f => f.1.clr.isSome) = some (f, i) ∧ f.clr = some (a, b)) ∧
    (∃ (s : State) (k : Pkt), s.m.pwr.main = true ∧ s.m.pwr.st ≠ 4 ∧ k.h.type = 0x24 ∧ k.h.intact = true ∧ k.good = true ∧
     k.pl.length = 16) ∧
    (∃ (s : State) (d i : Nat) (t : Throttle), (s.m.die d).throttles[i]? = some t) ∧
    (∃ (s : State), s.m.pwr.main = true) ∧
    (∃ (d : Nat), d < 8) :=
  ⟨⟨st up, 7, by decide +kernel⟩,
   ⟨st { up with dies := ⟨[(3, { mode := 1, bitmap := 5 })]⟩ }, 3, by decide +kernel⟩,
   ⟨st up, 0, by decide +kernel⟩,
   ⟨st up, 7, by decide +kernel⟩,
   ⟨pgBlk 0, 0x438, 0x400, 0x430, clearReg 0x438 0x400 0x430, 0, by exact ⟨rfl, rfl⟩⟩,
   ⟨st up, Pkt.make (mkHdr 0x24 1 7 1 0 0 0) (zeros 16), by decide +kernel⟩,
   ⟨st { dies := ⟨[(7, { throttles := [{}] })]⟩ }, 7, 0, {}, by decide +kernel⟩,
   ⟨st up, by decide +kernel⟩,
   ⟨7, by decide +kernel⟩⟩

theorem witness_QueuedAndWaitingHeads :
    (∃ (s : State) (p id : Nat) (b : BPkt) (c : Copy), p < 256 ∧ c.due = true ∧ c.port = p ∧ c.begun = false ∧
     (c.h.mode = 2 ∨ c.fixed = true ∨ (c.h.type = 0x15 ∧ c.vc ≠ 0)) ∧ b.copies = [c] ∧ b.here = false ∧ b.mcast = false ∧
     b.parked = false ∧ s.m.bp id = some b ∧
     (s.m.net.queues.cells.filter fun x => qPort x.1 == p) = [(qKey p c.vc c.fq, [id])]) ∧
    (∃ (s : State) (q : Nat) (b : BPkt) (c : Copy), s.m.pwr.main = true ∧ s.m.pwr.st ≠ 4 ∧
     let Alone : Prop := b.copies = [c] ∧ b.whole = true ∧ b.here = false ∧ b.parked = false ∧ b.mcast = false
     let Stalled : Prop := q < 131072 ∧ s.m.headOf q = some (b, c) ∧ (s.m.net.heads.get q).suspended = false ∧ s.m.mayCalm (qPort q / 32) c.vc c.h.mode = true
     Stalled ∧ s.m.lossless (qPort q / 32) c.vc = false ∧ Alone) ∧
    (∃ (s : State) (q : Nat) (b : BPkt) (c : Copy), s.m.pwr.main = true ∧ s.m.pwr.st ≠ 4 ∧
     let Stalled : Prop := q < 131072 ∧ s.m.headOf q = some (b, c) ∧ (s.m.net.heads.get q).suspended = false ∧ s.m.mayCalm (qPort q / 32) c.vc c.h.mode = true
     Stalled ∧ s.m.lossless (qPort q / 32) c.vc = true ∧ c.fixed = false ∧ c.h.type ≠ 0x15 ∧ s.m.isOwn c.h.dest = false ∧
     reCalmValid (s.m.routeEntry c.h.dest) = true ∧ s.m.calmDir (reCalm (s.m.routeEntry c.h.dest)) ≠ 0 ∧
     s.m.active (reCalm (s.m.routeEntry c.h.dest)) = true) ∧
    (∃ (s : State) (d i id : Nat) (b : BPkt), s.m.pwr.main = true ∧ s.m.pwr.st ≠ 4 ∧ i < 65536 ∧
     (s.m.die d).localQ[i]? = some id ∧ s.m.bp id = some b ∧ b.die = d ∧ b.headSince ≠ 0 ∧ b.whole = true ∧
     b.parked = false ∧ s.m.mayCalm d b.pkt.h.vc b.pkt.h.mode = true ∧ s.m.lossless d b.pkt.h.vc = true ∧
     s.m.sinkFull d = false) ∧
    (∃ (s : State) (p id t : Nat) (b : BPkt) (c : Copy), s.m.pwr.main = true ∧ s.m.pwr.st ≠ 4 ∧
     let Alone : Prop := b.copies = [c] ∧ b.whole = true ∧ b.here = false ∧ b.parked = false ∧ b.mcast = false
     p < 256 ∧ s.m.active p = false ∧ s.m.net.queues.get (qKey p 0 0) = [id] ∧ s.m.bp id = some b ∧ Alone ∧ c.port = p ∧
     c.vc = 0 ∧ c.fq = 0 ∧ c.hold = some t) :=
  ⟨⟨st { up with net := { pkts := [{ id := 1, copies := [{ port := 0, vc := 1, h := (hd 0x20 1 7 1 0).setMode 2, due := true }] }], queues := ⟨[(qKey 0 1 0, [1])]⟩ } },
    0, 1, { id := 1, copies := [{ port := 0, vc := 1, h := (hd 0x20 1 7 1 0).setMode 2, due := true }] },
    { port := 0, vc := 1, h := (hd 0x20 1 7 1 0).setMode 2, due := true }, by decide +kernel⟩,
   ⟨st (withReg (withReg ({ up with net := { pkts := [{ waiting 1 0 5 (hd 1 5 7 1 0 16) with die := 0 }], queues := ⟨[(qKey 0 5 0, [1])]⟩, route := ⟨[(7, 0)]⟩ } }) (swBlk 0 6) 0x2400 4 2) (swBlk 0 6) 0xD00 0 255),
    qKey 0 5 0, { waiting 1 0 5 (hd 1 5 7 1 0 16) with die := 0 }, { port := 0, vc := 5, h := hd 1 5 7 1 0 16 },
    by dsimp only; decide +kernel⟩,
   ⟨st (withReg ({ ({ up with net := { pkts := [{ waiting 1 0 5 (hd 1 5 7 1 0 16) with die := 0 }], queues := ⟨[(qKey 0 5 0, [1])]⟩, route := ⟨[(7, 2 ^ 52 + 9 * 2 ^ 40)]⟩ } }) with ports := ⟨[(9, { link := { st := 6 } })]⟩ }) (swBlk 0 5) 0x010 0 (2 ^ 18)),
    qKey 0 5 0, { waiting 1 0 5 (hd 1 5 7 1 0 16) with die := 0 }, { port := 0, vc := 5, h := hd 1 5 7 1 0 16 },
    by dsimp only; decide +kernel⟩,
   ⟨st (withReg { arrived ({ local1 3 5 with die := 0, headSince := 1, pkt := pk 1 3 }) with net := { pkts := [{ local1 3 5 with die := 0, headSince := 1, pkt := pk 1 3 }] } } (swBlk 0 6) 0x2400 0 0x1010101),
    0, 0, 1, { local1 3 5 with die := 0, headSince := 1, pkt := pk 1 3 }, by decide +kernel⟩,
   ⟨st { up with net := { pkts := [{ waiting 1 0 0 (hd 1 0 7 1 0 16) with copies := [{ port := 0, hold := some 3 }] }], queues := ⟨[(qKey 0 0 0, [1])]⟩ } },
    0, 1, 3, { waiting 1 0 0 (hd 1 0 7 1 0 16) with copies := [{ port := 0, hold := some 3 }] },
    { port := 0, hold := some 3 }, by dsimp only; decide +kernel⟩⟩

theorem witness_WritesStoreTheirBytes :
    (∃ (s : State) (p : Pkt) (c : EccIn) (i t : Nat), (Performs s.m p 1 ∨ Performs s.m p 0x15) ∧
     s.m.destStatus p = St.ok ∧ s.m.store.locate p.h.offset = some (i, t) ∧ p.pl.length = p.h.len ∧
     (p.pl.length = 2048 ∨ Sound s.m c (s.m.present (s.m.obj i) t))) ∧
    (∃ (s : State) (p : Pkt), (Performs s.m p 1 ∨ Performs s.m p 0x15) ∧ s.m.destStatus p ≠ St.ok) ∧
    (∃ (s : State) (p : Pkt) (c : EccIn) (i t : Nat), (Performs s.m p 1 ∨ Performs s.m p 0x15) ∧
     s.m.destStatus p = St.ok ∧ s.m.store.locate p.h.offset = some (i, t) ∧ p.pl.length ≠ 2048 ∧
     ¬ Sound s.m c (s.m.present (s.m.obj i) t)) :=
  ⟨⟨st obj1, pk 1 3 (zeros 16) 0 0 16, {}, 0, 0, by dsimp only [Performs, Sound, NoneRefused]; decide +kernel⟩,
   ⟨st up, pk 1 3 (zeros 16) 0 0 16, by dsimp only [Performs, NoneRefused]; decide +kernel⟩,
   ⟨st obj1, pk 1 3 (zeros 16) 0 0 16, { hits := [(obj1.present (obj1.obj 0) 0, 2)] }, 0, 0,
    by dsimp only [Performs, Sound, NoneRefused]; decide +kernel⟩⟩

theorem witness_AtomicsReplaceOneWord :
    (∃ (s : State) (p : Pkt) (c : EccIn) (i t : Nat), Performs s.m p 4 ∧ s.m.destStatus p = St.ok ∧
     s.m.store.locate p.h.offset = some (i, t) ∧ Sound s.m c (s.m.present (s.m.obj i) t) ∧ bits p.h.tw 7 0 = 1) ∧
    (∃ (s : State) (p : Pkt) (c : EccIn) (i t : Nat), Performs s.m p 4 ∧ s.m.destStatus p = St.ok ∧
     s.m.store.locate p.h.offset = some (i, t) ∧ Sound s.m c (s.m.present (s.m.obj i) t) ∧ bits p.h.tw 7 0 = 2) ∧
    (∃ (s : State) (p : Pkt) (c : EccIn) (i t : Nat), Performs s.m p 4 ∧ s.m.destStatus p = St.ok ∧
     s.m.store.locate p.h.offset = some (i, t) ∧ Sound s.m c (s.m.present (s.m.obj i) t) ∧ bits p.h.tw 7 0 = 3) ∧
    (∃ (s : State) (p : Pkt) (c : EccIn) (i t : Nat), Performs s.m p 4 ∧ s.m.destStatus p = St.ok ∧
     s.m.store.locate p.h.offset = some (i, t) ∧ Sound s.m c (s.m.present (s.m.obj i) t) ∧ bits p.h.tw 7 0 = 4) ∧
    (∃ (s : State) (p : Pkt) (c : EccIn) (i t : Nat), Performs s.m p 4 ∧ s.m.destStatus p = St.ok ∧
     s.m.store.locate p.h.offset = some (i, t) ∧ Sound s.m c (s.m.present (s.m.obj i) t) ∧ bits p.h.tw 7 0 = 5) ∧
    (∃ (s : State) (p : Pkt) (c : EccIn) (i t : Nat), Performs s.m p 4 ∧ s.m.destStatus p = St.ok ∧
     s.m.store.locate p.h.offset = some (i, t) ∧ Sound s.m c (s.m.present (s.m.obj i) t) ∧ bits p.h.tw 7 0 = 6) ∧
    (∃ (s : State) (p : Pkt) (c : EccIn) (i t : Nat), Performs s.m p 4 ∧ s.m.destStatus p = St.ok ∧
     s.m.store.locate p.h.offset = some (i, t) ∧ Sound s.m c (s.m.present (s.m.obj i) t) ∧ bits p.h.tw 7 0 = 7) ∧
    (∃ (s : State) (p : Pkt) (c : EccIn) (i t : Nat), Performs s.m p 4 ∧ s.m.destStatus p = St.ok ∧
     s.m.store.locate p.h.offset = some (i, t) ∧ Sound s.m c (s.m.present (s.m.obj i) t) ∧ bits p.h.tw 7 0 = 8) ∧
    (∃ (s : State) (p : Pkt) (c : EccIn) (i t : Nat), Performs s.m p 4 ∧ s.m.destStatus p = St.ok ∧
     s.m.store.locate p.h.offset = some (i, t) ∧ Sound s.m c (s.m.present (s.m.obj i) t) ∧ bits p.h.tw 7 0 = 9) ∧
    (∃ (s : State) (p : Pkt) (c : EccIn) (i t : Nat), Performs s.m p 4 ∧ s.m.destStatus p = St.ok ∧
     s.m.store.locate p.h.offset = some (i, t) ∧ Sound s.m c (s.m.present (s.m.obj i) t) ∧
     let o := p.h.offset % 2048
     let old := leNat (slice (s.m.tileBytes (s.m.present (s.m.obj i) t)) o 8)
     let b := leNat (slice p.pl 8 8)
     bits p.h.tw 7 0 = 10 ∧ old = b) ∧
    (∃ (s : State) (p : Pkt) (c : EccIn) (i t : Nat), Performs s.m p 4 ∧ s.m.destStatus p = St.ok ∧
     s.m.store.locate p.h.offset = some (i, t) ∧ Sound s.m c (s.m.present (s.m.obj i) t) ∧
     let o := p.h.offset % 2048
     let old := leNat (slice (s.m.tileBytes (s.m.present (s.m.obj i) t)) o 8)
     let b := leNat (slice p.pl 8 8)
     bits p.h.tw 7 0 = 10 ∧ old ≠ b) :=
  ⟨⟨st obj1, pk 4 3 (zeros 16) 0 1, {}, 0, 0, by dsimp only [Performs, Sound, NoneRefused]; decide +kernel⟩,
   ⟨st obj1, pk 4 3 (zeros 16) 0 2, {}, 0, 0, by dsimp only [Performs, Sound, NoneRefused]; decide +kernel⟩,
   ⟨st obj1, pk 4 3 (zeros 16) 0 3, {}, 0, 0, by dsimp only [Performs, Sound, NoneRefused]; decide +kernel⟩,
   ⟨st obj1, pk 4 3 (zeros 16) 0 4, {}, 0, 0, by dsimp only [Performs, Sound, NoneRefused]; decide +kernel⟩,
   ⟨st obj1, pk 4 3 (zeros 16) 0 5, {}, 0, 0, by dsimp only [Performs, Sound, NoneRefused]; decide +kernel⟩,
   ⟨st obj1, pk 4 3 (zeros 16) 0 6, {}, 0, 0, by dsimp only [Performs, Sound, NoneRefused]; decide +kernel⟩,
   ⟨st obj1, pk 4 3 (zeros 16) 0 7, {}, 0, 0, by dsimp only [Performs, Sound, NoneRefused]; decide +kernel⟩,
   ⟨st obj1, pk 4 3 (zeros 16) 0 8, {}, 0, 0, by dsimp only [Performs, Sound, NoneRefused]; decide +kernel⟩,
   ⟨st obj1, pk 4 3 (zeros 16) 0 9, {}, 0, 0, by dsimp only [Performs, Sound, NoneRefused]; decide +kernel⟩,
   ⟨st obj1, pk 4 3 (zeros 16) 0 10, {}, 0, 0, by dsimp only [Performs, Sound, NoneRefused]; decide +kernel⟩,
   ⟨st obj1, pk 4 3 (zeros 15 ++ [1]) 0 10, {}, 0, 0, by dsimp only [Performs, Sound, NoneRefused]; decide +kernel⟩⟩

theorem witness_ReadsAndFencesAnswer :
    (∃ (s : State) (p : Pkt) (c : EccIn) (i t : Nat), Performs s.m p 2 ∧ s.m.destStatus p = St.ok ∧
     inControl p.h.offset = false ∧ inReserve p.h.offset = false ∧ s.m.store.locate p.h.offset = some (i, t) ∧
     Sound s.m c (s.m.present (s.m.obj i) t)) ∧
    (∃ (s : State) (p : Pkt), Performs s.m p 6 ∧ p.good = true ∧ p.h.ordered = true ∧ p.h.seq ≠ 0 ∧ p.h.len = 0) ∧
    (∃ (s : State) (p : Pkt), Performs s.m p 6 ∧ p.good = true ∧ p.h.ordered = true ∧ p.h.seq = 0 ∧ p.h.len = 0) :=
  ⟨⟨st obj1, pk 2 3 [] 0 2048 6144, {}, 0, 3, by dsimp only [Performs, Sound, NoneRefused]; decide +kernel⟩,
   ⟨st up, { pk 6 3 with h := (((mkHdr 6 3 7 1 0 5 0).setOrdered true).setSeq 9).sealed },
    by dsimp only [Performs, NoneRefused]; decide +kernel⟩,
   ⟨st up, { pk 6 3 with h := ((mkHdr 6 3 7 1 0 5 0).setOrdered true).sealed },
    by dsimp only [Performs, NoneRefused]; decide +kernel⟩⟩

theorem witness_DeliveryInOrder :
    (∃ (s : State) (d i id : Nat) (b : BPkt), s.m.working = true ∧ (s.m.die d).localQ[i]? = some id ∧ s.m.bp id = some b ∧
     b.whole = true ∧ b.mcast = false ∧ b.parked = false ∧ (s.m.die d).early.contains (.buf id) = false ∧
     (s.m.crosses b = false ∨ s.m.hubFree b = true) ∧ NoneRefused s.m ∧ b.pkt.good = true ∧ b.pkt.h.mark = false ∧
     b.pkt.h.type = 1 ∧ b.copies = [] ∧ b.pkt.h.vc ≠ 0 ∧ b.pkt.h.ordered = false) ∧
    (∃ (s : State) (d i id : Nat) (b : BPkt), s.m.working = true ∧ (s.m.die d).localQ[i]? = some id ∧ s.m.bp id = some b ∧
     b.whole = true ∧ b.mcast = false ∧ b.parked = false ∧ (s.m.die d).early.contains (.buf id) = false ∧
     (s.m.crosses b = false ∨ s.m.hubFree b = true) ∧ NoneRefused s.m ∧ b.pkt.good = true ∧ b.pkt.h.mark = false ∧
     b.pkt.h.type = 1 ∧ b.copies = [] ∧
     let x := s.m.src b.pkt.h.src
     b.pkt.h.vc ≠ 0 ∧ b.pkt.h.ordered = true ∧ x.sync = true ∧ b.pkt.h.seq ≠ 0 ∧ b.pkt.h.seq = x.e) ∧
    (∃ (s : State) (d i id : Nat) (b : BPkt), s.m.working = true ∧ (s.m.die d).localQ[i]? = some id ∧ s.m.bp id = some b ∧
     b.whole = true ∧ b.mcast = false ∧ b.parked = false ∧ (s.m.die d).early.contains (.buf id) = false ∧
     (s.m.crosses b = false ∨ s.m.hubFree b = true) ∧ NoneRefused s.m ∧ b.pkt.good = true ∧ b.pkt.h.mark = false ∧
     b.pkt.h.type = 1 ∧ b.copies = [] ∧ b.pkt.h.vc ≠ 0 ∧ b.pkt.h.ordered = true ∧
     s.m.verdict b.pkt (s.m.queuedSame b.pkt (.buf id)) = .park) ∧
    (∃ (s : State) (d i id : Nat) (b : BPkt), ∃ n, s.m.working = true ∧ (s.m.die d).localQ[i]? = some id ∧
     s.m.bp id = some b ∧ b.whole = true ∧ b.mcast = false ∧ b.parked = false ∧
     (s.m.die d).early.contains (.buf id) = false ∧ (s.m.crosses b = false ∨ s.m.hubFree b = true) ∧ NoneRefused s.m ∧
     b.pkt.good = true ∧ b.pkt.h.mark = false ∧ b.pkt.h.type = 1 ∧ b.copies = [] ∧ b.pkt.h.vc = 0 ∧
     s.m.sinkSlot d = some n ∧ b.die = d) ∧
    (∃ (s : State) (src : Nat) (k : Park), s.m.working = true ∧ NoneRefused s.m ∧ k.seq = (s.m.src src).e ∧
     (s.m.src src).parked.find? (·.seq == (s.m.src src).e) = some k ∧ k.pkt.h.src = src ∧ k.pkt.h.seq = k.seq ∧
     k.pkt.h.type = 1) ∧
    (∃ (s : State) (d : Nat) (b : BPkt) (id : Nat), s.m.working = true ∧ NoneRefused s.m ∧ (s.m.die d).early = [.buf id] ∧
     s.m.bp id = some b ∧ b.pkt.h.type = 1 ∧ b.copies = [] ∧ b.whole = true ∧ b.mcast = false ∧
     s.m.verdict b.pkt (s.m.queuedSame b.pkt (.buf id)) = .commit) ∧
    (∃ (s : State) (src : Nat) (k : Park), s.m.working = true ∧ NoneRefused s.m ∧ (s.m.src src).parked = [k] ∧
     k.pkt.h.src = src ∧ k.pkt.h.seq = k.seq ∧ k.pkt.h.type = 1) ∧
    (∃ (s : State) (d : Nat) (p : Pkt), ∃ n, s.m.working = true ∧ NoneRefused s.m ∧ s.m.dieFenced d = false ∧
     (s.m.die d).sink[0]? = some (n, p) ∧ p.h.type = 1 ∧ p.good = true ∧ p.h.mark = false ∧ p.h.ordered = false) :=
  ⟨⟨st (arrived (local1 3 0)), 0, 0, 1, local1 3 0, by dsimp only [NoneRefused]; decide +kernel⟩,
   ⟨st (arrived (local1 3 5) { sync := true, e := 5 }), 0, 0, 1, local1 3 5, by dsimp only [NoneRefused]; decide +kernel⟩,
   ⟨st (arrived (local1 3 6) { sync := true, e := 5 }), 0, 0, 1, local1 3 6, by dsimp only [NoneRefused]; decide +kernel⟩,
   ⟨st (arrived (local1 0 0)), 0, 0, 1, local1 0 0, 0, by dsimp only [NoneRefused]; decide +kernel⟩,
   ⟨st { up with ord := { srcs := ⟨[(1, { sync := true, e := 5, parked := [{ seq := 5, pkt := (local1 3 5).pkt }] })]⟩ } },
    1, { seq := 5, pkt := (local1 3 5).pkt }, by dsimp only [NoneRefused]; decide +kernel⟩,
   ⟨st { arrived (local1 3 5) { sync := true, e := 5 } with dies := up.dies.upd 0 fun d => { d with early := [.buf 1] } },
    0, local1 3 5, 1, by dsimp only [NoneRefused]; decide +kernel⟩,
   ⟨st { up with ord := { srcs := ⟨[(1, { sync := true, e := 4, parked := [{ seq := 5, pkt := (local1 3 5).pkt }] })]⟩ } },
    1, { seq := 5, pkt := (local1 3 5).pkt }, by dsimp only [NoneRefused]; decide +kernel⟩,
   ⟨st { up with dies := up.dies.upd 0 fun d => { d with sink := [(0, (local1 0 0).pkt)] } }, 0, (local1 0 0).pkt, 0,
    by dsimp only [NoneRefused]; decide +kernel⟩⟩

theorem witness_CommandsArriveAndPassGates :
    (∃ (s : State) (p : Pkt), s.m.vaneUp = true ∧ s.m.pwr.main = true ∧ p.h.type = 0x20 ∧ p.good = true ∧ p.h.part = 0 ∧
     s.m.sec.recovery = false ∧ s.m.isHost p.h.src = false) ∧
    (∃ (s : State) (p : Pkt), s.m.vaneUp = true ∧ s.m.pwr.main = true ∧ p.h.type = 0x20 ∧ p.good = true ∧ p.h.part = 0 ∧
     s.m.sec.recovery = false ∧ s.m.isHost p.h.src = true ∧ s.m.fromCache (cmdOf p) = none ∧
     opcodes.contains (cmdOf p).opcode = true ∧ s.m.vane.hostQ.length < 64) ∧
    (∃ (s : State) (p : Pkt), s.m.vaneUp = true ∧ s.m.pwr.main = true ∧ p.h.type = 0x20 ∧ p.good = true ∧ p.h.part = 0 ∧
     s.m.sec.recovery = false ∧ s.m.isHost p.h.src = true ∧ s.m.fromCache (cmdOf p) = none ∧
     opcodes.contains (cmdOf p).opcode = true ∧ 64 ≤ s.m.vane.hostQ.length) ∧
    (∃ (s : State) (p : Pkt), s.m.vaneUp = true ∧ s.m.pwr.main = true ∧ p.h.type = 0x20 ∧ p.good = true ∧ p.h.part = 0 ∧
     s.m.sec.recovery = false ∧ s.m.isHost p.h.src = true ∧ s.m.fromCache (cmdOf p) = none ∧
     opcodes.contains (cmdOf p).opcode = false) ∧
    (∃ (s : State) (p : Pkt), s.m.vaneUp = true ∧ s.m.pwr.main = true ∧ p.h.type = 0x20 ∧ p.good = false ∧ p.h.part = 0) ∧
    (∃ (s : State) (f : SbFrag), s.m.vaneUp = true ∧ s.m.sideAllowed f.addr = false) ∧
    (∃ (s : State) (f : SbFrag), s.m.vaneUp = true ∧ s.m.sideAllowed f.addr = true ∧ f.total ≤ 2088 ∧ f.off = 0 ∧
     f.data.length = f.total ∧
     let q := pktOf f.data
     let r : CmdReq := { side := true, opcode := bits q.h.tw 15 0, ver := bits q.h.tw 19 16, tag := q.h.tag, addr := f.addr, udp := f.udp, body := q.pl }
     40 ≤ f.total ∧ f.total = 40 + q.h.len ∧ q.h.intact = true ∧ q.good = true ∧ q.h.illegal true = false ∧
     q.h.type = 0x20 ∧ q.h.src = 131071 ∧ (q.h.dest = 131071 ∨ q.h.dest = s.m.chip) ∧ s.m.fromCache r = none ∧
     opcodes.contains r.opcode = true ∧ s.m.vane.sideQ.length < 16) ∧
    (∃ (s : State) (i : Instr) (r : CmdReq) (op : Nat), ∃ m', request i = some (r, op, true) ∧ r.opcode = op ∧
     s.m.vaneUp = true ∧ s.m.vane.next = some r ∧ s.m.fromCache r = some m') ∧
    (∃ (s : State) (i : Instr) (r : CmdReq) (op : Nat), request i = some (r, op, true) ∧ r.opcode = op ∧
     s.m.vaneUp = true ∧ s.m.vane.next = some r ∧ s.m.fromCache r = none ∧ s.m.busyFor op = true) ∧
    (∃ (s : State) (i : Instr) (r : CmdReq) (op : Nat), request i = some (r, op, true) ∧ r.opcode = op ∧
     s.m.vaneUp = true ∧ s.m.vane.next = some r ∧ s.m.fromCache r = none ∧ s.m.busyFor op = false ∧ s.m.pwr.lull ≠ 0 ∧
     standbyOp op = false) ∧
    (∃ (s : State) (i : Instr) (r : CmdReq) (op : Nat), request i = some (r, op, true) ∧ r.opcode = op ∧
     s.m.vaneUp = true ∧ s.m.vane.next = some r ∧ s.m.fromCache r = none ∧ s.m.busyFor op = false ∧ s.m.pwr.lull = 0 ∧
     (r.ver ≠ 1 ∨ r.body.length < 16 ∨ 2048 < r.body.length ∨ r.body.length % 16 ≠ 0)) :=
  ⟨⟨st up, pk 0x20 1, by decide +kernel⟩,
   ⟨st (withKeep up 0x040 1), pk 0x20 1 [] 0 0x0101, by decide +kernel⟩,
   ⟨st { (withKeep up 0x040 1) with vane := { hostQ := List.replicate 64 {} } }, pk 0x20 1 [] 0 0x0101, by decide +kernel⟩,
   ⟨st (withKeep up 0x040 1), pk 0x20 1 [] 0 0x0001, by decide +kernel⟩,
   ⟨st up, { pk 0x20 1 with t1 := 5 }, by decide +kernel⟩,
   ⟨st up, { addr := [10, 0, 0, 1] }, by decide +kernel⟩,
   ⟨st up, frag 0x0101, by dsimp only; decide +kernel⟩,
   ⟨st repeated, .identify (ask 0x0101), ask 0x0101, 0x0101, (repeated.fromCache (ask 0x0101)).getD {}, by decide +kernel⟩,
   ⟨st (asked { pwr := { booted := true } } (ask 0x0601)), .storeCreate (ask 0x0601), ask 0x0601, 0x0601,
    by decide +kernel⟩,
   ⟨st { asked up (ask 0x0601) with pwr := { up.pwr with lull := 2 } }, .storeCreate (ask 0x0601), ask 0x0601, 0x0601,
    by decide +kernel⟩,
   ⟨st (asked up { ask 0x0101 with ver := 2 }), .identify { ask 0x0101 with ver := 2 }, { ask 0x0101 with ver := 2 },
    0x0101, by decide +kernel⟩⟩

theorem witness_AssembliesEventsAndSubscriptions :
    (∃ (s : State) (i : Nat), ∃ a, s.m.vane.asms[i]? = some a) ∧
    (∃ (s : State) (i : Nat), ∃ x, s.m.vane.reasms[i]? = some x) ∧
    (∃ (s : State) (slot : Nat), ∃ e l, s.m.vaneUp = true ∧ (s.m.vane.subs.get slot).used = true ∧
     (s.m.vane.subs.get slot).dropped = 0 ∧ (s.m.vane.subs.get slot).side = true ∧ (s.m.vane.subs.get slot).queue = e :: l) ∧
    (∃ (s : State) (r : CmdReq), Runs s.m r 0x0C08 subLay ∧
     let k := r.u 1 1
     let own := (s.m.vane.subs.get k).used = false ∨ (s.m.vane.subs.get k).side = r.side
     r.u 0 1 = 0 ∧ k ≤ 15 ∧ own) ∧
    (∃ (s : State) (r : CmdReq), Runs s.m r 0x0C08 subLay ∧
     let k := r.u 1 1
     let own := (s.m.vane.subs.get k).used = false ∨ (s.m.vane.subs.get k).side = r.side
     r.u 0 1 = 0 ∧ k ≤ 15 ∧ ¬ own) ∧
    (∃ (s : State) (r : CmdReq), Runs s.m r 0x0C08 subLay ∧
     let k := r.u 1 1
     let own := (s.m.vane.subs.get k).used = false ∨ (s.m.vane.subs.get k).side = r.side
     r.u 0 1 = 1 ∧ k ≤ 15 ∧ own) ∧
    (∃ (s : State) (r : CmdReq), Runs s.m r 0x0C08 subLay ∧
     let k := r.u 1 1
     r.u 0 1 = 2 ∧ k ≤ 15) :=
  ⟨⟨st { up with vane := { asms := [{}] } }, 0, {}, by decide +kernel⟩,
   ⟨st { up with vane := { reasms := [{}] } }, 0, {}, by decide +kernel⟩,
   ⟨st { up with vane := { subs := ⟨[(15, { used := true, side := true, queue := [{}] })]⟩ } }, 15, {}, [],
    by decide +kernel⟩,
   ⟨st (asked (up) (ask 0x0C08 ([0, 15]))), ask 0x0C08 ([0, 15]), by dsimp only [Runs, Waits]; decide +kernel⟩,
   ⟨st (asked ({ up with vane := { subs := ⟨[(15, { used := true })]⟩ } }) (ask 0x0C08 ([0, 15]))), ask 0x0C08 ([0, 15]),
    by dsimp only [Runs, Waits]; decide +kernel⟩,
   ⟨st (asked (up) (ask 0x0C08 ([1, 15]))), ask 0x0C08 ([1, 15]), by dsimp only [Runs, Waits]; decide +kernel⟩,
   ⟨st (asked ({ up with vane := { subs := ⟨[(15, { used := true })]⟩ } }) (ask 0x0C08 ([2, 15]))), ask 0x0C08 ([2, 15]),
    by dsimp only [Runs, Waits]; decide +kernel⟩⟩

theorem witness_OwnershipIdentityAndKeepFile :
    (∃ (s : State) (r : CmdReq), Runs s.m r 0x0C01 [(0, 4, 32)] ∧ s.m.unitOk (r.u 0 4) = true ∧
     (r.side = true ∨ s.m.vane.grants.any (covers (r.u 0 4)) = true)) ∧
    (∃ (s : State) (r : CmdReq), Runs s.m r 0x0C01 [(0, 4, 32)] ∧ s.m.unitOk (r.u 0 4) = true ∧ r.side = false ∧
     s.m.vane.grants.any (covers (r.u 0 4)) = false) ∧
    (∃ (s : State) (r : CmdReq), Runs s.m r 0x0C02 [(0, 4, 32), (4, 1, 1)] ∧ r.u 4 1 = 0 ∧ r.side = true ∧
     s.m.grantOk (r.u 0 4) = true) ∧
    (∃ (s : State) (r : CmdReq), Runs s.m r 0x0C02 [(0, 4, 32), (4, 1, 1)] ∧ r.u 4 1 = 1 ∧ r.side = true ∧
     s.m.grantOk (r.u 0 4) = true) ∧
    (∃ (s : State) (r : CmdReq), Runs s.m r 0x0C02 [(0, 4, 32), (4, 1, 1)] ∧ r.u 4 1 = 0 ∧ r.side = false) ∧
    (∃ (s : State) (r : CmdReq), Runs s.m r 0x0101 [] ∧ s.m.sec.recovery = false) ∧
    (∃ (s : State) (r : CmdReq), Runs s.m r 0x0102 [(0, 2, 16), (2, 2, 16)] ∧ keepRange r = true) ∧
    (∃ (s : State) (r : CmdReq),
     let lay := [(0, 2, 16), (2, 2, 16), (16, r.u 2 2, 8 * r.u 2 2)]
     let words := (List.range (r.u 2 2 / 4)).map fun i => (r.u 0 2 + 4 * i, r.u (16 + 4 * i) 4)
     Runs s.m r 0x0103 lay ∧ keepRange r = true ∧ s.m.mayChange r (unit 0x11 0) = true ∧
     (∀ x ∈ words, s.m.keepStatus r.side x.1 x.2 = St.ok)) ∧
    (∃ (s : State) (r : CmdReq),
     let lay := [(0, 2, 16), (2, 2, 16), (16, r.u 2 2, 8 * r.u 2 2)]
     let words := (List.range (r.u 2 2 / 4)).map fun i => (r.u 0 2 + 4 * i, r.u (16 + 4 * i) 4)
     Runs s.m r 0x0103 lay ∧ keepRange r = true ∧ s.m.mayChange r (unit 0x11 0) = true ∧
     (∃ x ∈ words, s.m.keepStatus r.side x.1 x.2 ≠ St.ok)) :=
  ⟨⟨st (asked (up) (ask 0x0C01 ([7]))), ask 0x0C01 ([7]), by dsimp only [Runs, Waits]; decide +kernel⟩,
   ⟨st (asked (up) { ask 0x0C01 ([7, 0, 0, 1]) with side := false }), { ask 0x0C01 ([7, 0, 0, 1]) with side := false },
    by dsimp only [Runs, Waits]; decide +kernel⟩,
   ⟨st (asked (up) (ask 0x0C02 ([0xFF]))), ask 0x0C02 ([0xFF]), by dsimp only [Runs, Waits]; decide +kernel⟩,
   ⟨st (asked (up) (ask 0x0C02 ([0xFF, 0, 0, 0, 1]))), ask 0x0C02 ([0xFF, 0, 0, 0, 1]),
    by dsimp only [Runs, Waits]; decide +kernel⟩,
   ⟨st (asked (up) { ask 0x0C02 ([]) with side := false }), { ask 0x0C02 ([]) with side := false },
    by dsimp only [Runs, Waits]; decide +kernel⟩,
   ⟨st (asked (up) (ask 0x0101 ([]))), ask 0x0101 ([]), by dsimp only [Runs, Waits]; decide +kernel⟩,
   ⟨st (asked (up) (ask 0x0102 ([0, 16, 0, 16]))), ask 0x0102 ([0, 16, 0, 16]),
    by dsimp only [Runs, Waits]; decide +kernel⟩,
   ⟨st (asked (up) (ask 0x0103 ([8, 0, 0, 16] ++ zeros 12 ++ zeros 16))),
    ask 0x0103 ([8, 0, 0, 16] ++ zeros 12 ++ zeros 16), by dsimp only [Runs, Waits]; decide +kernel⟩,
   ⟨st (asked (up) (ask 0x0103 ([4, 0, 0, 16] ++ zeros 12 ++ [0, 1, 255, 255] ++ zeros 12))),
    ask 0x0103 ([4, 0, 0, 16] ++ zeros 12 ++ [0, 1, 255, 255] ++ zeros 12), by dsimp only [Runs, Waits]; decide +kernel⟩⟩

theorem witness_UnassignedOpcodes :
    (∃ (s : State) (p : Pkt), s.m.vaneUp = true ∧ s.m.sec.recovery = false ∧ (s.m.pwr.st = 2 ∨ s.m.pwr.st = 3) ∧
     let c := cmdOf p
     s.m.pwr.main = true ∧ p.h.type = 0x20 ∧ p.good = true ∧ p.h.part = 0 ∧ s.m.isHost p.h.src = true ∧
     s.m.fromCache c = none ∧ opcodes.contains c.opcode = false) ∧
    (∃ (s : State) (f : SbFrag), s.m.vaneUp = true ∧ s.m.sec.recovery = false ∧ (s.m.pwr.st = 2 ∨ s.m.pwr.st = 3) ∧
     let q := pktOf f.data
     let r : CmdReq := { side := true, opcode := bits q.h.tw 15 0, ver := bits q.h.tw 19 16, tag := q.h.tag, addr := f.addr, udp := f.udp, body := q.pl }
     s.m.sideAllowed f.addr = true ∧ f.total ≤ 2088 ∧ f.off = 0 ∧ f.data.length = f.total ∧ 40 ≤ f.total ∧
     f.total = 40 + q.h.len ∧ q.h.intact = true ∧ q.good = true ∧ q.h.illegal true = false ∧ q.h.type = 0x20 ∧
     q.h.src = 131071 ∧ (q.h.dest = 131071 ∨ q.h.dest = s.m.chip) ∧ s.m.fromCache r = none ∧
     opcodes.contains r.opcode = false) :=
  ⟨⟨st (withKeep up 0x040 1), pk 0x20 1 [] 0 0x0001, by dsimp only; decide +kernel⟩,
   ⟨st up, frag 0x0001, by dsimp only; decide +kernel⟩⟩

theorem witness_SettingsAreStored :
    (∃ (s : State) (r : CmdReq),
     let May (us : List Nat) (l : List RegW) : Prop := (∀ u ∈ us, s.m.mayChange r u = true) ∧ Legal (begun s.m r) r l
     let k := r.u 0 2
     let part := allDies 5 (0x1000 + 4 * k) (r.u 4 4) ++ allDies 6 (0x4000 + 4 * k) (r.u 8 4) ++ allDies 16 (0x8000 + 4 * k) (r.u 12 4)
     Runs s.m r 0x0401 [(0, 2, 12), (4, 4, 32), (8, 4, 32), (12, 4, 32)] ∧ May [unit 6 k] part) ∧
    (∃ (s : State) (r : CmdReq),
     let May (us : List Nat) (l : List RegW) : Prop := (∀ u ∈ us, s.m.mayChange r u = true) ∧ Legal (begun s.m r) r l
     let calm := allDies 6 0xD00 (r.u 4 4) ++ allDies 6 0xD04 (r.u 8 4) ++ allDies 6 0xD08 (r.u 12 4)
     Runs s.m r 0x0304 [(0, 4, 2), (4, 4, 32), (8, 4, 32), (12, 4, 32), (16, 64, 512)] ∧ r.u 0 4 = 2 ∧
     May [unit 0x0E 0] calm) ∧
    (∃ (s : State) (r : CmdReq),
     let May (us : List Nat) (l : List RegW) : Prop := (∀ u ∈ us, s.m.mayChange r u = true) ∧ Legal (begun s.m r) r l
     Runs s.m r 0x0402 [(0, 4, 3), (4, 4, 32), (8, 2, 16), (10, 1, 8), (12, 4, 32), (16, 1, 8), (17, 1, 8), (20, 4, 32)] ∧
     r.u 0 4 = 1 ∧ May [unit 0x0B 0] (allDies 6 0x2400 (r.u 4 4))) ∧
    (∃ (s : State) (r : CmdReq),
     let May (us : List Nat) (l : List RegW) : Prop := (∀ u ∈ us, s.m.mayChange r u = true) ∧ Legal (begun s.m r) r l
     let red := (onesOf (r.u 0 1) 8).flatMap fun d => (List.range 3).map fun i => (⟨swBlk d 6, 0x800 + 16 * r.u 1 1 + 4 * i, r.u (4 + 4 * i) 4⟩ : RegW)
     Runs s.m r 0x0405 [(0, 1, 8), (1, 1, 8), (2, 1, 2), (4, 4, 32), (8, 4, 32), (12, 4, 32), (16, 1, 8), (17, 1, 8), (20, 4, 32)] ∧
     r.u 2 1 = 1 ∧ r.u 1 1 < 16 ∧ May ((onesOf (r.u 0 1) 8).map (unit 0x0A)) red) ∧
    (∃ (s : State) (r : CmdReq),
     let May (us : List Nat) (l : List RegW) : Prop := (∀ u ∈ us, s.m.mayChange r u = true) ∧ Legal (begun s.m r) r l
     let credit := (List.range 9).map fun i => (⟨portBlk (r.u 0 1), 0x020 + 4 * i, r.u (12 + 4 * i) 4⟩ : RegW)
     Runs s.m r 0x0201 ([(0, 1, 8), (4, 4, 5), (8, 4, 32)] ++ (List.range 9).map (fun i => (12 + 4 * i, 4, 32)) ++ [(48, 4, 32), (52, 4, 32), (56, 1, 2)]) ∧
     r.u 4 4 = 2 ∧ May [unit 7 (r.u 0 1)] credit) ∧
    (∃ (s : State) (r : CmdReq),
     let n := r.u 0 2
     let b := swBlk (n / 2048) 6
     let o := 0x10000 + 16 * (n % 2048)
     let shape : List RegW := [⟨b, o + 4, r.u 8 4⟩, ⟨b, o + 8, r.u 12 4⟩, ⟨b, o, r.u 4 4⟩]
     Runs s.m r 0x0403 [(0, 2, 14), (4, 4, 32), (8, 4, 32), (12, 4, 32)] ∧ s.m.mayChange r (unit 8 n) = true ∧
     Legal (begun s.m r) r shape ∧ (s.m.net.shapers.get n).on = false ∧ bitAt (r.u 4 4) 15 = true) ∧
    (∃ (s : State) (r : CmdReq),
     let n := r.u 0 2
     let b := swBlk (n / 2048) 6
     let q := 0x18000 + 32 * (n % 2048)
     let police := (List.range 4).map (fun i => (⟨b, q + 4 + 4 * i, r.u (8 + 4 * i) 4⟩ : RegW)) ++ [⟨b, q, r.u 4 4⟩]
     Runs s.m r 0x0404 [(0, 2, 14), (4, 4, 32), (8, 4, 32), (12, 4, 32), (16, 4, 32), (20, 4, 32)] ∧
     s.m.mayChange r (unit 9 n) = true ∧ Legal (begun s.m r) r police ∧ (s.m.net.policers.get n).on = false ∧
     bitAt (r.u 4 4) 24 = true) :=
  ⟨⟨st (asked (up) (ask 0x0401 (zeros 12 ++ [0, 16, 0, 100]))), ask 0x0401 (zeros 12 ++ [0, 16, 0, 100]),
    by dsimp only [Runs, Legal, begun, Waits]; decide +kernel⟩,
   ⟨st (asked (up) (ask 0x0304 ([0, 0, 0, 2, 0, 0, 195, 80, 0, 0, 0, 127, 0, 0, 0, 10] ++ zeros 64))),
    ask 0x0304 ([0, 0, 0, 2, 0, 0, 195, 80, 0, 0, 0, 127, 0, 0, 0, 10] ++ zeros 64),
    by dsimp only [Runs, Legal, begun, Waits]; decide +kernel⟩,
   ⟨st (asked (up) (ask 0x0402 ([0, 0, 0, 1] ++ zeros 20))), ask 0x0402 ([0, 0, 0, 1] ++ zeros 20),
    by dsimp only [Runs, Legal, begun, Waits]; decide +kernel⟩,
   ⟨st (asked (up) (ask 0x0405 ([0x81, 15, 1, 0] ++ zeros 7 ++ [1] ++ zeros 12))),
    ask 0x0405 ([0x81, 15, 1, 0] ++ zeros 7 ++ [1] ++ zeros 12), by dsimp only [Runs, Legal, begun, Waits]; decide +kernel⟩,
   ⟨st (asked (up) (ask 0x0201 ([255, 0, 0, 0, 0, 0, 0, 2, 0, 0, 0, 0, 0, 0, 0, 9, 0, 0, 0, 9] ++ zeros 44))),
    ask 0x0201 ([255, 0, 0, 0, 0, 0, 0, 2, 0, 0, 0, 0, 0, 0, 0, 9, 0, 0, 0, 9] ++ zeros 44),
    by dsimp only [Runs, Legal, begun, Waits]; decide +kernel⟩,
   ⟨st (asked (up) (ask 0x0403 ([0, 5, 0, 0, 0, 0, 128, 64, 0, 0, 1, 0, 0, 0, 8, 40]))),
    ask 0x0403 ([0, 5, 0, 0, 0, 0, 128, 64, 0, 0, 1, 0, 0, 0, 8, 40]),
    by dsimp only [Runs, Legal, begun, Waits]; decide +kernel⟩,
   ⟨st (asked (up) (ask 0x0404 ([0, 5, 0, 0, 1, 0, 0, 128, 0, 0, 1, 0, 0, 0, 1, 0, 0, 0, 8, 40, 0, 0, 8, 40]))),
    ask 0x0404 ([0, 5, 0, 0, 1, 0, 0, 128, 0, 0, 1, 0, 0, 0, 1, 0, 0, 0, 8, 40, 0, 0, 8, 40]),
    by dsimp only [Runs, Legal, begun, Waits]; decide +kernel⟩⟩

theorem witness_TablesReadAsWritten :
    (∃ (s : State) (r : CmdReq),
     let n := r.u 12 2
     let f := r.u 8 4
     let entries := [(0, 1, 8), (1, 1, 8), (2, 2, 16), (8, 4, 32), (12, 2, 16), (16, 8 * n, 64 * n)]
     Runs s.m r 0x0301 entries ∧ r.u 0 1 = 0 ∧ n ≤ 252 ∧ f + n ≤ 131072 ∧ s.m.mayChange r (unit 0x0C 0) = true) ∧
    (∃ (s : State) (r : CmdReq),
     let n := r.u 12 2
     let f := r.u 8 4
     let chips := [(0, 1, 8), (1, 1, 8), (2, 2, 16), (8, 4, 32), (12, 2, 16), (16, 4 * n, 32 * n)]
     Runs s.m r 0x0301 chips ∧ r.u 0 1 = 1 ∧ r.u 1 1 < 64 ∧ r.u 2 2 ≤ 1024 ∧ n ≤ 504 ∧ f + n ≤ r.u 2 2 ∧
     (∀ i, i < n → r.u (16 + 4 * i) 4 ≤ 131071) ∧ s.m.mayChange r (unit 0x0C 0) = true) ∧
    (∃ (s : State) (r : CmdReq),
     let n := r.u 12 2
     let f := r.u 8 4
     Runs s.m r 0x0302 [(0, 1, 1), (1, 1, 8), (8, 4, 32), (12, 2, 16)] ∧ r.u 0 1 = 0 ∧ n ≤ 252 ∧ f + n ≤ 131072) ∧
    (∃ (s : State) (r : CmdReq), Runs s.m r 0x0303 (pinLay r) ∧ r.u 0 1 = 0 ∧ r.u 1 1 = 1 ∧ pinOk r = true ∧
     s.m.mayChange r (unit 0x0D 0) = true ∧ (s.m.net.pins.get (pinAt r 0).bucket).length < 4) ∧
    (∃ (s : State) (r : CmdReq), Runs s.m r 0x0303 (pinLay r) ∧ r.u 0 1 = 0 ∧ r.u 1 1 = 1 ∧ pinOk r = true ∧
     s.m.mayChange r (unit 0x0D 0) = true ∧ 4 ≤ (s.m.net.pins.get (pinAt r 0).bucket).length) ∧
    (∃ (s : State) (r : CmdReq), Runs s.m r 0x0303 (pinLay r) ∧ r.u 0 1 = 1 ∧ r.u 1 1 = 1 ∧ pinOk r = true ∧
     s.m.mayChange r (unit 0x0D 0) = true) ∧
    (∃ (s : State) (r : CmdReq), Runs s.m r 0x0505 ([(0, 2, 14)] ++ (List.range 5).map fun i => (8 + 8 * i, 8, 64)) ∧
     2 ≤ bits (r.u 8 8) 14 12 ∧ s.m.mayChange r (unit 3 (r.u 0 2)) = true) :=
  ⟨⟨st (asked (up) (ask 0x0301 ([0, 0, 0, 0, 0, 0, 0, 0, 0, 1, 255, 255, 0, 1, 0, 0] ++ zeros 8))),
    ask 0x0301 ([0, 0, 0, 0, 0, 0, 0, 0, 0, 1, 255, 255, 0, 1, 0, 0] ++ zeros 8),
    by dsimp only [Runs, Waits]; decide +kernel⟩,
   ⟨st (asked (up) (ask 0x0301 ([1, 63, 4, 0, 0, 0, 0, 0, 0, 0, 3, 255, 0, 1, 0, 0, 0, 1, 255, 255]))),
    ask 0x0301 ([1, 63, 4, 0, 0, 0, 0, 0, 0, 0, 3, 255, 0, 1, 0, 0, 0, 1, 255, 255]),
    by dsimp only [Runs, Waits]; decide +kernel⟩,
   ⟨st (asked (up) (ask 0x0302 ([0, 0, 0, 0, 0, 0, 0, 0, 0, 1, 255, 4, 0, 252]))),
    ask 0x0302 ([0, 0, 0, 0, 0, 0, 0, 0, 0, 1, 255, 4, 0, 252]), by dsimp only [Runs, Waits]; decide +kernel⟩,
   ⟨st (asked (up) (ask 0x0303 ([0, 1] ++ zeros 24 ++ [1]))), ask 0x0303 ([0, 1] ++ zeros 24 ++ [1]),
    by dsimp only [Runs, Waits]; decide +kernel⟩,
   ⟨st (asked ({ up with net := { pins := ⟨[((pinAt (ask 0x0303 ([0, 1] ++ zeros 24 ++ [1])) 0).bucket, List.replicate 4 {})]⟩ } }) (ask 0x0303 ([0, 1] ++ zeros 24 ++ [1]))),
    ask 0x0303 ([0, 1] ++ zeros 24 ++ [1]), by dsimp only [Runs, Waits]; decide +kernel⟩,
   ⟨st (asked (up) (ask 0x0303 ([1, 1] ++ zeros 24 ++ [1]))), ask 0x0303 ([1, 1] ++ zeros 24 ++ [1]),
    by dsimp only [Runs, Waits]; decide +kernel⟩,
   ⟨st (asked (up) (ask 0x0505 (zeros 14 ++ [32] ++ zeros 33))), ask 0x0505 (zeros 14 ++ [32] ++ zeros 33),
    by dsimp only [Runs, Waits]; decide +kernel⟩⟩

theorem witness_PortsPlansAndRings :
    (∃ (s : State) (r : CmdReq), Runs s.m r 0x0202 [(0, 1, 8), (1, 1, 8)] ∧ r.u 1 1 ≠ 0 ∧ r.u 1 1 ≤ 32 ∧
     r.u 0 1 + r.u 1 1 ≤ 256) ∧
    (∃ (s : State) (r : CmdReq),
     let words := (List.range (r.u 2 2)).map fun i => (0x400 + 4 * (r.u 0 2 + i), r.u (16 + 4 * i) 4)
     Runs s.m r 0x0203 [(0, 2, 16), (2, 2, 16), (16, 4 * r.u 2 2, 32 * r.u 2 2)] ∧ r.u 2 2 ≠ 0 ∧ r.u 0 2 + r.u 2 2 ≤ 256 ∧
     s.m.mayChange r (unit 0x0F 0) = true ∧ (∀ x ∈ words, s.m.keepStatus r.side x.1 x.2 = St.ok)) ∧
    (∃ (s : State) (r : CmdReq),
     Runs s.m r 0x0406 [(0, 1, 3), (1, 1, 8), (4, 4, 32), (8, 4, 32), (12, 4, 32), (16, 256, 2048)] ∧ 16 ≤ r.u 1 1 ∧
     r.u 1 1 ≤ 27 ∧ r.u 1 1 ≠ (s.m.die (r.u 0 1)).ring.sizeLog2 ∧ s.m.mayChange r (unit 0x0A (r.u 0 1)) = true ∧
     s.m.r308 (s.m.ringBytes - ringSize (s.m.die (r.u 0 1)).ring.sizeLog2 + ringSize (r.u 1 1)) = true ∧
     Legal ((begun s.m r).resizeRing (r.u 0 1) (r.u 1 1)) r (windsockRegs r (swBlk (r.u 0 1) 8))) ∧
    (∃ (s : State) (r : CmdReq),
     Runs s.m r 0x0406 [(0, 1, 3), (1, 1, 8), (4, 4, 32), (8, 4, 32), (12, 4, 32), (16, 256, 2048)] ∧ 16 ≤ r.u 1 1 ∧
     r.u 1 1 ≤ 27 ∧ r.u 1 1 ≠ (s.m.die (r.u 0 1)).ring.sizeLog2 ∧ s.m.mayChange r (unit 0x0A (r.u 0 1)) = true ∧
     s.m.r308 (s.m.ringBytes - ringSize (s.m.die (r.u 0 1)).ring.sizeLog2 + ringSize (r.u 1 1)) = false) :=
  ⟨⟨st (asked (up) (ask 0x0202 ([224, 32]))), ask 0x0202 ([224, 32]), by dsimp only [Runs, Waits]; decide +kernel⟩,
   ⟨st (asked (up) (ask 0x0203 ([0, 255, 0, 1] ++ zeros 16))), ask 0x0203 ([0, 255, 0, 1] ++ zeros 16),
    by dsimp only [Runs, Waits]; decide +kernel⟩,
   ⟨st (asked (up) (ask 0x0406 ([7, 16] ++ zeros 270))), ask 0x0406 ([7, 16] ++ zeros 270),
    by dsimp only [Runs, Legal, begun, Waits]; decide +kernel⟩,
   ⟨st (asked (withReg { up with dies := ⟨(List.range 6).map fun d => (d, { mode := 2, ring := { sizeLog2 := 27 } })⟩ } (hubBlk 1) 0x004 0 54) (ask 0x0406 ([7, 27] ++ zeros 270))),
    ask 0x0406 ([7, 27] ++ zeros 270), by dsimp only [Runs, Waits]; decide +kernel⟩⟩

theorem witness_GroupsFollowTheirCommands :
    (∃ (s : State) (r : CmdReq),
     let g := r.u 0 2
     Runs s.m r 0x0501 [(0, 2, 16), (2, 2, 12), (4, 1, 8)] ∧ (s.m.grp g).used = false ∧
     (r.u 4 1 = 2 ∨ (4 ≤ r.u 4 1 ∧ r.u 4 1 ≤ 7)) ∧ (s.m.coll.groups.cells.filter fun c => c.2.used).length < 4096) ∧
    (∃ (s : State) (r : CmdReq),
     let g := r.u 0 2
     let d := (r.u 4 4 + 2 ^ 32 - (s.m.grp g).epoch) % 2 ^ 32
     Runs s.m r 0x0502 [(0, 2, 16), (4, 4, 32), (8, 4, 18), (12, 4, 32)] ∧ (s.m.grp g).used = true ∧
     s.m.mayChange r (unit 2 g) = true ∧ s.m.groupBusy g = false ∧ d ≠ 0 ∧ d < 2 ^ 31 ∧ r.u 8 4 ≠ 0 ∧ r.u 8 4 ≤ 131072) ∧
    (∃ (s : State) (r : CmdReq),
     let g := r.u 0 2
     let nc := r.u 10 1
     let nl := r.u 12 2
     Runs s.m r 0x0503 [(0, 2, 16), (2, 1, 8), (3, 1, 8), (4, 4, 17), (8, 1, 3), (9, 1, 1), (10, 1, 8), (12, 2, 16), (14, 1, 2), (16, 12 * (nc + nl), 96 * (nc + nl))] ∧
     (s.m.grp g).used = true ∧ r.u 2 1 < r.u 3 1 ∧ r.u 3 1 ≤ 8 ∧ nc = 1 ∧ nl = 0 ∧ r.u 14 1 = 0 ∧ r.u 16 4 ≤ 131071 ∧
     r.u 20 4 ≤ 131071 ∧ r.u 24 4 ≤ 131071 ∧ s.m.mayChange r (unit 2 g) = true ∧ (s.m.grp g).plans.cells = []) ∧
    (∃ (s : State) (r : CmdReq),
     let g := r.u 0 2
     let nc := r.u 10 1
     let nl := r.u 12 2
     Runs s.m r 0x0503 [(0, 2, 16), (2, 1, 8), (3, 1, 8), (4, 4, 17), (8, 1, 3), (9, 1, 1), (10, 1, 8), (12, 2, 16), (14, 1, 2), (16, 12 * (nc + nl), 96 * (nc + nl))] ∧
     (s.m.grp g).used = true ∧ nc = 0 ∧ nl = 1 ∧ (s.m.grp g).n ≤ r.u 16 4) ∧
    (∃ (s : State) (r : CmdReq),
     let g := r.u 0 2
     Runs s.m r 0x0504 [(0, 2, 16)] ∧ (s.m.grp g).used = true ∧ s.m.mayChange r (unit 2 g) = true ∧
     s.m.groupBusy g = false) ∧
    (∃ (s : State) (r : CmdReq),
     let g := r.u 0 2
     Runs s.m r 0x0504 [(0, 2, 16)] ∧ (s.m.grp g).used = true ∧ s.m.mayChange r (unit 2 g) = true ∧ s.m.groupBusy g = true) :=
  ⟨⟨st (asked (up) (ask 0x0501 ([0, 5, 0, 0, 7]))), ask 0x0501 ([0, 5, 0, 0, 7]),
    by dsimp only [Runs, Waits]; decide +kernel⟩,
   ⟨st (asked ({ up with coll := { groups := ⟨[(5, { used := true, n := 2 })]⟩ } }) (ask 0x0502 ([0, 5, 0, 0, 0, 0, 0, 1, 0, 0, 0, 2]))),
    ask 0x0502 ([0, 5, 0, 0, 0, 0, 0, 1, 0, 0, 0, 2]), by dsimp only [Runs, Waits]; decide +kernel⟩,
   ⟨st (asked ({ up with coll := { groups := ⟨[(5, { used := true, n := 2 })]⟩ } }) (ask 0x0503 ([0, 5, 0, 1] ++ zeros 6 ++ [1] ++ zeros 17))),
    ask 0x0503 ([0, 5, 0, 1] ++ zeros 6 ++ [1] ++ zeros 17), by dsimp only [Runs, Waits]; decide +kernel⟩,
   ⟨st (asked ({ up with coll := { groups := ⟨[(5, { used := true, n := 2 })]⟩ } }) (ask 0x0503 ([0, 5, 0, 1] ++ zeros 9 ++ [1] ++ zeros 2 ++ [0, 0, 0, 2] ++ zeros 8))),
    ask 0x0503 ([0, 5, 0, 1] ++ zeros 9 ++ [1] ++ zeros 2 ++ [0, 0, 0, 2] ++ zeros 8),
    by dsimp only [Runs, Waits]; decide +kernel⟩,
   ⟨st (asked ({ up with coll := { groups := ⟨[(5, { used := true, n := 2 })]⟩ } }) (ask 0x0504 ([0, 5]))),
    ask 0x0504 ([0, 5]), by dsimp only [Runs, Waits]; decide +kernel⟩,
   ⟨st (asked ({ up with coll := { groups := ⟨[(5, { used := true, n := 2 })]⟩, ctxs := ⟨[(5 * 65536, { used := true, handle := 5 * 65536, group := 5 })]⟩ } }) (ask 0x0504 ([0, 5]))),
    ask 0x0504 ([0, 5]), by dsimp only [Runs, Waits]; decide +kernel⟩⟩

theorem witness_ObjectsAreCreatedAndDeleted :
    (∃ (s : State) (r : CmdReq) (i : Nat), ∃ t o,
     let lay := [(0, 2, 12), (2, 1, 2), (3, 1, 3), (4, 2, 16), (6, 1, 1), (8, 4, 32), (12, 4, 32)]
     let made := s.m.store.create (r.u 0 2) (r.u 2 1) (r.u 3 1) (r.u 4 2) (r.u 6 1 == 1) (r.u 8 4) (r.u 12 4)
     Runs s.m r 0x0601 lay ∧ r.u 12 4 ≠ 0 ∧ r.u 12 4 ≤ r.u 8 4 ∧ made = some (t, o, i)) ∧
    (∃ (s : State) (r : CmdReq),
     let lay := [(0, 2, 12), (2, 1, 2), (3, 1, 3), (4, 2, 16), (6, 1, 1), (8, 4, 32), (12, 4, 32)]
     let made := s.m.store.create (r.u 0 2) (r.u 2 1) (r.u 3 1) (r.u 4 2) (r.u 6 1 == 1) (r.u 8 4) (r.u 12 4)
     Runs s.m r 0x0601 lay ∧ r.u 12 4 ≠ 0 ∧ r.u 12 4 ≤ r.u 8 4 ∧ made = none) ∧
    (∃ (s : State) (r : CmdReq) (i : Nat), Runs s.m r 0x0602 [(0, 4, 32), (4, 4, 32)] ∧
     s.m.store.find (r.u 0 4) = some i ∧ s.m.mayChange r (unit 1 i) = true ∧ (s.m.obj i).job = none ∧
     (s.m.obj i).dig = none ∧ (s.m.obj i).claims = [] ∧ r.u 4 4 ≠ 0 ∧ r.u 4 4 ≤ (s.m.obj i).max ∧
     (s.m.obj i).sealed_ = false ∧ ceilDiv (r.u 4 4) 16384 ≤ (s.m.obj i).segs.length) ∧
    (∃ (s : State) (r : CmdReq) (i : Nat), Runs s.m r 0x0609 [(0, 4, 32)] ∧ s.m.store.find (r.u 0 4) = some i ∧
     s.m.mayChange r (unit 1 i) = true ∧ (s.m.obj i).job = none ∧ (s.m.obj i).dig = none ∧ (s.m.obj i).claims = []) :=
  ⟨⟨st (asked (up) (ask 0x0601 ([0, 0, 0, 0, 0, 0, 0, 0, 0, 0, 64, 0, 0, 0, 0, 4]))),
    ask 0x0601 ([0, 0, 0, 0, 0, 0, 0, 0, 0, 0, 64, 0, 0, 0, 0, 4]), 0,
    ((up.store.create 0 0 0 0 false 16384 4).getD default).1, ((up.store.create 0 0 0 0 false 16384 4).getD default).2.1,
    by dsimp only [Runs, Waits]; decide +kernel⟩,
   ⟨st (asked (up) (ask 0x0601 ([0, 0, 1, 7, 0, 0, 0, 0, 255, 255, 255, 255, 0, 0, 0, 4]))),
    ask 0x0601 ([0, 0, 1, 7, 0, 0, 0, 0, 255, 255, 255, 255, 0, 0, 0, 4]), by dsimp only [Runs, Waits]; decide +kernel⟩,
   ⟨st (asked (obj1) (ask 0x0602 ([0, 16, 0, 0, 0, 0, 64, 0]))), ask 0x0602 ([0, 16, 0, 0, 0, 0, 64, 0]), 0,
    by dsimp only [Runs, Waits]; decide +kernel⟩,
   ⟨st (asked (obj1) (ask 0x0609 ([0, 16, 0, 0]))), ask 0x0609 ([0, 16, 0, 0]), 0,
    by dsimp only [Runs, Waits]; decide +kernel⟩⟩

theorem witness_CommitsRaiseTheVersion :
    (∃ (s : State) (r : CmdReq) (i : Nat),
     let o := s.m.obj i
     s.m.store.find (r.u 0 4) = some i ∧ s.m.mayChange r (unit 1 i) = true ∧ Runs s.m r 0x0605 [(0, 4, 32)] ∧
     o.dig = none ∧ o.claims = [] ∧ o.sealed_ = false) ∧
    (∃ (s : State) (r : CmdReq) (i : Nat),
     let o := s.m.obj i
     s.m.store.find (r.u 0 4) = some i ∧ s.m.mayChange r (unit 1 i) = true ∧ Runs s.m r 0x0605 [(0, 4, 32)] ∧
     o.dig = none ∧ o.claims = [] ∧ o.sealed_ = true) ∧
    (∃ (s : State) (r : CmdReq) (i e : Nat),
     let o := s.m.obj i
     s.m.store.find (r.u 0 4) = some i ∧ s.m.mayChange r (unit 1 i) = true ∧ Runs s.m r 0x0606 [(0, 4, 32)] ∧
     o.dig = none ∧ o.claims = [] ∧ o.sealed_ = false ∧ s.m.trk.room 4 = true ∧ s.m.trk.pick = some e ∧ e < 2 ^ 14) ∧
    (∃ (s : State) (r : CmdReq) (i : Nat),
     let o := s.m.obj i
     s.m.store.find (r.u 0 4) = some i ∧ s.m.mayChange r (unit 1 i) = true ∧ Runs s.m r 0x0607 [(0, 4, 32)] ∧
     o.sealed_ = true) :=
  ⟨⟨st (asked (obj1) (ask 0x0605 ([0, 16, 0, 0]))), ask 0x0605 ([0, 16, 0, 0]), 0,
    by dsimp only [Runs, Waits]; decide +kernel⟩,
   ⟨st (asked (withObjs up [(0, { obj0 with sealed_ := true })]) (ask 0x0605 ([0, 16, 0, 0]))),
    ask 0x0605 ([0, 16, 0, 0]), 0, by dsimp only [Runs, Waits]; decide +kernel⟩,
   ⟨st (asked (obj1) (ask 0x0606 ([0, 16, 0, 0]))), ask 0x0606 ([0, 16, 0, 0]), 0, 0,
    by dsimp only [Runs, Waits]; decide +kernel⟩,
   ⟨st (asked (withObjs up [(0, { obj0 with sealed_ := true })]) (ask 0x0607 ([0, 16, 0, 0]))),
    ask 0x0607 ([0, 16, 0, 0]), 0, by dsimp only [Runs, Waits]; decide +kernel⟩⟩

theorem witness_DigestsAndBadTiles :
    (∃ (s : State) (handle i : Nat) (j : Job) (c : EccIn),
     let o := s.m.obj i
     let clean := ∀ t, j.pos ≤ t → t < o.size → s.m.isPoisoned (s.m.present o t) = false ∧ Sound s.m c (s.m.present o t)
     let near := ∀ t, j.pos ≤ t → t < o.size → s.m.unitDown (tileUnit (s.m.present o t)) = false
     let open_ := (s.m.trk.ents.get (j.entry % 2 ^ 14)).handle = j.entry ∧ (s.m.trk.ents.get (j.entry % 2 ^ 14)).st = 1
     s.m.store.find handle = some i ∧ o.dig = some j ∧ j.kind = 2 ∧ s.m.pwr.main = true ∧ open_ ∧ near ∧ clean) ∧
    (∃ (s : State) (handle i : Nat) (j : Job) (c : EccIn),
     let o := s.m.obj i
     let clean := ∀ t, j.pos ≤ t → t < o.size → s.m.isPoisoned (s.m.present o t) = false ∧ Sound s.m c (s.m.present o t)
     let near := ∀ t, j.pos ≤ t → t < o.size → s.m.unitDown (tileUnit (s.m.present o t)) = false
     let open_ := (s.m.trk.ents.get (j.entry % 2 ^ 14)).handle = j.entry ∧ (s.m.trk.ents.get (j.entry % 2 ^ 14)).st = 1
     s.m.store.find handle = some i ∧ o.dig = some j ∧ j.kind = 2 ∧ s.m.pwr.main = true ∧ open_ ∧ near ∧ ¬ clean) ∧
    (∃ (s : State) (handle i : Nat) (j : Job) (c : EccIn),
     let o := s.m.obj i
     let clean := ∀ t, j.pos ≤ t → t < o.size → s.m.isPoisoned (s.m.present o t) = false ∧ Sound s.m c (s.m.present o t)
     let near := ∀ t, j.pos ≤ t → t < o.size → s.m.unitDown (tileUnit (s.m.present o t)) = false
     let open_ := (s.m.trk.ents.get (j.entry % 2 ^ 14)).handle = j.entry ∧ (s.m.trk.ents.get (j.entry % 2 ^ 14)).st = 1
     s.m.store.find handle = some i ∧ o.dig = some j ∧ j.kind = 2 ∧ s.m.pwr.main = true ∧ open_ ∧ ¬ near ∧ clean) ∧
    (∃ (s : State) (handle i : Nat) (j : Job) (c : EccIn),
     let o := s.m.obj i
     let clean := ∀ t, j.pos ≤ t → t < o.size → s.m.isPoisoned (s.m.present o t) = false ∧ Sound s.m c (s.m.present o t)
     let near := ∀ t, j.pos ≤ t → t < o.size → s.m.unitDown (tileUnit (s.m.present o t)) = false
     let open_ := (s.m.trk.ents.get (j.entry % 2 ^ 14)).handle = j.entry ∧ (s.m.trk.ents.get (j.entry % 2 ^ 14)).st = 1
     s.m.store.find handle = some i ∧ o.dig = some j ∧ j.kind = 3 ∧ s.m.pwr.main = true ∧ open_ ∧ near ∧ clean) ∧
    (∃ (s : State) (r : CmdReq) (i : Nat),
     let o := s.m.obj i
     Runs s.m r 0x0608 [(0, 4, 32)] ∧ s.m.store.find (r.u 0 4) = some i ∧ o.sealed_ = true) ∧
    (∃ (s : State) (r : CmdReq) (i e : Nat),
     let o := s.m.obj i
     Runs s.m r 0x0608 [(0, 4, 32)] ∧ s.m.store.find (r.u 0 4) = some i ∧ o.sealed_ = false ∧ o.dig = none ∧
     s.m.trk.room 4 = true ∧ s.m.trk.pick = some e ∧ e < 2 ^ 14) ∧
    (∃ (s : State) (handle tile i : Nat),
     let o := s.m.obj i
     let l := (if o.retain then [false, true] else [false]).map (s.m.store.keyOf o tile)
     s.m.pwr.main = true ∧ s.m.pwr.selfRefresh = false ∧ handle ≠ 0 ∧ s.m.store.find handle = some i ∧
     tile < 16384 * o.segs.length ∧
     (∀ k ∈ l, s.m.unitDown (tileUnit k) = false ∧ s.m.reg (memBlk (tileUnit k)) (if tileUnit k < 16 then 0x004 else 0x00C) 0 ≠ 0)) ∧
    (∃ (s : State) (r : CmdReq) (i x : Nat),
     let o := s.m.obj i
     let g := o.segOf (r.u 4 4)
     let second := if s.m.isPoisoned (s.m.present o (r.u 4 4)) then o.flip.get (r.u 4 4) else !o.flip.get (r.u 4 4)
     let old := (if second then g.b else g.a).getD (s.m.store.placeOf (o.handle % 16) g (r.u 4 4 % 16384)).1 (0, 0)
     Runs s.m r 0x060A [(0, 4, 32), (4, 4, 32)] ∧ s.m.store.find (r.u 0 4) = some i ∧ s.m.mayChange r (unit 1 i) = true ∧
     o.dig = none ∧ o.sealed_ = false ∧ r.u 4 4 < o.size ∧ s.m.tilePoisoned o (r.u 4 4) = true ∧
     s.m.unitDown old.1 = false ∧ s.m.store.lowest old.1 = some x) ∧
    (∃ (s : State), s.m.pwr.main = true ∧ s.m.pwr.lull ≤ 1) :=
  ⟨⟨st (withDig { kind := 2, entry := 5 * 2 ^ 14 }), 2 ^ 20, 0, { kind := 2, entry := 5 * 2 ^ 14 }, {},
    by dsimp only [Sound]; refine ⟨by decide +kernel, by decide +kernel, by decide +kernel, by decide +kernel, ⟨by decide +kernel, by decide +kernel⟩, fun t _ h => by have h : t < 4 := h; interval_cases t <;> decide +kernel, fun t _ h => by have h : t < 4 := h; interval_cases t <;> decide +kernel⟩⟩,
   ⟨st (poison1 (withDig { kind := 2, entry := 5 * 2 ^ 14 }) 3), 2 ^ 20, 0, { kind := 2, entry := 5 * 2 ^ 14 }, {},
    by dsimp only [Sound]; refine ⟨by decide +kernel, by decide +kernel, by decide +kernel, by decide +kernel, ⟨by decide +kernel, by decide +kernel⟩, fun t _ h => by have h : t < 4 := h; interval_cases t <;> decide +kernel, fun h => absurd (h 3 (by decide +kernel) (by decide +kernel)).1 (by decide +kernel)⟩⟩,
   ⟨st { (withDig { kind := 2, entry := 5 * 2 ^ 14 }) with flt := { fenced := 255 } }, 2 ^ 20, 0,
    { kind := 2, entry := 5 * 2 ^ 14 }, {},
    by dsimp only [Sound]; refine ⟨by decide +kernel, by decide +kernel, by decide +kernel, by decide +kernel, ⟨by decide +kernel, by decide +kernel⟩, fun h => absurd (h 3 (by decide +kernel) (by decide +kernel)) (by decide +kernel), fun t _ h => by have h : t < 4 := h; interval_cases t <;> decide +kernel⟩⟩,
   ⟨st (withDig { kind := 3, entry := 5 * 2 ^ 14 }), 2 ^ 20, 0, { kind := 3, entry := 5 * 2 ^ 14 }, {},
    by dsimp only [Sound]; refine ⟨by decide +kernel, by decide +kernel, by decide +kernel, by decide +kernel, ⟨by decide +kernel, by decide +kernel⟩, fun t _ h => by have h : t < 4 := h; interval_cases t <;> decide +kernel, fun t _ h => by have h : t < 4 := h; interval_cases t <;> decide +kernel⟩⟩,
   ⟨st (asked (withObjs up [(0, { obj0 with sealed_ := true })]) (ask 0x0608 ([0, 16, 0, 0]))),
    ask 0x0608 ([0, 16, 0, 0]), 0, by dsimp only [Runs, Waits]; decide +kernel⟩,
   ⟨st (asked (obj1) (ask 0x0608 ([0, 16, 0, 0]))), ask 0x0608 ([0, 16, 0, 0]), 0, 0,
    by dsimp only [Runs, Waits]; decide +kernel⟩,
   ⟨st (withReg obj1 (memBlk 3) 0x004 0 1), 2 ^ 20, 3, 0, by dsimp only; decide +kernel⟩,
   ⟨st (asked (poison1 obj1 3) (ask 0x060A ([0, 16, 0, 0, 0, 0, 0, 3]))), ask 0x060A ([0, 16, 0, 0, 0, 0, 0, 3]), 0, 0,
    by dsimp only [Runs, Waits]; decide +kernel⟩,
   ⟨st up, by decide +kernel⟩⟩

theorem witness_MigrationsMoveSegments :
    (∃ (s : State) (r : CmdReq) (i : Nat),
     let lay := [(0, 4, 32), (4, 1, 2), (5, 1, 3), (6, 2, 16)]
     let todo := (moves 0 (s.m.obj i).segs.length (r.u 4 1) (r.u 5 1) (r.u 6 2)).filter fun x => !(((s.m.obj i).segs.getD x.1 {}).isAt x.2.1 x.2.2)
     Runs s.m r 0x0603 lay ∧ s.m.store.find (r.u 0 4) = some i ∧ s.m.mayChange r (unit 1 i) = true ∧
     (s.m.obj i).job = none ∧ (s.m.obj i).dig = none ∧ todo = []) ∧
    (∃ (s : State) (r : CmdReq) (i e : Nat),
     Runs s.m r 0x0604 [(0, 4, 32), (4, 4, 32), (8, 4, 32), (12, 1, 2), (13, 1, 3), (14, 2, 16)] ∧
     s.m.store.find (r.u 0 4) = some i ∧ s.m.mayChange r (unit 1 i) = true ∧ (s.m.obj i).job = none ∧
     (s.m.obj i).dig = none ∧ r.u 8 4 = 1 ∧ r.u 4 4 < (s.m.obj i).segs.length ∧ r.u 14 2 ≤ 1000 ∧ r.u 12 1 < 2 ∧
     ((s.m.obj i).segs.getD (r.u 4 4) {}).isAt (r.u 12 1) (r.u 13 1) = false ∧ s.m.trk.room 3 = true ∧
     s.m.trk.pick = some e ∧ e < 2 ^ 14 ∧ (s.m.store.newSeg (s.m.obj i).retain (r.u 12 1) (r.u 13 1)).isSome = true) ∧
    (∃ (s : State) (i e : Nat) (o : Obj) (j : Job) (sg p d : Nat),
     (s.m.store.objs.cells.find? fun c => c.2.job.any fun j => j.entry == (s.m.trk.ents.get e).handle) = some (i, o) ∧
     s.m.obj i = o ∧ o.job = some j ∧ j.todo = [(sg, p, d)] ∧ j.destA ≠ [] ∧ s.m.pwr.main = true ∧
     (∀ b k, s.m.unitDown (tileUnit (s.m.store.keyIn o (o.segs.getD sg {}) k b)) = false ∧ s.m.unitDown (tileUnit (s.m.store.keyIn o { placement := p, die := d, a := j.destA, b := j.destB } k b)) = false) ∧
     (s.m.trk.ents.get e).handle % 2 ^ 14 = e ∧ (s.m.trk.ents.get e).st = 1 ∧ j.entry = (s.m.trk.ents.get e).handle) :=
  ⟨⟨st (asked (obj1) (ask 0x0603 ([0, 16, 0, 0]))), ask 0x0603 ([0, 16, 0, 0]), 0,
    by dsimp only [Runs, Waits]; decide +kernel⟩,
   ⟨st (asked (obj1) (ask 0x0604 ([0, 16, 0, 0, 0, 0, 0, 0, 0, 0, 0, 1, 1, 0, 3, 232]))),
    ask 0x0604 ([0, 16, 0, 0, 0, 0, 0, 0, 0, 0, 0, 1, 1, 0, 3, 232]), 0, 0, by dsimp only [Runs, Waits]; decide +kernel⟩,
   ⟨st (withJob { kind := 1, entry := 5 * 2 ^ 14, todo := [(0, 1, 0)], destA := [(0, 9)] }), 0, 0,
    { obj0 with job := some { kind := 1, entry := 5 * 2 ^ 14, todo := [(0, 1, 0)], destA := [(0, 9)] } },
    { kind := 1, entry := 5 * 2 ^ 14, todo := [(0, 1, 0)], destA := [(0, 9)] }, 0, 1, 0,
    by exact ⟨by decide +kernel, by decide +kernel, by decide +kernel, by decide +kernel, by decide +kernel, by decide +kernel, fun _ _ => ⟨unit_up rfl _, unit_up rfl _⟩, by decide +kernel, by decide +kernel, by decide +kernel⟩⟩⟩

theorem witness_ScalarInstructions :
    (∃ w, bits w 31 26 = 2 ∧ 16 ≤ bits w 4 0) ∧
    (∃ (s : State) (e w : Nat) (r : Run), Issues s.m e 0x02 r w ∧ bits w 4 0 < 16) ∧
    (∃ (s : State) (e w : Nat) (r : Run), Issues s.m e 0x03 r w) ∧
    (∃ (s : State) (e w : Nat) (r : Run), Issues s.m e 0x04 r w) ∧
    (∃ (s : State) (e w : Nat) (r : Run), Issues s.m e 0x05 r w) ∧
    (∃ (s : State) (e w : Nat) (r : Run), Issues s.m e 0x06 r w) ∧
    (∃ (s : State) (e w : Nat) (r : Run), Issues s.m e 0x07 r w ∧ bits w 7 6 < 3) ∧
    (∃ (s : State) (e w : Nat) (r : Run), Issues s.m e 0x08 r w) ∧
    (∃ (s : State) (e w : Nat) (r : Run), Issues s.m e 0x0F r w) ∧
    (∃ (s : State) (e w : Nat) (r : Run), Issues s.m e 0x1C r w) ∧
    (∃ (s : State) (e w : Nat) (r : Run) (i : Nat), Issues s.m e 0x11 r w ∧
     s.m.runObj r (handleOf ((s.m.eng e).rd (fA w))) = .inl i ∧ (s.m.obj i).version < 2 ^ 32) :=
  ⟨⟨0x8000010, by decide +kernel⟩,
   ⟨st (eng1 [0x822180f] {} {}), 127, 0x822180f, { slot := 5 }, by dsimp only [Issues, Shaped]; decide +kernel⟩,
   ⟨st (eng1 [0xc21ffff] {} {}), 127, 0xc21ffff, { slot := 5 }, by dsimp only [Issues, Shaped]; decide +kernel⟩,
   ⟨st (eng1 [0x10210001] {} {}), 127, 0x10210001, { slot := 5 }, by dsimp only [Issues, Shaped]; decide +kernel⟩,
   ⟨st (eng1 [0x14210001] {} {}), 127, 0x14210001, { slot := 5 }, by dsimp only [Issues, Shaped]; decide +kernel⟩,
   ⟨st (eng1 [0x18210001] {} {}), 127, 0x18210001, { slot := 5 }, by dsimp only [Issues, Shaped]; decide +kernel⟩,
   ⟨st (eng1 [0x1c2100bf] {} {}), 127, 0x1c2100bf, { slot := 5 }, by dsimp only [Issues, Shaped]; decide +kernel⟩,
   ⟨st (eng1 [0x2023ffff] {} {}), 127, 0x2023ffff, { slot := 5 }, by dsimp only [Issues, Shaped]; decide +kernel⟩,
   ⟨st (eng1 [0x3c210000] {} {}), 127, 0x3c210000, { slot := 5 }, by dsimp only [Issues, Shaped]; decide +kernel⟩,
   ⟨st (eng1 [0x70210000] {} {}), 127, 0x70210000, { slot := 5 }, by dsimp only [Issues, Shaped]; decide +kernel⟩,
   ⟨st (eng1 [0x44410000] {} (s1 (2 ^ 20))), 127, 0x44410000, { slot := 5 }, 0,
    by dsimp only [Issues, Shaped]; decide +kernel⟩⟩

theorem witness_BranchesAndWaits :
    (∃ (s : State) (e w : Nat) (r : Run), Issues s.m e 0x09 r w) ∧
    (∃ (s : State) (e w : Nat) (r : Run), Issues s.m e 0x0A r w) ∧
    (∃ (s : State) (e w : Nat) (r : Run), Issues s.m e 0x0B r w) ∧
    (∃ (s : State) (e w : Nat) (r : Run), Issues s.m e 0x0C r w) ∧
    (∃ (s : State) (e w : Nat) (r : Run), Issues s.m e 0x0D r w) ∧
    (∃ (s : State) (e w : Nat) (r : Run), Issues s.m e 0x0E r w) ∧
    (∃ (s : State) (e w : Nat) (r : Run),
     let x := s.m.eng e
     Issues s.m e 0x10 r w ∧ (x.rd (fA w)).toNat ≤ s.m.now) ∧
    (∃ (s : State) (e w : Nat) (r : Run),
     let x := s.m.eng e
     Issues s.m e 0x10 r w ∧ s.m.now < (x.rd (fA w)).toNat) ∧
    (∃ (s : State) (e t : Nat) (r : Run),
     let x := s.m.eng e
     x.run = some r ∧ r.wait = some t ∧ s.m.working = true) :=
  ⟨⟨st (eng1 [0x2422ffff] {} {}), 127, 0x2422ffff, { slot := 5 }, by dsimp only [Issues, Shaped]; decide +kernel⟩,
   ⟨st (eng1 [0x2822ffff] {} {}), 127, 0x2822ffff, { slot := 5 }, by dsimp only [Issues, Shaped]; decide +kernel⟩,
   ⟨st (eng1 [0x2c22ffff] {} {}), 127, 0x2c22ffff, { slot := 5 }, by dsimp only [Issues, Shaped]; decide +kernel⟩,
   ⟨st (eng1 [0x3022ffff] {} {}), 127, 0x3022ffff, { slot := 5 }, by dsimp only [Issues, Shaped]; decide +kernel⟩,
   ⟨st (eng1 [0x3422ffff] {} {}), 127, 0x3422ffff, { slot := 5 }, by dsimp only [Issues, Shaped]; decide +kernel⟩,
   ⟨st (eng1 [0x3822ffff] {} {}), 127, 0x3822ffff, { slot := 5 }, by dsimp only [Issues, Shaped]; decide +kernel⟩,
   ⟨st (eng1 [0x40010000] {} {}), 127, 0x40010000, { slot := 5 }, by dsimp only [Issues, Shaped]; decide +kernel⟩,
   ⟨st (eng1 [0x40010000] {} (s1 9)), 127, 0x40010000, { slot := 5 }, by dsimp only [Issues, Shaped]; decide +kernel⟩,
   ⟨st { up with engs := ⟨[(127, { run := some { wait := some 9 } })]⟩ }, 127, 9, { wait := some 9 },
    by dsimp only; decide +kernel⟩⟩

theorem witness_TilesAndMasks :
    (∃ (s : State) (e w : Nat) (r : Run), Issues s.m e 0x14 r w) ∧
    (∃ (s : State) (e w : Nat) (r : Run), Issues s.m e 0x15 r w) ∧
    (∃ (s : State) (e w : Nat) (r : Run),
     let src := bits w 22 20
     Issues s.m e 0x22 r w ∧ decide (fT w < 6) = decide (src < 6)) ∧
    (∃ (s : State) (e w : Nat) (r : Run), Issues s.m e 0x1B r w ∧ bits w 19 17 < 7) ∧
    (∃ (s : State) (e w : Nat) (r : Run), Issues s.m e 0x1D r w) ∧
    (∃ (s : State) (e w : Nat) (r : Run), Issues s.m e 0x1E r w ∧ bits w 23 21 < 6 ∧ bitAt w 20 = false) ∧
    (∃ (s : State) (e w : Nat) (r : Run), Issues s.m e 0x1E r w ∧ bits w 23 21 < 6 ∧ bitAt w 20 = true) :=
  ⟨⟨st (eng1 [0x50340000] {} {}), 127, 0x50340000, { slot := 5 }, by dsimp only [Issues, Shaped]; decide +kernel⟩,
   ⟨st (eng1 [0x57800000] {} {}), 127, 0x57800000, { slot := 5 }, by dsimp only [Issues, Shaped]; decide +kernel⟩,
   ⟨st (eng1 [0x8b700000] {} {}), 127, 0x8b700000, { slot := 5 }, by dsimp only [Issues, Shaped]; decide +kernel⟩,
   ⟨st (eng1 [0x6c0c0000] {} {}), 127, 0x6c0c0000, { slot := 5 }, by dsimp only [Issues, Shaped]; decide +kernel⟩,
   ⟨st (eng1 [0x74010000] {} {}), 127, 0x74010000, { slot := 5 }, by dsimp only [Issues, Shaped]; decide +kernel⟩,
   ⟨st (eng1 [0x78a00000] {} {}), 127, 0x78a00000, { slot := 5 }, by dsimp only [Issues, Shaped]; decide +kernel⟩,
   ⟨st (eng1 [0x78b00000] {} {}), 127, 0x78b00000, { slot := 5 }, by dsimp only [Issues, Shaped]; decide +kernel⟩⟩

theorem witness_VectorInstructions :
    (∃ (s : State) (e w : Nat) (r : Run), Issues s.m e 0x16 r w ∧ bits w 24 22 < 6 ∧ bits w 21 19 < 6) ∧
    (∃ (s : State) (e w : Nat) (r : Run),
     let x := s.m.eng e
     let m2 := bits w 22 20
     let d3 := bits w 16 14
     let k := x.rd (bits w 8 4)
     let fw := (s.m.wordOf r (x.pc.toNat + 1)).getD 0
     let fx := bits fw 31 28
     let fy := bits fw 27 24
     let fd := bits fw 23 20
     let kx := kxOf k
     let kd := kdOf k
     let n := bits w 25 23
     let st (j : Nat) : Nat := (s.m.wordOf r (x.pc.toNat + 2 + j)).getD 0
     let Fits : Prop := fx < 7 ∧ fy < 7 ∧ fd < 7 ∧ kx % 512 = 0 ∧ kd % 512 = 0 ∧ kx < vecLen (6 ≤ m2) fx ∧ kd < vecLen (6 ≤ d3) fd ∧ ∀ j, j ≤ n → bits (st j) 25 24 = 0 → kx < vecLen (6 ≤ bits w 19 17) fy
     Issues s.m e 0x17 r w ∧ Fits) ∧
    (∃ (s : State) (e w : Nat) (r : Run),
     let x := s.m.eng e
     let m2 := bits w 22 20
     Issues s.m e 0x18 r w ∧ decide (fT w < 6) = decide (m2 < 6) ∧ fT w < 6 ∧ bitAt w 19 = false ∧ bitAt w 18 = true ∧
     bitAt w 17 = false ∧ bitAt w 16 = false ∧ bitAt w 5 = true ∧ bits w 7 6 = 0 ∧ x.rd (bits w 12 8) = 0) ∧
    (∃ (s : State) (e w : Nat) (r : Run), Issues s.m e 0x19 r w ∧ 1 ≤ fD w ∧ fD w ≤ 30) ∧
    (∃ (s : State) (e w : Nat) (r : Run),
     let x := s.m.eng e
     let m2 := bits w 22 20
     let kc := x.rd (bits w 11 7)
     Issues s.m e 0x1A r w ∧ fT w < 6 ∧ m2 < 6 ∧ bits w 19 16 = fInt32 ∧ bits w 15 12 = fInt32 ∧ bitAt w 6 = false ∧
     kxOf kc = 0 ∧ kdOf kc = 0) :=
  ⟨⟨st (eng1 [0x5b600000] {} {}), 127, 0x5b600000, { slot := 5 }, by dsimp only [Issues, Shaped]; decide +kernel⟩,
   ⟨st (eng1 [0x5c528000, 0x66400000] {} {}), 127, 0x5c528000, { slot := 5 },
    by dsimp only [Issues, Shaped]; decide +kernel⟩,
   ⟨st (eng1 [0x62c40020] {} {}), 127, 0x62c40020, { slot := 5 }, by dsimp only [Issues, Shaped]; decide +kernel⟩,
   ⟨st (eng1 [0x67dc0000] {} {}), 127, 0x67dc0000, { slot := 5 }, by dsimp only [Issues, Shaped]; decide +kernel⟩,
   ⟨st (eng1 [0x6ac22000] {} {}), 127, 0x6ac22000, { slot := 5 }, by dsimp only [Issues, Shaped]; decide +kernel⟩⟩

theorem witness_EngineAccesses :
    (∃ (s : State) (e w i : Nat) (r : Run),
     let x := s.m.eng e
     let h := handleOf (x.rd (fA w))
     let tile := (x.rd (fB w)).toNat
     let known := r.reads.any (·.handle == h) || decide (r.reads.length < 32)
     Issues s.m e 0x12 r w ∧ bitAt w 22 = false ∧ s.m.runObj r h = .inl i ∧ tile < (s.m.obj i).size ∧ known = true) ∧
    (∃ (s : State) (e w i : Nat) (r : Run),
     let x := s.m.eng e
     let h := handleOf (x.rd (fA w))
     let tile := (x.rd (fB w)).toNat
     Issues s.m e 0x13 r w ∧ s.m.runObj r h = .inl i ∧ r.writes.contains h = true ∧ tile < (s.m.obj i).size ∧
     (s.m.obj i).readOnly = false) ∧
    (∃ (s : State) (e w i : Nat) (r : Run),
     let x := s.m.eng e
     let h := handleOf (x.rd (fA w))
     let tile := (x.rd (fB w)).toNat
     let known := r.reads.any (·.handle == h) || decide (r.reads.length < 32)
     Issues s.m e 0x20 r w ∧ s.m.runObj r h = .inl i ∧ bits tile 39 8 < (s.m.obj i).size ∧ known = true) ∧
    (∃ (s : State) (e w : Nat) (r : Run),
     let x := s.m.eng e
     let hd := s.m.emitHdr r (x.rd (bits w 22 18)).toNat (x.rd (bits w 22 18 + 1)).toNat (x.rd (bits w 22 18 + 2)).toNat
     Issues s.m e 0x21 r w ∧ r.redo = false ∧ hd.ordered = false ∧ emitLegal hd (16 * bits w 17 10) = true) ∧
    (∃ (s : State) (e w i : Nat) (r : Run),
     let x := s.m.eng e
     let h := handleOf (x.rd (fA w))
     let tile := (x.rd (fB w)).toNat
     let n := bits tile 63 32
     let known := r.reads.any (·.handle == h) || decide (r.reads.length < 32)
     Issues s.m e 0x23 r w ∧ (∀ b ∈ r.pend, b.kind = 1 → b.handle ≠ h) ∧ x.streams.length = 2 ∧ s.m.runObj r h = .inl i ∧
     1 ≤ n ∧ bits tile 31 0 + n ≤ (s.m.obj i).size ∧ known = true) ∧
    (∃ (s : State) (e w : Nat) (r : Run), Issues s.m e 0x1F r w ∧ r.pend = [] ∧ bits w 25 24 = 0 ∧ r.redo = false ∧
     ((s.m.trk.find r.handle).map (·.st)).getD 0 ≠ 4) ∧
    (∃ (s : State) (e w : Nat) (r : Run), Issues s.m e 0x1F r w ∧ (r.pend.any fun b => 2 ≤ b.kind) = true) ∧
    (∃ (s : State) (e i : Nat) (r : Run) (a : Access) (c : EccIn),
     let x := s.m.eng e
     x.run = some r ∧ s.m.working = true ∧ r.pend = [a] ∧ r.ending = none ∧ r.fence = none ∧ Shaped x ∧ a.kind = 0 ∧
     a.port = none ∧ a.ver = none ∧ a.reg < 6 ∧ Readable s.m r a.handle a.tile i ∧
     Sound s.m c (s.m.present (s.m.obj i) a.tile)) ∧
    (∃ (s : State) (e i : Nat) (r : Run) (a : Access) (c : EccIn),
     let x := s.m.eng e
     x.run = some r ∧ s.m.working = true ∧ r.pend = [a] ∧ r.ending = none ∧ r.fence = none ∧ Shaped x ∧ a.kind = 3 ∧
     a.port = none ∧ a.ver = none ∧ a.scope = 0 ∧ 1 ≤ a.reg ∧ a.reg < 32 ∧ Readable s.m r a.handle a.tile i ∧
     Sound s.m c (s.m.present (s.m.obj i) a.tile)) ∧
    (∃ (s : State) (e i : Nat) (r : Run) (a : Access),
     let x := s.m.eng e
     x.run = some r ∧ s.m.working = true ∧ r.pend = [a] ∧ r.ending = none ∧ r.fence = none ∧ Shaped x ∧ a.kind = 1 ∧
     Readable s.m r a.handle a.tile i ∧ s.m.isPoisoned (s.m.writeCopy (s.m.obj i) a.tile) = false ∧
     r.writes.contains a.handle = true ∧ (s.m.obj i).readOnly = false ∧ a.bytes.length = 2048) :=
  ⟨⟨st (eng1 [0x4a811000] {} (s1 (2 ^ 20))), 127, 0x4a811000, 0, { slot := 5 },
    by dsimp only [Issues, Shaped]; decide +kernel⟩,
   ⟨st (eng1 [0x4f811000] ({ writes := [2 ^ 20] }) (s1 (2 ^ 20))), 127, 0x4f811000, 0, { writes := [2 ^ 20], slot := 5 },
    by dsimp only [Issues, Shaped]; decide +kernel⟩,
   ⟨st (eng1 [0x80611000] {} (s1 (2 ^ 20))), 127, 0x80611000, 0, { slot := 5 },
    by dsimp only [Issues, Shaped]; decide +kernel⟩,
   ⟨st (eng1 [0x86840400] {} (s1 (2 ^ 17 + 3 * 2 ^ 25 + 7))), 127, 0x86840400, { slot := 5 },
    by dsimp only [Issues, Shaped]; decide +kernel⟩,
   ⟨st (eng1 [0x8e011000] {} ({ s := [0, 1048576, 8589934594] ++ List.replicate 29 0 })), 127, 0x8e011000, 0,
    { slot := 5 }, by dsimp only [Issues, Shaped]; decide +kernel⟩,
   ⟨st (eng1 [0x7c000000] {} {}), 127, 0x7c000000, { slot := 5 }, by dsimp only [Issues, Shaped]; decide +kernel⟩,
   ⟨st (eng1 [0x7c000000] ({ pend := [{ kind := 3 }] }) {}), 127, 0x7c000000,
    { ({ pend := [{ kind := 3 }] } : Run) with slot := 5 }, by dsimp only [Issues, Shaped]; decide +kernel⟩,
   ⟨st { obj1 with engs := ⟨[(127, { run := some { pend := [{ handle := 2 ^ 20, tile := 3, reg := 5 }] } })]⟩ }, 127, 0,
    { pend := [{ handle := 2 ^ 20, tile := 3, reg := 5 }] }, { handle := 2 ^ 20, tile := 3, reg := 5 }, {},
    by dsimp only [Shaped, Readable, Sound]; decide +kernel⟩,
   ⟨st { obj1 with engs := ⟨[(127, { run := some { pend := [{ kind := 3, handle := 2 ^ 20, tile := 3, reg := 31 }] } })]⟩ },
    127, 0, { pend := [{ kind := 3, handle := 2 ^ 20, tile := 3, reg := 31 }] },
    { kind := 3, handle := 2 ^ 20, tile := 3, reg := 31 }, {}, by dsimp only [Shaped, Readable, Sound]; decide +kernel⟩,
   ⟨st { obj1 with engs := ⟨[(127, { run := some { writes := [2 ^ 20], pend := [{ kind := 1, handle := 2 ^ 20, tile := 3, bytes := zeros 2048 }] } })]⟩ },
    127, 0, { writes := [2 ^ 20], pend := [{ kind := 1, handle := 2 ^ 20, tile := 3, bytes := zeros 2048 }] },
    { kind := 1, handle := 2 ^ 20, tile := 3, bytes := zeros 2048 }, by dsimp only [Shaped, Readable]; decide +kernel⟩⟩

theorem witness_RunsEndAndFencesAreAcknowledged :
    (∃ (s : State) (e w i h : Nat) (r : Run), Endable s.m e r ∧ r.writes = [h] ∧ s.m.store.find h = some i ∧
     (s.m.obj i).handle = h ∧ Issues s.m e 0x00 r w ∧ r.stored = [h]) ∧
    (∃ (s : State) (e w i h : Nat) (r : Run), Endable s.m e r ∧ r.writes = [h] ∧ s.m.store.find h = some i ∧
     (s.m.obj i).handle = h ∧ Issues s.m e 0x01 r w ∧ bits w 15 0 ≠ 0) ∧
    (∃ (s : State) (e i h : Nat) (r : Run), Endable s.m e r ∧ r.writes = [h] ∧ s.m.store.find h = some i ∧
     (s.m.obj i).handle = h ∧ s.m.working = true) ∧
    (∃ (s : State) (p : Pkt), Performs s.m p 7 ∧ p.h.tw % 65536 = St.ok ∧
     let c := p.h.src
     let x := s.m.dst c
     p.h.tag = tagRestart ∧ x.asked = true ∧ x.up = false ∧ (∀ f, f < 128 → (s.m.runOf f).fence = none)) ∧
    (∃ (s : State) (p : Pkt) (o : Nat × Nat) (r : Run) (e : Nat), Performs s.m p 7 ∧ p.h.tw % 65536 = St.ok ∧
     let c := p.h.src
     let x := s.m.dst c
     p.h.tag ≠ tagRestart ∧ p.h.tag ≠ tagConfirm ∧ (x.out.find? fun q => q.1 == p.h.tag) = some o ∧
     fieldBE p.pl 0 2 = St.ok ∧ (∀ f, f < 128 → f ≠ e → (s.m.runOf f).fence = none) ∧ e < 128 ∧ (s.m.eng e).run = some r ∧
     r.ending = none ∧ r.fence = some 2 ∧ r.ftag = p.h.tag ∧ r.asked = true ∧ c ∈ r.acks ∧
     (r.acks.erase c).isEmpty = false ∧ (r.pend.any fun a => 1 ≤ a.kind) = false) ∧
    (∃ (s : State) (p : Pkt) (o : Nat × Nat) (e : Nat), Performs s.m p 7 ∧ p.h.tw % 65536 = St.ok ∧
     let c := p.h.src
     let x := s.m.dst c
     p.h.tag ≠ tagRestart ∧ p.h.tag ≠ tagConfirm ∧ (x.out.find? fun q => q.1 == p.h.tag) = some o ∧
     fieldBE p.pl 0 2 = St.ok ∧ (∀ f, f < 128 → f ≠ e → (s.m.runOf f).fence = none) ∧ (s.m.runOf e).fence = none) :=
  ⟨⟨st (eng1 [0x0] ({ handle := 5 * 2 ^ 14, writes := [2 ^ 20], stored := [2 ^ 20] }) {} (withEnt obj1 2)), 127, 0x0, 0,
    2 ^ 20, { handle := 5 * 2 ^ 14, writes := [2 ^ 20], stored := [2 ^ 20], slot := 5 },
    by dsimp only [Issues, Endable, Shaped]; decide +kernel⟩,
   ⟨st (eng1 [0x4000001] ({ handle := 5 * 2 ^ 14, writes := [2 ^ 20] }) {} (withEnt obj1 2)), 127, 0x4000001, 0, 2 ^ 20,
    { handle := 5 * 2 ^ 14, writes := [2 ^ 20], slot := 5 }, by dsimp only [Issues, Endable, Shaped]; decide +kernel⟩,
   ⟨st (eng1 [0] { handle := 5 * 2 ^ 14, writes := [2 ^ 20] } {} (withEnt obj1 2)), 127, 0, 2 ^ 20,
    { handle := 5 * 2 ^ 14, writes := [2 ^ 20], slot := 5 }, by dsimp only [Endable]; decide +kernel⟩,
   ⟨st { up with ord := { dsts := ⟨[(1, { asked := true })]⟩ } }, ack tagRestart,
    by dsimp only [Performs, NoneRefused]; decide +kernel⟩,
   ⟨st { up with ord := { dsts := ⟨[(1, { out := [(127, 3)] })]⟩ }, engs := ⟨[(127, { run := some { fence := some 2, ftag := 127, asked := true, acks := [1, 2] } })]⟩ },
    ack 127 [0, 0], (127, 3), { fence := some 2, ftag := 127, asked := true, acks := [1, 2] }, 127,
    by dsimp only [Performs, NoneRefused]; decide +kernel⟩,
   ⟨st { up with ord := { dsts := ⟨[(1, { out := [(127, 3)] })]⟩ } }, ack 127 [0, 0], (127, 3), 127,
    by dsimp only [Performs, NoneRefused]; decide +kernel⟩⟩

theorem witness_ProgramsLoadAndUnload :
    (∃ (s : State) (r : CmdReq) (slot : Nat),
     let n := r.u 32 4
     let words := (List.range n).map fun i => r.u (48 + 4 * i) 4
     let image := words.flatMap (beBytes 4)
     let d := r.body.take 32
     let free := leastBelow 256 fun i => !(s.m.kern.progs.get i).used
     let Whole : Prop := Runs s.m r 0x0701 (fragLay r.body 4) ∧ s.m.vane.asms = [] ∧ r.u 36 4 = 0 ∧ r.u 40 2 = n ∧ 1 ≤ n ∧ n ≤ 500 ∧ shake256 image 32 = d ∧ s.m.kern.find d = none
     Whole ∧ reservedDigest d = false ∧ imageLegal words = true ∧ free = some slot ∧ s.m.kern.words + n ≤ 1048576) ∧
    (∃ (s : State) (r : CmdReq),
     let n := r.u 32 4
     let words := (List.range n).map fun i => r.u (48 + 4 * i) 4
     let image := words.flatMap (beBytes 4)
     let d := r.body.take 32
     let Whole : Prop := Runs s.m r 0x0701 (fragLay r.body 4) ∧ s.m.vane.asms = [] ∧ r.u 36 4 = 0 ∧ r.u 40 2 = n ∧ 1 ≤ n ∧ n ≤ 500 ∧ shake256 image 32 = d ∧ s.m.kern.find d = none
     Whole ∧ imageLegal words = false) ∧
    (∃ (s : State) (r : CmdReq) (slot : Nat),
     let d := r.body.take 32
     Runs s.m r 0x0702 [(0, 32, 256)] ∧ s.m.kern.find d = some slot ∧ slot < 256 ∧ s.m.mayChange r (unit 4 slot) = true ∧
     (s.m.kern.progs.get slot).builtin = 0 ∧ s.m.progUsed slot = false) ∧
    (∃ (s : State) (r : CmdReq) (slot : Nat),
     let d := r.body.take 32
     Runs s.m r 0x0702 [(0, 32, 256)] ∧ s.m.kern.find d = some slot ∧ s.m.mayChange r (unit 4 slot) = true ∧
     (s.m.kern.progs.get slot).builtin = 0 ∧ s.m.progUsed slot = true) :=
  ⟨⟨st (asked up loadCmd), loadCmd, 0, by dsimp only [Runs, Waits]; decide +kernel⟩,
   ⟨st (asked up badLoad), badLoad, by dsimp only [Runs, Waits]; decide +kernel⟩,
   ⟨st (asked (prog1 (zeros 32)) (ask 0x0702 (zeros 32))), ask 0x0702 (zeros 32), 5,
    by dsimp only [Runs, Waits]; decide +kernel⟩,
   ⟨st (asked ({ prog1 (zeros 32) with engs := ⟨[(127, { run := some { slot := 5 } })]⟩ }) (ask 0x0702 (zeros 32))),
    ask 0x0702 (zeros 32), 5, by dsimp only [Runs, Waits]; decide +kernel⟩⟩

theorem witness_RunsQueueAndStart :
    (∃ (s : State) (p : Pkt) (d : Desc) (k e slot : Nat),
     let Free : Prop := s.m.checkDesc d = (St.ok, slot) ∧ k < 8 ∧ s.m.dieFenced k = false ∧ (s.m.dsp k).queue.length < 1024 ∧ s.m.trk.room 2 = true ∧ s.m.trk.pick = some e ∧ e < 2 ^ 14
     let v := bits p.h.tw 7 5
     let own := descOf p.pl p.h.part p.h.src p.h.tag (if v = 0 then 3 else v) (bitAt p.h.tw 4) false
     Performs s.m p 0x30 ∧ p.good = true ∧ bits p.h.tw 3 0 = k ∧ v ≠ 1 ∧ v ≠ 2 ∧ bits p.h.tw 31 8 = 0 ∧ p.h.offset = 0 ∧
     own = some d ∧ Free) ∧
    (∃ (s : State) (p : Pkt) (d : Desc) (k : Nat),
     let v := bits p.h.tw 7 5
     let own := descOf p.pl p.h.part p.h.src p.h.tag (if v = 0 then 3 else v) (bitAt p.h.tw 4) false
     Performs s.m p 0x30 ∧ p.good = true ∧ bits p.h.tw 3 0 = k ∧ v ≠ 1 ∧ v ≠ 2 ∧ bits p.h.tw 31 8 = 0 ∧ p.h.offset = 0 ∧
     own = some d ∧ k < 8 ∧ (s.m.checkDesc d).1 ≠ St.ok) ∧
    (∃ (s : State) (r : CmdReq) (d : Desc) (k e slot : Nat),
     let Free : Prop := s.m.checkDesc d = (St.ok, slot) ∧ k < 8 ∧ s.m.dieFenced k = false ∧ (s.m.dsp k).queue.length < 1024 ∧ s.m.trk.room 2 = true ∧ s.m.trk.pick = some e ∧ e < 2 ^ 14
     let cmd := descOf (r.body.drop 16) (r.u 0 2) r.master r.tag 3 (bitAt (r.u 2 1) 4) true
     Runs s.m r 0x0703 [(0, 2, 12), (2, 1, 5), (16, r.body.length - 16, 8 * (r.body.length - 16))] ∧ r.u 2 1 % 16 = k ∧
     cmd = some d ∧ Free) ∧
    (∃ (s : State) (q : QRun) (k e : Nat), k < 8 ∧ s.m.working = true ∧ s.m.dieFenced k = false ∧
     ((List.range 16).find? fun i => (s.m.eng (16 * k + i)).run.isNone && !bitAt s.m.flt.engines (16 * k + i)) = some e ∧
     (s.m.dsp k).queue = [q] ∧ q.desc.launch ≤ s.m.now ∧ s.m.running k (some q.desc.part) < s.m.engMax k q.desc.part ∧
     q.desc.writes = [] ∧ q.desc.params.length = 24) ∧
    (∃ (s : State) (q : QRun) (k : Nat), s.m.coll.ctxs.cells = [] ∧
     s.m.kern.dsps.cells = [(k, { (s.m.dsp k) with queue := [q] })] ∧ s.m.working = true ∧
     (∃ t, s.m.trk.find q.handle = some t ∧ t.waiting = true)) :=
  ⟨⟨st (prog1 (zeros 32)), invoke0, descI, 7, 0, 5,
    by dsimp only [Performs, NoneRefused]; refine ⟨?_, make_good _ _, ?_, ?_, ?_, ?_, ?_, some_getD ?_, ?_⟩ <;> decide +kernel⟩,
   ⟨st up, invoke0, descI, 7,
    by dsimp only [Performs, NoneRefused]; refine ⟨?_, make_good _ _, ?_, ?_, ?_, ?_, ?_, some_getD ?_, ?_⟩ <;> decide +kernel⟩,
   ⟨st (asked (prog1 (zeros 32)) run0), run0, descC, 7, 0, 5,
    by dsimp only [Runs, Waits]; refine ⟨?_, ?_, some_getD ?_, ?_⟩ <;> decide +kernel⟩,
   ⟨st { prog1 (zeros 32) with kern := { (prog1 (zeros 32)).kern with dsps := ⟨[(7, { queue := [{ slot := 5, desc := descI }] })]⟩ } },
    { slot := 5, desc := descI }, 7, 0, by decide +kernel⟩,
   ⟨st { withEnt up 2 with trk := { ents := ⟨[(0, { handle := 5 * 2 ^ 14, kind := 2, st := 1, waiting := true })]⟩ }, kern := { dsps := ⟨[(7, { queue := [{ handle := 5 * 2 ^ 14, slot := 5, desc := { launch := 9 } }] })]⟩ } },
    { handle := 5 * 2 ^ 14, slot := 5, desc := { launch := 9 } }, 7,
    by exact ⟨by decide +kernel, by decide +kernel, by decide +kernel, ⟨{ handle := 5 * 2 ^ 14, kind := 2, st := 1, waiting := true }, by decide +kernel⟩⟩⟩⟩

theorem witness_KernelsStep :
    (∃ (s : State) (e i : Nat) (r : Run),
     let w3 := r.p 3
     RunsKernel s.m e 1 r ∧ r.phase = 0 ∧ r.pend = [] ∧ r.ending = none ∧ attnLegal r = true ∧ r.hi 2 = 0 ∧
     (∀ g, (s.m.grp g).vc < 8) ∧ bitAt w3 24 = true ∧ s.m.store.find (r.writes.headD 0) = some i ∧
     1 + ceilDiv (bits w3 15 8) (256 / (bits w3 7 0 + 2)) ≤ (s.m.obj i).size) ∧
    (∃ (s : State) (e i : Nat) (r : Run),
     let n2 := bits (r.p 2) 15 0
     let d2 := bits (r.p 2) 23 16
     let f2 := bits (r.p 2) 35 32
     let tiles := ceilDiv n2 (256 / (d2 + 2))
     RunsKernel s.m e 2 r ∧ Endable s.m e r ∧ r.writes = [] ∧ r.reads = [] ∧ r.lo 1 = 0 ∧ 1 ≤ n2 ∧ 1 ≤ d2 ∧ d2 ≤ 254 ∧
     (f2 = fBf16 ∨ f2 = fFp32) ∧ bits (r.p 2) 63 36 = 0 ∧ n2 * d2 * (if f2 = fBf16 then 2 else 4) ≤ 2048 ∧
     (∀ t, t < tiles → ReadsWell s.m r (r.lo 0) (r.hi 0 + t) i)) ∧
    (∃ (s : State) (e i : Nat) (r : Run), ∃ (adam : Bool), RunsKernel s.m e (if adam then 4 else 3) r ∧ r.ending = none ∧
     r.phase = 0 ∧ updLegal r adam = true ∧ bitAt (r.p 4) 40 = false ∧ s.m.runObj r (r.lo 0) = .inl i ∧
     (∀ h ∈ [r.lo 0, r.lo 1] ++ (if adam then [r.lo 2] else []), ∃ j, s.m.runObj r h = .inl j ∧ (s.m.obj j).dirty = false)) ∧
    (∃ (s : State) (e : Nat) (r : Run), ∃ (adam : Bool), RunsKernel s.m e (if adam then 4 else 3) r ∧ r.ending = none ∧
     r.phase = 3 ∧ ceilDiv (bits (r.p 4) 39 0) 512 ≤ r.cur) ∧
    (∃ (s : State) (e : Nat) (r : Run), ∃ (adam : Bool), RunsKernel s.m e (if adam then 4 else 3) r ∧ r.ending = none ∧
     r.phase = 5 ∧ Endable s.m e r ∧ r.writes = []) ∧
    (∃ (s : State) (e i : Nat) (r : Run), RunsKernel s.m e 5 r ∧ r.ending = none ∧ r.phase = 1 ∧ r.pend = [] ∧
     r.cur < r.lo 1 ∧ r.aux.headD 0 = 0 ∧ r.desc.chip < 2 ^ 17 ∧ ReadsWell s.m r (r.lo 0) (r.hi 0 + r.cur) i ∧
     r.reads = []) ∧
    (∃ (s : State) (e : Nat) (r : Run), RunsKernel s.m e 6 r ∧ r.phase = 0 ∧ r.ending = none ∧ bits (r.p 3) 43 40 ≤ 4 ∧
     bits (r.p 3) 63 44 = 0) ∧
    (∃ (s : State) (e : Nat) (r : Run), RunsKernel s.m e 6 r ∧ r.phase = 1 ∧ Endable s.m e r ∧ r.writes = [] ∧
     bits (r.p 3) 43 40 ≤ 4 ∧ ceilDiv (bits (r.p 3) 39 0) (perTile (bits (r.p 3) 43 40) 0) ≤ r.cur ∧
     r.aux.headD 0 % perTile (bits (r.p 3) 43 40) 0 = 0 ∧ r.aux.headD 0 < 2 ^ 64) ∧
    (∃ (s : State) (e i : Nat) (r : Run), RunsKernel s.m e 7 r ∧ r.phase = 0 ∧ r.ending = none ∧ 1 ≤ bits (r.p 2) 39 0 ∧
     bits (r.p 2) 43 40 ≤ 6 ∧ bits (r.p 2) 47 44 ≤ 6 ∧ bits (r.p 2) 49 48 = 2 ∧ bits (r.p 2) 63 50 = 0 ∧
     bits (r.p 3) 63 32 = 0 ∧ s.m.runObj r (r.lo 0) = .inl i ∧ r.writes.contains (r.lo 1) = true) ∧
    (∃ (s : State) (e : Nat) (r : Run), RunsKernel s.m e 7 r ∧ r.phase = 0 ∧ Endable s.m e r ∧ r.writes = []) ∧
    (∃ (s : State) (e : Nat) (r : Run), RunsKernel s.m e 7 r ∧ r.phase = 1 ∧ Endable s.m e r ∧ r.writes = [] ∧
     ceilDiv (bits (r.p 2) 39 0) (perTile (bits (r.p 2) 47 44) 0) ≤ r.cur) :=
  ⟨⟨st (kern1 1 { run5 [0, 0, 0, 1090519328] with writes := [2 ^ 20] }), 127, 0,
    { run5 [0, 0, 0, 1090519328] with writes := [2 ^ 20] },
    by dsimp only [RunsKernel, Shaped]; refine ⟨?_, ?_, ?_, ?_, ?_, ?_, fun g => (by decide : 2 < 8), ?_, ?_, ?_⟩ <;> decide +kernel⟩,
   ⟨st (kern1 2 (run5 [2 ^ 20, 0, 17179934721])), 127, 0, run5 [2 ^ 20, 0, 17179934721],
    by dsimp only [Endable, RunsKernel, ReadsWell, Shaped, Readable]; decide +kernel⟩,
   ⟨st (kern1 4 ({ run5 [2 ^ 20, 2 ^ 20, 2 ^ 20, 2 ^ 20, 1] with writes := [2 ^ 20] })), 127, 0,
    { run5 [2 ^ 20, 2 ^ 20, 2 ^ 20, 2 ^ 20, 1] with writes := [2 ^ 20] }, true,
    by dsimp only [RunsKernel, Shaped]; exact ⟨by decide +kernel, by decide +kernel, by decide +kernel, by decide +kernel, by decide +kernel, by decide +kernel, fun h hh => ⟨0, by revert h; decide +kernel⟩⟩⟩,
   ⟨st (kern1 3 { run5 [2 ^ 20, 2 ^ 20, 0, 2 ^ 20, 1] with phase := 3, cur := 1 }), 127,
    { run5 [2 ^ 20, 2 ^ 20, 0, 2 ^ 20, 1] with phase := 3, cur := 1 }, false,
    by dsimp only [RunsKernel, Shaped]; decide +kernel⟩,
   ⟨st (kern1 3 { run5 [] with phase := 5 }), 127, { run5 [] with phase := 5 }, false,
    by dsimp only [Endable, RunsKernel, Shaped]; decide +kernel⟩,
   ⟨st (kern1 5 { run5 [2 ^ 20, 1] with phase := 1 }), 127, 0, { run5 [2 ^ 20, 1] with phase := 1 },
    by dsimp only [RunsKernel, ReadsWell, Shaped, Readable]; decide +kernel⟩,
   ⟨st (kern1 6 (run5 [0, 0, 0, 4 * 2 ^ 40])), 127, run5 [0, 0, 0, 4 * 2 ^ 40],
    by dsimp only [RunsKernel, Shaped]; decide +kernel⟩,
   ⟨st (kern1 6 { run5 [0, 0, 0, 4 * 2 ^ 40] with phase := 1, aux := [0] }), 127,
    { run5 [0, 0, 0, 4 * 2 ^ 40] with phase := 1, aux := [0] },
    by dsimp only [Endable, RunsKernel, Shaped]; decide +kernel⟩,
   ⟨st (kern1 7 ({ run5 [2 ^ 20, 0, 675100139454465] with writes := [0] })), 127, 0,
    { run5 [2 ^ 20, 0, 675100139454465] with writes := [0] }, by dsimp only [RunsKernel, Shaped]; decide +kernel⟩,
   ⟨st (kern1 7 (run5 [])), 127, run5 [], by dsimp only [Endable, RunsKernel, Shaped]; decide +kernel⟩,
   ⟨st (kern1 7 { run5 [0, 0, 675100139454465] with phase := 1, cur := 1 }), 127,
    { run5 [0, 0, 675100139454465] with phase := 1, cur := 1 },
    by dsimp only [Endable, RunsKernel, Shaped]; decide +kernel⟩⟩

theorem witness_JoinsFollowTheWindow :
    (∃ (s : State) (p : Pkt) (q : Nat),
     let gno := p.h.tag
     let g := s.m.grp gno
     let d := (p.h.tw + 2 ^ 32 - g.low) % 2 ^ 32
     Arrives s.m p 0x10 ∧ Rests s.m ∧ gno < 65536 ∧ g.used = true ∧ g.part = p.h.part ∧ p.port = some q ∧ q < 256 ∧
     g.vc < 8 ∧ g.isRefused p.h.tw = true ∧ (2 ^ 31 ≤ d ∨ d < 64)) ∧
    (∃ (s : State) (p : Pkt) (q : Nat),
     let gno := p.h.tag
     let g := s.m.grp gno
     let d := (p.h.tw + 2 ^ 32 - g.low) % 2 ^ 32
     Arrives s.m p 0x10 ∧ Rests s.m ∧ gno < 65536 ∧ g.used = true ∧ g.part = p.h.part ∧ p.port = some q ∧ q < 256 ∧
     g.vc < 8 ∧ g.isRefused p.h.tw = false ∧ 2 ^ 31 ≤ d) ∧
    (∃ (s : State) (p : Pkt) (q : Nat),
     let gno := p.h.tag
     let g := s.m.grp gno
     let d := (p.h.tw + 2 ^ 32 - g.low) % 2 ^ 32
     Arrives s.m p 0x10 ∧ Rests s.m ∧ gno < 65536 ∧ g.used = true ∧ g.part = p.h.part ∧ p.port = some q ∧ q < 256 ∧
     g.vc < 8 ∧ 64 ≤ d ∧ d < 2 ^ 31) ∧
    (∃ (s : State) (p : Pkt) (q : Nat),
     let gno := p.h.tag
     let g := s.m.grp gno
     let d := (p.h.tw + 2 ^ 32 - g.low) % 2 ^ 32
     let h := gno * 65536 + p.h.tw % 65536
     let open_ := (s.m.ctx h).used
     let ps := joinPlanes (if open_ then (s.m.ctx h).plans else g.plans) p
     Arrives s.m p 0x10 ∧ Rests s.m ∧ gno < 65536 ∧ g.used = true ∧ g.part = p.h.part ∧ p.port = some q ∧ q < 256 ∧
     g.vc < 8 ∧ g.isRefused p.h.tw = false ∧ d < 64 ∧ (g.empties.find? fun x => x.1 == p.h.tw) = none ∧
     g.done.contains p.h.tw = false ∧ p.pl.length = 48 ∧ joinValid p.pl g.n = true ∧ 1 ≤ d ∧ sgCount p.pl = 0 ∧
     ps.isEmpty = false ∧ (∀ i ∈ ps, open_ = true → (s.m.plane h i).first = some (sigDigest p.pl)) ∧
     g.done.contains g.low = false) ∧
    (∃ (s : State) (p : Pkt) (c : Ctx) (y : Plane) (q : Nat),
     let gno := p.h.tag
     let g := s.m.grp gno
     let d := (p.h.tw + 2 ^ 32 - g.low) % 2 ^ 32
     let h := gno * 65536 + p.h.tw % 65536
     let open_ := (s.m.ctx h).used
     let ps := joinPlanes (if open_ then (s.m.ctx h).plans else g.plans) p
     Arrives s.m p 0x10 ∧ Rests s.m ∧ gno < 65536 ∧ g.used = true ∧ g.part = p.h.part ∧ p.port = some q ∧ q < 256 ∧
     g.vc < 8 ∧ g.isRefused p.h.tw = false ∧ d < 64 ∧ (g.empties.find? fun x => x.1 == p.h.tw) = none ∧
     g.done.contains p.h.tw = false ∧ p.pl.length = 48 ∧ joinValid p.pl g.n = true ∧ s.m.ctx h = c ∧ c.used = true ∧
     c.sig = none ∧ c.planes = [y] ∧ c.early = [] ∧ s.m.now < sgLaunch p.pl ∧ y = { on := true } ∧ ps = [0] ∧
     0 < sgCount p.pl ∧ sgOp p.pl < 3) :=
  ⟨⟨st (coll1 none { grp1 with refused := [4] }), cpk 0x10 5 4 0 1 4 (int32 0), 4,
    by dsimp only [Reaches, Arrives, Rests, Performs, NoneRefused, Staging]; and_intros <;> first | with_reducible exact cpk_good .. | with_reducible exact rests_of (by decide +kernel) | decide +kernel⟩,
   ⟨st (coll1 none), cpk 0x10 5 2 0 1 4 (int32 0), 4,
    by dsimp only [Reaches, Arrives, Rests, Performs, NoneRefused, Staging]; and_intros <;> first | with_reducible exact cpk_good .. | with_reducible exact rests_of (by decide +kernel) | decide +kernel⟩,
   ⟨st (coll1 none), cpk 0x10 5 67 0 1 4 (int32 0), 4,
    by dsimp only [Reaches, Arrives, Rests, Performs, NoneRefused, Staging]; and_intros <;> first | with_reducible exact cpk_good .. | with_reducible exact rests_of (by decide +kernel) | decide +kernel⟩,
   ⟨st (coll1 none), cpk 0x10 5 4 0 1 4 (sig1 0 0x22 0), 4,
    by dsimp only [Reaches, Arrives, Rests, Performs, NoneRefused, Staging]; and_intros <;> first | with_reducible exact cpk_good .. | with_reducible exact rests_of (by decide +kernel) | decide +kernel⟩,
   ⟨st (coll1 (some ({ ctx1 [] with sig := none }))), cpk 0x10 5 3 0 1 4 (int32 0), { ctx1 [] with sig := none },
    { on := true }, 4,
    by dsimp only [Reaches, Arrives, Rests, Performs, NoneRefused, Staging]; and_intros <;> first | with_reducible exact cpk_good .. | with_reducible exact rests_of (by decide +kernel) | decide +kernel⟩⟩

theorem witness_PlanesAreCheckedAndEnd :
    (∃ (s : State) (p : Pkt) (c : Ctx) (y : Plane) (sg dig : Bytes) (k : Child),
     let h := p.h.tag
     let n := fieldBE p.pl 16 4 % 2 ^ 18
     p.h.offset % 8 = 0 ∧ Staging s.m h c y sg ∧ sgOp sg < 3 ∧ (s.m.cplan h 0).isRoot = false ∧ Reaches s.m p 0x11 ∧
     kindOf p = 4 ∧ (s.m.cplan h 0).kids.find? (·.chip == p.h.src) = some k ∧ p.pl.length = 32 ∧ y.sums = [] ∧
     y.dataOn = false ∧ y.first = some dig ∧ n ≤ k.hi + 1 - k.lo ∧ dig = p.pl.take 16) ∧
    (∃ (s : State) (p : Pkt) (c : Ctx) (y : Plane) (sg dig : Bytes) (k : Child),
     let h := p.h.tag
     let n := fieldBE p.pl 16 4 % 2 ^ 18
     p.h.offset % 8 = 0 ∧ Staging s.m h c y sg ∧ sgOp sg < 3 ∧ (s.m.cplan h 0).isRoot = false ∧ Reaches s.m p 0x11 ∧
     kindOf p = 4 ∧ (s.m.cplan h 0).kids.find? (·.chip == p.h.src) = some k ∧ p.pl.length = 32 ∧ y.sums = [] ∧
     y.dataOn = false ∧ y.first = some dig ∧ n ≤ k.hi + 1 - k.lo ∧ dig ≠ p.pl.take 16) ∧
    (∃ (s : State) (p : Pkt) (c : Ctx) (y : Plane) (sg : Bytes),
     let h := p.h.tag
     p.h.offset % 8 = 0 ∧ Staging s.m h c y sg ∧ sgOp sg < 3 ∧ (s.m.cplan h 0).isRoot = false ∧ Reaches s.m p 0x12 ∧
     kindOf p = 3 ∧ (s.m.cplan h 0).parent = p.h.src) ∧
    (∃ (s : State) (p : Pkt) (c : Ctx) (y : Plane) (sg : Bytes),
     let h := p.h.tag
     p.h.offset % 8 = 0 ∧ Staging s.m h c y sg ∧ sgOp sg < 3 ∧ (s.m.cplan h 0).isRoot = false ∧ Reaches s.m p 0x12 ∧
     kindOf p = 4 ∧ (s.m.cplan h 0).parent = p.h.src) :=
  ⟨⟨st (coll1 (some (ctx1 (int32 0) ({ on := true, first := some (zeros 16) })))),
    (cpk 0x11 h1 (4 * 2 ^ 17) (0) 8 6 (zeros 16 ++ [0, 0, 0, 1] ++ zeros 12)),
    ctx1 (int32 0) ({ on := true, first := some (zeros 16) }), { on := true, first := some (zeros 16) }, int32 0,
    zeros 16, { chip := 8, lo := 1, hi := 1 },
    by dsimp only [Reaches, Arrives, Rests, Performs, NoneRefused, Staging]; and_intros <;> first | with_reducible exact cpk_good .. | with_reducible exact rests_of (by decide +kernel) | decide +kernel⟩,
   ⟨st (coll1 (some (ctx1 (int32 2) ({ on := true, first := some (1 :: zeros 15) })))),
    (cpk 0x11 h1 (4 * 2 ^ 17) (0) 8 6 (zeros 16 ++ [0, 0, 0, 1] ++ zeros 12)),
    ctx1 (int32 2) ({ on := true, first := some (1 :: zeros 15) }), { on := true, first := some (1 :: zeros 15) },
    int32 2, 1 :: zeros 15, { chip := 8, lo := 1, hi := 1 },
    by dsimp only [Reaches, Arrives, Rests, Performs, NoneRefused, Staging]; and_intros <;> first | with_reducible exact cpk_good .. | with_reducible exact rests_of (by decide +kernel) | decide +kernel⟩,
   ⟨st (coll1 (some (ctx1 (int32 0) ({ on := true })))), (cpk 0x12 h1 (3 * 2 ^ 17) (0) 9 6 ([])),
    ctx1 (int32 0) ({ on := true }), { on := true }, int32 0,
    by dsimp only [Reaches, Arrives, Rests, Performs, NoneRefused, Staging]; and_intros <;> first | with_reducible exact cpk_good .. | with_reducible exact rests_of (by decide +kernel) | decide +kernel⟩,
   ⟨st (coll1 (some (ctx1 (int32 0) ({ on := true })))), (cpk 0x12 h1 (4 * 2 ^ 17) (0) 9 6 ([])),
    ctx1 (int32 0) ({ on := true }), { on := true }, int32 0,
    by dsimp only [Reaches, Arrives, Rests, Performs, NoneRefused, Staging]; and_intros <;> first | with_reducible exact cpk_good .. | with_reducible exact rests_of (by decide +kernel) | decide +kernel⟩⟩

theorem witness_ReductionsTakeTheirTiles :
    (∃ (s : State) (p : Pkt) (c : Ctx) (y : Plane) (sg : Bytes) (l : Loc),
     let h := p.h.tag
     let g := c.geo
     let t := p.h.offset / 2048
     let off := p.h.offset
     off % 2048 = 0 ∧ Staging s.m h c y sg ∧ g.op < 3 ∧ g.np = 1 ∧ Reaches s.m p 0x11 ∧ t * g.r.ei < g.total ∧
     c.sender (s.m.cplan h 0) p = some l ∧ kindOf p = 0 ∧ isMasked p = false ∧ isAbsent p = false ∧ p.pl.length = 2048) ∧
    (∃ (s : State) (p : Pkt) (c : Ctx) (y : Plane) (sg : Bytes) (l : Loc),
     let h := p.h.tag
     let g := c.geo
     let t := p.h.offset / 2048
     let off := p.h.offset
     off % 2048 = 0 ∧ Staging s.m h c y sg ∧ g.op < 3 ∧ g.np = 1 ∧ Reaches s.m p 0x11 ∧ t * g.r.ei < g.total ∧
     c.sender (s.m.cplan h 0) p = some l ∧ kindOf p = 1) ∧
    (∃ (s : State) (p : Pkt) (c : Ctx) (y : Plane) (sg : Bytes),
     let h := p.h.tag
     let g := c.geo
     let t := p.h.offset / 2048
     let off := p.h.offset
     off % 2048 = 0 ∧ Staging s.m h c y sg ∧ g.op < 3 ∧ g.np = 1 ∧ Reaches s.m p 0x11 ∧ t * g.r.ei < g.total ∧
     (s.m.cplan h 0).kidChips.contains p.h.src = true ∧ 2 ≤ g.r.npieces (g.inElems t) ∧ kindOf p = 2) ∧
    (∃ (s : State) (p : Pkt) (c : Ctx) (y : Plane) (sg : Bytes),
     let h := p.h.tag
     let g := c.geo
     let t := p.h.offset / 2048
     let off := p.h.offset
     off % 2048 = 0 ∧ Staging s.m h c y sg ∧ g.op < 3 ∧ g.np = 1 ∧ Reaches s.m p 0x11 ∧ t * g.r.ei < g.total ∧
     (s.m.cplan h 0).kidChips.contains p.h.src = true ∧ 2 ≤ g.r.npieces (g.inElems t) ∧ kindOf p = 3 ∧ g.r.staged = true ∧
     badAnchor g.r (anchorsFrom g.r (g.inElems t) p.pl) = false) ∧
    (∃ (s : State) (p : Pkt) (c : Ctx) (y : Plane) (sg : Bytes),
     let h := p.h.tag
     let g := c.geo
     let t := p.h.offset / 2048
     let off := p.h.offset
     off % 2048 = 0 ∧ Staging s.m h c y sg ∧ g.op < 3 ∧ g.np = 1 ∧ Reaches s.m p 0x12 ∧ (s.m.cplan h 0).parent = p.h.src ∧
     (s.m.cplan h 0).isRoot = false ∧ t < g.resTiles ∧ kindOf p = 0 ∧ statusOf p = St.ok ∧ isMasked p = false ∧
     isAbsent p = false ∧ p.pl.length = 2048 ∧ (s.m.dstsOf h 0 t).isEmpty = false) ∧
    (∃ (s : State) (p : Pkt) (c : Ctx) (y : Plane) (sg : Bytes),
     let h := p.h.tag
     let g := c.geo
     let t := p.h.offset / 2048
     let off := p.h.offset
     off % 2048 = 0 ∧ Staging s.m h c y sg ∧ g.op < 3 ∧ g.np = 1 ∧ Reaches s.m p 0x12 ∧ (s.m.cplan h 0).parent = p.h.src ∧
     (s.m.cplan h 0).isRoot = false ∧ t < g.resTiles ∧ kindOf p = 1) ∧
    (∃ (s : State) (h d : Nat) (c : Ctx) (y : Plane) (sg : Bytes) (x : TStep),
     let g := c.geo
     Staging s.m h c { y with steps := [] } sg ∧ Rests s.m ∧ g.op < 3 ∧ g.np = 1 ∧ (s.m.cplan h 0).kids = [] ∧
     x.sent = false ∧ x.pieces = [] ∧ s.m.ctx h = c ∧
     let on : State := { s with m := s.m.updPlane h 0 fun z => { z with steps := [x] } }
     s.m.coll.ctxs.cells = [(h, c)] ∧ s.m.working = true ∧ x.admitted = false ∧ x.raws = [] ∧
     on.m.stepDie h 0 x.tile = d ∧ on.m.canAdmit h 0 x.tile = true) ∧
    (∃ (s : State) (p : Pkt) (h : Nat) (c : Ctx) (y : Plane) (sg : Bytes) (x : TStep),
     let g := c.geo
     Staging s.m h c { y with steps := [] } sg ∧ Rests s.m ∧ g.op < 3 ∧ g.np = 1 ∧ (s.m.cplan h 0).kids = [] ∧
     x.sent = false ∧ x.pieces = [] ∧ s.m.ctx h = c ∧
     let on : State := { s with m := s.m.updPlane h 0 fun z => { z with steps := [x] } }
     let k := anchorsFrom g.r (g.inElems x.tile) p.pl
     Reaches on.m p 0x12 ∧ p.h.tag = h ∧ kindOf p = 2 ∧ p.h.offset = 2048 * x.tile ∧ x.tile * g.r.ei < g.total ∧
     g.r.staged = true ∧ (s.m.cplan h 0).parent = p.h.src ∧ (s.m.cplan h 0).isRoot = false ∧ x.agreed = none ∧
     badAnchor g.r k = false) :=
  ⟨⟨st (coll1 (some (ctx1 (int32 0) ({ on := true })))), (cpk 0x11 h1 (0) (0) 1 4 (zeros 2048)),
    ctx1 (int32 0) ({ on := true }), { on := true }, int32 0, { chip := 1, port := 4 },
    by dsimp only [Reaches, Arrives, Rests, Performs, NoneRefused, Staging]; and_intros <;> first | with_reducible exact cpk_good .. | with_reducible exact rests_of (by decide +kernel) | decide +kernel⟩,
   ⟨st (coll1 (some (ctx1 (int32 0) ({ on := true })))), (cpk 0x11 h1 (1 * 2 ^ 17) (0) 1 4 (zeros 64)),
    ctx1 (int32 0) ({ on := true }), { on := true }, int32 0, { chip := 1, port := 4 },
    by dsimp only [Reaches, Arrives, Rests, Performs, NoneRefused, Staging]; and_intros <;> first | with_reducible exact cpk_good .. | with_reducible exact rests_of (by decide +kernel) | decide +kernel⟩,
   ⟨st (coll1 (some (ctx1 (int32 0) ({ on := true })))), (cpk 0x11 h1 (2 * 2 ^ 17) (0) 8 6 (zeros 2048)),
    ctx1 (int32 0) ({ on := true }), { on := true }, int32 0,
    by dsimp only [Reaches, Arrives, Rests, Performs, NoneRefused, Staging]; and_intros <;> first | with_reducible exact cpk_good .. | with_reducible exact rests_of (by decide +kernel) | decide +kernel⟩,
   ⟨st (coll1 (some (ctx1 (fp32 0) ({ on := true })))), (cpk 0x11 h1 (3 * 2 ^ 17) (0) 8 6 (zeros 16)),
    ctx1 (fp32 0) ({ on := true }), { on := true }, fp32 0,
    by dsimp only [Reaches, Arrives, Rests, Performs, NoneRefused, Staging]; and_intros <;> first | with_reducible exact cpk_good .. | with_reducible exact rests_of (by decide +kernel) | decide +kernel⟩,
   ⟨st (coll1 (some (ctx1 (int32 0) ({ on := true })))), (cpk 0x12 h1 (0) (0) 9 6 (zeros 2048)),
    ctx1 (int32 0) ({ on := true }), { on := true }, int32 0,
    by dsimp only [Reaches, Arrives, Rests, Performs, NoneRefused, Staging]; and_intros <;> first | with_reducible exact cpk_good .. | with_reducible exact rests_of (by decide +kernel) | decide +kernel⟩,
   ⟨st (coll1 (some (ctx1 (int32 0) ({ on := true })))), (cpk 0x12 h1 (1 * 2 ^ 17) (0) 9 6 (zeros 64)),
    ctx1 (int32 0) ({ on := true }), { on := true }, int32 0,
    by dsimp only [Reaches, Arrives, Rests, Performs, NoneRefused, Staging]; and_intros <;> first | with_reducible exact cpk_good .. | with_reducible exact rests_of (by decide +kernel) | decide +kernel⟩,
   ⟨st (coll1 (some (ctx1 (int32 0) ({ on := true }) ({ plan1 with kids := [] })))), h1,
    (coll1 (some (ctx1 (int32 0) ({ on := true }) ({ plan1 with kids := [] })))).stepDie h1 0 0,
    ctx1 (int32 0) ({ on := true }) ({ plan1 with kids := [] }), { on := true }, int32 0, {},
    by dsimp only [Reaches, Arrives, Rests, Performs, NoneRefused, Staging]; and_intros <;> first | with_reducible exact cpk_good .. | with_reducible exact rests_of (by decide +kernel) | decide +kernel⟩,
   ⟨st (coll1 (some (ctx1 (fp32 0) ({ on := true }) ({ plan1 with kids := [] })))),
    (cpk 0x12 h1 (2 * 2 ^ 17) (0) 9 6 (zeros 16)), h1, ctx1 (fp32 0) ({ on := true }) ({ plan1 with kids := [] }),
    { on := true }, fp32 0, {},
    by dsimp only [Reaches, Arrives, Rests, Performs, NoneRefused, Staging]; and_intros <;> first | with_reducible exact cpk_good .. | with_reducible exact rests_of (by decide +kernel) | decide +kernel⟩⟩

theorem witness_GathersAndExchanges :
    (∃ (s : State) (p : Pkt) (c : Ctx) (y : Plane) (sg : Bytes),
     let h := p.h.tag
     let g := c.geo
     let t := p.h.offset / 2048
     let place := s.m.stagePlace
     p.h.offset % 2048 = 0 ∧ Staging s.m h c y sg ∧ g.np = 1 ∧ c.barred = [] ∧ c.xpark = [] ∧ y.sub = none ∧
     y.xlost = false ∧ place.any s.m.placeDown = false ∧ Reaches s.m p 0x11 ∧ kindOf p = 5 ∧ (g.op = 3 ∨ g.op = 4) ∧
     (s.m.cplan h 0).kidChips.contains p.h.src = true ∧ t < g.resTiles ∧ isMasked p = false ∧ isAbsent p = false ∧
     p.pl.length = 2048 ∧ (s.m.dstsOf h 0 t (some p.h.src)).isEmpty = false) ∧
    (∃ (s : State) (p : Pkt) (c : Ctx) (y : Plane) (sg : Bytes) (l : Loc),
     let h := p.h.tag
     let g := c.geo
     let t := p.h.offset / 2048
     let blk := g.count / g.r.ei
     let place := s.m.stagePlace
     p.h.offset % 2048 = 0 ∧ Staging s.m h c y sg ∧ g.np = 1 ∧ c.barred = [] ∧ c.xpark = [] ∧ y.sub = none ∧
     y.xlost = false ∧ place.any s.m.placeDown = false ∧ Reaches s.m p 0x14 ∧ kindOf p = 0 ∧ g.op = 5 ∧
     c.sender (s.m.cplan h 0) p = some l ∧ 0 < blk ∧ t / blk < 2 ^ 17) ∧
    (∃ (s : State) (p : Pkt) (c : Ctx) (y : Plane) (sg : Bytes),
     let h := p.h.tag
     let g := c.geo
     let place := s.m.stagePlace
     p.h.offset % 2048 = 0 ∧ Staging s.m h c y sg ∧ g.np = 1 ∧ c.barred = [] ∧ c.xpark = [] ∧ y.sub = none ∧
     y.xlost = false ∧ place.any s.m.placeDown = false ∧ Reaches s.m p 0x14 ∧ kindOf p = 1 ∧ g.op = 5 ∧
     (s.m.cplan h 0).kidChips.contains p.h.src = true) ∧
    (∃ (s : State) (p : Pkt) (c : Ctx) (y : Plane) (sg : Bytes) (l : Loc),
     let h := p.h.tag
     let g := c.geo
     let t := p.h.offset / 2048
     let x : Decl := { member := l.member, k := t, bytes := p.pl }
     let bad := declared [x] l.member c.n && c.badDecl [x] l.member
     let place := s.m.stagePlace
     p.h.offset % 2048 = 0 ∧ Staging s.m h c y sg ∧ g.np = 1 ∧ c.barred = [] ∧ c.xpark = [] ∧ y.sub = none ∧
     y.xlost = false ∧ place.any s.m.placeDown = false ∧ Reaches s.m p 0x14 ∧ g.op = 6 ∧
     c.sender (s.m.cplan h 0) p = some l ∧ t < ceilDiv c.n 512 ∧ c.rows = [] ∧ c.cols = [] ∧ kindOf p = 3 ∧ bad = false) ∧
    (∃ (s : State) (p : Pkt) (c : Ctx) (y : Plane) (sg : Bytes) (l : Loc),
     let h := p.h.tag
     let g := c.geo
     let t := p.h.offset / 2048
     let x : Decl := { member := l.member, k := t, bytes := p.pl }
     let bad := declared [x] l.member c.n && c.badDecl [x] l.member
     let place := s.m.stagePlace
     p.h.offset % 2048 = 0 ∧ Staging s.m h c y sg ∧ g.np = 1 ∧ c.barred = [] ∧ c.xpark = [] ∧ y.sub = none ∧
     y.xlost = false ∧ place.any s.m.placeDown = false ∧ Reaches s.m p 0x14 ∧ g.op = 6 ∧
     c.sender (s.m.cplan h 0) p = some l ∧ t < ceilDiv c.n 512 ∧ c.rows = [] ∧ c.cols = [] ∧ kindOf p = 4 ∧ bad = false) ∧
    (∃ (s : State) (p : Pkt) (c : Ctx) (y : Plane) (sg : Bytes) (l : Loc),
     let h := p.h.tag
     let g := c.geo
     let t := p.h.offset / 2048
     let x : Decl := { member := l.member, k := t, bytes := p.pl }
     let bad := declared [x] l.member c.n && c.badDecl [x] l.member
     let place := s.m.stagePlace
     p.h.offset % 2048 = 0 ∧ Staging s.m h c y sg ∧ g.np = 1 ∧ c.barred = [] ∧ c.xpark = [] ∧ y.sub = none ∧
     y.xlost = false ∧ place.any s.m.placeDown = false ∧ Reaches s.m p 0x14 ∧ g.op = 6 ∧
     c.sender (s.m.cplan h 0) p = some l ∧ t < ceilDiv c.n 512 ∧ c.rows = [] ∧ c.cols = [] ∧ kindOf p = 3 ∧ bad = true) :=
  ⟨⟨st (coll1 (some (ctx1 (int32 3) ({ on := true })))), (cpk 0x11 h1 (5 * 2 ^ 17) (2048) 8 6 (zeros 2048)),
    ctx1 (int32 3) ({ on := true }), { on := true }, int32 3,
    by dsimp only [Reaches, Arrives, Rests, Performs, NoneRefused, Staging]; and_intros <;> first | with_reducible exact cpk_good .. | with_reducible exact rests_of (by decide +kernel) | decide +kernel⟩,
   ⟨st (coll1 (some (ctx1 (int32 5) ({ on := true })))), (cpk 0x14 h1 (0) (2048) 1 4 (zeros 2048)),
    ctx1 (int32 5) ({ on := true }), { on := true }, int32 5, { chip := 1, port := 4 },
    by dsimp only [Reaches, Arrives, Rests, Performs, NoneRefused, Staging]; and_intros <;> first | with_reducible exact cpk_good .. | with_reducible exact rests_of (by decide +kernel) | decide +kernel⟩,
   ⟨st (coll1 (some (ctx1 (int32 5) ({ on := true })))), (cpk 0x14 h1 (1 * 2 ^ 17) (0) 8 6 (zeros 2048)),
    ctx1 (int32 5) ({ on := true }), { on := true }, int32 5,
    by dsimp only [Reaches, Arrives, Rests, Performs, NoneRefused, Staging]; and_intros <;> first | with_reducible exact cpk_good .. | with_reducible exact rests_of (by decide +kernel) | decide +kernel⟩,
   ⟨st (coll1 (some (ctx1 (int32 6) ({ on := true })))), (cpk 0x14 h1 (3 * 2 ^ 17) (0) 1 4 (zeros 16)),
    ctx1 (int32 6) ({ on := true }), { on := true }, int32 6, { chip := 1, port := 4 },
    by dsimp only [Reaches, Arrives, Rests, Performs, NoneRefused, Staging]; and_intros <;> first | with_reducible exact cpk_good .. | with_reducible exact rests_of (by decide +kernel) | decide +kernel⟩,
   ⟨st (coll1 (some (ctx1 (int32 6) ({ on := true })))), (cpk 0x14 h1 (4 * 2 ^ 17) (0) 1 4 (zeros 16)),
    ctx1 (int32 6) ({ on := true }), { on := true }, int32 6, { chip := 1, port := 4 },
    by dsimp only [Reaches, Arrives, Rests, Performs, NoneRefused, Staging]; and_intros <;> first | with_reducible exact cpk_good .. | with_reducible exact rests_of (by decide +kernel) | decide +kernel⟩,
   ⟨st (coll1 (some (ctx1 (int32 6) ({ on := true })))), (cpk 0x14 h1 (3 * 2 ^ 17) (0) 1 4 (List.replicate 16 255)),
    ctx1 (int32 6) ({ on := true }), { on := true }, int32 6, { chip := 1, port := 4 },
    by dsimp only [Reaches, Arrives, Rests, Performs, NoneRefused, Staging]; and_intros <;> first | with_reducible exact cpk_good .. | with_reducible exact rests_of (by decide +kernel) | decide +kernel⟩⟩

theorem witness_NoticesAndFailureTimers :
    (∃ (s : State) (p : Pkt) (c : Ctx) (y : Plane) (sg : Bytes) (l : Loc) (x : Ret) (d e : RDst),
     let h := p.h.tag
     let g := c.geo
     let st := statusOf p
     let off := p.h.offset
     Reaches s.m p 0x13 ∧ st = St.ok ∧ s.m.ctx h = c ∧ c.planes = [y] ∧ c.launched = true ∧ c.sig = some sg ∧ g.op = 0 ∧
     c.sender (s.m.cplan h 0) p = some l ∧ y.on = true ∧ y.ended = false ∧ y.fail = none ∧ y.summary = true ∧
     y.checked = false ∧ y.steps = [] ∧ y.rets = [x] ∧ x.tile = off / 2048 ∧ x.dsts = [d, e] ∧ d.role = 0 ∧
     d.id = l.member ∧ d.acked = false ∧ d.due.isSome = true ∧ e.role = 1 ∧ e.acked = false ∧ e.due.isSome = true) ∧
    (∃ (s : State) (p : Pkt) (c : Ctx) (y : Plane) (sg : Bytes),
     let h := p.h.tag
     let g := c.geo
     let st := statusOf p
     let off := p.h.offset
     Staging s.m h c y sg ∧ g.op < 3 ∧ Reaches s.m p 0x13 ∧ s.m.fromLocal h p = false ∧ off = planeOff 0 ∧
     (s.m.cplan h 0).parent ≠ p.h.src ∧ (s.m.cplan h 0).isRoot = false ∧
     (s.m.cplan h 0).kidChips.contains p.h.src = true ∧ y.dataOn = false ∧ y.summary = false ∧ st = St.ok ∧
     y.kidsDone = []) ∧
    (∃ (s : State) (p : Pkt) (c : Ctx) (y : Plane) (sg : Bytes),
     let h := p.h.tag
     let g := c.geo
     let st := statusOf p
     let off := p.h.offset
     Staging s.m h c y sg ∧ g.op < 3 ∧ Reaches s.m p 0x13 ∧ s.m.fromLocal h p = false ∧ off = planeOff 0 ∧
     (s.m.cplan h 0).parent ≠ p.h.src ∧ (s.m.cplan h 0).isRoot = false ∧
     (s.m.cplan h 0).kidChips.contains p.h.src = true ∧ y.dataOn = false ∧ y.summary = false ∧ st = St.ok ∧
     y.kidsDone.any (·.1 == p.h.src) = true ∧ (s.m.grp (h / 65536)).vc < 8) ∧
    (∃ (s : State) (p : Pkt) (c : Ctx) (y : Plane) (sg : Bytes),
     let h := p.h.tag
     let g := c.geo
     let st := statusOf p
     let off := p.h.offset
     Staging s.m h c y sg ∧ g.op < 3 ∧ Reaches s.m p 0x13 ∧ s.m.fromLocal h p = false ∧ off = planeOff 0 ∧
     (s.m.cplan h 0).parent ≠ p.h.src ∧ (s.m.cplan h 0).isRoot = false ∧
     (s.m.cplan h 0).kidChips.contains p.h.src = true ∧ y.dataOn = false ∧ y.summary = false ∧ st ≠ St.ok ∧ st ≠ St.busy ∧
     st ≠ St.alreadyComplete ∧ st ≠ St.chunkLost ∧ y.kidsDone = []) ∧
    (∃ (s : State) (p : Pkt) (c : Ctx) (y : Plane) (sg : Bytes),
     let h := p.h.tag
     let g := c.geo
     let st := statusOf p
     let off := p.h.offset
     let k := g.chunkOfRes (off / 2048)
     Staging s.m h c y sg ∧ g.op < 3 ∧ g.np = 1 ∧ Reaches s.m p 0x12 ∧ kindOf p = 0 ∧ st = St.chunkLost ∧
     (s.m.cplan h 0).parent = p.h.src ∧ (s.m.cplan h 0).isRoot = false ∧ k < g.chunks) ∧
    (∃ (s : State) (p : Pkt),
     let h := p.h.tag
     let st := statusOf p
     Arrives s.m p 0x13 ∧ s.m.unrecorded p = true ∧ st = St.ok ∧ s.m.coll.noticed.get h = 0 ∧
     (s.m.collVc p (h / 65536)) < 8) ∧
    (∃ (s : State) (h t : Nat) (c : Ctx) (y : Plane) (sg : Bytes),
     let g := c.geo
     s.m.working = true ∧ Rests s.m ∧ (s.m.cplan h 0).isRoot = false ∧ Staging s.m h c y sg ∧ g.op < 3 ∧
     c.joinDue = some t ∧ y.summary = false) ∧
    (∃ (s : State) (h t : Nat) (c : Ctx) (y : Plane) (sg : Bytes),
     let g := c.geo
     s.m.working = true ∧ Rests s.m ∧ (s.m.cplan h 0).isRoot = false ∧ Staging s.m h c y sg ∧ g.op < 3 ∧ g.np = 1 ∧
     y.lost = [] ∧ y.dataDue = some t ∧ s.m.now + (t - s.m.ticks) < sgLaunch sg) ∧
    (∃ (s : State) (h t : Nat) (c : Ctx) (y : Plane) (sg : Bytes) (x : Ret) (d : RDst),
     let g := c.geo
     s.m.working = true ∧ Rests s.m ∧ (s.m.cplan h 0).isRoot = false ∧ s.m.ctx h = c ∧ c.used = true ∧ c.planes = [y] ∧
     c.launched = true ∧ c.sig = some sg ∧ g.op = 0 ∧ y.on = true ∧ y.ended = false ∧ y.fail = none ∧ y.summary = true ∧
     y.checked = false ∧ y.steps = [] ∧ y.rets = [x] ∧ x.dsts = [d] ∧ d.acked = false ∧ d.due = some t ∧
     s.m.placeLost x.place = false ∧ s.m.store.damaged.get (resKey x.place) < 2 ∧ d.resends < s.m.collReg 0x028 17) ∧
    (∃ (s : State) (h t st : Nat) (c : Ctx) (y : Plane), s.m.working = true ∧ Rests s.m ∧ (s.m.cplan h 0).isRoot = false ∧
     s.m.ctx h = c ∧ c.used = true ∧ c.planes = [y] ∧ y.on = true ∧ y.ended = false ∧ y.sub = some st ∧
     y.probeDue = some t ∧ y.probes < s.m.collReg 0x02C 14) ∧
    (∃ (s : State) (h t st : Nat) (c : Ctx) (y : Plane), s.m.working = true ∧ Rests s.m ∧ (s.m.cplan h 0).isRoot = false ∧
     s.m.ctx h = c ∧ c.used = true ∧ c.planes = [y] ∧ y.on = true ∧ y.ended = false ∧ y.sub = some st ∧
     y.probeDue = some t ∧ s.m.collReg 0x02C 14 ≤ y.probes) :=
  ⟨⟨st (coll1 (some ({ ctx1 (int32 0) ({ on := true, summary := true, rets := [{ dsts := [{ due := some 5 }, { role := 1, id := 8, due := some 5 }] }] }) with launched := true }))),
    (cpk 0x13 h1 (0) (0) 1 4 ([])),
    { ctx1 (int32 0) ({ on := true, summary := true, rets := [{ dsts := [{ due := some 5 }, { role := 1, id := 8, due := some 5 }] }] }) with launched := true },
    { on := true, summary := true, rets := [{ dsts := [{ due := some 5 }, { role := 1, id := 8, due := some 5 }] }] },
    int32 0, { chip := 1, port := 4 }, { dsts := [{ due := some 5 }, { role := 1, id := 8, due := some 5 }] },
    { due := some 5 }, { role := 1, id := 8, due := some 5 },
    by dsimp only [Reaches, Arrives, Rests, Performs, NoneRefused, Staging]; and_intros <;> first | with_reducible exact cpk_good .. | with_reducible exact rests_of (by decide +kernel) | decide +kernel⟩,
   ⟨st (coll1 (some (ctx1 (int32 0) ({ on := true })))), (cpk 0x13 h1 (0) (planeOff 0) 8 6 ([])),
    ctx1 (int32 0) ({ on := true }), { on := true }, int32 0,
    by dsimp only [Reaches, Arrives, Rests, Performs, NoneRefused, Staging]; and_intros <;> first | with_reducible exact cpk_good .. | with_reducible exact rests_of (by decide +kernel) | decide +kernel⟩,
   ⟨st (coll1 (some (ctx1 (int32 0) ({ on := true, kidsDone := [(8, 0)] })))), (cpk 0x13 h1 (0) (planeOff 0) 8 6 ([])),
    ctx1 (int32 0) ({ on := true, kidsDone := [(8, 0)] }), { on := true, kidsDone := [(8, 0)] }, int32 0,
    by dsimp only [Reaches, Arrives, Rests, Performs, NoneRefused, Staging]; and_intros <;> first | with_reducible exact cpk_good .. | with_reducible exact rests_of (by decide +kernel) | decide +kernel⟩,
   ⟨st (coll1 (some (ctx1 (int32 0) ({ on := true })))), (cpk 0x13 h1 (0x25) (planeOff 0) 8 6 ([])),
    ctx1 (int32 0) ({ on := true }), { on := true }, int32 0,
    by dsimp only [Reaches, Arrives, Rests, Performs, NoneRefused, Staging]; and_intros <;> first | with_reducible exact cpk_good .. | with_reducible exact rests_of (by decide +kernel) | decide +kernel⟩,
   ⟨st (coll1 (some (ctx1 (int32 0) ({ on := true })))), (cpk 0x12 h1 (St.chunkLost) (0) 9 6 ([])),
    ctx1 (int32 0) ({ on := true }), { on := true }, int32 0,
    by dsimp only [Reaches, Arrives, Rests, Performs, NoneRefused, Staging]; and_intros <;> first | with_reducible exact cpk_good .. | with_reducible exact rests_of (by decide +kernel) | decide +kernel⟩,
   ⟨st (withKeep up 0x008 7), (cpk 0x13 h1 (0) (0) 8 6 ([])),
    by dsimp only [Reaches, Arrives, Rests, Performs, NoneRefused, Staging]; and_intros <;> first | with_reducible exact cpk_good .. | with_reducible exact rests_of (by decide +kernel) | decide +kernel⟩,
   ⟨st (coll1 (some ({ ctx1 (int32 0) ({ on := true }) with joinDue := some 9 }))), h1, 9,
    { ctx1 (int32 0) ({ on := true }) with joinDue := some 9 }, { on := true }, int32 0,
    by dsimp only [Reaches, Arrives, Rests, Performs, NoneRefused, Staging]; and_intros <;> first | with_reducible exact cpk_good .. | with_reducible exact rests_of (by decide +kernel) | decide +kernel⟩,
   ⟨st (coll1 (some (ctx1 (int32 0) ({ on := true, dataDue := some 9 })))), h1, 9,
    ctx1 (int32 0) ({ on := true, dataDue := some 9 }), { on := true, dataDue := some 9 }, int32 0,
    by dsimp only [Reaches, Arrives, Rests, Performs, NoneRefused, Staging]; and_intros <;> first | with_reducible exact cpk_good .. | with_reducible exact rests_of (by decide +kernel) | decide +kernel⟩,
   ⟨st (coll1 (some ({ ctx1 (int32 0) ({ on := true, summary := true, rets := [{ dsts := [{ due := some 9 }] }] }) with launched := true }))),
    h1, 9,
    { ctx1 (int32 0) ({ on := true, summary := true, rets := [{ dsts := [{ due := some 9 }] }] }) with launched := true },
    { on := true, summary := true, rets := [{ dsts := [{ due := some 9 }] }] }, int32 0, { dsts := [{ due := some 9 }] },
    { due := some 9 },
    by dsimp only [Reaches, Arrives, Rests, Performs, NoneRefused, Staging]; and_intros <;> first | with_reducible exact cpk_good .. | with_reducible exact rests_of (by decide +kernel) | decide +kernel⟩,
   ⟨st (coll1 (some (ctx1 (int32 0) ({ on := true, sub := some St.timeout, probeDue := some 9, probes := 4 })))), h1, 9,
    St.timeout, ctx1 (int32 0) ({ on := true, sub := some St.timeout, probeDue := some 9, probes := 4 }),
    { on := true, sub := some St.timeout, probeDue := some 9, probes := 4 },
    by dsimp only [Reaches, Arrives, Rests, Performs, NoneRefused, Staging]; and_intros <;> first | with_reducible exact cpk_good .. | with_reducible exact rests_of (by decide +kernel) | decide +kernel⟩,
   ⟨st (coll1 (some (ctx1 (int32 0) ({ on := true, sub := some St.timeout, probeDue := some 9, probes := 5 })))), h1, 9,
    St.timeout, ctx1 (int32 0) ({ on := true, sub := some St.timeout, probeDue := some 9, probes := 5 }),
    { on := true, sub := some St.timeout, probeDue := some 9, probes := 5 },
    by dsimp only [Reaches, Arrives, Rests, Performs, NoneRefused, Staging]; and_intros <;> first | with_reducible exact cpk_good .. | with_reducible exact rests_of (by decide +kernel) | decide +kernel⟩⟩

theorem witness_TimeAndPowerSettings :
    (∃ (s : State) (r : CmdReq),
     let b := mgtBlk 2
     let n := begun s.m r
     let rest := sel (r.u 0 4) 0 [(⟨b, 0x000, r.u 4 4⟩ : RegW)] ++ sel (r.u 0 4) 1 [⟨b, 0x004, r.u 8 4⟩] ++ sel (r.u 0 4) 2 [⟨b, 0x008, r.u 12 4⟩] ++ sel (r.u 0 4) 3 [⟨b, 0x00C, r.u 16 4⟩] ++ sel (r.u 0 4) 4 [⟨b, 0x010, r.u 20 4⟩]
     Runs s.m r 0x0801 [(0, 4, 6), (4, 4, 32), (8, 4, 32), (12, 4, 32), (16, 4, 32), (20, 4, 32), (24, 8, 64)] ∧
     s.m.mayChange r (unit 0x10 0) = true ∧ bitAt (r.u 0 4) 5 = false ∧ bitAt (r.u 4 4) 4 = false ∧ Legal n r rest) ∧
    (∃ (s : State) (r : CmdReq), Runs s.m r 0x0802 []) ∧
    (∃ (s : State) (r : CmdReq),
     let q := mgtBlk 6
     let n := begun s.m r
     let cap : List RegW := (if r.u 2 2 = 0 then [] else [⟨q, 0x008, r.u 2 2⟩]) ++ [⟨q, 0x004, r.u 0 2⟩]
     Runs s.m r 0x0901 [(0, 2, 16), (2, 2, 16)] ∧ r.u 0 2 < 8192 ∧ r.u 2 2 < 1024 ∧ Legal n r cap) ∧
    (∃ (s : State) (r : CmdReq),
     let q := mgtBlk 6
     let n := begun s.m r
     let pace : List RegW := [⟨q, 0x000, r.u 0 4⟩, ⟨q, 0x00C, r.u 4 4⟩, ⟨q, 0x010, r.u 8 4⟩, ⟨q, 0x014, r.u 12 4⟩]
     Runs s.m r 0x0902 [(0, 4, 32), (4, 4, 32), (8, 4, 32), (12, 4, 32)] ∧ Legal n r pace) ∧
    (∃ (s : State) (r : CmdReq),
     let q := mgtBlk 6
     let n := begun s.m r
     let idle : List RegW := [⟨q, 0x308, r.u 4 4⟩] ++ wakeCount r
     Runs s.m r 0x0903 lullLay ∧ r.u 0 1 = 1 ∧ s.m.trk.anyOpen = false ∧ Legal n r idle) ∧
    (∃ (s : State) (r : CmdReq), Runs s.m r 0x0903 lullLay ∧ r.u 0 1 = 1 ∧ s.m.trk.anyOpen = true) ∧
    (∃ (s : State) (r : CmdReq), Runs s.m r 0x0903 lullLay ∧ r.u 0 1 = 0 ∧ r.u 4 4 ≤ 3600000 ∧ s.m.trk.anyOpen = false ∧
     s.m.pwr.st = 2 ∧ r.u 8 8 = 0) ∧
    (∃ (s : State) (r : CmdReq), Runs s.m r 0x0903 lullLay ∧ r.u 0 1 = 0 ∧ r.u 4 4 ≤ 3600000 ∧ s.m.trk.anyOpen = true) ∧
    (∃ (s : State) (r : CmdReq), Runs s.m r 0x0A03 [(0, 1, 8), (1, 1, 8)] ∧ 56 ≤ r.u 0 1) ∧
    (∃ (s : State) (r : CmdReq),
     let n := begun s.m r
     Runs s.m r 0x0A03 [(0, 1, 8), (1, 1, 8)] ∧ r.u 0 1 < 56 ∧ r.u 1 1 ≤ 3 ∧
     Legal n r [⟨mgtBlk 3, 0x100 + 4 * r.u 0 1, r.u 1 1⟩]) :=
  ⟨⟨st (asked (up) (ask 0x0801 ([0, 0, 0, 31, 0, 0, 0, 8, 0, 0, 0, 0, 0, 0, 0, 16, 0, 0, 14, 16, 0, 0, 0, 200] ++ zeros 8))),
    ask 0x0801 ([0, 0, 0, 31, 0, 0, 0, 8, 0, 0, 0, 0, 0, 0, 0, 16, 0, 0, 14, 16, 0, 0, 0, 200] ++ zeros 8),
    by dsimp only [Runs, Legal, begun, Waits]; decide +kernel⟩,
   ⟨st (asked (up) (ask 0x0802 ([]))), ask 0x0802 ([]), by dsimp only [Runs, Waits]; decide +kernel⟩,
   ⟨st (asked (up) (ask 0x0901 ([17, 48, 3, 232]))), ask 0x0901 ([17, 48, 3, 232]),
    by dsimp only [Runs, Legal, begun, Waits]; decide +kernel⟩,
   ⟨st (asked (up) (ask 0x0902 ([0, 0, 0, 3, 0, 0, 5, 220, 0, 0, 3, 92, 0, 0, 0, 100]))),
    ask 0x0902 ([0, 0, 0, 3, 0, 0, 5, 220, 0, 0, 3, 92, 0, 0, 0, 100]),
    by dsimp only [Runs, Legal, begun, Waits]; decide +kernel⟩,
   ⟨st (asked (up) (ask 0x0903 ([1, 0, 0, 0, 0, 54, 238, 128] ++ zeros 7 ++ [9]))),
    ask 0x0903 ([1, 0, 0, 0, 0, 54, 238, 128] ++ zeros 7 ++ [9]),
    by dsimp only [Runs, Legal, begun, Waits]; decide +kernel⟩,
   ⟨st (asked (withEnt up 3) (ask 0x0903 ([1]))), ask 0x0903 ([1]), by dsimp only [Runs, Waits]; decide +kernel⟩,
   ⟨st (asked (up) (ask 0x0903 ([0, 0, 0, 0, 0, 54, 238, 128]))), ask 0x0903 ([0, 0, 0, 0, 0, 54, 238, 128]),
    by dsimp only [Runs, Waits]; decide +kernel⟩,
   ⟨st (asked (withEnt up 3) (ask 0x0903 ([]))), ask 0x0903 ([]), by dsimp only [Runs, Waits]; decide +kernel⟩,
   ⟨st (asked (up) (ask 0x0A03 ([56, 3]))), ask 0x0A03 ([56, 3]), by dsimp only [Runs, Waits]; decide +kernel⟩,
   ⟨st (asked (up) (ask 0x0A03 ([55, 3]))), ask 0x0A03 ([55, 3]),
    by dsimp only [Runs, Legal, begun, Waits]; decide +kernel⟩⟩

theorem witness_FaultsAndFirmware :
    (∃ (s : State) (r : CmdReq) (x : Rec), Runs s.m r 0x0A01 [(0, 1, 8)] ∧ r.u 0 1 = 0 ∧ s.m.flt.cur = some x) ∧
    (∃ (s : State) (r : CmdReq), Runs s.m r 0x0A01 [(0, 1, 8)] ∧ r.u 0 1 = 1) ∧
    (∃ (s : State) (r : CmdReq) (x : Rec), Runs s.m r 0x0A02 [(0, 8, 64)] ∧ s.m.flt.cur = some x ∧ x.slot = none ∧
     s.m.flt.fenced = 0 ∧ s.m.flt.active = 0 ∧ (∀ k, bitAt x.sources k = true → k < 56 ∧ bitAt (r.u 0 8) k = true)) ∧
    (∃ (s : State) (r : CmdReq) (x : Rec), Runs s.m r 0x0A02 [(0, 8, 64)] ∧ s.m.flt.cur = some x ∧ x.sources ≠ 0 ∧
     r.u 0 8 = 0) ∧
    (∃ (s : State) (r : CmdReq), Runs s.m r 0x0F02 [(0, 1, 8), (4, 4, 32)] ∧ s.m.sec.testMode = true ∧ r.u 0 1 ≤ 55 ∧
     r.u 4 4 = 1 ∧ s.m.flt.cur = none ∧ s.m.pwr.standby = true) ∧
    (∃ (s : State) (r : CmdReq), Runs s.m r 0x0F02 [(0, 1, 8), (4, 4, 32)] ∧ s.m.sec.testMode = false) ∧
    (∃ (s : State) (r : CmdReq), Runs s.m r 0x0F01 (fragLay r.body 1) ∧ r.u 32 4 = 29856 ∧ r.u 36 4 = 0 ∧
     r.u 40 2 = 1984 ∧ s.m.vane.asms = []) ∧
    (∃ (s : State) (r : CmdReq) (e : Nat), Runs s.m r 0x0B01 [(0, 32, 256)] ∧ s.m.sec.identityOk = true ∧
     s.m.trk.room 4 = true ∧ s.m.trk.pick = some e ∧ e < 2 ^ 14) ∧
    (∃ (s : State) (r : CmdReq), Runs s.m r 0x0B02 (fragLay r.body 1) ∧ 1984 < r.u 32 4 ∧ r.u 32 4 ≤ 2 ^ 24 ∧
     r.u 32 4 % 16 = 0 ∧ r.u 36 4 = 0 ∧ r.u 40 2 = 1984 ∧ s.m.vane.asms = [] ∧ s.m.staging = false ∧
     s.m.otherBank < s.m.sec.banks.length) ∧
    (∃ (s : State) (r : CmdReq) (i : StartIn),
     let bank := s.m.sec.banks.getD (r.u 0 1) {}
     Runs s.m r 0x0B03 [(0, 1, 8), (1, 1, 1)] ∧ r.u 0 1 ≤ 1 ∧ r.u 1 1 = 0 ∧ bank.st = 2 ∧
     bank.reads (if r.u 0 1 = 0 then i.bankA else i.bankB) = true ∧ s.m.minVersion ≤ s.m.sec.version (r.u 0 1) ∧
     s.m.keep.valid = true) ∧
    (∃ (s : State) (r : CmdReq) (i : StartIn),
     let bank := s.m.sec.banks.getD (r.u 0 1) {}
     Runs s.m r 0x0B03 [(0, 1, 8), (1, 1, 1)] ∧ r.u 0 1 ≤ 1 ∧ bank.st ≠ 3 ∧
     bank.reads (if r.u 0 1 = 0 then i.bankA else i.bankB) = false) :=
  ⟨⟨st (asked ({ up with flt := { cur := some { sources := 4, ever := 4 } } }) (ask 0x0A01 ([]))), ask 0x0A01 ([]),
    { sources := 4, ever := 4 }, by dsimp only [Runs, Waits]; decide +kernel⟩,
   ⟨st (asked (up) (ask 0x0A01 ([1]))), ask 0x0A01 ([1]), by dsimp only [Runs, Waits]; decide +kernel⟩,
   ⟨st (asked ({ up with flt := { cur := some { sources := 4, ever := 4 } } }) (ask 0x0A02 ([0, 0, 0, 0, 0, 0, 0, 4]))),
    ask 0x0A02 ([0, 0, 0, 0, 0, 0, 0, 4]), { sources := 4, ever := 4 },
    by dsimp only [Runs, Waits]; exact ⟨by decide +kernel, by decide +kernel, by decide +kernel, by decide +kernel, by decide +kernel, fun k hk => one_bit hk ▸ by decide +kernel⟩⟩,
   ⟨st (asked ({ up with flt := { cur := some { sources := 4, ever := 4 } } }) (ask 0x0A02 ([]))), ask 0x0A02 ([]),
    { sources := 4, ever := 4 }, by dsimp only [Runs, Waits]; decide +kernel⟩,
   ⟨st (asked ({ up with sec := { up.sec with testMode := true } }) (ask 0x0F02 ([55, 0, 0, 0, 0, 0, 0, 1]))),
    ask 0x0F02 ([55, 0, 0, 0, 0, 0, 0, 1]), by dsimp only [Runs, Waits]; decide +kernel⟩,
   ⟨st (asked (up) (ask 0x0F02 ([0, 0, 0, 0, 0, 0, 0, 1]))), ask 0x0F02 ([0, 0, 0, 0, 0, 0, 0, 1]),
    by dsimp only [Runs, Waits]; decide +kernel⟩,
   ⟨st (asked (up) (ask 0x0F01 (zeros 32 ++ [0, 0, 116, 160, 0, 0, 0, 0, 7, 192] ++ zeros 1990))),
    ask 0x0F01 (zeros 32 ++ [0, 0, 116, 160, 0, 0, 0, 0, 7, 192] ++ zeros 1990),
    by dsimp only [Runs, Waits]; decide +kernel⟩,
   ⟨st (asked ({ up with sec := { up.sec with identityOk := true } }) (ask 0x0B01 (zeros 32))), ask 0x0B01 (zeros 32), 0,
    by dsimp only [Runs, Waits]; decide +kernel⟩,
   ⟨st (asked (up) (ask 0x0B02 (zeros 32 ++ [1, 0, 0, 0, 0, 0, 0, 0, 7, 192] ++ zeros 1990))),
    ask 0x0B02 (zeros 32 ++ [1, 0, 0, 0, 0, 0, 0, 0, 7, 192] ++ zeros 1990), by dsimp only [Runs, Waits]; decide +kernel⟩,
   ⟨st (asked ({ up with sec := { up.sec with banks := [{ st := 2 }, { st := 2 }] }, keep := { valid := true } }) (ask 0x0B03 ([1, 0]))),
    ask 0x0B03 ([1, 0]), { bankB := true }, by dsimp only [Runs, Waits]; decide +kernel⟩,
   ⟨st (asked ({ up with sec := { up.sec with banks := [{ st := 2 }, { st := 1 }] } }) (ask 0x0B03 ([1, 0]))),
    ask 0x0B03 ([1, 0]), { bankB := false }, by dsimp only [Runs, Waits]; decide +kernel⟩⟩

theorem witness_ResetsStopAndKeep :
    (∃ (s : State) (r : CmdReq), Runs s.m r 0x0904 (resetLay r) ∧ r.u 0 1 = 0) ∧
    (∃ (s : State) (r : CmdReq), Runs s.m r 0x0904 (resetLay r) ∧ r.u 0 1 = 1 ∧ s.m.pwr.main = true ∧
     s.m.store.objs.wf = true) ∧
    (∃ (s : State) (r : CmdReq), Runs s.m r 0x0904 (resetLay r) ∧ r.u 0 1 = 3) ∧
    (∃ (s : State) (r : CmdReq), Runs s.m r 0x0904 (resetLay r) ∧ r.u 0 1 = 2) :=
  ⟨⟨st (asked (up) (ask 0x0904 ([]))), ask 0x0904 ([]), by dsimp only [Runs, Waits]; decide +kernel⟩,
   ⟨st (asked (obj1) (ask 0x0904 ([1]))), ask 0x0904 ([1]), by dsimp only [Runs, Waits]; decide +kernel⟩,
   ⟨st (asked (up) (ask 0x0904 ([3]))), ask 0x0904 ([3]), by dsimp only [Runs, Waits]; decide +kernel⟩,
   ⟨st (asked (up) (ask 0x0904 ([2, 255]))), ask 0x0904 ([2, 255]), by dsimp only [Runs, Waits]; decide +kernel⟩⟩

theorem witness_TrackerAndControlSpace :
    (∃ (s : State) (r : CmdReq) (e : TEnt),
     let h := r.u 4 4
     Runs s.m r 0x0C03 [(0, 1, 8), (4, 4, 32)] ∧ r.u 0 1 = 0 ∧ s.m.trk.find h = some e ∧ e.kind = 4) ∧
    (∃ (s : State) (r : CmdReq) (e : TEnt),
     let h := r.u 4 4
     Runs s.m r 0x0C04 [(0, 1, 8), (4, 4, 32)] ∧ r.u 0 1 = 0 ∧ s.m.trk.find h = some e ∧ e.kind = 4 ∧ e.st = 1 ∧
     e.side = r.side) ∧
    (∃ (s : State) (r : CmdReq) (e : TEnt),
     let h := r.u 4 4
     Runs s.m r 0x0C04 [(0, 1, 8), (4, 4, 32)] ∧ r.u 0 1 = 0 ∧ s.m.trk.find h = some e ∧ e.kind = 4 ∧ e.st = 3 ∧
     e.side = r.side) ∧
    (∃ (s : State) (q : CmdReq) (e : TEnt) (k : Nat), s.m.vaneUp = true ∧ k < 2 ^ 14 ∧ s.m.trk.ents.get k = e ∧
     e.handle % 2 ^ 14 = k ∧ e.handle ≠ 0 ∧ e.kind = 3 ∧ e.ended = true ∧ e.st = 2 ∧ e.req = some q ∧ e.aborts = [] ∧
     e.status ≠ St.busy ∧
     (∃ c ∈ s.m.vane.cache q.side, c.keyOf q = true ∧ c.body = q.body ∧ c.final = [] ∧ ∃ x, c.first = some x ∧ fieldBE x.pl 4 4 = e.handle)) ∧
    (∃ (s : State) (r : CmdReq), Runs s.m r 0x0C05 [(0, 1, 8), (16, 2, 16), (18, 2, 16), (20, 2, 16)] ∧ r.u 0 1 = 1 ∧
     (blkKind (r.u 16 2)).isSome ∧ r.u 18 2 % 8 = 0 ∧ r.u 20 2 ≤ 252) ∧
    (∃ (s : State) (r : CmdReq), Runs s.m r 0x0C06 [(0, 8, 64), (8, 2, 16)] ∧ regRange r = true) ∧
    (∃ (s : State) (r : CmdReq) (l : List RegW),
     let n := begun s.m r
     let words := (List.range (r.u 8 2)).map fun j => r.u (16 + 4 * j) 4
     let us := (l.map fun x => unit 0x12 x.blk).eraseDups
     Runs s.m r 0x0C07 [(0, 8, 64), (8, 2, 16), (16, 4 * r.u 8 2, 32 * r.u 8 2)] ∧ regRange r = true ∧
     regsOfWords (r.u 0 8) words = some l ∧ (∀ u ∈ us, s.m.mayChange r u = true) ∧ Legal n r l ∧
     (∀ x ∈ l, blkKind x.blk = some .coll) ∧ (l.map fun x => (x.blk, x.off)).Nodup) ∧
    (∃ (s : State) (r : CmdReq) (l : List RegW),
     let n := begun s.m r
     let words := (List.range (r.u 8 2)).map fun j => r.u (16 + 4 * j) 4
     let us := (l.map fun x => unit 0x12 x.blk).eraseDups
     Runs s.m r 0x0C07 [(0, 8, 64), (8, 2, 16), (16, 4 * r.u 8 2, 32 * r.u 8 2)] ∧ regRange r = true ∧
     regsOfWords (r.u 0 8) words = some l ∧ (∀ u ∈ us, s.m.mayChange r u = true) ∧
     (∃ x ∈ l, n.regStatus (l.foldl (fun m x => m.store1 x) n) r.side x ≠ St.ok)) :=
  ⟨⟨st (asked (withEnt up 4) (ask 0x0C03 ([0, 0, 0, 0, 0, 1, 64, 0]))), ask 0x0C03 ([0, 0, 0, 0, 0, 1, 64, 0]),
    { handle := 5 * 2 ^ 14, kind := 4, st := 1, side := true }, by dsimp only [Runs, Waits]; decide +kernel⟩,
   ⟨st (asked (withEnt up 4) (ask 0x0C04 ([0, 0, 0, 0, 0, 1, 64, 0]))), ask 0x0C04 ([0, 0, 0, 0, 0, 1, 64, 0]),
    { handle := 5 * 2 ^ 14, kind := 4, st := 1, side := true }, by dsimp only [Runs, Waits]; decide +kernel⟩,
   ⟨st (asked ({ up with trk := { ents := ⟨[(0, { handle := 5 * 2 ^ 14, kind := 4, st := 3, side := true })]⟩ } }) (ask 0x0C04 ([0, 0, 0, 0, 0, 1, 64, 0]))),
    ask 0x0C04 ([0, 0, 0, 0, 0, 1, 64, 0]), { handle := 5 * 2 ^ 14, kind := 4, st := 3, side := true },
    by dsimp only [Runs, Waits]; decide +kernel⟩,
   ⟨st { up with vane := { hostCache := [{ body := (ask 0x0604).body, tag := (ask 0x0604).tag, chip := (ask 0x0604).chip, opcode := 0x0604, first := some { pl := beBytes 4 0 ++ beBytes 4 (5 * 2 ^ 14) } }], sideCache := [{ body := (ask 0x0604).body, tag := (ask 0x0604).tag, chip := (ask 0x0604).chip, opcode := 0x0604, first := some { pl := beBytes 4 0 ++ beBytes 4 (5 * 2 ^ 14) } }] }, trk := { ents := ⟨[(0, { handle := 5 * 2 ^ 14, kind := 3, st := 2, ended := true, req := some (ask 0x0604) })]⟩ } },
    ask 0x0604, { handle := 5 * 2 ^ 14, kind := 3, st := 2, ended := true, req := some (ask 0x0604) }, 0,
    by decide +kernel⟩,
   ⟨st (asked (up) (ask 0x0C05 ([1] ++ zeros 15 ++ [31, 3, 2, 0, 0, 252]))),
    ask 0x0C05 ([1] ++ zeros 15 ++ [31, 3, 2, 0, 0, 252]), by dsimp only [Runs, Waits]; decide +kernel⟩,
   ⟨st (asked (up) (ask 0x0C06 ([0, 0, 127, 0, 0, 0, 0, 0, 0, 1]))), ask 0x0C06 ([0, 0, 127, 0, 0, 0, 0, 0, 0, 1]),
    by dsimp only [Runs, Waits]; decide +kernel⟩,
   ⟨st (asked (up) (ask 0x0C07 (beBytes 8 (0x7F0000000000 + hubBlk 1 * 2 ^ 20 + 0x20) ++ [0, 1] ++ zeros 6 ++ beBytes 4 100))),
    ask 0x0C07 (beBytes 8 (0x7F0000000000 + hubBlk 1 * 2 ^ 20 + 0x20) ++ [0, 1] ++ zeros 6 ++ beBytes 4 100),
    [⟨hubBlk 1, 0x20, 100⟩], by dsimp only [Runs, Legal, begun, Waits]; decide +kernel⟩,
   ⟨st (asked (up) (ask 0x0C07 (beBytes 8 (0x7F0000000000 + hubBlk 1 * 2 ^ 20 + 0x20) ++ [0, 1] ++ zeros 6 ++ beBytes 4 99))),
    ask 0x0C07 (beBytes 8 (0x7F0000000000 + hubBlk 1 * 2 ^ 20 + 0x20) ++ [0, 1] ++ zeros 6 ++ beBytes 4 99),
    [⟨hubBlk 1, 0x20, 99⟩], by dsimp only [Runs, begun, Waits]; decide +kernel⟩⟩

theorem witness_FramesOfWhatIsStored :
    ∃ (c : Instr) (s t : State), exec c s = .next t ∧ changesMem c = false ∧ changesStore c = false ∧
     changesSec c = false ∧ changesKern c = false :=
  ⟨.timeStatus (ask 0x0802), st (asked up (ask 0x0802)), st (timeStatus (ask 0x0802) (asked up (ask 0x0802))),
   by exact ⟨rfl, rfl, rfl, rfl, rfl⟩⟩

theorem witness_FramesOfWhatRuns :
    ∃ (c : Instr) (s t : State), exec c s = .next t ∧ changesColl c = false ∧ changesEngs c = false ∧
     changesOrd c = false ∧ changesTrk c = false :=
  ⟨.heatHalving, st up, st (heatHalving up), by exact ⟨rfl, rfl, rfl, rfl, rfl⟩⟩

end Sys2Proof.Tests
end

section
/-!
Commands as they come in: what the replies to a command change, and that they stand in their master's cache; the statement
of the scope about unassigned opcodes (R9).
-/
namespace Sys2Proof.Machine
open Sys2Proof.Claims

/-! ### Replies to commands (R429, R430, R433) -/

/-- What a packet of the module's own changes: the list of those that wait for cells, and the wake from Lull. -/
theorem Module.originate_eq (m : Module) (p : Pkt) (die out : Option Nat) :
    ∃ orig lull cause at_, m.originate p die out = { m with
      net := { m.net with orig := orig },
      pwr := { m.pwr with lull := lull, wakeCause := cause, wakeAt := at_ } } := by
  obtain ⟨-, h⟩ | ⟨-, h⟩ := m.originate_cases p die out false []
  · obtain ⟨-, hw⟩ | hw := Module.wake_cases { m with net := { m.net with orig := m.net.orig ++ [Orig.mk p die out false []] } } 1
    · exact ⟨_, _, _, _, h.trans hw⟩
    · exact ⟨_, m.pwr.lull, m.pwr.wakeCause, m.pwr.wakeAt, h.trans hw⟩
  · exact ⟨m.net.orig, m.pwr.lull, m.pwr.wakeCause, m.pwr.wakeAt, h⟩

/-- A reply to a host is a packet of the module's own. -/
theorem Module.sendReply_host (m : Module) {r : CmdReq} (hr : r.side = false) (x : Reply) :
    ∃ p die out, m.sendReply r x = m.originate p die out := by
  unfold Module.sendReply
  simp only [hr, Bool.false_eq_true, if_false]
  split
  · exact ⟨_, _, _, rfl⟩
  · exact ⟨_, _, _, rfl⟩

/-- A reply over the side-band joins the outputs. -/
theorem Module.sendReply_side (m : Module) {r : CmdReq} (hr : r.side = true) (x : Reply) :
    ∃ out, m.sendReply r x = { m with out := out } := by
  simp only [Module.sendReply, hr, if_true]
  exact ⟨_, rfl⟩

/-- What the replies sent to a host change. -/
theorem Module.sendReplies_host {r : CmdReq} (hr : r.side = false) (l : List Reply) (m : Module) :
    ∃ orig lull cause at_, l.foldl (fun m x => m.sendReply r x) m = { m with
      net := { m.net with orig := orig },
      pwr := { m.pwr with lull := lull, wakeCause := cause, wakeAt := at_ } } := by
  induction l generalizing m with
  | nil => exact ⟨m.net.orig, m.pwr.lull, m.pwr.wakeCause, m.pwr.wakeAt, rfl⟩
  | cons x l ih =>
    obtain ⟨p, die, out, hs⟩ := m.sendReply_host hr x
    obtain ⟨_, _, _, _, ho⟩ := m.originate_eq p die out
    obtain ⟨orig, lull, cause, at_, hl⟩ := ih (m.sendReply r x)
    refine ⟨orig, lull, cause, at_, hl.trans ?_⟩
    rw [hs, ho]

/-- What the replies sent over the side-band change. -/
theorem Module.sendReplies_side {r : CmdReq} (hr : r.side = true) (l : List Reply) (m : Module) :
    ∃ out, l.foldl (fun m x => m.sendReply r x) m = { m with out := out } := by
  induction l generalizing m with
  | nil => exact ⟨m.out, rfl⟩
  | cons x l ih =>
    obtain ⟨_, hs⟩ := m.sendReply_side hr x
    obtain ⟨out, hl⟩ := ih (m.sendReply r x)
    refine ⟨out, hl.trans ?_⟩
    rw [hs]

@[simp] theorem Vane.cache_setCache_same (v : Vane) (side : Bool) (l : List Cached) :
    (v.setCache side l).cache side = l := by
  cases side <;> rfl

/-- A command's replies put into the cache are found there: the newest entry is never the one that leaves (R433). -/
theorem Module.mem_cache_cachePut (m : Module) (r : CmdReq) (first : Option Reply) (final : List Reply) :
    ∃ c ∈ (m.cachePut r first final).vane.cache r.side, c.keyOf r = true ∧ c.body = r.body ∧ c.final = final := by
  simp only [Module.cachePut, Vane.cache_setCache_same]
  rw [List.drop_append_of_le_length (by simp)]
  exact ⟨_, List.mem_append_right _ (List.mem_singleton_self _), by simp [Cached.keyOf], rfl, rfl⟩

/-- A final reply other than BUSY answers the command, for its repeats too. -/
theorem Module.answered_replyFinal (m : Module) (r : CmdReq) {st : Nat} (hst : st ≠ St.busy) (data : Bytes := [])
    (handle : Nat := 0) : Answered (m.replyFinal r st data handle) r st data handle := by
  simp only [Module.replyFinal, beq_iff_eq, hst, if_false]
  exact Module.mem_cache_cachePut _ r none _

/-- What a final reply to a host changes: what waits for cells, the wake from Lull, and the host's cache. -/
theorem Module.replyFinal_host (m : Module) {r : CmdReq} (hr : r.side = false) (st : Nat) (data : Bytes := [])
    (handle : Nat := 0) : ∃ cache orig lull cause at_, m.replyFinal r st data handle = { m with
      vane := { m.vane with hostCache := cache },
      net := { m.net with orig := orig },
      pwr := { m.pwr with lull := lull, wakeCause := cause, wakeAt := at_ } } := by
  obtain ⟨orig, lull, cause, at_, hl⟩ := Module.sendReplies_host hr (replySegs r st handle [(0, data)]) m
  simp only [Module.replyFinal, hl, Module.cachePut, Vane.setCache, hr, Bool.false_eq_true, if_false]
  split
  · exact ⟨m.vane.hostCache, orig, lull, cause, at_, rfl⟩
  · exact ⟨_, orig, lull, cause, at_, rfl⟩

/-- What a final reply over the side-band changes: the outputs and the side-band's cache. -/
theorem Module.replyFinal_side (m : Module) {r : CmdReq} (hr : r.side = true) (st : Nat) (data : Bytes := [])
    (handle : Nat := 0) : ∃ cache out, m.replyFinal r st data handle = { m with
      vane := { m.vane with sideCache := cache }, out := out } := by
  obtain ⟨out, hl⟩ := Module.sendReplies_side hr (replySegs r st handle [(0, data)]) m
  simp only [Module.replyFinal, hl, Module.cachePut, Vane.setCache, hr, if_true]
  split
  · exact ⟨m.vane.sideCache, out, rfl⟩
  · exact ⟨_, out, rfl⟩

/-! ### Arrival of commands (R428, R431 to R433) -/

/-- Whether a command is a repeat depends on its master's cache alone. -/
theorem Module.fromCache_eq_none_iff (m : Module) (r : CmdReq) :
    m.fromCache r = none ↔ (m.vane.cache r.side).find? (fun c => c.keyOf r && c.body == r.body) = none := by
  unfold Module.fromCache
  split
  · next h => simp [h]
  · next h => simp [h]

/-- Taking a packet makes no command a repeat. -/
theorem Module.fromCache_taken_eq_none {m : Module} {r : CmdReq} (p : Pkt) (h : m.fromCache r = none) :
    (m.taken p).fromCache r = none :=
  (Module.fromCache_eq_none_iff _ r).mpr ((Module.fromCache_eq_none_iff m r).mp h)

/-- An unassigned opcode from an admitted source, and no repeat, is answered at once (R9). -/
theorem Module.arrive_unassigned {m : Module} {r : CmdReq} (hup : m.vaneUp = true)
    (hsrc : (if r.side then m.sideAllowed r.addr else m.isHost r.chip) = true) (hrec : m.sec.recovery = false)
    (hc : m.fromCache r = none) (ho : opcodes.contains r.opcode = false) :
    m.arrive r = m.replyFinal r St.badOpcode := by
  simp only [Module.arrive, hup, hsrc, Module.admitCmd, hrec, hc, ho, Bool.not_true, Bool.not_false, Bool.false_and,
    Bool.false_eq_true, if_false, if_true]

/-- A good CMD packet is handed to the controller as its command (R427). -/
theorem cmdArrival_eq_arrive {m : Module} {p : Pkt} (hup : m.vaneUp = true) (hmain : m.pwr.main = true)
    (ht : p.h.type = 0x20) (hg : p.good = true) (hp : p.h.part = 0) :
    cmdArrival p m = (m.taken p).arrive (cmdOf p) := by
  have hup' : (m.taken p).vaneUp = true := hup
  simp [cmdArrival, hmain, ht, hg, hp, hup']

/-- The command that the packet of a datagram carries. -/
def datagramCmd (addr : Bytes) (udp : Nat) (q : Pkt) : CmdReq :=
  { side := true, opcode := bits q.h.tw 15 0, ver := bits q.h.tw 19 16, tag := q.h.tag, addr := addr, udp := udp,
    body := q.pl }

/-- A datagram that is its own only fragment, of an allowed address, is checked at once (R428). -/
theorem sidebandDatagram_eq_datagram {m : Module} {f : SbFrag} (hup : m.vaneUp = true)
    (ha : m.sideAllowed f.addr = true) (hmax : f.total ≤ 2088) (hoff : f.off = 0) (hlen : f.data.length = f.total) :
    sidebandDatagram f m = m.datagram f.addr f.udp f.data := by
  simp [sidebandDatagram, hup, ha, hmax, hoff, hlen]

/-- A legal CMD packet in a datagram is handed to the controller as its command (R428). -/
theorem Module.datagram_eq_arrive {m : Module} {addr l : Bytes} {udp : Nat} {q : Pkt} (hq : pktOf l = q)
    (hmin : 40 ≤ l.length) (hlen : l.length = 40 + q.h.len) (hi : q.h.intact = true) (hg : q.good = true)
    (hill : q.h.illegal true = false) (ht : q.h.type = 0x20) (hsrc : q.h.src = 131071)
    (hdest : q.h.dest = 131071 ∨ q.h.dest = m.chip) :
    m.datagram addr udp l = m.arrive (datagramCmd addr udp q) := by
  have hshort : ¬ l.length < 40 := by omega
  have hd : (q.h.dest != 131071 && q.h.dest != m.chip) = false := by
    simpa [imp_iff_not_or] using hdest
  simp only [Module.datagram, hq, hshort, decide_false, ← hlen, hi, hg, hill, ht, hsrc, hd, bne_self_eq_false,
    Bool.not_true, Bool.or_self, Bool.false_eq_true, if_false, datagramCmd]

end Sys2Proof.Machine

namespace Sys2Proof.Proofs
open Sys2Proof.Machine Sys2Proof.Claims

/-- Settles O32: each of the two ways of arrival ends in the final reply BAD_OPCODE, whose effects are known. -/
theorem unassignedOpcodes : Obligations.UnassignedOpcodes := by
  unfold Obligations.UnassignedOpcodes
  intro s p f hup hrec _ c q r
  refine ⟨fun hmain ht hg hp hsrc hc ho => ?_, fun ha hmax hoff hlen hmin htot hi hg hill ht hsrc hdest hc ho => ?_⟩
  · have he : cmdArrival p s.m = (s.m.taken p).replyFinal c St.badOpcode := calc
      cmdArrival p s.m = (s.m.taken p).arrive c := cmdArrival_eq_arrive hup hmain ht hg hp
      _ = (s.m.taken p).replyFinal c St.badOpcode :=
        Module.arrive_unassigned hup hsrc hrec (Module.fromCache_taken_eq_none p hc) ho
    refine ⟨s.withM (cmdArrival p), rfl, rfl, ?_⟩
    rw [State.withM_m, he]
    refine ⟨Module.answered_replyFinal _ c (by decide), ?_⟩
    obtain ⟨_, _, _, _, _, hm⟩ := (s.m.taken p).replyFinal_host (r := c) rfl St.badOpcode
    rw [hm]
    rfl
  · have he : sidebandDatagram f s.m = s.m.replyFinal r St.badOpcode := calc
      sidebandDatagram f s.m = s.m.datagram f.addr f.udp f.data :=
        sidebandDatagram_eq_datagram hup ha hmax hoff hlen
      _ = s.m.arrive r :=
        Module.datagram_eq_arrive rfl (hlen ▸ hmin) (hlen ▸ htot) hi hg hill ht hsrc hdest
      _ = s.m.replyFinal r St.badOpcode := Module.arrive_unassigned hup ha hrec hc ho
    refine ⟨s.withM (sidebandDatagram f), rfl, rfl, ?_⟩
    rw [State.withM_m, he]
    refine ⟨Module.answered_replyFinal _ r (by decide), ?_⟩
    obtain ⟨_, _, hm⟩ := s.m.replyFinal_side (r := r) rfl St.badOpcode
    rw [hm]

end Sys2Proof.Proofs
end

section
/-!
The pace loop and the time and power settings: what a report leaves of the power state, what one update of the pace loop
makes of the rails, and the statements of the family of clockless timing (R34 to R45, R425, R504).
-/
namespace Sys2Proof.Machine
open Sys2Proof.Claims

/-! ### Bits cleared in a number (R3) -/

theorem bitAt_eq_testBit (v n : Nat) : bitAt v n = v.testBit n := by
  rw [Nat.testBit_eq_decide_div_mod_eq, bitAt, beq_eq_decide]

/-- The number without one of its bits, as quotient and remainder at that bit. -/
theorem setBit_false_eq (v k : Nat) : setBit v k false = 2 ^ k * (v / 2 ^ k - v / 2 ^ k % 2) + v % 2 ^ k := by
  have hv : v = 2 ^ k * (v / 2 ^ k) + v % 2 ^ k := (Nat.div_add_mod v (2 ^ k)).symm
  have hle : 2 ^ k * (v / 2 ^ k % 2) ≤ 2 ^ k * (v / 2 ^ k) := Nat.mul_le_mul_left _ (Nat.mod_le _ _)
  simp only [setBit, setBits, bits, b2n, Nat.add_sub_cancel_left, pow_one, Bool.false_eq_true, if_false, Nat.zero_mod,
    Nat.mul_sub, Nat.mul_comm _ (2 ^ k)]
  omega

theorem setBit_false_le (v k : Nat) : setBit v k false ≤ v := by
  calc setBit v k false = 2 ^ k * (v / 2 ^ k - v / 2 ^ k % 2) + v % 2 ^ k := setBit_false_eq v k
    _ ≤ 2 ^ k * (v / 2 ^ k) + v % 2 ^ k := by gcongr; exact Nat.sub_le _ _
    _ = v := Nat.div_add_mod v (2 ^ k)

/-- A bit cleared: it reads 0, and every other bit what it read. -/
theorem bitAt_setBit_false (v k j : Nat) : bitAt (setBit v k false) j = (bitAt v j && j != k) := by
  have hr : v % 2 ^ k < 2 ^ k := Nat.mod_lt _ (by positivity)
  have hv : v.testBit j = (2 ^ k * (v / 2 ^ k) + v % 2 ^ k).testBit j := by rw [Nat.div_add_mod]
  simp only [bitAt_eq_testBit, setBit_false_eq, hv, Nat.testBit_two_pow_mul_add _ hr]
  by_cases hj : j < k
  · simp [hj, hj.ne]
  · obtain ⟨i, rfl⟩ := Nat.exists_eq_add_of_le (Nat.le_of_not_lt hj)
    simp only [hj, if_false, Nat.add_sub_cancel_left]
    generalize v / 2 ^ k = q
    cases i with
    | zero =>
      have hd : (q - q % 2) % 2 = 0 := by omega
      simp [Nat.testBit_zero, hd]
    | succ i =>
      have hd : (q - q % 2) / 2 = q / 2 := by omega
      simp [Nat.testBit_succ, hd]

/-- Bits of a list cleared: each reads 0, and every other bit what it read. -/
theorem bitAt_clearBits (l : List Nat) (v j : Nat) :
    bitAt (l.foldl (fun a k => setBit a k false) v) j = (bitAt v j && !l.contains j) := by
  induction l generalizing v with
  | nil => simp
  | cons k l ih => rw [List.foldl_cons, ih, bitAt_setBit_false, List.contains_cons, Bool.not_or, Bool.and_assoc]; rfl

theorem clearBits_le (l : List Nat) (v : Nat) : l.foldl (fun a k => setBit a k false) v ≤ v := by
  induction l generalizing v with
  | nil => exact le_rfl
  | cons k l ih => exact (ih _).trans (setBit_false_le v k)

theorem mem_onesOf {v n k : Nat} : k ∈ onesOf v n ↔ k < n ∧ bitAt v k = true := by
  simp [onesOf]

/-- A stored field is a word of 64 bits where its reset value is. -/
theorem Module.reg_lt {m : Module} {blk off lo : Nat} (h : regReset blk off lo < 2 ^ 64) : m.reg blk off lo < 2 ^ 64 := by
  unfold Module.reg
  split
  · exact BitVec.isLt _
  · exact h

/-! ### What a report leaves of the power state (R446, R505, R508) -/

/-- Two power states that agree but for the wake that the Lull controller has recorded. -/
def Pwr.Woken (x y : Pwr) : Prop :=
  ∃ lull cause at_, y = { x with lull := lull, wakeCause := cause, wakeAt := at_ }

@[refl, simp] theorem Pwr.Woken.refl (x : Pwr) : x.Woken x := ⟨x.lull, x.wakeCause, x.wakeAt, rfl⟩

theorem Pwr.Woken.trans {x y z : Pwr} (h : x.Woken y) (h' : y.Woken z) : x.Woken z := by
  obtain ⟨_, _, _, rfl⟩ := h
  obtain ⟨l, c, t, rfl⟩ := h'
  exact ⟨l, c, t, rfl⟩

theorem Module.woken_foldl {α : Type} {f : Module → α → Module} (hf : ∀ m a, Pwr.Woken m.pwr (f m a).pwr) (l : List α)
    (m : Module) : m.pwr.Woken (l.foldl f m).pwr :=
  List.foldlRecOn l f (motive := fun n => m.pwr.Woken n.pwr) (Pwr.Woken.refl _) fun n h a _ => h.trans (hf n a)

theorem Module.woken_wake (m : Module) (cause : Nat) : m.pwr.Woken (m.wake cause).pwr := by
  obtain ⟨-, h⟩ | h := m.wake_cases cause <;> rw [h]
  exact ⟨_, _, _, rfl⟩

@[simp] theorem Module.eventTo_pwr (m : Module) (slot code : Nat) (pl : Bytes) : (m.eventTo slot code pl).pwr = m.pwr := by
  unfold Module.eventTo
  dsimp only
  split <;> simp

theorem Module.woken_event (m : Module) (code : Nat) (pl : Bytes) : m.pwr.Woken (m.event code pl).pwr := by
  refine Module.woken_foldl (fun n slot => ?_) _ m
  dsimp only
  split
  · have h := (n.eventTo slot code pl).woken_wake 1
    rw [Module.eventTo_pwr] at h
    split
    · rw [Module.eventTo_pwr]
    · exact h
  · rfl

@[simp] theorem Module.writeHistory_pwr (m : Module) (r : Rec) (close : Nat) : (m.writeHistory r close).pwr = m.pwr := by
  unfold Module.writeHistory
  split <;> rfl

@[simp] theorem Module.enterFatal_pwr (m : Module) (r : Rec) : (m.enterFatal r).1.pwr = m.pwr := rfl

theorem Module.woken_faultEvent {x : Pwr} {m : Module} (h : m.pwr = x) (reason src : Nat) (r : Rec) (active : Nat) :
    x.Woken (m.faultEvent reason src r active).pwr :=
  h ▸ m.woken_event _ _

theorem Module.woken_raise (m : Module) (src blk detail : Nat) (inj : Bool) :
    m.pwr.Woken (m.raise src blk detail inj).pwr := by
  unfold Module.raise
  split
  · rfl
  · dsimp only
    split
    · apply Module.woken_faultEvent
      split <;> simp
    · split
      · apply Module.woken_faultEvent
        split <;> split <;> simp
      · split <;> split <;> simp

@[simp] theorem Module.pins_pwr (m : Module) : m.pins.pwr = m.pwr := rfl

theorem Module.woken_level (m : Module) (src blk detail : Nat) (on : Bool) :
    m.pwr.Woken (m.level src blk detail on).pwr := by
  unfold Module.level
  dsimp only
  split
  · split
    · exact Module.woken_raise _ src blk detail false
    · rfl
  · split <;> rfl

@[simp] theorem Module.setDie_pwr (m : Module) (d : Nat) (x : Die) : (m.setDie d x).pwr = m.pwr := rfl

theorem Module.woken_followBacked (m : Module) (d : Nat) : m.pwr.Woken (m.followBacked d).pwr := by
  have hhold (n : Module) : (n.followHold d).pwr = n.pwr := by
    unfold Module.followHold
    dsimp only
    split
    · rfl
    · split <;> simp
  unfold Module.followBacked
  rw [hhold]
  split
  · rfl
  · exact m.setDie_pwr d _ ▸ Module.woken_level _ 13 (swBlk d 4) 0 _

@[simp] theorem Module.creditFlush_pwr (m : Module) (p : Nat) : (m.creditFlush p).pwr = m.pwr := by
  unfold Module.creditFlush
  dsimp only
  split <;> rfl

theorem Module.woken_checkBacked (m : Module) (d : Nat) : m.pwr.Woken (m.checkBacked d).pwr :=
  ((m.woken_followBacked d).trans (Module.woken_foldl (fun n p => by simp) _ _)).trans (Module.woken_followBacked _ d)

theorem Module.woken_checkHolds (m : Module) : m.pwr.Woken m.checkHolds.pwr :=
  Module.woken_foldl Module.woken_checkBacked _ m

/-! ### One update of the pace loop (R34, R40 to R44) -/

/-- The status of the loop changes its own bits of the power state, and sends one event at most. -/
theorem Module.paceStatus_pwr (m : Module) (bits_ : Nat) :
    Pwr.Woken { m.pwr with paceBits := bits_ } (m.paceStatus bits_).pwr := by
  unfold Module.paceStatus
  dsimp only
  split
  · split
    · exact Module.woken_event (Module.setReg _ _ _ _ _) _ _
    · exact Module.woken_event _ _ _
  · split <;> rfl

/-- A rail's target lies within the limits of R34. -/
theorem paceWant_mem (pinEn : Bool) (pin : Nat) (floorEn : Bool) (floor mv : Nat) (r : RailIn) :
    620 ≤ paceWant pinEn pin floorEn floor mv r ∧ paceWant pinEn pin floorEn floor mv r ≤ 860 := by
  simp only [paceWant]
  omega

/-- One update keeps a rail within the limits of R34, and its throttle level within 0 to 7. -/
theorem paceRail_mem {want mv thr : Nat} (hw : 620 ≤ want ∧ want ≤ 860) (hm : 620 ≤ mv ∧ mv ≤ 860) (ht : thr ≤ 7)
    (thermal above at_ : Bool) :
    (620 ≤ (paceRail want mv thr thermal above at_).1 ∧ (paceRail want mv thr thermal above at_).1 ≤ 860) ∧
      (paceRail want mv thr thermal above at_).2 ≤ 7 := by
  unfold paceRail
  split
  · split <;> dsimp only <;> omega
  · dsimp only
    split <;> split <;> omega

/-- What an update can make of a rail and its throttle level: in Lull the least voltage (R44), and else one step of
`paceRail` towards a target within the limits. -/
def PaceStep (m : Module) (k : Nat) (x : Nat × Nat) : Prop :=
  (2 ≤ m.pwr.lull ∧ x = (620, 0)) ∨
  (m.pwr.lull < 2 ∧ ∃ want thermal above at_, (620 ≤ want ∧ want ≤ 860) ∧
    x = paceRail want (m.pwr.railMv.getD k 620) (m.pwr.throttle.getD k 0) thermal above at_)

/-- The samples of CAP_WINDOW_MS with a new one (R45). -/
def Module.paceWindow (m : Module) (i : PaceIn) : List Nat :=
  (i.watts :: m.pwr.samples).take (100 * m.reg (mgtBlk 6) 0x008 0)

/-- An update computes the power state that follows, and then reports it: holds, status bits, and two level sources. -/
theorem paceUpdate_eq {m : Module} (h : m.pwr.main = true) (i : PaceIn) :
    ∃ (p : Pwr) (st : Nat) (hot full : Bool) (res : List (Nat × Nat)),
      paceUpdate i m = (((({ m with pwr := p }).checkHolds.paceStatus st).level 36 (mgtBlk 6) 0 hot).level
        43 (mgtBlk 6) 0 full).pins ∧
      p.railMv = res.map Prod.fst ∧ p.throttle = res.map Prod.snd ∧ p.samples = m.paceWindow i ∧
      p.powerW = (m.paceWindow i).sum / max 1 (m.paceWindow i).length % 8192 ∧
      res.length = 9 ∧ ∀ k (hk : k < res.length), PaceStep m k res[k] := by
  unfold paceUpdate
  rw [if_neg (by simp [h])]
  refine ⟨_, _, _, _, _, rfl, rfl, rfl, rfl, ?_, by simp, fun k hk => ?_⟩
  · rw [List.sum_eq_foldl]
    rfl
  · have hk9 : k < 9 := by simpa using hk
    rw [List.getElem_map, List.getElem_range]
    by_cases hl : 2 ≤ m.pwr.lull
    · exact .inl ⟨hl, if_pos hl⟩
    · refine .inr ⟨Nat.lt_of_not_le hl, _, _, _, _, ?_, if_neg hl⟩
      rw [List.getD_eq_getElem _ _ (by simpa using hk9), List.getElem_map]
      exact paceWant_mem ..

/-- The reports that end an update leave the rails, the throttle levels and the average power. -/
theorem paceUpdate_woken {m : Module} (h : m.pwr.main = true) (i : PaceIn) :
    ∃ (p : Pwr) (st : Nat) (res : List (Nat × Nat)), Pwr.Woken { p with paceBits := st } (paceUpdate i m).pwr ∧
      p.railMv = res.map Prod.fst ∧ p.throttle = res.map Prod.snd ∧ p.samples = m.paceWindow i ∧
      p.powerW = (m.paceWindow i).sum / max 1 (m.paceWindow i).length % 8192 ∧
      res.length = 9 ∧ ∀ k (hk : k < res.length), PaceStep m k res[k] := by
  obtain ⟨p, st, hot, full, res, he, hres⟩ := paceUpdate_eq h i
  refine ⟨p, st, res, ?_, hres⟩
  have hholds : Pwr.Woken { p with paceBits := st }
      { ({ m with pwr := p } : Module).checkHolds.pwr with paceBits := st } := by
    obtain ⟨_, _, _, hp⟩ := Module.woken_checkHolds { m with pwr := p }
    rw [hp]
    exact ⟨_, _, _, rfl⟩
  have hstatus := hholds.trans (Module.paceStatus_pwr _ st)
  rw [he, Module.pins_pwr]
  exact (hstatus.trans (Module.woken_level _ _ _ _ _)).trans (Module.woken_level _ _ _ _ _)

/-- A value of a list by default lies where the default and every member lie. -/
theorem getD_of_forall_mem {α : Type} {P : α → Prop} {l : List α} (h : ∀ a ∈ l, P a) {d : α} (hd : P d) (k : Nat) :
    P (l.getD k d) := by
  by_cases hk : k < l.length
  · rw [List.getD_eq_getElem _ _ hk]
    exact h _ (List.getElem_mem hk)
  · rwa [List.getD_eq_default _ _ (Nat.le_of_not_lt hk)]

/-- A step keeps rail and throttle level within their limits. -/
theorem PaceStep.mem {m : Module} {k : Nat} {x : Nat × Nat} (h : PaceStep m k x)
    (hr : ∀ r ∈ m.pwr.railMv, 620 ≤ r ∧ r ≤ 860) (ht : ∀ t ∈ m.pwr.throttle, t ≤ 7) :
    (620 ≤ x.1 ∧ x.1 ≤ 860) ∧ x.2 ≤ 7 := by
  obtain ⟨-, rfl⟩ | ⟨-, want, thermal, above, at_, hw, rfl⟩ := h
  · decide
  · exact paceRail_mem hw (getD_of_forall_mem hr (by decide) k)
      (getD_of_forall_mem (P := (· ≤ 7)) ht (by decide) k) _ _ _

/-- In Lull a step holds the rail at 0.62 V (R44). -/
theorem PaceStep.lull {m : Module} {k : Nat} {x : Nat × Nat} (h : PaceStep m k x) (hl : 2 ≤ m.pwr.lull) : x.1 = 620 := by
  obtain ⟨-, rfl⟩ | ⟨hn, -⟩ := h
  · rfl
  · omega

/-- A write of 1 clears that sticky bit and no other (R42). -/
theorem stickyClear_bitAt {m : Module} (h : m.pwr.standby = true) (v : Nat) {k : Nat} (hk : k < 5) :
    bitAt ((stickyClear v m).reg (mgtBlk 6) 0x020 8) k = (bitAt (m.reg (mgtBlk 6) 0x020 8) k && !bitAt v k) := by
  have hlt : m.reg (mgtBlk 6) 0x020 8 < 2 ^ 64 := Module.reg_lt (by decide)
  have hmem : (onesOf v 5).contains k = bitAt v k := by
    rw [Bool.eq_iff_iff, List.contains_iff_mem, mem_onesOf]; simp [hk]
  simp only [stickyClear, h, Bool.not_true, Bool.false_eq_true, if_false]
  rw [Module.reg_setReg_same _ _ _ _ _ ((clearBits_le _ _).trans_lt hlt), bitAt_clearBits, hmem]

/-- Any write of a 1 clears LIMIT_UPDATES (R45). -/
theorem limitUpdatesClear_reg {m : Module} (h : m.pwr.standby = true) {v : Nat} (hv : v ≠ 0) :
    (limitUpdatesClear v m).reg (mgtBlk 6) 0x080 0 = 0 := by
  simp [limitUpdatesClear, h, hv]

end Sys2Proof.Machine

namespace Sys2Proof.Proofs
open Sys2Proof.Machine Sys2Proof.Claims

/-- Settles O13: an update is one step of `paceRail` for each rail, and the reports after it leave what it computed; the
two clearing writes act on their own field. -/
theorem paceLoopStaysWithinLimits : Obligations.PaceLoopStaysWithinLimits := by
  unfold Obligations.PaceLoopStaysWithinLimits
  intro s i v
  refine ⟨fun hmain hr ht => ⟨s.withM (paceUpdate i), rfl, rfl, ?_⟩, fun hs => ⟨s.withM (stickyClear v), rfl, rfl, ?_⟩,
    fun hs hv => ⟨s.withM (limitUpdatesClear v), rfl, rfl, ?_⟩⟩
  · obtain ⟨p, st, res, ⟨_, _, _, hp⟩, hrail, hthr, hsam, hpow, hlen, hstep⟩ := paceUpdate_woken hmain i
    have hmem {P : Nat × Nat → Prop} (h : ∀ k x, PaceStep s.m k x → P x) : ∀ x ∈ res, P x := fun x hx => by
      obtain ⟨k, hk, rfl⟩ := List.mem_iff_getElem.mp hx
      exact h k _ (hstep k hk)
    simp only [State.withM_m, hp, hrail, hthr, hsam, hpow, List.length_map, List.forall_mem_map]
    exact ⟨hlen, hmem fun k x h => (h.mem hr ht).1, hlen, hmem fun k x h => (h.mem hr ht).2, ⟨rfl, rfl⟩,
      fun hl => hmem fun k x h => h.lull hl⟩
  · exact fun k hk => stickyClear_bitAt hs v hk
  · exact limitUpdatesClear_reg hs hv

end Sys2Proof.Proofs
end

section
/-!
A module whose entry to Lull raises a fault, and is turned into a wake by the event of that fault (R132, R446, R467, R505).
-/
namespace Sys2Proof.Machine
open Sys2Proof.Claims

/-- LULL_ENTER, MODE 0, over the side-band: no IDLE_MS and no wake count. -/
def lullEnterCmd : CmdReq :=
  { side := true, opcode := 0x0903, tag := 1, addr := [169, 254, 0, 1], body := zeros 16 }

/-- A state with a READY module whose die 0 has no free cell although its port 0 has 64 cells of credit out, and whose UNBACKED bit of
that die does not show it yet (R132); a fabric host subscribes to the events of faults (R446), and LULL_ENTER waits. -/
def unbackedUnseen : State :=
  { m := {
      pwr := { booted := true, main := true, st := 2 }
      dies := ⟨[(0, { mode := 2 })]⟩
      ports := ⟨[(0, { link := { st := 6 }, wire := { adv := [64] } })]⟩
      vane := { sideQ := [lullEnterCmd], subs := ⟨[(0, { used := true, mask := 2 ^ 0xA, chip := 3 })]⟩ } } }

/-- LULL_ENTER with MODE 0 always answers, and its answer is what `lullEnter` makes of the module. -/
theorem completes_lullEnter_iff {r : CmdReq} {s : State} {P : Module → Prop} :
    Completes (.lullEnter r) s P ↔ P (lullEnter r s.m) := by
  constructor
  · rintro ⟨t, ht, -, hP⟩
    obtain rfl : s.withM (lullEnter r) = t := Host.Outcome.next.inj ht
    exact hP
  · exact fun hP => ⟨_, rfl, rfl, hP⟩

/-- LULL_ENTER executes there (R434, R442). -/
theorem runs_lullEnterCmd : Runs unbackedUnseen.m lullEnterCmd 0x0903 lullLay := by
  dsimp only [Runs, Waits]
  decide +kernel

/-- The entry begins, its check of the holds finds the die unbacked, and the event of that fault wakes the module again. -/
theorem lull_lullEnter_unbackedUnseen : (lullEnter lullEnterCmd unbackedUnseen.m).pwr.lull = 3 := by
  decide +kernel

end Sys2Proof.Machine

namespace Sys2Proof.Proofs
open Sys2Proof.Machine Sys2Proof.Claims

/-- Refutes O55 at its clause for LULL_ENTER with MODE 0, which says of every state, reached or not, that the Lull
controller stands at entry (1) after the command: where the UNBACKED bit of a die lags behind its exposure, the check of the
holds at the entry raises the die's fault, and its event for a fabric host turns the entry into a wake (3) at once, as R505
and R506 have it. -/
theorem not_timeAndPowerSettings : ¬ Obligations.TimeAndPowerSettings := by
  unfold Obligations.TimeAndPowerSettings
  intro h
  obtain ⟨-, -, -, -, -, -, hEnter, -⟩ := h unbackedUnseen lullEnterCmd
  obtain ⟨-, hl⟩ := completes_lullEnter_iff.mp
    (hEnter runs_lullEnterCmd (by decide) (by decide) (by decide) (by decide) (by decide))
  exact absurd (hl.symm.trans lull_lullEnter_unbackedUnseen) (by decide)

end Sys2Proof.Proofs
end

section
/-!
What the module reports and books beside an effect on a port: the frame of events, faults and level sources (R446, R453,
R455), and that of credits and their withholding (R65, R131, R132).
-/
namespace Sys2Proof.Machine
open Sys2Proof.Claims

/-- A command whose row changes the module by a function completes with what the function makes of it. -/
theorem completes_withM {c : Instr} {s : State} {P : Module → Prop} (f : Module → Module)
    (h : exec c s = .next (s.withM f)) (hP : P (f s.m)) : Completes c s P :=
  ⟨_, h, rfl, hP⟩

/-! ### Bytes of numbers (R84) -/

@[simp] theorem beBytes_length (n v : Nat) : (beBytes n v).length = n := by
  induction n with
  | zero => rfl
  | succ n ih => simp [beBytes, ih]

/-! ### The keep file outside the fault history (R510, R512) -/

/-- Two keep files that agree on KEEP_VALID, and on every byte below the words of the boot bank and the history. -/
def Keep.Held (k k' : Keep) : Prop :=
  k'.valid = k.valid ∧ ∀ o, (o < 0x3F0 ∨ 0x400 ≤ o ∧ o < 0xC00) → k'.raw o = k.raw o

theorem Keep.Held.refl (k : Keep) : k.Held k := ⟨rfl, fun _ _ => rfl⟩

theorem Keep.Held.trans {a b c : Keep} (h : a.Held b) (h' : b.Held c) : a.Held c :=
  ⟨h'.1.trans h.1, fun o ho => (h'.2 o ho).trans (h.2 o ho)⟩

/-- A byte stored outside the bytes of a list written from an offset stays. -/
theorem Keep.raw_setBytes_other (k : Keep) (o : Nat) (l : Bytes) {x : Nat} (h : x < o ∨ o + l.length ≤ x) :
    (k.setBytes o l).raw x = k.raw x := by
  unfold Keep.setBytes
  induction l generalizing k o with
  | nil => rfl
  | cons b l ih =>
    simp only [List.length_cons] at h
    rw [List.foldl_cons, ih (k.setRaw o b) (o + 1) (by omega), Keep.raw_setRaw_other k (by omega)]

theorem Keep.setBytes_valid (k : Keep) (o : Nat) (l : Bytes) : (k.setBytes o l).valid = k.valid := by
  unfold Keep.setBytes
  induction l generalizing k o with
  | nil => rfl
  | cons b l ih => rw [List.foldl_cons, ih (k.setRaw o b) (o + 1), Keep.setRaw_valid]

/-- Bytes stored in the words of the boot bank and the history pointer, or in the history's ring. -/
theorem Keep.held_setBytes (k : Keep) {o : Nat} {l : Bytes} (h : (0x3F0 ≤ o ∧ o + l.length ≤ 0x400) ∨ 0xC00 ≤ o) :
    k.Held (k.setBytes o l) :=
  ⟨k.setBytes_valid o l, fun x hx => k.raw_setBytes_other o l (by omega)⟩

/-- A word outside those bytes reads the same. -/
theorem Keep.Held.word {k k' : Keep} (h : k.Held k') {o : Nat} (ho : 8 ≤ o ∧ o + 4 ≤ 0x3F0 ∨ 0x400 ≤ o ∧ o + 4 ≤ 0xC00) :
    k'.word o = k.word o := by
  have hb (i : Nat) (hi : i < 4) : k'.byte (o + i) = k.byte (o + i) := by
    unfold Keep.byte
    have h4 : ¬ o + i < 4 := by omega
    have h8 : ¬ o + i < 8 := by omega
    simp only [h.1, h.2 (o + i) (by omega), h4, h8, if_false]
  unfold Keep.word Keep.read
  rw [List.map_congr_left fun i hi => hb i (List.mem_range.mp hi)]

theorem Keep.Held.field {k k' : Keep} (h : k.Held k') {o : Nat} (hi lo : Nat)
    (ho : 8 ≤ o ∧ o + 4 ≤ 0x3F0 ∨ 0x400 ≤ o ∧ o + 4 ≤ 0xC00) : k'.field o hi lo = k.field o hi lo := by
  unfold Keep.field
  rw [h.word ho]

/-! ### Registers outside the reporting blocks -/

/-- Blocks whose agent number is that of the pool managers, of the fault collector or of the Vane controller: the ones that
count what is reported. -/
def Reporting (blk : Nat) : Prop := blk % 256 = 3 ∨ blk % 256 = 4 ∨ blk % 256 = 255

/-- Two modules that agree on the stored fields of every other block. -/
def Module.SameRegs (a b : Module) : Prop :=
  ∀ blk off lo, ¬ Reporting blk → off < 2 ^ 26 → lo < 64 → b.reg blk off lo = a.reg blk off lo

theorem Module.SameRegs.of_regs_eq {a b : Module} (h : b.regs = a.regs) : a.SameRegs b := fun blk off lo _ _ _ => by
  simp only [Module.reg, h]

theorem Module.SameRegs.trans {a b c : Module} (h : a.SameRegs b) (h' : b.SameRegs c) : a.SameRegs c :=
  fun blk off lo hb ho hl => (h' blk off lo hb ho hl).trans (h blk off lo hb ho hl)

/-- Counting in a block leaves the fields of every other block. -/
theorem Module.reg_count_other (m : Module) {blk off n : Nat} (ho : off < 2 ^ 26) {blk' off' lo' : Nat} (hb : blk' ≠ blk)
    (ho' : off' < 2 ^ 26) (hl' : lo' < 64) : (m.count blk off n).reg blk' off' lo' = m.reg blk' off' lo' := by
  obtain ⟨v, h⟩ | h := m.count_cases blk off n <;> rw [h]
  exact m.reg_setReg_other _ _ _ _ fun e => hb (regKey_inj ho' hl' ho (by decide) e).1

theorem Module.sameRegs_count (m : Module) {blk off : Nat} (n : Nat) (hb : Reporting blk) (ho : off < 2 ^ 26) :
    m.SameRegs (m.count blk off n) :=
  fun _ _ _ hblk ho' hl' => m.reg_count_other ho (fun e => hblk (e ▸ hb)) ho' hl'

/-! ### Reports (R446, R453 to R458) -/

/-- What reports leave: ports, dies, the packets, the time block and the outputs; the power state but for a recorded wake,
which never ends Lull; the keep file but for the history; and the registers outside the reporting blocks. -/
structure Module.Reported (a b : Module) : Prop where
  ports : b.ports = a.ports
  dies : b.dies = a.dies
  net : b.net = a.net
  time : b.time = a.time
  out : b.out = a.out
  pwr : a.pwr.Woken b.pwr
  lull : b.pwr.lull = 0 ↔ a.pwr.lull = 0
  keep : a.keep.Held b.keep
  regs : a.SameRegs b

theorem Module.Reported.refl (a : Module) : a.Reported a :=
  ⟨rfl, rfl, rfl, rfl, rfl, .refl _, .rfl, .refl _, .of_regs_eq rfl⟩

theorem Module.Reported.trans {a b c : Module} (h : a.Reported b) (h' : b.Reported c) : a.Reported c :=
  ⟨h'.ports.trans h.ports, h'.dies.trans h.dies, h'.net.trans h.net, h'.time.trans h.time, h'.out.trans h.out,
    h.pwr.trans h'.pwr, h'.lull.trans h.lull, h.keep.trans h'.keep, h.regs.trans h'.regs⟩

theorem Module.Reported.mk_eq {a b c : Module} (h : a.Reported b) (hports : c.ports = b.ports) (hdies : c.dies = b.dies)
    (hnet : c.net = b.net) (htime : c.time = b.time) (hout : c.out = b.out) (hpwr : c.pwr = b.pwr) (hkeep : c.keep = b.keep)
    (hregs : c.regs = b.regs) : a.Reported c :=
  h.trans ⟨hports, hdies, hnet, htime, hout, hpwr ▸ .refl _, hpwr ▸ .rfl, hkeep ▸ .refl _, .of_regs_eq hregs⟩

theorem Module.Reported.ite {a b c : Module} {p : Prop} [Decidable p] (hb : p → a.Reported b) (hc : ¬ p → a.Reported c) :
    a.Reported (if p then b else c) := by
  split
  · exact hb ‹_›
  · exact hc ‹_›

theorem Module.Reported.foldl {α : Type} {f : Module → α → Module} {a b : Module}
    (hf : ∀ m x, Module.Reported m (f m x)) (l : List α) (h : a.Reported b) : a.Reported (l.foldl f b) :=
  List.foldlRecOn l f (motive := fun n => a.Reported n) h fun n h x _ => h.trans (hf n x)

theorem Module.Reported.flt {a b : Module} (h : a.Reported b) (f : Flt) : a.Reported { b with flt := f } :=
  h.mk_eq rfl rfl rfl rfl rfl rfl rfl rfl

theorem Module.Reported.vane {a b : Module} (h : a.Reported b) (v : Vane) : a.Reported { b with vane := v } :=
  h.mk_eq rfl rfl rfl rfl rfl rfl rfl rfl

theorem Module.Reported.count {a b : Module} (h : a.Reported b) {blk off : Nat} (n : Nat) (hb : Reporting blk)
    (ho : off < 2 ^ 26) : a.Reported (b.count blk off n) :=
  h.trans ⟨by simp, by simp, by simp, by simp, by simp, by simp, by simp, by simp [Keep.Held.refl],
    b.sameRegs_count n hb ho⟩

theorem Module.Reported.wake {a b : Module} (h : a.Reported b) (cause : Nat) : a.Reported (b.wake cause) := by
  refine h.trans ?_
  obtain ⟨hl, e⟩ | e := b.wake_cases cause <;> rw [e]
  · exact ⟨rfl, rfl, rfl, rfl, rfl, ⟨_, _, _, rfl⟩, by dsimp only; omega, .refl _, .of_regs_eq rfl⟩
  · exact .refl b

theorem Module.Reported.eventTo {a b : Module} (h : a.Reported b) (slot code : Nat) (pl : Bytes) :
    a.Reported (b.eventTo slot code pl) := by
  unfold Module.eventTo
  exact .ite (fun _ => h.vane _) fun _ => (h.vane _).count 1 (.inr (.inr rfl)) (by decide)

theorem Module.Reported.event {a b : Module} (h : a.Reported b) (code : Nat) (pl : Bytes) :
    a.Reported (b.event code pl) := by
  refine h.foldl (fun n slot => ?_) _
  have hn := (Module.Reported.refl n).eventTo slot code pl
  exact .ite (fun _ => .ite (fun _ => hn) fun _ => hn.wake 1) fun _ => .refl n

theorem Module.Reported.keepBytes {a b : Module} (h : a.Reported b) {o : Nat} {l : Bytes}
    (ho : (0x3F0 ≤ o ∧ o + l.length ≤ 0x400) ∨ 0xC00 ≤ o) : a.Reported { b with keep := b.keep.setBytes o l } :=
  h.trans ⟨rfl, rfl, rfl, rfl, rfl, .refl _, .rfl, b.keep.held_setBytes ho, .of_regs_eq rfl⟩

theorem Module.Reported.writeHistory {a b : Module} (h : a.Reported b) (r : Rec) (close : Nat) :
    a.Reported (b.writeHistory r close) := by
  unfold Module.writeHistory
  split
  · exact h.keepBytes (.inr (by omega))
  · exact h

theorem Module.Reported.enterFatal {a b : Module} (h : a.Reported b) (r : Rec) : a.Reported (b.enterFatal r).1 :=
  h.keepBytes (.inl ⟨by decide, by simp⟩)

/-- A record of a fault, which reaches Fatal under a condition. -/
theorem Module.Reported.fatalIf {a b : Module} (h : a.Reported b) (p : Bool) (r : Rec) :
    a.Reported (if p then b.enterFatal r else (b, r)).1 := by
  cases p
  · exact h
  · exact h.enterFatal r

theorem Module.Reported.raise {a b : Module} (h : a.Reported b) {src : Nat} (hs : src < 64) (blk detail : Nat) (inj : Bool) :
    a.Reported (b.raise src blk detail inj) := by
  have hc := h.count (blk := mgtBlk 3) (off := 0x200 + 8 * src) 1 (.inl rfl) (by omega)
  unfold Module.raise
  refine .ite (fun _ => h) fun _ => ?_
  dsimp only
  split
  · exact (((((hc.flt _).count 1 (.inl rfl) (by decide)).fatalIf _ _).flt _).writeHistory _ _).event _ _
  · refine .ite (fun _ => .event ?_ _ _) fun _ => ?_ <;>
    · refine .ite (fun _ => .writeHistory ?_ _ _) fun _ => ?_ <;>
      exact .flt (.fatalIf (.ite (fun _ => hc.count 1 (.inl rfl) (by decide)) fun _ => hc) _ _) _

theorem Module.Reported.pins {a b : Module} (h : a.Reported b) : a.Reported b.pins :=
  h.mk_eq rfl rfl rfl rfl rfl rfl rfl rfl

theorem Module.Reported.level {a b : Module} (h : a.Reported b) {src : Nat} (hs : src < 64) (blk detail : Nat) (on : Bool) :
    a.Reported (b.level src blk detail on) := by
  unfold Module.level
  exact .ite (fun _ => .ite (fun _ => ((h.flt _).raise hs _ _ _).pins) fun _ => h) fun _ =>
    .ite (fun _ => (h.flt _).pins) fun _ => h

/-! ### Credits (R65, R132) -/

/-- What the books of credit leave: of a port everything but the returns of its wire, of a die everything but its UNBACKED
and WITHHOLDING, and else what reports leave. -/
structure Module.Credited (a b : Module) : Prop where
  port : ∀ q, ∃ ret held, b.port q = { a.port q with wire := { (a.port q).wire with ret := ret, held := held } }
  die : ∀ d, ∃ u w, b.die d = { a.die d with unbacked := u, withholding := w }
  net : b.net = a.net
  time : b.time = a.time
  out : b.out = a.out
  pwr : a.pwr.Woken b.pwr
  lull : b.pwr.lull = 0 ↔ a.pwr.lull = 0
  keep : a.keep.Held b.keep
  regs : a.SameRegs b

theorem Module.Reported.credited {a b : Module} (h : a.Reported b) : a.Credited b where
  port q := ⟨(a.port q).wire.ret, (a.port q).wire.held, by simp only [Module.port, h.ports]⟩
  die d := ⟨(a.die d).unbacked, (a.die d).withholding, by simp only [Module.die, h.dies]⟩
  net := h.net
  time := h.time
  out := h.out
  pwr := h.pwr
  lull := h.lull
  keep := h.keep
  regs := h.regs

theorem Module.Credited.refl (a : Module) : a.Credited a := (Module.Reported.refl a).credited

theorem Module.Credited.trans {a b c : Module} (h : a.Credited b) (h' : b.Credited c) : a.Credited c where
  port q := by
    obtain ⟨_, _, e⟩ := h.port q
    obtain ⟨r, l, e'⟩ := h'.port q
    exact ⟨r, l, by rw [e', e]⟩
  die d := by
    obtain ⟨_, _, e⟩ := h.die d
    obtain ⟨u, w, e'⟩ := h'.die d
    exact ⟨u, w, by rw [e', e]⟩
  net := h'.net.trans h.net
  time := h'.time.trans h.time
  out := h'.out.trans h.out
  pwr := h.pwr.trans h'.pwr
  lull := h'.lull.trans h.lull
  keep := h.keep.trans h'.keep
  regs := h.regs.trans h'.regs

theorem Module.Credited.foldl {α : Type} {f : Module → α → Module} {a b : Module}
    (hf : ∀ m x, Module.Credited m (f m x)) (l : List α) (h : a.Credited b) : a.Credited (l.foldl f b) :=
  List.foldlRecOn l f (motive := fun n => a.Credited n) h fun n h x _ => h.trans (hf n x)

/-- The returns of one port's wire change. -/
theorem Module.credited_setReturns (m : Module) (p : Nat) (ret held : List Nat) :
    m.Credited (m.setWire p { m.wire p with ret := ret, held := held }) where
  port q := by
    by_cases hq : q = p
    · subst hq
      exact ⟨ret, held, by simp [Module.setWire, Module.wire]⟩
    · exact ⟨(m.port q).wire.ret, (m.port q).wire.held, Module.port_setPort_other m hq _⟩
  die d := ⟨(m.die d).unbacked, (m.die d).withholding, rfl⟩
  net := rfl
  time := rfl
  out := rfl
  pwr := .refl _
  lull := .rfl
  keep := .refl _
  regs := .of_regs_eq rfl

/-- The bits of one die change. -/
theorem Module.credited_setBits (m : Module) (d : Nat) (u w : Bool) :
    m.Credited (m.setDie d { m.die d with unbacked := u, withholding := w }) where
  port q := ⟨(m.port q).wire.ret, (m.port q).wire.held, rfl⟩
  die e := by
    by_cases he : e = d
    · subst he
      exact ⟨u, w, by simp⟩
    · exact ⟨(m.die e).unbacked, (m.die e).withholding, Module.die_setDie_other m he _⟩
  net := rfl
  time := rfl
  out := rfl
  pwr := .refl _
  lull := .rfl
  keep := .refl _
  regs := .of_regs_eq rfl

theorem Module.credited_creditFlush (m : Module) (p : Nat) : m.Credited (m.creditFlush p) := by
  unfold Module.creditFlush
  dsimp only
  split
  · exact .refl m
  · exact m.credited_setReturns p _ _

/-- The block of a die's pool manager counts what is withheld. -/
theorem reporting_pool (d : Nat) : Reporting (swBlk d 4) := .inr (.inl (by unfold swBlk; omega))

theorem Module.credited_followHold (m : Module) (d : Nat) : m.Credited (m.followHold d) := by
  unfold Module.followHold
  dsimp only
  split
  · exact .refl m
  · have h := m.credited_setBits d (m.die d).unbacked (m.withholdsAny d)
    split
    · exact h.trans ((Module.Reported.refl _).count 1 (reporting_pool d) (by decide)).credited
    · exact h

theorem Module.credited_followBacked (m : Module) (d : Nat) : m.Credited (m.followBacked d) := by
  unfold Module.followBacked
  refine .trans ?_ (Module.credited_followHold _ d)
  split
  · exact .refl m
  · exact (m.credited_setBits d _ (m.die d).withholding).trans
      ((Module.Reported.refl _).level (by decide) _ _ _).credited

theorem Module.credited_checkBacked (m : Module) (d : Nat) : m.Credited (m.checkBacked d) :=
  ((m.credited_followBacked d).foldl (fun n p => n.credited_creditFlush p) _).trans (Module.credited_followBacked _ d)

/-! What follows of it for a link and its wire. -/

section
variable {a b : Module} (h : a.Credited b)
include h

theorem Module.Credited.link (q : Nat) : b.link q = a.link q := by
  obtain ⟨_, _, e⟩ := h.port q
  simp only [Module.link, e]

theorem Module.Credited.wire (q : Nat) : ∃ ret held, b.wire q = { a.wire q with ret := ret, held := held } := by
  obtain ⟨r, l, e⟩ := h.port q
  exact ⟨r, l, by simp only [Module.wire, e]⟩

theorem Module.Credited.now : b.now = a.now := by simp only [Module.now, h.time]

theorem Module.Credited.ticks : b.ticks = a.ticks := by simp only [Module.ticks, h.time]

theorem Module.Credited.otherLinks (p : Nat) : OtherLinks p a b := fun q _ => by
  obtain ⟨_, _, e⟩ := h.wire q
  exact ⟨h.link q, by rw [e]⟩

end

/-! The check of a die's books, field by field. -/

@[simp] theorem Module.link_checkBacked (m : Module) (d q : Nat) : (m.checkBacked d).link q = m.link q :=
  (m.credited_checkBacked d).link q
@[simp] theorem Module.now_checkBacked (m : Module) (d : Nat) : (m.checkBacked d).now = m.now :=
  (m.credited_checkBacked d).now
@[simp] theorem Module.ticks_checkBacked (m : Module) (d : Nat) : (m.checkBacked d).ticks = m.ticks :=
  (m.credited_checkBacked d).ticks
@[simp] theorem Module.checkBacked_time (m : Module) (d : Nat) : (m.checkBacked d).time = m.time :=
  (m.credited_checkBacked d).time
@[simp] theorem Module.checkBacked_net (m : Module) (d : Nat) : (m.checkBacked d).net = m.net :=
  (m.credited_checkBacked d).net
@[simp] theorem Module.checkBacked_out (m : Module) (d : Nat) : (m.checkBacked d).out = m.out :=
  (m.credited_checkBacked d).out
@[simp] theorem Module.txq_checkBacked (m : Module) (d q : Nat) : ((m.checkBacked d).wire q).txq = (m.wire q).txq := by
  obtain ⟨_, _, e⟩ := (m.credited_checkBacked d).wire q
  rw [e]
@[simp] theorem Module.llq_checkBacked (m : Module) (d q : Nat) : ((m.checkBacked d).wire q).llq = (m.wire q).llq := by
  obtain ⟨_, _, e⟩ := (m.credited_checkBacked d).wire q
  rw [e]
@[simp] theorem Module.txFrame_checkBacked (m : Module) (d q : Nat) : ((m.checkBacked d).wire q).txFrame = (m.wire q).txFrame := by
  obtain ⟨_, _, e⟩ := (m.credited_checkBacked d).wire q
  rw [e]
@[simp] theorem Module.txSeq_checkBacked (m : Module) (d q : Nat) : ((m.checkBacked d).wire q).txSeq = (m.wire q).txSeq := by
  obtain ⟨_, _, e⟩ := (m.credited_checkBacked d).wire q
  rw [e]
@[simp] theorem Module.rxSeq_checkBacked (m : Module) (d q : Nat) : ((m.checkBacked d).wire q).rxSeq = (m.wire q).rxSeq := by
  obtain ⟨_, _, e⟩ := (m.credited_checkBacked d).wire q
  rw [e]
@[simp] theorem Module.replay_checkBacked (m : Module) (d q : Nat) : ((m.checkBacked d).wire q).replay = (m.wire q).replay := by
  obtain ⟨_, _, e⟩ := (m.credited_checkBacked d).wire q
  rw [e]
@[simp] theorem Module.cfg_checkBacked (m : Module) (d q : Nat) : ((m.checkBacked d).wire q).cfg = (m.wire q).cfg := by
  obtain ⟨_, _, e⟩ := (m.credited_checkBacked d).wire q
  rw [e]
@[simp] theorem Module.used_checkBacked (m : Module) (d q : Nat) : ((m.checkBacked d).wire q).used = (m.wire q).used := by
  obtain ⟨_, _, e⟩ := (m.credited_checkBacked d).wire q
  rw [e]
@[simp] theorem Module.rxq_checkBacked (m : Module) (d q : Nat) : ((m.checkBacked d).wire q).rxq = (m.wire q).rxq := by
  obtain ⟨_, _, e⟩ := (m.credited_checkBacked d).wire q
  rw [e]
@[simp] theorem Module.rxSkip_checkBacked (m : Module) (d q : Nat) : ((m.checkBacked d).wire q).rxSkip = (m.wire q).rxSkip := by
  obtain ⟨_, _, e⟩ := (m.credited_checkBacked d).wire q
  rw [e]
@[simp] theorem Module.charged_checkBacked (m : Module) (d q : Nat) : ((m.checkBacked d).wire q).charged = (m.wire q).charged := by
  obtain ⟨_, _, e⟩ := (m.credited_checkBacked d).wire q
  rw [e]
@[simp] theorem Module.paused_checkBacked (m : Module) (d q : Nat) : ((m.checkBacked d).wire q).paused = (m.wire q).paused := by
  obtain ⟨_, _, e⟩ := (m.credited_checkBacked d).wire q
  rw [e]
@[simp] theorem Module.arriving_checkBacked (m : Module) (d q : Nat) : ((m.checkBacked d).wire q).arriving = (m.wire q).arriving := by
  obtain ⟨_, _, e⟩ := (m.credited_checkBacked d).wire q
  rw [e]
@[simp] theorem Module.sending_checkBacked (m : Module) (d q : Nat) : ((m.checkBacked d).wire q).sending = (m.wire q).sending := by
  obtain ⟨_, _, e⟩ := (m.credited_checkBacked d).wire q
  rw [e]

end Sys2Proof.Machine
end

section
/-!
The training of a link from DOWN to HELLO (R51, R55, R66 to R68, R494, R534).
-/
namespace Sys2Proof.Claims
open Sys2Proof.Machine

/-! ### One port changed -/

theorem otherPorts_refl (p : Nat) (a : Module) : OtherPorts p a a := fun _ _ => rfl

theorem OtherPorts.trans {p : Nat} {a b c : Module} (h : OtherPorts p a b) (h' : OtherPorts p b c) : OtherPorts p a c :=
  fun q hq => (h' q hq).trans (h q hq)

theorem OtherPorts.of_ports_eq {p : Nat} {a b : Module} (h : b.ports = a.ports) : OtherPorts p a b := fun _ _ => by
  simp only [Module.port, h]

theorem otherPorts_pass (m : Module) (p t : Nat) : OtherPorts p m (m.pass t) := .of_ports_eq rfl

theorem otherPorts_setPort (m : Module) (p : Nat) (x : Port) : OtherPorts p m (m.setPort p x) :=
  fun _ hq => Module.port_setPort_other m hq x

theorem otherPorts_setLink (m : Module) (p : Nat) (x : Link) : OtherPorts p m (m.setLink p x) :=
  otherPorts_setPort m p _

theorem otherPorts_setWire (m : Module) (p : Nat) (x : Wire) : OtherPorts p m (m.setWire p x) :=
  otherPorts_setPort m p _

theorem OtherPorts.setLink {p : Nat} {a b : Module} (h : OtherPorts p a b) (x : Link) : OtherPorts p a (b.setLink p x) :=
  h.trans (otherPorts_setLink b p x)

theorem OtherPorts.setWire {p : Nat} {a b : Module} (h : OtherPorts p a b) (x : Wire) : OtherPorts p a (b.setWire p x) :=
  h.trans (otherPorts_setWire b p x)

theorem OtherPorts.otherLinks {p : Nat} {a b : Module} (h : OtherPorts p a b) : OtherLinks p a b := fun q hq => by
  simp only [Module.link, Module.wire, h q hq, and_self]

theorem OtherLinks.trans {p : Nat} {a b c : Module} (h : OtherLinks p a b) (h' : OtherLinks p b c) : OtherLinks p a c :=
  fun q hq => ⟨(h' q hq).1.trans (h q hq).1, (h' q hq).2.trans (h q hq).2⟩

end Sys2Proof.Claims

namespace Sys2Proof.Machine
open Sys2Proof.Claims

/-! ### One port changed -/

theorem Module.onPort_of_linkIn {m : Module} {p st : Nat} (h : LinkIn m p st) (f : Module → Module) :
    m.onPort p f = f m := by
  obtain ⟨hp, hmain, hheld, -⟩ := h
  simp [Module.onPort, Module.linksOn, hp, hmain, hheld]

@[simp] theorem Module.setLink_time (m : Module) (p : Nat) (x : Link) : (m.setLink p x).time = m.time := rfl
@[simp] theorem Module.setWire_time (m : Module) (p : Nat) (x : Wire) : (m.setWire p x).time = m.time := rfl
@[simp] theorem Module.setLink_regs (m : Module) (p : Nat) (x : Link) : (m.setLink p x).regs = m.regs := rfl
@[simp] theorem Module.setWire_regs (m : Module) (p : Nat) (x : Wire) : (m.setWire p x).regs = m.regs := rfl

@[simp] theorem Module.now_setLink (m : Module) (p : Nat) (x : Link) : (m.setLink p x).now = m.now := rfl
@[simp] theorem Module.now_setWire (m : Module) (p : Nat) (x : Wire) : (m.setWire p x).now = m.now := rfl
@[simp] theorem Module.ticks_setLink (m : Module) (p : Nat) (x : Link) : (m.setLink p x).ticks = m.ticks := rfl
@[simp] theorem Module.ticks_setWire (m : Module) (p : Nat) (x : Wire) : (m.setWire p x).ticks = m.ticks := rfl
@[simp] theorem Module.now_enterLink (m : Module) (p st : Nat) : (m.enterLink p st).now = m.now := rfl
@[simp] theorem Module.ticks_enterLink (m : Module) (p st : Nat) : (m.enterLink p st).ticks = m.ticks := rfl

@[simp] theorem Module.link_enterLink_same (m : Module) (p st : Nat) :
    (m.enterLink p st).link p = { m.link p with st := st, since := m.ticks } := by
  simp [Module.enterLink]
@[simp] theorem Module.wire_enterLink (m : Module) (p q st : Nat) : (m.enterLink p st).wire q = m.wire q := by
  simp [Module.enterLink]
theorem otherPorts_enterLink (m : Module) (p st : Nat) : OtherPorts p m (m.enterLink p st) := otherPorts_setLink m p _

/-- The step to READY changes the power state, and what a first boot of a version stores (R483, R494). -/
theorem Module.checkReady_frame (m : Module) : m.checkReady.ports = m.ports ∧ m.checkReady.time = m.time := by
  unfold Module.checkReady Module.raiseMinimum
  dsimp only
  split
  · split
    · exact ⟨rfl, rfl⟩
    · split <;> exact ⟨rfl, rfl⟩
  · exact ⟨rfl, rfl⟩

@[simp] theorem Module.link_checkReady (m : Module) (q : Nat) : m.checkReady.link q = m.link q := by
  simp only [Module.link, Module.port, m.checkReady_frame.1]
@[simp] theorem Module.wire_checkReady (m : Module) (q : Nat) : m.checkReady.wire q = m.wire q := by
  simp only [Module.wire, Module.port, m.checkReady_frame.1]
@[simp] theorem Module.now_checkReady (m : Module) : m.checkReady.now = m.now := by
  simp only [Module.now, m.checkReady_frame.2]

/-! ### From DOWN to EQUALISE (R66, R67, R534) -/

/-- The module as a port enters SIGNAL at an instant and keeps what it will advertise. -/
def Module.signalled (m : Module) (p t : Nat) : Module :=
  let n := (m.pass t).enterLink p 1
  n.setWire p { n.wire p with cfg := n.creditRegs p }

theorem Module.signalled_frame (m : Module) (p t : Nat) :
    ((m.signalled p t).link p).st = 1 ∧ ((m.signalled p t).wire p).cfg = m.creditRegs p ∧ Waited m (m.signalled p t) t ∧
      OtherPorts p m (m.signalled p t) := by
  refine ⟨by simp [Module.signalled], ?_, ?_, ?_⟩
  · simp [Module.signalled, Module.creditRegs, Module.reg, Module.enterLink]
  · simp [Waited, Module.signalled]
  · exact ((otherPorts_pass m p t).trans (otherPorts_enterLink _ p 1)).setWire _

theorem downTimerExpiry_eq {m : Module} {p : Nat} (h : LinkIn m p 0) (he : m.enabled p = true)
    (hi : (m.link p).isolated = false) (ht : m.pwr.trained = true) :
    downTimerExpiry p m =
      ((m.signalled p (max (m.link p).since m.pwr.upAt + ms 1)).checkBacked (p / 32)).checkReady := by
  rw [downTimerExpiry, Module.onPort_of_linkIn h]
  simp [h.2.2.2, he, hi, ht, Module.signalled]

theorem downTimerExpiry_untrained {m : Module} {p : Nat} (h : LinkIn m p 0) (ht : m.pwr.trained = false) :
    downTimerExpiry p m = m := by
  rw [downTimerExpiry, Module.onPort_of_linkIn h]
  simp [ht]

/-- An enabled port leaves DOWN for SIGNAL. -/
theorem downTimerExpiry_signal {m : Module} {p : Nat} (h : LinkIn m p 0) (he : m.enabled p = true)
    (hi : (m.link p).isolated = false) (ht : m.pwr.trained = true) :
    let n := downTimerExpiry p m
    (n.link p).st = 1 ∧ (n.wire p).cfg = m.creditRegs p ∧ Waited m n (max (m.link p).since m.pwr.upAt + ms 1) ∧
      OtherLinks p m n := by
  dsimp only
  rw [downTimerExpiry_eq h he hi ht]
  generalize max (m.link p).since m.pwr.upAt + ms 1 = t
  obtain ⟨hst, hcfg, hnow, hother⟩ := m.signalled_frame p t
  refine ⟨by simpa using hst, by simpa using hcfg, by simpa [Waited] using hnow, fun q hq => ?_⟩
  simpa using hother.otherLinks.trans (((m.signalled p t).credited_checkBacked (p / 32)).otherLinks p) q hq

theorem tuningDone_eq {m : Module} {p : Nat} (h : LinkIn m p 1) :
    tuningDone p m = (m.setLink p { m.link p with tuned := true }).emit
      (.line p ((List.range 4).map fun j => (j, prbs13q (Config.prbsSeed (4 * p + j))))) := by
  rw [tuningDone, Module.onPort_of_linkIn h]
  simp [h.2.2.2]

theorem lightReceived_eq {m : Module} {p : Nat} (h : LinkIn m p 1) (ht : (m.link p).tuned = true) :
    lightReceived p m = m.enterLink p 2 := by
  rw [lightReceived, Module.onPort_of_linkIn h]
  simp [h.2.2.2, ht]

/-! ### From EQUALISE to HELLO (R55, R67, R68) -/

/-- The module as a port enters ALIGN with its locked lanes. -/
def Module.aligned (m : Module) (p good : Nat) : Module := (m.setLink p { m.link p with rxGood := good }).enterLink p 3

theorem Module.aligned_frame (m : Module) (p good : Nat) :
    ((m.aligned p good).link p).st = 3 ∧ ((m.aligned p good).link p).rxGood = good ∧ (m.aligned p good).now = m.now ∧
      OtherPorts p m (m.aligned p good) :=
  ⟨by simp [Module.aligned], by simp [Module.aligned], by simp [Module.aligned],
    (otherPorts_setLink m p _).trans (otherPorts_enterLink _ p 3)⟩

theorem lanesLocked_eq {m : Module} {p : Nat} (h : LinkIn m p 2) : lanesLocked p m = m.aligned p 15 := by
  rw [lanesLocked, Module.onPort_of_linkIn h]
  simp [h.2.2.2, Module.aligned]

theorem equaliseTimeout_eq {m : Module} {p lanes : Nat} (h : LinkIn m p 2) (hl : lanes % 16 ≠ 0) :
    equaliseTimeout p lanes m = (m.pass ((m.link p).since + ms 50)).aligned p (lanes % 16) := by
  rw [equaliseTimeout, Module.onPort_of_linkIn h]
  simp [h.2.2.2, hl, Module.aligned]

/-- The places of the first frame marker on the four lanes. -/
def markerPlaces (levels : List (List Nat)) : List (Option Nat) := (levels.take 4).map fun x => markerAt x 0

/-- The lanes on which a frame marker is found, as a mask. -/
def markedLanes (l : List (Option Nat)) : Nat :=
  ((List.range 4).filter fun j => (l.getD j none).isSome).foldl (fun a j => a + 2 ^ j) 0

/-- How much later than the earliest each lane arrives. -/
def markerSkew (l : List (Option Nat)) (least : Nat) : List Nat :=
  (List.range 4).map fun j => (l.getD j none).getD least - least

theorem frameMarkersFound_eq {m : Module} {p frame k : Nat} {levels : List (List Nat)}
    (hk : ((markerPlaces levels).filterMap id).min? = some k) :
    frameMarkersFound p levels frame m = m.onPort p fun m =>
      if (m.link p).st != 3 ||
        frameNumAt (levels.getD (((markerPlaces levels).idxOf? (some k)).getD 0) []) k != frame then m
      else (m.setLink p { m.link p with
        rxGood := markedLanes (markerPlaces levels), skew := markerSkew (markerPlaces levels) k }).enterHello p frame := by
  cases hl : (markerPlaces levels).filterMap id with
  | nil => rw [hl] at hk; exact nomatch hk
  | cons a t =>
    rw [hl, List.min?_cons'] at hk
    obtain rfl := Option.some.inj hk
    unfold frameMarkersFound
    change (m.onPort p fun m => match (markerPlaces levels).filterMap id with
      | [] => m
      | k :: t => _) = _
    rw [hl]
    rfl

/-- The mask of marked lanes has a lane's bit where its marker is found. -/
theorem bitAt_markedLanes {j : Nat} (hj : j < 4) (l : List (Option Nat)) :
    bitAt (markedLanes l) j = (l.getD j none).isSome := by
  unfold markedLanes
  generalize hf : (fun j => (l.getD j none).isSome) = f
  have e : (l.getD j none).isSome = f j := congrFun hf j
  rw [e]
  cases h0 : f 0 <;> cases h1 : f 1 <;> cases h2 : f 2 <;> cases h3 : f 3 <;>
    (simp only [List.range, List.range.loop, List.filter, h0, h1, h2, h3]; interval_cases j <;> simp [*, bitAt])

theorem markerPlaces_getD {j : Nat} (hj : j < 4) (levels : List (List Nat)) :
    (markerPlaces levels).getD j none = markerAt (levels.getD j []) 0 := by
  simp only [markerPlaces, List.getD_eq_getElem?_getD, List.getElem?_map, List.getElem?_take, hj, if_true]
  cases levels[j]? <;> rfl

/-- Entry to HELLO of a width retrain: the numbered stream goes on (R68). -/
theorem Module.enterHello_retrain {m : Module} {p : Nat} (h : (m.link p).fromDown = false) (frame : Nat) :
    m.enterHello p frame = (m.enterLink p 4).setWire p { m.wire p with rxFrame := frame } := by
  simp [Module.enterHello, h]

/-- Entry to HELLO of a training from DOWN: what of the stream, the replay buffer and the credits starts anew (R68). -/
theorem Module.enterHello_fromDown {m : Module} {p : Nat} (h : (m.link p).fromDown = true) (frame : Nat) :
    let n := m.enterHello p frame
    (n.wire p).txSeq = 0 ∧ (n.wire p).rxSeq = 0 ∧ (n.wire p).replay = [] ∧
      (n.wire p).used = [0, 0, 0, 0, 0, 0, 0, 0] := by
  dsimp only
  unfold Module.enterHello
  dsimp only
  rw [if_pos (by simp [h])]
  simp

/-- Entry to HELLO leaves every other link, and of its own all but its state. -/
theorem Module.enterHello_links (m : Module) (p frame : Nat) :
    (m.enterHello p frame).link p = { m.link p with st := 4, since := m.ticks } ∧
      OtherLinks p m (m.enterHello p frame) := by
  have h := (otherPorts_enterLink m p 4).setWire { (m.enterLink p 4).wire p with rxFrame := frame }
  unfold Module.enterHello
  dsimp only
  split
  · exact ⟨by simp, (h.setWire _).otherLinks.trans ((Module.credited_checkBacked _ _).otherLinks p)⟩
  · exact ⟨by simp, h.otherLinks⟩

/-- The frame marker found on some lane takes ALIGN to HELLO, with the lanes that carry it good. -/
theorem frameMarkersFound_hello {m : Module} {p frame k : Nat} {levels : List (List Nat)} (h : LinkIn m p 3)
    (hk : ((markerPlaces levels).filterMap id).min? = some k)
    (hf : frameNumAt (levels.getD (((markerPlaces levels).idxOf? (some k)).getD 0) []) k = frame) :
    frameMarkersFound p levels frame m = (m.setLink p { m.link p with
      rxGood := markedLanes (markerPlaces levels), skew := markerSkew (markerPlaces levels) k }).enterHello p frame := by
  rw [frameMarkersFound_eq hk, Module.onPort_of_linkIn h, if_neg (by rw [h.2.2.2, hf]; simp)]

theorem frameMarkersFound_other {m : Module} {p frame k : Nat} {levels : List (List Nat)}
    (hk : ((markerPlaces levels).filterMap id).min? = some k)
    (hf : frameNumAt (levels.getD (((markerPlaces levels).idxOf? (some k)).getD 0) []) k ≠ frame) :
    frameMarkersFound p levels frame m = m := by
  rw [frameMarkersFound_eq hk]
  simp only [Module.onPort, bne_iff_ne.mpr hf, Bool.or_true, if_true, ite_self]

end Sys2Proof.Machine

namespace Sys2Proof.Proofs
open Sys2Proof.Machine Sys2Proof.Claims

/-- Settles O7: each row of the training is one change of its link, and the credits that it books leave every link. -/
theorem trainingAdvances : Obligations.TrainingAdvances := by
  unfold Obligations.TrainingAdvances
  intro s p lanes frame levels places carried
  refine ⟨fun h he hi ht => ?_, fun h ht => ?_, fun h => ?_, fun h ht => ?_, fun h => ?_, fun h hl => ?_, fun k hk hf => ?_,
    fun k h hk hf => ?_⟩
  · exact completes_withM (downTimerExpiry p) rfl (downTimerExpiry_signal h he hi ht)
  · exact completes_withM (downTimerExpiry p) rfl (downTimerExpiry_untrained h ht)
  · refine completes_withM (tuningDone p) rfl ⟨_, tuningDone_eq h, rfl, fun x hx => ?_⟩
    obtain ⟨j, -, rfl⟩ := List.mem_map.mp hx
    exact ⟨_, rfl⟩
  · refine completes_withM (lightReceived p) rfl ?_
    rw [lightReceived_eq h ht]
    exact ⟨by simp, by simp, otherPorts_enterLink _ _ _⟩
  · refine completes_withM (lanesLocked p) rfl ?_
    rw [lanesLocked_eq h]
    obtain ⟨hst, hgood, -, hother⟩ := s.m.aligned_frame p 15
    exact ⟨hst, hgood, hother⟩
  · refine completes_withM (equaliseTimeout p lanes) rfl ?_
    rw [equaliseTimeout_eq h hl]
    generalize (s.m.link p).since + ms 50 = t
    obtain ⟨hst, hgood, hnow, hother⟩ := (s.m.pass t).aligned_frame p (lanes % 16)
    exact ⟨hst, hgood, hnow.trans (s.m.now_pass t), (otherPorts_pass s.m p t).trans hother⟩
  · exact completes_withM (frameMarkersFound p levels frame) rfl (frameMarkersFound_other hk hf)
  · refine completes_withM (frameMarkersFound p levels frame) rfl ?_
    rw [frameMarkersFound_hello h hk hf]
    obtain ⟨hlink, hother⟩ := Module.enterHello_links (s.m.setLink p { s.m.link p with
      rxGood := markedLanes (markerPlaces levels), skew := markerSkew (markerPlaces levels) k }) p frame
    refine ⟨by rw [hlink], fun j hj => ?_, fun hd => ?_, fun hd => ?_, (otherPorts_setLink _ _ _).otherLinks.trans hother⟩
    · rw [hlink]
      rw [← markerPlaces_getD hj, ← bitAt_markedLanes hj, Module.link_setLink_same]
    · exact Module.enterHello_fromDown (by simpa using hd) frame
    · rw [Module.enterHello_retrain (by simpa using hd)]
      simp

end Sys2Proof.Proofs
end

section
/-!
The sent stream of a port: segments put into frames, the words of packets cut into numbered segments, and the replay of what
is not acknowledged (R52, R56, R58 to R62).
-/
namespace Sys2Proof.Machine
open Sys2Proof.Claims

/-! ### What the transmitter of a port changes -/

/-- The transmitter's own part of a wire: the words that wait, the frame in hand, the numbered stream and its replay buffer. -/
structure Wire.SameButSent (w w' : Wire) : Prop where
  eq : w' = { w with
    txq := w'.txq, starts := w'.starts, frame := w'.frame, segIdx := w'.segIdx, txFrame := w'.txFrame, segAt := w'.segAt,
    txFrames := w'.txFrames, replay := w'.replay, txSeq := w'.txSeq, ackAt := w'.ackAt }

/-- The transmitter of a port has sent: its part of the port's wire and the outputs have changed, and nothing else. -/
structure Module.Sent (p : Nat) (a b : Module) : Prop where
  rest : b = { a with ports := b.ports, out := b.out }
  others : OtherPorts p a b
  port : b.port p = { a.port p with wire := b.wire p }
  wire : (a.wire p).SameButSent (b.wire p)
  out : a.out <:+ b.out

theorem Wire.SameButSent.refl (w : Wire) : w.SameButSent w := ⟨rfl⟩

theorem Wire.SameButSent.trans {a b c : Wire} (h : a.SameButSent b) (h' : b.SameButSent c) : a.SameButSent c :=
  ⟨by
    have e := h'.eq
    rw [h.eq] at e
    exact e⟩

theorem Module.Sent.refl (p : Nat) (a : Module) : a.Sent p a := ⟨rfl, otherPorts_refl p a, rfl, .refl _, List.suffix_refl _⟩

theorem Module.Sent.trans {p : Nat} {a b c : Module} (h : a.Sent p b) (h' : b.Sent p c) : a.Sent p c where
  rest := by
    have e := h'.rest
    rw [h.rest] at e
    exact e
  others := h.others.trans h'.others
  port := by rw [h'.port, h.port]
  wire := h.wire.trans h'.wire
  out := h.out.trans h'.out

theorem Module.sent_foldl {p : Nat} {α : Type} {f : Module → α → Module} (hf : ∀ m x, Module.Sent p m (f m x)) (l : List α)
    (m : Module) : m.Sent p (l.foldl f m) :=
  List.foldlRecOn l f (motive := fun n => m.Sent p n) (.refl p m) fun n h x _ => h.trans (hf n x)

theorem Module.sent_setWire (m : Module) (p : Nat) {x : Wire} (h : (m.wire p).SameButSent x) : m.Sent p (m.setWire p x) where
  rest := rfl
  others := otherPorts_setWire m p x
  port := by simp [Module.setWire, Module.wire]
  wire := by rwa [Module.wire_setWire_same]
  out := List.suffix_refl _

theorem Module.sent_emit (m : Module) (p : Nat) (o : Out) : m.Sent p (m.emit o) :=
  ⟨rfl, .of_ports_eq rfl, rfl, .refl _, List.suffix_cons o m.out⟩

section
variable {p : Nat} {a b : Module} (h : a.Sent p b)
include h

theorem Module.Sent.regs : b.regs = a.regs := by rw [h.rest]
theorem Module.Sent.dies : b.dies = a.dies := by rw [h.rest]
theorem Module.Sent.net : b.net = a.net := by rw [h.rest]
theorem Module.Sent.pwr : b.pwr = a.pwr := by rw [h.rest]
theorem Module.Sent.keep : b.keep = a.keep := by rw [h.rest]
theorem Module.Sent.time : b.time = a.time := by rw [h.rest]
theorem Module.Sent.now : b.now = a.now := by rw [Module.now, h.time]; rfl
theorem Module.Sent.ticks : b.ticks = a.ticks := by rw [Module.ticks, h.time]; rfl

theorem Module.Sent.link (q : Nat) : b.link q = a.link q := by
  by_cases hq : q = p
  · rw [hq, Module.link, h.port]
    rfl
  · exact (h.others.otherLinks q hq).1

theorem Module.Sent.sending : (b.wire p).sending = (a.wire p).sending := by rw [h.wire.eq]
theorem Module.Sent.llq : (b.wire p).llq = (a.wire p).llq := by rw [h.wire.eq]

end

/-! ### Segments (R52, R56, R61) -/

/-- The bytes of a segment as a port would send it now: its head's place in the frame in hand, and a fresh tail. -/
def Module.segNow (m : Module) (p : Nat) (s : Option Seg) : Bytes :=
  let w := m.wire p
  segBytes (headUnit w.segIdx (s.map (·.seq)) ((s.map (·.first)).getD 0x3FF) w.txFrame) ((s.map (·.pay)).getD (zeros 8160)) w.ret
    ((w.rxSeq + 65535) % 65536) w.rxAny w.nackOut

/-- Sending a segment changes the frame in hand alone. -/
theorem Module.wire_sendSeg (m : Module) (p : Nat) (s : Option Seg) : ∃ fr i n t l, (m.sendSeg p s).wire p =
    { m.wire p with frame := fr, segIdx := i, txFrame := n, segAt := t, txFrames := l } := by
  unfold Module.sendSeg
  dsimp only
  split <;> exact ⟨_, _, _, _, _, (Module.wire_setWire_same _ _ _)⟩

@[simp] theorem Module.replay_sendSeg (m : Module) (p : Nat) (s : Option Seg) :
    ((m.sendSeg p s).wire p).replay = (m.wire p).replay := by
  obtain ⟨_, _, _, _, _, e⟩ := m.wire_sendSeg p s
  rw [e]

@[simp] theorem Module.txq_sendSeg (m : Module) (p : Nat) (s : Option Seg) :
    ((m.sendSeg p s).wire p).txq = (m.wire p).txq := by
  obtain ⟨_, _, _, _, _, e⟩ := m.wire_sendSeg p s
  rw [e]

theorem Module.sent_sendSeg (m : Module) (p : Nat) (s : Option Seg) : m.Sent p (m.sendSeg p s) := by
  have h (x : Wire) (hx : (m.wire p).SameButSent x) : m.Sent p ((m.emit (.segment p (m.segNow p s))).setWire p x) :=
    (m.sent_emit p _).trans (Module.sent_setWire _ p hx)
  unfold Module.sendSeg
  dsimp only
  split
  · exact (h _ ⟨rfl⟩).trans (Module.sent_emit _ p _)
  · exact h _ ⟨rfl⟩

/-- One segment more among those sent. -/
theorem Module.segsOut_sendSeg (m : Module) (p : Nat) (s : Option Seg) :
    segsOut p (m.sendSeg p s).out = m.segNow p s :: segsOut p m.out := by
  unfold Module.sendSeg
  dsimp only
  split <;> simp [segsOut, Module.setWire, Module.setPort, Module.segNow]

/-- The next 8,160 bytes sent in a numbered segment: the replay buffer keeps what leaves the waiting words. -/
theorem Module.sent_sendNumbered (m : Module) (p : Nat) : m.Sent p (m.sendNumbered p) ∧
    ∃ s : Seg, ((m.sendNumbered p).wire p).replay = (m.wire p).replay ++ [s] ∧
      s.pay ++ ((m.sendNumbered p).wire p).txq = (m.wire p).txq := by
  refine ⟨(m.sent_setWire p ⟨rfl⟩).trans (Module.sent_sendSeg _ p _),
    { seq := (m.wire p).txSeq, first := (m.wire p).firstStart, pay := (m.wire p).txq.take 8160 }, ?_⟩
  simp [Module.sendNumbered, Module.wire_setWire_same]

/-- The words that wait and the replay buffer, once full segments have left: nothing is lost between them (R58, R61). -/
def Module.Packed (p : Nat) (w : Bytes) (r : List Seg) (b : Module) : Prop :=
  ∃ l : List Seg, (b.wire p).replay = r ++ l ∧ l.flatMap (·.pay) ++ (b.wire p).txq = w

theorem Module.packSegs_sent (n : Nat) (m : Module) (p : Nat) :
    m.Sent p (m.packSegs p n) ∧ Module.Packed p (m.wire p).txq (m.wire p).replay (m.packSegs p n) := by
  induction n generalizing m with
  | zero => exact ⟨.refl p m, [], by simp [Module.packSegs], by simp [Module.packSegs]⟩
  | succ n ih =>
    unfold Module.packSegs
    split
    · exact ⟨.refl p m, [], by simp, by simp⟩
    · obtain ⟨hs, s, hr, hq⟩ := m.sent_sendNumbered p
      obtain ⟨ht, l, hl, hw⟩ := ih (m.sendNumbered p)
      refine ⟨hs.trans ht, s :: l, ?_, ?_⟩
      · rw [hl, hr, List.append_assoc, List.singleton_append]
      · rw [List.flatMap_cons, List.append_assoc, hw, hq]

/-- A packet sent: it is put out, and its words stand behind those that waited (R58, R59). -/
theorem Module.sendPkt_sent (m : Module) (p : Nat) (k : Pkt) : m.Sent p (m.sendPkt p k) ∧
    Module.Packed p ((m.wire p).txq ++ pktBytes k) (m.wire p).replay (m.sendPkt p k) ∧
    (if k.h.type == 0xF0 then .linkLocal p k else .packet p k) ∈ (m.sendPkt p k).out := by
  have hput : m.Sent p ((m.putWords p k).emit (if k.h.type == 0xF0 then .linkLocal p k else .packet p k)) :=
    (m.sent_setWire p ⟨rfl⟩).trans (Module.sent_emit _ p _)
  have hw : ((m.putWords p k).emit (if k.h.type == 0xF0 then .linkLocal p k else .packet p k)).wire p =
      { m.wire p with txq := (m.wire p).txq ++ pktBytes k, starts := (m.wire p).starts ++ [(m.wire p).txq.length] } :=
    Module.wire_setWire_same m p _
  obtain ⟨hs, l, hr, hq⟩ := Module.packSegs_sent _ _ p
  exact ⟨hput.trans hs, ⟨l, hr.trans (congrArg (·.replay ++ l) hw), hq.trans (congrArg (·.txq) hw)⟩,
    hs.out.subset (List.mem_cons_self ..)⟩

theorem Module.sent_resendSegs (m : Module) (p : Nat) : m.Sent p (m.resendSegs p) :=
  Module.sent_foldl (fun n s => n.sent_sendSeg p (some s)) _ m

end Sys2Proof.Machine
end

section
/-!
The rows of the numbered stream: LINK_LOCAL packets sent, replays, segments received, and the end of a pause (R32, R33, R56 to
R62, R67, R80, R81, R132).
-/
namespace Sys2Proof.Machine
open Sys2Proof.Claims

/-! ### Bytes and headers (R60, R84, R86) -/

theorem beNat_foldl (l : Bytes) (a : Nat) : l.foldl (fun a b => a * 256 + b.toNat) a = a * 256 ^ l.length + beNat l := by
  induction l generalizing a with
  | nil => simp [beNat]
  | cons b l ih =>
    have h : beNat (b :: l) = (0 * 256 + b.toNat) * 256 ^ l.length + beNat l := ih _
    rw [List.foldl_cons, ih, h, List.length_cons]
    ring

/-- The bytes of a number spell it, as far as they go. -/
theorem beNat_beBytes (n v : Nat) : beNat (beBytes n v) = v % 256 ^ n := by
  induction n with
  | zero => simp [beBytes, beNat, Nat.mod_one]
  | succ n ih =>
    rw [beBytes, beNat, List.foldl_cons, beNat_foldl, ih, beBytes_length, Nat.mod_pow_succ, BitVec.toNat_ofNat]
    ring

/-- A field reads the number whose bytes stand at its place. -/
theorem fieldBE_append (a t : Bytes) (n v : Nat) : fieldBE (a ++ (beBytes n v ++ t)) a.length n = v % 256 ^ n := by
  have h := beBytes_length n v
  simp [fieldBE, slice, h, beNat_beBytes]

theorem timePayload_fields (m : Module) (x y : Nat × Nat) :
    fieldBE (m.timePayload x y) 0 2 = x.1 % 65536 ∧ fieldBE (m.timePayload x y) 2 2 = y.1 % 65536 ∧
      fieldBE (m.timePayload x y) 8 8 = x.2 % 2 ^ 64 ∧ fieldBE (m.timePayload x y) 16 8 = y.2 % 2 ^ 64 := by
  have h0 := fieldBE_append [] (beBytes 2 y.1 ++ (beBytes 1 m.hopsSent ++ (beBytes 1 (b2n m.validSent) ++ (zeros 2 ++
    (beBytes 8 x.2 ++ (beBytes 8 y.2 ++ zeros 8)))))) 2 x.1
  have h2 := fieldBE_append (beBytes 2 x.1) (beBytes 1 m.hopsSent ++ (beBytes 1 (b2n m.validSent) ++ (zeros 2 ++
    (beBytes 8 x.2 ++ (beBytes 8 y.2 ++ zeros 8))))) 2 y.1
  have h8 := fieldBE_append (beBytes 2 x.1 ++ (beBytes 2 y.1 ++ (beBytes 1 m.hopsSent ++ (beBytes 1 (b2n m.validSent) ++ zeros 2))))
    (beBytes 8 y.2 ++ zeros 8) 8 x.2
  have h16 := fieldBE_append (beBytes 2 x.1 ++ (beBytes 2 y.1 ++ (beBytes 1 m.hopsSent ++ (beBytes 1 (b2n m.validSent) ++
    (zeros 2 ++ beBytes 8 x.2))))) (zeros 8) 8 y.2
  simp only [List.nil_append, List.append_assoc, List.length_append, List.length_nil, beBytes_length, zeros,
    List.length_replicate, Nat.reduceAdd, Nat.reducePow] at h0 h2 h8 h16
  simp only [Module.timePayload, List.append_assoc, zeros, h0, h2, h8, h16, Nat.reducePow, and_self]

/-- A LINK_LOCAL packet names its type and its subtype. -/
theorem Module.linkLocal_fields (m : Module) {sub : Nat} (hs : sub < 256) (pl : Bytes) :
    (m.linkLocal sub pl).h.type = 0xF0 ∧ (m.linkLocal sub pl).h.tw % 256 = sub ∧ (m.linkLocal sub pl).pl = pl := by
  have ht : wbits (BitVec.ofNat 32 (0xF0 * 2 ^ 24 + 131071)) 31 24 = 0xF0 := by decide
  refine ⟨ht, ?_, rfl⟩
  change (BitVec.ofNat 32 sub).toNat % 256 = sub
  rw [BitVec.toNat_ofNat]
  omega

/-! ### LINK_LOCAL packets sent (R58, R60, R67, R81, R121) -/

/-- Two wires with the same stream to send: the words that wait, the replay buffer, and what stands behind a packet begun. -/
structure Wire.SameStream (w w' : Wire) : Prop where
  txq : w'.txq = w.txq
  replay : w'.replay = w.replay
  llq : w'.llq = w.llq
  sending : w'.sending = w.sending

/-- A HELLO or TIME packet sent: with no packet begun it is put out and stands whole behind the words that wait, else it waits
behind the packet (R121). The link, the clock and every other link stay. -/
theorem Module.sendLocal_joins {a m : Module} {p sub : Nat} {k : Pkt} (hk : k.h.type = 0xF0 ∧ k.h.tw % 256 = sub)
    (hl : OtherLinks p a m) (hw : (a.wire p).SameStream (m.wire p)) :
    ((m.sendLocal p k).link p = m.link p ∧ (m.sendLocal p k).ticks = m.ticks) ∧
      k.h.type = 0xF0 ∧ k.h.tw % 256 = sub ∧ OtherLinks p a (m.sendLocal p k) ∧
      ((a.wire p).sending = none → (.linkLocal p k) ∈ (m.sendLocal p k).out ∧ ∃ l : List Seg,
        ((m.sendLocal p k).wire p).replay = (a.wire p).replay ++ l ∧
        l.flatMap (·.pay) ++ ((m.sendLocal p k).wire p).txq = (a.wire p).txq ++ pktBytes k) ∧
      ((a.wire p).sending ≠ none → ((m.sendLocal p k).wire p).llq = (a.wire p).llq ++ [k] ∧
        ((m.sendLocal p k).wire p).txq = (a.wire p).txq ∧ ((m.sendLocal p k).wire p).replay = (a.wire p).replay) := by
  unfold Module.sendLocal
  rw [← hw.sending, ← hw.llq, ← hw.txq, ← hw.replay]
  split
  next h =>
    refine ⟨⟨by simp, by simp⟩, hk.1, hk.2, hl.trans (otherPorts_setWire m p _).otherLinks, fun h' => ?_, fun _ => by simp⟩
    simp [h'] at h
  next h =>
    obtain ⟨hs, hq, ho⟩ := m.sendPkt_sent p k
    rw [hk.1] at ho
    exact ⟨⟨hs.link p, hs.ticks⟩, hk.1, hk.2, hl.trans hs.others.otherLinks, fun _ => ⟨ho, hq⟩, fun h' =>
      absurd (Option.isSome_iff_ne_none.mpr h') h⟩

/-- The module once a port's HELLO period is over (R67). -/
def Module.helloWaited (m : Module) (p : Nat) : Module :=
  let l := m.link p
  if l.nb.helloSent == 0 || l.nb.helloSent < l.since then m else m.pass (l.nb.helloSent + helloPeriod l.st)

/-- The module once what a port advertises is fixed (R66). -/
def Module.advertised (m : Module) (p : Nat) : Module :=
  if credSum (m.wire p).adv == 0 then (m.setWire p { m.wire p with adv := m.advNow p }).checkBacked (p / 32) else m

/-- The module as a HELLO is made: its period is over, what the port advertises is fixed, and the instant is kept. -/
def Module.helloDue (m : Module) (p : Nat) : Module :=
  let m := (m.helloWaited p).advertised p
  m.setLink p { m.link p with nb := { (m.link p).nb with helloSent := m.ticks } }

theorem helloTransmit_eq {m : Module} {p st : Nat} (h : LinkIn m p st) (hst : 4 ≤ st) :
    helloTransmit p m = (m.helloDue p).sendLocal p ((m.helloDue p).linkLocal 2 ((m.helloDue p).helloPayload p)) := by
  rw [helloTransmit, Module.onPort_of_linkIn h]
  dsimp only
  rw [if_pos (h.2.2.2 ▸ hst)]
  rfl

theorem Module.helloWaited_ports (m : Module) (p : Nat) : (m.helloWaited p).ports = m.ports := by
  unfold Module.helloWaited
  dsimp only
  split <;> rfl

theorem Module.advertised_frame (m : Module) (p : Nat) :
    OtherLinks p m (m.advertised p) ∧ (m.wire p).SameStream ((m.advertised p).wire p) := by
  unfold Module.advertised
  split
  · exact ⟨(otherPorts_setWire m p _).otherLinks.trans ((Module.credited_checkBacked _ _).otherLinks p),
      by simp, by simp, by simp, by simp⟩
  · exact ⟨(otherPorts_refl p m).otherLinks, rfl, rfl, rfl, rfl⟩

theorem Module.helloDue_frame (m : Module) (p : Nat) :
    ((m.helloDue p).link p).nb.helloSent = (m.helloDue p).ticks ∧ OtherLinks p m (m.helloDue p) ∧
      (m.wire p).SameStream ((m.helloDue p).wire p) := by
  have hp := m.helloWaited_ports p
  have hw : (m.helloWaited p).wire p = m.wire p := by simp only [Module.wire, Module.port, hp]
  obtain ⟨ho, hs⟩ := (m.helloWaited p).advertised_frame p
  refine ⟨by simp [Module.helloDue], ?_, ?_⟩
  · exact ((OtherPorts.of_ports_eq hp).otherLinks.trans ho).trans (otherPorts_setLink _ p _).otherLinks
  · rw [← hw, Module.helloDue, Module.wire_setLink]
    exact hs

/-- The module once a port's TIME period is over (R67, R81). -/
def Module.timeWaited (m : Module) (p : Nat) : Module :=
  let l := m.link p
  if l.nb.timeSent == 0 || l.nb.timeSent < l.since then m else m.pass (l.nb.timeSent + ms 1)

/-- The module as a TIME packet is made: its period is over, and the instant is kept. -/
def Module.timeDue (m : Module) (p : Nat) : Module :=
  let m := m.timeWaited p
  m.setLink p { m.link p with nb := { (m.link p).nb with timeSent := m.ticks } }

theorem timeTransmit_eq {m : Module} {p st a b t u : Nat} (h : LinkIn m p st) (hst : 6 ≤ st)
    (ht : (a, t) ∈ (m.wire p).txFrames) (hu : (b, u) ∈ (m.wire p).rxFrames) :
    timeTransmit p a b t u m =
      (m.timeDue p).sendLocal p ((m.timeDue p).linkLocal 3 ((m.timeDue p).timePayload (a, t) (b, u))) := by
  rw [timeTransmit, Module.onPort_of_linkIn h]
  dsimp only
  rw [if_pos (by simp [ht, hu, h.2.2.2, hst])]
  rfl

theorem timeTransmit_unknown {m : Module} {p a b t u : Nat}
    (h : (a, t) ∉ (m.wire p).txFrames ∨ (b, u) ∉ (m.wire p).rxFrames) : timeTransmit p a b t u m = m := by
  have hc : ((m.wire p).txFrames.contains (a, t) && (m.wire p).rxFrames.contains (b, u)) = false := by
    rw [Bool.and_eq_false_iff]
    simpa using h
  unfold timeTransmit Module.onPort
  simp only [hc, Bool.false_and, Bool.false_eq_true, if_false, ite_self]

theorem Module.timeWaited_ports (m : Module) (p : Nat) : (m.timeWaited p).ports = m.ports := by
  unfold Module.timeWaited
  dsimp only
  split
  · rfl
  · exact Module.pass_ports m _

theorem Module.timeDue_frame (m : Module) (p : Nat) :
    ((m.timeDue p).link p).nb.timeSent = (m.timeDue p).ticks ∧ OtherLinks p m (m.timeDue p) ∧
      (m.wire p).SameStream ((m.timeDue p).wire p) := by
  have hp := m.timeWaited_ports p
  have hw : (m.timeWaited p).wire p = m.wire p := by simp only [Module.wire, Module.port, hp]
  refine ⟨by simp [Module.timeDue], ((OtherPorts.of_ports_eq hp).setLink _).otherLinks, ?_⟩
  rw [← hw, Module.timeDue, Module.wire_setLink]
  exact ⟨rfl, rfl, rfl, rfl⟩

/-! ### Replays (R62) -/

/-- The bytes of a segment sent from a wire, with the tail that the wire gives: what it has returned, and what it answers. -/
def Wire.Resent (w : Wire) (x : Seg) (b : Bytes) : Prop :=
  ∃ idx frame, b = segBytes (headUnit idx (some x.seq) x.first frame) x.pay w.ret ((w.rxSeq + 65535) % 65536) w.rxAny w.nackOut

/-- Sending leaves what the tail says. -/
theorem Module.resent_sendSeg (m : Module) (p : Nat) (s : Option Seg) : ((m.sendSeg p s).wire p).Resent = (m.wire p).Resent := by
  obtain ⟨_, _, _, _, _, e⟩ := m.wire_sendSeg p s
  rw [e]
  rfl

theorem Module.segsOut_resent (l : List Seg) (m : Module) (p : Nat) :
    ∃ bs : List Bytes, segsOut p (l.foldl (fun m s => m.sendSeg p (some s)) m).out = bs.reverse ++ segsOut p m.out ∧
      List.Forall₂ (m.wire p).Resent l bs := by
  induction l generalizing m with
  | nil => exact ⟨[], rfl, .nil⟩
  | cons s l ih =>
    obtain ⟨bs, h, hf⟩ := ih (m.sendSeg p (some s))
    rw [m.segsOut_sendSeg] at h
    rw [m.resent_sendSeg] at hf
    exact ⟨m.segNow p (some s) :: bs, by simpa using h, .cons ⟨_, _, rfl⟩ hf⟩

@[simp] theorem Module.wire_count (m : Module) (blk off n q : Nat) : (m.count blk off n).wire q = m.wire q := by
  simp only [Module.wire, Module.port, Module.count_ports]
@[simp] theorem Module.link_count (m : Module) (blk off n q : Nat) : (m.count blk off n).link q = m.link q := by
  simp only [Module.link, Module.port, Module.count_ports]

@[simp] theorem Module.setWire_out (m : Module) (p : Nat) (x : Wire) : (m.setWire p x).out = m.out := rfl
@[simp] theorem Module.setLink_out (m : Module) (p : Nat) (x : Link) : (m.setLink p x).out = m.out := rfl

/-- The module as a replay begins: it is counted, and its time starts anew. -/
def Module.replayBegun (m : Module) (p : Nat) : Module :=
  (m.setWire p { m.wire p with replays := (m.wire p).replays + 1, ackAt := m.ticks }).count (portBlk p) 0x118

@[simp] theorem Module.wire_replayBegun (m : Module) (p : Nat) : (m.replayBegun p).wire p =
    { m.wire p with replays := (m.wire p).replays + 1, ackAt := m.ticks } := by
  simp [Module.replayBegun]
theorem Module.otherPorts_replayBegun (m : Module) (p : Nat) : OtherPorts p m (m.replayBegun p) :=
  (otherPorts_setWire m p _).trans (.of_ports_eq (Module.count_ports _ _ _ _))

/-- What is sent again stays in the replay buffer, and the count of replays stays. -/
theorem Module.resendSegs_keeps (m : Module) (p : Nat) : ((m.resendSegs p).wire p).replay = (m.wire p).replay ∧
    ((m.resendSegs p).wire p).replays = (m.wire p).replays := by
  refine List.foldlRecOn (m.wire p).replay _
    (motive := fun (n : Module) => (n.wire p).replay = (m.wire p).replay ∧ (n.wire p).replays = (m.wire p).replays)
    ⟨rfl, rfl⟩ fun n h s _ => ?_
  obtain ⟨_, _, _, _, _, e⟩ := n.wire_sendSeg p (some s)
  rw [e]
  exact h

/-- A replay sends every segment that is not acknowledged, in order, and keeps them. -/
theorem Module.replaySegs_frame (m : Module) (p : Nat) :
    ((m.replaySegs p).wire p).replay = (m.wire p).replay ∧ ((m.replaySegs p).wire p).replays = (m.wire p).replays + 1 ∧
      OtherPorts p m (m.replaySegs p) ∧ (m.replaySegs p).now = m.now ∧ ∃ l : List Bytes,
        segsOut p (m.replaySegs p).out = l.reverse ++ segsOut p m.out ∧
        List.Forall₂ (m.wire p).Resent (m.wire p).replay l := by
  have hs : (m.replayBegun p).Sent p (m.replaySegs p) := Module.sent_resendSegs _ p
  obtain ⟨bs, hb, hf⟩ := Module.segsOut_resent ((m.replayBegun p).wire p).replay (m.replayBegun p) p
  have hk := Module.resendSegs_keeps (m.replayBegun p) p
  rw [Module.wire_replayBegun] at hk hf
  refine ⟨hk.1, hk.2, (m.otherPorts_replayBegun p).trans hs.others, hs.now.trans (by simp [Module.replayBegun, Module.now]), bs, hb.trans ?_, hf⟩
  simp [Module.replayBegun]

theorem replayTimeout_eq {m : Module} {p st : Nat} (h : LinkIn m p st) (hst : 4 ≤ st) (hr : (m.wire p).replay ≠ []) :
    replayTimeout p m = (m.pass ((m.wire p).ackAt + us (m.reg (portBlk p) 0x044 0))).replaySegs p := by
  rw [replayTimeout, Module.onPort_of_linkIn h]
  simp [h.2.2.2, hst, hr]

end Sys2Proof.Machine
end

section
/-!
Segments received (R32, R56, R57, R61, R62) and the end of a pause of the credit returns (R33, R131, R132).
-/
namespace Sys2Proof.Machine
open Sys2Proof.Claims

/-! ### The tail of a segment (R61, R62, R65) -/

/-- A port has answered what a segment's tail says: its link, the received stream of its wire and every other port stay. -/
structure Module.Answered (p : Nat) (a b : Module) : Prop where
  others : OtherPorts p a b
  link : b.link p = a.link p
  rxSeq : (b.wire p).rxSeq = (a.wire p).rxSeq
  rxq : (b.wire p).rxq = (a.wire p).rxq
  rxSkip : (b.wire p).rxSkip = (a.wire p).rxSkip

theorem Module.Answered.refl (p : Nat) (a : Module) : a.Answered p a := ⟨otherPorts_refl p a, rfl, rfl, rfl, rfl⟩

theorem Module.Answered.trans {p : Nat} {a b c : Module} (h : a.Answered p b) (h' : b.Answered p c) : a.Answered p c :=
  ⟨h.others.trans h'.others, h'.link.trans h.link, h'.rxSeq.trans h.rxSeq, h'.rxq.trans h.rxq, h'.rxSkip.trans h.rxSkip⟩

theorem Module.Sent.answered {p : Nat} {a b : Module} (h : a.Sent p b) : a.Answered p b :=
  ⟨h.others, h.link p, by rw [h.wire.eq], by rw [h.wire.eq], by rw [h.wire.eq]⟩

theorem Module.answered_setWire (m : Module) (p : Nat) {x : Wire} (hs : x.rxSeq = (m.wire p).rxSeq)
    (hq : x.rxq = (m.wire p).rxq) (hk : x.rxSkip = (m.wire p).rxSkip) : m.Answered p (m.setWire p x) :=
  ⟨otherPorts_setWire m p x, by simp, by simpa using hs, by simpa using hq, by simpa using hk⟩

theorem Module.answered_replaySegs (m : Module) (p : Nat) : m.Answered p (m.replaySegs p) :=
  have h : m.Answered p (m.replayBegun p) := ⟨m.otherPorts_replayBegun p, by simp [Module.replayBegun], by simp, by simp, by simp⟩
  h.trans (Module.sent_resendSegs (m.replayBegun p) p).answered

/-- The credits that a tail returns. -/
def Module.tailReturned (m : Module) (p : Nat) (i : SegHead) : Module :=
  m.setWire p { m.wire p with
    used := (List.range 8).map fun v =>
      (m.wire p).used.getD v 0 - (i.ret.getD v 0 + 65536 - (m.wire p).prevRet.getD v 0 % 65536) % 65536
    prevRet := (List.range 8).map fun v => i.ret.getD v 0 % 65536 }

/-- The segments that a tail acknowledges. -/
def Module.tailAcked (m : Module) (p : Nat) (i : SegHead) : Module :=
  let w := m.wire p
  if i.ackValid then
    let gone := (i.ackSeq + 65536 - w.acked % 65536) % 65536
    if 0 < gone && gone ≤ w.replay.length then
      let m := m.setWire p { w with replay := w.replay.drop gone, acked := i.ackSeq, ackAt := m.ticks, replays := 0 }
      m.packSegs p ((m.wire p).txq.length / 8160)
    else m
  else m

theorem Module.answered_tailAcked (m : Module) (p : Nat) (i : SegHead) : m.Answered p (m.tailAcked p i) := by
  unfold Module.tailAcked
  dsimp only
  split
  · split
    · refine .trans (m.answered_setWire p ?_ ?_ ?_) (Module.packSegs_sent _ _ p).1.answered <;> rfl
    · exact .refl p m
  · exact .refl p m

theorem Module.answered_takeTail (m : Module) (p : Nat) (i : SegHead) : m.Answered p (m.takeTail p i) := by
  have h : m.Answered p ((m.tailReturned p i).tailAcked p i) :=
    .trans (m.answered_setWire p rfl rfl rfl : m.Answered p (m.tailReturned p i)) (Module.answered_tailAcked _ p i)
  change m.Answered p (if i.nack && (((m.tailReturned p i).tailAcked p i).wire p).lastNack != some i.ackSeq then
    ((((m.tailReturned p i).tailAcked p i).setWire p
      { ((m.tailReturned p i).tailAcked p i).wire p with lastNack := some i.ackSeq }).replaySegs p)
    else (m.tailReturned p i).tailAcked p i)
  generalize (m.tailReturned p i).tailAcked p i = n at h ⊢
  split
  · refine (h.trans (n.answered_setWire p ?_ ?_ ?_)).trans (Module.answered_replaySegs _ p) <;> rfl
  · exact h

/-! ### A segment received (R32, R56, R57, R62) -/

theorem Module.countWords_ports (m : Module) (p w i : Nat) (nums : List Nat) (l : List RxWord) :
    (m.countWords p w i nums l).ports = m.ports := by
  refine List.foldlRecOn _ _ (motive := fun n : Module => n.ports = m.ports) rfl fun n h x _ => ?_
  split
  · simpa using h
  · split
    · exact h
    · simpa using h

/-- The segment read of a port's lanes, in the frame that its place in the frame gives. -/
def Module.segRead (m : Module) (p : Nat) (i : SegIn) : RxSeg :=
  m.readSeg p (if i.idx == 0 then ((m.wire p).rxFrame + 1) % 65536 else (m.wire p).rxFrame) i

/-- The module with a received segment's codewords and frame counted. -/
def Module.segCounted (m : Module) (p : Nat) (i : SegIn) : Module :=
  let w := m.wire p
  let f := if i.idx == 0 then (w.rxFrame + 1) % 65536 else w.rxFrame
  let r := m.readSeg p f i
  let f := if r.bad then f else r.h.frame
  let x := m.rxLanes p f
  let m := m.countWords p (if x.1 then 1 else x.2.length) i.idx (if x.1 then (r.words.map (·.lane)).take 1 else x.2) r.words
  m.setWire p { w with
    rxFrame := f, paused := w.paused || i.fifoHigh,
    rxFrames := if i.idx == 0 then last64 (w.rxFrames ++ [(f, i.refAt)]) else w.rxFrames }

theorem Module.answered_segCounted (m : Module) (p : Nat) (i : SegIn) :
    m.Answered p (m.segCounted p i) ∧ ((m.segCounted p i).wire p).replay = (m.wire p).replay := by
  have h (n : Module) (hn : n.ports = m.ports) (x : Wire) (hs : x.rxSeq = (m.wire p).rxSeq)
      (hq : x.rxq = (m.wire p).rxq) (hk : x.rxSkip = (m.wire p).rxSkip) (hr : x.replay = (m.wire p).replay) :
      m.Answered p (n.setWire p x) ∧ ((n.setWire p x).wire p).replay = (m.wire p).replay := by
    have hl : n.link p = m.link p := by simp only [Module.link, Module.port, hn]
    exact ⟨⟨(OtherPorts.of_ports_eq hn).setWire x, by simpa using hl, by simpa using hs, by simpa using hq, by simpa using hk⟩,
      by simpa using hr⟩
  exact h _ (Module.countWords_ports m p _ _ _ _) _ rfl rfl rfl rfl

theorem segmentReceived_eq {m : Module} {p st : Nat} (h : LinkIn m p st) (hst : 4 ≤ st) (i : SegIn) :
    segmentReceived p i m =
      if (m.segRead p i).bad then
        let n := (m.segCounted p i).count (portBlk p) 0x110
        n.setWire p { n.wire p with nackOut := true }
      else (m.segCounted p i).takeSeg p (m.segRead p i).h := by
  rw [segmentReceived, Module.onPort_of_linkIn h]
  dsimp only
  rw [if_neg (by have := h.2.2.2; omega)]
  rfl

theorem segmentReceived_bad {m : Module} {p st : Nat} (h : LinkIn m p st) (hst : 4 ≤ st) {i : SegIn}
    (hb : (m.segRead p i).bad = true) :
    let n := segmentReceived p i m
    (n.wire p).nackOut = true ∧ (n.wire p).rxSeq = (m.wire p).rxSeq ∧ (n.wire p).rxq = (m.wire p).rxq ∧
      (n.wire p).replay = (m.wire p).replay ∧ OtherPorts p m n := by
  obtain ⟨ha, hr⟩ := m.answered_segCounted p i
  dsimp only
  rw [segmentReceived_eq h hst, if_pos hb]
  refine ⟨by simp, by simp [ha.rxSeq], by simp [ha.rxq], by simp [hr], ?_⟩
  exact (ha.others.trans (.of_ports_eq (Module.count_ports _ _ _ _))).setWire _

/-- A good numbered segment of a port that is not isolated: taken at its turn, and otherwise refused. -/
theorem Module.takeSeg_numbered {m : Module} {p : Nat} {h : SegHead} (hv : h.seqValid = true)
    (hi : (m.link p).isolated = false) :
    OtherPorts p m (m.takeSeg p h) ∧
      (h.seq = (m.wire p).rxSeq → ((m.takeSeg p h).wire p).rxSeq = ((m.wire p).rxSeq + 1) % 65536 ∧
        ((m.takeSeg p h).wire p).nackOut = false ∧
        ((m.takeSeg p h).wire p).rxq = (m.wire p).rxq ++ h.pay.drop (m.wire p).rxSkip) ∧
      (h.seq ≠ (m.wire p).rxSeq → ((m.takeSeg p h).wire p).rxSeq = (m.wire p).rxSeq ∧
        ((m.takeSeg p h).wire p).nackOut = true ∧ ((m.takeSeg p h).wire p).rxq = (m.wire p).rxq) ∧
      ((m.takeSeg p h).wire p).rxAny = true := by
  have ha := m.answered_takeTail p h
  have e : m.takeSeg p h = (m.takeTail p h).setWire p (if h.seq = (m.wire p).rxSeq then ((m.takeTail p h).wire p).accept h.pay
      else { (m.takeTail p h).wire p with nackOut := true, rxAny := true }) := by
    unfold Module.takeSeg
    by_cases hs : h.seq = (m.wire p).rxSeq <;> simp [hv, ha.link, hi, ha.rxSeq, hs]
  rw [e]
  refine ⟨ha.others.setWire _, fun hs => ?_, fun hs => ?_, ?_⟩
  · simp [hs, Wire.accept, ha.rxSeq, ha.rxq, ha.rxSkip]
  · simp [hs, ha.rxSeq, ha.rxq]
  · rw [Module.wire_setWire_same]
    split <;> rfl

theorem segmentReceived_good {m : Module} {p st : Nat} (h : LinkIn m p st) (hst : 4 ≤ st) {i : SegIn}
    (hi : (m.link p).isolated = false) (hb : (m.segRead p i).bad = false) (hv : (m.segRead p i).h.seqValid = true) :
    let n := segmentReceived p i m
    OtherPorts p m n ∧
      ((m.segRead p i).h.seq = (m.wire p).rxSeq → (n.wire p).rxSeq = ((m.wire p).rxSeq + 1) % 65536 ∧ (n.wire p).nackOut = false ∧
        (n.wire p).rxq = (m.wire p).rxq ++ (m.segRead p i).h.pay.drop (m.wire p).rxSkip) ∧
      ((m.segRead p i).h.seq ≠ (m.wire p).rxSeq → (n.wire p).rxSeq = (m.wire p).rxSeq ∧ (n.wire p).nackOut = true ∧
        (n.wire p).rxq = (m.wire p).rxq) ∧
      (n.wire p).rxAny = true := by
  obtain ⟨ha, -⟩ := m.answered_segCounted p i
  dsimp only
  rw [segmentReceived_eq h hst, if_neg (by simp [hb]), ← ha.rxSeq, ← ha.rxq, ← ha.rxSkip]
  obtain ⟨ho, ht⟩ := Module.takeSeg_numbered (m := m.segCounted p i) hv (ha.link ▸ hi)
  exact ⟨ha.others.trans ho, ht⟩

end Sys2Proof.Machine
end

section
/-!
The end of a pause of the credit returns (R33, R131, R132), and the statement about segments.
-/
namespace Sys2Proof.Machine
open Sys2Proof.Claims

/-! ### Sums of credits -/

theorem credSum_eq_sum (l : List Nat) : credSum l = l.sum := by
  rw [credSum, List.sum_eq_foldl]

/-- The first entries of a list, read with 0 past its end, sum to no more than the list. -/
theorem sum_getD_le (n : Nat) (l : List Nat) : ((List.range n).map fun v => l.getD v 0).sum ≤ l.sum := by
  induction l generalizing n with
  | nil => simp
  | cons x l ih =>
    cases n with
    | zero => simp
    | succ n =>
      have h := ih n
      simp only [List.range_succ_eq_map, List.map_cons, List.map_map, List.sum_cons, Function.comp_def,
        List.getD_cons_zero, List.getD_cons_succ]
      omega

/-- Credits held back but for some of them. -/
theorem credSum_kept_le (l : List Nat) (go : Nat → Bool) :
    credSum ((List.range 8).map fun v => if go v then 0 else l.getD v 0) ≤ credSum l := by
  rw [credSum_eq_sum, credSum_eq_sum]
  refine le_trans (List.sum_le_sum fun v _ => ?_) (sum_getD_le 8 l)
  split <;> omega

/-- The exposure of a die grows where its ports hold fewer credits back. -/
theorem Module.exposure_le {a b : Module} (d : Nat) (hst : ∀ q, (b.link q).st = (a.link q).st)
    (hw : ∀ q, (b.wire q).adv = (a.wire q).adv ∧ (b.wire q).charged = (a.wire q).charged ∧
      credSum (b.wire q).held ≤ credSum (a.wire q).held) : a.exposure d ≤ b.exposure d := by
  unfold Module.exposure
  generalize diePorts d = l
  have h (l : List Nat) : ∀ x y : Nat, x ≤ y → l.foldl (fun s p => if (a.link p).st == 0 then s
      else s + (credSum (a.wire p).adv - (a.wire p).charged - credSum (a.wire p).held)) x ≤
      l.foldl (fun s p => if (b.link p).st == 0 then s
      else s + (credSum (b.wire p).adv - (b.wire p).charged - credSum (b.wire p).held)) y := by
    induction l with
    | nil => exact fun x y h => h
    | cons p l ih =>
      intro x y h
      rw [List.foldl_cons, List.foldl_cons]
      refine ih _ _ ?_
      obtain ⟨hadv, hch, hheld⟩ := hw p
      rw [hst, hadv, hch]
      split <;> omega
  exact h l 0 0 (Nat.le_refl 0)

/-! ### What withholds the returns of a VC (R43, R132, R505) -/

theorem mem_insertLe {α : Type} {k : α → Nat} {a x : α} {l : List α} (h : x ∈ sortBy.insertLe k a l) : x = a ∨ x ∈ l := by
  induction l with
  | nil => simpa [sortBy.insertLe] using h
  | cons b l ih =>
    unfold sortBy.insertLe at h
    split at h
    · simpa using h
    · rcases List.mem_cons.mp h with rfl | h
      · simp
      · rcases ih h with h | h <;> simp [h]

theorem insertLe_congr {α : Type} {k k' : α → Nat} {a : α} {l : List α} (h : ∀ x ∈ a :: l, k x = k' x) :
    sortBy.insertLe k a l = sortBy.insertLe k' a l := by
  induction l with
  | nil => rfl
  | cons b l ih =>
    unfold sortBy.insertLe
    rw [h a (by simp), h b (by simp), ih fun x hx => h x (by
      rcases List.mem_cons.mp hx with rfl | hx <;> simp [*])]

/-- Sorting looks at the keys of the list's own entries alone. -/
theorem sortBy_congr {α : Type} {k k' : α → Nat} {l : List α} (h : ∀ x ∈ l, k x = k' x) : sortBy k l = sortBy k' l := by
  have hf (r acc : List α) (hr : ∀ x ∈ r, k x = k' x) (ha : ∀ x ∈ acc, k x = k' x) :
      r.foldl (fun acc a => sortBy.insertLe k a acc) acc = r.foldl (fun acc a => sortBy.insertLe k' a acc) acc := by
    induction r generalizing acc with
    | nil => rfl
    | cons a r ih =>
      have he : ∀ x ∈ a :: acc, k x = k' x := fun x hx => (List.mem_cons.mp hx).elim (fun e => e ▸ hr a (by simp)) (ha x)
      rw [List.foldl_cons, List.foldl_cons, ← insertLe_congr he]
      exact ih _ (fun x hx => hr x (by simp [hx])) fun x hx => he x (List.mem_cons.mpr (mem_insertLe hx))
  exact hf l.reverse [] (fun x hx => h x (List.mem_reverse.mp hx)) (by simp)

theorem not_reporting_sched (d : Nat) : ¬ Reporting (swBlk d 6) := by
  unfold Reporting swBlk
  omega

theorem Module.Credited.paceVcs {a b : Module} (h : a.Credited b) (p : Nat) : b.paceVcs p = a.paceVcs p := by
  obtain ⟨_, _, _, e⟩ := h.pwr
  unfold Module.paceVcs
  rw [e]
  refine congrArg _ (sortBy_congr fun v hv => ?_)
  have hv' : v < 8 := by
    simp only [List.mem_cons, List.not_mem_nil, or_false] at hv
    omega
  have hr := h.regs (swBlk (p / 32) 6) (0x2000 + 4 * (8 * (p % 32) + v)) 0 (not_reporting_sched _) (by omega) (by decide)
  simp only [hr]

/-- Credit books that leave a die UNBACKED, if it was, withhold what was withheld. -/
theorem Module.Credited.withholds {a b : Module} (h : a.Credited b) {p v : Nat}
    (hu : (a.die (p / 32)).unbacked = true → (b.die (p / 32)).unbacked = true) (hv : a.withholds p v = true) :
    b.withholds p v = true := by
  have hl : (b.pwr.lull != 0) = (a.pwr.lull != 0) := by
    rw [Bool.eq_iff_iff, bne_iff_ne, bne_iff_ne, ne_eq, ne_eq, h.lull]
  unfold Module.withholds at hv ⊢
  rw [hl, h.paceVcs p]
  simp only [Bool.and_eq_true, Bool.or_eq_true] at hv ⊢
  exact ⟨hv.1, hv.2.imp_left fun x => x.imp_left hu⟩

/-! ### UNBACKED (R131, R132) -/

/-- Whether the free cells of a die are fewer than its exposure. -/
def Module.lacksCells (m : Module) (d : Nat) : Bool := (m.die d).mode == 2 && (m.die d).freeCells < m.exposure d

theorem Module.Reported.die {a b : Module} (h : a.Reported b) (d : Nat) : b.die d = a.die d := by
  simp only [Module.die, h.dies]

@[simp] theorem Module.die_count (m : Module) (blk off n d : Nat) : (m.count blk off n).die d = m.die d := by
  simp only [Module.die, Module.count_dies]

theorem Module.followHold_unbacked (m : Module) (d : Nat) : ((m.followHold d).die d).unbacked = (m.die d).unbacked := by
  unfold Module.followHold
  dsimp only
  split
  · rfl
  · split <;> simp

theorem Module.followBacked_unbacked (m : Module) (d : Nat) : ((m.followBacked d).die d).unbacked = m.lacksCells d := by
  unfold Module.followBacked
  dsimp only
  rw [Module.followHold_unbacked]
  split
  next h => exact (beq_iff_eq.mp h).symm
  next =>
    rw [((Module.Reported.refl _).level (by decide) _ _ _).die, Module.die_setDie_same]
    rfl

theorem Module.followHold_ports (m : Module) (d : Nat) : (m.followHold d).ports = m.ports := by
  unfold Module.followHold
  dsimp only
  split
  · rfl
  · split
    · exact Module.count_ports _ _ _ _
    · rfl

theorem Module.followBacked_ports (m : Module) (d : Nat) : (m.followBacked d).ports = m.ports := by
  unfold Module.followBacked
  dsimp only
  rw [Module.followHold_ports]
  split
  · rfl
  · exact ((Module.Reported.refl _).level (by decide) _ _ _).ports

/-! ### The end of a pause (R33, R132) -/

/-- The returns of a port once those of VCs that nothing withholds have gone, from what another module held. -/
def Module.Flushed (a b : Module) (p : Nat) : Prop :=
  ∀ v, v < 8 →
    (a.withholds p v = false → (b.wire p).held.getD v 0 = 0 ∧
      (b.wire p).ret.getD v 0 = ((a.wire p).ret.getD v 0 + (a.wire p).held.getD v 0) % 65536) ∧
    (a.withholds p v = true → (b.wire p).held.getD v 0 = (a.wire p).held.getD v 0 ∧
      (b.wire p).ret.getD v 0 = (a.wire p).ret.getD v 0)

theorem range8_getD (f : Nat → Nat) {v : Nat} (hv : v < 8) : ((List.range 8).map f).getD v 0 = f v := by
  simp [List.getD_eq_getElem?_getD, hv]

/-- A flush leaves what withholds, on every port. -/
theorem Module.withholds_creditFlush (m : Module) (q p v : Nat) : (m.creditFlush q).withholds p v = m.withholds p v := by
  unfold Module.creditFlush
  dsimp only
  split <;> rfl

/-- Returns flushed once stay flushed: nothing that was withheld goes, and what has gone is no longer held. -/
theorem Module.Flushed.creditFlush {a b : Module} {p : Nat} (h : a.Flushed b p)
    (hw : ∀ v, a.withholds p v = true → b.withholds p v = true) (q : Nat) : a.Flushed (b.creditFlush q) p := by
  unfold Module.creditFlush
  dsimp only
  split
  · exact h
  · by_cases hq : p = q
    · subst hq
      intro v hv
      obtain ⟨hgo, hkeep⟩ := h v hv
      rw [Module.wire_setWire_same]
      dsimp only
      rw [range8_getD _ hv, range8_getD _ hv]
      refine ⟨fun hf => ?_, fun ht => ?_⟩
      · obtain ⟨h0, hr⟩ := hgo hf
        rw [h0, hr]
        split <;> simp
      · simpa [hw v ht] using hkeep ht
    · unfold Module.Flushed
      rw [Module.wire_setWire_other _ hq]
      exact h

/-- The first flush of a port past its pause. -/
theorem Module.flushed_creditFlush {m : Module} {p : Nat} (hst : (m.link p).st = 6) (hp : (m.wire p).paused = false)
    (hh : ∃ x ∈ (m.wire p).held, x ≠ 0) : m.Flushed (m.creditFlush p) p ∧
      ∀ q, ((m.creditFlush p).wire q).adv = (m.wire q).adv ∧ ((m.creditFlush p).wire q).charged = (m.wire q).charged ∧
        credSum ((m.creditFlush p).wire q).held ≤ credSum (m.wire q).held := by
  have hall : (m.wire p).held.all (· == 0) = false := by
    obtain ⟨x, hx, h0⟩ := hh
    rw [List.all_eq_false]
    exact ⟨x, hx, by simpa using h0⟩
  unfold Module.creditFlush
  dsimp only
  rw [if_neg (by simp [hst, hp, hall])]
  refine ⟨fun v hv => ?_, fun q => ?_⟩
  · rw [Module.wire_setWire_same]
    dsimp only
    rw [range8_getD _ hv, range8_getD _ hv]
    exact ⟨fun hf => by simp [hf], fun ht => by simp [ht]⟩
  · by_cases hq : q = p
    · subst hq
      rw [Module.wire_setWire_same]
      exact ⟨rfl, rfl, credSum_kept_le (m.wire q).held fun v => !m.withholds q v⟩
    · rw [Module.wire_setWire_other _ hq]
      exact ⟨rfl, rfl, Nat.le_refl _⟩

/-- A check of the die's books leaves flushed returns, where no VC that is withheld is let go. -/
theorem Module.Flushed.checkBacked {a b : Module} {p : Nat} (h : a.Flushed b p)
    (hw : ∀ v, a.withholds p v = true → (b.followBacked (p / 32)).withholds p v = true) :
    a.Flushed (b.checkBacked (p / 32)) p := by
  have hport {x y : Module} (hc : a.Flushed x p) (hr : y.ports = x.ports) : a.Flushed y p := by
    unfold Module.Flushed Module.wire Module.port
    rw [hr]
    exact hc
  have hfold : a.Flushed ((diePorts (p / 32)).foldl (fun m q => m.creditFlush q) (b.followBacked (p / 32))) p :=
    (List.foldlRecOn (diePorts (p / 32)) (fun (m : Module) q => m.creditFlush q)
      (motive := fun n => a.Flushed n p ∧ ∀ v, a.withholds p v = true → n.withholds p v = true)
      ⟨hport h (Module.followBacked_ports _ _), hw⟩ fun n hn q _ =>
        ⟨hn.1.creditFlush hn.2 q, fun v hv => (n.withholds_creditFlush q p v).trans (hn.2 v hv)⟩).1
  exact hport hfold (Module.followBacked_ports _ _)

/-- The port's pause ended: nothing but that changes. -/
def Module.unpaused (m : Module) (p : Nat) : Module := m.setWire p { m.wire p with paused := false }

@[simp] theorem Module.wire_unpaused_same (m : Module) (p : Nat) :
    (m.unpaused p).wire p = { m.wire p with paused := false } := m.wire_setWire_same p _

theorem Module.wire_unpaused_credits (m : Module) (p q : Nat) : ((m.unpaused p).wire q).adv = (m.wire q).adv ∧
    ((m.unpaused p).wire q).charged = (m.wire q).charged ∧ ((m.unpaused p).wire q).held = (m.wire q).held := by
  by_cases hq : q = p
  · subst hq
    simp
  · rw [Module.unpaused, Module.wire_setWire_other _ hq]
    exact ⟨rfl, rfl, rfl⟩

theorem syncFifoResume_eq {m : Module} {p st : Nat} (h : LinkIn m p st) :
    syncFifoResume p m = ((m.unpaused p).creditFlush p).checkBacked (p / 32) :=
  Module.onPort_of_linkIn h _

/-- The pause is over, and no other link changes. -/
theorem syncFifoResume_frame {m : Module} {p st : Nat} (h : LinkIn m p st) :
    ((syncFifoResume p m).wire p).paused = false ∧ OtherLinks p m (syncFifoResume p m) := by
  rw [syncFifoResume_eq h]
  have hc := (m.unpaused p).credited_creditFlush p
  refine ⟨?_, ((otherPorts_setWire m p _).otherLinks.trans (hc.otherLinks p)).trans
    ((Module.credited_checkBacked _ _).otherLinks p)⟩
  obtain ⟨_, _, e⟩ := hc.wire p
  rw [Module.paused_checkBacked, e, Module.wire_unpaused_same]

/-- On an ACTIVE port of a die whose UNBACKED says what its cells say, exactly the returns of the VCs that nothing withholds
go with the end of the pause. -/
theorem syncFifoResume_flushed {m : Module} {p : Nat} (h : LinkIn m p 6)
    (hu : (m.die (p / 32)).unbacked = m.lacksCells (p / 32)) (hh : ∃ x ∈ (m.wire p).held, x ≠ 0) :
    m.Flushed (syncFifoResume p m) p := by
  obtain ⟨hf, hle⟩ := Module.flushed_creditFlush (m := m.unpaused p) (p := p)
    ((congrArg Link.st (m.link_setWire p p _)).trans h.2.2.2) (by simp) (by simpa using hh)
  have hfm : m.Flushed ((m.unpaused p).creditFlush p) p := by
    unfold Module.Flushed at hf ⊢
    rw [Module.wire_unpaused_same] at hf
    exact hf
  have hc := (m.unpaused p).credited_creditFlush p
  have hexp : m.exposure (p / 32) ≤ ((m.unpaused p).creditFlush p).exposure (p / 32) :=
    Module.exposure_le _ (fun q => by rw [hc.link, Module.unpaused, Module.link_setWire]) fun q => by
      obtain ⟨hadv, hch, hheld⟩ := hle q
      obtain ⟨hadv', hch', hheld'⟩ := m.wire_unpaused_credits p q
      exact ⟨hadv.trans hadv', hch.trans hch', hheld' ▸ hheld⟩
  have hlack : m.lacksCells (p / 32) = true → ((m.unpaused p).creditFlush p).lacksCells (p / 32) = true := by
    obtain ⟨_, _, e⟩ := hc.die (p / 32)
    unfold Module.lacksCells
    rw [e]
    simp only [Bool.and_eq_true, decide_eq_true_eq]
    exact fun ⟨hm, hl⟩ => ⟨hm, lt_of_lt_of_le hl hexp⟩
  rw [syncFifoResume_eq h]
  refine hfm.checkBacked fun v hv => (hc.trans (Module.credited_followBacked _ (p / 32))).withholds (fun hub => ?_) hv
  rw [Module.followBacked_unbacked]
  exact hlack (hu ▸ hub)

theorem enable_on {m : Module} {p : Nat} (hp : p < 256) (hm : m.pwr.main = true) :
    enable p true m = m.setReg (portBlk p) 0 0 1 := by
  simp [enable, hp, hm, b2n]

end Sys2Proof.Machine

namespace Sys2Proof.Proofs
open Sys2Proof.Machine Sys2Proof.Claims

/-- Settles O10: what is sent joins the words that wait, whole, and moves to the replay buffer in order; what is received is
taken in the order of its numbers; and a flush at the end of a pause is not undone by the check of the die's books. -/
theorem segmentsMoveInOrder : Obligations.SegmentsMoveInOrder := by
  unfold Obligations.SegmentsMoveInOrder
  refine ⟨fun s p a b t u => ⟨fun st hst h => ?_, fun st hst h ht hu => ?_, fun h => ?_, fun st hst h hr => ?_⟩,
    fun s p st i hst h hi => ?_, fun s p => ⟨fun st h => ?_, fun hp hm => ?_⟩⟩
  · refine completes_withM (helloTransmit p) rfl ?_
    obtain ⟨hsent, ho, hs⟩ := s.m.helloDue_frame p
    have hk := (s.m.helloDue p).linkLocal_fields (sub := 2) (by decide) ((s.m.helloDue p).helloPayload p)
    obtain ⟨⟨hl, ht⟩, hj⟩ := Module.sendLocal_joins ⟨hk.1, hk.2.1⟩ ho hs
    rw [helloTransmit_eq h hst]
    exact ⟨⟨_, hj⟩, by rw [hl, ht, hsent]⟩
  · refine completes_withM (timeTransmit p a b t u) rfl ?_
    obtain ⟨hsent, ho, hs⟩ := s.m.timeDue_frame p
    obtain ⟨hty, htw, hpl⟩ := (s.m.timeDue p).linkLocal_fields (sub := 3) (by decide)
      ((s.m.timeDue p).timePayload (a, t) (b, u))
    obtain ⟨⟨hl, ht'⟩, hj⟩ := Module.sendLocal_joins ⟨hty, htw⟩ ho hs
    rw [timeTransmit_eq h hst ht hu]
    refine ⟨by rw [hl, ht', hsent], _, hj, ?_⟩
    rw [hpl]
    exact timePayload_fields _ (a, t) (b, u)
  · exact completes_withM (timeTransmit p a b t u) rfl (timeTransmit_unknown h)
  · refine completes_withM (replayTimeout p) rfl ?_
    rw [replayTimeout_eq h hst hr]
    generalize (s.m.wire p).ackAt + us (s.m.reg (portBlk p) 0x044 0) = t
    obtain ⟨hrep, hcount, ho, hnow, hl⟩ := (s.m.pass t).replaySegs_frame p
    exact ⟨hrep, hcount, (otherPorts_pass s.m p t).trans ho, hnow.trans (s.m.now_pass t), hl⟩
  · have hr : s.m.readSeg p (if i.idx = 0 then ((s.m.wire p).rxFrame + 1) % 65536 else (s.m.wire p).rxFrame) i =
        s.m.segRead p i := by
      simp only [Module.segRead, beq_iff_eq]
    dsimp only
    rw [hr]
    exact ⟨fun hb => completes_withM (segmentReceived p i) rfl (segmentReceived_bad h hst hb),
      fun hb hv => completes_withM (segmentReceived p i) rfl (segmentReceived_good h hst hi hb hv)⟩
  · refine completes_withM (syncFifoResume p) rfl ?_
    obtain ⟨hpaused, ho⟩ := syncFifoResume_frame h
    refine ⟨hpaused, ho, fun h6 hu hh => ?_⟩
    subst h6
    exact syncFifoResume_flushed h hu hh
  · refine completes_withM (enable p true) rfl ?_
    rw [enable_on hp hm]
    exact ⟨by simp [Module.enabled], rfl⟩

end Sys2Proof.Proofs
end

section
/-!
What happens beside the links: the frame of packets discarded, freed and recorded, and of the choice of the time source (R106
to R108, R123, R140, R156, R411 to R413).
-/
namespace Sys2Proof.Machine
open Sys2Proof.Claims

/-- What discarding packets changes of a wire: its credit books; and what arrives, where a packet is arriving. -/
structure Wire.Aside (w w' : Wire) : Prop where
  eq : w' = { w with
    ret := w'.ret, held := w'.held, charged := w'.charged, arriving := w'.arriving, rxq := w'.rxq, rxSkip := w'.rxSkip }
  arrived : w.arriving = none → w'.arriving = none ∧ w'.rxq = w.rxq ∧ w'.rxSkip = w.rxSkip

/-- What packets discarded, freed and recorded, and a new choice of the time source, leave: the links and the stream that each
port sends, the clocks, the power state but for a recorded wake, the keep file but for the history, the outputs; and no packet
has come. -/
structure Module.Aside (a b : Module) : Prop where
  port : ∀ q, b.port q = { a.port q with wire := (b.port q).wire, sched := (b.port q).sched }
  wire : ∀ q, (a.wire q).Aside (b.wire q)
  now : b.now = a.now
  ticks : b.ticks = a.ticks
  out : b.out = a.out
  pwr : a.pwr.Woken b.pwr
  keep : a.keep.Held b.keep
  ids : ∀ i, a.bp i = none → b.bp i = none

theorem Wire.Aside.refl (w : Wire) : w.Aside w := ⟨rfl, fun h => ⟨h, rfl, rfl⟩⟩

theorem Wire.Aside.trans {a b c : Wire} (h : a.Aside b) (h' : b.Aside c) : a.Aside c where
  eq := by
    have e := h'.eq
    rw [h.eq] at e
    exact e
  arrived ha := by
    obtain ⟨hb, hq, hs⟩ := h.arrived ha
    obtain ⟨hc, hq', hs'⟩ := h'.arrived hb
    exact ⟨hc, hq'.trans hq, hs'.trans hs⟩

theorem Module.Aside.refl (a : Module) : a.Aside a :=
  ⟨fun _ => rfl, fun _ => .refl _, rfl, rfl, rfl, .refl _, .refl _, fun _ h => h⟩

theorem Module.Aside.trans {a b c : Module} (h : a.Aside b) (h' : b.Aside c) : a.Aside c where
  port q := by
    have e := h'.port q
    rw [h.port q] at e
    exact e
  wire q := (h.wire q).trans (h'.wire q)
  now := h'.now.trans h.now
  ticks := h'.ticks.trans h.ticks
  out := h'.out.trans h.out
  pwr := h.pwr.trans h'.pwr
  keep := h.keep.trans h'.keep
  ids i hi := h'.ids i (h.ids i hi)

theorem Module.Aside.ite {a b c : Module} {p : Prop} [Decidable p] (hb : p → a.Aside b) (hc : ¬ p → a.Aside c) :
    a.Aside (if p then b else c) := by
  split
  · exact hb ‹_›
  · exact hc ‹_›

theorem Module.Aside.foldl {α : Type} {f : Module → α → Module} {a b : Module} (hf : ∀ m x, Module.Aside m (f m x)) (l : List α)
    (h : a.Aside b) : a.Aside (l.foldl f b) :=
  List.foldlRecOn l f (motive := fun n => a.Aside n) h fun n h x _ => h.trans (hf n x)

/-- A change that leaves ports, clocks, power state, keep file and outputs, and brings no packet. -/
theorem Module.Aside.of_eq {a b : Module} (hports : b.ports = a.ports) (hids : ∀ i, a.bp i = none → b.bp i = none)
    (htime : b.time = a.time) (hpwr : b.pwr = a.pwr) (hkeep : b.keep = a.keep) (hout : b.out = a.out) : a.Aside b where
  port q := by simp only [Module.port, hports]
  wire q := by simp only [Module.wire, Module.port, hports, Wire.Aside.refl]
  now := by simp only [Module.now, htime]
  ticks := by simp only [Module.ticks, htime]
  out := hout
  pwr := hpwr ▸ .refl _
  keep := hkeep ▸ .refl _
  ids := hids

theorem Module.Credited.aside {a b : Module} (h : a.Credited b) : a.Aside b where
  port q := by
    obtain ⟨_, _, e⟩ := h.port q
    rw [e]
  wire q := by
    obtain ⟨_, _, e⟩ := h.wire q
    rw [e]
    exact ⟨rfl, fun h => ⟨h, rfl, rfl⟩⟩
  now := h.now
  ticks := h.ticks
  out := h.out
  pwr := h.pwr
  keep := h.keep
  ids i hi := by simpa only [Module.bp, h.net] using hi

theorem Module.Reported.aside {a b : Module} (h : a.Reported b) : a.Aside b := h.credited.aside

section
variable {a b : Module} (h : a.Aside b)
include h

theorem Module.Aside.link (q : Nat) : b.link q = a.link q := by rw [Module.link, h.port q]; rfl
theorem Module.Aside.sending (q : Nat) : (b.wire q).sending = (a.wire q).sending := by rw [(h.wire q).eq]
theorem Module.Aside.replay (q : Nat) : (b.wire q).replay = (a.wire q).replay := by rw [(h.wire q).eq]
theorem Module.Aside.txq (q : Nat) : (b.wire q).txq = (a.wire q).txq := by rw [(h.wire q).eq]
theorem Module.Aside.llq (q : Nat) : (b.wire q).llq = (a.wire q).llq := by rw [(h.wire q).eq]

theorem Module.Aside.activeAt : b.pwr.activeAt = a.pwr.activeAt := by
  obtain ⟨_, _, _, e⟩ := h.pwr
  rw [e]

end

/-! ### Single changes -/

theorem Module.aside_count (m : Module) (blk off n : Nat) : m.Aside (m.count blk off n) :=
  .of_eq (by simp) (fun i hi => by simpa [Module.bp] using hi) (by simp) (by simp) (by simp) (by simp)

theorem Module.aside_countWrite (m : Module) (k n : Nat) : m.Aside (m.countWrite k n) := m.aside_count _ _ n

theorem Module.aside_setDie (m : Module) (d : Nat) (x : Die) : m.Aside (m.setDie d x) := .of_eq rfl (fun _ h => h) rfl rfl rfl rfl

theorem Module.aside_setSched (m : Module) (p : Nat) (x : Sched) : m.Aside (m.setSched p x) := by
  have hp (q : Nat) : ∃ s, (m.setSched p x).port q = { m.port q with sched := s } := by
    by_cases hq : q = p
    · subst hq
      exact ⟨x, Module.port_setPort_same m q _⟩
    · exact ⟨(m.port q).sched, Module.port_setPort_other m hq _⟩
  refine ⟨fun q => ?_, fun q => ?_, rfl, rfl, rfl, .refl _, .refl _, fun _ h => h⟩
  · obtain ⟨s, e⟩ := hp q
    rw [e]
  · obtain ⟨s, e⟩ := hp q
    simp only [Module.wire, e]
    exact .refl _

/-- The books and the arriving packet of one wire change. -/
theorem Module.aside_setWire (m : Module) (p : Nat) {x : Wire} (h : (m.wire p).Aside x) : m.Aside (m.setWire p x) := by
  refine ⟨fun q => ?_, fun q => ?_, rfl, rfl, rfl, .refl _, .refl _, fun _ h => h⟩
  · by_cases hq : q = p
    · subst hq
      simp [Module.setWire]
    · simp [Module.setWire, Module.port_setPort_other m hq]
  · by_cases hq : q = p
    · subst hq
      rwa [Module.wire_setWire_same]
    · rw [Module.wire_setWire_other m hq]
      exact .refl _

/-- A buffered packet under an identifier, once every packet of another has changed. -/
theorem Module.bp_updBp (m : Module) (id i : Nat) {f : BPkt → BPkt} (hf : ∀ b, (f b).id = b.id) :
    (m.updBp id f).bp i = (m.bp i).map fun b => if b.id == id then f b else b := by
  unfold Module.bp Module.updBp
  rw [List.find?_map]
  congr 1
  refine List.find?_congr fun b _ => ?_
  dsimp only [Function.comp]
  split <;> simp [hf]

theorem Module.aside_updBp (m : Module) (id : Nat) {f : BPkt → BPkt} (hf : ∀ b, (f b).id = b.id) : m.Aside (m.updBp id f) :=
  .of_eq rfl (fun i hi => by rw [m.bp_updBp id i hf, hi]; rfl) rfl rfl rfl rfl

/-- Packets leave the buffer. -/
theorem Module.bp_filter (m : Module) (p : BPkt → Bool) (i : Nat) (h : m.bp i = none) :
    ({ m with net := { m.net with pkts := m.net.pkts.filter p } } : Module).bp i = none :=
  List.find?_eq_none.mpr fun b hb => List.find?_eq_none.mp h b (List.mem_of_mem_filter hb)

/-! ### Windsock (R140 to R142) -/

theorem Module.aside_capture (m : Module) (r : WsRec) (h : Hdr) : m.Aside (m.capture r h) := by
  unfold Module.capture
  dsimp only
  refine .ite (fun _ => .refl m) fun _ => .ite (fun _ => m.aside_setDie _ _) fun _ => ?_
  refine .trans (.ite (fun _ => .refl m) fun _ => ?_) (Module.aside_setDie _ _ _)
  refine .trans ?_ (Module.aside_countWrite _ _ _)
  exact .of_eq rfl (fun _ h => h) rfl rfl rfl rfl

theorem Module.aside_record (m : Module) (b : BPkt) (r : WsRec) : m.Aside (m.record b r) := by
  unfold Module.record
  exact .ite (fun _ => .refl m) fun _ => (m.aside_capture _ _).trans (Module.aside_updBp _ _ fun _ => by rfl)

theorem Module.aside_captureLost (m : Module) (b : BPkt) (step : Nat) : m.Aside (m.captureLost b step) := by
  unfold Module.captureLost
  split <;> exact m.aside_record _ _

/-! ### Queues and copies (R174, R177, R178) -/

theorem Module.aside_newHead (m : Module) (k : Nat) : m.Aside (m.newHead k) := by
  unfold Module.newHead
  split
  · exact .of_eq rfl (fun _ h => h) rfl rfl rfl rfl
  · dsimp only
    refine .ite (fun _ => .of_eq rfl (fun _ h => h) rfl rfl rfl rfl) fun _ => ?_
    refine .trans ?_ (Module.aside_setSched _ _ _)
    exact .of_eq rfl (fun _ h => h) rfl rfl rfl rfl

theorem Module.aside_unqueue (m : Module) (id k : Nat) : m.Aside (m.unqueue id k) := by
  have h : m.Aside { m with net := { m.net with queues := m.net.queues.put k ((m.net.queues.get k).erase id) } } :=
    .of_eq rfl (fun _ h => h) rfl rfl rfl rfl
  unfold Module.unqueue
  exact .ite (fun _ => h.trans (Module.aside_newHead _ _)) fun _ => h

theorem Module.aside_closeTurn (m : Module) (p : Nat) : m.Aside (m.closeTurn p) := by
  unfold Module.closeTurn
  exact .ite (fun _ => m.aside_setSched _ _) fun _ => .refl m

theorem Module.aside_dropCopy (m : Module) (id : Nat) (c : Copy) : m.Aside (m.dropCopy id c) :=
  ((m.aside_unqueue _ _).trans (Module.aside_closeTurn _ _)).trans (Module.aside_updBp _ _ fun _ => by rfl)

theorem Module.aside_dropUnbegun (m : Module) (id : Nat) : m.Aside (m.dropUnbegun id) := by
  unfold Module.dropUnbegun
  split
  · exact .refl m
  · exact .foldl (fun n c => n.aside_dropCopy id c) _ (.refl m)

/-! ### Packets freed and marked (R106, R107, R123, R124) -/

/-- What is still to come of a packet that arrives is dropped. -/
theorem Module.aside_skipRest (m : Module) (p len : Nat) (h : (m.wire p).arriving ≠ none) : m.Aside (m.skipRest p len) :=
  m.aside_setWire p ⟨rfl, fun h' => absurd h' h⟩

theorem Module.aside_creditReturn (m : Module) (p v c : Nat) : m.Aside (m.creditReturn p v c) := by
  refine .trans (m.aside_setWire p ?_) (Module.credited_creditFlush _ p).aside
  exact ⟨rfl, fun h => ⟨h, rfl, rfl⟩⟩

/-- A packet is out of the buffer, and its cells are free. -/
def Module.cellsFreed (m : Module) (id : Nat) (b : BPkt) : Module :=
  let m := { m with net := { m.net with pkts := m.net.pkts.filter (·.id != id) } }
  let x := (m.die b.die).free b.chain
  m.setDie b.die { x with localQ := x.localQ.filter (· != id), early := x.early.filter (· != .buf id) }

/-- The charge of a packet's port is taken back, what is still to come of it is dropped, and its credit returns. -/
def Module.chargeReturned (m : Module) (id : Nat) (b : BPkt) : Module :=
  match b.inPort with
  | some p =>
    let w := m.wire p
    let m := m.setWire p { w with charged := w.charged - b.cells }
    let m := if w.arriving == some id then m.skipRest p b.pkt.h.len else m
    m.creditReturn p b.asArrived.vc b.cells
  | none => m

theorem Module.freeBp_some {m : Module} {id : Nat} {b : BPkt} (h : m.bp id = some b) :
    m.freeBp id = ((m.cellsFreed id b).chargeReturned id b).checkBacked b.die := by
  unfold Module.freeBp
  rw [h]
  rfl

theorem Module.freeBp_none {m : Module} {id : Nat} (h : m.bp id = none) : m.freeBp id = m := by
  unfold Module.freeBp
  rw [h]

theorem Module.aside_cellsFreed (m : Module) (id : Nat) (b : BPkt) : m.Aside (m.cellsFreed id b) := by
  refine .trans ?_ (Module.aside_setDie _ b.die _)
  exact .of_eq rfl (m.bp_filter _) rfl rfl rfl rfl

theorem Module.aside_chargeReturned (m : Module) (id : Nat) (b : BPkt) : m.Aside (m.chargeReturned id b) := by
  unfold Module.chargeReturned
  split
  next p _ =>
    dsimp only
    have hc : m.Aside (m.setWire p { m.wire p with charged := (m.wire p).charged - b.cells }) :=
      m.aside_setWire p ⟨rfl, fun h => ⟨h, rfl, rfl⟩⟩
    refine hc.trans (.trans (.ite (fun ha => Module.aside_skipRest _ _ _ ?_) fun _ => .refl _)
      (Module.aside_creditReturn _ _ _ _))
    rw [Module.wire_setWire_same]
    intro h
    simp [show (m.wire p).arriving = none from h] at ha
  · exact .refl m

theorem Module.aside_freeBp (m : Module) (id : Nat) : m.Aside (m.freeBp id) := by
  cases h : m.bp id with
  | none => rw [Module.freeBp_none h]; exact .refl m
  | some b =>
    rw [Module.freeBp_some h]
    exact ((m.aside_cellsFreed id b).trans (Module.aside_chargeReturned _ id b)).trans (Module.credited_checkBacked _ _).aside

theorem Module.aside_settle (m : Module) (id : Nat) : m.Aside (m.settle id) := by
  unfold Module.settle
  split
  · exact .ite (fun _ => m.aside_freeBp id) fun _ => .refl m
  · exact .refl m

theorem Module.aside_putMark (m : Module) (id reason : Nat) : m.Aside (m.putMark id reason) := by
  unfold Module.putMark
  split
  · exact .refl m
  · refine .ite (fun _ => .refl m) fun _ => .trans (.ite (fun _ => ?_) fun _ => ?_) (Module.aside_record _ _ _)
    · exact ((m.aside_updBp _ fun _ => by rfl).trans (Module.aside_count _ _ _ _)).trans
        ((Module.Reported.refl _).raise (by decide) _ _ _).aside
    · exact (m.aside_updBp _ fun _ => by rfl).trans (Module.aside_count _ _ _ _)

theorem Module.aside_markBad (m : Module) (id reason : Nat) : m.Aside (m.markBad id reason) := by
  unfold Module.markBad
  split
  · exact .refl m
  · refine .ite (fun _ => .ite (fun _ => ?_) fun _ => ?_) fun _ => ?_
    · exact ((m.aside_dropUnbegun id).trans (Module.aside_updBp _ _ fun _ => by rfl)).trans (Module.aside_putMark _ _ _)
    · exact (m.aside_dropUnbegun id).trans (Module.aside_updBp _ _ fun _ => by rfl)
    · exact ((m.aside_dropUnbegun id).trans (Module.aside_updBp _ _ fun _ => by rfl)).trans (Module.aside_freeBp _ _)

/-! ### A link that stops being ACTIVE (R156, R238) -/

theorem Module.aside_pinsLost (m : Module) (p : Nat) : m.Aside (m.pinsLost p) :=
  .foldl (fun n _ => .ite (fun _ => ((Module.Reported.refl n).event _ _).aside) fun _ => .refl n) _ (.refl m)

theorem Module.aside_dropMembers (m : Module) (p : Nat) (down : Bool) : m.Aside (m.dropMembers p down) := by
  refine .foldl (fun n id => ?_) _ (.refl m)
  dsimp only
  split
  · exact .refl n
  · refine .foldl (fun n c => ?_) _ (.refl n)
    refine .trans ?_ (Module.aside_settle _ _)
    refine .trans (.trans ?_ (Module.aside_dropCopy _ _ _)) (Module.aside_count _ _ _ _)
    exact .ite (fun _ => n.aside_count _ _ _) fun _ => .refl n

theorem Module.aside_leaveActive (m : Module) (p : Nat) (down : Bool) : m.Aside (m.leaveActive p down) := by
  unfold Module.leaveActive
  exact .ite (fun _ => (m.aside_dropMembers p down).trans (Module.aside_pinsLost _ p)) fun _ => m.aside_dropMembers p down

/-! ### The choice of the time source (R411 to R413) -/

/-- The time block's state changes, its clocks do not. -/
theorem Module.aside_time (m : Module) {t : Time} (hf : t.ftc = m.time.ftc) (hs : t.stepSum = m.time.stepSum) :
    m.Aside { m with time := t } :=
  ⟨fun _ => rfl, fun _ => .refl _, by simp only [Module.now, hf], by simp only [Module.ticks, hf, hs], rfl, .refl _, .refl _,
    fun _ h => h⟩

theorem Module.aside_timeState (m : Module) (st : Nat) : m.Aside (m.timeState st) := by
  unfold Module.timeState
  refine .ite (fun _ => .refl m) fun _ => ?_
  exact .trans (m.aside_time (t := { m.time with
      st := st, since := m.ticks, everLocked := m.time.everLocked || st == 2, locked := m.time.locked || st == 2 }) rfl rfl)
    (((Module.Reported.refl _).event _ _).level (by decide) _ _ _).aside

theorem Module.aside_takeSource (m : Module) (s : Nat) : m.Aside (m.takeSource s) := by
  unfold Module.takeSource
  exact .trans (m.aside_time (by rfl) (by rfl)) (Module.aside_count _ _ _ _)

theorem Module.aside_adopt (m : Module) (s : Nat) : m.Aside (m.adopt s) := by
  unfold Module.adopt
  refine .ite (fun _ => m.aside_takeSource s) fun _ => .ite (fun _ => ?_) fun _ => .ite (fun _ => ?_) fun _ => .refl m
  · exact (m.aside_takeSource s).trans (Module.aside_timeState _ _)
  · exact ((m.aside_takeSource s).trans (Module.aside_time _ (by rfl) (by rfl))).trans (Module.aside_timeState _ _)

theorem Module.aside_loseSource (m : Module) : m.Aside m.loseSource := by
  have h : m.Aside { m with time := { m.time with source := none, better := none, good := 0 } } := m.aside_time rfl rfl
  unfold Module.loseSource
  refine .ite (fun _ => h.trans (Module.aside_timeState _ _)) fun _ => .ite (fun _ => h.trans (Module.aside_time _ (by rfl) (by rfl)))
    fun _ => h

/-- The module once a source that is no candidate any more is dropped (R411). -/
def Module.sourceKept (m : Module) : Module :=
  match m.time.source with
  | some s => if m.candidate s then m else m.loseSource
  | none => m

/-- The module once it takes a source that it lacks, or notes a better one (R412, R413). -/
def Module.sourceChosen (m : Module) : Module :=
  match m.time.source, m.bestSource with
  | none, some s => m.adopt s
  | some s, some b =>
    let m := { m with time := { m.time with hops := m.hopsUnder s } }
    if b == s then { m with time := { m.time with better := none } }
    else
      match m.time.better with
      | some (c, _) => if c == b then m else { m with time := { m.time with better := some (b, m.ticks) } }
      | none => { m with time := { m.time with better := some (b, m.ticks) } }
  | _, none => m

theorem Module.reselect_eq (m : Module) : m.reselect = if m.time.st == 0 then m else m.sourceKept.sourceChosen := rfl

theorem Module.aside_sourceKept (m : Module) : m.Aside m.sourceKept := by
  unfold Module.sourceKept
  split
  · exact .ite (fun _ => .refl m) fun _ => m.aside_loseSource
  · exact .refl m

theorem Module.aside_sourceChosen (m : Module) : m.Aside m.sourceChosen := by
  unfold Module.sourceChosen
  split
  · exact m.aside_adopt _
  · refine .ite (fun _ => m.aside_time (by rfl) (by rfl)) fun _ => ?_
    split
    · exact .ite (fun _ => m.aside_time (by rfl) (by rfl)) fun _ => m.aside_time (by rfl) (by rfl)
    · exact m.aside_time (by rfl) (by rfl)
  · exact .refl m

theorem Module.aside_reselect (m : Module) : m.Aside m.reselect := by
  rw [Module.reselect_eq]
  exact .ite (fun _ => .refl m) fun _ => m.aside_sourceKept.trans (Module.aside_sourceChosen _)

end Sys2Proof.Machine
end

section
/-!
HELLO, the switch of widths and the cabling check (R60, R69 to R71, R76 to R78).
-/
namespace Sys2Proof.Machine
open Sys2Proof.Claims

/-! ### HELLO taken (R60, R69, R70) -/

/-- A header at the head of a received stream is the one that its first 32 bytes spell. -/
theorem Module.rxHead_some {m : Module} {p : Nat} {h : Hdr} (hh : m.rxHead p = some h) :
    h = Hdr.ofBytes ((m.wire p).rxq.take 32) := by
  unfold Module.rxHead at hh
  dsimp only at hh
  split at hh
  · exact (Option.some.inj hh).symm
  · exact nomatch hh

/-- A LINK_LOCAL packet taken has left the received stream, and nothing else has changed. -/
theorem Module.takeLocal_some {m n : Module} {p sub : Nat} {k : Pkt} (h : m.takeLocal p sub = some (n, k)) :
    n = m.rxDrop p k.h.linkLen := by
  unfold Module.takeLocal at h
  split at h
  · exact nomatch h
  next hd hh =>
    split at h
    · obtain ⟨rfl, rfl⟩ := Prod.mk.inj (Option.some.inj h)
      rw [Module.rxHead_some hh]
      rfl
    · exact nomatch h

theorem Module.rxDrop_frame (m : Module) (p len : Nat) :
    (m.rxDrop p len).link p = m.link p ∧ ((m.rxDrop p len).wire p).txFrame = (m.wire p).txFrame ∧
      OtherPorts p m (m.rxDrop p len) :=
  ⟨by simp [Module.rxDrop], by simp [Module.rxDrop], otherPorts_setWire m p _⟩

theorem hello_other {m n : Module} {p : Nat} {k pk : Pkt} (h : m.takeLocal p 2 = some (n, k)) (hk : pk ≠ k) :
    hello p pk m = m := by
  simp only [hello, Module.onPort, h, bne_iff_ne.mpr hk.symm, if_true, ite_self]

theorem hello_taken {m n : Module} {p st : Nat} {k : Pkt} (h : m.takeLocal p 2 = some (n, k)) (hst : 4 ≤ st)
    (hl : LinkIn m p st) : hello p k m = if linkLocalOk k then n.takeHello p k else n.count (portBlk p) 0x130 := by
  have h4 : ¬ (m.link p).st < 4 := by rw [hl.2.2.2]; omega
  rw [hello, Module.onPort_of_linkIn hl]
  simp only [h, h4, if_false, bne_self_eq_false, Bool.false_eq_true]

/-- The link of a port once it has heard a HELLO. -/
def Module.heard (m : Module) (p : Nat) (k : Pkt) : Link :=
  let l := m.link p
  let f (o n : Nat) : Nat := fieldBE k.pl o n
  let echoValid := bitAt (f 2 1) 0
  let echo := echoValid && f 16 8 == ownHash && f 24 4 % 2 ^ 17 == m.chip && f 28 1 == p
  let nb := { l.nb with
    chip := f 4 4 % 2 ^ 17, port := f 3 1, kind := f 1 1 % 4, hash := f 8 8, coord := f 32 3, timeCapable := bitAt (f 2 1) 1,
    seen := true, helloAt := m.ticks, lost := false, echoed := l.nb.echoed || echo }
  let nb := if l.st == 4 then
    { nb with mySwitch := some (l.nb.mySwitch.getD (((m.wire p).txFrame + 256) % 65536)),
              peerSwitch := if echoValid then some (f 54 2) else nb.peerSwitch } else nb
  { l with nb := nb, peerGood := f 29 1 % 16 }

/-- The module once a port has heard a HELLO: the link, and the neighbour's credits where they are still to be taken. -/
def Module.helloHeard (m : Module) (p : Nat) (k : Pkt) : Module :=
  let l := m.link p
  let m := m.setLink p (m.heard p k)
  let w := m.wire p
  if l.fromDown && (l.st == 4 || credSum w.peerAdv == 0) then
    m.setWire p { w with peerAdv := (List.range 9).map fun i => fieldBE k.pl (36 + 2 * i) 2 } else m

theorem Module.takeHello_eq {m : Module} {p : Nat} (hst : (m.link p).st ≠ 6) (k : Pkt) : m.takeHello p k = m.helloHeard p k :=
  if_neg (by simp [hst])

/-- A HELLO heard changes its own port alone. -/
theorem Module.helloHeard_link (m : Module) (p : Nat) (k : Pkt) :
    (m.helloHeard p k).link p = m.heard p k ∧ OtherPorts p m (m.helloHeard p k) := by
  unfold Module.helloHeard
  dsimp only
  split
  · exact ⟨(Module.link_setWire _ _ _ _).trans (Module.link_setLink_same _ _ _),
      (otherPorts_setLink m p _).setWire _⟩
  · exact ⟨Module.link_setLink_same _ _ _, otherPorts_setLink m p _⟩

theorem Module.heard_hello {m : Module} {p : Nat} (hst : (m.link p).st = 4) (k : Pkt) :
    (m.heard p k).st = 4 ∧ (m.heard p k).nb.seen = true ∧ (m.heard p k).nb.chip = fieldBE k.pl 4 4 % 2 ^ 17 ∧
      (m.heard p k).nb.port = fieldBE k.pl 3 1 ∧ (m.heard p k).nb.hash = fieldBE k.pl 8 8 ∧
      (m.heard p k).nb.coord = fieldBE k.pl 32 3 ∧ (m.heard p k).peerGood = fieldBE k.pl 29 1 % 16 ∧
      (m.heard p k).nb.mySwitch = some ((m.link p).nb.mySwitch.getD (((m.wire p).txFrame + 256) % 65536)) := by
  simp [Module.heard, hst]

theorem Module.heard_quarantined {m : Module} {p : Nat} (hst : (m.link p).st = 7) (k : Pkt) :
    (m.heard p k).st = 7 ∧ (m.heard p k).checkResult = (m.link p).checkResult ∧ (m.heard p k).nb.helloAt = m.ticks := by
  simp [Module.heard, hst]

/-! ### Links through what is discarded, reported and chosen -/

/-- A change beside one link: that link becomes what is given, every other stays, the keep file holds its plan, and no time
passes. -/
structure Module.LinkSet (p : Nat) (x : Link) (a b : Module) : Prop where
  same : b.link p = x
  others : ∀ q, q ≠ p → b.link q = a.link q
  keep : a.keep.Held b.keep
  now : b.now = a.now

theorem Module.LinkSet.aside {p : Nat} {x : Link} {a b c : Module} (h : a.LinkSet p x b) (h' : b.Aside c) : a.LinkSet p x c :=
  ⟨(h'.link p).trans h.same, fun q hq => (h'.link q).trans (h.others q hq), h.keep.trans h'.keep, h'.now.trans h.now⟩

theorem Module.LinkSet.trans {p : Nat} {x y : Link} {a b c : Module} (h : a.LinkSet p x b) (h' : b.LinkSet p y c) :
    a.LinkSet p y c :=
  ⟨h'.same, fun q hq => (h'.others q hq).trans (h.others q hq), h.keep.trans h'.keep, h'.now.trans h.now⟩

theorem Module.linkSet_setLink (m : Module) (p : Nat) (x : Link) : m.LinkSet p x (m.setLink p x) :=
  ⟨m.link_setLink_same p x, fun _ hq => m.link_setLink_other hq x, .refl _, rfl⟩

theorem Module.LinkSet.sent {p : Nat} {x : Link} {a b c : Module} (h : a.LinkSet p x b) (h' : b.Sent p c) : a.LinkSet p x c :=
  ⟨(h'.link p).trans h.same, fun q hq => (h'.link q).trans (h.others q hq), h'.keep ▸ h.keep, h'.now.trans h.now⟩

/-- A change of the packets' net or of a wire leaves every link. -/
theorem Module.LinkSet.of_links {p : Nat} {x : Link} {a b c : Module} (h : a.LinkSet p x b) (hl : ∀ q, c.link q = b.link q)
    (hk : c.keep = b.keep) (ht : c.time = b.time) : a.LinkSet p x c :=
  ⟨(hl p).trans h.same, fun q hq => (hl q).trans (h.others q hq), hk ▸ h.keep, by simp only [Module.now, ht]; exact h.now⟩

/-- A link that enters ACTIVE changes its own state alone, among the links. -/
theorem Module.enterActive_links (m : Module) (p : Nat) :
    m.LinkSet p { m.link p with st := 6, since := m.ticks } (m.enterActive p) := by
  have h : m.LinkSet p { m.link p with st := 6, since := m.ticks } (m.enterLink p 6) := m.linkSet_setLink p _
  unfold Module.enterActive
  dsimp only
  refine .aside ?_ (Module.aside_reselect _)
  have hs {n : Module} (hn : m.LinkSet p { m.link p with st := 6, since := m.ticks } n) (again : Bool) :
      m.LinkSet p { m.link p with st := 6, since := m.ticks } (if again then n.resendSegs p else n) := by
    split
    · exact hn.sent (n.sent_resendSegs p)
    · exact hn
  refine hs (.aside (.aside ?_ (Module.credited_creditFlush _ p).aside) (Module.credited_checkBacked _ _).aside) _
  refine .of_links ?_ (fun q => Module.link_setWire _ p q _) rfl rfl
  split
  · exact h.of_links (fun _ => rfl) rfl rfl
  · exact h.of_links (fun _ => rfl) rfl rfl

/-- Whether a cabling result quarantines its port: a mismatch or a swap that the plan takes strictly (R76). -/
def Module.strict (m : Module) (p result : Nat) : Bool := (result == 3 || result == 4) && bitAt (m.plan p) 26

/-- A cabling result that takes effect stands in its port's link, which is then ACTIVE, or QUARANTINED where it is strict; what
else it was stays, and so does every other link. -/
theorem Module.finishCheck_links (m : Module) (p result : Nat) :
    ∃ x : Link, m.LinkSet p x (m.finishCheck p result) ∧ x.checkResult = result ∧ x.holdUntil = none ∧
      x.width = (m.link p).width ∧ x.st = if m.strict p result then 7 else 6 := by
  have h := m.linkSet_setLink p { m.link p with checkResult := result, holdUntil := none }
  unfold Module.finishCheck
  dsimp only
  generalize hn : m.setLink p { m.link p with checkResult := result, holdUntil := none } = n at h ⊢
  have hstrict : ((result == 3 || result == 4) && bitAt (n.plan p) 26) = m.strict p result := by rw [← hn]; rfl
  rw [hstrict]
  by_cases hs : m.strict p result = true
  · rw [if_pos hs, if_pos hs]
    have hl : m.LinkSet p { m.link p with checkResult := result, holdUntil := none }
        (if (n.link p).st == 6 then n.leaveActive p else n) := by
      split
      · exact h.aside (n.aside_leaveActive p false)
      · exact h
    generalize (if (n.link p).st == 6 then n.leaveActive p else n) = k at hl ⊢
    split
    next h7 => exact ⟨_, hl, rfl, rfl, rfl, by simpa [hl.same] using h7⟩
    · exact ⟨_, (hl.trans (k.linkSet_setLink p _)).aside (Module.aside_reselect _), by rw [hl.same], by rw [hl.same],
        by rw [hl.same], rfl⟩
  · rw [if_neg hs, if_neg hs]
    split
    next h6 => exact ⟨_, h, rfl, rfl, rfl, by simpa [h.same] using h6⟩
    · exact ⟨_, h.trans (n.enterActive_links p), by rw [h.same], by rw [h.same], by rw [h.same], rfl⟩

/-! ### CHECK (R76, R77, R535) -/

/-- A link that has left HELLO at a width, and is in CHECK, ACTIVE or QUARANTINED. -/
def Link.Past (w : Nat) (x : Link) : Prop := x.width = w ∧ 5 ≤ x.st ∧ x.st ≤ 7

/-- A cabling result of any port leaves a link past HELLO. -/
theorem Module.past_finishCheck {m : Module} {p w : Nat} (h : (m.link p).Past w) (q result : Nat) :
    ((m.finishCheck q result).link p).Past w := by
  obtain ⟨x, hx, -, -, hw, hst⟩ := m.finishCheck_links q result
  by_cases hq : p = q
  · subst hq
    rw [hx.same]
    refine ⟨hw.trans h.1, ?_⟩
    rw [hst]
    split <;> omega
  · rw [hx.others p hq]
    exact h

theorem Module.reported_portEvent (m : Module) (p code : Nat) : m.Reported (m.portEvent p code) :=
  (Module.Reported.refl m).event _ _

theorem Module.link_portEvent (m : Module) (p code q : Nat) : (m.portEvent p code).link q = m.link q :=
  (m.reported_portEvent p code).credited.link q

/-- A link changed to one past HELLO at the same width, or another link changed. -/
theorem Module.past_setLink {m : Module} {p w : Nat} (h : (m.link p).Past w) (q : Nat) {x : Link}
    (hx : q = p → x.Past w) : ((m.setLink q x).link p).Past w := by
  by_cases hq : p = q
  · subst hq
    rw [Module.link_setLink_same]
    exact hx rfl
  · rw [Module.link_setLink_other m hq]
    exact h

/-- A swap found for a partner leaves the link. -/
theorem Module.past_finishSwap {m : Module} {p w b : Nat} (h : (m.link p).Past w) (hb : b ≠ p) :
    ((m.finishSwap b).link p).Past w := by
  unfold Module.finishSwap
  split
  · exact m.past_setLink h b fun e => absurd e hb
  · exact Module.past_finishCheck h b 4

theorem Module.past_check {m : Module} {p w : Nat} (h : (m.link p).Past w) : ((m.check p).link p).Past w := by
  have h1 : ((m.setLink p { m.link p with foundValid := false, swapPort := 0 }).link p).Past w := m.past_setLink h p fun _ => h
  unfold Module.check
  dsimp only
  generalize m.setLink p { m.link p with foundValid := false, swapPort := 0 } = n at h1 ⊢
  split
  · rw [Module.link_portEvent]
    exact Module.past_finishCheck h1 p 6
  split
  · rw [Module.link_portEvent]
    exact Module.past_finishCheck h1 p 2
  split
  · rw [Module.link_portEvent]
    exact Module.past_finishCheck h1 p 5
  split
  · exact Module.past_finishCheck h1 p 1
  split
  next b hb =>
    have hbp : b ≠ p := by
      have := List.find?_some hb
      simp only [Bool.and_eq_true, bne_iff_ne] at this
      exact this.1.1
    have h2 : (((n.setLink p { n.link p with swapPort := b, foundValid := true }).link p)).Past w :=
      n.past_setLink h1 p fun _ => h1
    generalize n.setLink p { n.link p with swapPort := b, foundValid := true } = k at h2 ⊢
    rw [Module.link_portEvent]
    refine Module.past_finishSwap (Module.past_finishCheck (k.past_setLink h2 b fun e => absurd e hbp) p 4) hbp
  · exact n.past_setLink h1 p fun _ => h1

theorem Module.past_runCheck {m : Module} {p w : Nat} (h : (m.link p).Past w) : ((m.runCheck p).link p).Past w := by
  unfold Module.runCheck
  dsimp only
  split
  · have h1 : ((m.setLink p { m.link p with nb := { (m.link p).nb with before := none } }).link p).Past w :=
      m.past_setLink h p fun _ => h
    generalize m.setLink p { m.link p with nb := { (m.link p).nb with before := none } } = n at h1 ⊢
    split
    · split
      · exact h1
      · exact Module.past_finishCheck h1 p _
    · exact Module.past_check (by rw [Module.link_portEvent]; exact h1)
  · exact Module.past_check h

/-! ### The rows (R70, R71, R74, R77, R78) -/

/-- A port that has left HELLO for DOWN. -/
theorem Module.enterDown_st {m : Module} {p : Nat} (h : (m.link p).st ≠ 0) : ((m.enterDown p).link p).st = 0 := by
  unfold Module.enterDown
  dsimp only
  rw [if_neg (by simpa using h), (Module.aside_reselect _).link, Module.link_checkBacked]
  simp [Module.link, Module.setWire, Module.setPort, Module.setLink, Module.port]

/-- The width that a port leaves HELLO with, and the lanes. -/
def Link.widened (l : Link) (use : List Nat) : Link := { l with width := use.length, lanes := use.foldl (fun a i => a + 2 ^ i) 0 }

theorem switchFrameReached_eq {m : Module} {p f g : Nat} (h : LinkIn m p 4) (he : (m.link p).nb.echoed = true)
    (hf : (m.link p).nb.mySwitch = some f) (hg : (m.link p).nb.peerSwitch = some g)
    (hft : frameReached f (m.wire p).txFrame = true) (hgt : frameReached g (m.wire p).rxFrame = true) :
    switchFrameReached p m = if (m.agreed p).isEmpty then m.enterDown p else
      let n := (m.setLink p ((m.link p).widened (m.agreed p))).enterLink p 5
      (if !(m.link p).fromDown && (m.agreed p).length < (m.link p).width then n.portEvent p 0x0205 else n).runCheck p := by
  rw [switchFrameReached, Module.onPort_of_linkIn h]
  dsimp only
  rw [if_pos (by simp [h.2.2.2, he, hf, hg, hft, hgt])]
  rfl

theorem switchFrameReached_down {m : Module} {p f g : Nat} (h : LinkIn m p 4) (he : (m.link p).nb.echoed = true)
    (hf : (m.link p).nb.mySwitch = some f) (hg : (m.link p).nb.peerSwitch = some g)
    (hft : frameReached f (m.wire p).txFrame = true) (hgt : frameReached g (m.wire p).rxFrame = true)
    (ha : m.agreed p = []) : ((switchFrameReached p m).link p).st = 0 := by
  rw [switchFrameReached_eq h he hf hg hft hgt, ha]
  exact Module.enterDown_st (by rw [h.2.2.2]; decide)

theorem switchFrameReached_past {m : Module} {p f g : Nat} (h : LinkIn m p 4) (he : (m.link p).nb.echoed = true)
    (hf : (m.link p).nb.mySwitch = some f) (hg : (m.link p).nb.peerSwitch = some g)
    (hft : frameReached f (m.wire p).txFrame = true) (hgt : frameReached g (m.wire p).rxFrame = true)
    (ha : m.agreed p ≠ []) : ((switchFrameReached p m).link p).Past (m.agreed p).length := by
  rw [switchFrameReached_eq h he hf hg hft hgt, if_neg (by simpa using ha)]
  have hn : (((m.setLink p ((m.link p).widened (m.agreed p))).enterLink p 5).link p).Past (m.agreed p).length := by
    rw [Module.link_enterLink_same, Module.link_setLink_same]
    exact ⟨rfl, by simp, by simp⟩
  refine Module.past_runCheck ?_
  split
  · rw [Module.link_portEvent]
    exact hn
  · exact hn

/-- The result is MISMATCH, in CHECK as in ACTIVE. -/
theorem Module.mismatch_links (m : Module) (p : Nat) :
    ∃ x : Link, m.LinkSet p x (m.mismatch p) ∧ x.checkResult = 3 ∧ x.holdUntil = none ∧
      x.st = if bitAt (m.plan p) 26 then 7 else 6 := by
  unfold Module.mismatch
  dsimp only
  generalize leastBelow 256 _ = found
  have h := m.linkSet_setLink p { m.link p with swapPort := found.getD 0, foundValid := found.isSome }
  obtain ⟨x, hx, hr, hh, -, hst⟩ := Module.finishCheck_links
    (m.setLink p { m.link p with swapPort := found.getD 0, foundValid := found.isSome }) p 3
  exact ⟨x, (h.trans hx).aside (Module.reported_portEvent _ p _).aside, hr, hh, hst⟩

theorem swapHoldExpiry_eq {m : Module} {p st t : Nat} (h : LinkIn m p st) (hst : st = 5 ∨ st = 6)
    (ht : (m.link p).holdUntil = some t) : swapHoldExpiry p m = (m.pass t).mismatch p := by
  rw [swapHoldExpiry, Module.onPort_of_linkIn h]
  have hs := h.2.2.2
  rcases hst with rfl | rfl <;> simp [ht, hs]

/-- A port whose neighbour is found silent at an instant. -/
def Module.silent (m : Module) (p t : Nat) : Module :=
  let n := m.pass t
  (n.setLink p { n.link p with nb := { (m.link p).nb with lost := true } }).portEvent p 0x0204

theorem helloLost_eq {m : Module} {p st : Nat} (h : LinkIn m p st) (hst : 5 ≤ st) (hl : (m.link p).nb.lost = false) :
    helloLost p m = m.silent p ((m.link p).nb.helloAt + ms 300) := by
  rw [helloLost, Module.onPort_of_linkIn h]
  dsimp only
  rw [if_pos (by simp [h.2.2.2, hst, hl])]
  rfl

theorem Module.silent_frame (m : Module) (p t : Nat) :
    (m.silent p t).link p = { m.link p with nb := { (m.link p).nb with lost := true } } ∧
      (m.silent p t).wire p = m.wire p ∧ OtherPorts p m (m.silent p t) ∧ Waited m (m.silent p t) t := by
  have hr : ((m.pass t).setLink p { (m.pass t).link p with nb := { (m.link p).nb with lost := true } }).Reported
      (m.silent p t) := Module.reported_portEvent _ p _
  refine ⟨?_, ?_, ?_, ?_⟩
  · rw [hr.credited.link p, Module.link_setLink_same]
    simp only [Module.link, Module.port, Module.pass_ports]
  · have hw : (m.silent p t).wire p = ((m.pass t).setLink p { (m.pass t).link p with
        nb := { (m.link p).nb with lost := true } }).wire p := by simp only [Module.wire, Module.port, hr.ports]
    rw [hw, Module.wire_setLink]
    simp only [Module.wire, Module.port, Module.pass_ports]
  · exact ((otherPorts_pass m p t).setLink _).trans (.of_ports_eq hr.ports)
  · exact hr.credited.now.trans (m.now_pass t)

end Sys2Proof.Machine

namespace Sys2Proof.Proofs
open Sys2Proof.Machine Sys2Proof.Claims

/-- Settles O9: a HELLO heard changes its link alone; every result of the check leaves its port past HELLO at the agreed width;
and what the check discards, reports and chooses stands beside the links. -/
theorem helloAndCheck : Obligations.HelloAndCheck := by
  unfold Obligations.HelloAndCheck
  refine ⟨fun s p k n hn => ?_, fun s p => ⟨fun f g h he hf hg hft hgt => ?_, fun st t hst h ht => ?_, fun st hst h hl => ?_⟩⟩
  · have hlen := Module.takeLocal_some hn
    obtain ⟨hlink, hframe, ho⟩ := s.m.rxDrop_frame p k.h.linkLen
    rw [← hlen] at hlink hframe ho
    refine ⟨fun pk hk => completes_withM (hello p pk) rfl (hello_other hn hk), fun st hst h hk => ?_, fun h hk => ?_, fun h hk => ?_⟩
    · refine completes_withM (hello p k) rfl ?_
      rw [hello_taken hn hst h, if_neg (by simp [hk])]
    · refine completes_withM (hello p k) rfl ?_
      have hst : (n.link p).st = 4 := by rw [hlink, h.2.2.2]
      obtain ⟨hl, ho'⟩ := n.helloHeard_link p k
      rw [hello_taken hn (Nat.le_refl 4) h, if_pos hk, Module.takeHello_eq (by rw [hst]; decide), hl, ← hlink, ← hframe]
      obtain ⟨h1, h2, h3, h4, h5, h6, h7, h8⟩ := Module.heard_hello hst k
      exact ⟨h1, h2, h3, h4, h5, h6, h7, h8, ho.trans ho'⟩
    · refine completes_withM (hello p k) rfl ?_
      have hst : (n.link p).st = 7 := by rw [hlink, h.2.2.2]
      obtain ⟨hl, ho'⟩ := n.helloHeard_link p k
      rw [hello_taken hn (by decide) h, if_pos hk, Module.takeHello_eq (by rw [hst]; decide), hl, ← hlink]
      obtain ⟨h1, h2, h3⟩ := Module.heard_quarantined hst k
      exact ⟨h1, h2, h3.trans (by rw [hlen]; rfl), ho.trans ho'⟩
  · exact completes_withM (switchFrameReached p) rfl
      ⟨switchFrameReached_down h he hf hg hft hgt, switchFrameReached_past h he hf hg hft hgt⟩
  · refine completes_withM (swapHoldExpiry p) rfl ?_
    rw [swapHoldExpiry_eq h hst ht]
    obtain ⟨x, hx, hr, hh, hs⟩ := (s.m.pass t).mismatch_links p
    rw [hx.same]
    exact ⟨hr, hh, hx.now.trans (s.m.now_pass t), hs⟩
  · refine completes_withM (helloLost p) rfl ?_
    rw [helloLost_eq h hst hl]
    obtain ⟨hlink, hw, ho, hnow⟩ := s.m.silent_frame p ((s.m.link p).nb.helloAt + ms 300)
    rw [hlink]
    exact ⟨rfl, h.2.2.2, hw, ho, hnow⟩

end Sys2Proof.Proofs
end

section
/-!
TIME packets and the discipline of the FTC (R60, R80, R409, R411 to R416).
-/
namespace Sys2Proof.Machine
open Sys2Proof.Claims

/-! ### What a new choice of the source leaves (R411 to R413) -/

/-- The registers of the time block that configure it: those below its counters. -/
def Module.SameTimeRegs (a b : Module) : Prop := ∀ off lo, off < 0x100 → lo < 64 → b.reg (mgtBlk 2) off lo = a.reg (mgtBlk 2) off lo

/-- What the time block's bookkeeping leaves: the ports, the FTC with its steps, the discipline, the known master, the keep
file but for the history, the block's own registers, and the outputs. -/
structure Module.Rechosen (a b : Module) : Prop where
  ports : b.ports = a.ports
  ftc : b.time.ftc = a.time.ftc
  stepSum : b.time.stepSum = a.time.stepSum
  offset : b.time.offset = a.time.offset
  freq : b.time.freq = a.time.freq
  master : b.time.ptpMaster = a.time.ptpMaster
  keep : a.keep.Held b.keep
  regs : a.SameTimeRegs b
  out : b.out = a.out

theorem Module.Rechosen.refl (a : Module) : a.Rechosen a := ⟨rfl, rfl, rfl, rfl, rfl, rfl, .refl _, fun _ _ _ _ => rfl, rfl⟩

theorem Module.Rechosen.trans {a b c : Module} (h : a.Rechosen b) (h' : b.Rechosen c) : a.Rechosen c :=
  ⟨h'.ports.trans h.ports, h'.ftc.trans h.ftc, h'.stepSum.trans h.stepSum, h'.offset.trans h.offset, h'.freq.trans h.freq,
    h'.master.trans h.master, h.keep.trans h'.keep, fun o l ho hl => (h'.regs o l ho hl).trans (h.regs o l ho hl),
    h'.out.trans h.out⟩

theorem not_reporting_time : ¬ Reporting (mgtBlk 2) := by
  unfold Reporting mgtBlk
  omega

theorem Module.Reported.rechosen {a b : Module} (h : a.Reported b) : a.Rechosen b :=
  ⟨h.ports, by rw [h.time], by rw [h.time], by rw [h.time], by rw [h.time], by rw [h.time], h.keep,
    fun o l ho hl => h.regs _ o l not_reporting_time (by omega) hl, h.out⟩

/-- A counter of the time block counts. -/
theorem Module.rechosen_count (m : Module) {off : Nat} (n : Nat) (h : 0x100 ≤ off) (ho : off < 2 ^ 26) :
    m.Rechosen (m.count (mgtBlk 2) off n) := by
  refine ⟨by simp, by simp, by simp, by simp, by simp, by simp, by simp [Keep.Held.refl], fun o l hlt hl => ?_, by simp⟩
  obtain ⟨v, h'⟩ | h' := m.count_cases (mgtBlk 2) off n <;> rw [h']
  exact m.reg_setReg_other _ _ _ _ fun e => by
    have := (regKey_inj (by omega) hl ho (by decide) e).2.1
    omega

/-- The states and the source of the time block change. -/
theorem Module.rechosen_time (m : Module) {t : Time} (hf : t.ftc = m.time.ftc) (hs : t.stepSum = m.time.stepSum)
    (ho : t.offset = m.time.offset) (hq : t.freq = m.time.freq) (hm : t.ptpMaster = m.time.ptpMaster) :
    m.Rechosen { m with time := t } :=
  ⟨rfl, hf, hs, ho, hq, hm, .refl _, fun _ _ _ _ => rfl, rfl⟩

theorem Module.rechosen_timeState (m : Module) (st : Nat) : m.Rechosen (m.timeState st) := by
  unfold Module.timeState
  split
  · exact .refl m
  · exact .trans (m.rechosen_time (t := { m.time with
        st := st, since := m.ticks, everLocked := m.time.everLocked || st == 2, locked := m.time.locked || st == 2 })
        rfl rfl rfl rfl rfl)
      (((Module.Reported.refl _).event _ _).level (by decide) _ _ _).rechosen

theorem Module.rechosen_takeSource (m : Module) (s : Nat) : m.Rechosen (m.takeSource s) := by
  unfold Module.takeSource
  refine .trans ?_ (Module.rechosen_count _ 1 (by decide) (by decide))
  exact m.rechosen_time rfl rfl rfl rfl rfl

theorem Module.rechosen_adopt (m : Module) (s : Nat) : m.Rechosen (m.adopt s) := by
  have h := m.rechosen_takeSource s
  unfold Module.adopt
  split
  · exact h
  split
  · exact h.trans (Module.rechosen_timeState _ _)
  split
  · refine h.trans (.trans ?_ (Module.rechosen_timeState _ _))
    exact Module.rechosen_time _ rfl rfl rfl rfl rfl
  · exact .refl m

theorem Module.rechosen_loseSource (m : Module) : m.Rechosen m.loseSource := by
  have h : m.Rechosen { m with time := { m.time with source := none, better := none, good := 0 } } :=
    m.rechosen_time rfl rfl rfl rfl rfl
  unfold Module.loseSource
  dsimp only
  split
  · exact h.trans (Module.rechosen_timeState _ _)
  split
  · refine h.trans ?_
    exact Module.rechosen_time _ rfl rfl rfl rfl rfl
  · exact h

theorem Module.rechosen_sourceKept (m : Module) : m.Rechosen m.sourceKept := by
  unfold Module.sourceKept
  split
  · split
    · exact .refl m
    · exact m.rechosen_loseSource
  · exact .refl m

/-- A source that stays: at most its hops and a better candidate are noted. -/
theorem Module.sourceChosen_kept {m : Module} {s : Nat} (h : m.time.source = some s) :
    ∃ hops better, m.sourceChosen = { m with time := { m.time with hops := hops, better := better } } := by
  unfold Module.sourceChosen
  rw [h]
  cases m.bestSource with
  | none => exact ⟨_, _, rfl⟩
  | some b =>
    dsimp only
    split
    · exact ⟨_, _, rfl⟩
    split
    · split <;> exact ⟨_, _, rfl⟩
    · exact ⟨_, _, rfl⟩

theorem Module.rechosen_sourceChosen (m : Module) : m.Rechosen m.sourceChosen := by
  cases h : m.time.source with
  | some s =>
    obtain ⟨_, _, e⟩ := Module.sourceChosen_kept h
    rw [e]
    exact m.rechosen_time rfl rfl rfl rfl rfl
  | none =>
    unfold Module.sourceChosen
    rw [h]
    cases m.bestSource with
    | none => exact .refl m
    | some s => exact m.rechosen_adopt s

theorem Module.rechosen_reselect (m : Module) : m.Rechosen m.reselect := by
  rw [Module.reselect_eq]
  split
  · exact .refl m
  · exact m.rechosen_sourceKept.trans (Module.rechosen_sourceChosen _)

section
variable {a b : Module} (h : a.Rechosen b)
include h

theorem Module.Rechosen.now : b.now = a.now := h.ftc
theorem Module.Rechosen.ticks : b.ticks = a.ticks := by simp only [Module.ticks, h.ftc, h.stepSum]
theorem Module.Rechosen.port (q : Nat) : b.port q = a.port q := by simp only [Module.port, h.ports]
theorem Module.Rechosen.link (q : Nat) : b.link q = a.link q := by simp only [Module.link, h.port]
theorem Module.Rechosen.otherPorts (p : Nat) : OtherPorts p a b := .of_ports_eq h.ports

theorem Module.Rechosen.slewLim : b.slewLim = a.slewLim := by
  unfold Module.slewLim
  rw [h.regs 0x010 0 (by decide) (by decide)]

/-- Whether a neighbour is a candidate rests on nothing that a choice changes. -/
theorem Module.Rechosen.candPort (p : Nat) : b.candPort p = a.candPort p := by
  unfold Module.candPort Module.fabricEn Module.active
  rw [h.port, h.link, h.ticks, h.keep.field (o := 0x018) 1 1 (by decide), h.regs 0x008 0 (by decide) (show 0 < 64 by decide)]

theorem Module.Rechosen.candidate (s : Nat) : b.candidate s = a.candidate s := by
  unfold Module.candidate Module.ptpEn
  rw [h.candPort, h.master, h.keep.field (o := 0x018) 0 0 (by decide)]

end

/-! ### The source after a choice (R411 to R413) -/

theorem mem_sortBy {α : Type} {k : α → Nat} {x : α} {l : List α} (h : x ∈ sortBy k l) : x ∈ l := by
  have hf (r acc : List α) (hx : x ∈ r.foldl (fun acc a => sortBy.insertLe k a acc) acc) : x ∈ r ∨ x ∈ acc := by
    induction r generalizing acc with
    | nil => exact .inr hx
    | cons a r ih =>
      rcases ih _ hx with h | h
      · exact .inl (by simp [h])
      · rcases mem_insertLe h with rfl | h
        · exact .inl (by simp)
        · exact .inr h
  simpa using hf l.reverse [] h

/-- The best source is a candidate. -/
theorem Module.candidate_of_bestSource {m : Module} {s : Nat} (h : m.bestSource = some s) : m.candidate s = true := by
  unfold Module.bestSource at h
  split at h
  next hc => rwa [← Option.some.inj h]
  next =>
    have hm := List.mem_filter.mp (mem_sortBy (List.mem_of_mem_head? h))
    simp only [Bool.and_eq_true, decide_eq_true_eq] at hm
    have hs : (s == 256) = false := by
      rw [beq_eq_false_iff_ne]
      omega
    unfold Module.candidate
    rw [hs]
    exact hm.2.2

theorem Module.timeState_source (m : Module) (st : Nat) : (m.timeState st).time.source = m.time.source := by
  unfold Module.timeState
  split
  · rfl
  · dsimp only
    rw [(((Module.Reported.refl _).event _ _).level (src := 46) (by decide) _ _ _).time]

theorem Module.loseSource_source (m : Module) : m.loseSource.time.source = none := by
  unfold Module.loseSource
  dsimp only
  split
  · exact Module.timeState_source _ _
  split <;> rfl

theorem Module.takeSource_source (m : Module) (s : Nat) : (m.takeSource s).time.source = some s := by
  simp [Module.takeSource]

/-- A source that is adopted is the source, and none is where none is adopted. -/
theorem Module.adopt_source {m : Module} (h : m.time.source = none) (s : Nat) :
    (m.adopt s).time.source = some s ∨ (m.adopt s).time.source = none := by
  unfold Module.adopt
  split
  · exact .inl (m.takeSource_source s)
  split
  · exact .inl ((Module.timeState_source _ _).trans (m.takeSource_source s))
  split
  · exact .inl ((Module.timeState_source _ _).trans (m.takeSource_source s))
  · exact .inr h

/-- A source that is still the source after a choice has kept its samples: one that was dropped is no candidate, and is not
adopted again. -/
theorem Module.reselect_deltas {m : Module} {s : Nat} (h : m.time.source = some s) (h' : m.reselect.time.source = some s) :
    m.reselect.time.deltas = m.time.deltas := by
  rw [Module.reselect_eq] at h' ⊢
  split
  · rfl
  next hst =>
    rw [if_neg hst] at h'
    by_cases hc : m.candidate s = true
    · have hk : m.sourceKept = m := by simp [Module.sourceKept, h, hc]
      obtain ⟨_, _, e⟩ := Module.sourceChosen_kept h
      rw [hk, e]
    · have hk : m.sourceKept = m.loseSource := by simp [Module.sourceKept, h, hc]
      rw [hk] at h'
      have hn := m.loseSource_source
      unfold Module.sourceChosen at h'
      rw [hn] at h'
      cases hb : m.loseSource.bestSource with
      | none =>
        rw [hb] at h'
        exact nomatch hn.symm.trans h'
      | some b =>
        rw [hb] at h'
        rcases Module.adopt_source hn b with ha | ha
        · obtain rfl := Option.some.inj (ha.symm.trans h')
          exact absurd (m.rechosen_loseSource.candidate b ▸ Module.candidate_of_bestSource hb) hc
        · exact nomatch ha.symm.trans h'

/-- A source that is a candidate stays the source, in the same state, with its samples. -/
theorem Module.reselect_candidate {m : Module} {s : Nat} (h : m.time.source = some s) (hc : m.candidate s = true) :
    m.reselect.time.source = some s ∧ m.reselect.time.st = m.time.st ∧ m.reselect.time.deltas = m.time.deltas := by
  rw [Module.reselect_eq]
  split
  · exact ⟨h, rfl, rfl⟩
  · have hk : m.sourceKept = m := by simp [Module.sourceKept, h, hc]
    obtain ⟨_, _, e⟩ := Module.sourceChosen_kept h
    rw [hk, e]
    exact ⟨h, rfl, rfl⟩

/-! ### TIME taken (R60, R80, R411) -/

/-- A TIME packet kept as what the neighbour says, and counted. -/
def Module.timeHeard (m : Module) (p : Nat) (k : Pkt) : Module :=
  (m.setPort p { m.port p with
    timeAt := some m.ticks, timeHops := fieldBE k.pl 4 1, timeValid := bitAt (fieldBE k.pl 5 1) 0 }).count (mgtBlk 2) 0x500

theorem Module.takeTime_eq (m : Module) (p : Nat) (k : Pkt) : m.takeTime p k = (m.timeHeard p k).reselect := rfl

@[simp] theorem Module.port_count (m : Module) (blk off n q : Nat) : (m.count blk off n).port q = m.port q := by
  simp only [Module.port, Module.count_ports]

theorem Module.port_timeHeard (m : Module) (p : Nat) (k : Pkt) : (m.timeHeard p k).port p = { m.port p with
    timeAt := some m.ticks, timeHops := fieldBE k.pl 4 1, timeValid := bitAt (fieldBE k.pl 5 1) 0 } := by
  simp [Module.timeHeard]

@[simp] theorem Module.timeHeard_time (m : Module) (p : Nat) (k : Pkt) : (m.timeHeard p k).time = m.time := by
  simp [Module.timeHeard, Module.setPort]

theorem Module.otherPorts_timeHeard (m : Module) (p : Nat) (k : Pkt) : OtherPorts p m (m.timeHeard p k) := by
  unfold Module.timeHeard
  exact (otherPorts_setPort m p _).trans (.of_ports_eq (Module.count_ports _ _ _ _))

theorem Module.timeHeard_regs (m : Module) (p : Nat) (k : Pkt) : m.SameTimeRegs (m.timeHeard p k) :=
  fun o l ho hl => (Module.rechosen_count _ 1 (by decide) (by decide)).regs o l ho hl

@[simp] theorem Module.timeHeard_keep (m : Module) (p : Nat) (k : Pkt) : (m.timeHeard p k).keep = m.keep := by
  simp [Module.timeHeard, Module.setPort]

/-- What a TIME packet taken leaves: its port keeps what it says, no other changes, and the clocks and the discipline stay. -/
theorem Module.takeTime_frame (m : Module) (p : Nat) (k : Pkt) :
    (m.takeTime p k).port p = { m.port p with
      timeAt := some m.ticks, timeHops := fieldBE k.pl 4 1, timeValid := bitAt (fieldBE k.pl 5 1) 0 } ∧
      OtherPorts p m (m.takeTime p k) ∧ (m.takeTime p k).now = m.now ∧ (m.takeTime p k).time.offset = m.time.offset ∧
      (m.takeTime p k).time.freq = m.time.freq := by
  have h := (m.timeHeard p k).rechosen_reselect
  rw [Module.takeTime_eq]
  exact ⟨(h.port p).trans (m.port_timeHeard p k), (m.otherPorts_timeHeard p k).trans (h.otherPorts p),
    h.now.trans (by simp [Module.now]), h.offset.trans (by simp), h.freq.trans (by simp)⟩

theorem Module.onTime_other {m n : Module} {p : Nat} {k pk : Pkt} (h : m.takeLocal p 3 = some (n, k)) (hk : pk ≠ k)
    (f : Module → Pkt → Module) : m.onTime p pk f = m := by
  simp only [Module.onTime, h, bne_iff_ne.mpr hk.symm, if_true, ite_self]

theorem Module.onTime_taken {m n : Module} {p : Nat} {k : Pkt} (hst : 4 ≤ (m.link p).st) (h : m.takeLocal p 3 = some (n, k))
    (f : Module → Pkt → Module) :
    m.onTime p k f = if linkLocalOk k then f (n.takeTime p k) k else n.count (portBlk p) 0x130 := by
  simp only [Module.onTime, h, show ¬ (m.link p).st < 4 by omega, if_false, bne_self_eq_false, Bool.false_eq_true]

/-! ### TIME_SAMPLE, CANDIDATE_APPEARS and CANDIDATE_LOSS (R411, R413, R414) -/

theorem timeSample_other {m n : Module} {p : Nat} {k pk : Pkt} (h : m.takeLocal p 3 = some (n, k)) (hk : pk ≠ k) (a b : Nat) :
    timeSample p pk a b m = m := by
  unfold timeSample Module.onPort
  simp only [Module.onTime_other h hk, ite_self]
  split
  · split <;> rfl
  · rfl

theorem candidateAppears_other {m n : Module} {p : Nat} {k pk : Pkt} (h : m.takeLocal p 3 = some (n, k)) (hk : pk ≠ k) :
    candidateAppears p pk m = m := by
  unfold candidateAppears Module.onPort
  simp only [Module.onTime_other h hk, ite_self]

theorem candidateAppears_taken {m n : Module} {p st : Nat} {k : Pkt} (hl : LinkIn m p st) (hst : 4 ≤ st)
    (h : m.takeLocal p 3 = some (n, k)) :
    candidateAppears p k m = if linkLocalOk k then n.takeTime p k else n.count (portBlk p) 0x130 := by
  rw [candidateAppears, Module.onPort_of_linkIn hl, Module.onTime_taken (hl.2.2.2 ▸ hst) h]

/-- A TIME packet that names a frame which is not among the last 64 yields no sample. -/
theorem timeSample_unnamed {m n : Module} {p st : Nat} {k : Pkt} (hl : LinkIn m p st) (hst : 4 ≤ st)
    (h : m.takeLocal p 3 = some (n, k)) (hu : stampOf (m.wire p).txFrames (fieldBE k.pl 2 2) = none ∨
      stampOf (m.wire p).rxFrames (fieldBE k.pl 0 2) = none) (a b : Nat) :
    timeSample p k a b m = if linkLocalOk k then n.takeTime p k else n.count (portBlk p) 0x130 := by
  rw [timeSample, Module.onPort_of_linkIn hl]
  split
  next ha hb => simp [ha, hb] at hu
  next => rw [Module.onTime_taken (hl.2.2.2 ▸ hst) h]

/-- One that names frames sent and received here yields a sample, from the present source. -/
theorem timeSample_named {m n : Module} {p st a b : Nat} {k : Pkt} (hl : LinkIn m p st) (hst : 4 ≤ st)
    (h : m.takeLocal p 3 = some (n, k)) (hk : linkLocalOk k = true)
    (ha : stampOf (m.wire p).txFrames (fieldBE k.pl 2 2) = some a)
    (hb : stampOf (m.wire p).rxFrames (fieldBE k.pl 0 2) = some b) :
    timeSample p k a b m =
      let c := n.takeTime p k
      if c.time.source == some p && (c.time.st == 1 || c.time.st == 2) then
        c.sample p a (fieldBE k.pl 16 8) (fieldBE k.pl 8 8) b
      else c := by
  rw [timeSample, Module.onPort_of_linkIn hl]
  simp only [ha, hb, bne_self_eq_false, Bool.or_self, Bool.false_eq_true, if_false]
  rw [Module.onTime_taken (hl.2.2.2 ▸ hst) h, if_pos hk]

theorem candidateLoss_eq {m : Module} {p st t : Nat} (h : LinkIn m p st) (ht : (m.port p).timeAt = some t) :
    candidateLoss p m = ((m.pass (t + ms 3)).setPort p { (m.pass (t + ms 3)).port p with timeAt := none }).reselect := by
  rw [candidateLoss, Module.onPort_of_linkIn h, ht]

/-- A neighbour whose TIME is forgotten is no candidate. -/
theorem Module.candPort_forgotten {m : Module} {p : Nat} (h : (m.port p).timeAt = none) : m.candPort p = false := by
  simp [Module.candPort, h]

theorem Module.forgotten_frame (m : Module) (p t : Nat) :
    let n := ((m.pass t).setPort p { (m.pass t).port p with timeAt := none }).reselect
    (n.port p).timeAt = none ∧ Waited m n t ∧ n.candPort p = false := by
  have h := ((m.pass t).setPort p { (m.pass t).port p with timeAt := none }).rechosen_reselect
  have hp := (h.port p).trans (Module.port_setPort_same _ _ _)
  have hnone := congrArg Port.timeAt hp
  exact ⟨hnone, h.now.trans (m.now_pass t), Module.candPort_forgotten hnone⟩

/-! ### The discipline (R409, R414, R415) -/

/-- The rate stays within SLEW_PPM, fast for a positive offset and slow for a negative one. -/
theorem Module.rate_bounds {m : Module} (h : 1 ≤ m.slewLim) (t : Int) :
    -m.slewLim ≤ m.rate t ∧ m.rate t ≤ m.slewLim ∧ (0 < t → 0 < m.rate t) ∧ (t < 0 → m.rate t < 0) := by
  unfold Module.rate satInt
  generalize Config.servo t m.time.freq = x
  split_ifs <;> omega

theorem one_le_slewLim {m : Module} (h : m.reg (mgtBlk 2) 0x010 0 ≠ 0) : 1 ≤ m.slewLim := by
  unfold Module.slewLim
  omega

theorem halfOf_two_mul (t : Int) : halfOf (2 * t) = t := by
  simp [halfOf]

/-- What a sample in LOCKED sets. -/
theorem Module.steer_locked {m : Module} (h : m.time.st = 2) (t : Int) :
    (m.steer t).time = { m.time with
      offset := halfOf t, stepped := true, offsetLarge := 8000000 < t || t < -8000000, freq := m.rate t,
      good := if -40 ≤ t && t ≤ 40 then m.time.good + 1 else 0 } ∧
      (m.steer t).ports = m.ports ∧ (m.steer t).out = m.out := by
  unfold Module.steer
  simp only [h]
  exact ⟨rfl, rfl, rfl⟩

/-- Whether a delay of `de2` half units is far from the median of the samples kept (R414). -/
def Module.FarDelay (m : Module) (de2 : Int) : Prop :=
  m.time.deltas ≠ [] ∧ (2 * de2 - median2 m.time.deltas < -128 ∨ 128 < 2 * de2 - median2 m.time.deltas)

/-- A sample with a far delay is counted, and steers nothing. -/
theorem Module.sample_far {m : Module} {t1 t2 t3 t4 : Int} (h : m.FarDelay ((t4 - t1) - (t3 - t2))) (p : Nat) :
    m.sample p t1 t2 t3 t4 = m.count (mgtBlk 2) 0x508 := by
  unfold Module.sample
  dsimp only
  rw [if_pos (by simpa [Module.FarDelay] using h)]

/-- Any other sample keeps its delay, and steers. -/
theorem Module.sample_near {m : Module} {t1 t2 t3 t4 : Int} (h : ¬ m.FarDelay ((t4 - t1) - (t3 - t2))) (p : Nat) :
    ∃ l, m.sample p t1 t2 t3 t4 = (({ m with time := { m.time with deltas := l } } : Module).setPort p
      { m.port p with linkDelay := ofSigned 24 (halfOf ((t4 - t1) - (t3 - t2))) }).steer ((t2 - t1) + (t3 - t4)) := by
  unfold Module.sample
  dsimp only
  rw [if_neg (by simpa [Module.FarDelay] using h)]
  exact ⟨_, rfl⟩

/-- A near sample in LOCKED: its delay stands at its port, and the FTC is steered by its rate alone. -/
theorem Module.sample_locked {m : Module} {t1 t2 t3 t4 : Int} (hst : m.time.st = 2)
    (h : ¬ m.FarDelay ((t4 - t1) - (t3 - t2))) (p : Nat) :
    let n := m.sample p t1 t2 t3 t4
    n.now = m.now ∧ n.time.offset = halfOf ((t2 - t1) + (t3 - t4)) ∧
      (n.port p).linkDelay = ofSigned 24 (halfOf ((t4 - t1) - (t3 - t2))) ∧ n.time.freq = m.rate ((t2 - t1) + (t3 - t4)) := by
  obtain ⟨l, e⟩ := Module.sample_near h p
  obtain ⟨ht, hp, -⟩ := Module.steer_locked (m := ({ m with time := { m.time with deltas := l } } : Module).setPort p
      { m.port p with linkDelay := ofSigned 24 (halfOf ((t4 - t1) - (t3 - t2))) }) hst ((t2 - t1) + (t3 - t4))
  dsimp only
  rw [e]
  refine ⟨by rw [Module.now, ht]; rfl, by rw [ht], ?_, by rw [ht]; rfl⟩
  rw [Module.port, hp]
  exact congrArg Port.linkDelay (Module.port_setPort_same _ _ _)

/-- A good TIME packet of an ACTIVE neighbour with few enough hops makes it a candidate. -/
theorem Module.candPort_timeHeard {m : Module} {p : Nat} {k : Pkt} (hst : (m.link p).st = 6) (hf : m.fabricEn = true)
    (hv : bitAt (fieldBE k.pl 5 1) 0 = true) (hh : fieldBE k.pl 4 1 < m.reg (mgtBlk 2) 0x008 0) :
    (m.timeHeard p k).candPort p = true := by
  have hlink : (m.timeHeard p k).link p = m.link p := by
    rw [Module.link, m.port_timeHeard]
    rfl
  have hreg := m.timeHeard_regs p k 0x008 0 (by decide) (by decide)
  have hfe : (m.timeHeard p k).fabricEn = true := by
    rw [← hf, Module.fabricEn, Module.fabricEn, m.timeHeard_keep]
  unfold Module.candPort Module.active
  rw [hfe, hlink, hst, hreg, m.port_timeHeard]
  simp [hv, hh, Module.ticks]

/-! ### PTP_SYNC (R416) -/

theorem ptpSync_locked {m : Module} {i : PtpIn} (hs : m.pwr.standby = true) (he : m.ptpEn = true)
    (hm : m.time.ptpMaster.isSome = true) (ha : m.sideAllowed i.addr = true) (hd : i.domain = m.keep.field 0x018 9 3)
    (ht : i.transport = m.keep.field 0x018 11 10) (hsrc : m.time.source = some 256) (hst : m.time.st = 2) :
    ptpSync i m = ((m.emit .ptpRequest).count (mgtBlk 2) 0x518).steer (2 * i.theta) := by
  unfold ptpSync
  rw [if_pos (by simp [Module.ptpHears, hs, he, hm, ha, hd, ht])]
  dsimp only
  rw [if_pos (by simp [hsrc, hst])]

end Sys2Proof.Machine

namespace Sys2Proof.Proofs
open Sys2Proof.Machine Sys2Proof.Claims

/-- Settles O15: what a TIME packet says is kept at its port; a source that is still the source after the new choice has kept
its samples, so a far delay is found far; and in LOCKED a sample sets the rate alone. -/
theorem timePacketsSteerTheFtc : Obligations.TimePacketsSteerTheFtc := by
  unfold Obligations.TimePacketsSteerTheFtc
  refine ⟨fun s p st a b k n hst hl => ⟨fun hn => ?_, fun t ht => ?_⟩, fun s i p st a b k n hreg => ⟨?_, ?_, ?_⟩⟩
  · have hlen := Module.takeLocal_some hn
    obtain ⟨hport, ho, hnow, hoff, hfreq⟩ := n.takeTime_frame p k
    have hticks : n.ticks = s.m.ticks := by rw [hlen]; rfl
    refine ⟨fun pk hk => completes_withM (timeSample p pk a b) rfl (timeSample_other hn hk a b),
      fun pk hk => completes_withM (candidateAppears p pk) rfl (candidateAppears_other hn hk), fun hk hu => ?_, fun hk => ?_,
      fun hk => ?_, fun hk hu => ?_⟩
    · refine completes_withM (timeSample p k a b) rfl ?_
      rw [timeSample_unnamed hl hst hn hu, if_neg (by simp [hk])]
    · refine completes_withM (candidateAppears p k) rfl ?_
      rw [candidateAppears_taken hl hst hn, if_neg (by simp [hk])]
    · refine completes_withM (candidateAppears p k) rfl ?_
      rw [candidateAppears_taken hl hst hn, if_pos hk, Module.wire, hport]
      refine ⟨congrArg some hticks, rfl, rfl, ?_, ((s.m.rxDrop_frame p k.h.linkLen).2.2.trans ?_)⟩
      · change (n.wire p).rxq = _
        rw [hlen, Module.rxDrop, Module.wire_setWire_same]
      · rw [← hlen]
        exact ho
    · refine completes_withM (timeSample p k a b) rfl ?_
      rw [timeSample_unnamed hl hst hn hu, if_pos hk, hport, hoff, hfreq]
      exact ⟨congrArg some hticks, rfl, by rw [hlen]; rfl, by rw [hlen]; rfl⟩
  · refine completes_withM (candidateLoss p) rfl ?_
    rw [candidateLoss_eq hl ht]
    exact s.m.forgotten_frame p (t + ms 3)
  · intro hs he hm ha hd ht hsrc hst
    refine completes_withM (ptpSync i) rfl ?_
    rw [ptpSync_locked hs he hm ha hd ht hsrc hst]
    have hc := (s.m.emit .ptpRequest).rechosen_count (off := 0x518) 1 (by decide) (by decide)
    have htime : ((s.m.emit .ptpRequest).count (mgtBlk 2) 0x518 1).time = s.m.time := Module.count_time _ _ _ _
    obtain ⟨hst', -, hout⟩ := Module.steer_locked (m := (s.m.emit .ptpRequest).count (mgtBlk 2) 0x518 1)
      (by rw [htime]; exact hst) (2 * i.theta)
    rw [hst', hout, hc.out, htime]
    refine ⟨halfOf_two_mul _, ?_, ?_, by simp, ?_, ?_⟩
    · have hr := Module.rate_bounds (m := (s.m.emit .ptpRequest).count (mgtBlk 2) 0x518 1)
        (by rw [hc.slewLim]; exact one_le_slewLim hreg) (2 * i.theta)
      have hfreq : (((s.m.emit .ptpRequest).count (mgtBlk 2) 0x518 1).steer (2 * i.theta)).time.freq =
          ((s.m.emit .ptpRequest).count (mgtBlk 2) 0x518 1).rate (2 * i.theta) := by rw [hst']
      rw [hc.slewLim, ← hfreq] at hr
      exact ⟨hr.1, hr.2.1, fun h => hr.2.2.1 (by omega), fun h => hr.2.2.2 (by omega)⟩
    · rw [Module.now, hst', htime]
      rfl
    · rw [Bool.eq_iff_iff]
      simp only [Bool.or_eq_true, decide_eq_true_eq]
      omega
    · simp only [Bool.and_eq_true, decide_eq_true_eq]
      exact if_congr (by omega) rfl rfl
  · intro hst hl hnames hne hfar
    obtain ⟨hn, hk, hsrc, hst2, ha, hb⟩ := hnames
    refine completes_withM (timeSample p k a b) rfl ?_
    rw [timeSample_named hl hst hn hk ha hb]
    obtain ⟨hport, -, hnow, hoff, hfreq⟩ := n.takeTime_frame p k
    have htime : n.time = s.m.time := by rw [Module.takeLocal_some hn]; rfl
    rw [htime] at hoff hfreq
    have hnow' : (n.takeTime p k).now = s.m.now := hnow.trans (by rw [Module.now, htime]; rfl)
    have hhops : ((n.takeTime p k).port p).timeHops = fieldBE k.pl 4 1 := by rw [hport]
    dsimp only
    split
    next hs =>
      have hsame : (n.takeTime p k).time.source = some p := by
        simp only [Bool.and_eq_true, beq_iff_eq] at hs
        exact hs.1
      have hdelta : (n.takeTime p k).time.deltas = s.m.time.deltas :=
        (Module.reselect_deltas (m := n.timeHeard p k) (by rw [n.timeHeard_time, htime]; exact hsrc) hsame).trans
          (by rw [n.timeHeard_time, htime])
      rw [Module.sample_far (by rw [Module.FarDelay, hdelta]; exact ⟨hne, hfar⟩)]
      simpa [Module.now] using ⟨hnow', hfreq, hoff, hhops⟩
    · exact ⟨hnow', hfreq, hoff, hhops⟩
  · intro hl hnames hf hv hh hd
    obtain ⟨hn, hk, hsrc, hst2, ha, hb⟩ := hnames
    refine completes_withM (timeSample p k a b) rfl ?_
    rw [timeSample_named hl (by decide) hn hk ha hb]
    have hlen := Module.takeLocal_some hn
    have htime : n.time = s.m.time := by rw [hlen]; rfl
    have hcand : (n.timeHeard p k).candidate p = true := by
      have hp : (p == 256) = false := beq_eq_false_iff_ne.mpr (by have := hl.1; omega)
      unfold Module.candidate
      rw [hp]
      refine Module.candPort_timeHeard ?_ ?_ hv ?_
      · rw [hlen, (s.m.rxDrop_frame p _).1]
        exact hl.2.2.2
      · rw [hlen]
        exact hf
      · rw [hlen]
        exact hh
    obtain ⟨hsame, hst', hdelta⟩ := Module.reselect_candidate (m := n.timeHeard p k)
      (by rw [n.timeHeard_time, htime]; exact hsrc) hcand
    rw [← n.takeTime_eq, n.timeHeard_time, htime] at hst' hdelta
    rw [← n.takeTime_eq] at hsame
    rw [hst2] at hst'
    have hlim : (n.takeTime p k).slewLim = s.m.slewLim := by
      rw [n.takeTime_eq, (Module.rechosen_reselect _).slewLim, Module.slewLim, n.timeHeard_regs p k 0x010 0 (by decide) (by decide),
        hlen]
      rfl
    have hnear : ¬ (n.takeTime p k).FarDelay (((b : Int) - a) - ((fieldBE k.pl 8 8 : Int) - fieldBE k.pl 16 8)) := by
      unfold Module.FarDelay
      rw [hdelta]
      rintro ⟨hne, hfar⟩
      rcases hd with hd | hd
      · exact hne hd
      · omega
    dsimp only
    rw [hsame, hst', if_pos (by simp)]
    obtain ⟨hnow, hoff, hdelay, hrate⟩ := Module.sample_locked hst' hnear p
    have hr := Module.rate_bounds (m := n.takeTime p k) (by rw [hlim]; exact one_le_slewLim hreg)
      (((fieldBE k.pl 16 8 : Int) - a) + ((fieldBE k.pl 8 8 : Int) - b))
    rw [hlim, ← hrate] at hr
    exact ⟨hnow.trans ((n.takeTime_frame p k).2.2.1.trans (by rw [Module.now, htime]; rfl)), hoff, hdelay, hr⟩

end Sys2Proof.Proofs
end

section
/-!
The transmitter of a port: the start of a copy and its end (R58, R64, R120, R123, R124, R175, R176).
-/
namespace Sys2Proof.Machine
open Sys2Proof.Claims

/-! ### What leaves every packet where it is -/

/-- Ports, queues, buffered packets and the keep file stay. -/
structure Module.Unmoved (a b : Module) : Prop where
  ports : b.ports = a.ports
  queues : b.net.queues = a.net.queues
  pkts : b.net.pkts = a.net.pkts
  keep : b.keep = a.keep

theorem Module.Unmoved.refl (a : Module) : a.Unmoved a := ⟨rfl, rfl, rfl, rfl⟩

theorem Module.Unmoved.trans {a b c : Module} (h : a.Unmoved b) (h' : b.Unmoved c) : a.Unmoved c :=
  ⟨h'.ports.trans h.ports, h'.queues.trans h.queues, h'.pkts.trans h.pkts, h'.keep.trans h.keep⟩

theorem Module.Unmoved.ite {a b c : Module} {p : Prop} [Decidable p] (hb : p → a.Unmoved b) (hc : ¬ p → a.Unmoved c) :
    a.Unmoved (if p then b else c) := by
  split
  · exact hb ‹_›
  · exact hc ‹_›

theorem Module.Unmoved.foldl {α : Type} {f : Module → α → Module} (hf : ∀ m x, Module.Unmoved m (f m x)) (l : List α)
    (m : Module) : m.Unmoved (l.foldl f m) :=
  List.foldlRecOn l f (motive := fun n => m.Unmoved n) (.refl m) fun n h x _ => h.trans (hf n x)

theorem Module.unmoved_count (m : Module) (blk off n : Nat) : m.Unmoved (m.count blk off n) := ⟨by simp, by simp, by simp, by simp⟩

theorem Module.unmoved_setDie (m : Module) (d : Nat) (x : Die) : m.Unmoved (m.setDie d x) := ⟨rfl, rfl, rfl, rfl⟩

theorem Module.unmoved_hubEnter (m : Module) (b : BPkt) (p : Nat) : m.Unmoved (m.hubEnter b p) := by
  unfold Module.hubEnter
  exact .ite (fun _ => .refl m) fun _ => (m.unmoved_setDie _ _).trans (Module.unmoved_setDie _ _ _)

theorem Module.unmoved_placeWheel (m : Module) (s : Nat) : m.Unmoved (m.placeWheel s) := by
  have h : m.Unmoved (({ m with net := { m.net with
      shapers := m.net.shapers.put s (m.wheelSlot (m.net.shapers.get s)) } } : Module).count (swBlk (s / 2048) 6) 0x31018) :=
    ⟨by simp, by simp, by simp, by simp⟩
  unfold Module.placeWheel
  exact .ite (fun _ => h.trans (Module.unmoved_count _ _ _ _)) fun _ => h

theorem Module.unmoved_onSend (m : Module) (k len : Nat) : m.Unmoved (m.onSend k len) := by
  refine .foldl (fun n s => ?_) _ m
  dsimp only
  split
  · refine .trans ?_ (Module.unmoved_placeWheel _ s)
    exact ⟨rfl, rfl, rfl, rfl⟩
  · exact ⟨rfl, rfl, rfl, rfl⟩

theorem Module.unmoved_syncHeads (m : Module) : m.Unmoved m.syncHeads := by
  refine .foldl (fun n k => ?_) _ m
  dsimp only
  split
  · exact ⟨rfl, rfl, rfl, rfl⟩
  · split <;> exact ⟨rfl, rfl, rfl, rfl⟩

theorem Module.unmoved_originate (m : Module) (k : Pkt) (die : Option Nat) : m.Unmoved (m.originate k die) := by
  unfold Module.originate
  refine .ite (fun _ => ?_) fun _ => .refl m
  generalize hn : ({ m with net := { m.net with orig := m.net.orig ++ [Orig.mk k die none false []] } } : Module) = n
  have h : m.Unmoved n := hn ▸ ⟨rfl, rfl, rfl, rfl⟩
  obtain ⟨-, e⟩ | e := n.wake_cases 1 <;> rw [e]
  · exact h.trans ⟨rfl, rfl, rfl, rfl⟩
  · exact h

theorem Module.unmoved_throttleAll (m : Module) (dest vc part rate hold : Nat) :
    m.Unmoved (m.throttleAll dest vc part rate hold) :=
  .foldl (fun n d => n.unmoved_setDie d _) _ m

theorem Module.unmoved_headwind (m : Module) (d : Nat) (h : Hdr) (reason port q : Nat) :
    m.Unmoved (m.headwind d h reason port q) := by
  unfold Module.headwind
  dsimp only
  refine .ite (fun _ => .refl m) fun _ => .ite (fun _ => .refl m) fun _ => .ite (fun _ => ?_) fun _ => ?_
  · exact (m.unmoved_setDie d _).trans (Module.unmoved_throttleAll _ _ _ _ _ _)
  · exact ((m.unmoved_setDie d _).trans (Module.unmoved_count _ _ _ _)).trans (Module.unmoved_originate _ _ _)

/-! ### What the scheduler's turns leave (R175 to R177) -/

@[simp] theorem Module.wire_setSched (m : Module) (p q : Nat) (x : Sched) : (m.setSched p x).wire q = m.wire q := by
  by_cases hq : q = p
  · subst hq
    simp [Module.setSched, Module.wire]
  · simp only [Module.setSched, Module.wire, Module.port_setPort_other m hq]

@[simp] theorem Module.link_setSched (m : Module) (p q : Nat) (x : Sched) : (m.setSched p x).link q = m.link q := by
  by_cases hq : q = p
  · subst hq
    simp [Module.setSched, Module.link]
  · simp only [Module.setSched, Module.link, Module.port_setPort_other m hq]

/-- Turns are no part of what makes a queue eligible. -/
theorem Module.eligible_setSched (m : Module) (p : Nat) (x : Sched) (k : Nat) :
    (m.setSched p x).eligible k = m.eligible k := by
  have hc (q v c : Nat) : (m.setSched p x).creditFor q v c = m.creditFor q v c := by
    simp only [Module.creditFor, Module.wire_setSched]
  have hs (b : BPkt) (q : Nat) : (m.setSched p x).mustStore b q = m.mustStore b q := by
    simp only [Module.mustStore, Module.link_setSched]
  have hh : (m.setSched p x).headOf k = m.headOf k := rfl
  have hsh : (m.setSched p x).shaped k = m.shaped k := rfl
  simp only [Module.eligible, hc, hs, hh, hsh]

/-- The end of a turn changes the turn alone. -/
theorem Module.endTurn_cases (m : Module) (p : Nat) : m.endTurn p = m ∨ ∃ x, m.endTurn p = m.setSched p x := by
  have hstays (c : Prop) [Decidable c] (x : Sched) : (if c then m else m.setSched p x) = m ∨
      ∃ y, (if c then m else m.setSched p x) = m.setSched p y := by
    split
    · exact .inl rfl
    · exact .inr ⟨x, rfl⟩
  unfold Module.endTurn
  dsimp only
  split
  · exact .inl rfl
  split
  · exact .inr ⟨_, rfl⟩
  split
  · exact hstays _ _
  · exact .inr ⟨_, rfl⟩

/-- Nothing that a turn's end changes is seen by what does not see turns. -/
theorem Module.endTurn_same {α : Type} (f : Module → α) (hf : ∀ m p x, f (m.setSched p x) = f m) (m : Module) (p : Nat) :
    f (m.endTurn p) = f m := by
  obtain e | ⟨x, e⟩ := m.endTurn_cases p <;> rw [e]
  exact hf m p x

/-- VC0 goes first, and VC1 next (R176). -/
theorem Module.schedule_strict {m : Module} {p v : Nat} (hv : v ≤ 1) (he : m.eligible (qKey p v 0) = true)
    (h0 : v = 1 → m.eligible (qKey p 0 0) = false) : m.schedule p = (m.endTurn p, some (qKey p v 0)) := by
  have hs (k : Nat) : (m.endTurn p).eligible k = m.eligible k :=
    Module.endTurn_same (Module.eligible · k) (fun n q x => n.eligible_setSched q x k) m p
  unfold Module.schedule
  dsimp only
  obtain rfl | rfl : v = 0 ∨ v = 1 := by omega
  · rw [hs, if_pos he]
  · rw [hs, h0 rfl, if_neg (by decide), hs, if_pos he]

/-- Where nothing is due, nothing is decided again. -/
theorem Module.rerouteDue_none {m : Module} (h : NothingDue m) : m.rerouteDue = m := by
  have hn : (m.net.pkts.flatMap (·.copies)).filter (fun c => c.due && !c.begun) = [] := by
    rw [List.filter_eq_nil_iff]
    intro c hc
    obtain ⟨b, hb, hcb⟩ := List.mem_flatMap.mp hc
    simp [h b hb c hcb]
  unfold Module.rerouteDue
  rw [hn]
  rfl

/-! ### The start of a copy (R64, R120) -/

theorem qVc_qKey {p v : Nat} (hv : v < 8) : qVc (qKey p v 0) = v := by
  unfold qVc qKey
  omega

theorem Module.newHead_net (m : Module) (k : Nat) :
    (m.newHead k).net.queues = m.net.queues ∧ (m.newHead k).net.pkts = m.net.pkts := by
  unfold Module.newHead
  dsimp only
  split
  · exact ⟨rfl, rfl⟩
  · split <;> exact ⟨rfl, rfl⟩

theorem Module.unqueue_net (m : Module) (id k : Nat) :
    (m.unqueue id k).net.queues = m.net.queues.put k ((m.net.queues.get k).erase id) ∧
      (m.unqueue id k).net.pkts = m.net.pkts := by
  unfold Module.unqueue
  dsimp only
  split
  · exact Module.newHead_net _ _
  · exact ⟨rfl, rfl⟩

theorem Module.bp_id {m : Module} {id : Nat} {b : BPkt} (h : m.bp id = some b) : b.id = id := by
  simpa using List.find?_some h

/-- The packet under an identifier, once it has changed. -/
theorem Module.bp_updBp_same {m : Module} {id : Nat} {f : BPkt → BPkt} {b : BPkt} (hf : ∀ b, (f b).id = b.id)
    (h : m.bp id = some b) : (m.updBp id f).bp id = some (f b) := by
  rw [m.bp_updBp id id hf, h, Option.map_some, Module.bp_id h, if_pos (beq_self_eq_true id)]

/-- The head of a queue is a buffered packet, with a copy of it that has not begun. -/
theorem Module.headOf_some {m : Module} {k : Nat} {b : BPkt} {c : Copy} (h : m.headOf k = some (b, c)) :
    m.bp b.id = some b ∧ c ∈ b.copies := by
  unfold Module.headOf at h
  split at h
  · exact nomatch h
  · split at h
    · exact nomatch h
    next b' hb =>
      obtain ⟨c', hc, e⟩ := Option.map_eq_some_iff.mp h
      obtain ⟨rfl, rfl⟩ := Prod.mk.inj e
      exact ⟨(Module.bp_id hb).symm ▸ hb, List.mem_of_find?_eq_some hc⟩

/-- A copy taken from its queue as one that has begun. -/
def Module.copyBegun (m : Module) (k : Nat) (b : BPkt) (c : Copy) : Module :=
  (m.unqueue b.id k).updBp b.id fun x => { x with copies := x.copies.map fun y => if y = c then { y with begun := true } else y }

/-- What stands after a copy's start: its cells are charged, and the rest is counted. -/
theorem Module.startCopy_unmoved (m : Module) (p k : Nat) (b : BPkt) (c : Copy) :
    let n := m.copyBegun k b c
    (n.setWire p { n.wire p with
      used := (n.wire p).used.modify (qVc k) (· + b.cells), sending := some b.id }).Unmoved (m.startCopy p k b c) := by
  dsimp only
  unfold Module.startCopy
  dsimp only
  refine .trans ?_ (.ite (fun _ => Module.unmoved_headwind _ _ _ _ _ _) fun _ => .refl _)
  refine .trans ?_ (.ite (fun _ => Module.unmoved_count _ _ _ _) fun _ => .refl _)
  have hsent (n : Module) : n.Unmoved ((((n.hubEnter b p).onSend k b.pkt.h.linkLen).syncHeads.count
      (swBlk (p / 32) 6) (0x30000 + 16 * (8 * (p % 32) + qVc k))).count
      (swBlk (p / 32) 6) (0x30008 + 16 * (8 * (p % 32) + qVc k)) b.pkt.h.linkLen) :=
    ((((n.unmoved_hubEnter b p).trans (Module.unmoved_onSend _ _ _)).trans (Module.unmoved_syncHeads _)).trans
      (Module.unmoved_count _ _ _ _)).trans (Module.unmoved_count _ _ _ _)
  split
  · exact (hsent _).trans (Module.unmoved_count _ _ _ _)
  · exact hsent _

/-- The start of a copy from its queue's head: it is being sent, its cells are charged, it has left its queue and has begun, and
no other port sends anything else. -/
theorem Module.startCopy_frame {m : Module} {p v : Nat} {b : BPkt} {c : Copy} (hv : v < 8) (hb : m.bp b.id = some b)
    (hc : c ∈ b.copies) :
    let n := m.startCopy p (qKey p v 0) b c
    (n.wire p).sending = some b.id ∧ (n.wire p).used = (m.wire p).used.modify v (· + b.cells) ∧
      n.net.queues.get (qKey p v 0) = (m.net.queues.get (qKey p v 0)).erase b.id ∧
      (∃ b', n.bp b.id = some b' ∧ { c with begun := true } ∈ b'.copies) ∧
      ∀ q, q ≠ p → (n.wire q).sending = (m.wire q).sending := by
  have ha : m.Aside (m.copyBegun (qKey p v 0) b c) := (m.aside_unqueue _ _).trans (Module.aside_updBp _ _ fun _ => by rfl)
  have hq : (m.copyBegun (qKey p v 0) b c).net.queues = m.net.queues.put (qKey p v 0) ((m.net.queues.get (qKey p v 0)).erase b.id) :=
    (m.unqueue_net b.id (qKey p v 0)).1
  have hbp : (m.copyBegun (qKey p v 0) b c).bp b.id =
      some { b with copies := b.copies.map fun y => if y = c then { y with begun := true } else y } := by
    have hu : (m.unqueue b.id (qKey p v 0)).bp b.id = some b := by
      rw [Module.bp, (m.unqueue_net _ _).2]
      exact hb
    exact Module.bp_updBp_same (fun _ => by rfl) hu
  have hs := m.startCopy_unmoved p (qKey p v 0) b c
  dsimp only at hs ⊢
  rw [qVc_qKey hv] at hs
  generalize m.copyBegun (qKey p v 0) b c = n at ha hq hbp hs
  have hw (q : Nat) : (m.startCopy p (qKey p v 0) b c).wire q =
      (n.setWire p { n.wire p with used := (n.wire p).used.modify v (· + b.cells), sending := some b.id }).wire q := by
    simp only [Module.wire, Module.port, hs.ports]
  refine ⟨?_, ?_, ?_, ⟨_, (congrArg (List.find? _) hs.pkts).trans hbp, List.mem_map.mpr ⟨c, hc, by simp⟩⟩, fun q hqp => ?_⟩
  · rw [hw, Module.wire_setWire_same]
  · rw [hw, Module.wire_setWire_same, (ha.wire p).eq]
  · rw [hs.queues]
    exact (congrArg (·.get (qKey p v 0)) hq).trans (Tab.get_put_same _ _ _)
  · rw [hw, Module.wire_setWire_other _ hqp, ha.sending q]

/-- EGRESS_START where the transmitter is free, on a strict VC whose queue is eligible. -/
theorem egressStart_strict {m : Module} {p v : Nat} {b : BPkt} {c : Copy} (hd : NothingDue m) (h : LinkIn m p 6)
    (hl : m.pwr.lull ≤ 1) (hs : (m.wire p).sending = none) (hr : (m.wire p).replay.length < 128) (hv : v ≤ 1)
    (hf : bitAt (m.die (p / 32)).mcFenced (p % 32) = false) (he : m.eligible (qKey p v 0) = true)
    (h0 : v = 1 → m.eligible (qKey p 0 0) = false) (hh : m.headOf (qKey p v 0) = some (b, c)) :
    egressStart p m = (m.endTurn p).startCopy p (qKey p v 0) b c := by
  have hh' : (m.endTurn p).headOf (qKey p v 0) = some (b, c) :=
    (Module.endTurn_same (Module.headOf · (qKey p v 0)) (fun _ _ _ => rfl) m p).trans hh
  rw [egressStart, Module.onPort_of_linkIn h]
  dsimp only
  rw [hf, if_neg (by decide), if_neg (by simp [h.2.2.2, hs, Module.replayRoom, hr, hl]), Module.rerouteDue_none hd,
    Module.schedule_strict hv he h0]
  dsimp only
  rw [hh']

/-! ### The end of a copy (R65, R123, R124) -/

/-- What the end of a packet on a port must not undo: a transmitter that is free, the instant of the last activity, what has
been put out, and packets that are gone. -/
structure Module.Lasting (p : Nat) (a b : Module) : Prop where
  sending : (a.wire p).sending = none → (b.wire p).sending = none
  activeAt : b.pwr.activeAt = a.pwr.activeAt
  out : a.out ⊆ b.out
  ids : ∀ i, a.bp i = none → b.bp i = none

theorem Module.Lasting.refl (p : Nat) (a : Module) : a.Lasting p a :=
  ⟨fun h => h, rfl, List.Subset.refl _, fun _ h => h⟩

theorem Module.Lasting.trans {p : Nat} {a b c : Module} (h : a.Lasting p b) (h' : b.Lasting p c) : a.Lasting p c :=
  ⟨fun x => h'.sending (h.sending x), h'.activeAt.trans h.activeAt, fun _ x => h'.out (h.out x),
    fun i x => h'.ids i (h.ids i x)⟩

theorem Module.Aside.lasting {a b : Module} (h : a.Aside b) (p : Nat) : a.Lasting p b :=
  ⟨fun x => (h.sending p).trans x, h.activeAt, fun _ x => h.out ▸ x, h.ids⟩

theorem Module.Sent.lasting {p : Nat} {a b : Module} (h : a.Sent p b) : a.Lasting p b :=
  ⟨fun x => h.sending.trans x, by rw [h.pwr], h.out.subset, fun i x => by rwa [Module.bp, h.net]⟩

theorem Module.lasting_setWire (m : Module) (p : Nat) {x : Wire} (h : x.sending = none ∨ x.sending = (m.wire p).sending) :
    m.Lasting p (m.setWire p x) :=
  ⟨fun hs => by rw [Module.wire_setWire_same]; exact h.elim id (·.trans hs), rfl, List.Subset.refl _, fun _ h => h⟩

theorem Module.lasting_setSched (m : Module) (p : Nat) (x : Sched) : m.Lasting p (m.setSched p x) :=
  (m.aside_setSched p x).lasting p

theorem Module.lasting_endTurn (m : Module) (p : Nat) : m.Lasting p (m.endTurn p) := by
  obtain e | ⟨x, e⟩ := m.endTurn_cases p <;> rw [e]
  · exact .refl p m
  · exact m.lasting_setSched p x

/-- The link and the wire of a port as they stand in DOWN. -/
def Module.linkReset (m : Module) (p : Nat) : Module :=
  let m := m.setLink p { m.link p with
    st := 0, fromDown := true, tuned := false, width := 0, rxGood := 0, lanes := 0, cap := 4, since := m.ticks,
    holdUntil := none, checkResult := 0, foundValid := false, swapPort := 0, skew := [],
    nb := { (m.link p).nb with seen := false, before := none, echoed := false, mySwitch := none, peerSwitch := none } }
  let m := m.setPort p { m.port p with timeAt := none }
  m.setWire p { m.wire p with
    replay := [], lastNack := none, nackOut := false, replays := 0, paused := false,
    txq := [], starts := [], llq := [], frame := [], segIdx := 0, rxq := [], rxSkip := 0, arriving := none, filling := false }

/-- A packet's copies queued for a port, due for routing again. -/
def BPkt.dueOn (p : Nat) (b : BPkt) : BPkt :=
  { b with copies := b.copies.map fun (c : Copy) => if c.port == p && !c.begun then { c with due := true } else c }

/-- A port that is no route candidate any more, and its queued copies due for routing again. -/
def Module.portClosed (m : Module) (p : Nat) : Module :=
  { m with net := { m.net with
    admitted := setBit m.net.admitted p false
    pkts := m.net.pkts.map (BPkt.dueOn p) } }

/-- A link that goes DOWN reported, where a neighbour was up. -/
def Module.downReported (m : Module) (p : Nat) (up : Bool) : Module :=
  let m := if up then m.count (portBlk p) 0x128 (m.wire p).replay.length else m
  if up then m.portEvent p 0x0202 else m

/-- What follows the loss of the packets on a link that goes DOWN. -/
def Module.linkDowned (m : Module) (p : Nat) (up : Bool) : Module :=
  ((((m.downReported p up).linkReset p).portClosed p).checkBacked (p / 32)).reselect

theorem Module.enterDown_eq {m : Module} {p : Nat} (h : (m.link p).st ≠ 0) : m.enterDown p =
    (((if (m.link p).st == 6 then m.leaveActive p true else m).inputLost p).abandon p).linkDowned p
      ((m.link p).st == 6 || (m.link p).st == 7 || !(m.link p).fromDown) := by
  unfold Module.enterDown
  dsimp only
  rw [if_neg (by simpa using h)]
  rfl

theorem Module.lasting_inputLost (m : Module) (p : Nat) : m.Lasting p (m.inputLost p) := by
  unfold Module.inputLost
  dsimp only
  have h : m.Lasting p (m.setWire p { m.wire p with arriving := none, filling := false, rxq := [], rxSkip := 0 }) :=
    m.lasting_setWire p (.inr rfl)
  split
  · exact h
  · split
    · refine h.trans (.trans ?_ ((Module.aside_putMark _ _ _).lasting p))
      exact ((Module.aside_dropUnbegun _ _).trans (Module.aside_updBp _ _ fun _ => by rfl)).lasting p
    · exact h.trans ((Module.aside_markBad _ _ _).lasting p)

theorem Module.abandon_idle {m : Module} {p : Nat} (h : (m.wire p).sending = none) : m.abandon p = m := by
  unfold Module.abandon
  rw [h]

theorem Module.bp_mapPkts {m n : Module} {f : BPkt → BPkt} (hf : ∀ b, (f b).id = b.id) (hn : n.net.pkts = m.net.pkts.map f)
    (i : Nat) (h : m.bp i = none) : n.bp i = none := by
  unfold Module.bp at h ⊢
  rw [List.find?_eq_none] at h ⊢
  intro x hx
  obtain ⟨y, hy, rfl⟩ := List.mem_map.mp (hn ▸ hx)
  simpa [hf] using h y hy

theorem Module.lasting_setLink (m : Module) (p : Nat) (x : Link) : m.Lasting p (m.setLink p x) :=
  ⟨fun h => (congrArg Wire.sending (m.wire_setLink p p x)).trans h, rfl, List.Subset.refl _, fun _ h => h⟩

theorem Module.lasting_linkReset (m : Module) (p : Nat) : m.Lasting p (m.linkReset p) := by
  have ht (n : Module) : n.Lasting p (n.setPort p { n.port p with timeAt := none }) :=
    ⟨fun h => by simpa [Module.wire] using h, rfl, List.Subset.refl _, fun _ h => h⟩
  unfold Module.linkReset
  refine .trans ?_ (Module.lasting_setWire _ p ?_)
  · refine .trans ?_ (ht _)
    exact m.lasting_setLink p _
  · exact .inr rfl

theorem Module.lasting_portClosed (m : Module) (p : Nat) : m.Lasting p (m.portClosed p) :=
  ⟨fun h => h, rfl, List.Subset.refl _, Module.bp_mapPkts (f := BPkt.dueOn p) (fun _ => rfl) rfl⟩

theorem Module.aside_downReported (m : Module) (p : Nat) (up : Bool) : m.Aside (m.downReported p up) := by
  unfold Module.downReported
  cases up
  · exact .refl m
  · simp only [if_true]
    exact .trans (m.aside_count _ _ _) (Module.reported_portEvent _ p _).aside

theorem Module.lasting_linkDowned (m : Module) (p : Nat) (up : Bool) : m.Lasting p (m.linkDowned p up) :=
  (((((m.aside_downReported p up).lasting p).trans (Module.lasting_linkReset _ p)).trans (Module.lasting_portClosed _ p)).trans
    ((Module.credited_checkBacked _ _).aside.lasting p)).trans ((Module.aside_reselect _).lasting p)

/-- A port whose transmitter is free stays free as its link goes DOWN. -/
theorem Module.lasting_enterDown {m : Module} {p : Nat} (h : (m.wire p).sending = none) : m.Lasting p (m.enterDown p) := by
  by_cases hst : (m.link p).st = 0
  · rw [show m.enterDown p = m from if_pos (by simpa using hst)]
    exact .refl p m
  · rw [Module.enterDown_eq hst]
    have hl : m.Lasting p ((if (m.link p).st == 6 then m.leaveActive p true else m).inputLost p) := by
      refine .trans ?_ (Module.lasting_inputLost _ p)
      split
      · exact (m.aside_leaveActive p true).lasting p
      · exact .refl p m
    rw [Module.abandon_idle (hl.sending h)]
    exact hl.trans (Module.lasting_linkDowned _ p _)

/-- The LINK_LOCAL packets that waited go. -/
theorem Module.lasting_sendWaiting (m : Module) (p : Nat) : m.Lasting p (m.sendWaiting p) := by
  refine .trans (m.lasting_setWire p ?_) (Module.sent_foldl (fun n k => (n.sendPkt_sent p k).1) _ _).lasting
  exact .inr rfl

/-- A port that is done with a packet: its transmitter is free, and what has happened lasts. -/
theorem Module.sendDone_frame (m : Module) (p : Nat) :
    ((m.sendDone p).wire p).sending = none ∧ m.Lasting p (m.sendDone p) := by
  have hw : m.Lasting p (m.setWire p { m.wire p with sending := none }) := m.lasting_setWire p (.inl rfl)
  have h := (Module.lasting_sendWaiting (m.setWire p { m.wire p with sending := none }) p).trans (Module.lasting_endTurn _ p)
  have hs := h.sending (by rw [Module.wire_setWire_same])
  unfold Module.sendDone
  dsimp only
  split
  · have hd := Module.lasting_enterDown hs
    exact ⟨hd.sending hs, (hw.trans h).trans hd⟩
  · exact ⟨hs, hw.trans h⟩

/-- A port that is done with a packet, is not isolated, and has no LINK_LOCAL packet that waited: its stream stays. -/
theorem Module.sendDone_stream {m : Module} {p : Nat} (hl : (m.wire p).llq = []) (hi : (m.link p).isolated = false) :
    ((m.sendDone p).wire p).replay = (m.wire p).replay ∧ ((m.sendDone p).wire p).txq = (m.wire p).txq := by
  have hw : (m.setWire p { m.wire p with sending := none }).sendWaiting p =
      (m.setWire p { m.wire p with sending := none }).setWire p { m.wire p with sending := none, llq := [] } := by
    simp [Module.sendWaiting, hl]
  have hiso : ((((m.setWire p { m.wire p with sending := none }).setWire p
      { m.wire p with sending := none, llq := [] }).endTurn p).link p).isolated = false := by
    rw [Module.endTurn_same (Module.link · p) (fun n q x => n.link_setSched q p x), Module.link_setWire, Module.link_setWire, hi]
  unfold Module.sendDone
  dsimp only
  rw [hw, hiso, if_neg (by decide), Module.endTurn_same (Module.wire · p) (fun n q x => n.wire_setSched q p x),
    Module.wire_setWire_same]
  exact ⟨rfl, rfl⟩

theorem Module.bp_freeBp_self (m : Module) (id : Nat) : (m.freeBp id).bp id = none := by
  cases h : m.bp id with
  | none => rwa [Module.freeBp_none h]
  | some b =>
    rw [Module.freeBp_some h]
    refine ((Module.aside_chargeReturned _ id b).trans (Module.credited_checkBacked _ _).aside).ids id ?_
    refine List.find?_eq_none.mpr fun x hx => ?_
    simpa [Module.cellsFreed] using (List.mem_filter.mp hx).2

/-- A whole packet with no copy left and no other use is freed (R123). -/
theorem Module.bp_settle_free {m : Module} {id : Nat} {b : BPkt} (h : m.bp id = some b) (hc : b.copies = [])
    (hh : b.here = false) (hp : b.parked = false) (hm : b.mcast = false) (hw : b.whole = true) : (m.settle id).bp id = none := by
  unfold Module.settle
  rw [h]
  dsimp only
  rw [if_pos (by simp [hc, hh, hp, hm, hw])]
  exact m.bp_freeBp_self id

/-- The module as a packet's last word leaves: it has crossed the HUB, and the instant is one of activity. -/
def Module.crossed (m : Module) (p id : Nat) (b : BPkt) : Module :=
  let m := (m.correctCells b).hubLeave id p
  { m with pwr := { m.pwr with activeAt := m.ticks } }

/-- A copy that is done: its packet loses it, and settles. -/
def Module.copyDone (m : Module) (id : Nat) (c : Copy) : Module :=
  (m.updBp id fun x => { x with copies := x.copies.filter fun y => y != c }).settle id

theorem packetSent_eq {m : Module} {p id : Nat} {b : BPkt} {c : Copy} (hp : p < 256) (hm : m.pwr.main = true)
    (hst : m.pwr.st ≠ 4) (hs : (m.wire p).sending = some id) (hb : m.bp id = some b) (hw : b.whole = true)
    (hr : (m.wire p).replay.length < 128) (ht : m.hubTurn b p = true)
    (hc : (b.copies.find? fun c => c.begun && c.port == p) = some c) : packetSent p m =
      (((m.crossed p id b).sendPkt p { h := c.h, pl := b.pkt.pl, t0 := b.pkt.t0, t1 := b.pkt.t1 }).copyDone id c).sendDone p := by
  unfold packetSent
  rw [Module.onPort_of_linkIn ⟨hp, hm, hst, rfl⟩]
  dsimp only
  rw [hs]
  dsimp only
  rw [hb]
  dsimp only
  rw [if_neg (by simp [hw, Module.replayRoom, hr, ht]), hc]
  rfl

/-- What a packet's crossing leaves: all but its die's books, and the instant of the last activity. -/
theorem Module.crossed_frame (m : Module) (p id : Nat) (b : BPkt) :
    (m.crossed p id b).ports = m.ports ∧ (m.crossed p id b).net = m.net ∧ (m.crossed p id b).pwr.activeAt = m.ticks := by
  have hd (n : Module) : (n.hubLeave id p).ports = n.ports ∧ (n.hubLeave id p).net = n.net ∧ (n.hubLeave id p).time = n.time := by
    unfold Module.hubLeave
    dsimp only
    split
    · exact ⟨rfl, rfl, rfl⟩
    · split <;> exact ⟨rfl, rfl, rfl⟩
  have hc : (m.correctCells b).ports = m.ports ∧ (m.correctCells b).net = m.net ∧ (m.correctCells b).time = m.time := by
    unfold Module.correctCells
    dsimp only
    split
    · exact ⟨rfl, rfl, rfl⟩
    · exact ⟨by simp [Module.setDie], by simp [Module.setDie], by simp [Module.setDie]⟩
  obtain ⟨hp, hn, ht⟩ := hd (m.correctCells b)
  refine ⟨hp.trans hc.1, hn.trans hc.2.1, ?_⟩
  change ((m.correctCells b).hubLeave id p).ticks = m.ticks
  simp only [Module.ticks, ht, hc.2.2]

theorem Module.aside_copyDone (m : Module) (id : Nat) (c : Copy) : m.Aside (m.copyDone id c) :=
  (m.aside_updBp id fun _ => by rfl).trans (Module.aside_settle _ id)

/-- The last copy of a packet without another use frees it. -/
theorem Module.bp_copyDone_free {m : Module} {id : Nat} {b : BPkt} {c : Copy} (h : m.bp id = some b) (hc : b.copies = [c])
    (hh : b.here = false) (hp : b.parked = false) (hm : b.mcast = false) (hw : b.whole = true) :
    (m.copyDone id c).bp id = none := by
  have h' : (m.updBp id fun x => { x with copies := x.copies.filter fun y => y != c }).bp id =
      some { b with copies := b.copies.filter fun y => y != c } := Module.bp_updBp_same (fun _ => by rfl) h
  exact Module.bp_settle_free h' (by simp [hc]) hh hp hm hw

/-- PACKET_SENT: what a copy's end leaves for good. -/
theorem packetSent_frame {m : Module} {p id : Nat} {b : BPkt} (c : Copy) (hb : m.bp id = some b) (hw : b.whole = true) (k : Pkt)
    (hk : k.h.type ≠ 0xF0) :
    let n := (((m.crossed p id b).sendPkt p k).copyDone id c).sendDone p
    (n.wire p).sending = none ∧ n.pwr.activeAt = m.ticks ∧ .packet p k ∈ n.out ∧
      ((m.wire p).llq = [] → (m.link p).isolated = false → ∃ l : List Seg,
        (n.wire p).replay = (m.wire p).replay ++ l ∧
        l.flatMap (·.pay) ++ (n.wire p).txq = (m.wire p).txq ++ pktBytes k) ∧
      (b.copies = [c] → b.here = false → b.parked = false → b.mcast = false → n.bp id = none) := by
  obtain ⟨hports, hnet, hact⟩ := m.crossed_frame p id b
  have hwire : (m.crossed p id b).wire p = m.wire p := by simp only [Module.wire, Module.port, hports]
  have hlink : (m.crossed p id b).link p = m.link p := by simp only [Module.link, Module.port, hports]
  obtain ⟨hs, ⟨l, hrep, htxq⟩, hout⟩ := (m.crossed p id b).sendPkt_sent p k
  rw [if_neg (by simpa using hk)] at hout
  have ha := ((m.crossed p id b).sendPkt p k).aside_copyDone id c
  obtain ⟨hfree, hlast⟩ := (((m.crossed p id b).sendPkt p k).copyDone id c).sendDone_frame p
  refine ⟨hfree, ?_, hlast.out (ha.out ▸ hout), fun hl hi => ⟨l, ?_, ?_⟩, fun hc hh hpk hm => ?_⟩
  · rw [hlast.activeAt, ha.activeAt, hs.pwr, hact]
  · rw [(Module.sendDone_stream (by rw [ha.llq, hs.llq, hwire, hl]) (by rw [ha.link, hs.link, hlink, hi])).1, ha.replay, hrep, hwire]
  · rw [(Module.sendDone_stream (by rw [ha.llq, hs.llq, hwire, hl]) (by rw [ha.link, hs.link, hlink, hi])).2, ha.txq, htxq, hwire]
  · refine hlast.ids id ?_
    have hbp : ((m.crossed p id b).sendPkt p k).bp id = some b := by
      rw [Module.bp, hs.net, hnet]
      exact hb
    exact Module.bp_copyDone_free hbp hc hh hpk hm hw

end Sys2Proof.Machine

namespace Sys2Proof.Proofs
open Sys2Proof.Machine Sys2Proof.Claims

/-- Settles O22: a turn's end changes nothing that makes a queue eligible, so the strict VC goes first; and what the end of a
copy discards, frees and takes down stands beside the stream that its words have joined. -/
theorem egressChargesAndFrees : Obligations.EgressChargesAndFrees := by
  unfold Obligations.EgressChargesAndFrees
  refine fun s p id v b c => ⟨fun hd h hl hs hr hv hf he h0 hh => ?_, fun hp hm hst hs hb hw hr ht hc hk => ?_⟩
  · refine completes_withM (egressStart p) rfl ?_
    rw [egressStart_strict hd h hl hs hr hv hf he h0 hh]
    obtain ⟨hb, hc⟩ := Module.headOf_some hh
    have hsame {α : Type} (f : Module → α) (hf : ∀ m p x, f (m.setSched p x) = f m) : f (s.m.endTurn p) = f s.m :=
      Module.endTurn_same f hf s.m p
    have hw (q : Nat) : (s.m.endTurn p).wire q = s.m.wire q := hsame (Module.wire · q) fun n r x => n.wire_setSched r q x
    have hn : (s.m.endTurn p).net = s.m.net := hsame Module.net fun _ _ _ => rfl
    have hframe := Module.startCopy_frame (m := s.m.endTurn p) (p := p) (v := v) (by omega) (by rw [Module.bp, hn]; exact hb) hc
    rw [hn, hw] at hframe
    simp only [hw] at hframe
    exact hframe
  · refine completes_withM (packetSent p) rfl ?_
    rw [packetSent_eq hp hm hst hs hb hw hr ht hc]
    exact packetSent_frame c hb hw _ hk

end Sys2Proof.Proofs
end

section
/-!
The trailer of a packet, and the replication of a multicast packet (R60, R106, R108, R122, R140, R259).
-/
namespace Sys2Proof.Machine
open Sys2Proof.Claims

/-! ### Windsock (R140 to R142) -/

/-- A capture changes memory, counters, and the ring of a die. -/
structure Module.Captured (a b : Module) : Prop where
  rest : b = { a with mem := b.mem, regs := b.regs, dies := b.dies }
  die : ∀ d, ∃ g, b.die d = { a.die d with ring := g }

theorem Module.Captured.refl (a : Module) : a.Captured a := ⟨rfl, fun d => ⟨(a.die d).ring, rfl⟩⟩

theorem Module.captured_setRing (m : Module) (d : Nat) (g : Ring) : m.Captured (m.setDie d { m.die d with ring := g }) := by
  refine ⟨rfl, fun e => ?_⟩
  by_cases he : e = d
  · subst he
    exact ⟨g, Module.die_setDie_same _ _ _⟩
  · exact ⟨(m.die e).ring, Module.die_setDie_other m he _⟩

theorem Module.Captured.trans {a b c : Module} (h : a.Captured b) (h' : b.Captured c) : a.Captured c where
  rest := by
    have e := h'.rest
    rw [h.rest] at e
    exact e
  die d := by
    obtain ⟨_, e⟩ := h.die d
    obtain ⟨g, e'⟩ := h'.die d
    exact ⟨g, by rw [e', e]⟩

theorem Module.captured_count (m : Module) (blk off n : Nat) : m.Captured (m.count blk off n) := by
  refine ⟨?_, fun d => ⟨(m.die d).ring, by simp⟩⟩
  obtain ⟨v, h⟩ | h := m.count_cases blk off n <;> rw [h]
  rfl

theorem Module.captured_capture (m : Module) (r : WsRec) (h : Hdr) : m.Captured (m.capture r h) := by
  unfold Module.capture
  dsimp only
  split
  · exact .refl m
  split
  · exact m.captured_setRing _ _
  · refine .trans ?_ (Module.captured_setRing _ _ _)
    split
    · exact .refl m
    · refine .trans ?_ (Module.captured_count _ _ _ _)
      exact ⟨rfl, fun d => ⟨(m.die d).ring, rfl⟩⟩

section
variable {a b : Module} (h : a.Captured b)
include h

theorem Module.Captured.net : b.net = a.net := by rw [h.rest]
theorem Module.Captured.keep : b.keep = a.keep := by rw [h.rest]
theorem Module.Captured.ports : b.ports = a.ports := by rw [h.rest]

theorem Module.Captured.localQ (d : Nat) : (b.die d).localQ = (a.die d).localQ := by
  obtain ⟨_, e⟩ := h.die d
  rw [e]

end

/-! ### A packet through what is recorded and queued -/

/-- A packet but for its copies, whether it is captured, and how long it is at the head of its queue. -/
def BPkt.Kept (x y : BPkt) : Prop := y = { x with copies := y.copies, captured := y.captured, headSince := y.headSince }

theorem BPkt.Kept.refl (x : BPkt) : x.Kept x := rfl

theorem BPkt.Kept.trans {x y z : BPkt} (h : x.Kept y) (h' : y.Kept z) : x.Kept z := by
  unfold BPkt.Kept at h h' ⊢
  rw [h] at h'
  exact h'

section
variable {x y : BPkt} (h : x.Kept y)
include h

theorem BPkt.Kept.id : y.id = x.id := by rw [show y = _ from h]
theorem BPkt.Kept.mcast : y.mcast = x.mcast := by rw [show y = _ from h]
theorem BPkt.Kept.here : y.here = x.here := by rw [show y = _ from h]

end

/-- Every buffered packet is still there, kept; and so is the module's identity. -/
structure Module.Held (a b : Module) : Prop where
  keep : a.keep.Held b.keep
  pkts : ∃ f : BPkt → BPkt, (∀ x : BPkt, x.Kept (f x)) ∧ b.net.pkts = a.net.pkts.map f

theorem Module.Held.of_pkts {a b : Module} (hk : b.keep = a.keep) (hp : b.net.pkts = a.net.pkts) : a.Held b :=
  ⟨hk ▸ .refl _, fun x => x, .refl, by rw [hp, List.map_id']⟩

theorem Module.Held.refl (a : Module) : a.Held a := .of_pkts rfl rfl

theorem Module.Held.trans {a b c : Module} (h : a.Held b) (h' : b.Held c) : a.Held c where
  keep := h.keep.trans h'.keep
  pkts := by
    obtain ⟨f, hf, e⟩ := h.pkts
    obtain ⟨g, hg, e'⟩ := h'.pkts
    exact ⟨g ∘ f, fun x => (hf x).trans (hg (f x)), by rw [e', e, List.map_map]⟩

theorem Module.Held.bp {a b : Module} (h : a.Held b) {id : Nat} {x : BPkt} (hx : a.bp id = some x) :
    ∃ y, b.bp id = some y ∧ x.Kept y := by
  obtain ⟨f, hf, e⟩ := h.pkts
  have hid : ((·.id == id) ∘ f : BPkt → Bool) = (·.id == id) := funext fun y => by simp [(hf y).id]
  refine ⟨f x, ?_, hf x⟩
  unfold Module.bp at hx ⊢
  rw [e, List.find?_map, hid, hx, Option.map_some]

theorem Module.Held.mem {a b : Module} (h : a.Held b) {x : BPkt} (hx : x ∈ a.net.pkts) : ∃ y ∈ b.net.pkts, x.Kept y := by
  obtain ⟨f, hf, e⟩ := h.pkts
  exact ⟨f x, e ▸ List.mem_map_of_mem hx, hf x⟩

theorem Module.Unmoved.held {a b : Module} (h : a.Unmoved b) : a.Held b := .of_pkts h.keep h.pkts

theorem Module.Captured.held {a b : Module} (h : a.Captured b) : a.Held b := .of_pkts h.keep (by rw [h.net])

/-- Every packet under an identifier changes, but is kept. -/
theorem Module.held_updBp (m : Module) (i : Nat) {f : BPkt → BPkt} (hf : ∀ b : BPkt, b.Kept (f b)) : m.Held (m.updBp i f) := by
  refine ⟨.refl _, _, fun x => ?_, rfl⟩
  split
  · exact hf x
  · exact .refl x

theorem Module.held_foldl {α : Type} {f : Module → α → Module} (hf : ∀ m x, Module.Held m (f m x)) (l : List α)
    (m : Module) : m.Held (l.foldl f m) :=
  List.foldlRecOn l f (motive := fun n => m.Held n) (.refl m) fun n h x _ => h.trans (hf n x)

/-- What records leave: every buffered packet, kept, the rest of the switches' state, the ports, and the queues of packets that
wait for their local target. -/
structure Module.Recorded (a b : Module) : Prop extends Module.Held a b where
  net : b.net = { a.net with pkts := b.net.pkts }
  ports : b.ports = a.ports
  localQ : ∀ d, (b.die d).localQ = (a.die d).localQ

theorem Module.Recorded.refl (a : Module) : a.Recorded a := ⟨.refl a, rfl, rfl, fun _ => rfl⟩

theorem Module.Recorded.trans {a b c : Module} (h : a.Recorded b) (h' : b.Recorded c) : a.Recorded c where
  toHeld := h.toHeld.trans h'.toHeld
  net := by
    have e := h'.net
    rw [h.net] at e
    exact e
  ports := h'.ports.trans h.ports
  localQ d := (h'.localQ d).trans (h.localQ d)

theorem Module.Captured.recorded {a b : Module} (h : a.Captured b) : a.Recorded b :=
  ⟨h.held, by rw [h.net], h.ports, h.localQ⟩

theorem Module.recorded_updBp (m : Module) (i : Nat) {f : BPkt → BPkt} (hf : ∀ b : BPkt, b.Kept (f b)) :
    m.Recorded (m.updBp i f) :=
  ⟨m.held_updBp i hf, rfl, rfl, fun _ => rfl⟩

theorem Module.recorded_record (m : Module) (b : BPkt) (r : WsRec) : m.Recorded (m.record b r) := by
  unfold Module.record
  dsimp only
  split
  · exact .refl m
  · exact (m.captured_capture _ _).recorded.trans (Module.recorded_updBp _ b.id fun _ => by rfl)

theorem Module.recorded_passRecord (m : Module) (b : BPkt) (p v kind q : Nat) : m.Recorded (m.passRecord b p v kind q) := by
  unfold Module.passRecord
  split
  · exact .refl m
  · exact m.recorded_record b _

/-! ### A copy queued (R137, R138, R164) -/

theorem Module.unmoved_redDecide (m : Module) (eg prof avg d g : Nat) : m.Unmoved (m.redDecide eg prof avg d g).1 := by
  unfold Module.redDecide
  dsimp only
  split
  · exact .refl m
  split
  · exact .refl m
  · exact m.unmoved_setDie d _

theorem Module.unmoved_detect (m : Module) (d g p v c : Nat) (h : Hdr) : m.Unmoved (m.detect d g p v c h).1 := by
  unfold Module.detect
  dsimp only
  split
  · exact .refl m
  split
  · exact m.unmoved_count _ _ _
  · have hr := m.unmoved_redDecide (p / 32) (m.reg (swBlk (p / 32) 6) (0x900 + 4 * avgKey p v) (4 * min h.colour 2))
      ((m.die (p / 32)).avg.get (avgKey p v)) d g
    split
    · exact hr
    split
    · exact hr.trans (Module.unmoved_count _ _ _ _)
    · exact hr.trans (Module.unmoved_count _ _ _ _)

theorem Module.held_newHead (m : Module) (k : Nat) : m.Held (m.newHead k) := by
  refine .of_pkts ?_ (m.newHead_net k).2
  unfold Module.newHead
  dsimp only
  split
  · rfl
  · split <;> rfl

theorem Module.unmoved_averaged (m : Module) (p v q : Nat) : m.Unmoved (m.averaged p v q) := by
  unfold Module.averaged
  exact .ite (fun _ => .refl m) fun _ => m.unmoved_setDie _ _

theorem Module.held_enqueue (m : Module) (i : Nat) (c : Copy) : m.Held (m.enqueue i c) := by
  have h := m.held_updBp i (f := fun b => { b with copies := b.copies ++ [c] }) fun _ => rfl
  unfold Module.enqueue
  dsimp only
  refine h.trans ?_
  split
  · refine .trans ?_ (Module.held_newHead _ _)
    exact .of_pkts rfl rfl
  · exact .of_pkts rfl rfl

theorem Module.held_putCopy (m : Module) (i d g p v : Nat) (h : Hdr) (hold : Option Nat) (fixed : Bool) :
    m.Held (m.putCopy i d g p v h hold fixed) := by
  unfold Module.putCopy
  split
  · exact .refl m
  next b _ =>
    have hd := (m.unmoved_detect d g p v b.cells h).held
    dsimp only
    split
    · exact hd.trans (Module.recorded_record _ _ _).toHeld
    next h' _ =>
      refine hd.trans (.trans ?_ (Module.recorded_passRecord _ _ _ _ _ _).toHeld)
      refine .trans (.trans ?_ (Module.unmoved_averaged _ _ _ _).held) (Module.held_enqueue _ _ _)
      split
      · exact (Module.unmoved_headwind _ _ _ _ _ _).held
      · exact .refl _

/-! ### Replication (R100, R259) -/

/-- The waits of the heads of a die's local queues start. -/
theorem Module.recorded_localHeads (m : Module) (d : Nat) : m.Recorded (m.localHeads d) := by
  refine List.foldlRecOn _ _ (motive := fun n : Module => m.Recorded n) (.refl m) fun n h t _ => h.trans ?_
  split
  · refine n.recorded_updBp _ fun b => ?_
    split <;> rfl
  · exact .refl n

/-- A packet that now waits for its local target, last in its die's queue. -/
def Module.queuedHere (m : Module) (d id : Nat) : Module :=
  let m := m.updBp id fun b => { b with here := true }
  m.setDie d { m.die d with localQ := (m.die d).localQ ++ [id] }

theorem Module.recorded_pushLocal (m : Module) (d id : Nat) : (m.queuedHere d id).Recorded (m.pushLocal d id) :=
  Module.recorded_localHeads _ d

theorem Module.mem_localQ_queuedHere (m : Module) (d id : Nat) : id ∈ ((m.queuedHere d id).die d).localQ := by
  unfold Module.queuedHere
  rw [Module.die_setDie_same]
  simp

theorem Module.bp_queuedHere {m : Module} {id : Nat} {x : BPkt} (d : Nat) (h : m.bp id = some x) :
    (m.queuedHere d id).bp id = some { x with here := true } := Module.bp_updBp_same (fun _ => by rfl) h

/-- A packet that waits for its local target is recorded as it passes, and is not discarded. -/
def Module.passed (m : Module) (id : Nat) : Module :=
  (match m.bp id with
    | some b => if b.here then m.passRecord b 0 0 1 0 else if b.copies.isEmpty then m.dropRecord b 4 0 0 2 0 else m
    | none => m).discardIfNone id

theorem Module.discardIfNone_here {m : Module} {id : Nat} {x : BPkt} (h : m.bp id = some x) (hh : x.here = true) :
    m.discardIfNone id = m := by
  unfold Module.discardIfNone
  rw [h]
  simp [hh]

theorem Module.passed_here {m : Module} {id : Nat} {x : BPkt} (h : m.bp id = some x) (hh : x.here = true) :
    m.passed id = m.passRecord x 0 0 1 0 := by
  obtain ⟨y, hy, hk⟩ := (m.recorded_passRecord x 0 0 1 0).bp h
  unfold Module.passed
  rw [h]
  simp only [hh, if_true]
  exact Module.discardIfNone_here hy (hk.here.trans hh)

/-- A packet that joins its die's queue is recorded as it passes. -/
theorem Module.recorded_passed {m : Module} {id : Nat} {x : BPkt} (d : Nat) (h : m.bp id = some x) :
    (m.queuedHere d id).Recorded ((m.pushLocal d id).passed id) := by
  have hr := m.recorded_pushLocal d id
  obtain ⟨y, hy, hk⟩ := hr.bp (Module.bp_queuedHere d h)
  rw [Module.passed_here hy hk.here]
  exact hr.trans (Module.recorded_passRecord _ y 0 0 1 0)

theorem Module.mem_localQ_passed {m : Module} {id : Nat} {x : BPkt} (d : Nat) (h : m.bp id = some x) :
    id ∈ (((m.pushLocal d id).passed id).die d).localQ := by
  rw [(Module.recorded_passed d h).localQ]
  exact m.mem_localQ_queuedHere d id

theorem Module.bp_passed {m : Module} {id : Nat} {x : BPkt} (d : Nat) (h : m.bp id = some x) :
    ∃ y, ((m.pushLocal d id).passed id).bp id = some y ∧ y.here = true ∧ y.mcast = x.mcast := by
  obtain ⟨y, hy, hk⟩ := (Module.recorded_passed d h).bp (Module.bp_queuedHere d h)
  exact ⟨y, hy, hk.here, hk.mcast⟩

/-- The ports of an entry are found with the ones left out counted. -/
theorem Module.unmoved_mcPorts (m : Module) (d : Nat) (e : MEntry) (o : Option Nat) : m.Unmoved (m.mcPorts d e o).1 := by
  unfold Module.mcPorts
  refine List.foldlRecOn _ _ (motive := fun a : Module × List Nat => m.Unmoved a.1) (.refl m) fun a h p _ => ?_
  split
  · exact h
  split
  · exact h.trans (Module.unmoved_count _ _ _ _)
  split
  · exact h.trans (Module.unmoved_count _ _ _ _)
  · exact h

theorem Module.queues_freeBp (m : Module) (id : Nat) : (m.freeBp id).net.queues = m.net.queues := by
  cases h : m.bp id with
  | none => rw [Module.freeBp_none h]
  | some b =>
    have hc (n : Module) : (n.chargeReturned id b).net = n.net := by
      unfold Module.chargeReturned
      split
      · dsimp only
        have hf (k : Module) (p v c : Nat) : (k.creditReturn p v c).net = k.net := by
          exact (Module.credited_creditFlush _ p).net
        rw [hf]
        split <;> rfl
      · rfl
    rw [Module.freeBp_some h, Module.checkBacked_net, hc]
    rfl

/-- A multicast packet discarded at step 4: counted, recorded and freed. -/
def Module.mcDropped (m : Module) (id d : Nat) (b : BPkt) (off : Nat) : Module :=
  ((m.count (swBlk d 10) off).dropRecord b 4 0 0 2 0).freeBp id

theorem Module.mcDropped_frame (m : Module) (id d : Nat) (b : BPkt) (off : Nat) :
    (m.mcDropped id d b off).bp id = none ∧ (m.mcDropped id d b off).net.queues = m.net.queues := by
  refine ⟨Module.bp_freeBp_self _ id, ?_⟩
  unfold Module.mcDropped Module.dropRecord
  rw [Module.queues_freeBp, (Module.recorded_record _ _ _).net, Module.count_net]

/-- A multicast packet whose replication begins. -/
def Module.mcBegun (m : Module) (id : Nat) : Module := m.updBp id fun b => { b with mcast := false }

/-- A multicast packet copied to the ports of its entry. -/
def Module.mcCopied (m : Module) (id : Nat) (b : BPkt) (e : MEntry) : Module :=
  let (m, ports) := m.mcPorts b.die e b.pkt.port
  let g := match b.inPort with | some p => p / 8 % 4 | none => 4
  let v := if b.inPort.isSome then b.pkt.h.vc else bits e.word0 14 12
  ports.foldl (fun m p => m.putCopy id b.die g p v (b.pkt.h.setVc v) none) m

theorem Module.held_mcCopied (m : Module) (id : Nat) (b : BPkt) (e : MEntry) : m.Held (m.mcCopied id b e) := by
  unfold Module.mcCopied
  exact (m.unmoved_mcPorts _ _ _).held.trans (Module.held_foldl (fun n p => n.held_putCopy id _ _ _ _ _ _ _) _ _)

theorem mcastReplication_eq {m : Module} {id : Nat} {b : BPkt} (hb : m.bp id = some b) (hm : b.mcast = true)
    (hd : NothingDue m) : mcastReplication id m =
      let e := m.mcEntry b.pkt.h
      if !bitAt e.word0 16 then (m.mcBegun id).mcDropped id b.die b 0x108
      else if bits e.word0 11 0 != b.pkt.h.part then (m.mcBegun id).mcDropped id b.die b 0x110
      else
        let n := (m.mcBegun id).mcCopied id b e
        (if bitAt e.word0 15 && n.chip != 131071 && b.pkt.port.any (· < 256) then n.pushLocal b.die id else n).passed id := by
  unfold mcastReplication
  rw [hb]
  dsimp only
  rw [hm, Module.rerouteDue_none hd]
  rfl

theorem mcastReplication_refused {m : Module} {id : Nat} {b : BPkt} (hb : m.bp id = some b) (hm : b.mcast = true)
    (hd : NothingDue m)
    (h : bitAt (m.mcEntry b.pkt.h).word0 16 = false ∨ bits (m.mcEntry b.pkt.h).word0 11 0 ≠ b.pkt.h.part) :
    (mcastReplication id m).bp id = none ∧ (mcastReplication id m).net.queues = m.net.queues := by
  rw [mcastReplication_eq hb hm hd]
  dsimp only
  split
  · exact (m.mcBegun id).mcDropped_frame id b.die b 0x108
  next hv =>
    have hp : bits (m.mcEntry b.pkt.h).word0 11 0 ≠ b.pkt.h.part := h.resolve_left (by simpa using hv)
    rw [if_pos (by simpa using hp)]
    exact (m.mcBegun id).mcDropped_frame id b.die b 0x110

theorem mcastReplication_member {m : Module} {id q : Nat} {b : BPkt} (hb : m.bp id = some b) (hm : b.mcast = true)
    (hd : NothingDue m) (hv : bitAt (m.mcEntry b.pkt.h).word0 16 = true)
    (hp : bits (m.mcEntry b.pkt.h).word0 11 0 = b.pkt.h.part) (hmem : bitAt (m.mcEntry b.pkt.h).word0 15 = true)
    (hchip : m.chip ≠ 131071) (hq : b.pkt.port = some q) (hq' : q < 256) :
    id ∈ ((mcastReplication id m).die b.die).localQ ∧
      ∃ b', (mcastReplication id m).bp id = some b' ∧ b'.here = true ∧ b'.mcast = false := by
  have hbegun : (m.mcBegun id).bp id = some { b with mcast := false } := Module.bp_updBp_same (fun _ => by rfl) hb
  have hh := (m.mcBegun id).held_mcCopied id b (m.mcEntry b.pkt.h)
  obtain ⟨x, hx, hxk⟩ := hh.bp hbegun
  have hc : ((m.mcBegun id).mcCopied id b (m.mcEntry b.pkt.h)).chip = m.chip := hh.keep.field (o := 0x008) 16 0 (by decide)
  have e : mcastReplication id m =
      (((m.mcBegun id).mcCopied id b (m.mcEntry b.pkt.h)).pushLocal b.die id).passed id := by
    rw [mcastReplication_eq hb hm hd]
    dsimp only
    rw [hc, if_neg (by simp [hv]), if_neg (by simp [hp]), if_pos (by simp [hmem, hchip, hq, hq'])]
  rw [e]
  obtain ⟨y, hy, hyh, hym⟩ := Module.bp_passed b.die hx
  exact ⟨Module.mem_localQ_passed b.die hx, y, hy, hyh, hym.trans hxk.mcast⟩

/-! ### The trailer (R106, R108, R122) -/

/-- The trailer of a FILL packet. -/
theorem Module.fillTail_frame {m : Module} {p : Nat} (h : 8 ≤ (m.wire p).rxq.length) :
    ((m.fillTail p).wire p).filling = false ∧ ((m.fillTail p).wire p).rxq = (m.wire p).rxq.drop 8 ∧
      OtherPorts p m (m.fillTail p) := by
  unfold Module.fillTail
  dsimp only
  rw [if_neg (by omega)]
  have ho := otherPorts_setWire m p { m.wire p with filling := false, rxq := (m.wire p).rxq.drop 8 }
  split
  · exact ⟨by simp, by simp, ho⟩
  · exact ⟨by simp, by simp, ho.trans (.of_ports_eq (Module.count_ports _ _ _ _))⟩

theorem packetTailArrival_fill {m : Module} {p : Nat} (hp : p < 256) (hm : m.pwr.main = true) (hst : m.pwr.st ≠ 4)
    (hf : (m.wire p).filling = true) (hq : 8 ≤ (m.wire p).rxq.length) :
    packetTailArrival p [] (BitVec.ofNat 32 (fieldBE (m.wire p).rxq 0 4)) (BitVec.ofNat 32 (fieldBE (m.wire p).rxq 4 4)) m =
      m.fillTail p := by
  have hn : m.tailNext p 0 [] (BitVec.ofNat 32 (fieldBE (m.wire p).rxq 0 4)) (BitVec.ofNat 32 (fieldBE (m.wire p).rxq 4 4)) = true := by
    simp [Module.tailNext, hq]
  unfold packetTailArrival
  rw [Module.onPort_of_linkIn ⟨hp, hm, hst, rfl⟩]
  dsimp only
  rw [if_pos hf, if_pos hn]

/-- The module as the payload and the trailer of a packet that arrives are taken off the stream, into the packet. -/
def Module.tailTaken (m : Module) (p id : Nat) (n : Nat) (k : Pkt) : Module :=
  let w := m.wire p
  (m.setWire p { w with arriving := none, rxq := w.rxq.drop (n + 8) }).updBp id fun b => { b with pkt := k, whole := true }

theorem packetTailArrival_eq {m : Module} {p id : Nat} {b : BPkt} (hp : p < 256) (hm : m.pwr.main = true) (hst : m.pwr.st ≠ 4)
    (hf : (m.wire p).filling = false) (ha : (m.wire p).arriving = some id) (hb : m.bp id = some b) (hmc : b.mcast = false)
    (pl : Bytes) (t0 t1 : Word) : packetTailArrival p pl t0 t1 m =
      if m.tailNext p b.pkt.h.len pl t0 t1 then
        (m.tailTaken p id b.pkt.h.len { b.pkt with pl := pl, t0 := t0, t1 := t1 }).packetWhole p id
          { b with pkt := { b.pkt with pl := pl, t0 := t0, t1 := t1 } }
      else m := by
  obtain rfl := Module.bp_id hb
  unfold packetTailArrival
  rw [Module.onPort_of_linkIn ⟨hp, hm, hst, rfl⟩]
  dsimp only
  rw [if_neg (by simp [hf]), ha, Option.bind_some, hb]
  dsimp only
  by_cases hn : m.tailNext p b.pkt.h.len pl t0 t1 = true
  · rw [if_neg (by simp [hmc, hn]), if_pos hn]
    rfl
  · rw [if_pos (by simp [hn]), if_neg hn]

/-- What has come whole is off the stream, and in its packet. -/
theorem Module.tailTaken_frame {m : Module} {p id : Nat} {b : BPkt} (hb : m.bp id = some b) (n : Nat) (k : Pkt) :
    ((m.tailTaken p id n k).wire p).arriving = none ∧ ((m.tailTaken p id n k).wire p).rxq = (m.wire p).rxq.drop (n + 8) ∧
      (m.tailTaken p id n k).bp id = some { b with pkt := k, whole := true } := by
  have hw : (m.tailTaken p id n k).wire p = { m.wire p with arriving := none, rxq := (m.wire p).rxq.drop (n + 8) } :=
    m.wire_setWire_same p _
  exact ⟨by rw [hw], by rw [hw], Module.bp_updBp_same (fun _ => by rfl) hb⟩

theorem Module.settle_here {m : Module} {id : Nat} {b : BPkt} (h : m.bp id = some b) (hh : b.here = true) : m.settle id = m := by
  unfold Module.settle
  rw [h]
  simp [hh]

theorem Module.dropUnbegun_none {m : Module} {id : Nat} {b : BPkt} (h : m.bp id = some b) (hc : b.copies = []) :
    m.dropUnbegun id = m := by
  unfold Module.dropUnbegun
  rw [h]
  simp [hc]

/-- A bad packet of which nothing has left and which waits for no local target: counted, recorded and freed (R122). -/
def Module.badFreed (m : Module) (p id : Nat) (b : BPkt) : Module :=
  ((((m.count (pgBlk p) 0x490).raise 8 (pgBlk p) p).captureLost b 8).dropUnbegun id).freeBp id

theorem Module.badFreed_frame (m : Module) (p id : Nat) (b : BPkt) :
    m.Aside (m.badFreed p id b) ∧ (m.badFreed p id b).bp id = none :=
  ⟨((((m.aside_count _ _ _).trans ((Module.Reported.refl _).raise (by decide) _ _ _).aside).trans
    (Module.aside_captureLost _ b 8)).trans (Module.aside_dropUnbegun _ id)).trans (Module.aside_freeBp _ id),
    Module.bp_freeBp_self _ id⟩

theorem Module.packetWhole_good {m : Module} {id : Nat} {b x : BPkt} (p : Nat) (hk : x.mark = none) (hg : x.pkt.good = true)
    (hb : m.bp id = some b) (hh : b.here = true) : m.packetWhole p id x = m := by
  unfold Module.packetWhole
  simp [hk, hg, Module.settle_here hb hh]

theorem Module.packetWhole_badHere {m : Module} {id : Nat} {b x : BPkt} (p : Nat) (hk : x.mark = none) (hg : x.pkt.good = false)
    (hxc : x.copies = []) (hxh : x.here = true) (hb : m.bp id = some b) (hc : b.copies = []) :
    m.packetWhole p id x = m.updBp id fun b => { b with bad := true } := by
  unfold Module.packetWhole
  simp [hk, hg, hxc, hxh, Module.dropUnbegun_none hb hc]

theorem Module.packetWhole_badFreed {m : Module} {id : Nat} {x : BPkt} (p : Nat) (hk : x.mark = none) (hg : x.pkt.good = false)
    (hxc : ∀ c ∈ x.copies, c.begun = false) (hxh : x.here = false) : m.packetWhole p id x = m.badFreed p id x := by
  have hany : x.copies.any (·.begun) = false := by
    rw [List.any_eq_false]
    exact fun c hc => by simp [hxc c hc]
  unfold Module.packetWhole
  simp only [hk, hg, hany, hxh, Option.isSome_none, Bool.false_eq_true, if_false]
  rfl

end Sys2Proof.Machine

namespace Sys2Proof.Proofs
open Sys2Proof.Machine Sys2Proof.Claims

/-- Settles O20: what comes whole is off the stream and in its packet before the packet is judged; and what discards, records
and copies leaves the arriving stream, or the packet that waits for its local target. -/
theorem trailersAndMulticast : Obligations.TrailersAndMulticast := by
  unfold Obligations.TrailersAndMulticast
  refine ⟨fun s p id b hp hm hst => ⟨fun hf hq => ?_, fun hf ha hb hmc hk hq => ?_⟩, fun s id b hb hm hd => ⟨fun h => ?_, ?_⟩⟩
  · refine completes_withM (packetTailArrival p _ _ _) rfl ?_
    rw [packetTailArrival_fill hp hm hst hf hq]
    exact Module.fillTail_frame hq
  · have heq := packetTailArrival_eq hp hm hst hf ha hb hmc
    have hnext (pl : Bytes) (t0 t1 : Word) : s.m.tailNext p b.pkt.h.len pl t0 t1 = true ↔
        (pl, t0, t1) = ((s.m.wire p).rxq.take b.pkt.h.len, BitVec.ofNat 32 (fieldBE (s.m.wire p).rxq b.pkt.h.len 4),
          BitVec.ofNat 32 (fieldBE (s.m.wire p).rxq (b.pkt.h.len + 4) 4)) := by
      simp [Module.tailNext, hq, and_assoc]
    have htaken := (hnext _ _ _).mpr rfl
    generalize hkk : ({ b.pkt with
      pl := (s.m.wire p).rxq.take b.pkt.h.len
      t0 := BitVec.ofNat 32 (fieldBE (s.m.wire p).rxq b.pkt.h.len 4)
      t1 := BitVec.ofNat 32 (fieldBE (s.m.wire p).rxq (b.pkt.h.len + 4) 4) } : Pkt) = k at htaken ⊢
    obtain ⟨harr, hrxq, hbp⟩ := Module.tailTaken_frame (p := p) hb b.pkt.h.len k
    have hwhole : packetTailArrival p k.pl k.t0 k.t1 s.m =
        (s.m.tailTaken p id b.pkt.h.len k).packetWhole p id { b with pkt := k } := by
      rw [heq, if_pos ((hnext _ _ _).mpr (by rw [← hkk]))]
      rw [← hkk]
    refine ⟨fun pl t0 t1 hne => ?_, fun hg hh => ?_, fun hg hh hc => ?_, fun hg hh hc => ?_⟩
    · refine completes_withM (packetTailArrival p pl t0 t1) rfl ?_
      rw [heq, if_neg]
      rw [hnext]
      subst hkk
      exact hne
    all_goals
      refine completes_withM (packetTailArrival p k.pl k.t0 k.t1) rfl ?_
      rw [hwhole]
    · rw [Module.packetWhole_good (x := { b with pkt := k }) p hk hg hbp hh]
      exact ⟨⟨harr, hrxq⟩, hbp⟩
    · rw [Module.packetWhole_badHere (x := { b with pkt := k }) p hk hg hc hh hbp hc]
      exact ⟨⟨harr, hrxq⟩, _, Module.bp_updBp_same (fun _ => by rfl) hbp, rfl, rfl⟩
    · rw [Module.packetWhole_badFreed (x := { b with pkt := k }) p hk hg hc hh]
      obtain ⟨haside, hfreed⟩ := (s.m.tailTaken p id b.pkt.h.len k).badFreed_frame p id { b with pkt := k }
      obtain ⟨hwarr, hwq, -⟩ := (haside.wire p).arrived harr
      exact ⟨⟨hwarr, hwq.trans hrxq⟩, hfreed⟩
  · exact completes_withM (mcastReplication id) rfl (mcastReplication_refused hb hm hd h)
  · rintro hv hpart hmem hchip ⟨q, hq, hq'⟩
    exact completes_withM (mcastReplication id) rfl (mcastReplication_member hb hm hd hv hpart hmem hchip hq hq')

end Sys2Proof.Proofs
end

section
/-!
The lookup of a header that arrives: the packet discarded at it, and the packet for this module (R60, R97, R112, R118, R119, R127).
-/
namespace Sys2Proof
open Sys2Proof.Machine Sys2Proof.Claims

/-! ### Header fields (R85) -/

section
variable (h : Hdr) (v : Nat)

theorem Hdr.setColour_type : (h.setColour v).type = h.type := by
  simp only [Hdr.type, Hdr.setColour, wbits, wset, bits, setBits, BitVec.toNat_ofNat]
  omega

theorem Hdr.setColour_vc : (h.setColour v).vc = h.vc := by
  simp only [Hdr.vc, Hdr.setColour, wbits, wset, bits, setBits, BitVec.toNat_ofNat]
  omega

theorem Hdr.setColour_mode : (h.setColour v).mode = h.mode := by
  simp only [Hdr.mode, Hdr.setColour, wbits, wset, bits, setBits, BitVec.toNat_ofNat]
  omega

theorem Hdr.setColour_dest : (h.setColour v).dest = h.dest := by
  simp only [Hdr.dest, Hdr.setColour, wbits, wset, bits, setBits, BitVec.toNat_ofNat]
  omega

theorem Hdr.setMode_dest : (h.setMode v).dest = h.dest := by
  simp only [Hdr.dest, Hdr.setMode, wbits, wset, bits, setBits, BitVec.toNat_ofNat]
  omega

end

/-- Whether a header is one that the routing of this module keeps here: for its chip, and neither Directed, nor Calm, nor
multicast. -/
structure Hdr.ForHere (m : Module) (h : Hdr) : Prop where
  mode : h.mode ≠ 2
  vc : h.vc ≠ 0
  type : h.type ≠ 0x15
  dest : m.isOwn h.dest = true

theorem Hdr.ForHere.setColour {m : Module} {h : Hdr} (hh : h.ForHere m) (v : Nat) : (h.setColour v).ForHere m :=
  ⟨h.setColour_mode v ▸ hh.mode, h.setColour_vc v ▸ hh.vc, h.setColour_type v ▸ hh.type, h.setColour_dest v ▸ hh.dest⟩

theorem Hdr.ForHere.keep {a b : Module} {h : Hdr} (hh : h.ForHere a) (hk : a.keep.Held b.keep) : h.ForHere b := by
  have hc : b.chip = a.chip := hk.field (o := 0x008) 16 0 (by decide)
  exact ⟨hh.mode, hh.vc, hh.type, by rw [Module.isOwn, hc]; exact hh.dest⟩

end Sys2Proof

namespace Sys2Proof.Machine
open Sys2Proof.Claims

/-- A packet for this module waits here (R97). -/
theorem Module.decide_here {m : Module} {h : Hdr} (hh : h.ForHere m) (d g : Nat) (ip : Option Nat) (first : Bool) :
    ∃ h', m.decide d g h ip first = (m, .here h') := by
  have hdest (c : Bool) : m.isOwn (if c = true then h.setMode 0 else h).dest = true := by
    cases c
    · exact hh.dest
    · exact (h.setMode_dest 0).symm ▸ hh.dest
  unfold Module.decide
  rw [if_neg (by simp [hh.mode]), if_neg (by simp [hh.vc])]
  dsimp only
  rw [hdest, if_pos rfl]
  exact ⟨_, rfl⟩

/-! ### What notes of an arrival leave -/

/-- What the books of credit, counters, records and faults leave of the switches: the buffered packets and their identifiers,
of each wire everything but its returns, the power state but for a recorded wake, and the module's identity. -/
structure Module.Booked (a b : Module) : Prop where
  wire : ∀ q, b.wire q = { a.wire q with ret := (b.wire q).ret, held := (b.wire q).held }
  pkts : b.net.pkts = a.net.pkts
  nextId : b.net.nextId = a.net.nextId
  pwr : a.pwr.Woken b.pwr
  keep : a.keep.Held b.keep

/-- The same, and of each die everything but its ring and its bits of credit. -/
structure Module.Noted (a b : Module) : Prop extends Module.Booked a b where
  die : ∀ d, b.die d = { a.die d with
    ring := (b.die d).ring, unbacked := (b.die d).unbacked, withholding := (b.die d).withholding }

theorem Module.Booked.trans {a b c : Module} (h : a.Booked b) (h' : b.Booked c) : a.Booked c where
  wire q := by
    have e := h'.wire q
    rw [h.wire q] at e
    exact e
  pkts := h'.pkts.trans h.pkts
  nextId := h'.nextId.trans h.nextId
  pwr := h.pwr.trans h'.pwr
  keep := h.keep.trans h'.keep

theorem Module.Noted.trans {a b c : Module} (h : a.Noted b) (h' : b.Noted c) : a.Noted c where
  toBooked := h.toBooked.trans h'.toBooked
  die d := by
    have e := h'.die d
    rw [h.die d] at e
    exact e

theorem Module.Credited.noted {a b : Module} (h : a.Credited b) : a.Noted b where
  wire q := by
    obtain ⟨_, _, e⟩ := h.wire q
    rw [e]
  pkts := by rw [h.net]
  nextId := by rw [h.net]
  pwr := h.pwr
  keep := h.keep
  die d := by
    obtain ⟨_, _, e⟩ := h.die d
    rw [e]

theorem Module.Reported.noted {a b : Module} (h : a.Reported b) : a.Noted b := h.credited.noted

theorem Module.Captured.noted {a b : Module} (h : a.Captured b) : a.Noted b where
  wire q := by rw [Module.wire, Module.port, h.ports]; rfl
  pkts := by rw [h.net]
  nextId := by rw [h.net]
  pwr := by rw [h.rest]
  keep := h.keep ▸ .refl _
  die d := by
    obtain ⟨_, e⟩ := h.die d
    rw [e]

theorem Module.Noted.refl (a : Module) : a.Noted a := (Module.Captured.refl a).noted

theorem Module.noted_count (m : Module) (blk off n : Nat) : m.Noted (m.count blk off n) := (m.captured_count blk off n).noted

theorem Module.Noted.freeCells {a b : Module} (h : a.Noted b) (d : Nat) : (b.die d).freeCells = (a.die d).freeCells := by
  rw [h.die d]
  rfl

theorem Module.Noted.mode {a b : Module} (h : a.Noted b) (d : Nat) : (b.die d).mode = (a.die d).mode := by
  rw [h.die d]

theorem Module.booked_setDie (m : Module) (d : Nat) (x : Die) : m.Booked (m.setDie d x) := ⟨fun _ => rfl, rfl, rfl, .refl _, .refl _⟩

theorem Module.Booked.net {a b : Module} (h : a.Booked b) {n : Net} (hp : n.pkts = b.net.pkts) (hi : n.nextId = b.net.nextId) :
    a.Booked { b with net := n } := ⟨h.wire, hp.trans h.pkts, hi.trans h.nextId, h.pwr, h.keep⟩

/-! ### A header discarded (R112, R118, R119) -/

/-- The module as a header is taken off the stream for its lookup. -/
def Module.headerTaken (m : Module) (p : Nat) : Module :=
  let m := m.rxDrop p 32
  { m with pwr := { m.pwr with activeAt := m.ticks } }.wake 1

/-- A check failed: it counts, and the header is recorded. -/
def Module.headerRefused (m : Module) (p : Nat) (h : Hdr) (k : Nat) : Module :=
  ((m.ingressCount p k).cmdRefused k h).captureDrop (p / 32) p h m.now 1 (2 * b2n (m.wsMatch (p / 32) h))

theorem packetArrival_eq {m : Module} {p : Nat} {h : Hdr} (hh : m.rxHead p = some h) (hd : NothingDue m) (hl : LinkIn m p 6)
    (hm : (m.die (p / 32)).mode = 2) (hf : m.dieFenced (p / 32) = false) (ht : h.type ≠ 0xF0) (hi : m.inLookup p = false) :
    packetArrival p h m =
      if (m.headerTaken p).ingressFail p h == 0 then (m.headerTaken p).lookup p h
      else ((m.headerTaken p).headerRefused p h ((m.headerTaken p).ingressFail p h)).dropHeader p h := by
  obtain ⟨-, -, -, hst⟩ := id hl
  unfold packetArrival
  rw [Module.onPort_of_linkIn hl, if_neg (by simp [hh]), if_neg (by simp [ht]), if_neg (by simp [hst])]
  dsimp only
  rw [if_neg (by simp [hst, hm, hf, hi]), Module.rerouteDue_none hd]
  rfl

theorem Module.noted_headerTaken (m : Module) (p : Nat) :
    Module.Noted { m.rxDrop p 32 with pwr := { m.pwr with activeAt := m.ticks } } (m.headerTaken p) :=
  ((Module.Reported.refl _).wake 1).noted

/-- A header at the head of the stream stands behind no packet that arrives, and has come whole. -/
theorem Module.rxHead_ready {m : Module} {p : Nat} {h : Hdr} (hh : m.rxHead p = some h) :
    (m.wire p).rxSkip = 0 ∧ 32 ≤ (m.wire p).rxq.length := by
  unfold Module.rxHead at hh
  dsimp only at hh
  split at hh
  next hc =>
    simp only [Bool.and_eq_true, beq_iff_eq, decide_eq_true_eq] at hc
    exact ⟨hc.1.2, hc.2⟩
  next => exact nomatch hh

theorem packetArrival_other {m : Module} {p : Nat} {g h : Hdr} (hh : m.rxHead p = some h) (hg : g ≠ h) :
    packetArrival p g m = m := by
  unfold packetArrival Module.onPort
  simp [hh, hg.symm]

theorem packetArrival_check {m : Module} {p : Nat} {h : Hdr} (hh : m.rxHead p = some h) (hl : LinkIn m p 5) (ht : h.type ≠ 0xF0) :
    packetArrival p h m = m := by
  obtain ⟨-, -, -, hst⟩ := id hl
  unfold packetArrival
  rw [Module.onPort_of_linkIn hl]
  simp [hh, ht, hst]

/-- The header of a FILL packet taken off the stream (R60). -/
def Module.fillBegun (m : Module) (p : Nat) : Module :=
  let m := m.rxDrop p 32
  m.setWire p { m.wire p with filling := true }

theorem packetArrival_fill {m : Module} {p : Nat} {h : Hdr} (hh : m.rxHead p = some h) (hl : LinkIn m p 6) (ht : h.type = 0xF0)
    (hsub : h.tw % 256 = 1) (hok : localHdrOk h = true) : packetArrival p h m = m.fillBegun p := by
  unfold packetArrival
  rw [Module.onPort_of_linkIn hl, if_neg (by simp [hh]), if_pos (by simp [ht])]
  unfold Module.localHeader
  rw [if_neg (by simp [hok]), if_pos (by simp [hsub])]
  rfl

theorem Module.fillBegun_frame (m : Module) (p : Nat) :
    ((m.fillBegun p).wire p).filling = true ∧ ((m.fillBegun p).wire p).rxq = (m.wire p).rxq.drop 32 ∧
      OtherPorts p m (m.fillBegun p) := by
  refine ⟨?_, ?_, (m.rxDrop_frame p 32).2.2.trans (otherPorts_setWire _ p _)⟩
  · simp [Module.fillBegun]
  · simp [Module.fillBegun, Module.rxDrop]

/-- A header taken off the stream fails the checks that it failed on it. -/
theorem Module.ingressFail_headerTaken (m : Module) (p : Nat) (h : Hdr) :
    (m.headerTaken p).ingressFail p h = m.ingressFail p h := by
  have hlink (q : Nat) : (m.headerTaken p).link q = m.link q := by
    have hr : Module.Reported { m.rxDrop p 32 with pwr := { m.pwr with activeAt := m.ticks } } (m.headerTaken p) :=
      (Module.Reported.refl _).wake 1
    exact (hr.credited.link q).trans (m.link_setWire p q _)
  have hkeep : (m.headerTaken p).keep = m.keep := by
    unfold Module.headerTaken
    dsimp only
    obtain ⟨-, e⟩ | e := Module.wake_cases { m.rxDrop p 32 with pwr := { m.pwr with activeAt := m.ticks } } 1
    · exact (congrArg Module.keep e).trans rfl
    · exact (congrArg Module.keep e).trans rfl
  unfold Module.ingressFail Module.active Module.trusted Module.trustedKept Module.isOwn Module.chip
  simp only [hlink, hkeep]

theorem Module.noted_headerRefused (m : Module) (p : Nat) (h : Hdr) (k : Nat) : m.Noted (m.headerRefused p h k) := by
  have hcount : m.Noted (m.ingressCount p k) := by
    unfold Module.ingressCount
    dsimp only
    split
    · exact (m.noted_count _ _ _).trans ((Module.Reported.refl _).raise (by decide) _ _ _).noted
    split
    · exact m.noted_count _ _ _
    split
    · exact m.noted_count _ _ _
    split
    · exact m.noted_count _ _ _
    · exact m.noted_count _ _ _
  have hcmd (n : Module) : n.Noted (n.cmdRefused k h) := by
    unfold Module.cmdRefused
    split
    · exact n.noted_count _ _ _
    · exact .refl n
  exact (hcount.trans (hcmd _)).trans (Module.captured_capture _ _ _).noted

/-- What follows of a packet whose header is dropped is passed over, and its credit returns. -/
theorem Module.noted_dropHeader (m : Module) (p : Nat) (h : Hdr) : (m.skipRest p h.len).Noted (m.dropHeader p h) := by
  unfold Module.dropHeader Module.creditReturn
  exact ((Module.credited_setReturns _ p _ _).trans (Module.credited_creditFlush _ p)).noted.trans
    (Module.credited_checkBacked _ _).noted

/-- The wire of a header that is taken off the stream, and of which notes are taken. -/
theorem Module.wire_headerTaken {m n : Module} {p : Nat} (hn : (m.headerTaken p).Booked n) :
    n.wire p = { m.wire p with rxq := (m.wire p).rxq.drop 32, ret := (n.wire p).ret, held := (n.wire p).held } := by
  have e := ((m.noted_headerTaken p).toBooked.trans hn).wire p
  change n.wire p = { (m.rxDrop p 32).wire p with ret := (n.wire p).ret, held := (n.wire p).held } at e
  rw [Module.rxDrop, Module.wire_setWire_same] at e
  exact e

/-- A header dropped, after notes of it: nothing is buffered, and what follows is passed over. -/
theorem Module.dropped_frame {m n : Module} {p : Nat} (hn : (m.headerTaken p).Noted n) (h : Hdr) (ha : (m.wire p).rxSkip = 0)
    (hl : 32 ≤ (m.wire p).rxq.length) :
    let r := n.dropHeader p h
    r.net.pkts = m.net.pkts ∧ r.net.nextId = m.net.nextId ∧ r.pwr.activeAt = m.ticks ∧
      (r.die (p / 32)).freeCells = (m.die (p / 32)).freeCells ∧
      (r.wire p).rxq = (m.wire p).rxq.drop (32 + (h.len + 8)) ∧
      (r.wire p).rxSkip = 32 + (h.len + 8) - (m.wire p).rxq.length := by
  have h0 := (m.noted_headerTaken p).trans hn
  have h1 := n.noted_dropHeader p h
  have hw := Module.wire_headerTaken hn.toBooked
  have hs : (n.skipRest p h.len).wire p = { n.wire p with
      arriving := none, rxq := (n.wire p).rxq.drop (h.len + 8),
      rxSkip := (n.wire p).rxSkip + (h.len + 8 - (n.wire p).rxq.length) } := n.wire_setWire_same p _
  dsimp only
  refine ⟨h1.pkts.trans h0.pkts, h1.nextId.trans h0.nextId, ?_, (h1.freeCells _).trans (h0.freeCells _), ?_, ?_⟩
  · obtain ⟨_, _, _, e⟩ := h0.pwr
    obtain ⟨_, _, _, e'⟩ := h1.pwr
    rw [e']
    change n.pwr.activeAt = m.ticks
    rw [e]
  · rw [h1.wire p, hs]
    dsimp only
    rw [hw]
    dsimp only
    rw [List.drop_drop]
  · rw [h1.wire p, hs]
    dsimp only
    rw [hw]
    dsimp only
    rw [ha, List.length_drop]
    omega

/-! ### Cells (R127) -/

/-- What the pools give where enough is free. -/
def Die.pooled (x : Die) (c : Nat) : Taken :=
  if c ≤ 1 && !x.small.isEmpty then { x := { x with small := x.small.drop 1 }, cells := x.small.take 1 }
  else if c ≤ 4 && !x.medium.isEmpty then { x with medium := x.medium.drop 1 }.unlink (x.medium.headD []) c (c ≤ 1)
  else if !x.large.isEmpty then { x with large := x.large.drop 1 }.unlink (x.large.headD []) c (c ≤ 4)
  else
    let k := min x.medium.length (ceilDiv c 4)
    let got := (x.medium.take k).flatten
    let more := x.small.take (c - got.length)
    { x := { x with medium := x.medium.drop k, small := got.drop c ++ x.small.drop (c - got.length) },
      cells := got.take c ++ more, chains := k + more.length, linked := true }

theorem Die.take_some {x : Die} {c : Nat} (hm : x.mode = 2) (hc : c ≤ x.freeCells) : x.take c = some (x.pooled c) := by
  unfold Die.take Die.pooled
  rw [if_neg (by simp [hm]), if_neg (by omega)]
  split
  · rfl
  split
  · rfl
  split
  · rfl
  · rfl

/-- The pools give the same cells, whatever a die records and withholds. -/
theorem Die.pooled_cells (x : Die) (c : Nat) (g : Ring) (u w : Bool) :
    (Die.pooled { x with ring := g, unbacked := u, withholding := w } c).cells = (x.pooled c).cells := by
  unfold Die.pooled
  dsimp only
  split
  · rfl
  split
  · rfl
  split
  · rfl
  · rfl

theorem Die.take_none {x : Die} {c : Nat} (hm : x.mode = 2) (hc : x.freeCells < c) : x.take c = none := by
  unfold Die.take
  rw [if_neg (by simp [hm]), if_pos hc]

theorem Module.alloc_none {m : Module} {d c : Nat} (h : (m.die d).take c = none) : m.alloc d c = none := by
  unfold Module.alloc
  rw [h]

theorem Module.alloc_some {m : Module} {d c : Nat} {t : Taken} (h : (m.die d).take c = some t) :
    ∃ n, m.alloc d c = some (n, t.cells) ∧ m.Booked n := by
  have hcount (b : Bool) (n : Module) (off : Nat) : n.Booked (if b then n.count (swBlk d 4) off else n) := by
    cases b
    · exact (Module.Noted.refl n).toBooked
    · exact (n.noted_count _ _ _).toBooked
  unfold Module.alloc
  rw [h]
  exact ⟨_, rfl, (((m.booked_setDie d t.x).trans (Module.noted_count _ _ _ _).toBooked).trans (hcount _ _ _)).trans (hcount _ _ _)⟩

/-! ### A packet for this module (R97, R118, R119) -/

theorem Module.noted_wsReasons (m : Module) (d p : Nat) (h : Hdr) : m.Noted (m.wsReasons d p h).1 := (m.captured_setRing d _).noted

theorem Module.lookup_full {m : Module} {p : Nat} {h : Hdr} (hm : (m.die (p / 32)).mode = 2)
    (hc : (m.die (p / 32)).freeCells < h.cells) : ∃ n, m.lookup p h = n.dropHeader p h ∧ m.Noted n := by
  have hw := m.noted_wsReasons (p / 32) p h
  have hnone := Module.alloc_none (Die.take_none ((hw.mode _).trans hm) (hw.freeCells _ ▸ hc))
  unfold Module.lookup
  dsimp only
  rw [hnone]
  refine ⟨_, rfl, .trans ?_ (Module.captured_capture _ _ _).noted⟩
  refine .trans ?_ ((Module.Reported.refl _).raise (by decide) _ _ _).noted
  exact hw.trans (Module.noted_count _ _ _ _)

/-- The policer colours the packet, and keeps its own books. -/
theorem Module.police_frame (m : Module) (p : Nat) (h : Hdr) :
    m.Booked (m.police p h).1 ∧ ((m.police p h).2 = h ∨ ∃ c, (m.police p h).2 = h.setColour c) := by
  have hr : m.Booked m := (Module.Noted.refl m).toBooked
  unfold Module.police
  split
  · exact ⟨hr, .inl rfl⟩
  dsimp only
  split
  · exact ⟨hr, .inl rfl⟩
  split
  · exact ⟨(m.noted_count _ _ _).toBooked, .inr ⟨_, rfl⟩⟩
  split
  · refine ⟨.trans ?_ (Module.noted_count _ _ _ _).toBooked, .inr ⟨_, rfl⟩⟩
    exact hr.net rfl rfl
  · refine ⟨.trans ?_ (Module.noted_count _ _ _ _).toBooked, .inr ⟨_, rfl⟩⟩
    exact hr.net rfl rfl

/-- The module as cells are charged to a port. -/
def Module.cellsCharged (m : Module) (p c : Nat) : Module := m.setWire p { m.wire p with charged := (m.wire p).charged + c }

/-- The module with the packet of a header in the buffer. -/
def Module.lodged (m : Module) (p : Nat) (b : BPkt) : Module :=
  let n := m.addBp b
  n.setWire p { n.wire p with arriving := some m.net.nextId }

theorem Module.mem_lodged (m : Module) (p : Nat) (b : BPkt) : { b with id := m.net.nextId } ∈ (m.lodged p b).net.pkts :=
  List.mem_append_right _ (List.mem_singleton_self _)

/-- The packet of a header that has taken its cells, coloured `h'`. -/
def Module.newPkt (m : Module) (p : Nat) (h h' : Hdr) (cells : List Nat) (why : Nat) : BPkt :=
  { die := p / 32, pkt := { h := h', port := some p }, chain := cells, inPort := some p, ftc := m.now, asArrived := h, why := why }

/-- A header that has taken its cells is buffered and routed. -/
def Module.routed (m : Module) (p : Nat) (h h' : Hdr) (cells : List Nat) (why : Nat) : Module :=
  let id := m.net.nextId
  let d := p / 32
  let m := m.lodged p (m.newPkt p h h' cells why)
  let g := p / 8 % 4
  if h'.type == 0x15 && h'.vc != 0 then
    if h'.dest != 131071 then
      let m := m.count (swBlk d 10) 0x130
      (match m.bp id with | some b => m.dropRecord b 4 0 0 2 0 | none => m).freeBp id
    else m.updBp id fun b => { b with mcast := true }
  else
    let (m, x) := m.decide d g h' (some p) true
    (m.apply id d g x).discardIfNone id

/-- The module as cells are charged to a port, and the packet is policed. -/
def Module.policed (m : Module) (p : Nat) (h : Hdr) : Module × Hdr := ((m.cellsCharged p h.cells).checkBacked (p / 32)).police p h

theorem Module.lookup_eq {m k : Module} {p : Nat} {h : Hdr} {cells : List Nat}
    (ha : (m.wsReasons (p / 32) p h).1.alloc (p / 32) h.cells = some (k, cells)) :
    m.lookup p h = (k.policed p h).1.routed p h (k.policed p h).2 cells (m.wsReasons (p / 32) p h).2 := by
  unfold Module.lookup
  dsimp only
  rw [ha]
  rfl

theorem Module.routed_here {m : Module} {p : Nat} {h' : Hdr} (hh : h'.ForHere m) (h : Hdr) (cells : List Nat) (why : Nat) :
    ∃ h'', m.routed p h h' cells why =
      ((m.lodged p (m.newPkt p h h' cells why)).apply m.net.nextId (p / 32) (p / 8 % 4) (.here h'')).discardIfNone m.net.nextId := by
  have hl : h'.ForHere (m.lodged p (m.newPkt p h h' cells why)) := hh.keep (.refl _)
  obtain ⟨h'', e⟩ := Module.decide_here hl (p / 32) (p / 8 % 4) (some p) true
  refine ⟨h'', ?_⟩
  unfold Module.routed
  dsimp only
  rw [if_neg (by simp [hh.type]), e]

theorem Module.policed_frame {m : Module} {p : Nat} {h : Hdr} (hh : h.ForHere m) :
    (m.cellsCharged p h.cells).Booked (m.policed p h).1 ∧ (m.policed p h).2.ForHere (m.policed p h).1 := by
  obtain ⟨hpol, hcol⟩ := Module.police_frame ((m.cellsCharged p h.cells).checkBacked (p / 32)) p h
  have hb : (m.cellsCharged p h.cells).Booked (m.policed p h).1 := (Module.credited_checkBacked _ _).noted.toBooked.trans hpol
  have hfor : h.ForHere (m.policed p h).1 := hh.keep hb.keep
  refine ⟨hb, ?_⟩
  obtain e | ⟨c, e⟩ := hcol
  · rw [show (m.policed p h).2 = h from e]
    exact hfor
  · rw [show (m.policed p h).2 = h.setColour c from e]
    exact hfor.setColour c

/-- A packet for this module takes the cells that the pools give. -/
theorem Module.lookup_here {m : Module} {p : Nat} {h : Hdr} (hm : (m.die (p / 32)).mode = 2)
    (hc : h.cells ≤ (m.die (p / 32)).freeCells) (hh : h.ForHere m) :
    ∃ k h' why, m.Booked k ∧
      m.lookup p h = (k.policed p h).1.routed p h h' ((m.die (p / 32)).pooled h.cells).cells why ∧
      h'.ForHere (k.policed p h).1 ∧ (k.cellsCharged p h.cells).Booked (k.policed p h).1 := by
  have hw := m.noted_wsReasons (p / 32) p h
  obtain ⟨k, halloc, hk⟩ := Module.alloc_some (Die.take_some ((hw.mode _).trans hm) (hw.freeCells _ ▸ hc))
  rw [hw.die, Die.pooled_cells] at halloc
  obtain ⟨hb, hfor⟩ := Module.policed_frame (p := p) (hh.keep (hw.keep.trans hk.keep))
  exact ⟨k, _, _, hw.toBooked.trans hk, Module.lookup_eq halloc, hfor, hb⟩

/-! ### The packet waits for its local target (R119) -/

/-- The packet for this module, to be delivered when whole. -/
def Module.storedHere (m : Module) (id : Nat) (h : Hdr) : Module :=
  m.updBp id fun b => { b with pkt := { b.pkt with h := h.sealed }, store := true }

theorem Module.mem_updBp {m : Module} {x : BPkt} (h : x ∈ m.net.pkts) (f : BPkt → BPkt) :
    f x ∈ (m.updBp x.id f).net.pkts := by
  have hm := List.mem_map_of_mem (f := fun b : BPkt => if b.id == x.id then f b else b) h
  rwa [if_pos (beq_self_eq_true x.id)] at hm

theorem Module.bp_of_mem {m : Module} {x : BPkt} (h : x ∈ m.net.pkts) : ∃ y, m.bp x.id = some y :=
  Option.isSome_iff_exists.mp (List.find?_isSome.mpr ⟨x, h, beq_self_eq_true x.id⟩)

/-- The record of a packet that is to be delivered here. -/
def Module.herePassed (m : Module) (id : Nat) : Module :=
  match m.bp id with
  | some b => m.passRecord b 0 0 1 0
  | none => m

theorem Module.apply_here_eq (m : Module) (id d g : Nat) (h : Hdr) :
    m.apply id d g (.here h) = ((m.storedHere id h).pushLocal d id).herePassed id := by
  unfold Module.apply Module.herePassed Module.storedHere
  dsimp only <;> (generalize Module.pushLocal _ d id = n; rfl)

theorem Module.apply_here {m : Module} {id : Nat} {x : BPkt} (hx : m.bp id = some x) (d g : Nat) (h : Hdr) :
    (m.apply id d g (.here h)).discardIfNone id = ((m.storedHere id h).pushLocal d id).passed id := by
  have hs : (m.storedHere id h).bp id = some { x with pkt := { x.pkt with h := h.sealed }, store := true } :=
    Module.bp_updBp_same (fun _ => by rfl) hx
  obtain ⟨y, hy, hk⟩ := ((m.storedHere id h).recorded_pushLocal d id).bp (Module.bp_queuedHere d hs)
  obtain ⟨z, hz, hkz⟩ := (Module.recorded_passRecord ((m.storedHere id h).pushLocal d id) y 0 0 1 0).bp hy
  have e : m.apply id d g (.here h) = ((m.storedHere id h).pushLocal d id).passRecord y 0 0 1 0 := by
    rw [Module.apply_here_eq, Module.herePassed, hy]
  rw [e, Module.passed_here hy hk.here]
  exact Module.discardIfNone_here hz (hkz.here.trans hk.here)

/-- A packet in the buffer that waits here from now on. -/
theorem Module.applied_here {m : Module} {x : BPkt} (hx : x ∈ m.net.pkts) (d g : Nat) (h : Hdr) :
    let r := (m.apply x.id d g (.here h)).discardIfNone x.id
    r.ports = m.ports ∧ r.net.nextId = m.net.nextId ∧ x.id ∈ (r.die d).localQ ∧ ∃ y ∈ r.net.pkts, y.here = true ∧
      y = { x with pkt := y.pkt, store := y.store, here := y.here, copies := y.copies, captured := y.captured, headSince := y.headSince } := by
  obtain ⟨y, hy⟩ := Module.bp_of_mem hx
  have hs : (m.storedHere x.id h).bp x.id = some _ := Module.bp_updBp_same (fun _ => by rfl) hy
  have hr := Module.recorded_passed d hs
  have hmem := Module.mem_updBp (Module.mem_updBp hx fun b => { b with pkt := { b.pkt with h := h.sealed }, store := true })
    fun b => { b with here := true }
  obtain ⟨z, hz, hk⟩ := hr.mem hmem
  dsimp only
  rw [Module.apply_here hy]
  refine ⟨hr.ports, by rw [hr.net]; rfl, Module.mem_localQ_passed d hs, z, hz, hk.here, ?_⟩
  rw [show z = _ from hk]

/-- The wire of a packet for this module when its cells are charged. -/
theorem Module.wire_policed {m k : Module} {p : Nat} {h : Hdr} (hk : (m.headerTaken p).Booked k)
    (hb : (k.cellsCharged p h.cells).Booked (k.policed p h).1) :
    ((k.policed p h).1.wire p).rxq = (m.wire p).rxq.drop 32 ∧
      ((k.policed p h).1.wire p).charged = (m.wire p).charged + h.cells := by
  have e : (k.cellsCharged p h.cells).wire p = { k.wire p with charged := (k.wire p).charged + h.cells } :=
    k.wire_setWire_same p _
  rw [hb.wire p, e, Module.wire_headerTaken hk]
  exact ⟨rfl, rfl⟩

/-- What a packet for this module has taken when its lookup is done. -/
theorem Module.routed_frame {m : Module} {p : Nat} {h' : Hdr} (hh : h'.ForHere m) (h : Hdr) (cells : List Nat) (why : Nat) :
    let r := m.routed p h h' cells why
    r.net.nextId = m.net.nextId + 1 ∧ r.wire p = { m.wire p with arriving := some m.net.nextId } ∧
      m.net.nextId ∈ (r.die (p / 32)).localQ ∧ ∃ b ∈ r.net.pkts, b.id = m.net.nextId ∧ b.here = true ∧ b.asArrived = h ∧
        b.inPort = some p ∧ b.die = p / 32 ∧ b.chain = cells := by
  obtain ⟨h'', e⟩ := Module.routed_here hh h cells why
  obtain ⟨hports, hid, hq, y, hy, hhere, hyx⟩ :=
    Module.applied_here (m.mem_lodged p (m.newPkt p h h' cells why)) (p / 32) (p / 8 % 4) h''
  dsimp only at hports hid hq hy hyx ⊢
  rw [e]
  refine ⟨hid, ?_, hq, y, hy, ?_, hhere, ?_, ?_, ?_, ?_⟩
  · rw [Module.wire, Module.port, hports]
    exact Module.wire_setWire_same _ _ _
  · rw [hyx]
  · rw [hyx]; rfl
  · rw [hyx]; rfl
  · rw [hyx]; rfl
  · rw [hyx]; rfl

end Sys2Proof.Machine

namespace Sys2Proof.Proofs
open Sys2Proof.Machine Sys2Proof.Claims

/-- Settles O19: what is noted of an arrival leaves the buffers and the received streams, and the packet for this module is
followed from the pools to its die's queue. -/
theorem arrivalsTakeCells : Obligations.ArrivalsTakeCells := by
  unfold Obligations.ArrivalsTakeCells
  intro s p h hh hd
  obtain ⟨hskip, hlen⟩ := Module.rxHead_ready hh
  refine ⟨fun g hg => ?_, fun hl ht hsub hok => ?_, fun hl ht => ?_, fun hl hm hf ht hi hbad => ?_,
    fun hl hm hf ht hi hgood hc hmode hvc hmc hown => ?_⟩
  · exact completes_withM (packetArrival p g) rfl (packetArrival_other hh hg)
  all_goals refine completes_withM (packetArrival p h) rfl ?_
  · rw [packetArrival_fill hh hl ht hsub hok]
    exact s.m.fillBegun_frame p
  · exact packetArrival_check hh hl ht
  · rw [packetArrival_eq hh hd hl hm hf ht hi, s.m.ingressFail_headerTaken]
    split
    next hz =>
      have hfull := hbad.resolve_left (fun h0 => h0 (by simpa using hz))
      have ht := s.m.noted_headerTaken p
      obtain ⟨n, e, hn⟩ := Module.lookup_full ((ht.mode _).trans hm) (ht.freeCells _ ▸ hfull)
      rw [e]
      exact Module.dropped_frame hn h hskip hlen
    next => exact Module.dropped_frame (Module.noted_headerRefused _ _ _ _) h hskip hlen
  · rw [packetArrival_eq hh hd hl hm hf ht hi, s.m.ingressFail_headerTaken, if_pos (by simp [hgood])]
    have ht := s.m.noted_headerTaken p
    have hhere : h.ForHere (s.m.headerTaken p) := Hdr.ForHere.keep ⟨hmode, hvc, hmc, hown⟩ ht.keep
    obtain ⟨k, h', why, hk, e, hfor, hb⟩ := Module.lookup_here ((ht.mode _).trans hm) (ht.freeCells _ ▸ hc) hhere
    obtain ⟨hid, hwire, hq, b, hbm, hbid, hbhere, harr, hin, hdie, hchain⟩ :=
      Module.routed_frame hfor h (((s.m.headerTaken p).die (p / 32)).pooled h.cells).cells why
    obtain ⟨hrxq, hcharged⟩ := Module.wire_policed hk hb
    have hnext : (k.policed p h).1.net.nextId = s.m.net.nextId := hb.nextId.trans (hk.nextId.trans ht.nextId)
    rw [hnext] at hid hwire hq hbid
    rw [e]
    refine ⟨hid, ?_, ?_, ?_, hq, b, hbm, hbid, hbhere, harr, hin, hdie, _, Die.take_some hm hc, ?_⟩
    · rw [hwire]
    · rw [hwire]
      exact hrxq
    · rw [hwire]
      exact hcharged
    · rw [hchain, ht.die, Die.pooled_cells]
      rfl

end Sys2Proof.Proofs
end

section
/-!
Port status, the cabling plan and the capture rings (R75, R140, R308, R443): commands that run, words of the keep file, and the
registers of Windsock.
-/
namespace Sys2Proof.Machine
open Sys2Proof.Claims

/-! ### Commands that run (R432 to R434, R442) -/

theorem Module.command_runs {m : Module} {r : CmdReq} {op : Nat} {lay : List (Nat × Nat × Nat)} (h : Runs m r op lay)
    (f : Module → Module) : m.command r op true lay f = f (begun m r) := by
  obtain ⟨⟨hup, hnext, hcache⟩, hbusy, hlull, hop, hver, hlow, hhigh, hmod, hlay⟩ := h
  have htake : m.takeCmd r = (begun m r, true) := by
    unfold Module.takeCmd
    simp [hnext, hup, hcache, hbusy, hlull]
    rfl
  have h1 : ¬ r.body.length < 16 := by omega
  have h2 : ¬ 2048 < r.body.length := by omega
  unfold Module.command
  simp [hop, htake, hver, h1, h2, hmod, hlay]

theorem Module.reported_begun (m : Module) (r : CmdReq) : m.Reported (begun m r) :=
  ((Module.Reported.refl m).vane _).count 1 (.inr (.inr rfl)) (by split <;> decide)

/-- A command that begins changes the controller's own state and its count. -/
theorem begun_eq (m : Module) (r : CmdReq) : ∃ v g, begun m r = { m with vane := v, regs := g } ∧ v.owners = m.vane.owners := by
  have ho : (m.popCmd r.side).vane.owners = m.vane.owners := by
    unfold Module.popCmd Vane.setQueue
    cases r.side <;> rfl
  unfold begun
  obtain ⟨v, e⟩ | e := (m.popCmd r.side).count_cases (mgtBlk 255) (if r.side then 0x108 else 0x100) 1
  · exact ⟨_, _, e, ho⟩
  · exact ⟨_, _, e, ho⟩

theorem begun_reg (m : Module) (r : CmdReq) {blk off lo : Nat} (hb : blk ≠ mgtBlk 255) (ho : off < 2 ^ 26) (hl : lo < 64) :
    (begun m r).reg blk off lo = m.reg blk off lo :=
  (m.popCmd r.side).reg_count_other (by split <;> decide) hb ho hl

theorem begun_mayChange (m : Module) (r : CmdReq) (u : Nat) : (begun m r).mayChange r u = m.mayChange r u := by
  obtain ⟨v, g, e, ho⟩ := begun_eq m r
  unfold Module.mayChange Module.owner
  rw [e, ho]

/-- Changes of owner are reported. -/
theorem Module.reported_claim (m : Module) (r : CmdReq) (us : List Nat) : m.Reported (m.claim r us) := by
  refine (Module.Reported.refl m).foldl (fun n u => .ite (fun _ => ?_) fun _ => .refl n) us
  unfold Module.setOwner
  dsimp only
  refine .ite (fun _ => .refl n) fun _ => .event (.ite (fun _ => ?_) fun _ => ?_) _ _
  · exact (Module.Reported.refl n).mk_eq rfl rfl rfl rfl rfl rfl rfl rfl
  · exact (Module.Reported.refl n).vane _

theorem Module.replied_frame (m : Module) (r : CmdReq) (st : Nat) (data : Bytes) :
    (m.replyFinal r st data).ports = m.ports ∧ (m.replyFinal r st data).dies = m.dies ∧
      (m.replyFinal r st data).keep = m.keep := by
  cases hs : r.side with
  | false =>
    obtain ⟨_, _, _, _, _, e⟩ := m.replyFinal_host hs st data
    rw [e]
    exact ⟨rfl, rfl, rfl⟩
  | true =>
    obtain ⟨_, _, e⟩ := m.replyFinal_side hs st data
    rw [e]
    exact ⟨rfl, rfl, rfl⟩

/-- A change that succeeds: its units are claimed, and the answer is OK. -/
theorem Module.change_ok {m n : Module} {r : CmdReq} {us : List Nat} {f : Module → Module × Nat × Bytes} {d : Bytes}
    (hu : us.all (m.mayChange r) = true) (hf : f m = (n, St.ok, d)) : m.change r us f = (n.claim r us).replyFinal r St.ok d := by
  unfold Module.change
  rw [if_pos hu, hf]
  rfl

theorem Module.change_failed {m n : Module} {r : CmdReq} {us : List Nat} {f : Module → Module × Nat × Bytes} {st : Nat} {d : Bytes}
    (hu : us.all (m.mayChange r) = true) (hf : f m = (n, st, d)) (hst : st ≠ St.ok) :
    m.change r us f = n.replyFinal r st d := by
  unfold Module.change
  rw [if_pos hu, hf]
  simp [hst]

/-! ### Registers as read (R439) -/

theorem lo_lt_of_mem_mapOf (k : Blk) : ∀ f ∈ mapOf k ++ dispatcherMap, f.lo < 64 := by
  cases k <;> decide

theorem lo_lt_of_mem_fieldsAt {blk off : Nat} {f : Fld × Nat} (h : f ∈ fieldsAt blk off) : f.1.lo < 64 := by
  obtain ⟨g, hg, e⟩ := List.mem_filterMap.mp h
  obtain ⟨i, -, rfl⟩ := Option.map_eq_some_iff.mp e
  unfold fieldsOf at hg
  split at hg
  · exact absurd hg List.not_mem_nil
  next k _ =>
    refine lo_lt_of_mem_mapOf k g ?_
    split at hg
    · exact hg
    · exact List.mem_append_left _ hg

theorem Module.regVal_congr {a b : Module} {blk off : Nat}
    (h : ∀ f ∈ fieldsAt blk off, b.fieldVal blk off f.1 = a.fieldVal blk off f.1) : b.regVal blk off = a.regVal blk off :=
  List.foldl_ext _ _ _ fun c f hf => by rw [h f hf]

theorem Module.view_congr {a b : Module} {blk off : Nat} (hk : b.keep = a.keep)
    (h : ∀ o, o = off ∨ o = off - 4 → ∀ f ∈ fieldsAt blk o, b.fieldVal blk o f.1 = a.fieldVal blk o f.1) :
    b.view blk off = a.view blk off := by
  unfold Module.view
  rw [hk, Module.regVal_congr (h off (.inl rfl)), Module.regVal_congr (h (off - 4) (.inr rfl))]

/-- A command that begins leaves the fields of other blocks whose values do not tell of the controller. -/
theorem begun_fieldVal {m : Module} {r : CmdReq} {blk off : Nat} {f : Fld × Nat} (hb : blk ≠ mgtBlk 255) (ho : off < 2 ^ 26)
    (hf : f ∈ fieldsAt blk off) (hro : (begun m r).roVal blk off f.1.lo = m.roVal blk off f.1.lo) :
    (begun m r).fieldVal blk off f.1 = m.fieldVal blk off f.1 := by
  obtain ⟨v, g, e, -⟩ := begun_eq m r
  have hk : (begun m r).keep = m.keep := by rw [e]
  unfold Module.fieldVal
  rw [hro, hk, begun_reg m r hb ho (lo_lt_of_mem_fieldsAt hf)]

theorem blkKind_portBlk {p : Nat} (hp : p < 256) : blkKind (portBlk p) = some .portLink := by
  have hd : portBlk p / 256 = 8 + p / 16 := by unfold portBlk; omega
  have ha : portBlk p % 256 = p % 16 := by unfold portBlk; omega
  unfold blkKind
  dsimp only
  rw [hd, ha, if_neg (by omega), if_pos (by omega), if_pos (by omega)]

theorem blkKind_windsock {d : Nat} (hd : d < 8) : blkKind (swBlk d 8) = some .windsock := by
  have hq : swBlk d 8 / 256 = d := by unfold swBlk; omega
  have ha : swBlk d 8 % 256 = 8 := by unfold swBlk; omega
  unfold blkKind
  dsimp only
  rw [hq, ha, if_pos hd]
  decide

theorem begun_view_port (m : Module) (r : CmdReq) {p : Nat} (hp : p < 256) {off : Nat} (ho : off < 2 ^ 26) :
    (begun m r).view (portBlk p) off = m.view (portBlk p) off := by
  obtain ⟨v, g, e, -⟩ := begun_eq m r
  refine Module.view_congr (by rw [e]) fun o hoo f hf => begun_fieldVal ?_ (by omega) hf ?_
  · unfold portBlk mgtBlk
    omega
  · unfold Module.roVal
    rw [blkKind_portBlk hp, e]
    rfl

theorem begun_view_delay (m : Module) (r : CmdReq) {p : Nat} (hp : p < 256) :
    (begun m r).view (mgtBlk 2) (0x100 + 4 * p) = m.view (mgtBlk 2) (0x100 + 4 * p) := by
  obtain ⟨v, g, e, -⟩ := begun_eq m r
  have hkind : blkKind (mgtBlk 2) = some .time := by decide
  refine Module.view_congr (by rw [e]) fun o hoo f hf => begun_fieldVal (by decide) (by omega) hf ?_
  have h1 : ¬ (o == 0x020) = true := by rw [beq_iff_eq]; omega
  have h2 : ¬ (o == 0x028) = true := by rw [beq_iff_eq]; omega
  have h3 : ¬ (o == 0x02C) = true := by rw [beq_iff_eq]; omega
  have h4 : ¬ (o == 0x030) = true := by rw [beq_iff_eq]; omega
  unfold Module.roVal
  rw [hkind]
  dsimp only
  unfold Module.roTime
  dsimp only
  rw [if_neg h1, if_neg h2, if_neg h3, if_neg h4, if_neg h1, if_neg h2, if_neg h3, if_neg h4, e]
  rfl

/-- The image of a port as a command begins. -/
theorem begun_portImage (m : Module) (r : CmdReq) {p : Nat} (hp : p < 256) : (begun m r).portImage p = m.portImage p := by
  have hviews : ((List.range 8).flatMap fun i => beBytes 4 ((begun m r).view (portBlk p) (4 * i))) =
      (List.range 8).flatMap fun i => beBytes 4 (m.view (portBlk p) (4 * i)) := by
    refine List.flatMap_congr fun i hi => ?_
    have := List.mem_range.mp hi
    rw [begun_view_port m r hp (by omega)]
  obtain ⟨v, g, e, -⟩ := begun_eq m r
  have hbits : bitAt (begun m r).net.admitted p = bitAt m.net.admitted p ∧ (begun m r).portFenced p = m.portFenced p ∧
      (begun m r).timePeer p = m.timePeer p := by
    rw [e]
    exact ⟨rfl, rfl, rfl⟩
  obtain ⟨ha, hf, ht⟩ := hbits
  unfold Module.portImage
  rw [hviews, begun_view_delay m r hp, ha, hf, ht]

theorem portStatus_runs {m : Module} {r : CmdReq} (h : Runs m r 0x0202 [(0, 1, 8), (1, 1, 8)]) (h0 : r.u 1 1 ≠ 0)
    (h32 : r.u 1 1 ≤ 32) (hn : r.u 0 1 + r.u 1 1 ≤ 256) :
    portStatus r m = (begun m r).replyFinal r St.ok ((List.range (r.u 1 1)).flatMap fun i => m.portImage (r.u 0 1 + i)) := by
  have himages : ((List.range (r.u 1 1)).flatMap fun i => (begun m r).portImage (r.u 0 1 + i)) =
      (List.range (r.u 1 1)).flatMap fun i => m.portImage (r.u 0 1 + i) := by
    refine List.flatMap_congr fun i hi => ?_
    have := List.mem_range.mp hi
    exact begun_portImage m r (by omega)
  have hbad : ¬ (r.u 1 1 == 0 || decide (32 < r.u 1 1) || decide (256 < r.u 0 1 + r.u 1 1)) = true := by
    simp only [Bool.or_eq_true, beq_iff_eq, decide_eq_true_eq]
    omega
  unfold portStatus
  rw [Module.command_runs h]
  dsimp only
  rw [if_neg hbad, himages]

/-! ### Words of the keep file (R6, R75, R510) -/

/-- Bytes stored from an offset read back. -/
theorem Keep.raw_setBytes_same (k : Keep) (o : Nat) (l : Bytes) {i : Nat} (hi : i < l.length) :
    (k.setBytes o l).raw (o + i) = l[i] := by
  induction l generalizing k o i with
  | nil => exact absurd hi (Nat.not_lt_zero i)
  | cons b l ih =>
    have hcons : k.setBytes o (b :: l) = (k.setRaw o b).setBytes (o + 1) l := rfl
    rw [hcons]
    cases i with
    | zero =>
      rw [Keep.raw_setBytes_other _ _ _ (.inl (by omega))]
      exact k.raw_setRaw_same o b
    | succ i =>
      have h := ih (k.setRaw o b) (o + 1) (i := i) (by simpa using hi)
      rw [show o + (i + 1) = o + 1 + i by omega, h]
      rfl

theorem Keep.raw_setWord_same (k : Keep) {o : Nat} (ho : 8 ≤ o) (w : Nat) {i : Nat} (hi : i < 4) :
    (k.setWord o w).raw (o + i) = (beBytes 4 (w &&& keepMask o))[i]'(by simpa using hi) := by
  unfold Keep.setWord
  rw [if_neg (by omega)]
  exact k.raw_setBytes_same o _ _

theorem Keep.raw_setWord_other (k : Keep) {o x : Nat} (w : Nat) (h : x < o ∨ o + 4 ≤ x) : (k.setWord o w).raw x = k.raw x := by
  unfold Keep.setWord
  split
  · rfl
  · exact k.raw_setBytes_other o _ (by simpa using h)

theorem Keep.raw_setWords_before {l : List (Nat × Nat)} {x : Nat} (h : ∀ y ∈ l, x < y.1) (k : Keep) :
    (l.foldl (fun k p => k.setWord p.1 p.2) k).raw x = k.raw x := by
  induction l generalizing k with
  | nil => rfl
  | cons y l ih =>
    rw [List.foldl_cons, ih (fun z hz => h z (List.mem_cons_of_mem _ hz))]
    exact k.raw_setWord_other _ (.inl (h y List.mem_cons_self))

/-- Words at rising places, none over another, read back byte for byte. -/
theorem Keep.raw_setWords {l : List (Nat × Nat)} (hl : l.Pairwise fun x y => x.1 + 4 ≤ y.1) (k : Keep) {x : Nat × Nat} (hx : x ∈ l)
    (ho : 8 ≤ x.1) {i : Nat} (hi : i < 4) :
    (l.foldl (fun k p => k.setWord p.1 p.2) k).raw (x.1 + i) = (beBytes 4 (x.2 &&& keepMask x.1))[i]'(by simpa using hi) := by
  induction l generalizing k with
  | nil => exact absurd hx List.not_mem_nil
  | cons y l ih =>
    obtain ⟨hy, htail⟩ := List.pairwise_cons.mp hl
    rw [List.foldl_cons]
    obtain rfl | hxl := List.mem_cons.mp hx
    · rw [Keep.raw_setWords_before fun z hz => by have := hy z hz; omega]
      exact k.raw_setWord_same ho _ hi
    · exact ih htail _ hxl

theorem Keep.word_of_raw {k : Keep} (hv : k.valid = true) {o v : Nat} (ho : 8 ≤ o)
    (h : ∀ i (hi : i < 4), k.raw (o + i) = (beBytes 4 v)[i]'(by simpa using hi)) : k.word o = v % 256 ^ 4 := by
  have hread : k.read o 4 = beBytes 4 v := by
    refine List.ext_getElem (by simp [Keep.read]) fun i h1 h2 => ?_
    have hi : i < 4 := by simpa [Keep.read] using h1
    simp only [Keep.read, List.getElem_map, List.getElem_range]
    unfold Keep.byte
    rw [if_neg (by omega), if_pos hv, if_neg (by omega)]
    exact h i hi
  unfold Keep.word
  rw [hread, beNat_beBytes]

theorem beNat_lt (l : Bytes) : beNat l < 256 ^ l.length := by
  induction l with
  | nil => exact Nat.one_pos
  | cons b l ih =>
    have hb : b.toNat < 256 := b.isLt
    have e : beNat (b :: l) = b.toNat * 256 ^ l.length + beNat l := by
      have h := beNat_foldl l b.toNat
      simpa [beNat] using h
    rw [e, List.length_cons, Nat.pow_succ]
    have h : (b.toNat + 1) * 256 ^ l.length ≤ 256 * 256 ^ l.length := Nat.mul_le_mul_right _ hb
    rw [Nat.add_one_mul] at h
    omega

theorem fieldBE_lt (l : Bytes) (o n : Nat) : fieldBE l o n < 256 ^ n := by
  have hlen : (slice l o n).length = n := by
    simp [slice]
  have h := beNat_lt (slice l o n)
  rwa [hlen] at h

/-- Words that software writes at rising places read back, their reserved bits as 0. -/
theorem Keep.word_writeWords {l : List (Nat × Nat)} (hl : l.Pairwise fun x y => x.1 + 4 ≤ y.1) (k : Keep) {x : Nat × Nat}
    (hx : x ∈ l) (ho : 8 ≤ x.1) (hw : x.2 < 256 ^ 4) : (k.writeWords l).word x.1 = x.2 &&& keepMask x.1 := by
  have h := Keep.word_of_raw (k := k.writeWords l) rfl ho fun i hi => Keep.raw_setWords hl k hx ho hi
  rw [h, Nat.mod_eq_of_lt (lt_of_le_of_lt Nat.and_le_left hw)]

theorem Module.held_keepWrite (m : Module) {l : List (Nat × Nat)} (hl : l ≠ []) :
    (m.keep.writeWords l).Held (m.keepWrite l).keep := by
  unfold Module.keepWrite
  rw [if_neg (by simpa using hl)]
  dsimp only
  refine .trans ?_ (Module.aside_reselect _).keep
  split
  · exact .refl _
  · exact .refl _

/-! ### A plan loaded (R67, R75, R76) -/

theorem Module.held_setLink (m : Module) (p : Nat) (x : Link) : m.keep.Held (m.setLink p x).keep := .refl _

theorem Module.held_finishCheck (m : Module) (p result : Nat) : m.keep.Held (m.finishCheck p result).keep := by
  obtain ⟨_, h, -⟩ := m.finishCheck_links p result
  exact h.keep

theorem Module.held_checkReported (m : Module) (p result q code : Nat) :
    m.keep.Held ((m.finishCheck p result).portEvent q code).keep :=
  (m.held_finishCheck p result).trans (Module.reported_portEvent _ q code).keep

theorem Module.held_finishSwap (m : Module) (b : Nat) : m.keep.Held (m.finishSwap b).keep := by
  unfold Module.finishSwap
  split
  · exact .refl _
  · exact m.held_finishCheck b 4

/-- The check of a port's cabling leaves the plan. -/
theorem Module.held_check (m : Module) (p : Nat) : m.keep.Held (m.check p).keep := by
  unfold Module.check
  dsimp only
  have h := m.held_setLink p { m.link p with foundValid := false, swapPort := 0 }
  generalize m.setLink p { m.link p with foundValid := false, swapPort := 0 } = n at h ⊢
  refine h.trans ?_
  split
  · exact n.held_checkReported p 6 p _
  split
  · exact n.held_checkReported p 2 p _
  split
  · exact n.held_checkReported p 5 p _
  split
  · exact n.held_finishCheck p 1
  split
  next b _ =>
    have h2 := n.held_setLink p { n.link p with swapPort := b, foundValid := true }
    generalize n.setLink p { n.link p with swapPort := b, foundValid := true } = k at h2 ⊢
    have h3 := h2.trans (k.held_setLink b { k.link b with swapPort := p, foundValid := true })
    generalize k.setLink b { k.link b with swapPort := p, foundValid := true } = j at h3 ⊢
    have h4 := h3.trans (j.held_finishCheck p 4)
    generalize j.finishCheck p 4 = i at h4 ⊢
    exact (h4.trans (i.held_finishSwap b)).trans (Module.reported_portEvent _ _ _).keep
  · exact .refl _

theorem Module.held_recheck (m : Module) (p : Nat) : m.keep.Held (m.recheck p).keep := by
  have h : m.keep.Held (if (m.link p).st == 7 then m.enterLink p 5 else m).keep := by
    split
    · exact m.held_setLink p _
    · exact .refl _
  unfold Module.recheck
  dsimp only
  generalize (if (m.link p).st == 7 then m.enterLink p 5 else m) = n at h ⊢
  split
  · have h1 := h.trans (n.held_setLink p { n.link p with holdUntil := none })
    generalize n.setLink p { n.link p with holdUntil := none } = k at h1 ⊢
    exact h1.trans (k.held_check p)
  · exact .refl _

theorem Module.held_rechecks (f : Nat) (l : List Nat) (m : Module) :
    m.keep.Held (l.foldl (fun (m : Module) i => m.recheck (f + i)) m).keep :=
  List.foldlRecOn l _ (motive := fun n : Module => m.keep.Held n.keep) (.refl _) fun n h i _ => h.trans (n.held_recheck (f + i))

/-- The words of CABLING_LOAD: the plan entries from a port on. -/
def loadedWords (r : CmdReq) : List (Nat × Nat) :=
  (List.range (r.u 2 2)).map fun i => (0x400 + 4 * (r.u 0 2 + i), r.u (16 + 4 * i) 4)

theorem pairwise_loadedWords (r : CmdReq) : (loadedWords r).Pairwise fun x y => x.1 + 4 ≤ y.1 := by
  unfold loadedWords
  rw [List.pairwise_map]
  exact List.pairwise_lt_range.imp fun h => by omega

theorem loadedWords_place {r : CmdReq} (hn : r.u 0 2 + r.u 2 2 ≤ 256) {x : Nat × Nat} (hx : x ∈ (loadedWords r)) :
    0x400 ≤ x.1 ∧ x.1 + 4 ≤ 0x800 := by
  obtain ⟨i, hi, rfl⟩ := List.mem_map.mp hx
  have := List.mem_range.mp hi
  dsimp only
  omega

/-- The plan loaded, and the ports that are past HELLO checked again. -/
def Module.planLoaded (m : Module) (r : CmdReq) : Module :=
  (List.range (r.u 2 2)).foldl (fun (m : Module) i => m.recheck (r.u 0 2 + i)) (m.keepWrite (loadedWords r))

theorem cablingLoad_runs {m : Module} {r : CmdReq} (h : Runs m r 0x0203 [(0, 2, 16), (2, 2, 16), (16, 4 * r.u 2 2, 32 * r.u 2 2)])
    (h0 : r.u 2 2 ≠ 0) (hn : r.u 0 2 + r.u 2 2 ≤ 256) (hown : m.mayChange r (unit 0x0F 0) = true)
    (hok : ∀ x ∈ (loadedWords r), m.keepStatus r.side x.1 x.2 = St.ok) :
    cablingLoad r m = (((begun m r).planLoaded r).claim r [unit 0x0F 0]).replyFinal r St.ok [] := by
  have hstatus (x : Nat × Nat) : (begun m r).keepStatus r.side x.1 x.2 = m.keepStatus r.side x.1 x.2 := by
    obtain ⟨v, g, e, -⟩ := begun_eq m r
    rw [e]
    rfl
  have hfind : ((loadedWords r).map fun x => (begun m r).keepStatus r.side x.1 x.2).find? (· != St.ok) = none := by
    rw [List.find?_eq_none]
    intro st hst
    obtain ⟨x, hx, rfl⟩ := List.mem_map.mp hst
    simp [hstatus, hok x hx]
  have hbad : ¬ (r.u 2 2 == 0 || decide (256 < r.u 0 2 + r.u 2 2)) = true := by
    simp only [Bool.or_eq_true, beq_iff_eq, decide_eq_true_eq]
    omega
  unfold cablingLoad
  rw [Module.command_runs h]
  dsimp only
  rw [if_neg hbad]
  refine Module.change_ok (by simp [begun_mayChange, hown]) ?_
  change (match ((loadedWords r).map fun x => (begun m r).keepStatus r.side x.1 x.2).find? (· != St.ok) with
    | some st => _ | none => _) = _
  rw [hfind]
  rfl

theorem planLoaded_keep {m : Module} {r : CmdReq} (h0 : r.u 2 2 ≠ 0) :
    (m.keep.writeWords (loadedWords r)).Held (((m.planLoaded r).claim r [unit 0x0F 0]).replyFinal r St.ok []).keep := by
  have hne : (loadedWords r) ≠ [] := by
    simpa [loadedWords] using h0
  obtain ⟨-, -, hk⟩ := Module.replied_frame ((m.planLoaded r).claim r [unit 0x0F 0]) r St.ok []
  rw [hk]
  refine .trans ?_ (Module.reported_claim _ r _).keep
  exact (m.held_keepWrite hne).trans (Module.held_rechecks _ _ _)

/-! ### Capture rings (R140, R141, R308) -/

/-- A ring of a size that holds no capture. -/
def Ring.Fresh (n : Nat) (g : Ring) : Prop := g.sizeLog2 = n ∧ g.seq = 0 ∧ g.stopped = false

theorem Module.die_of_dies_eq {a b : Module} (h : b.dies = a.dies) (e : Nat) : b.die e = a.die e := by
  simp only [Module.die, h]

theorem Module.freeRes_dies (m : Module) (tile : Nat) : (m.freeRes tile).dies = m.dies := by
  unfold Module.freeRes
  split
  · rfl
  · rfl

/-- A ring given up leaves the other dies. -/
theorem Module.die_dropRing_other (m : Module) {d e : Nat} (h : e ≠ d) : (m.dropRing d).die e = m.die e := by
  unfold Module.dropRing
  dsimp only
  rw [Module.die_setDie_other _ h]
  exact Module.die_of_dies_eq (List.foldlRecOn _ _ (motive := fun n : Module => n.dies = m.dies) rfl fun n h k _ =>
    (n.freeRes_dies _).trans h) e

/-- A ring placed anew is empty, and has its size. -/
theorem Module.fresh_placed {m : Module} {n e : Nat} (h : (m.die e).ring.Fresh n) (d a : Nat) :
    (((m.dropRing d).setDie d { m.die d with ring := { sizeLog2 := (m.die d).ring.sizeLog2, base := a } }).die e).ring.Fresh n := by
  by_cases hd : e = d
  · subst hd
    rw [Module.die_setDie_same]
    exact ⟨h.1, rfl, rfl⟩
  · rw [Module.die_setDie_other _ hd, Module.die_dropRing_other _ hd]
    exact h

theorem Module.fresh_packRings {m : Module} {n e : Nat} (h : (m.die e).ring.Fresh n) : (m.packRings.die e).ring.Fresh n := by
  unfold Module.packRings
  refine List.foldlRecOn _ _ (motive := fun x : Module × Nat => (x.1.die e).ring.Fresh n) h fun x hx d _ => ?_
  dsimp only
  generalize (if (x.1.die d).ring.sizeLog2 == 0 then 0 else x.2 - x.1.ringLen d) = a
  split
  · exact hx
  · exact x.1.fresh_placed hx d a

/-- A ring whose size changes is empty. -/
theorem Module.fresh_resizeRing {m : Module} {d n : Nat} (h : n ≠ (m.die d).ring.sizeLog2) :
    ((m.resizeRing d n).die d).ring.Fresh n := by
  unfold Module.resizeRing
  rw [if_neg (by simpa using h)]
  dsimp only
  split
  · rw [Module.die_setDie_same]
    exact ⟨rfl, rfl, rfl⟩
  · refine Module.fresh_packRings ?_
    rw [Module.die_setDie_same]
    exact ⟨rfl, rfl, rfl⟩

theorem Module.fresh_ringReset {m : Module} {d n : Nat} (h : (m.die d).ring.Fresh n) : ((m.ringReset d).die d).ring.Fresh n := by
  unfold Module.ringReset
  dsimp only
  rw [Module.die_setDie_same]
  exact ⟨h.1, rfl, rfl⟩

theorem Module.store1_dies (m : Module) (x : RegW) : (m.store1 x).dies = m.dies := by
  refine List.foldlRecOn _ _ (motive := fun n : Module => n.dies = m.dies) rfl fun n h f _ => ?_
  split
  · exact h
  · exact h

/-- A write that clears the counters of its block has cleared them. -/
def Module.cleared (m : Module) (x : RegW) : Module :=
  match (fieldsAt x.blk x.off).find? fun f => f.1.clr.isSome with
  | some f => (match f.1.clr with | some (a, b) => m.clearRegs x.blk a b | none => m)
  | none => m

theorem Module.cleared_dies (m : Module) (x : RegW) : (m.cleared x).dies = m.dies := by
  unfold Module.cleared
  split
  · split
    · rfl
    · rfl
  · rfl

section
variable {x : RegW} {d : Nat} (hk : blkKind x.blk = some .windsock) (hd : x.blk / 256 = d)
include hk

/-- No field of Windsock stands in the keep file. -/
theorem Module.kpWords_windsock (m : Module) : m.kpWords x = [] := by
  refine List.foldlRecOn _ _ (motive := fun l : List (Nat × Nat) => l = []) rfl fun l h f _ => ?_
  unfold kpPlace
  rw [hk]
  exact h

theorem Module.linkCtrl_windsock (m : Module) : m.linkCtrl x = m := by
  unfold Module.linkCtrl
  rw [hk]
  rfl

theorem Module.ppsEnable_windsock (m : Module) : m.ppsEnable x = m := by
  unfold Module.ppsEnable
  rw [hk]
  rfl

include hd

theorem Module.regEffect_windsock (m : Module) :
    m.regEffect x = if x.off == 0x000 && bitAt x.v 8 then (m.cleared x).ringReset d else m.cleared x := by
  unfold Module.regEffect Module.cleared
  rw [hk, hd] <;> rfl

theorem Module.fresh_regEffect {m : Module} {n : Nat} (h : (m.die d).ring.Fresh n) : ((m.regEffect x).die d).ring.Fresh n := by
  have hc : ((m.cleared x).die d).ring.Fresh n := by
    rw [Module.die_of_dies_eq (m.cleared_dies x)]
    exact h
  rw [m.regEffect_windsock hk hd]
  split
  · exact Module.fresh_ringReset hc
  · exact hc

omit hk in
theorem Module.fresh_ringEnable {m : Module} {n : Nat} (h : (m.die d).ring.Fresh n) : ((m.ringEnable x).die d).ring.Fresh n := by
  unfold Module.ringEnable
  dsimp only
  split
  · rw [hd, Module.die_setDie_same]
    exact Module.fresh_ringReset h
  · exact h

/-- A register of Windsock written leaves a ring that holds no capture as it is. -/
theorem Module.fresh_writeReg {m : Module} {n : Nat} (h : (m.die d).ring.Fresh n) : ((m.writeReg x).die d).ring.Fresh n := by
  unfold Module.writeReg
  rw [if_neg (by simp [hk]), Module.linkCtrl_windsock hk, Module.ppsEnable_windsock hk, Module.kpWords_windsock hk]
  refine Module.fresh_regEffect hk hd ?_
  change (((m.ringEnable x).store1 x).die d).ring.Fresh n
  rw [Module.die_of_dies_eq (Module.store1_dies _ x)]
  exact Module.fresh_ringEnable hd h

end

/-- Every register of WINDSOCK_CONFIG stands in the block given. -/
theorem blk_windsockRegs {r : CmdReq} {b : Nat} {x : RegW} (h : x ∈ windsockRegs r b) : x.blk = b := by
  unfold windsockRegs at h
  simp only [List.mem_append, List.mem_cons, List.mem_map, List.not_mem_nil, or_false] at h
  obtain ((rfl | rfl) | ⟨i, -, rfl⟩) | rfl := h
  · rfl
  · rfl
  · rfl
  · rfl

theorem Module.writeRegs_legal {m : Module} {r : CmdReq} {l : List RegW} (h : Legal m r l) :
    m.writeRegs r.side l = (l.foldl (fun m x => m.writeReg x) m, St.ok) := by
  have hfind : (l.map fun x => m.regStatus (l.foldl (fun m x => m.store1 x) m) r.side x).find? (· != St.ok) = none := by
    rw [List.find?_eq_none]
    intro st hst
    obtain ⟨x, hx, rfl⟩ := List.mem_map.mp hst
    simp [h x hx]
  unfold Module.writeRegs
  dsimp only
  rw [hfind]

/-- The module with a die's ring resized and its Windsock registers written. -/
def Module.windsockSet (m : Module) (r : CmdReq) : Module :=
  (windsockRegs r (swBlk (r.u 0 1) 8)).foldl (fun m x => m.writeReg x) (m.resizeRing (r.u 0 1) (r.u 1 1))

theorem Module.fresh_windsockSet {m : Module} {r : CmdReq} (hd : r.u 0 1 < 8) (h : r.u 1 1 ≠ (m.die (r.u 0 1)).ring.sizeLog2) :
    ((m.windsockSet r).die (r.u 0 1)).ring.Fresh (r.u 1 1) := by
  have hq : swBlk (r.u 0 1) 8 / 256 = r.u 0 1 := by
    unfold swBlk
    omega
  refine List.foldlRecOn _ _ (motive := fun k : Module => (k.die (r.u 0 1)).ring.Fresh (r.u 1 1)) (Module.fresh_resizeRing h)
    fun k hk x hx => Module.fresh_writeReg ?_ ?_ hk
  · rw [blk_windsockRegs hx]
    exact blkKind_windsock hd
  · rw [blk_windsockRegs hx]
    exact hq

/-- Whether the rings and areas fit does not turn on a command that begins. -/
theorem begun_r308 (m : Module) (r : CmdReq) (d n : Nat) :
    (begun m r).r308 ((begun m r).ringBytes - ringSize ((begun m r).die d).ring.sizeLog2 + ringSize n) =
      m.r308 (m.ringBytes - ringSize (m.die d).ring.sizeLog2 + ringSize n) := by
  have hregs (off : Nat) (ho : off < 2 ^ 26) : (begun m r).collReg off 0 = m.collReg off 0 :=
    begun_reg m r (by decide) ho (by decide)
  obtain ⟨v, g, e, -⟩ := begun_eq m r
  have hbytes : (begun m r).ringBytes = m.ringBytes ∧ (begun m r).die d = m.die d := by
    rw [e]
    exact ⟨rfl, rfl⟩
  obtain ⟨hb, hd⟩ := hbytes
  unfold Module.r308
  rw [hregs _ (by decide), hregs _ (by decide), hb, hd]

section
variable {m : Module} {r : CmdReq} (h : Runs m r 0x0406 [(0, 1, 3), (1, 1, 8), (4, 4, 32), (8, 4, 32), (12, 4, 32), (16, 256, 2048)])
  (h16 : 16 ≤ r.u 1 1) (h27 : r.u 1 1 ≤ 27)
include h

/-- The die of a legal WINDSOCK_CONFIG is one of the eight. -/
theorem die_lt_of_runs : r.u 0 1 < 8 := by
  obtain ⟨-, -, -, -, -, -, -, -, hlay⟩ := h
  simp only [laid, List.all_cons, Bool.and_eq_true, decide_eq_true_eq] at hlay
  exact hlay.1.1.2

include h16 h27

theorem windsockConfig_runs : windsockConfig r m =
    (begun m r).change r [unit 0x0A (r.u 0 1)] fun m => m.setWindsock r (r.u 0 1) (r.u 1 1) := by
  unfold windsockConfig
  rw [Module.command_runs h]
  dsimp only
  rw [if_neg (by simp [h16, h27])]

theorem windsockConfig_ok (hown : m.mayChange r (unit 0x0A (r.u 0 1)) = true)
    (hfit : m.r308 (m.ringBytes - ringSize (m.die (r.u 0 1)).ring.sizeLog2 + ringSize (r.u 1 1)) = true)
    (hlegal : Legal ((begun m r).resizeRing (r.u 0 1) (r.u 1 1)) r (windsockRegs r (swBlk (r.u 0 1) 8))) :
    windsockConfig r m = (((begun m r).windsockSet r).claim r [unit 0x0A (r.u 0 1)]).replyFinal r St.ok
      (beBytes 8 (((begun m r).windsockSet r).die (r.u 0 1)).ring.base) := by
  rw [windsockConfig_runs h h16 h27]
  refine Module.change_ok (by simp [begun_mayChange, hown]) ?_
  unfold Module.setWindsock
  rw [begun_r308, hfit, if_neg (by decide)]
  dsimp only
  rw [Module.writeRegs_legal hlegal]
  rfl

theorem windsockConfig_full (hown : m.mayChange r (unit 0x0A (r.u 0 1)) = true)
    (hfull : m.r308 (m.ringBytes - ringSize (m.die (r.u 0 1)).ring.sizeLog2 + ringSize (r.u 1 1)) = false) :
    windsockConfig r m = (begun m r).replyFinal r St.noResource [] := by
  rw [windsockConfig_runs h h16 h27]
  refine Module.change_failed (by simp [begun_mayChange, hown]) ?_ (by decide)
  unfold Module.setWindsock
  rw [begun_r308, hfull, if_pos (by decide)]

end

end Sys2Proof.Machine

namespace Sys2Proof.Proofs
open Sys2Proof.Machine Sys2Proof.Claims

/-- Settles O35: a command that begins leaves what the three commands read, the words of a plan are read back byte for byte, and a
ring that is resized stays empty while its registers are written. -/
theorem portsPlansAndRings : Obligations.PortsPlansAndRings := by
  unfold Obligations.PortsPlansAndRings
  intro s r
  refine ⟨fun h h0 h32 hn => ?_, fun h h0 hn hown hok => ?_, fun h h16 h27 hsize hown => ⟨fun hfit hlegal => ?_, fun hfull => ?_⟩⟩
  · refine completes_withM (portStatus r) rfl ?_
    rw [portStatus_runs h h0 h32 hn]
    obtain ⟨hports, -, -⟩ := (begun s.m r).replied_frame r St.ok ((List.range (r.u 1 1)).flatMap fun i => s.m.portImage (r.u 0 1 + i))
    exact ⟨hports.trans (s.m.reported_begun r).ports, Module.answered_replyFinal _ r (by decide) _⟩
  · refine completes_withM (cablingLoad r) rfl ?_
    rw [cablingLoad_runs h h0 hn hown hok]
    have hk := planLoaded_keep (m := begun s.m r) h0
    refine ⟨Module.answered_replyFinal _ r (by decide) _, hk.1, fun x hx => ?_⟩
    have hplace := loadedWords_place hn hx
    rw [hk.word (.inr (by omega))]
    refine Keep.word_writeWords (pairwise_loadedWords r) _ hx (by omega) ?_
    obtain ⟨i, -, rfl⟩ := List.mem_map.mp hx
    exact fieldBE_lt _ _ _
  · refine completes_withM (windsockConfig r) rfl ?_
    rw [windsockConfig_ok h h16 h27 hown hfit hlegal]
    have hfresh := Module.fresh_windsockSet (m := begun s.m r) (die_lt_of_runs h)
      (by rw [Module.die_of_dies_eq (s.m.reported_begun r).dies]; exact hsize)
    generalize (begun s.m r).windsockSet r = n at hfresh ⊢
    have hdie : (((n.claim r [unit 0x0A (r.u 0 1)]).replyFinal r St.ok (beBytes 8 (n.die (r.u 0 1)).ring.base)).die (r.u 0 1)) =
        n.die (r.u 0 1) :=
      Module.die_of_dies_eq ((Module.replied_frame _ r St.ok _).2.1.trans (n.reported_claim r _).dies) _
    rw [hdie]
    obtain ⟨hn, hseq, hstop⟩ := hfresh
    exact ⟨hn, hseq, hstop, Module.answered_replyFinal _ r (by decide) _⟩
  · refine completes_withM (windsockConfig r) rfl ?_
    rw [windsockConfig_full h h16 h27 hown hfull]
    obtain ⟨-, hdies, -⟩ := (begun s.m r).replied_frame r St.noResource []
    exact ⟨Module.answered_replyFinal _ r (by decide) _, hdies.trans (s.m.reported_begun r).dies⟩

end Sys2Proof.Proofs
end

section
/-!
Commands that arrive and the gates of every command's row (R427, R428, R431 to R434, R442, R486, R506).
-/
namespace Sys2Proof.Machine
open Sys2Proof.Claims

/-! ### The gates of a command's row (R432 to R434, R442, R506) -/

/-- Every row of a command is taken and checked in the same way; what differs is the layout and the effect. -/
theorem exec_of_request {i : Instr} {r : CmdReq} {op : Nat} {row : Bool} (h : request i = some (r, op, row)) :
    ∃ lay f, ∀ s, exec i s = .next (s.withM fun m => m.command r op row lay f) := by
  unfold request at h
  split at h
  all_goals cases h
  all_goals exact ⟨_, _, fun _ => rfl⟩

section
variable {m : Module} {r : CmdReq} (hup : m.vaneUp = true) (hnext : m.vane.next = some r)
include hup hnext

theorem Module.takeCmd_repeat {n : Module} (hc : m.fromCache r = some n) : m.takeCmd r = (n.popCmd r.side, false) := by
  simp [Module.takeCmd, hup, hnext, hc]

theorem Module.takeCmd_busy (hc : m.fromCache r = none) (hb : m.busyFor r.opcode = true) :
    m.takeCmd r = ((m.popCmd r.side).replyFinal r St.busy, false) := by
  simp [Module.takeCmd, hup, hnext, hc, hb]

theorem Module.takeCmd_asleep (hc : m.fromCache r = none) (hb : m.busyFor r.opcode = false) (hl : m.pwr.lull ≠ 0)
    (ho : standbyOp r.opcode = false) : m.takeCmd r = (m.wake 2, false) := by
  simp [Module.takeCmd, hup, hnext, hc, hb, hl, ho]

theorem Module.takeCmd_begins (hc : m.fromCache r = none) (hb : m.busyFor r.opcode = false) (hl : m.pwr.lull = 0) :
    m.takeCmd r = (begun m r, true) := by
  simp [Module.takeCmd, hup, hnext, hc, hb, hl, begun]

end

theorem Module.command_turnedAway {m n : Module} {r : CmdReq} (h : m.takeCmd r = (n, false)) (lay : List (Nat × Nat × Nat))
    (f : Module → Module) : m.command r r.opcode true lay f = n := by
  simp [Module.command, h]

theorem Module.command_badParam {m n : Module} {r : CmdReq} (h : m.takeCmd r = (n, true))
    (hbad : r.ver ≠ 1 ∨ r.body.length < 16 ∨ 2048 < r.body.length ∨ r.body.length % 16 ≠ 0) (lay : List (Nat × Nat × Nat))
    (f : Module → Module) : m.command r r.opcode true lay f = n.replyFinal r St.badParam := by
  have hany : (r.ver != 1 || Decidable.decide (r.body.length < 16) || Decidable.decide (2048 < r.body.length) || r.body.length % 16 != 0) = true := by
    simpa [or_assoc] using hbad
  simp only [Module.command, bne_self_eq_false, Bool.not_true, Bool.or_self, Bool.false_eq_true, if_false, h, hany,
    Bool.true_or, if_true]

/-- What a command that begins and its final reply leave of the module. -/
theorem Module.refused_frame (m : Module) (r : CmdReq) (st : Nat) :
    let n := (begun m r).replyFinal r st
    n.store = m.store ∧ n.keep = m.keep ∧ n.coll = m.coll ∧ n.net.route = m.net.route ∧ n.mem = m.mem ∧ n.sec = m.sec ∧
      n.flt = m.flt := by
  obtain ⟨_, _, eb, -⟩ := begun_eq m r
  intro n
  cases hs : r.side with
  | false =>
    obtain ⟨_, _, _, _, _, e⟩ := (begun m r).replyFinal_host hs st
    rw [show n = _ from e, eb]
    and_intros <;> rfl
  | true =>
    obtain ⟨_, _, e⟩ := (begun m r).replyFinal_side hs st
    rw [show n = _ from e, eb]
    and_intros <;> rfl

/-! ### Arrival (R427, R428, R431 to R433, R486) -/

@[simp] theorem Module.refuseCmd_vane (m : Module) : m.refuseCmd.vane = m.vane := by simp [Module.refuseCmd]
@[simp] theorem Module.refuseCmd_store (m : Module) : m.refuseCmd.store = m.store := by simp [Module.refuseCmd]

/-- A command from elsewhere is discarded and counted (R431, R486). -/
theorem Module.arrive_unknown {m : Module} {r : CmdReq} (hup : m.vaneUp = true)
    (hsrc : (if r.side then m.sideAllowed r.addr else m.isHost r.chip) = false) : m.arrive r = m.refuseCmd := by
  simp [Module.arrive, hup, hsrc]

section
variable {m : Module} {r : CmdReq} (hup : m.vaneUp = true)
  (hsrc : (if r.side then m.sideAllowed r.addr else m.isHost r.chip) = true) (hrec : (m.sec.recovery && !r.side) = false)
  (hc : m.fromCache r = none) (ho : opcodes.contains r.opcode = true)
include hup hsrc hrec hc ho

theorem Module.arrive_queued (hroom : (m.vane.queue r.side).length < queueSize r.side) :
    m.arrive r = { m with vane := m.vane.setQueue r.side (m.vane.queue r.side ++ [r]) } := by
  simp only [Module.arrive, Module.admitCmd, hup, hsrc, hrec, hc, ho, Nat.not_le.mpr hroom, Bool.not_true, Bool.false_eq_true,
    if_false, if_true]

theorem Module.arrive_full (hfull : queueSize r.side ≤ (m.vane.queue r.side).length) :
    m.arrive r = (m.count (mgtBlk 255) 0x118).replyFinal r St.busy := by
  simp only [Module.arrive, Module.admitCmd, hup, hsrc, hrec, hc, ho, hfull, Bool.not_true, Bool.false_eq_true, if_false,
    if_true]

end

/-- What replies to a host that are not cached change: what waits for cells, and the wake from Lull. -/
theorem Module.replyFinal_busy_vane (m : Module) {r : CmdReq} (hr : r.side = false) :
    (m.replyFinal r St.busy).vane = m.vane := by
  obtain ⟨_, _, _, _, h⟩ := Module.sendReplies_host hr (replySegs r St.busy 0 [(0, [])]) m
  simp [Module.replyFinal, h]

/-- A CMD packet with a bad trailer changes no queue and no cache: it is discarded, or answered and not cached (R108). -/
theorem cmdArrival_bad {m : Module} {p : Pkt} (hup : m.vaneUp = true) (hmain : m.pwr.main = true) (ht : p.h.type = 0x20)
    (hg : p.good = false) (hp : p.h.part = 0) : let n := cmdArrival p m
    n.vane = m.vane ∧ n.store = m.store ∧ n.net.handed = m.net.handed.erase p := by
  have hup' : (m.taken p).vaneUp = true := hup
  have e : cmdArrival p m =
      if (m.taken p).isHost p.h.src then (m.taken p).replyLost (cmdOf p) else (m.taken p).refuseCmd := by
    simp [cmdArrival, hmain, ht, hg, hp, hup']
  intro n
  rw [show n = _ from e]
  split
  · obtain ⟨_, _, _, _, h⟩ := Module.sendReplies_host (r := cmdOf p) rfl (replySegs (cmdOf p) St.chunkLost 0 [(0, [])]) (m.taken p)
    rw [Module.replyLost, h]
    exact ⟨rfl, rfl, rfl⟩
  · simp [Module.refuseCmd, Module.taken]

theorem sidebandDatagram_unknown {m : Module} {f : SbFrag} (hup : m.vaneUp = true) (ha : m.sideAllowed f.addr = false) :
    sidebandDatagram f m = m.refuseCmd := by
  simp [sidebandDatagram, hup, ha]

end Sys2Proof.Machine

namespace Sys2Proof.Proofs
open Sys2Proof.Machine Sys2Proof.Claims

/-- Settles O29: what arrives ends in a discard, a place in its queue or a reply; every row passes the same gates, and what a
refusal changes is known. -/
theorem commandsArriveAndPassGates : Obligations.CommandsArriveAndPassGates := by
  unfold Obligations.CommandsArriveAndPassGates
  refine ⟨fun s p f hup => ⟨fun hmain ht hg hp hrec => ?_, fun hmain ht hg hp => ?_, fun ha => ?_, ?_⟩,
    fun s i r op hreq hop hup hnext => ?_⟩
  · have harr := cmdArrival_eq_arrive (p := p) hup hmain ht hg hp
    have hrec' : ((s.m.taken p).sec.recovery && !(cmdOf p).side) = false := by
      rw [show (s.m.taken p).sec.recovery = false from hrec, Bool.false_and]
    refine ⟨fun hsrc => ?_, fun hsrc hc ho hroom => ?_, fun hsrc hc ho hfull => ?_, fun hsrc hc ho => ?_⟩
    · refine completes_withM (cmdArrival p) rfl ?_
      rw [harr, Module.arrive_unknown (m := s.m.taken p) (r := cmdOf p) hup hsrc]
      exact ⟨Module.refuseCmd_vane _, Module.refuseCmd_store _⟩
    · refine completes_withM (cmdArrival p) rfl ?_
      rw [harr, Module.arrive_queued (m := s.m.taken p) (r := cmdOf p) hup hsrc hrec' (Module.fromCache_taken_eq_none p hc) ho hroom]
      exact ⟨rfl, rfl, rfl⟩
    · refine completes_withM (cmdArrival p) rfl ?_
      rw [harr, Module.arrive_full (m := s.m.taken p) (r := cmdOf p) hup hsrc hrec' (Module.fromCache_taken_eq_none p hc) ho hfull,
        Module.replyFinal_busy_vane _ rfl, Module.count_vane]
      exact ⟨rfl, rfl⟩
    · refine completes_withM (cmdArrival p) rfl ?_
      rw [harr, Module.arrive_unassigned (m := s.m.taken p) (r := cmdOf p) hup hsrc hrec (Module.fromCache_taken_eq_none p hc) ho]
      refine ⟨Module.answered_replyFinal _ _ (by decide), ?_⟩
      obtain ⟨_, _, _, _, _, hm⟩ := (s.m.taken p).replyFinal_host (r := cmdOf p) rfl St.badOpcode
      rw [hm]
      exact ⟨rfl, rfl⟩
  · exact completes_withM (cmdArrival p) rfl (cmdArrival_bad hup hmain ht hg hp)
  · refine completes_withM (sidebandDatagram f) rfl ?_
    rw [sidebandDatagram_unknown hup ha]
    exact ⟨Module.refuseCmd_vane _, Module.refuseCmd_store _⟩
  · intro ha hmax hoff hlen q r hmin htot hi hg hill ht hsrc hdest hc ho hroom
    refine completes_withM (sidebandDatagram f) rfl ?_
    have e : sidebandDatagram f s.m = { s.m with vane := s.m.vane.setQueue true (s.m.vane.sideQ ++ [r]) } := calc
      sidebandDatagram f s.m = s.m.datagram f.addr f.udp f.data := sidebandDatagram_eq_datagram hup ha hmax hoff hlen
      _ = s.m.arrive r := Module.datagram_eq_arrive rfl (hlen ▸ hmin) (hlen ▸ htot) hi hg hill ht hsrc hdest
      _ = _ := Module.arrive_queued (r := r) hup ha (Bool.and_false _) hc ho hroom
    rw [e]
    exact ⟨rfl, rfl⟩
  · obtain ⟨lay, f, hexec⟩ := exec_of_request hreq
    subst hop
    refine ⟨fun n hc => ?_, fun hc hb => ?_, fun hc hb hl ho => ?_, fun hc hb hl hbad => ?_⟩
    · exact completes_withM _ (hexec s) (Module.command_turnedAway (Module.takeCmd_repeat hup hnext hc) lay f)
    · exact completes_withM _ (hexec s) (Module.command_turnedAway (Module.takeCmd_busy hup hnext hc hb) lay f)
    · exact completes_withM _ (hexec s) (Module.command_turnedAway (Module.takeCmd_asleep hup hnext hc hb hl ho) lay f)
    · refine completes_withM _ (hexec s) ?_
      rw [Module.command_badParam (Module.takeCmd_begins hup hnext hc hb hl) hbad]
      exact ⟨Module.answered_replyFinal _ r (by decide), s.m.refused_frame r St.badParam⟩

end Sys2Proof.Proofs
end

section
/-!
A FENCE whose record names an arrival VC that no VC has: its answer takes that number as its VC (R536), and the number runs
over into the TYPE field of the header (R85).
-/
namespace Sys2Proof.Machine
open Sys2Proof.Claims

/-- A READY module to which nothing has happened. -/
def readyModule : Module := { pwr := { booted := true, main := true, st := 2 } }

/-- An ordered FENCE of chip 1 without a payload, with the VC of its arrival recorded as 8. -/
def overflowingFence : Pkt := { h := ((mkHdr 6 3 7 1 0 5 0).setOrdered true).setSeq 9, vcIn := some 8 }

theorem performs_overflowingFence : Performs readyModule overflowingFence 6 := by
  refine ⟨by decide +kernel, by decide +kernel, by decide +kernel, fun k hk => ?_⟩
  exact absurd hk List.not_mem_nil

/-- The answer is of type 8, where a FENCE_ACK is of type 7: TYPE holds 7 and the carry of VC 8. -/
theorem orig_fence_overflowingFence :
    (fence overflowingFence readyModule).net.orig.map (fun q => q.pkt.h.type) = [8] := by
  decide +kernel

/-- An answer that is the first packet to be originated is the only one. -/
theorem answerSent_types {a b : Module} {p : Pkt} {type status : Nat} {pl : Bytes} (h : AnswerSent a b p type status pl)
    (hup : a.fabricUp = true) (ho : a.net.orig = []) : b.net.orig.map (fun q => q.pkt.h.type) = [type] := by
  obtain ⟨q, hq, ht, -⟩ := h hup
  rw [hq, ho, List.nil_append, List.map_singleton, ht]

end Sys2Proof.Machine

namespace Sys2Proof.Proofs
open Sys2Proof.Machine Sys2Proof.Claims

/-- Refutes O27 at its clause for FENCE, which says of every packet, also of one whose recorded arrival VC is no VC, that
the answer's TYPE is 7: the VC of an answer is the recorded one (R536), and VC 8 carries into TYPE and makes it 8. No
packet that arrives has such a record; the statement has no premise that says so. -/
theorem not_readsAndFencesAnswer : ¬ Obligations.ReadsAndFencesAnswer := by
  unfold Obligations.ReadsAndFencesAnswer
  intro h
  obtain ⟨-, hFence, -⟩ := h { m := readyModule } overflowingFence {} 0 0
  obtain ⟨t, ht, -, -, hSent, -⟩ :=
    hFence performs_overflowingFence (by decide +kernel) (by decide +kernel) (by decide +kernel) (by decide +kernel)
  obtain rfl : State.withM { m := readyModule } (fence overflowingFence) = t := Host.Outcome.next.inj ht
  have h7 := answerSent_types hSent (by decide) rfl
  exact absurd (h7.symm.trans orig_fence_overflowingFence) (by decide)

end Sys2Proof.Proofs
end

section
/-!
WRITE and the local copy of an MCAST_DATA (R111, R114, R318, R326): bytes of memory read after a write, what befalls a tile
and its check, a tile stored, and a request that its target performs.
-/
namespace Sys2Proof.Machine
open Sys2Proof.Claims

/-! ### Bytes read after a write -/

theorem Memory.read_eq_bytes (m : Memory) (a n : Nat) : m.read a n = (List.range n).map fun i => m.byte (a + i) := by
  refine List.map_congr_left fun i hi => ?_
  have hi := List.mem_range.mp hi
  exact Memory.lookupCell_filter (α := Byte) 0 (fun k => decide (a ≤ k) && decide (k < a + n)) (by simp; omega) m.cells

@[simp] theorem Memory.read_length (m : Memory) (a n : Nat) : (m.read a n).length = n := by simp [Memory.read]

theorem splice_length {l d : Bytes} {o : Nat} (h : o + d.length ≤ l.length) : (splice l o d).length = l.length := by
  simp only [splice, List.length_append, List.length_take, List.length_drop]
  omega

/-- Bytes written inside a range replace what the range read. -/
theorem Memory.read_write_inside (m : Memory) (a : Nat) {o n : Nat} {d : Bytes} (h : o + d.length ≤ n) :
    (m.write (a + o) d).read a n = splice (m.read a n) o d := by
  refine List.ext_getElem (by simp [splice_length, h]) fun i hi _ => ?_
  have hi : i < n := by simpa using hi
  simp only [Memory.read_eq_bytes, List.getElem_map, List.getElem_range, splice]
  by_cases h1 : i < o
  · rw [Memory.byte_write_out _ _ _ _ (.inl (by omega))]
    grind
  by_cases h2 : o + d.length ≤ i
  · rw [Memory.byte_write_out _ _ _ _ (.inr (by omega))]
    grind
  · have hb := Memory.byte_write_in m (a + o) d (i - o) (by omega)
    rw [show a + o + (i - o) = a + i by omega] at hb
    rw [hb]
    grind

theorem splice_whole {l d : Bytes} (h : d.length = l.length) : splice l 0 d = d := by
  simp [splice, h]

/-- A range written whole reads as written. -/
theorem Memory.read_write_whole (m : Memory) (a : Nat) (d : Bytes) : (m.write a d).read a d.length = d := by
  have h := m.read_write_inside a (o := 0) (n := d.length) (d := d) (by omega)
  rwa [splice_whole (by simp)] at h

/-! ### Reports and memory (R446, R453, R455) -/

/-- Two modules with the same memory, store and packets. -/
structure Module.SameStore (a b : Module) : Prop where
  mem : b.mem = a.mem
  store : b.store = a.store
  net : b.net = a.net

theorem Module.SameStore.refl (a : Module) : a.SameStore a := ⟨rfl, rfl, rfl⟩

theorem Module.SameStore.trans {a b c : Module} (h : a.SameStore b) (h' : b.SameStore c) : a.SameStore c :=
  ⟨h'.mem.trans h.mem, h'.store.trans h.store, h'.net.trans h.net⟩

theorem Module.SameStore.ite {a b c : Module} {p : Prop} [Decidable p] (hb : p → a.SameStore b) (hc : ¬ p → a.SameStore c) :
    a.SameStore (if p then b else c) := by
  split
  · exact hb ‹_›
  · exact hc ‹_›

theorem Module.sameStore_count (m : Module) (blk off n : Nat) : m.SameStore (m.count blk off n) :=
  ⟨m.count_mem blk off n, m.count_store blk off n, m.count_net blk off n⟩

theorem Module.SameStore.count {a b : Module} (h : a.SameStore b) (blk off n : Nat) : a.SameStore (b.count blk off n) :=
  h.trans (b.sameStore_count blk off n)

theorem Module.SameStore.vane {a b : Module} (h : a.SameStore b) (v : Vane) : a.SameStore { b with vane := v } :=
  ⟨h.mem, h.store, h.net⟩

theorem Module.SameStore.flt {a b : Module} (h : a.SameStore b) (f : Flt) : a.SameStore { b with flt := f } :=
  ⟨h.mem, h.store, h.net⟩

theorem Module.sameStore_wake (m : Module) (cause : Nat) : m.SameStore (m.wake cause) :=
  ⟨m.wake_mem cause, m.wake_store cause, m.wake_net cause⟩

theorem Module.sameStore_eventTo (m : Module) (slot code : Nat) (pl : Bytes) : m.SameStore (m.eventTo slot code pl) := by
  unfold Module.eventTo
  exact .ite (fun _ => (Module.SameStore.refl m).vane _) fun _ => ((Module.SameStore.refl m).vane _).count _ _ 1

theorem Module.sameStore_event (m : Module) (code : Nat) (pl : Bytes) : m.SameStore (m.event code pl) := by
  refine List.foldlRecOn _ _ (motive := fun n => m.SameStore n) (.refl m) fun n hn slot _ => hn.trans ?_
  have h := n.sameStore_eventTo slot code pl
  exact .ite (fun _ => .ite (fun _ => h) fun _ => h.trans (Module.sameStore_wake _ 1)) fun _ => .refl n

theorem Module.sameStore_writeHistory (m : Module) (r : Rec) (close : Nat) : m.SameStore (m.writeHistory r close) := by
  unfold Module.writeHistory
  split
  · exact ⟨rfl, rfl, rfl⟩
  · exact .refl m

theorem Module.sameStore_fatalIf (m : Module) (p : Bool) (r : Rec) :
    m.SameStore (if p then m.enterFatal r else (m, r)).1 := by
  cases p
  · exact .refl m
  · exact ⟨rfl, rfl, rfl⟩

/-- A raise of a source changes no memory. -/
theorem Module.sameStore_raise (m : Module) (src blk detail : Nat) (inj : Bool) : m.SameStore (m.raise src blk detail inj) := by
  have hc := m.sameStore_count (mgtBlk 3) (0x200 + 8 * src) 1
  unfold Module.raise
  refine .ite (fun _ => .refl m) fun _ => ?_
  dsimp only
  split
  · refine .trans (.trans (.flt ?_ _) (Module.sameStore_writeHistory _ _ _)) (Module.sameStore_event _ _ _)
    exact ((hc.flt _).count _ _ 1).trans (Module.sameStore_fatalIf _ _ _)
  · refine .ite (fun _ => .trans ?_ (Module.sameStore_event _ _ _)) fun _ => ?_ <;>
    · refine .ite (fun _ => .trans ?_ (Module.sameStore_writeHistory _ _ _)) fun _ => ?_ <;>
      exact .flt (.trans (.ite (fun _ => hc.count _ _ 1) fun _ => hc)
        (Module.sameStore_fatalIf _ _ _)) _

/-! ### What befalls a tile, and its check (R306, R326) -/

/-- What errors in memory change until a use finds more than ECC corrects: counters, the cells of the dies, and the damage. -/
def Module.Struck (a b : Module) : Prop :=
  ∃ regs dies damaged, b = { a with regs := regs, dies := dies, store := { a.store with damaged := damaged } }

theorem Module.Struck.refl (a : Module) : a.Struck a := ⟨a.regs, a.dies, a.store.damaged, rfl⟩

theorem Module.Struck.trans {a b c : Module} (h : a.Struck b) (h' : b.Struck c) : a.Struck c := by
  obtain ⟨_, _, _, rfl⟩ := h
  obtain ⟨r, d, g, rfl⟩ := h'
  exact ⟨r, d, g, rfl⟩

theorem Module.struck_count (m : Module) (blk off n : Nat) : m.Struck (m.count blk off n) := by
  obtain ⟨v, h⟩ | h := m.count_cases blk off n <;> rw [h]
  · exact ⟨_, m.dies, m.store.damaged, rfl⟩
  · exact .refl m

theorem Module.struck_strike (m : Module) (c : EccIn) : m.Struck (m.strike c) := by
  have hcells : m.Struck (m.strikeCells c.cells) :=
    List.foldlRecOn _ _ (motive := fun n => m.Struck n) (.refl m) fun n hn x _ =>
      hn.trans ⟨n.regs, _, n.store.damaged, rfl⟩
  refine List.foldlRecOn _ _ (motive := fun n => m.Struck n) hcells fun n hn x _ => hn.trans ?_
  split
  · exact ⟨n.regs, n.dies, _, rfl⟩
  · exact .refl n

theorem Module.struck_check1 {m : Module} {k : Nat} (h : m.store.damaged.get k < 2) (handle tile use : Nat) :
    m.Struck (m.check1 handle tile k use) := by
  unfold Module.check1
  dsimp only
  split
  · exact .refl m
  · rw [if_pos (by simp_all; omega)]
    exact .trans ⟨m.regs, m.dies, _, rfl⟩ (Module.struck_count _ _ _ 1)

theorem Module.Struck.mem {a b : Module} (h : a.Struck b) : b.mem = a.mem := by
  obtain ⟨_, _, _, rfl⟩ := h
  rfl

theorem Module.Struck.net {a b : Module} (h : a.Struck b) : b.net = a.net := by
  obtain ⟨_, _, _, rfl⟩ := h
  rfl

theorem Module.Struck.isPoisoned {a b : Module} (h : a.Struck b) (k : Nat) : b.isPoisoned k = a.isPoisoned k := by
  obtain ⟨_, _, _, rfl⟩ := h
  rfl

/-- The status of a WRITE or an ATOMIC does not tell of errors in memory. -/
theorem Module.Struck.destStatus {a b : Module} (h : a.Struck b) {p : Pkt} (hp : p.h.type ≠ 2) :
    b.destStatus p = a.destStatus p := by
  obtain ⟨_, _, _, rfl⟩ := h
  have hw : (p.h.type != 2) = true := by simpa using hp
  simp only [Module.destStatus, Module.placeStatus, hw, Bool.true_or, if_true]
  rfl

/-- A tile poisoned: its mark is set, and memory and the rest of the store stay. -/
theorem Module.sameStore_poison (m : Module) (handle tile k use : Nat) :
    { m with store := { m.store with poisoned := m.store.poisoned.put k true } }.SameStore (m.poison handle tile k use) := by
  unfold Module.poison
  dsimp only
  refine .trans ?_ (Module.sameStore_raise _ _ _ _ false)
  refine .trans ?_ (Module.sameStore_event _ _ _)
  exact Module.sameStore_count _ _ _ 1

/-- A tile whose check finds more than ECC corrects is poisoned. -/
theorem Module.check1_unsound {m : Module} {k : Nat} (h : ¬ m.store.damaged.get k < 2) (hk : m.isPoisoned k = false)
    (handle tile use : Nat) : { m with store := { m.store with poisoned := m.store.poisoned.put k true } }.SameStore
      (m.check1 handle tile k use) := by
  have h0 : ¬ (m.store.damaged.get k == 0) = true := by simp; omega
  have h1 : ¬ (m.store.damaged.get k == 1) = true := by simp; omega
  unfold Module.check1
  dsimp only
  rw [if_neg h0, if_neg h1, if_neg (by simp [hk])]
  split
  · obtain ⟨hm, hs, hn⟩ := m.sameStore_raise (if m.unitOf k < 16 then 29 else 34) (memBlk (m.unitOf k)) 0 false
    obtain ⟨hm', hs', hn'⟩ := Module.sameStore_poison (m.raise (if m.unitOf k < 16 then 29 else 34) (memBlk (m.unitOf k)) 0) handle tile k use
    exact ⟨hm'.trans hm, hs'.trans (by rw [hs]), hn'.trans hn⟩
  · exact m.sameStore_poison handle tile k use

/-! ### A tile stored (R111, R318) -/

theorem Module.count_eq_regs (m : Module) (blk off n : Nat) : ∃ g, m.count blk off n = { m with regs := g } := by
  obtain ⟨v, h⟩ | h := m.count_cases blk off n
  · exact ⟨_, h⟩
  · exact ⟨m.regs, h⟩

/-- An object as a write of one of its tiles leaves it: changed since the last commit, its segments where they were, and
`flip` saying which copies are present. -/
def Obj.WrittenWith (o o' : Obj) (flip : Tab Bool) : Prop :=
  o'.handle = o.handle ∧ o'.segs = o.segs ∧ o'.job = o.job ∧ o'.flip = flip ∧ o'.dirty = true

/-- The object after the first write of a tile since a commit, and after a later one or one that is not retained (R318). -/
def Obj.firstWritten (o : Obj) (t : Nat) : Obj :=
  { o.touched with flip := o.flip.put t (!o.flip.get t), wr := o.wr.put t true, prevHeld := false, dirty := true }
def Obj.writtenAgain (o : Obj) : Obj := { o.touched with dirty := true, wr := if o.retain then o.wr else {} }

/-- Bytes written from an address for object `i`, beside the counters, the heat and the checks of tiles. -/
def Module.BytesStored (a b : Module) (i addr : Nat) (d : Bytes) (flip : Tab Bool) : Prop :=
  ∃ regs heat damaged poisoned o', (a.obj i).WrittenWith o' flip ∧ b = { a with
    regs := regs
    mem := a.mem.write addr d
    store := { a.store with heat := heat, damaged := damaged, poisoned := poisoned, objs := a.store.objs.put i o' } }

/-- Whether the next write of a tile goes to its other copy: the first one of a retained object after a commit. -/
def Obj.firstWrite (o : Obj) (t : Nat) : Bool := o.retain && !o.wr.get t

theorem Module.warm_read_eq (m : Module) (off k : Nat) (whole : Bool) :
    ∃ g h, (if whole then m.warm off else (m.warm off).countRead k) = { m with regs := g, store := { m.store with heat := h } } := by
  cases whole
  · obtain ⟨g, e⟩ := (m.warm off).count_eq_regs (memBlk ((m.warm off).unitOf k)) 0x100 1
    exact ⟨g, _, e⟩
  · exact ⟨m.regs, _, rfl⟩

/-- The first write after a commit rewrites the other copy, which is present from then on. -/
theorem Module.storeTile_first {m : Module} {i t : Nat} (hf : (m.obj i).firstWrite t = true) (off : Nat) (d : Bytes) :
    m.BytesStored (m.storeTile i t off d) i (tileAddr (m.otherCopy (m.obj i) t))
      (splice (m.tileBytes (m.present (m.obj i) t)) off d) ((m.obj i).flip.put t (!(m.obj i).flip.get t)) := by
  obtain ⟨g, h, e⟩ := m.warm_read_eq ((m.obj i).base + 2048 * t) (m.present (m.obj i) t) (d.length == 2048)
  have hf' : ((m.obj i).retain && !(m.obj i).wr.get t) = true := hf
  unfold Module.storeTile
  dsimp only
  rw [if_pos hf', e]
  obtain ⟨g', e'⟩ := Module.count_eq_regs _ _ _ 1
  exact ⟨g', h, _, _, (m.obj i).firstWritten t, ⟨rfl, rfl, rfl, rfl, rfl⟩, e'⟩

/-- A later write, and one of an object that is not retained, changes the bytes in place. -/
theorem Module.storeTile_again {m : Module} {i t : Nat} (hf : (m.obj i).firstWrite t = false) (off : Nat) (d : Bytes) :
    m.BytesStored (m.storeTile i t off d) i (tileAddr (m.present (m.obj i) t) + off) d (m.obj i).flip := by
  obtain ⟨g, h, e⟩ := m.warm_read_eq ((m.obj i).base + 2048 * t) (m.present (m.obj i) t) (d.length == 2048)
  have hf' : ¬ ((m.obj i).retain && !(m.obj i).wr.get t) = true := by
    rw [Bool.not_eq_true]
    exact hf
  unfold Module.storeTile
  dsimp only
  rw [if_neg hf', e]
  split
  · obtain ⟨g', e'⟩ := Module.count_eq_regs _ _ _ 1
    exact ⟨g', h, _, _, (m.obj i).writtenAgain, ⟨rfl, rfl, rfl, rfl, rfl⟩, e'⟩
  · obtain ⟨g', e'⟩ := Module.count_eq_regs _ _ _ 1
    exact ⟨g', h, _, _, (m.obj i).writtenAgain, ⟨rfl, rfl, rfl, rfl, rfl⟩, e'⟩

/-- The key of a tile's copies tells of the object's handle, segments and migration, and of the channels. -/
theorem Store.keyOf_congr {t u : Store} (hc : u.chans = t.chans) {o o' : Obj} (hh : o'.handle = o.handle)
    (hs : o'.segs = o.segs) (hj : o'.job = o.job) (tile : Nat) (second : Bool) :
    u.keyOf o' tile second = t.keyOf o tile second := by
  have hm : o'.moving = o.moving := by
    unfold Obj.moving
    rw [hj]
  have hg : o'.segOf tile = o.segOf tile := by
    unfold Obj.segOf Obj.isCopied
    rw [hm, hs]
  have hp (h : Nat) (g : Segm) (k : Nat) : u.placeOf h g k = t.placeOf h g k := by
    unfold Store.placeOf
    rw [hc]
  unfold Store.keyOf Store.keyIn
  rw [hg, hh, hp]

/-- What a write of bytes inside a tile leaves: the bytes merged into the tile at the key to which they go, that copy
present, the object dirty, and every byte outside those rewritten as it was. -/
structure Module.TileStored (a b : Module) (i t off : Nat) (d : Bytes) : Prop where
  present : b.present (b.obj i) t = storeKey a i t
  dirty : (b.obj i).dirty = true
  merged : b.tileBytes (storeKey a i t) = splice (a.tileBytes (a.present (a.obj i) t)) off d
  rest : ∀ x, ¬ (tileAddr (storeKey a i t) + (if (a.obj i).firstWrite t then 0 else off) ≤ x ∧
    x < tileAddr (storeKey a i t) + (if (a.obj i).firstWrite t then 2048 else off + d.length)) → b.mem.byte x = a.mem.byte x
  net : b.net = a.net

theorem Module.BytesStored.present {a b : Module} {i addr : Nat} {d : Bytes} {flip : Tab Bool}
    (h : a.BytesStored b i addr d flip) (t : Nat) :
    b.present (b.obj i) t = a.store.keyOf (a.obj i) t (flip.get t) ∧ (b.obj i).dirty = true := by
  obtain ⟨_, _, _, _, o', ⟨hh, hs, hj, hf, hd⟩, rfl⟩ := h
  have ho : (a.store.objs.put i o').get i = o' := Tab.get_put_same _ _ _
  simp only [Module.present, Module.obj, ho, hf, hd, and_true]
  exact Store.keyOf_congr rfl hh hs hj t _

theorem Module.tileStored_storeTile (a : Module) (i t : Nat) {off : Nat} {d : Bytes} (hd : off + d.length ≤ 2048) :
    a.TileStored (a.storeTile i t off d) i t off d := by
  cases hf : (a.obj i).firstWrite t with
  | true =>
    have hk : storeKey a i t = a.otherCopy (a.obj i) t := if_pos hf
    have hb := Module.storeTile_first hf off d
    obtain ⟨hp, hdirty⟩ := hb.present t
    have hlen : (splice (a.tileBytes (a.present (a.obj i) t)) off d).length = 2048 := by
      rw [splice_length (by simp [Module.tileBytes, hd])]
      simp [Module.tileBytes]
    obtain ⟨_, _, _, _, o', -, e⟩ := hb
    refine ⟨?_, hdirty, ?_, fun x hx => ?_, by rw [e]⟩
    · rw [hp, Tab.get_put_same, hk]
      rfl
    · have hw := a.mem.read_write_whole (tileAddr (a.otherCopy (a.obj i) t)) (splice (a.tileBytes (a.present (a.obj i) t)) off d)
      rw [hlen] at hw
      rw [hk, Module.tileBytes, e]
      exact hw
    · rw [hk, hf, if_pos rfl, if_pos rfl] at hx
      rw [e]
      exact Memory.byte_write_out _ _ _ _ (by omega)
  | false =>
    have hk : storeKey a i t = a.present (a.obj i) t := by
      unfold storeKey
      rw [if_neg]
      · rw [Bool.not_eq_true]
        exact hf
    have hb := Module.storeTile_again hf off d
    obtain ⟨hp, hdirty⟩ := hb.present t
    obtain ⟨_, _, _, _, o', -, e⟩ := hb
    refine ⟨?_, hdirty, ?_, fun x hx => ?_, by rw [e]⟩
    · rw [hp, hk]
      rfl
    · rw [hk, Module.tileBytes, e]
      exact a.mem.read_write_inside _ hd
    · rw [hk, hf, if_neg (by decide), if_neg (by decide)] at hx
      rw [e]
      exact Memory.byte_write_out _ _ _ _ (by omega)

/-- Errors in memory do not change what a write of a tile does. -/
theorem Module.TileStored.of_struck {a b c : Module} {i t off : Nat} {d : Bytes} (h : a.Struck b)
    (h' : b.TileStored c i t off d) : a.TileStored c i t off d := by
  obtain ⟨_, _, _, rfl⟩ := h
  obtain ⟨hp, hd, hm, hr, hn⟩ := h'
  exact ⟨hp, hd, hm, hr, hn⟩

/-! ### A request that its target performs (R330, R394) -/

/-- The row of a packet that its target performs now, where its effect hands over no packet: its effect alone. -/
theorem Module.perform_eq {m : Module} {p : Pkt} {type : Nat} {f : Module → Module} (h : Performs m p type)
    (hf : (f (m.taken p)).net.handed = m.net.handed.erase p) : m.perform p type f = f (m.taken p) := by
  obtain ⟨hw, ht, hb, hn⟩ := h
  have hnone : ((f (m.taken p)).net.handed.filter fun q => reservedAtomic q.h) = [] := by
    rw [hf, List.filter_eq_nil_iff]
    exact fun q hq => by simp [hn q (List.mem_of_mem_erase hq)]
  unfold Module.perform
  rw [if_pos (by simp [hw, ht, hb])]
  unfold Module.refuseReserved
  rw [hnone]
  rfl

/-- What WRITE does to a module from which its packet has been taken. -/
def Module.written (m : Module) (p : Pkt) (c : EccIn) : Module :=
  let m := m.strike c
  let st := m.destStatus p
  if st != St.ok then m.writeError p.h.src st
  else match m.store.locate p.h.offset with
    | some (i, t) =>
      let k := m.present (m.obj i) t
      let m := if p.pl.length == 2048 then m else m.check1 (m.obj i).handle t k 3
      if m.isPoisoned k then m.writeError p.h.src St.poisoned else m.storeTile i t (p.h.offset % 2048) p.pl
    | none => m

theorem write_eq {m : Module} {p : Pkt} (h : Performs m p 1 ∨ Performs m p 0x15) (c : EccIn)
    (hf : ((m.taken p).written p c).net = (m.taken p).net) : write p c m = (m.taken p).written p c := by
  have hh : ((m.taken p).written p c).net.handed = m.net.handed.erase p := by rw [hf]; rfl
  obtain h | h := h
  · have ht : ¬ (p.h.type == 0x15) = true := by simp [h.2.1]
    exact (if_neg ht).trans (Module.perform_eq (f := fun n => n.written p c) h hh)
  · have ht : (p.h.type == 0x15) = true := by simp [h.2.1]
    exact (if_pos ht).trans (Module.perform_eq (f := fun n => n.written p c) h hh)

theorem Module.destStatus_ok {m : Module} {p : Pkt} (h : m.destStatus p = St.ok) :
    formStatus p = St.ok ∧ m.placeStatus p.h.offset p.h.part (p.h.type != 2) = St.ok := by
  unfold Module.destStatus at h
  by_cases hf : formStatus p = St.ok
  · simp only [hf, bne_self_eq_false, Bool.false_eq_true, if_false] at h
    exact ⟨hf, h⟩
  · rw [if_pos (by simpa using hf)] at h
    exact absurd h hf

/-- An accepted WRITE or ATOMIC lies within one tile (R113). -/
theorem inTile_of_destStatus {m : Module} {p : Pkt} (ht : p.h.type ≠ 2) (h : m.destStatus p = St.ok) :
    p.h.offset % 2048 + p.h.len ≤ 2048 := by
  obtain ⟨hf, -⟩ := Module.destStatus_ok h
  have hr : ¬ (p.h.type == 2) = true := by simpa using ht
  by_contra hlong
  unfold formStatus at hf
  dsimp only at hf
  rw [if_neg hr] at hf
  split_ifs at hf with hg hbad
  · exact absurd hf (by decide)
  · exact absurd hf (by decide)
  · simp at hbad
    omega

theorem Module.written_refused {m : Module} {p : Pkt} (c : EccIn) (ht : p.h.type ≠ 2) (h : m.destStatus p ≠ St.ok) :
    m.written p c = (m.strike c).writeError p.h.src (m.destStatus p) := by
  have he : (m.strike c).destStatus p = m.destStatus p := (m.struck_strike c).destStatus ht
  unfold Module.written
  dsimp only
  rw [he, if_pos (by simpa using h)]

section
variable {m : Module} {p : Pkt} {i t : Nat} (ht : p.h.type ≠ 2) (h : m.destStatus p = St.ok)
  (hl : m.store.locate p.h.offset = some (i, t))
include ht h hl

/-- The tile that an accepted WRITE names is not poisoned (R113). -/
theorem Module.isPoisoned_of_destStatus : m.isPoisoned (m.present (m.obj i) t) = false := by
  have hw : (p.h.type != 2) = true := by simpa using ht
  obtain ⟨-, hp⟩ := Module.destStatus_ok h
  rw [hw] at hp
  unfold Module.placeStatus at hp
  by_contra hk
  rw [Bool.not_eq_false] at hk
  simp only [hl, hk, Bool.true_or, if_true] at hp
  split_ifs at hp <;> exact absurd hp (by decide)

/-- An accepted WRITE checks its tile where it is merged, and is stored where the check does not poison the tile (R326). -/
theorem Module.written_accepted (c : EccIn) : m.written p c =
    let n := if p.pl.length == 2048 then m.strike c else
      (m.strike c).check1 ((m.strike c).obj i).handle t (m.present (m.obj i) t) 3
    if n.isPoisoned (m.present (m.obj i) t) then n.writeError p.h.src St.poisoned
    else n.storeTile i t (p.h.offset % 2048) p.pl := by
  have hs := m.struck_strike c
  have he : (m.strike c).destStatus p = St.ok := (hs.destStatus ht).trans h
  have hlk : (m.strike c).store.locate p.h.offset = some (i, t) := by
    obtain ⟨_, _, _, e⟩ := hs
    rw [e]
    exact hl
  have hk : (m.strike c).present ((m.strike c).obj i) t = m.present (m.obj i) t := by
    obtain ⟨_, _, _, e⟩ := hs
    rw [e]
    rfl
  unfold Module.written
  dsimp only
  rw [he, if_neg (by decide), hlk]
  dsimp only
  rw [hk]

/-- An accepted WRITE that replaces its tile, or finds no error in it that ECC does not correct, stores its bytes (R111). -/
theorem Module.written_stored {c : EccIn} (hlen : p.pl.length = p.h.len)
    (hs : p.pl.length = 2048 ∨ Sound m c (m.present (m.obj i) t)) :
    m.TileStored (m.written p c) i t (p.h.offset % 2048) p.pl := by
  have hn : m.Struck (if p.pl.length == 2048 then m.strike c else
      (m.strike c).check1 ((m.strike c).obj i).handle t (m.present (m.obj i) t) 3) := by
    by_cases hw : p.pl.length = 2048
    · rw [if_pos (by simpa using hw)]
      exact m.struck_strike c
    · rw [if_neg (by simpa using hw)]
      exact (m.struck_strike c).trans (Module.struck_check1 (hs.resolve_left hw) _ _ _)
  have hk := (hn.isPoisoned _).trans (Module.isPoisoned_of_destStatus ht h hl)
  rw [Module.written_accepted ht h hl c]
  dsimp only
  rw [hk, if_neg (by decide)]
  exact .of_struck hn (Module.tileStored_storeTile _ i t (by rw [hlen]; exact inTile_of_destStatus ht h))

/-- A WRITE merged into a tile in which the check finds more than ECC corrects stores nothing: the tile is poisoned, and the
record of its source says so (R326). -/
theorem Module.written_poisoned {c : EccIn} (hlen : p.pl.length ≠ 2048) (hs : ¬ Sound m c (m.present (m.obj i) t)) :
    ∃ n : Module, m.written p c = n.writeError p.h.src St.poisoned ∧ n.mem = m.mem ∧ n.net = m.net ∧ n.store.objs = m.store.objs ∧
      n.store.werr = m.store.werr ∧ n.isPoisoned (m.present (m.obj i) t) = true := by
  have hm := m.struck_strike c
  have hk := (hm.isPoisoned _).trans (Module.isPoisoned_of_destStatus ht h hl)
  obtain ⟨hmem, hstore, hnet⟩ := Module.check1_unsound hs hk ((m.strike c).obj i).handle t 3
  have hpois : ((m.strike c).check1 ((m.strike c).obj i).handle t (m.present (m.obj i) t) 3).isPoisoned
      (m.present (m.obj i) t) = true := by
    rw [Module.isPoisoned, hstore]
    exact Tab.get_put_same _ _ _
  refine ⟨_, ?_, hmem.trans hm.mem, hnet.trans hm.net, ?_, ?_, hpois⟩
  · have hw : ¬ (p.pl.length == 2048) = true := by simpa using hlen
    rw [Module.written_accepted ht h hl c, if_neg hw]
    exact if_pos hpois
  · obtain ⟨_, _, _, e⟩ := hm
    rw [hstore, e]
  · obtain ⟨_, _, _, e⟩ := hm
    rw [hstore, e]

end

/-- What has befallen the memory does not depend on the packets that wait. -/
theorem Module.strike_taken (m : Module) (p : Pkt) (c : EccIn) : (m.taken p).strike c = (m.strike c).taken p := by
  have hcells : (m.taken p).strikeCells c.cells = (m.strikeCells c.cells).taken p :=
    List.foldl_hom (fun m : Module => m.taken p) fun _ _ => rfl
  unfold Module.strike
  rw [hcells]
  refine List.foldl_hom (fun m : Module => m.taken p) fun n x => ?_
  dsimp only
  split <;> rfl

end Sys2Proof.Machine

namespace Sys2Proof.Proofs
open Sys2Proof.Machine Sys2Proof.Claims

/-- Settles O25: a performed WRITE is its effect alone, which is a refusal, a poisoned tile, or a tile stored; what each leaves
of memory is known. -/
theorem writesStoreTheirBytes : Obligations.WritesStoreTheirBytes := by
  unfold Obligations.WritesStoreTheirBytes
  intro s p c i t hperf
  have ht : p.h.type ≠ 2 := by
    obtain ⟨-, e, -⟩ | ⟨-, e, -⟩ := hperf <;> rw [e] <;> decide
  have hsound : ∀ k, Sound (s.m.taken p) c k ↔ Sound s.m c k := fun k => by
    rw [Sound, Module.strike_taken]
    rfl
  refine ⟨fun h hl hlen hs => ?_, fun h => ?_, fun h hl hlen hbad => ?_⟩
  · have hw := Module.written_stored (m := s.m.taken p) ht h hl hlen (hs.imp_right (hsound _).mpr)
    refine completes_withM (write p c) rfl ?_
    rw [write_eq hperf c hw.net]
    obtain ⟨hpresent, hdirty, hmerged, hrest, -⟩ := hw
    exact ⟨hpresent, hdirty, hmerged, hrest⟩
  · have e := Module.written_refused (m := s.m.taken p) c ht h
    obtain ⟨_, _, _, e'⟩ := (s.m.taken p).struck_strike c
    refine completes_withM (write p c) rfl ?_
    rw [write_eq hperf c (by rw [e, e']; rfl), e, e']
    refine ⟨rfl, rfl, (Tab.get_put_same _ _ _).trans ?_⟩
    simp only [beq_iff_eq]
    rfl
  · obtain ⟨n, e, hmem, hnet, hobjs, hwerr, hk⟩ :=
      Module.written_poisoned (m := s.m.taken p) ht h hl hlen (mt (hsound _).mp hbad)
    refine completes_withM (write p c) rfl ?_
    rw [write_eq hperf c (by rw [e]; exact hnet), e]
    refine ⟨hmem, hobjs, hk, ?_⟩
    have hrec : ((n.writeError p.h.src St.poisoned).store.werr.get p.h.src).2 = min ((n.store.werr.get p.h.src).2 + 1) 65535 :=
      congrArg Prod.snd (Tab.get_put_same _ _ _)
    rw [hrec, hwerr]
    rfl

end Sys2Proof.Proofs
end

section
/-!
Packets queued for a link that is DOWN, and heads that enter Calm (R97, R123, R158 to R161, R172, R238, R264).
-/
namespace Sys2Proof
open Sys2Proof.Machine

/-! ### Header fields of a packet that enters Calm (R85, R93) -/

section
variable (h : Hdr) (v : Nat)

theorem Hdr.setVc_vc : (h.setVc v).vc = v % 8 := by
  simp only [Hdr.vc, Hdr.setVc, wbits, wset, bits, setBits, BitVec.toNat_ofNat]
  omega

theorem Hdr.setVc_dest : (h.setVc v).dest = h.dest := by
  simp only [Hdr.dest, Hdr.setVc, wbits, wset, bits, setBits, BitVec.toNat_ofNat]
  omega

theorem Hdr.setMode_vc : (h.setMode v).vc = h.vc := by
  simp only [Hdr.vc, Hdr.setMode, wbits, wset, bits, setBits, BitVec.toNat_ofNat]
  omega

theorem Hdr.setMode_mode : (h.setMode v).mode = v % 4 := by
  simp only [Hdr.mode, Hdr.setMode, wbits, wset, bits, setBits, BitVec.toNat_ofNat]
  omega

/-- The header of a packet that enters Calm is on VC0. -/
theorem Hdr.inCalm_vc : ((h.setVc 0).setMode 3).vc = 0 := by rw [Hdr.setMode_vc, Hdr.setVc_vc]

theorem Hdr.inCalm_mode : ((h.setVc 0).setMode 3).mode = 3 := by rw [Hdr.setMode_mode]

theorem Hdr.inCalm_dest : ((h.setVc 0).setMode 3).dest = h.dest := by rw [Hdr.setMode_dest, Hdr.setVc_dest]

end

/-- The VC, the mode and the destination stand in the first word. -/
structure Hdr.SameStart (a b : Hdr) : Prop where
  w0 : b.w0 = a.w0

theorem Hdr.SameStart.refl (h : Hdr) : h.SameStart h := ⟨rfl⟩

theorem Hdr.sameStart_setHop (h : Hdr) (v : Nat) : h.SameStart (h.setHop v) := ⟨by rw [Hdr.setHop]⟩

theorem Hdr.sameStart_sealed (h : Hdr) : h.SameStart h.sealed := ⟨rfl⟩

section
variable {a b : Hdr} (h : a.SameStart b)
include h

theorem Hdr.SameStart.vc : b.vc = a.vc := by rw [Hdr.vc, h.w0, Hdr.vc]
theorem Hdr.SameStart.mode : b.mode = a.mode := by rw [Hdr.mode, h.w0, Hdr.mode]
theorem Hdr.SameStart.dest : b.dest = a.dest := by rw [Hdr.dest, h.w0, Hdr.dest]

end

/-- The header that a copy leaves with: HOP_COUNT raised (R94) except in Directed mode. -/
def Hdr.raised (h : Hdr) : Hdr := if h.mode == 2 then h else h.setHop (h.hop + 1)

theorem Hdr.sameStart_raised (h : Hdr) : h.SameStart h.raised := by
  unfold Hdr.raised
  split
  · exact .refl h
  · exact h.sameStart_setHop _

/-- A packet as it enters Calm at its local target's queue. -/
def Pkt.calmed (k : Pkt) : Pkt := { k with h := ((k.h.setVc 0).setMode 3).sealed, vcIn := some k.h.vc }

section
variable (k : Pkt)

theorem Pkt.calmed_pl : k.calmed.pl = k.pl := by rw [Pkt.calmed]
theorem Pkt.calmed_vcIn : k.calmed.vcIn = some k.h.vc := by rw [Pkt.calmed]
theorem Pkt.calmed_vc : k.calmed.h.vc = 0 := by rw [Pkt.calmed, (Hdr.sameStart_sealed _).vc, Hdr.inCalm_vc]
theorem Pkt.calmed_mode : k.calmed.h.mode = 3 := by rw [Pkt.calmed, (Hdr.sameStart_sealed _).mode, Hdr.inCalm_mode]

end

end Sys2Proof

namespace Sys2Proof.Machine
open Sys2Proof.Claims

/-! ### A copy dropped (R174) -/

/-- A copy dropped is gone from its packet. -/
theorem Module.bp_dropCopy {m : Module} {id : Nat} {b : BPkt} (h : m.bp id = some b) (c : Copy) :
    (m.dropCopy id c).bp id = some { b with copies := b.copies.filter fun x => x != c } := by
  have hp : ((m.unqueue id (qKey c.port c.vc c.fq)).closeTurn c.port).net.pkts = m.net.pkts := by
    unfold Module.closeTurn
    dsimp only
    split <;> exact (m.unqueue_net _ _).2
  refine Module.bp_updBp_same (fun _ => by rfl) ?_
  rw [Module.bp, hp]
  exact h

/-- A descriptor dropped is gone from its queue. -/
theorem Module.queues_dropCopy (m : Module) (id : Nat) (c : Copy) : (m.dropCopy id c).net.queues =
    m.net.queues.put (qKey c.port c.vc c.fq) ((m.net.queues.get (qKey c.port c.vc c.fq)).erase id) := by
  unfold Module.dropCopy Module.closeTurn
  dsimp only
  split <;> exact (m.unqueue_net _ _).1

/-- What a dropped copy leaves: the registers, the routes, the keep file and the links. -/
structure Module.Routed (a b : Module) : Prop where
  regs : b.regs = a.regs
  route : b.net.route = a.net.route
  keep : b.keep = a.keep
  link : ∀ q, b.link q = a.link q

theorem Module.Routed.refl (a : Module) : a.Routed a := ⟨rfl, rfl, rfl, fun _ => rfl⟩

theorem Module.Routed.trans {a b c : Module} (h : a.Routed b) (h' : b.Routed c) : a.Routed c :=
  ⟨h'.regs.trans h.regs, h'.route.trans h.route, h'.keep.trans h.keep, fun q => (h'.link q).trans (h.link q)⟩

theorem Module.routed_newHead (m : Module) (k : Nat) : m.Routed (m.newHead k) := by
  unfold Module.newHead
  dsimp only
  split
  · exact ⟨rfl, rfl, rfl, fun _ => rfl⟩
  · split
    · exact ⟨rfl, rfl, rfl, fun _ => rfl⟩
    · exact ⟨rfl, rfl, rfl, fun q => by rw [Module.link_setSched]; rfl⟩

theorem Module.routed_dropCopy (m : Module) (id : Nat) (c : Copy) : m.Routed (m.dropCopy id c) := by
  have hu : m.Routed (m.unqueue id (qKey c.port c.vc c.fq)) := by
    unfold Module.unqueue
    dsimp only
    split
    · refine .trans ?_ (Module.routed_newHead _ _)
      exact ⟨rfl, rfl, rfl, fun _ => rfl⟩
    · exact ⟨rfl, rfl, rfl, fun _ => rfl⟩
  refine hu.trans ?_
  unfold Module.dropCopy Module.closeTurn
  dsimp only
  split
  · exact ⟨rfl, rfl, rfl, fun q => (Module.link_setSched _ _ q _)⟩
  · exact ⟨rfl, rfl, rfl, fun _ => rfl⟩

section
variable {a b : Module} (h : a.Routed b)
include h

theorem Module.Routed.reg (blk off lo : Nat) : b.reg blk off lo = a.reg blk off lo := by simp only [Module.reg, h.regs]
theorem Module.Routed.lossless (d v : Nat) : b.lossless d v = a.lossless d v := by simp only [Module.lossless, h.reg]

end

/-! ### Packets without a copy discarded -/

@[simp] theorem Module.bp_count (m : Module) (blk off n id : Nat) : (m.count blk off n).bp id = m.bp id := by
  simp only [Module.bp, Module.count_net]

@[simp] theorem Module.bp_pass (m : Module) (t id : Nat) : (m.pass t).bp id = m.bp id := rfl

/-- A record made leaves every packet but for its having its record. -/
theorem Module.bp_record {m : Module} {id : Nat} {x : BPkt} (h : m.bp id = some x) (b : BPkt) (r : WsRec) :
    ∃ y, (m.record b r).bp id = some { x with captured := y } := by
  unfold Module.record
  dsimp only
  split
  · exact ⟨x.captured, h⟩
  · rw [Module.bp_updBp _ _ _ fun _ => by rfl, Module.bp, (m.captured_capture _ _).net]
    rw [Module.bp] at h
    rw [h, Option.map_some]
    split
    · exact ⟨true, rfl⟩
    · exact ⟨x.captured, rfl⟩

theorem Module.discardIfNone_free {m : Module} {id : Nat} {b : BPkt} (h : m.bp id = some b) (hc : b.copies = [])
    (hh : b.here = false) (hm : b.mcast = false) (hp : b.parked = false) : m.discardIfNone id = m.freeBp id := by
  unfold Module.discardIfNone
  rw [h]
  dsimp only
  rw [if_pos (by simp [hc, hh, hm, hp])]

theorem Module.discardIfNone_copies {m : Module} {id : Nat} {b : BPkt} (h : m.bp id = some b) (hc : b.copies ≠ []) :
    m.discardIfNone id = m := by
  unfold Module.discardIfNone
  rw [h]
  dsimp only
  rw [if_neg (by simp [hc])]

/-- A packet with one copy and no other use. -/
structure BPkt.Single (b : BPkt) (c : Copy) : Prop where
  copies : b.copies = [c]
  here : b.here = false
  parked : b.parked = false
  mcast : b.mcast = false

/-- The packet of a single copy, once that is dropped. -/
theorem Module.bp_dropCopy_single {m : Module} {id : Nat} {b : BPkt} {c : Copy} (h : m.bp id = some b) (hs : b.Single c) :
    (m.dropCopy id c).bp id = some { b with copies := [] } := by
  rw [Module.bp_dropCopy h c, hs.copies]
  simp

/-! ### Descriptors queued for a link that is DOWN (R97, R172, R238, R264) -/

/-- A copy that has no other port to go to: of a Directed packet, for a local member, or of a multicast packet. -/
def Copy.Bound (c : Copy) : Prop := c.h.mode = 2 ∨ c.fixed = true ∨ (c.h.type = 0x15 ∧ c.vc ≠ 0)

/-- A copy that has no other port is dropped and counted. -/
theorem Module.redecide_bound (m : Module) (b : BPkt) {c : Copy} (h : c.Bound) :
    ∃ blk off, m.redecide b c = ((m.dropCopy b.id c).count blk off).discardIfNone b.id := by
  unfold Module.redecide
  dsimp only
  by_cases hmode : c.h.mode = 2
  · exact ⟨_, _, by rw [if_pos (by simpa using hmode)]⟩
  by_cases hfixed : c.fixed = true
  · exact ⟨_, _, by rw [if_neg (by simpa using hmode), if_pos hfixed]⟩
  · obtain ⟨htype, hvc⟩ := (h.resolve_left hmode).resolve_left hfixed
    exact ⟨_, _, by rw [if_neg (by simpa using hmode), if_neg hfixed, if_pos (by simp [htype, hvc])]⟩

/-- A packet whose one copy is dropped so is freed, and its descriptor has left its queue. -/
theorem Module.redecide_bound_single {m : Module} {b : BPkt} {c : Copy} (h : m.bp b.id = some b) (hs : b.Single c)
    (hc : c.Bound) : (m.redecide b c).bp b.id = none ∧ (m.redecide b c).net.queues =
      m.net.queues.put (qKey c.port c.vc c.fq) ((m.net.queues.get (qKey c.port c.vc c.fq)).erase b.id) := by
  obtain ⟨blk, off, e⟩ := m.redecide_bound b hc
  have hb : ((m.dropCopy b.id c).count blk off).bp b.id = some { b with copies := [] } := by
    rw [Module.bp_count, Module.bp_dropCopy_single h hs]
  rw [e, Module.discardIfNone_free hb rfl hs.here hs.mcast hs.parked]
  refine ⟨Module.bp_freeBp_self _ _, ?_⟩
  rw [Module.queues_freeBp, Module.count_net, Module.queues_dropCopy]

/-- The one descriptor queued for a port, if it is due, is decided again. -/
theorem rerouteQueued_single {m : Module} {p k id : Nat} {b : BPkt} {c : Copy} (hp : p < 256) (hdue : c.due = true)
    (hport : c.port = p) (hbegun : c.begun = false) (hcopies : b.copies = [c]) (hb : m.bp id = some b)
    (hq : (m.net.queues.cells.filter fun x => qPort x.1 == p) = [(k, [id])]) :
    rerouteQueued p m = (m.count (swBlk b.die 5) 0x230).redecide b c := by
  have hon : m.queuedOn p = [id] := by
    unfold Module.queuedOn
    rw [hq]
    rfl
  have hf : (b.copies.filter fun c => c.port == p && !c.begun && c.due) = [c] := by simp [hcopies, hport, hbegun, hdue]
  unfold rerouteQueued Module.redecideOn
  rw [if_pos hp, hon, List.foldl_cons, List.foldl_nil, hb]
  dsimp only
  rw [hf]
  rfl

/-- The queue of a key that is the only one listed for its port. -/
theorem queue_of_filter {t : Tab (List Nat)} {p k : Nat} {l : List Nat}
    (h : (t.cells.filter fun x => qPort x.1 == p) = [(k, l)]) : t.get k = l := by
  have hk : qPort k = p := by
    have hm : (k, l) ∈ t.cells.filter fun x => qPort x.1 == p := h ▸ List.mem_singleton_self _
    simpa using (List.mem_filter.mp hm).2
  rw [Tab.get, ← Memory.lookupCell_filter default (fun j => qPort j == p) (by simpa using hk) t.cells, h]
  simp [lookupCell]

/-! ### A head that enters Calm (R158 to R160) -/

/-- The head of a queue waits past the threshold. -/
def Module.calmWaited (m : Module) (q : Nat) : Module :=
  m.pass ((m.net.heads.get q).since + (m.calmThresh (qPort q / 32) + 1 - (m.net.heads.get q).waited))

/-- A stalled head moves once its wait has passed the threshold. -/
theorem calmEntry_head {m : Module} {q : Nat} {b : BPkt} {c : Copy} (hm : m.pwr.main = true) (hst : m.pwr.st ≠ 4)
    (hq : q < 131072) (hh : m.headOf q = some (b, c)) (hs : (m.net.heads.get q).suspended = false)
    (hc : m.mayCalm (qPort q / 32) c.vc c.h.mode = true) :
    calmEntry q m = (m.calmWaited q).calmMove (qPort q / 32) b c := by
  unfold calmEntry
  rw [if_neg (by simp [Module.linksOn, hm, hst]), if_pos hq, hh]
  dsimp only
  rw [if_neg (by simp [hs, hc])]
  rfl

/-- A packet without a copy or another use is freed once it is recorded. -/
theorem Module.bp_settle_dropRecord {m : Module} {id : Nat} {b : BPkt} {c : Copy} (h : m.bp id = some { b with copies := [] })
    (hs : b.Single c) (hw : b.whole = true) (x : BPkt) (step p v kind q : Nat) :
    ((m.dropRecord x step p v kind q).settle id).bp id = none := by
  unfold Module.dropRecord
  obtain ⟨y, hy⟩ := Module.bp_record h x
    { outPort := p, outVc := v, outKind := kind, reason := x.why + 4 * m.wsBit x.die 2, step := step, depth := q }
  exact Module.bp_settle_free hy rfl hs.here hs.parked hs.mcast hw

/-- On a lossy VC the copy is dropped, counted and recorded, and its packet settles. -/
theorem Module.calmMove_lossy {m : Module} {d : Nat} {b : BPkt} {c : Copy} (hl : m.lossless d c.vc = false) :
    m.calmMove d b c =
      (((m.dropCopy b.id c).count (swBlk d 6) 0xE08).dropRecord b 0 c.port c.vc 0 c.q).settle b.id := by
  have hl' : (!(m.dropCopy b.id c).lossless d c.vc) = true := by rw [(m.routed_dropCopy b.id c).lossless, hl]; rfl
  exact if_pos hl'

/-- On a lossy VC a stalled packet of one copy leaves the buffer. -/
theorem Module.bp_calmMove_lossy {m : Module} {d : Nat} {b : BPkt} {c : Copy} (hl : m.lossless d c.vc = false)
    (hb : m.bp b.id = some b) (hs : b.Single c) (hw : b.whole = true) : (m.calmMove d b c).bp b.id = none := by
  rw [Module.calmMove_lossy hl]
  exact Module.bp_settle_dropRecord (by rw [Module.bp_count, Module.bp_dropCopy_single hb hs]) hs hw _ _ _ _ _ _

/-- The header of a copy that goes back to its lookup: HOP_COUNT as before it was queued (R94). -/
def Copy.before (c : Copy) : Hdr := if c.h.hop == 0 then c.h else c.h.setHop (c.h.hop - 1)

theorem Copy.sameStart_before (c : Copy) : c.h.SameStart c.before := by
  unfold Copy.before
  split
  · exact .refl _
  · exact c.h.sameStart_setHop _

/-- On a lossless VC a copy whose port is not fixed is decided by the Calm path, without an input port. -/
theorem Module.calmMove_lossless {m n : Module} {d : Nat} {b : BPkt} {c : Copy} {x : Dec} (hl : m.lossless d c.vc = true)
    (hf : c.fixed = false) (ht : c.h.type ≠ 0x15)
    (he : ((m.dropCopy b.id c).count (swBlk d 6) 0xE00).calmEgress d c.before none false = (n, x)) :
    m.calmMove d b c = (n.apply b.id b.die 4 x).discardIfNone b.id := by
  have hl' : ¬ (!(m.dropCopy b.id c).lossless d c.vc) = true := by
    rw [(m.routed_dropCopy b.id c).lossless, hl]
    exact Bool.false_ne_true
  have ht' : (c.h.type == 0x15) = false := by simpa using ht
  have hf' : ¬ c.fixed = true := by simp [hf]
  unfold Copy.before at he
  unfold Module.calmMove
  refine (if_neg hl').trans ((if_neg hf').trans ?_)
  rw [ht']
  refine (if_neg Bool.false_ne_true).trans ?_
  rw [if_neg Bool.false_ne_true]
  generalize (if (c.h.hop == 0) = true then c.h else c.h.setHop (c.h.hop - 1)) = h at he ⊢
  extract_lets
  split
  next e =>
    obtain ⟨rfl, rfl⟩ := Prod.mk.inj (e.symm.trans he)
    rfl

/-- The Calm port of another chip is on the tree and ACTIVE. -/
structure Module.CalmOpen (m : Module) (chip : Nat) : Prop where
  other : m.isOwn chip = false
  valid : reCalmValid (m.routeEntry chip) = true
  dir : m.calmDir (reCalm (m.routeEntry chip)) ≠ 0
  active : m.active (reCalm (m.routeEntry chip)) = true

/-- A packet enters Calm on the Calm port of its destination. -/
theorem Module.calmEgress_port {m : Module} {h : Hdr} (d : Nat) (ho : m.CalmOpen h.dest) :
    m.calmEgress d h none false = (m, .port (reCalm (m.routeEntry h.dest)) 0 ((h.setVc 0).setMode 3)) := by
  unfold Module.calmEgress
  simp only [Hdr.inCalm_dest, ho.other, ho.valid, ho.active]
  simp [ho.dir]

/-- A descriptor joins its packet's copies. -/
theorem Module.bp_enqueue {m : Module} {id : Nat} {b : BPkt} (h : m.bp id = some b) (c : Copy) :
    (m.enqueue id c).bp id = some { b with copies := b.copies ++ [c] } := by
  have hp : (m.enqueue id c).net.pkts = (m.updBp id fun b => { b with copies := b.copies ++ [c] }).net.pkts := by
    unfold Module.enqueue
    dsimp only
    split
    · exact (Module.newHead_net _ _).2
    · rfl
  rw [Module.bp, hp]
  exact Module.bp_updBp_same (fun _ => by rfl) h

theorem Module.bp_passRecord {m : Module} {id : Nat} {x : BPkt} (h : m.bp id = some x) (b : BPkt) (p v kind q : Nat) :
    ∃ y, (m.passRecord b p v kind q).bp id = some { x with captured := y } := by
  unfold Module.passRecord
  split
  · exact ⟨x.captured, h⟩
  · exact Module.bp_record h b _

/-- The copy that joins the queue of VC0 or VC1, where early detection has no say. -/
def Module.strictCopy (m : Module) (p v : Nat) (h : Hdr) : Copy :=
  { port := p, vc := v, fq := m.flowOf p v h.raised.part, h := h.raised.sealed, q := m.depth p v }

theorem Module.sameStart_strictCopy (m : Module) (p v : Nat) (h : Hdr) : h.SameStart (m.strictCopy p v h).h :=
  ⟨(Hdr.sameStart_sealed _).w0.trans h.sameStart_raised.w0⟩

theorem Module.putCopy_strict {m : Module} {id : Nat} {b : BPkt} (hb : m.bp id = some b) (d g p v : Nat) (hv : v < 2)
    (h : Hdr) : m.putCopy id d g p v h none =
      (m.enqueue id (m.strictCopy p v h)).passRecord b p v 0 (m.depth p v) := by
  have hd : m.detect d g p v b.cells h = (m, some h, m.depth p v, 0) := if_pos hv
  have hv' : ¬ (2 ≤ v) := by omega
  have ha : m.averaged p v (m.depth p v) = m := if_pos hv
  unfold Module.putCopy Module.strictCopy Hdr.raised
  rw [hb]
  dsimp only
  rw [hd]
  simp only [hv', decide_false, Bool.false_and, if_false, Bool.false_eq_true, ha]

/-- A packet put on VC0 or VC1 of a port has a copy there. -/
theorem Module.bp_putCopy_strict {m : Module} {id : Nat} {b : BPkt} (hb : m.bp id = some b) (d g p v : Nat) (hv : v < 2)
    (h : Hdr) : ∃ y, (m.putCopy id d g p v h none).bp id =
      some { b with copies := b.copies ++ [m.strictCopy p v h], captured := y } := by
  rw [Module.putCopy_strict hb d g p v hv]
  exact Module.bp_passRecord (Module.bp_enqueue hb _) b p v 0 _

theorem Module.calmDir_count (m : Module) (d p : Nat) : (m.count (swBlk d 6) 0xE00).calmDir p = m.calmDir p := by
  unfold Module.calmDir
  dsimp only
  rw [Module.reg_count_other m (by decide) (by unfold swBlk; omega) (by split <;> decide) (by decide)]

/-- What is dropped and counted leaves the Calm port as it was. -/
theorem Module.CalmOpen.dropped {m : Module} {chip : Nat} (h : m.CalmOpen chip) (id d : Nat) (c : Copy) :
    ((m.dropCopy id c).count (swBlk d 6) 0xE00).CalmOpen chip := by
  have hr := m.routed_dropCopy id c
  have hroute : ((m.dropCopy id c).count (swBlk d 6) 0xE00).routeEntry chip = m.routeEntry chip := by
    rw [Module.routeEntry, Module.count_net, hr.route, Module.routeEntry]
  refine ⟨?_, ?_, ?_, ?_⟩
  · rw [Module.isOwn, Module.chip, Module.count_keep, hr.keep]
    exact h.other
  · rw [hroute]
    exact h.valid
  · rw [hroute, Module.calmDir_count, Module.calmDir, hr.reg]
    exact h.dir
  · rw [hroute, Module.active, Module.link_count, hr.link]
    exact h.active

/-- On a lossless VC a copy goes to VC0 of the Calm port of its destination. -/
theorem Module.calmMove_enters {m : Module} {d : Nat} {b : BPkt} {c : Copy} (hl : m.lossless d c.vc = true)
    (hf : c.fixed = false) (ht : c.h.type ≠ 0x15) (ho : m.CalmOpen c.h.dest) : m.calmMove d b c =
      (((m.dropCopy b.id c).count (swBlk d 6) 0xE00).putCopy b.id b.die 4 (reCalm (m.routeEntry c.h.dest)) 0
        ((c.before.setVc 0).setMode 3) none).discardIfNone b.id := by
  have hdest : c.before.dest = c.h.dest := c.sameStart_before.dest
  have hroute : ((m.dropCopy b.id c).count (swBlk d 6) 0xE00).routeEntry c.before.dest = m.routeEntry c.h.dest := by
    rw [hdest, Module.routeEntry, Module.count_net, (m.routed_dropCopy b.id c).route, Module.routeEntry]
  refine (Module.calmMove_lossless hl hf ht (Module.calmEgress_port d ?_)).trans (by rw [hroute, Module.apply])
  rw [hdest]
  exact ho.dropped b.id d c

/-- The copy of a packet in Calm: on VC0 of a port, in Calm mode, not yet begun. -/
structure Copy.Calm (c : Copy) (p : Nat) : Prop where
  port : c.port = p
  vc : c.vc = 0
  mode : c.h.mode = 3
  hvc : c.h.vc = 0
  begun : c.begun = false

theorem Module.calm_strictCopy (m : Module) (p : Nat) (h : Hdr) : (m.strictCopy p 0 ((h.setVc 0).setMode 3)).Calm p where
  port := rfl
  vc := rfl
  mode := (m.sameStart_strictCopy p 0 _).mode.trans h.inCalm_mode
  hvc := (m.sameStart_strictCopy p 0 _).vc.trans h.inCalm_vc
  begun := rfl

/-- The packet of a copy that enters Calm has its copy in Calm. -/
theorem Module.bp_calmMove_enters {m : Module} {d : Nat} {b : BPkt} {c : Copy} (hb : m.bp b.id = some b)
    (hl : m.lossless d c.vc = true) (hf : c.fixed = false) (ht : c.h.type ≠ 0x15) (ho : m.CalmOpen c.h.dest) :
    ∃ b', (m.calmMove d b c).bp b.id = some b' ∧ ∃ c' ∈ b'.copies, c'.Calm (reCalm (m.routeEntry c.h.dest)) := by
  have hb' := (Module.bp_count _ (swBlk d 6) 0xE00 1 b.id).trans (Module.bp_dropCopy hb c)
  obtain ⟨y, hy⟩ := Module.bp_putCopy_strict hb' b.die 4 (reCalm (m.routeEntry c.h.dest)) 0 (by decide)
    ((c.before.setVc 0).setMode 3)
  rw [Module.calmMove_enters hl hf ht ho, Module.discardIfNone_copies hy (by simp)]
  exact ⟨_, hy, _, List.mem_append_right _ (List.mem_singleton_self _), Module.calm_strictCopy _ _ _⟩

/-! ### A packet on hold (R160) -/

/-- The one packet in a port's VC0 queue, if it is on hold, is discarded once its hold has lasted CALM_HOLD_MS. -/
theorem calmHoldExpiry_single {m : Module} {p id t : Nat} {b : BPkt} {c : Copy} (hp : p < 256) (hm : m.pwr.main = true)
    (hst : m.pwr.st ≠ 4) (ha : m.active p = false) (hq : m.net.queues.get (qKey p 0 0) = [id]) (hb : m.bp id = some b)
    (hcopies : b.copies = [c]) (hport : c.port = p) (hvc : c.vc = 0) (hhold : c.hold = some t) : calmHoldExpiry p m =
      ((((m.pass (t + ms (m.reg (swBlk (p / 32) 6) 0xD08 0))).dropCopy b.id c).count (swBlk (p / 32) 6) 0xE18).raise 17
        (swBlk (p / 32) 6) 0).settle b.id := by
  have hfind : (b.copies.find? fun c => c.port == p && c.vc == 0 && c.hold.isSome) = some c := by
    simp [hcopies, hport, hvc, hhold]
  unfold calmHoldExpiry
  rw [Module.onPort_of_linkIn ⟨hp, hm, hst, rfl⟩, ha, if_neg Bool.false_ne_true]
  rw [hq, List.filterMap_cons, List.filterMap_nil, hb]
  extract_lets held
  have hheld : held = [(b, c)] := by simp only [held, hfind, Option.map_some]
  rw [hheld]
  split
  next e => exact nomatch e
  next e =>
    obtain ⟨rfl, rfl⟩ := List.cons.inj e
    split
    next e' =>
      obtain ⟨rfl, rfl⟩ := Prod.mk.inj e'
      rw [hhold]
      rfl

/-- A packet on hold past CALM_HOLD_MS has left the buffer, at the end of that duration. -/
theorem calmHoldExpiry_frees {m : Module} {p id t : Nat} {b : BPkt} {c : Copy} (hp : p < 256) (hm : m.pwr.main = true)
    (hst : m.pwr.st ≠ 4) (ha : m.active p = false) (hq : m.net.queues.get (qKey p 0 0) = [id]) (hb : m.bp id = some b)
    (hs : b.Single c) (hw : b.whole = true) (hport : c.port = p) (hvc : c.vc = 0) (hhold : c.hold = some t) :
    (calmHoldExpiry p m).bp id = none ∧ Waited m (calmHoldExpiry p m) (t + ms (m.reg (swBlk (p / 32) 6) 0xD08 0)) := by
  rw [calmHoldExpiry_single hp hm hst ha hq hb hs.copies hport hvc hhold, Module.bp_id hb]
  generalize t + ms (m.reg (swBlk (p / 32) 6) 0xD08 0) = u
  have hd := (m.pass u).aside_dropCopy id c
  have hc := ((m.pass u).dropCopy id c).aside_count (swBlk (p / 32) 6) 0xE18 1
  have hr : Module.Reported (((m.pass u).dropCopy id c).count (swBlk (p / 32) 6) 0xE18) _ :=
    (Module.Reported.refl _).raise (src := 17) (by decide) (swBlk (p / 32) 6) 0 false
  have hnow := ((hd.trans hc).trans (hr.aside.trans (Module.aside_settle _ id))).now
  refine ⟨?_, hnow.trans (m.now_pass u)⟩
  have hb' : (((m.pass u).dropCopy id c).count (swBlk (p / 32) 6) 0xE18).bp id = some { b with copies := [] } := by
    rw [Module.bp_count]
    exact Module.bp_dropCopy_single ((m.bp_pass u id).trans hb) hs
  refine Module.bp_settle_free (b := { b with copies := [] }) ?_ rfl hs.here hs.parked hs.mcast hw
  rw [Module.bp, hr.net]
  exact hb'

/-! ### A packet that moves to its die's sink (R161) -/

/-- What a packet's leaving leaves of a die: its sink, and of its local queues nothing that was not there. -/
structure Die.Drained (x y : Die) : Prop where
  sink : y.sink = x.sink
  localQ : ∀ i ∈ y.localQ, i ∈ x.localQ

theorem Die.Drained.refl (x : Die) : x.Drained x := ⟨rfl, fun _ h => h⟩

theorem Die.Drained.trans {x y z : Die} (h : x.Drained y) (h' : y.Drained z) : x.Drained z :=
  ⟨h'.sink.trans h.sink, fun i hi => h.localQ i (h'.localQ i hi)⟩

theorem Module.Credited.drained {a b : Module} (h : a.Credited b) (d : Nat) : (a.die d).Drained (b.die d) := by
  obtain ⟨_, _, e⟩ := h.die d
  rw [e]
  exact ⟨rfl, fun _ hi => hi⟩

theorem Module.drained_of_dies {a b : Module} (h : b.dies = a.dies) (d : Nat) : (a.die d).Drained (b.die d) := by
  rw [Module.die_of_dies_eq h d]
  exact .refl _

/-- A die whose cells are freed. -/
theorem Die.drained_free (x : Die) (l : List Nat) : x.Drained (x.free l) := by
  unfold Die.free
  dsimp only
  split <;> exact ⟨rfl, fun _ h => h⟩

theorem Module.drained_cellsFreed (m : Module) (id : Nat) (b : BPkt) (d : Nat) :
    (m.die d).Drained ((m.cellsFreed id b).die d) := by
  unfold Module.cellsFreed
  dsimp only
  by_cases hd : d = b.die
  · subst hd
    rw [Module.die_setDie_same]
    have hf := (m.die b.die).drained_free b.chain
    exact ⟨hf.sink, fun i hi => hf.localQ i (List.mem_of_mem_filter hi)⟩
  · rw [Module.die_setDie_other _ hd]
    exact .refl _

theorem Module.drained_chargeReturned (m : Module) (id : Nat) (b : BPkt) (d : Nat) :
    (m.die d).Drained ((m.chargeReturned id b).die d) := by
  unfold Module.chargeReturned
  split
  · dsimp only
    refine .trans (Module.drained_of_dies ?_ d) ((Module.credited_creditFlush _ _).drained d)
    split <;> rfl
  · exact .refl _

theorem Module.drained_settle (m : Module) (id d : Nat) : (m.die d).Drained ((m.settle id).die d) := by
  unfold Module.settle
  split
  next b hb =>
    split
    · rw [Module.freeBp_some hb]
      exact ((m.drained_cellsFreed id b d).trans (Module.drained_chargeReturned _ id b d)).trans
        ((Module.credited_checkBacked _ _).drained d)
    · exact .refl _
  · exact .refl _

theorem Module.dies_localHeads (m : Module) (d : Nat) : (m.localHeads d).dies = m.dies := by
  unfold Module.localHeads
  refine List.foldlRecOn _ _ (motive := fun n : Module => n.dies = m.dies) rfl fun n h t _ => ?_
  split
  · exact h
  · exact h

/-- The tiles of a slot are written anew. -/
def Module.slotWritten (m : Module) (d s : Nat) (k : Pkt) : Module :=
  (slotTiles d s k).foldl (fun m t => (m.freshTile (resKey t)).countWrite (resKey t)) m

theorem Module.dies_slotWritten (m : Module) (d s : Nat) (k : Pkt) : (m.slotWritten d s k).dies = m.dies := by
  refine List.foldlRecOn _ _ (motive := fun n : Module => n.dies = m.dies) rfl fun n h t _ => ?_
  rw [Module.countWrite, Module.count_dies]
  exact h

/-- The single bits corrected in a packet's cells. -/
theorem Module.drained_correctCells (m : Module) (b : BPkt) (d : Nat) : (m.die d).Drained ((m.correctCells b).die d) := by
  unfold Module.correctCells
  dsimp only
  split
  · exact .refl _
  · rw [Module.die_count]
    by_cases hd : d = b.die
    · subst hd
      rw [Module.die_setDie_same]
      exact ⟨rfl, fun _ h => h⟩
    · rw [Module.die_setDie_other _ hd]
      exact .refl _

/-- A packet in a slot of its die's sink, out of the local queues. -/
def Module.inSlot (m : Module) (id s : Nat) (b : BPkt) : Module :=
  let x := (m.correctCells b).die b.die
  (((m.correctCells b).slotWritten b.die s b.pkt).setDie b.die { x with
    sink := x.sink ++ [(s, b.pkt)], localQ := x.localQ.filter (· != id),
    early := x.early.map fun e => if e == .buf id then .sink s else e }).count (swBlk b.die 6) 0xE20

theorem Module.toSink_slot {m : Module} {id s : Nat} {b : BPkt} (hb : m.bp id = some b) (hs : m.sinkSlot b.die = some s) :
    let n := (((m.inSlot id s b).updBp id fun b => { b with here := false }).settle id).localHeads b.die
    m.toSink id = if n.sinkFull b.die then n.level 18 (swBlk b.die 6) 0 true else n := by
  unfold Module.toSink
  rw [hb]
  dsimp only
  rw [hs]
  rfl

/-- A packet that moves to a slot stands last in its die's sink, and not in a local queue. -/
theorem Module.die_toSink {m : Module} {id s : Nat} {b : BPkt} (hb : m.bp id = some b) (hs : m.sinkSlot b.die = some s) :
    ((m.toSink id).die b.die).sink = (m.die b.die).sink ++ [(s, b.pkt)] ∧ id ∉ ((m.toSink id).die b.die).localQ := by
  have hslot : ((m.inSlot id s b).die b.die).sink = (m.die b.die).sink ++ [(s, b.pkt)] ∧
      id ∉ ((m.inSlot id s b).die b.die).localQ := by
    unfold Module.inSlot
    dsimp only
    rw [Module.die_count, Module.die_setDie_same, (m.drained_correctCells b b.die).sink]
    exact ⟨rfl, by simp⟩
  have hlast (n : Module) : (n.die b.die).Drained ((if n.sinkFull b.die then n.level 18 (swBlk b.die 6) 0 true else n).die b.die) := by
    split
    · exact ((Module.Reported.refl n).level (src := 18) (by decide) _ _ _).credited.drained _
    · exact .refl _
  have hd := ((Module.drained_settle ((m.inSlot id s b).updBp id fun b => { b with here := false }) id b.die).trans
    (Module.drained_of_dies (Module.dies_localHeads _ b.die) b.die)).trans (hlast _)
  rw [Module.toSink_slot hb hs]
  exact ⟨hd.sink.trans hslot.1, fun hi => hslot.2 (hd.localQ id hi)⟩

/-- The lowest free slot of a sink follows from the dies and the store. -/
theorem Module.sinkSlot_of_eq {a b : Module} (hd : b.dies = a.dies) (hs : b.store = a.store) (d : Nat) :
    b.sinkSlot d = a.sinkSlot d := by
  have hdie : b.die = a.die := funext (Module.die_of_dies_eq hd)
  have hring : b.ringOf = a.ringOf := by
    unfold Module.ringOf Module.ringLen
    rw [hdie]
  unfold Module.sinkSlot Module.resGone Module.resExt Module.resUnit
  rw [hdie, hring, hs]

theorem Module.sinkFull_pass (m : Module) (t d : Nat) : (m.pass t).sinkFull d = m.sinkFull d := by
  rw [Module.sinkFull, Module.sinkSlot_of_eq (m.pass_dies t) (m.pass_store t), Module.sinkFull]

/-- A buffered packet as it enters Calm there. -/
def BPkt.calmed (b : BPkt) : BPkt := { b with pkt := b.pkt.calmed }

theorem BPkt.calmed_id (b : BPkt) : b.calmed.id = b.id := by rw [BPkt.calmed]
theorem BPkt.calmed_die (b : BPkt) : b.calmed.die = b.die := by rw [BPkt.calmed]
theorem BPkt.calmed_pkt (b : BPkt) : b.calmed.pkt = b.pkt.calmed := by rw [BPkt.calmed]

section
variable {m : Module} {d i id : Nat} {b : BPkt} (hm : m.pwr.main = true) (hst : m.pwr.st ≠ 4) (hi : i < 65536)
  (hq : (m.die d).localQ[i]? = some id) (hb : m.bp id = some b) (hh : b.headSince ≠ 0) (hw : b.whole = true)
  (hp : b.parked = false) (hc : m.mayCalm d b.pkt.h.vc b.pkt.h.mode = true) (hl : m.lossless d b.pkt.h.vc = true)
  (hf : m.sinkFull d = false)
include hm hst hi hq hb hh hw hp hc hl hf

/-- A packet that waits for a local target past the threshold on a lossless VC moves to its die's sink. -/
theorem calmEntry_local : calmEntry (131072 + 65536 * d + i) m =
      (((m.pass (b.headSince + m.calmThresh d + 1)).updBp id BPkt.calmed).count (swBlk d 6) 0xE00).toSink id := by
  have hd : (131072 + 65536 * d + i - 131072) / 65536 = d := by omega
  have hi' : (131072 + 65536 * d + i - 131072) % 65536 = i := by omega
  unfold calmEntry
  rw [if_neg (by simp [Module.linksOn, hm, hst]), if_neg (by omega)]
  dsimp only
  rw [hd, hi', hq]
  dsimp only
  rw [hb]
  dsimp only
  rw [if_neg (by simp [hh, hw, hp, hc]), if_neg (by simp [hl]), if_neg (by rw [Module.sinkFull_pass, hf]; exact Bool.false_ne_true)]
  rfl

/-- Such a packet stands last in the sink as it entered Calm, and waits no more. -/
theorem calmEntry_toSink (hdie : b.die = d) :
    ∃ s, ((calmEntry (131072 + 65536 * d + i) m).die d).sink = (m.die d).sink ++ [(s, b.pkt.calmed)] ∧
      id ∉ ((calmEntry (131072 + 65536 * d + i) m).die d).localQ := by
  subst hdie
  obtain ⟨s, hs⟩ : ∃ s, m.sinkSlot b.die = some s := by
    simpa [Module.sinkFull, Option.isSome_iff_exists] using hf
  generalize hu : b.headSince + m.calmThresh b.die + 1 = u
  have hbp : (((m.pass u).updBp id BPkt.calmed).count (swBlk b.die 6) 0xE00).bp id = some b.calmed := by
    rw [Module.bp_count]
    exact Module.bp_updBp_same BPkt.calmed_id ((m.bp_pass u id).trans hb)
  have hslot : (((m.pass u).updBp id BPkt.calmed).count (swBlk b.die 6) 0xE00).sinkSlot b.calmed.die = some s := by
    rw [b.calmed_die, Module.sinkSlot_of_eq (Module.count_dies _ _ _ _) (Module.count_store _ _ _ _), ← hs]
    exact Module.sinkSlot_of_eq rfl rfl b.die
  have hsink := Module.die_toSink hbp hslot
  rw [calmEntry_local hm hst hi hq hb hh hw hp hc hl hf, hu]
  rw [b.calmed_die, b.calmed_pkt, Module.die_count] at hsink
  exact ⟨s, hsink⟩

end

end Sys2Proof.Machine

namespace Sys2Proof.Proofs
open Sys2Proof.Machine Sys2Proof.Claims

/-- Settles O24: a copy that has no other port is dropped; a stalled head is discarded on a lossy VC and takes VC0 of its Calm
port on a lossless one; a packet for a local target takes a slot of the sink; and the end of a hold discards its packet. -/
theorem queuedAndWaitingHeads : Obligations.QueuedAndWaitingHeads := by
  unfold Obligations.QueuedAndWaitingHeads
  refine ⟨?_, fun s q p d i id t b c hm hst => ⟨?_, ?_, ?_, ?_⟩⟩
  · intro s p id b c hp hdue hport hbegun hbound hcopies hhere hmcast hparked hb hq
    subst hport
    have hid := Module.bp_id hb
    obtain ⟨hgone, hqueue⟩ := Module.redecide_bound_single (m := s.m.count (swBlk b.die 5) 0x230) (b := b) (c := c)
      (by rw [Module.bp_count, hid, hb]) ⟨hcopies, hhere, hparked, hmcast⟩ hbound
    refine completes_withM (rerouteQueued c.port) rfl ?_
    rw [rerouteQueued_single hp hdue rfl hbegun hcopies hb hq]
    refine ⟨hid ▸ hgone, ?_⟩
    rw [hqueue, Tab.get_put_same, Module.count_net, queue_of_filter hq, hid]
    simp
  · rintro ⟨hq, hhead, hsusp, hcalm⟩ hl ⟨hcopies, hwhole, hhere, hparked, hmcast⟩
    refine completes_withM (calmEntry q) rfl ?_
    rw [calmEntry_head hm hst hq hhead hsusp hcalm]
    exact Module.bp_calmMove_lossy hl (Module.headOf_some hhead).1 ⟨hcopies, hhere, hparked, hmcast⟩ hwhole
  · rintro ⟨hq, hhead, hsusp, hcalm⟩ hl hfixed htype hown hvalid hdir hact
    refine completes_withM (calmEntry q) rfl ?_
    rw [calmEntry_head hm hst hq hhead hsusp hcalm]
    obtain ⟨b', hb', c', hc', hin⟩ := Module.bp_calmMove_enters (m := s.m.calmWaited q) (Module.headOf_some hhead).1 hl hfixed
      htype ⟨hown, hvalid, hdir, hact⟩
    exact ⟨b', hb', c', hc', hin.port, hin.vc, hin.mode, hin.hvc, hin.begun⟩
  · intro hi hq hb hdie hsince hwhole hparked hcalm hl hfull
    refine completes_withM (calmEntry (131072 + 65536 * d + i)) rfl ?_
    obtain ⟨n, hsink, hlocal⟩ := calmEntry_toSink hm hst hi hq hb hsince hwhole hparked hcalm hl hfull hdie
    exact ⟨n, _, hsink, Pkt.calmed_pl _, Pkt.calmed_vc _, Pkt.calmed_mode _, Pkt.calmed_vcIn _, hlocal⟩
  · rintro hp hact hq hb ⟨hcopies, hwhole, hhere, hparked, hmcast⟩ hport hvc - hhold
    exact completes_withM (calmHoldExpiry p) rfl
      (calmHoldExpiry_frees hp hm hst hact hq hb ⟨hcopies, hhere, hparked, hmcast⟩ hwhole hport hvc hhold)

end Sys2Proof.Proofs
end

section
/-!
A packet of the module's own whose row first drops what the loss of a link has left due, and finds the cells of that free
(R131, R172).
-/
namespace Sys2Proof.Machine
open Sys2Proof.Claims

/-- A Directed copy that was queued for port 0 when its link went DOWN: it has no other port to go to (R97, R172). -/
def dueDirected : Copy := { vc := 1, h := (mkHdr 0x20 1 7 1 0 0 0).setMode 2, due := true }

/-- A packet of the module's own, which die 0 originates. -/
def ownPacket : Orig := { pkt := Pkt.make (mkHdr 1 3 7 1 0 0 0) [], die := some 0 }

/-- A state with a READY module: the packet of a copy that is due holds the one cell of die 0, and a packet of the module's own waits
for a cell there. -/
def cellHeldByDue : State :=
  { m := {
      pwr := { booted := true, main := true, st := 2 }
      dies := ⟨[(0, { mode := 2 })]⟩
      net := {
        pkts := [{ id := 1, chain := [0], whole := true, copies := [dueDirected] }], nextId := 2
        queues := ⟨[(qKey 0 1 0, [1])]⟩, orig := [ownPacket] } } }

/-- The row always goes on, to what `originatedPacketWait` makes of the module. -/
theorem completes_originatedPacketWait_iff {i : Nat} {s : State} {P : Module → Prop} :
    Completes (.originatedPacketWait i) s P ↔ P (originatedPacketWait i s.m) := by
  constructor
  · rintro ⟨t, ht, -, hP⟩
    obtain rfl : s.withM (originatedPacketWait i) = t := Host.Outcome.next.inj ht
    exact hP
  · exact fun hP => completes_withM (originatedPacketWait i) rfl hP

/-- The packet waits for a cell there: none is free, and it needs one. -/
theorem waits_cellHeldByDue :
    (cellHeldByDue.m.die 0).freeCells < cellHeldByDue.m.exposure 0 + ownPacket.pkt.h.cells := by
  decide +kernel

/-- The row decides the copy again that is due, which frees its cell, and the packet takes the cell and an identifier. -/
theorem nextId_originatedPacketWait_cellHeldByDue :
    (originatedPacketWait 0 cellHeldByDue.m).net.nextId = 3 := by
  decide +kernel

end Sys2Proof.Machine

namespace Sys2Proof.Proofs
open Sys2Proof.Machine Sys2Proof.Claims

/-- Refutes O21 at its clause for a packet that waits, which says of every state, also of one with a descriptor that is due
for *Routing decisions* again (R172), that the row changes nothing while too few cells are free: the row decides such
descriptors first, so that none is overtaken, and where a packet is dropped there, its cells are free for the packet of
the module's own, which leaves at once. The clause has no premise that nothing is due, as the clause after it has. -/
theorem not_ownPacketsWaitForCells : ¬ Obligations.OwnPacketsWaitForCells := by
  unfold Obligations.OwnPacketsWaitForCells
  intro h
  obtain ⟨-, hWaits, -⟩ := h cellHeldByDue 0 ownPacket rfl
  have hSame : originatedPacketWait 0 cellHeldByDue.m = cellHeldByDue.m :=
    completes_originatedPacketWait_iff.mp (hWaits (by decide +kernel) (by decide +kernel) (.inr waits_cellHeldByDue))
  have hNext := nextId_originatedPacketWait_cellHeldByDue
  rw [hSame] at hNext
  exact absurd hNext (by decide +kernel)

end Sys2Proof.Proofs
end

section
/-!
Delivery: packets handed to their targets, ordered ones in the order of their numbers, and what was held back (R119, R161,
R393, R394, R398, R399).
-/
namespace Sys2Proof.Machine
open Sys2Proof.Claims

/-! ### What the handling of buffered packets leaves -/

/-- What reports, the books of credit and the freeing of buffers leave: the clocks, memory, the store, the reorder units, and of
the switches' tables everything but the buffered packets. -/
def Module.Housekept (a b : Module) : Prop :=
  b = { a with
    regs := b.regs, keep := b.keep, vane := b.vane, flt := b.flt, pwr := b.pwr, sens := b.sens, ports := b.ports,
    dies := b.dies, net := { a.net with pkts := b.net.pkts } }

theorem Module.Housekept.refl (a : Module) : a.Housekept a := rfl

theorem Module.Housekept.trans {a b c : Module} (h : a.Housekept b) (h' : b.Housekept c) : a.Housekept c := by
  unfold Module.Housekept at h h' ⊢
  rw [h] at h'
  exact h'

theorem Module.Housekept.ite {a b c : Module} {p : Prop} [Decidable p] (hb : p → a.Housekept b) (hc : ¬ p → a.Housekept c) :
    a.Housekept (if p then b else c) := by
  split
  · exact hb ‹_›
  · exact hc ‹_›

theorem Module.Housekept.foldl {α : Type} {f : Module → α → Module} (hf : ∀ m x, Module.Housekept m (f m x)) (l : List α)
    (m : Module) : m.Housekept (l.foldl f m) :=
  List.foldlRecOn l f (motive := fun n => m.Housekept n) (.refl m) fun n h x _ => h.trans (hf n x)

section
variable {a b : Module} (h : a.Housekept b)
include h

theorem Module.Housekept.time : b.time = a.time := by rw [h]
theorem Module.Housekept.store : b.store = a.store := by rw [h]
theorem Module.Housekept.ord : b.ord = a.ord := by rw [h]
theorem Module.Housekept.handed : b.net.handed = a.net.handed := by rw [h]
theorem Module.Housekept.src (s : Nat) : b.src s = a.src s := by rw [h]; rfl

end

theorem Module.housekept_count (m : Module) (blk off n : Nat) : m.Housekept (m.count blk off n) := by
  obtain ⟨v, h⟩ | h := m.count_cases blk off n <;> rw [h]
  · rfl
  · exact .refl m

theorem Module.housekept_wake (m : Module) (cause : Nat) : m.Housekept (m.wake cause) := by
  obtain ⟨-, h⟩ | h := m.wake_cases cause <;> rw [h]
  · rfl
  · exact .refl m

theorem Module.housekept_event (m : Module) (code : Nat) (pl : Bytes) : m.Housekept (m.event code pl) := by
  have hto (n : Module) (slot : Nat) : n.Housekept (n.eventTo slot code pl) := by
    unfold Module.eventTo
    refine .ite (fun _ => rfl) fun _ => .trans ?_ (Module.housekept_count _ _ _ 1)
    exact rfl
  exact .foldl (fun n slot => .ite (fun _ => .ite (fun _ => hto n slot) fun _ =>
    (hto n slot).trans (Module.housekept_wake _ 1)) fun _ => .refl n) _ m

theorem Module.housekept_keep (m : Module) (k : Keep) : m.Housekept { m with keep := k } := rfl

theorem Module.housekept_writeHistory (m : Module) (r : Rec) (close : Nat) : m.Housekept (m.writeHistory r close) := by
  unfold Module.writeHistory
  split
  · exact m.housekept_keep _
  · exact .refl m

theorem Module.Housekept.fatalIf {a b : Module} (h : a.Housekept b) (p : Bool) (r : Rec) :
    a.Housekept (if p then b.enterFatal r else (b, r)).1 := by
  cases p
  · exact h
  · exact h.trans rfl

theorem Module.Housekept.flt {a b : Module} (h : a.Housekept b) (f : Flt) : a.Housekept { b with flt := f } := h.trans rfl

theorem Module.housekept_raise (m : Module) (src blk detail : Nat) (inj : Bool) : m.Housekept (m.raise src blk detail inj) := by
  have hc := m.housekept_count (mgtBlk 3) (0x200 + 8 * src) 1
  unfold Module.raise
  refine .ite (fun _ => .refl m) fun _ => ?_
  dsimp only
  split
  · refine .trans (.trans (.flt (.fatalIf ?_ _ _) _) (Module.housekept_writeHistory _ _ _)) (Module.housekept_event _ _ _)
    exact (hc.flt _).trans (Module.housekept_count _ _ _ 1)
  · refine .ite (fun _ => .trans ?_ (Module.housekept_event _ _ _)) fun _ => ?_ <;>
    · refine .ite (fun _ => .trans ?_ (Module.housekept_writeHistory _ _ _)) fun _ => ?_ <;>
      exact .flt (.fatalIf (.ite (fun _ => hc.trans (Module.housekept_count _ _ _ 1)) fun _ => hc) _ _) _

theorem Module.housekept_level (m : Module) (src blk detail : Nat) (on : Bool) : m.Housekept (m.level src blk detail on) := by
  unfold Module.level
  refine .ite (fun _ => .ite (fun _ => ?_) fun _ => .refl m) fun _ => .ite (fun _ => rfl) fun _ => .refl m
  exact (((Module.Housekept.refl m).flt _).trans (Module.housekept_raise _ _ _ _ _)).trans rfl

/-! ### Credits (R65, R132) -/

theorem Module.housekept_creditFlush (m : Module) (p : Nat) : m.Housekept (m.creditFlush p) := by
  unfold Module.creditFlush
  exact .ite (fun _ => .refl m) fun _ => rfl

theorem Module.housekept_followBacked (m : Module) (d : Nat) : m.Housekept (m.followBacked d) := by
  have hHold (n : Module) : n.Housekept (n.followHold d) := by
    unfold Module.followHold
    refine .ite (fun _ => .refl n) fun _ => .ite (fun _ => .trans ?_ (Module.housekept_count _ _ _ 1)) fun _ => rfl
    exact rfl
  unfold Module.followBacked
  refine .trans (.ite (fun _ => .refl m) fun _ => .trans ?_ (Module.housekept_level _ _ _ _ _)) (hHold _)
  exact rfl

theorem Module.housekept_checkBacked (m : Module) (d : Nat) : m.Housekept (m.checkBacked d) :=
  ((m.housekept_followBacked d).trans (.foldl (fun n p => n.housekept_creditFlush p) _ _)).trans
    (Module.housekept_followBacked _ d)

/-! ### Buffered packets (R119, R123, R135) -/

theorem Module.housekept_freeBp (m : Module) (id : Nat) : m.Housekept (m.freeBp id) := by
  have hReturn (n : Module) (p v c : Nat) : n.Housekept (n.creditReturn p v c) := by
    refine .trans ?_ (Module.housekept_creditFlush _ p)
    exact rfl
  have hCharge (n : Module) (b : BPkt) : n.Housekept (n.chargeReturned id b) := by
    unfold Module.chargeReturned
    split
    · refine .trans ?_ (hReturn _ _ _ _)
      exact .ite (fun _ => rfl) fun _ => rfl
    · exact .refl n
  cases h : m.bp id with
  | none => rw [Module.freeBp_none h]; exact .refl m
  | some b =>
    rw [Module.freeBp_some h]
    exact .trans (.trans (b := m.cellsFreed id b) rfl (hCharge _ b)) (Module.housekept_checkBacked _ _)

theorem Module.housekept_settle (m : Module) (id : Nat) : m.Housekept (m.settle id) := by
  unfold Module.settle
  split
  · exact .ite (fun _ => m.housekept_freeBp id) fun _ => .refl m
  · exact .refl m

theorem Module.housekept_localHeads (m : Module) (d : Nat) : m.Housekept (m.localHeads d) := by
  refine .foldl (fun n t => ?_) _ m
  split
  · exact rfl
  · exact .refl n

theorem Module.housekept_correctCells (m : Module) (b : BPkt) : m.Housekept (m.correctCells b) := by
  unfold Module.correctCells
  refine .ite (fun _ => .refl m) fun _ => .trans ?_ (Module.housekept_count _ _ _ _)
  exact rfl

theorem Module.housekept_correctOf (m : Module) (id : Option Nat) : m.Housekept (m.correctOf id) := by
  unfold Module.correctOf
  split
  · exact m.housekept_correctCells _
  · exact .refl m

theorem Module.housekept_leaveBuffer (m : Module) (id : Option Nat) : m.Housekept (m.leaveBuffer id) := by
  unfold Module.leaveBuffer
  split
  · refine .trans (.trans ?_ (Module.housekept_settle _ _)) (Module.housekept_localHeads _ _)
    exact rfl
  · exact .refl m

/-- What is kept brings no packet. -/
theorem Module.Held.bp_none {a b : Module} (h : a.Held b) {id : Nat} (hx : a.bp id = none) : b.bp id = none := by
  obtain ⟨f, hf, e⟩ := h.pkts
  exact Module.bp_mapPkts (fun x => (hf x).id) e id hx

/-- A whole packet that its target has, and that has no copy, leaves the buffer. -/
theorem Module.bp_leaveBuffer_free {m : Module} {id : Nat} {b : BPkt} (h : m.bp id = some b) (hc : b.copies = [])
    (hm : b.mcast = false) (hw : b.whole = true) : (m.leaveBuffer (some id)).bp id = none := by
  unfold Module.leaveBuffer
  dsimp only
  refine (Module.recorded_localHeads _ _).toHeld.bp_none ?_
  refine Module.bp_settle_free (b := { b with here := false, parked := false }) ?_ hc rfl rfl hm hw
  exact Module.bp_updBp_same (fun _ => by rfl) h

theorem Module.net_correctOf (m : Module) (id : Option Nat) : (m.correctOf id).net = m.net := by
  unfold Module.correctOf Module.correctCells
  split
  · dsimp only
    split
    · rfl
    · exact Module.count_net _ _ _ _
  · rfl

/-! ### A die on which nothing waits for a window (R399) -/

theorem Die.early_free (x : Die) (l : List Nat) : (x.free l).early = x.early := by
  unfold Die.free
  dsimp only
  split <;> rfl

theorem Module.early_settle {m : Module} {d : Nat} (h : (m.die d).early = []) (id : Nat) :
    ((m.settle id).die d).early = [] := by
  have hFreed (b : BPkt) : ((m.cellsFreed id b).die d).early = [] := by
    unfold Module.cellsFreed
    dsimp only
    by_cases hd : d = b.die
    · subst hd
      rw [Module.die_setDie_same]
      dsimp only
      rw [Die.early_free]
      exact congrArg (List.filter _) h
    · rw [Module.die_setDie_other _ hd]
      exact h
  have hCredited {a b : Module} (hc : a.Credited b) (ha : (a.die d).early = []) : (b.die d).early = [] := by
    obtain ⟨_, _, e⟩ := hc.die d
    rw [e]
    exact ha
  have hCharge (n : Module) (b : BPkt) (hn : (n.die d).early = []) : ((n.chargeReturned id b).die d).early = [] := by
    unfold Module.chargeReturned
    split
    · refine hCredited (Module.credited_creditFlush _ _) ?_
      split <;> exact hn
    · exact hn
  unfold Module.settle
  split
  next b hb =>
    split
    · rw [Module.freeBp_some hb]
      exact hCredited (Module.credited_checkBacked _ _) (hCharge _ b (hFreed b))
    · exact h
  · exact h

theorem Module.early_leaveBuffer {m : Module} {d : Nat} (h : (m.die d).early = []) (id : Option Nat) :
    ((m.leaveBuffer id).die d).early = [] := by
  unfold Module.leaveBuffer
  split
  next i =>
    dsimp only
    rw [Module.die_of_dies_eq (Module.dies_localHeads _ _)]
    refine Module.early_settle ?_ i
    change ((m.setDie _ _).die d).early = []
    by_cases hd : d = ((m.bp i).map (·.die)).getD 0
    · subst hd
      rw [Module.die_setDie_same]
      exact congrArg (List.filter _) h
    · rw [Module.die_setDie_other _ hd]
      exact h
  · exact h

theorem Module.early_correctOf (m : Module) (id : Option Nat) (d : Nat) :
    ((m.correctOf id).die d).early = (m.die d).early := by
  unfold Module.correctOf
  split
  next b _ =>
    unfold Module.correctCells
    dsimp only
    split
    · rfl
    · rw [Module.die_count]
      by_cases hd : d = b.die
      · subst hd
        rw [Module.die_setDie_same]
      · rw [Module.die_setDie_other _ hd]
  · rfl

/-! ### A WRITE handed to its target (R119, R330) -/

/-- A packet joins those handed to their targets. -/
def Module.given (m : Module) (p : Pkt) : Module := { m with net := { m.net with handed := m.net.handed ++ [p] } }

/-- A packet handed over: the single bits changed in its cells are corrected, and it counts. -/
def Module.handedOn (m : Module) (p : Pkt) (id : Option Nat) : Module :=
  (match arrivalPort p with
    | some i => (m.correctOf id).count (pgBlk i) 0x498
    | none => m.correctOf id).given p

theorem Module.refuseReserved_none {m : Module} (h : NoneRefused m) : m.refuseReserved = m := by
  have hnone : (m.net.handed.filter fun q => reservedAtomic q.h) = [] := by
    rw [List.filter_eq_nil_iff]
    exact fun q hq => by simp [h q hq]
  unfold Module.refuseReserved
  rw [hnone]
  rfl

theorem Module.housekept_handedOn (m : Module) (p : Pkt) (id : Option Nat) : (m.given p).Housekept (m.handedOn p id) := by
  have hk (n : Module) (h : m.Housekept n) : (m.given p).Housekept (n.given p) := by
    rw [h]
    rfl
  refine hk _ ?_
  split
  · exact (m.housekept_correctOf id).trans (Module.housekept_count _ _ _ 1)
  · exact m.housekept_correctOf id

/-- A WRITE goes to its target where no ATOMIC waits for its refusal: nothing is refused for it. -/
theorem Module.handOver_write {m : Module} {p : Pkt} (ht : p.h.type = 1) (hn : NoneRefused m) (id : Option Nat) :
    m.handOver p id = (m.handedOn p id).leaveBuffer id := by
  have hnone : NoneRefused ((m.handedOn p id).leaveBuffer id) := by
    intro q hq
    rw [((m.housekept_handedOn p id).trans (Module.housekept_leaveBuffer _ id)).handed] at hq
    rcases List.mem_append.mp hq with hq | hq
    · exact hn q hq
    · simp [List.mem_singleton.mp hq, reservedAtomic, ht]
  unfold Module.handOver
  rw [if_neg (by simp [noTarget, ht]), if_neg (by simp [reservedKind, ht]), if_neg (by simp [reservedKind, ht]),
    if_neg (by simp [Module.localFenced, ht])]
  exact Module.refuseReserved_none hnone

section
variable {m : Module} {p : Pkt} (ht : p.h.type = 1) (hn : NoneRefused m)
include ht hn

theorem Module.housekept_handOver (id : Option Nat) : (m.given p).Housekept (m.handOver p id) := by
  rw [Module.handOver_write ht hn]
  exact (m.housekept_handedOn p id).trans (Module.housekept_leaveBuffer _ id)

/-- A whole WRITE without a copy leaves the buffer as it is handed over. -/
theorem Module.bp_handOver_free {id : Nat} {b : BPkt} (h : m.bp id = some b) (hc : b.copies = []) (hm : b.mcast = false)
    (hw : b.whole = true) : (m.handOver p (some id)).bp id = none := by
  have hpkts : (m.handedOn p (some id)).net.pkts = m.net.pkts := by
    unfold Module.handedOn Module.given
    dsimp only
    split
    · rw [Module.count_net, Module.net_correctOf]
    · rw [Module.net_correctOf]
  rw [Module.handOver_write ht hn]
  refine Module.bp_leaveBuffer_free ?_ hc hm hw
  rw [Module.bp, hpkts]
  exact h

theorem Module.early_handOver {d : Nat} (h : (m.die d).early = []) (id : Option Nat) :
    ((m.handOver p id).die d).early = [] := by
  rw [Module.handOver_write ht hn]
  refine Module.early_leaveBuffer ?_ id
  change ((match arrivalPort p with
    | some i => (m.correctOf id).count (pgBlk i) 0x498
    | none => m.correctOf id).die d).early = []
  split
  · rw [Module.die_count, Module.early_correctOf, h]
  · rw [Module.early_correctOf, h]

/-- A WRITE from a sink is handed over beside the dies. -/
theorem Module.dies_handOver_none : (m.handOver p none).dies = m.dies := by
  rw [Module.handOver_write ht hn]
  unfold Module.leaveBuffer Module.handedOn Module.given Module.correctOf
  dsimp only
  split
  · exact Module.count_dies _ _ _ _
  · rfl

end

/-! ### Reorder units (R393, R394) -/

@[simp] theorem Module.src_setSrc_same (m : Module) (s : Nat) (x : Src) : (m.setSrc s x).src s = x := Tab.get_put_same _ _ _

@[simp] theorem Module.src_count (m : Module) (blk off n s : Nat) : (m.count blk off n).src s = m.src s := by
  rw [Module.src, Module.count_ord, Module.src]

/-- The gap timer of a source starts. -/
theorem Module.src_gapStart (m : Module) (s : Nat) : (m.gapStart s).src s =
    { m.src s with timer := m.ticks, limit := ms (m.reg (swBlk (m.reDie s) 9) 0x000 0) } := Module.src_setSrc_same _ _ _

/-- E follows a packet that is committed. -/
def Module.numbered (m : Module) (p : Pkt) : Module :=
  let s := p.h.src
  let m := (m.setSrc s { m.src s with sync := true, e := seqNext p.h.seq }).gapStart s
  m.count (swBlk (m.reDie s) 9) 0x100

theorem Module.commitSeq_eq (m : Module) (p : Pkt) (id : Option Nat) : m.commitSeq p id = (m.numbered p).handOver p id := rfl

theorem Module.net_numbered (m : Module) (p : Pkt) : (m.numbered p).net = m.net := Module.count_net _ _ _ _

/-- What the commit of a packet does: it is handed over, and E of its source follows it. -/
structure Module.Commits (a : Module) (p : Pkt) (b : Module) : Prop where
  handed : b.net.handed = a.net.handed ++ [p]
  e : (b.src p.h.src).e = seqNext p.h.seq
  parked : (b.src p.h.src).parked = (a.src p.h.src).parked
  time : b.time = a.time
  store : b.store = a.store

section
variable {m : Module} {p : Pkt} (ht : p.h.type = 1) (hn : NoneRefused m)
include ht hn

theorem Module.commits_commitSeq (id : Option Nat) : m.Commits p (m.commitSeq p id) := by
  have hnum : NoneRefused (m.numbered p) := fun q hq => hn q (m.net_numbered p ▸ hq)
  have hk := Module.housekept_handOver ht hnum id
  have hsrc : ((m.numbered p).given p).src p.h.src = (m.numbered p).src p.h.src := rfl
  rw [Module.commitSeq_eq]
  refine ⟨?_, ?_, ?_, ?_, ?_⟩
  · rw [hk.handed, ← m.net_numbered p]
    rfl
  · rw [hk.src, hsrc]
    simp [Module.numbered, Module.src_gapStart]
  · rw [hk.src, hsrc]
    simp [Module.numbered, Module.src_gapStart]
  · exact hk.time.trans (Module.count_time _ _ _ _)
  · exact hk.store.trans (Module.count_store _ _ _ _)

theorem Module.bp_commitSeq_free {id : Nat} {b : BPkt} (h : m.bp id = some b) (hc : b.copies = []) (hm : b.mcast = false)
    (hw : b.whole = true) : (m.commitSeq p (some id)).bp id = none := by
  rw [Module.commitSeq_eq]
  refine Module.bp_handOver_free ht (fun q hq => hn q (m.net_numbered p ▸ hq)) ?_ hc hm hw
  rw [Module.bp, m.net_numbered p]
  exact h

theorem Module.early_commitSeq {d : Nat} (h : (m.die d).early = []) (id : Option Nat) :
    ((m.commitSeq p id).die d).early = [] := by
  rw [Module.commitSeq_eq]
  refine Module.early_handOver ht (fun q hq => hn q (m.net_numbered p ▸ hq)) ?_ id
  rw [show (m.numbered p).die d = m.die d from Module.die_of_dies_eq (Module.count_dies _ _ _ _) d]
  exact h

end

/-- An ordered packet of the number that is expected is committed (R394). -/
theorem Module.verdict_expected {m : Module} {p : Pkt} (hs : (m.src p.h.src).sync = true) (h0 : p.h.seq ≠ 0)
    (he : p.h.seq = (m.src p.h.src).e) (queued : Bool) : m.verdict p queued = .commit := by
  have hd : seqDist p.h.seq (m.src p.h.src).e = 0 := by simp [seqDist, ← he]
  unfold Module.verdict
  simp [h0, hs, hd]

/-- What is decided for a packet follows from the reorder units, and from the dies that are fenced. -/
theorem Module.verdict_setDie (m : Module) (d : Nat) (x : Die) (p : Pkt) (queued : Bool) :
    (m.setDie d x).verdict p queued = m.verdict p queued := rfl

/-- The packet last in its source's window, whose gap timer runs from the first (R394, R398). -/
def Module.inWindow (m : Module) (p : Pkt) (id : Option Nat) : Module :=
  let n := m.setSrc p.h.src { m.src p.h.src with
    parked := (m.src p.h.src).parked ++ [{ seq := p.h.seq, pkt := p, id := id }] }
  if (m.src p.h.src).parked.isEmpty then n.gapStart p.h.src else n

/-- A packet that is parked leaves its die's local queue. -/
def Module.offLocal (m : Module) : Option Nat → Module
  | some id =>
    let m := m.updBp id fun b => { b with parked := true, here := false }
    match m.bp id with
    | some b => (m.setDie b.die { m.die b.die with
        localQ := (m.die b.die).localQ.filter (· != id), early := (m.die b.die).early.filter (· != .buf id) }).localHeads b.die
    | none => m
  | none => m

theorem Module.park_eq (m : Module) (p : Pkt) (id : Option Nat) :
    m.park p id = ((m.inWindow p id).count (swBlk ((m.inWindow p id).reDie p.h.src) 9) 0x108).offLocal id := by
  cases id <;> rfl

theorem Module.src_inWindow (m : Module) (p : Pkt) (id : Option Nat) :
    ((m.inWindow p id).src p.h.src).e = (m.src p.h.src).e ∧
      ((m.inWindow p id).src p.h.src).parked = (m.src p.h.src).parked ++ [{ seq := p.h.seq, pkt := p, id := id }] := by
  unfold Module.inWindow
  dsimp only
  split <;> simp [Module.src_gapStart, Module.src_setSrc_same]

theorem Module.net_inWindow (m : Module) (p : Pkt) (id : Option Nat) : (m.inWindow p id).net = m.net := by
  unfold Module.inWindow
  dsimp only
  split <;> rfl

theorem Module.housekept_offLocal (m : Module) (id : Option Nat) : m.Housekept (m.offLocal id) := by
  cases id with
  | none => exact .refl m
  | some id =>
    unfold Module.offLocal
    dsimp only
    split
    · refine .trans ?_ (Module.housekept_localHeads _ _)
      exact rfl
    · exact rfl

/-- A packet parked is last in its source's window, and E and what has been handed over stay. -/
theorem Module.park_frame (m : Module) (p : Pkt) (id : Option Nat) :
    (m.park p id).net.handed = m.net.handed ∧ ((m.park p id).src p.h.src).e = (m.src p.h.src).e ∧
      ((m.park p id).src p.h.src).parked = (m.src p.h.src).parked ++ [{ seq := p.h.seq, pkt := p, id := id }] := by
  have hk : (m.inWindow p id).Housekept (m.park p id) := by
    rw [m.park_eq]
    exact (Module.housekept_count _ _ _ 1).trans (Module.housekept_offLocal _ id)
  rw [hk.handed, hk.src, m.net_inWindow]
  exact ⟨rfl, m.src_inWindow p id⟩

/-! ### LOCAL_DELIVERY (R26, R119, R124, R161) -/

/-- A WRITE stands at a place of a die's local queue: whole, good, without a mark, and with its turn on the HUB if it crosses it. -/
structure Module.WriteWaits (m : Module) (d i id : Nat) (b : BPkt) : Prop where
  working : m.working = true
  place : (m.die d).localQ[i]? = some id
  buffered : m.bp id = some b
  whole : b.whole = true
  mcast : b.mcast = false
  parked : b.parked = false
  early : (m.die d).early.contains (.buf id) = false
  turn : m.crosses b = false ∨ m.hubFree b = true
  good : b.pkt.good = true
  mark : b.pkt.h.mark = false
  type : b.pkt.h.type = 1

theorem Module.lull_of_working {m : Module} (h : m.working = true) : m.pwr.lull ≤ 1 := by
  simp only [Module.working, Bool.and_eq_true, decide_eq_true_eq] at h
  exact h.1.2

/-- A good WRITE without a mark goes to its reorder unit or to its target. -/
theorem Module.deliver_write {m : Module} {p : Pkt} (hg : p.good = true) (hm : p.h.mark = false) (ht : p.h.type = 1) (d : Nat)
    (id : Option Nat) (this : Early) : m.deliver d p id this =
      if p.h.ordered then m.reorder p id (m.queuedSame p this) else m.handOver p id := by
  have hmark : m.answerMark d p = m := by
    unfold Module.answerMark
    rw [if_neg (by simp [hm])]
  unfold Module.deliver
  cases arrivalPort p <;> simp [hg, hmark, isOrdered, isRestart, ht]

/-- What a packet that finds no window leaves: it joins a die's list of early packets at most. -/
theorem Module.overflow_frame (m : Module) (d : Nat) (e : Early) (p : Pkt) :
    (m.overflow d e p).net = m.net ∧ (m.overflow d e p).ord = m.ord := by
  unfold Module.overflow
  split
  · exact ⟨Module.count_net _ _ _ _, Module.count_ord _ _ _ _⟩
  · exact ⟨rfl, rfl⟩

section
variable {m : Module} {d i id : Nat} {b : BPkt} (h : m.WriteWaits d i id b)
include h

theorem localDelivery_buffer (hv : b.pkt.h.vc ≠ 0) :
    localDelivery d i m = (m.deliver d b.pkt (some id) (.buf id)).overflow d (.buf id) b.pkt := by
  have hl := Module.lull_of_working h.working
  have hturn : (!m.crosses b || m.hubFree b) = true := by
    rcases h.turn with ht | ht <;> simp [ht]
  unfold localDelivery
  rw [if_neg (by simp [h.working]; omega), h.place]
  dsimp only
  rw [h.buffered]
  dsimp only
  rw [if_neg (by simp [h.whole, h.mcast, h.parked]), if_neg (by simpa using hv), h.early, hturn, if_neg (by decide)]

theorem localDelivery_calm (hv : b.pkt.h.vc = 0) {n : Nat} (hs : m.sinkSlot d = some n) :
    localDelivery d i m = m.toSink id := by
  have hl := Module.lull_of_working h.working
  have hfull : m.sinkFull d = false := by simp [Module.sinkFull, hs]
  unfold localDelivery
  rw [if_neg (by simp [h.working]; omega), h.place]
  dsimp only
  rw [h.buffered]
  dsimp only
  rw [if_neg (by simp [h.whole, h.mcast, h.parked]), if_pos (by simpa using hv), if_pos (by simp [hfull])]

/-- An unordered WRITE is handed over, and leaves the buffer where it has no copy. -/
theorem localDelivery_unordered (hn : NoneRefused m) (hc : b.copies = []) (hv : b.pkt.h.vc ≠ 0)
    (ho : b.pkt.h.ordered = false) :
    (localDelivery d i m).net.handed = m.net.handed ++ [b.pkt] ∧ (localDelivery d i m).bp id = none ∧
      (localDelivery d i m).ord = m.ord := by
  have hk := Module.housekept_handOver h.type hn (some id)
  rw [localDelivery_buffer h hv, Module.deliver_write h.good h.mark h.type, ho, if_neg (by decide)]
  obtain ⟨hnet, hord⟩ := (m.handOver b.pkt (some id)).overflow_frame d (.buf id) b.pkt
  rw [Module.bp, hnet, hord]
  exact ⟨hk.handed, Module.bp_handOver_free h.type hn h.buffered hc h.mcast h.whole, hk.ord⟩

/-- An ordered WRITE of the number expected is committed. -/
theorem localDelivery_expected (hn : NoneRefused m) (hc : b.copies = []) (hv : b.pkt.h.vc ≠ 0)
    (ho : b.pkt.h.ordered = true) (hs : (m.src b.pkt.h.src).sync = true) (h0 : b.pkt.h.seq ≠ 0)
    (he : b.pkt.h.seq = (m.src b.pkt.h.src).e) :
    (localDelivery d i m).net.handed = m.net.handed ++ [b.pkt] ∧ (localDelivery d i m).bp id = none ∧
      ((localDelivery d i m).src b.pkt.h.src).e = seqNext (m.src b.pkt.h.src).e ∧
      ((localDelivery d i m).src b.pkt.h.src).parked = (m.src b.pkt.h.src).parked := by
  have hk := Module.commits_commitSeq h.type hn (some id)
  rw [localDelivery_buffer h hv, Module.deliver_write h.good h.mark h.type, ho, if_pos rfl, Module.reorder,
    Module.verdict_expected hs h0 he]
  dsimp only
  obtain ⟨hnet, hord⟩ := (m.commitSeq b.pkt (some id)).overflow_frame d (.buf id) b.pkt
  rw [Module.bp, Module.src, hnet, hord]
  exact ⟨hk.handed, Module.bp_commitSeq_free h.type hn h.buffered hc h.mcast h.whole, he ▸ hk.e, hk.parked⟩

/-- An ordered WRITE ahead of the number expected is parked. -/
theorem localDelivery_ahead (hv : b.pkt.h.vc ≠ 0) (ho : b.pkt.h.ordered = true)
    (hp : m.verdict b.pkt (m.queuedSame b.pkt (.buf id)) = .park) :
    (localDelivery d i m).net.handed = m.net.handed ∧
      ((localDelivery d i m).src b.pkt.h.src).e = (m.src b.pkt.h.src).e ∧
      ((localDelivery d i m).src b.pkt.h.src).parked =
        (m.src b.pkt.h.src).parked ++ [{ seq := b.pkt.h.seq, pkt := b.pkt, id := some id }] := by
  rw [localDelivery_buffer h hv, Module.deliver_write h.good h.mark h.type, ho, if_pos rfl, Module.reorder, hp]
  dsimp only
  obtain ⟨hnet, hord⟩ := (m.park b.pkt (some id)).overflow_frame d (.buf id) b.pkt
  rw [Module.src, hnet, hord]
  exact m.park_frame b.pkt (some id)

end

/-- A packet in a slot of its die's sink: the buffered packets and what has been handed over stay. -/
theorem Module.net_inSlot (m : Module) (id s : Nat) (b : BPkt) : (m.inSlot id s b).net = m.net := by
  have hw (n : Module) : (n.slotWritten b.die s b.pkt).net = n.net :=
    List.foldlRecOn _ _ (motive := fun k : Module => k.net = n.net) rfl fun k h t _ => by
      rw [Module.countWrite, Module.count_net]
      exact h
  have hc : (m.correctCells b).net = m.net := by
    unfold Module.correctCells
    dsimp only
    split
    · rfl
    · exact Module.count_net _ _ _ _
  unfold Module.inSlot
  rw [Module.count_net]
  exact (hw _).trans hc

/-- A buffered packet waits in its die's local queue no more, and is freed where it has no other use. -/
def Module.outOfQueue (m : Module) (id d : Nat) : Module :=
  ((m.updBp id fun b => { b with here := false }).settle id).localHeads d

theorem Module.net_toSink {m : Module} {id s : Nat} {b : BPkt} (hb : m.bp id = some b) (hs : m.sinkSlot b.die = some s) :
    (m.toSink id).net = ((m.inSlot id s b).outOfQueue id b.die).net := by
  have hlast (n : Module) : (if n.sinkFull b.die then n.level 18 (swBlk b.die 6) 0 true else n).net = n.net := by
    split
    · exact ((Module.Reported.refl n).level (by decide) _ _ _).net
    · rfl
  rw [Module.toSink_slot hb hs]
  exact hlast _

/-- A whole packet without a copy that moves to a slot leaves the buffer, and nothing is handed over. -/
theorem Module.toSink_frees {m : Module} {id s : Nat} {b : BPkt} (hb : m.bp id = some b) (hs : m.sinkSlot b.die = some s)
    (hc : b.copies = []) (hp : b.parked = false) (hm : b.mcast = false) (hw : b.whole = true) :
    (m.toSink id).bp id = none ∧ (m.toSink id).net.handed = m.net.handed := by
  have hin : (m.inSlot id s b).bp id = some b := by rwa [Module.bp, m.net_inSlot id s b]
  constructor
  · have hbp : (m.toSink id).bp id = ((m.inSlot id s b).outOfQueue id b.die).bp id := by
      simp only [Module.bp, Module.net_toSink hb hs]
    rw [hbp, Module.outOfQueue]
    refine (Module.recorded_localHeads _ _).toHeld.bp_none ?_
    exact Module.bp_settle_free (b := { b with here := false }) (Module.bp_updBp_same (fun _ => by rfl) hin) hc rfl hp hm hw
  · rw [Module.net_toSink hb hs, Module.outOfQueue, (Module.housekept_localHeads _ _).handed, (Module.housekept_settle _ _).handed]
    change (m.inSlot id s b).net.handed = _
    rw [m.net_inSlot]

/-! ### What was held back (R161, R394, R398, R399) -/

/-- A parked packet leaves its source's window. -/
def Module.unparked (m : Module) (s e : Nat) : Module :=
  m.setSrc s { m.src s with parked := (m.src s).parked.filter (·.seq != e) }

/-- What the commit of a parked WRITE does. -/
theorem Module.commits_unparked {m : Module} (hn : NoneRefused m) {k : Park} (ht : k.pkt.h.type = 1) (e : Nat) :
    (m.unparked k.pkt.h.src e).Commits k.pkt ((m.unparked k.pkt.h.src e).commitSeq k.pkt k.id) :=
  Module.commits_commitSeq (m := m.unparked k.pkt.h.src e) ht hn k.id

theorem reorderCommit_some {m : Module} {s : Nat} {k : Park} (hw : m.working = true)
    (hk : (m.src s).parked.find? (·.seq == (m.src s).e) = some k) :
    reorderCommit s m = (m.unparked s (m.src s).e).commitSeq k.pkt k.id := by
  unfold reorderCommit
  rw [if_neg (by simp [hw]), hk]
  rfl

/-- A run of commits ends where nothing is parked. -/
theorem Module.commitRun_none {m : Module} {s : Nat} (h : (m.src s).parked = []) (n : Nat) : m.commitRun s n = m := by
  cases n with
  | zero => rfl
  | succ n =>
    unfold Module.commitRun
    dsimp only
    rw [h]
    rfl

/-- A run of commits takes the packet parked whose turn has come, and goes on. -/
theorem Module.commitRun_succ {m : Module} {s : Nat} {k : Park} (hk : (m.src s).parked.find? (·.seq == (m.src s).e) = some k)
    (n : Nat) : m.commitRun s (n + 1) = ((m.unparked s (m.src s).e).commitSeq k.pkt k.id).commitRun s n := by
  conv_lhs => unfold Module.commitRun
  dsimp only
  rw [hk]
  rfl

/-- A run over a window of one packet, of the number expected, commits it and leaves the window empty. -/
theorem Module.commitRun_single {m : Module} (n : Nat) {k : Park} (hp : (m.src k.pkt.h.src).parked = [k])
    (he : k.seq = (m.src k.pkt.h.src).e) (ht : k.pkt.h.type = 1) (hn : NoneRefused m) :
    (m.unparked k.pkt.h.src k.seq).Commits k.pkt (m.commitRun k.pkt.h.src (n + 1)) ∧
      ((m.commitRun k.pkt.h.src (n + 1)).src k.pkt.h.src).parked = [] := by
  have hc := Module.commits_unparked hn ht k.seq
  have hnone : ((m.unparked k.pkt.h.src k.seq).src k.pkt.h.src).parked = [] := by
    rw [Module.unparked, Module.src_setSrc_same]
    simp [hp]
  have hfind : (m.src k.pkt.h.src).parked.find? (·.seq == (m.src k.pkt.h.src).e) = some k := by
    rw [hp, List.find?_singleton, if_pos (by simp [he])]
  rw [Module.commitRun_succ hfind, ← he, Module.commitRun_none (hc.parked.trans hnone)]
  exact ⟨hc, hc.parked.trans hnone⟩

/-- The missing numbers of a source are given up: the timeout has passed, they are recorded and counted, and E is the number of
the packet parked that comes next. -/
def Module.gapGivenUp (m : Module) (s seq : Nat) : Module :=
  let skip := seqDist seq (m.src s).e
  let n := ((m.pass ((m.src s).timer + (m.src s).limit)).writeError s St.chunkLost skip)
  ((n.count (swBlk (n.reDie s) 9) 0x110 skip).setSrc s { m.src s with e := seq }).gapStart s

theorem gapTimeout_single {m : Module} {s : Nat} {k : Park} (hw : m.working = true) (hp : (m.src s).parked = [k]) :
    gapTimeout s m = (m.gapGivenUp s k.seq).commitRun s 256 := by
  unfold gapTimeout
  dsimp only
  rw [hp]
  dsimp only
  rw [if_neg (by simp [hw])]
  simp only [List.foldl_nil, Module.gapGivenUp, hp]

/-- What giving up the missing numbers does to the record of a source, to its window and to the FTC. -/
theorem Module.gapGivenUp_frame (m : Module) (s seq : Nat) :
    let n := m.gapGivenUp s seq
    let r := m.store.werr.get s
    n.net = m.net ∧ (n.src s).e = seq ∧ (n.src s).parked = (m.src s).parked ∧
      Waited m n ((m.src s).timer + (m.src s).limit) ∧
      n.store.werr.get s = (if r.1 = 0 then St.chunkLost else r.1, min (r.2 + seqDist seq (m.src s).e) 65535) := by
  dsimp only
  refine ⟨Module.count_net _ _ _ _, ?_, ?_, ?_, ?_⟩
  · rw [Module.gapGivenUp, Module.src_gapStart, Module.src_setSrc_same]
  · rw [Module.gapGivenUp, Module.src_gapStart, Module.src_setSrc_same]
  · exact congrArg Time.ftc (Module.count_time _ _ _ _)
  · refine (congrArg (fun x : Store => x.werr.get s) (Module.count_store _ _ _ _)).trans ?_
    refine (Tab.get_put_same _ _ _).trans ?_
    simp only [beq_iff_eq]
    rfl

/-- The window of one parked WRITE after a gap: what is missing is given up, and the WRITE is committed. -/
theorem Module.commits_gapTimeout {m : Module} (hw : m.working = true) (hn : NoneRefused m) {k : Park}
    (hp : (m.src k.pkt.h.src).parked = [k]) (ht : k.pkt.h.type = 1) :
    ((m.gapGivenUp k.pkt.h.src k.seq).unparked k.pkt.h.src k.seq).Commits k.pkt (gapTimeout k.pkt.h.src m) ∧
      ((gapTimeout k.pkt.h.src m).src k.pkt.h.src).parked = [] := by
  obtain ⟨hnet, he, hparked, -, -⟩ := m.gapGivenUp_frame k.pkt.h.src k.seq
  have hn' : NoneRefused (m.gapGivenUp k.pkt.h.src k.seq) := fun q hq => hn q (hnet ▸ hq)
  rw [gapTimeout_single hw hp]
  exact Module.commitRun_single 255 (hparked.trans hp) he.symm ht hn'

/-- WINDOW_OFFER for a die on which one packet of the buffer waits for a window, and finds its turn come. -/
theorem windowOffer_single {m : Module} {d id : Nat} {b : BPkt} (hw : m.working = true) (he : (m.die d).early = [.buf id])
    (hb : m.bp id = some b) (hv : m.verdict b.pkt (m.queuedSame b.pkt (.buf id)) = .commit) :
    windowOffer d m = (m.setDie d { m.die d with early := [] }).commitSeq b.pkt (some id) := by
  have hp : m.earlyPkt d (.buf id) = some b.pkt := by simp [Module.earlyPkt, hb]
  unfold windowOffer
  rw [if_neg (by simp [hw]), he, List.foldl_cons, List.foldl_nil, hp]
  dsimp only
  rw [hv, if_neg (by decide), Module.reorder, Module.verdict_setDie, hv]
  simp [he]

/-- A packet's slot given up: it stands in the sink no more, and nothing is handed over. -/
theorem Module.leaveSink_frame (m : Module) (d s : Nat) (p : Pkt) :
    ((m.leaveSink d s p).die d).sink = (m.die d).sink.filter (·.1 != s) ∧ (m.leaveSink d s p).net = m.net := by
  have hread (n : Module) (l : List Nat) : (l.foldl (fun m t => m.countRead (resKey t)) n).dies = n.dies ∧
      (l.foldl (fun m t => m.countRead (resKey t)) n).net = n.net :=
    List.foldlRecOn _ _ (motive := fun k : Module => k.dies = n.dies ∧ k.net = n.net) ⟨rfl, rfl⟩ fun k h t _ => by
      rw [Module.countRead, Module.count_dies, Module.count_net]
      exact h
  have hfree (n : Module) (t : Nat) : (n.freeRes t).net = n.net := by
    unfold Module.freeRes
    split <;> rfl
  have hlast (n : Module) : n.Reported (if n.sinkFull d then n else n.level 18 (swBlk d 6) 0 false) :=
    .ite (fun _ => .refl n) fun _ => (Module.Reported.refl n).level (by decide) _ _ _
  obtain ⟨hdies, hnet⟩ := hread m (slotTiles d s p)
  unfold Module.leaveSink Module.freeSlot
  dsimp only
  rw [Module.die_of_dies_eq (hlast _).dies, (hlast _).net, Module.die_of_dies_eq (Module.freeRes_dies _ _),
    Module.die_of_dies_eq (Module.freeRes_dies _ _), hfree, hfree, Module.die_setDie_same]
  dsimp only
  rw [Module.die_of_dies_eq hdies]
  exact ⟨rfl, hnet⟩

/-- The first packet of a die's sink, an unordered WRITE, is read and handed over. -/
theorem calmSinkDelivery_first {m : Module} {d n : Nat} {p : Pkt} (hw : m.working = true) (hf : m.dieFenced d = false)
    (hs : (m.die d).sink[0]? = some (n, p)) (ht : p.h.type = 1) (hg : p.good = true) (hm : p.h.mark = false)
    (ho : p.h.ordered = false) : calmSinkDelivery d 0 m = (m.leaveSink d n p).handOver p none := by
  unfold calmSinkDelivery
  rw [if_neg (by simp [hw, hf]), hs]
  dsimp only
  rw [List.take_zero, List.any_nil, if_neg (by decide), if_neg (by simp [isOrdered, ho]),
    if_neg (by simp [Module.calmCast, ht]), Module.deliver_write hg hm ht, ho, if_neg (by decide)]

end Sys2Proof.Machine

namespace Sys2Proof.Proofs
open Sys2Proof.Machine Sys2Proof.Claims

/-- Settles O28: a WRITE is handed over beside the reorder units, or committed by the one of its source, which also takes what was
held back; what is freed and booked then leaves what has been handed over, the windows and the records. -/
theorem deliveryInOrder : Obligations.DeliveryInOrder := by
  unfold Obligations.DeliveryInOrder
  refine ⟨?_, fun s src d k p b id hw hn => ⟨?_, ?_, ?_, ?_⟩⟩
  · intro s d i id b hw hq hb hwhole hmcast hparked hearly hturn hn hgood hmark htype hcopies
    have h : s.m.WriteWaits d i id b := ⟨hw, hq, hb, hwhole, hmcast, hparked, hearly, hturn, hgood, hmark, htype⟩
    refine ⟨fun hv ho => ?_, fun hv ho hs h0 he => ?_, fun hv ho hp => ?_, fun n hv hs hd => ?_⟩
    · exact completes_withM (localDelivery d i) rfl (localDelivery_unordered h hn hcopies hv ho)
    · exact completes_withM (localDelivery d i) rfl (localDelivery_expected h hn hcopies hv ho hs h0 he)
    · exact completes_withM (localDelivery d i) rfl (localDelivery_ahead h hv ho hp)
    · subst hd
      refine completes_withM (localDelivery b.die i) rfl ?_
      rw [localDelivery_calm h hv hs]
      exact ⟨(Module.die_toSink hb hs).1, Module.toSink_frees hb hs hcopies hparked hmcast hwhole⟩
  · intro he hk hsrc hseq htype
    subst hsrc
    have hc := Module.commits_unparked hn htype (s.m.src k.pkt.h.src).e
    refine completes_withM (reorderCommit k.pkt.h.src) rfl ?_
    rw [reorderCommit_some hw hk]
    refine ⟨hc.handed, hseq ▸ hc.e, hc.parked.trans ?_⟩
    rw [Module.unparked, Module.src_setSrc_same, he]
  · intro he hb htype hcopies hwhole hmcast hv
    have hn' : NoneRefused (s.m.setDie d { s.m.die d with early := [] }) := hn
    have hc := Module.commits_commitSeq htype hn' (some id)
    refine completes_withM (windowOffer d) rfl ?_
    rw [windowOffer_single hw he hb hv]
    exact ⟨Module.early_commitSeq htype hn' (by rw [Module.die_setDie_same]) (some id), hc.handed, hc.e⟩
  · intro hp hsrc hseq htype
    subst hsrc
    obtain ⟨hnet, -, -, hwait, hrec⟩ := s.m.gapGivenUp_frame k.pkt.h.src k.seq
    obtain ⟨hc, hnone⟩ := Module.commits_gapTimeout hw hn hp htype
    refine completes_withM (gapTimeout k.pkt.h.src) rfl
      ⟨hnone, hseq ▸ hc.e, hc.handed.trans (congrArg (·.handed ++ [k.pkt]) hnet), ?_, ?_, ?_⟩
    · exact (congrArg Time.ftc hc.time).trans hwait
    · rw [hc.store]
      exact congrArg Prod.snd hrec
    · rw [hc.store]
      exact congrArg Prod.fst hrec
  · intro n hf hs htype hgood hmark ho
    obtain ⟨hsink, hnet⟩ := s.m.leaveSink_frame d n p
    have hn' : NoneRefused (s.m.leaveSink d n p) := fun q hq => hn q (hnet ▸ hq)
    refine completes_withM (calmSinkDelivery d 0) rfl ?_
    rw [calmSinkDelivery_first hw hf hs htype hgood hmark ho, Module.die_of_dies_eq (Module.dies_handOver_none htype hn'),
      (Module.housekept_handOver htype hn' none).handed]
    refine ⟨hsink, ?_⟩
    rw [Module.given, hnet]

end Sys2Proof.Proofs
end

section
/-!
The pool manager and the registers of the switches, the limits of HEADWIND, and the tokens of shapers and policers (R11, R129,
R133 to R136, R141, R167, R172, R184 to R189).
-/
namespace Sys2Proof.Machine
open Sys2Proof.Claims

/-! ### Chains of free cells (R127, R129, R134) -/

/-- The free cells of a die that stand in chains. -/
def Die.cells (x : Die) : List Nat := x.small ++ x.medium.flatten ++ x.large.flatten

/-- A large chain linked from the head of the small stack, or unlinked to it. -/
theorem Die.cells_link_large (x : Die) (c rest : List Nat) (l : List (List Nat)) :
    (Die.cells { x with small := rest, large := c :: l }).Perm (Die.cells { x with small := c ++ rest, large := l }) := by
  rw [List.perm_iff_count]
  intro a
  simp only [Die.cells, List.flatten_cons, List.count_append]
  omega

/-- A medium chain linked from the head of the small stack, or unlinked to it. -/
theorem Die.cells_link_medium (x : Die) (c rest : List Nat) (l : List (List Nat)) :
    (Die.cells { x with small := rest, medium := c :: l }).Perm (Die.cells { x with small := c ++ rest, medium := l }) := by
  rw [List.perm_iff_count]
  intro a
  simp only [Die.cells, List.flatten_cons, List.count_append]
  omega

/-- What a rebalancing step does: cells of one die move between its chains. -/
structure Module.Rebalanced (a : Module) (d : Nat) (b : Module) : Prop where
  cells : (b.die d).cells.Perm (a.die d).cells
  mode : (b.die d).mode = (a.die d).mode
  others : ∀ e, e ≠ d → b.die e = a.die e

theorem Module.rebalanced_setDie (m : Module) (d : Nat) {x : Die} (hc : x.cells.Perm (m.die d).cells)
    (hm : x.mode = (m.die d).mode) : m.Rebalanced d (m.setDie d x) where
  cells := by rwa [Module.die_setDie_same]
  mode := by rwa [Module.die_setDie_same]
  others _ he := Module.die_setDie_other m he x

/-- A list with a head, as the step takes it apart. -/
theorem headD_cons_drop {α : Type} {l : List (List α)} {n : Nat} (h : n < l.length) : l.headD [] :: l.drop 1 = l := by
  cases l with
  | nil => exact absurd h (Nat.not_lt_zero n)
  | cons c l => rfl

/-- A rebalancing step loses no cell. -/
theorem rebalanced_rebalancerStep (d : Nat) (m : Module) : m.Rebalanced d (rebalancerStep d m) := by
  have hSame : m.Rebalanced d m := ⟨.refl _, rfl, fun _ _ => rfl⟩
  unfold rebalancerStep
  dsimp only
  split
  · exact hSame
  split
  · refine m.rebalanced_setDie d ?_ rfl
    refine ((m.die d).cells_link_large _ _ _).trans ?_
    rw [List.take_append_drop]
  split
  · refine m.rebalanced_setDie d ?_ rfl
    refine ((m.die d).cells_link_medium _ _ _).trans ?_
    rw [List.take_append_drop]
  split
  next h =>
    simp only [Bool.and_eq_true, decide_eq_true_eq] at h
    refine m.rebalanced_setDie d ?_ rfl
    refine ((m.die d).cells_link_large _ _ _).symm.trans ?_
    rw [headD_cons_drop h.1]
  split
  next h =>
    simp only [Bool.and_eq_true, decide_eq_true_eq] at h
    refine m.rebalanced_setDie d ?_ rfl
    refine ((m.die d).cells_link_medium _ _ _).symm.trans ?_
    rw [headD_cons_drop h.1]
  · exact hSame

/-- Where large chains are too few and cells for one are there, the step links one. -/
theorem large_rebalancerStep {d : Nat} {m : Module} (hd : d < 8) (hm : (m.die d).mode = 2)
    (hl : (m.die d).large.length < m.reg (swBlk d 4) 0x018 0) (hs : 9 ≤ (m.die d).small.length) :
    ((rebalancerStep d m).die d).large = (m.die d).small.take 9 :: (m.die d).large := by
  unfold rebalancerStep
  dsimp only
  rw [if_neg (by simp [hd, hm]), if_pos (by simp [hl, hs]), Module.die_setDie_same]

/-! ### The end of a conversion (R134) -/

theorem flatten_chunksAux {α : Type} {k : Nat} (hk : 0 < k) (n : Nat) (l : List α) (h : l.length ≤ n) :
    (chunksAux k n l).flatten = l := by
  induction n generalizing l with
  | zero => rw [List.length_eq_zero_iff.mp (Nat.le_zero.mp h)]; rfl
  | succ n ih =>
    unfold chunksAux
    cases l with
    | nil => rfl
    | cons a l =>
      rw [List.isEmpty_cons, if_neg Bool.false_ne_true, List.flatten_cons, ih _ (by simp at h ⊢; omega),
        List.take_append_drop]

theorem flatten_chunks {α : Type} {k : Nat} (hk : 0 < k) (l : List α) : (chunks k l).flatten = l :=
  flatten_chunksAux hk l.length l le_rfl

/-- A list of a multiple of `k` elements is cut into whole pieces. -/
theorem length_of_mem_chunksAux {α : Type} {k : Nat} (n : Nat) (l : List α) (h : k ∣ l.length) {c : List α}
    (hc : c ∈ chunksAux k n l) : c.length = k := by
  induction n generalizing l with
  | zero => exact absurd hc List.not_mem_nil
  | succ n ih =>
    unfold chunksAux at hc
    cases l with
    | nil => exact absurd hc List.not_mem_nil
    | cons a l =>
      rw [List.isEmpty_cons, if_neg Bool.false_ne_true] at hc
      rcases List.mem_cons.mp hc with rfl | hc
      · exact (List.length_take ..).trans (Nat.min_eq_left (Nat.le_of_dvd (by simp) h))
      · exact ih _ (by rw [List.length_drop]; exact Nat.dvd_sub h (dvd_refl k)) hc

theorem length_of_mem_chunks {α : Type} {k : Nat} {l : List α} (h : k ∣ l.length) {c : List α} (hc : c ∈ chunks k l) :
    c.length = k := length_of_mem_chunksAux _ l h hc

/-- The cells of a conversion are the free cells of the bitmap. -/
theorem Die.cells_convert (x : Die) (large medium : Nat) :
    (x.convert large medium).cells.Perm (firstFree x.bitmap 262144) := by
  unfold Die.convert Die.cells
  dsimp only
  generalize firstFree x.bitmap 262144 = f
  generalize min large (f.length / 9) = nl
  generalize min medium ((f.length - 9 * nl) / 4) = nm
  have hRev (k : Nat) (hk : 0 < k) (l : List Nat) : (chunks k l).reverse.flatten.Perm l := by
    simpa only [flatten_chunks hk] using (List.reverse_perm (chunks k l)).flatten
  calc ((f.drop (9 * nl + 4 * nm)).reverse ++ (chunks 4 ((f.drop (9 * nl)).take (4 * nm))).reverse.flatten) ++
        (chunks 9 (f.take (9 * nl))).reverse.flatten
      |>.Perm ((f.drop (9 * nl + 4 * nm) ++ (f.drop (9 * nl)).take (4 * nm)) ++ f.take (9 * nl)) :=
        ((List.reverse_perm _).append (hRev 4 (by decide) _)).append (hRev 9 (by decide) _)
    _ |>.Perm (f.take (9 * nl) ++ ((f.drop (9 * nl)).take (4 * nm) ++ f.drop (9 * nl + 4 * nm))) :=
        List.perm_append_comm.trans (List.perm_append_comm.append_left _)
    _ |>.Perm f := by
        rw [← List.drop_drop, List.take_append_drop, List.take_append_drop]

/-- Each chain of a conversion has the length of its pool. -/
theorem Die.length_convert (x : Die) (large medium : Nat) :
    (∀ l ∈ (x.convert large medium).large, l.length = 9) ∧ (∀ l ∈ (x.convert large medium).medium, l.length = 4) := by
  unfold Die.convert
  dsimp only
  generalize firstFree x.bitmap 262144 = f
  have h9 : 9 * min large (f.length / 9) ≤ f.length := by omega
  generalize min large (f.length / 9) = nl at h9 ⊢
  have h4 : 9 * nl + 4 * min medium ((f.length - 9 * nl) / 4) ≤ f.length := by omega
  generalize min medium ((f.length - 9 * nl) / 4) = nm at h4 ⊢
  constructor
  · intro l hl
    refine length_of_mem_chunks ?_ (List.mem_reverse.mp hl)
    rw [List.length_take, Nat.min_eq_left h9]
    exact dvd_mul_right 9 nl
  · intro l hl
    refine length_of_mem_chunks ?_ (List.mem_reverse.mp hl)
    rw [List.length_take, List.length_drop, Nat.min_eq_left (by omega)]
    exact dvd_mul_right 4 nm

theorem Module.checkReady_dies (m : Module) : m.checkReady.dies = m.dies := by
  unfold Module.checkReady Module.raiseMinimum
  dsimp only
  split
  · split
    · rfl
    · split <;> rfl
  · rfl

/-- The module as a die's bitmap is turned into chains that meet the targets. -/
theorem poolConversionDone_eq {d : Nat} {m : Module} (hd : d < 8) (hm : (m.die d).mode < 2) (hw : m.pwr.main = true) :
    ∃ u w, (poolConversionDone d m).die d = { (m.die d).convert (m.reg (swBlk d 4) 0x018 0) (m.reg (swBlk d 4) 0x014 0) with
      unbacked := u, withholding := w } := by
  unfold poolConversionDone
  dsimp only
  rw [if_neg (by simp [hd, hm, hw]), Module.die_of_dies_eq (Module.checkReady_dies _)]
  obtain ⟨u, w, e⟩ := (Module.credited_checkBacked (m.setDie d
    ((m.die d).convert (m.reg (swBlk d 4) 0x018 0) (m.reg (swBlk d 4) 0x014 0))) d).die d
  rw [Module.die_setDie_same] at e
  exact ⟨u, w, e⟩

/-! ### RECOVER (R136) -/

/-- The mask of a list of bits. -/
theorem getLsbD_maskOf {w : Nat} (l : List Nat) (a : BitVec w) {c : Nat} (hc : c < w) :
    (l.foldl (fun (a : BitVec w) i => a ||| (1#w <<< i)) a).getLsbD c = (a.getLsbD c || l.contains c) := by
  induction l generalizing a with
  | nil => simp
  | cons i l ih =>
    have hbit : (1#w <<< i).getLsbD c = (c == i) := by
      rw [BitVec.getLsbD_shiftLeft, BitVec.getLsbD_one, Bool.eq_iff_iff]
      simp only [Bool.and_eq_true, decide_eq_true_eq, Bool.not_eq_true', decide_eq_false_iff_not, beq_iff_eq]
      omega
    rw [List.foldl_cons, ih, BitVec.getLsbD_or, hbit, List.contains_cons, Bool.or_assoc]

/-- Cells taken out of a bitmap. -/
theorem getLsbD_setCells_false (b : BitVec 262144) (l : List Nat) {c : Nat} (hc : c < 262144) :
    (setCells b l false).getLsbD c = (b.getLsbD c && !l.contains c) := by
  unfold setCells
  dsimp only
  rw [if_neg Bool.false_ne_true, BitVec.getLsbD_and, BitVec.getLsbD_not, getLsbD_maskOf l 0 hc]
  simp [hc]

/-- After RECOVER the free cells are those that are not retired and that no packet of the die holds. -/
theorem free_rebuildPool (m : Module) (d : Nat) {c : Nat} (hc : c < 262144) :
    (((m.rebuildPool d).die d).bitmap.getLsbD c = true ↔
      c ∉ (m.die d).retired ∧ ∀ k ∈ m.net.pkts, k.die = d → c ∉ k.chain) := by
  unfold Module.rebuildPool
  dsimp only
  rw [Module.die_setDie_same]
  dsimp only [Die.bitmapBut]
  rw [getLsbD_setCells_false _ _ hc, BitVec.getLsbD_allOnes]
  simp [hc]

theorem recover_eq {d : Nat} {m : Module} (hd : d < 8) (hw : m.pwr.main = true) (hr : m.recoverOk d = true) :
    recover d m = m.rebuildPool d := if_pos (by simp [hd, hw, hr])

/-! ### The registers of the switches (R11, R141, R172) -/

theorem resetRing_eq {d : Nat} {m : Module} (hd : d < 8) (hw : m.pwr.main = true) : resetRing d m = m.ringReset d :=
  if_pos (by simp [hd, hw])

/-- A bit set: it reads 1, and every other bit what it read. -/
theorem bitAt_setBit_true (v k j : Nat) : bitAt (setBit v k true) j = (bitAt v j || j == k) := by
  have hr : v % 2 ^ k < 2 ^ k := Nat.mod_lt _ (by positivity)
  have hv : v = 2 ^ k * (v / 2 ^ k) + v % 2 ^ k := (Nat.div_add_mod v (2 ^ k)).symm
  have hset : setBit v k true = 2 ^ k * (v / 2 ^ k - v / 2 ^ k % 2 + 1) + v % 2 ^ k := by
    have hle : 2 ^ k * (v / 2 ^ k % 2) ≤ 2 ^ k * (v / 2 ^ k) := Nat.mul_le_mul_left _ (Nat.mod_le _ _)
    simp only [setBit, setBits, bits, b2n, Nat.add_sub_cancel_left, pow_one, if_true, Nat.mul_add, Nat.mul_sub,
      Nat.mul_comm _ (2 ^ k)]
    omega
  have hvb : v.testBit j = (2 ^ k * (v / 2 ^ k) + v % 2 ^ k).testBit j := by rw [Nat.div_add_mod]
  simp only [bitAt_eq_testBit, hset, hvb, Nat.testBit_two_pow_mul_add _ hr]
  by_cases hj : j < k
  · simp [hj, hj.ne]
  · obtain ⟨i, rfl⟩ := Nat.exists_eq_add_of_le (Nat.le_of_not_lt hj)
    simp only [hj, if_false, Nat.add_sub_cancel_left]
    generalize v / 2 ^ k = q
    cases i with
    | zero =>
      have hd : (q - q % 2 + 1) % 2 = 1 := by omega
      simp [Nat.testBit_zero, hd]
    | succ i =>
      have hd : (q - q % 2 + 1) / 2 = q / 2 := by omega
      simp [Nat.testBit_succ, hd]

/-- The module with other ports admitted. -/
def Module.withAdmitted (m : Module) (v : Nat) : Module := { m with net := { m.net with admitted := v } }

/-- ADMIT_SET sets the bits of the ports of its mask that are ACTIVE. -/
theorem admitSet_eq {d : Nat} {m : Module} (mask : Nat) (hd : d < 8) (hw : m.pwr.main = true) : admitSet d mask m =
    m.withAdmitted ((onesOf mask 32).foldl (fun v j => if m.active (32 * d + j) then setBit v (32 * d + j) true else v)
      m.net.admitted) := by
  have hf := List.foldl_hom (l := onesOf mask 32) (init := m.net.admitted) m.withAdmitted
    (g₁ := fun v j => if m.active (32 * d + j) then setBit v (32 * d + j) true else v)
    (g₂ := fun n j => if n.active (32 * d + j) then n.withAdmitted (setBit n.net.admitted (32 * d + j) true) else n)
    fun v j => by
      by_cases h : m.active (32 * d + j) = true
      · exact (if_pos h).trans (congrArg m.withAdmitted (if_pos h).symm)
      · exact (if_neg h).trans (congrArg m.withAdmitted (if_neg h).symm)
  unfold admitSet
  rw [if_pos (by simp [hd, hw])]
  exact hf

/-- The bits of a list's ports set under a test. -/
theorem bitAt_foldl_setBit (f : Nat → Bool) (d : Nat) (l : List Nat) (v j : Nat) :
    bitAt (l.foldl (fun v j => if f (32 * d + j) then setBit v (32 * d + j) true else v) v) (32 * d + j) =
      (bitAt v (32 * d + j) || (l.contains j && f (32 * d + j))) := by
  induction l generalizing v with
  | nil => simp
  | cons i l ih =>
    rw [List.foldl_cons, ih, List.contains_cons]
    by_cases hf : f (32 * d + i) = true
    · rw [if_pos hf, bitAt_setBit_true]
      by_cases hij : j = i
      · subst hij
        simp [hf]
      · have hbit : (32 * d + j == 32 * d + i) = false := by simpa using hij
        simp [hbit, beq_eq_false_iff_ne.mpr hij]
    · rw [if_neg hf]
      by_cases hij : j = i
      · subst hij
        simp [hf]
      · simp [beq_eq_false_iff_ne.mpr hij]

/-- A counter of a range that is cleared reads its reset value (R11). -/
theorem Module.reg_clearRegs (m : Module) {blk a b o lo : Nat} (ha : a ≤ o) (hb : o ≤ b) (ho : o < 2 ^ 26) (hl : lo < 64) :
    (m.clearRegs blk a b).reg blk o lo = regReset blk o lo := by
  have hblk : regKey blk o lo / 2 ^ 32 = blk := by unfold regKey; omega
  have hoff : regKey blk o lo % 2 ^ 32 / 64 = o := by unfold regKey; omega
  have hnone : (m.clearRegs blk a b).regs.get (regKey blk o lo) = none := by
    refine Memory.lookupCell_absent _ fun c hc e => ?_
    have hk := (List.mem_filter.mp hc).2
    dsimp only at hk
    rw [e, hblk, hoff] at hk
    simp [ha, hb] at hk
  unfold Module.reg
  rw [hnone]

/-- A CLEAR register written. -/
theorem counterClear_eq {blk off a b i : Nat} {f : Fld} (h : ((fieldsAt blk off).find? fun f => f.1.clr.isSome) = some (f, i))
    (hf : f.clr = some (a, b)) (m : Module) : counterClear blk off m = m.clearRegs blk a b := by
  unfold counterClear
  rw [h]
  dsimp only
  rw [hf]

/-! ### The limits of HEADWIND (R167) -/

/-- A limit of a VC's rate on a die, until an instant. -/
def Die.Limited (x : Die) (vc rate until_ : Nat) : Prop := ∃ t ∈ x.throttles, t.vc = vc ∧ t.rate = rate ∧ t.until_ = until_

theorem Module.limited_throttle (m : Module) (d dest vc part rate hold : Nat) :
    ((m.throttle d dest vc part rate hold).die d).Limited vc rate (m.ticks + us hold) := by
  unfold Module.throttle
  dsimp only
  rw [Module.die_setDie_same]
  refine ⟨_, List.mem_append_right _ (List.mem_singleton_self _), ?_⟩
  split <;> exact ⟨rfl, rfl, rfl⟩

theorem Module.die_throttle_other (m : Module) {d e : Nat} (h : e ≠ d) (dest vc part rate hold : Nat) :
    (m.throttle d dest vc part rate hold).die e = m.die e := Module.die_setDie_other m h _

/-- A limit set on every die. -/
theorem Module.limited_throttleAll (m : Module) (dest vc part rate hold : Nat) {d : Nat} (hd : d < 8) :
    ((m.throttleAll dest vc part rate hold).die d).Limited vc rate (m.ticks + us hold) := by
  have hBelow (n : Nat) : ((List.range n).foldl (fun m d => m.throttle d dest vc part rate hold) m).time = m.time ∧
      ∀ d < n, (((List.range n).foldl (fun m d => m.throttle d dest vc part rate hold) m).die d).Limited vc rate
        (m.ticks + us hold) := by
    induction n with
    | zero => exact ⟨rfl, fun d hd => absurd hd (Nat.not_lt_zero d)⟩
    | succ n ih =>
      obtain ⟨htime, hlim⟩ := ih
      rw [List.range_succ, List.foldl_append, List.foldl_cons, List.foldl_nil]
      refine ⟨htime, fun d hd => ?_⟩
      by_cases hn : d = n
      · subst hn
        have hticks : ((List.range d).foldl (fun m d => m.throttle d dest vc part rate hold) m).ticks = m.ticks := by
          rw [Module.ticks, htime, Module.ticks]
        exact hticks ▸ Module.limited_throttle _ d dest vc part rate hold
      · rw [Module.die_throttle_other _ hn]
        exact hlim d (by omega)
  exact (hBelow 8).2 d hd

theorem headwindReceived_eq {m : Module} {k : Pkt} (hw : m.pwr.main = true) (hst : m.pwr.st ≠ 4) (ht : k.h.type = 0x24)
    (hi : k.h.intact = true) (hg : k.good = true) (hl : k.pl.length = 16) : headwindReceived k m =
      ((m.taken k).count (swBlk ((k.port.getD 0) / 32) 6) 0xE30).throttleAll (fieldBE k.pl 4 4 % 2 ^ 17) (k.h.tw % 8) k.h.part
        (fieldBE k.pl 9 1) (fieldBE k.pl 10 2) := by
  have hon : (m.taken k).linksOn = true := by simp [Module.linksOn, Module.taken, hw, hst]
  unfold headwindReceived
  dsimp only
  rw [if_pos (by simp [hon, ht, hi, hg, hl])]

theorem headwindHoldExpiry_eq {m : Module} {d i : Nat} {t : Throttle} (h : (m.die d).throttles[i]? = some t) :
    headwindHoldExpiry d i m =
      (m.pass t.until_).setDie d { m.die d with throttles := (m.die d).throttles.eraseIdx i } := by
  unfold headwindHoldExpiry
  rw [h]
  rfl

/-! ### Refills (R184, R185, R189) -/

/-- A row that does not hold the default is listed. -/
theorem Tab.mem_keys {α : Type} [Inhabited α] {t : Tab α} {k : Nat} (h : t.get k ≠ default) : k ∈ t.keys := by
  by_contra hk
  refine h (Memory.lookupCell_absent _ fun c hc e => hk ?_)
  exact e ▸ List.mem_map_of_mem hc

/-- Each row of a list changed once. -/
theorem Tab.get_foldl_put {α : Type} [Inhabited α] [DecidableEq α] (f : Nat → α → α) {l : List Nat} (hl : l.Nodup)
    (t : Tab α) (j : Nat) :
    (l.foldl (fun t k => t.put k (f k (t.get k))) t).get j = if j ∈ l then f j (t.get j) else t.get j := by
  induction l generalizing t with
  | nil => rfl
  | cons k l ih =>
    obtain ⟨hk, hl⟩ := List.nodup_cons.mp hl
    rw [List.foldl_cons, ih hl]
    by_cases hj : j = k
    · subst hj
      simp [hk]
    · simp [hj, Tab.get_put_other t hj]

/-- A shaper at a refill boundary: its new rates, and its rate in tokens. -/
def Module.refilledShaper (m : Module) (s : Nat) (x : Shaper) : Shaper :=
  let r (o : Nat) : Nat := m.reg (swBlk (s / 2048) 6) (0x10000 + 16 * (s % 2048) + o) 0
  let y := { x with incr := r 4, burst := r 8, tokens := min (x.tokens + r 4) (16 * r 8) }
  if y.slot.isNone || (y.parked && x.incr == y.incr && x.burst == y.burst) then y
  else if y.tokens < 0 then m.wheelSlot y else { y with slot := some m.net.refill }

/-- A policer at a refill boundary. -/
def Module.refilledPolicer (m : Module) (s : Nat) (x : Policer) : Policer :=
  let r (o : Nat) : Nat := m.reg (swBlk (s / 2048) 6) (0x18000 + 32 * (s % 2048) + o) 0
  { x with cir := r 4, pir := r 8, cbs := r 0xC, pbs := r 0x10,
           tc := min (x.tc + r 4) (16 * r 0xC), tp := min (x.tp + r 8) (16 * r 0x10) }

/-- The module with other shapers, and with other policers. -/
def Module.withShapers (m : Module) (t : Tab Shaper) : Module := { m with net := { m.net with shapers := t } }
def Module.withPolicers (m : Module) (t : Tab Policer) : Module := { m with net := { m.net with policers := t } }

theorem Module.foldl_refillShaper (m : Module) (l : List Nat) : l.foldl (fun m s => m.refillShaper s) m =
    m.withShapers (l.foldl (fun t s => t.put s (m.refilledShaper s (t.get s))) m.net.shapers) :=
  (List.foldl_hom m.withShapers fun _ _ => rfl)

theorem Module.foldl_refillPolicer (m : Module) (l : List Nat) : l.foldl (fun m s => m.refillPolicer s) m =
    m.withPolicers (l.foldl (fun t s => t.put s (m.refilledPolicer s (t.get s))) m.net.policers) :=
  (List.foldl_hom m.withPolicers fun _ _ => rfl)

/-- The rates and the tokens of a shaper do not depend on its slot of the timing wheel. -/
theorem Module.refilledShaper_rates (m : Module) (s : Nat) (x : Shaper) :
    let r (o : Nat) : Nat := m.reg (swBlk (s / 2048) 6) (0x10000 + 16 * (s % 2048) + o) 0
    let y := m.refilledShaper s x
    y.incr = r 4 ∧ y.burst = r 8 ∧ y.tokens = min (x.tokens + r 4) (16 * (r 8 : Int)) := by
  unfold Module.refilledShaper Module.wheelSlot
  dsimp only
  split
  · exact ⟨rfl, rfl, rfl⟩
  split
  · exact ⟨rfl, rfl, rfl⟩
  · exact ⟨rfl, rfl, rfl⟩

/-- The heads of the queues change alone as shapers hold them or let them go. -/
theorem Module.syncHeads_eq (m : Module) : ∃ t, m.syncHeads = { m with net := { m.net with heads := t } } := by
  refine List.foldlRecOn _ _ (motive := fun n : Module => ∃ t, n = { m with net := { m.net with heads := t } })
    ⟨m.net.heads, rfl⟩ fun n h k _ => ?_
  obtain ⟨t, rfl⟩ := h
  dsimp only
  split
  · exact ⟨_, rfl⟩
  split
  · exact ⟨_, rfl⟩
  · exact ⟨t, rfl⟩

theorem nodup_eraseDups {α : Type} [BEq α] [LawfulBEq α] (l : List α) : l.eraseDups.Nodup := by
  induction h : l.length using Nat.strong_induction_on generalizing l with
  | h n ih =>
    cases l with
    | nil => exact List.nodup_nil
    | cons a l =>
      rw [List.eraseDups_cons, List.nodup_cons, List.mem_eraseDups]
      refine ⟨by simp, ih _ ?_ _ rfl⟩
      rw [← h, List.length_cons]
      exact Nat.lt_succ_of_le (List.length_filter_le _ l)

theorem Module.nodup_rowsSet (m : Module) (l : List Nat) (lo hi w : Nat) : (m.rowsSet l lo hi w).Nodup := by
  unfold Module.rowsSet
  dsimp only
  exact nodup_eraseDups _

theorem Module.mem_rowsSet (m : Module) {l : List Nat} (lo hi w : Nat) {k : Nat} (h : k ∈ l) : k ∈ m.rowsSet l lo hi w := by
  unfold Module.rowsSet
  dsimp only
  exact List.mem_eraseDups.mpr (List.mem_append_left _ h)

/-- The refill boundary that comes next. -/
def Module.boundary (m : Module) : Module :=
  let m := m.reach ((m.net.refill + 1) * 4096)
  { m with net := { m.net with refill := m.net.refill + 1 } }

/-- SHAPER_REFILL takes the next boundary, and refills each shaper and each policer that is not at reset once. -/
theorem shaperRefill_eq {m : Module} (hw : m.pwr.main = true) : ∃ h, shaperRefill m =
    let n := m.boundary
    { n with net := { n.net with
      heads := h
      shapers := n.shaperIds.foldl (fun t s => t.put s (n.refilledShaper s (t.get s))) n.net.shapers
      policers := n.policerIds.foldl (fun t s => t.put s (n.refilledPolicer s (t.get s))) n.net.policers } } := by
  obtain ⟨t, e⟩ := Module.syncHeads_eq (Module.withPolicers (Module.withShapers m.boundary
    (m.boundary.shaperIds.foldl (fun t s => t.put s (m.boundary.refilledShaper s (t.get s))) m.boundary.net.shapers))
    (m.boundary.policerIds.foldl (fun t s => t.put s (m.boundary.refilledPolicer s (t.get s))) m.boundary.net.policers))
  refine ⟨t, ?_⟩
  unfold shaperRefill
  rw [if_pos hw]
  dsimp only
  rw [Module.foldl_refillShaper, Module.foldl_refillPolicer]
  exact e

/-- A shaper that is not at reset after a refill. -/
theorem Module.get_refilled_shapers (m : Module) {j : Nat} (h : m.net.shapers.get j ≠ default) :
    (m.shaperIds.foldl (fun t s => t.put s (m.refilledShaper s (t.get s))) m.net.shapers).get j =
      m.refilledShaper j (m.net.shapers.get j) := by
  rw [Module.shaperIds, Tab.get_foldl_put _ (m.nodup_rowsSet _ _ _ _), if_pos (m.mem_rowsSet _ _ _ (Tab.mem_keys h))]

/-- A policer that is not at reset after a refill. -/
theorem Module.get_refilled_policers (m : Module) {j : Nat} (h : m.net.policers.get j ≠ default) :
    (m.policerIds.foldl (fun t s => t.put s (m.refilledPolicer s (t.get s))) m.net.policers).get j =
      m.refilledPolicer j (m.net.policers.get j) := by
  rw [Module.policerIds, Tab.get_foldl_put _ (m.nodup_rowsSet _ _ _ _), if_pos (m.mem_rowsSet _ _ _ (Tab.mem_keys h))]

/-! ### The timing wheel (R186) -/

/-- One shaper of a die at its slot of the timing wheel. -/
def Module.wheelStep (m : Module) (d s : Nat) : Module :=
  let x := m.net.shapers.get s
  match x.slot with
  | some t =>
    if s / 2048 == d && t ≤ m.net.refill then
      if x.tokens < 0 then m.placeWheel s
      else { m with net := { m.net with shapers := m.net.shapers.put s { x with slot := none, parked := false } } }
    else m
  | none => m

theorem timingWheelSlot_eq {d : Nat} (hd : d < 8) (m : Module) :
    timingWheelSlot d m = m.net.shapers.keys.foldl (fun m s => m.wheelStep d s) m := if_pos hd

/-- A shaper placed on the wheel: the others and the boundary stay. -/
theorem Module.placeWheel_frame (m : Module) (s : Nat) :
    (m.placeWheel s).net = { m.net with shapers := m.net.shapers.put s (m.wheelSlot (m.net.shapers.get s)) } := by
  unfold Module.placeWheel
  dsimp only
  split
  · rw [Module.count_net, Module.count_net]
  · rw [Module.count_net]

theorem Module.refill_wheelStep (m : Module) (d s : Nat) : (m.wheelStep d s).net.refill = m.net.refill := by
  unfold Module.wheelStep
  dsimp only
  split
  · split
    · split
      · rw [Module.placeWheel_frame]
      · rfl
    · rfl
  · rfl

theorem Module.shaper_wheelStep_other (m : Module) (d : Nat) {s j : Nat} (h : j ≠ s) :
    (m.wheelStep d s).net.shapers.get j = m.net.shapers.get j := by
  unfold Module.wheelStep
  dsimp only
  split
  · split
    · split
      · rw [Module.placeWheel_frame]
        exact Tab.get_put_other _ h _
      · exact Tab.get_put_other _ h _
    · rfl
  · rfl

section
variable {d j : Nat} {m : Module}

/-- A shaper in debt stays on the wheel as the slots of its die come. -/
theorem Module.onWheel_wheelSteps (l : List Nat) (ht : (m.net.shapers.get j).tokens < 0)
    (hs : (m.net.shapers.get j).slot.isSome = true) :
    ((l.foldl (fun m s => m.wheelStep d s) m).net.shapers.get j).slot.isSome = true := by
  refine (List.foldlRecOn l _ (motive := fun n : Module =>
    (n.net.shapers.get j).tokens < 0 ∧ (n.net.shapers.get j).slot.isSome = true) ⟨ht, hs⟩ fun n h s _ => ?_).2
  by_cases hj : j = s
  · subst hj
    unfold Module.wheelStep
    dsimp only
    split
    · split
      · rw [if_pos h.1, Module.placeWheel_frame, Tab.get_put_same, Module.wheelSlot, if_pos h.1]
        exact ⟨h.1, rfl⟩
      · exact h
    · exact h
  · rw [Module.shaper_wheelStep_other n d hj]
    exact h

/-- A shaper that is off the wheel stays off. -/
theorem Module.offWheel_wheelSteps (l : List Nat)
    (h : (m.net.shapers.get j).slot = none ∧ (m.net.shapers.get j).parked = false) :
    ((l.foldl (fun m s => m.wheelStep d s) m).net.shapers.get j).slot = none ∧
      ((l.foldl (fun m s => m.wheelStep d s) m).net.shapers.get j).parked = false := by
  refine List.foldlRecOn l _ (motive := fun n : Module =>
    (n.net.shapers.get j).slot = none ∧ (n.net.shapers.get j).parked = false) h fun n h s _ => ?_
  by_cases hj : j = s
  · subst hj
    unfold Module.wheelStep
    dsimp only
    rw [h.1]
    exact h
  · rw [Module.shaper_wheelStep_other n d hj]
    exact h

/-- A shaper out of debt leaves the wheel when its slot comes. -/
theorem Module.leavesWheel_wheelSteps {l : List Nat} (hl : j ∈ l) (hd : j / 2048 = d) {n : Nat}
    (hs : (m.net.shapers.get j).slot = some n) (hn : n ≤ m.net.refill) (ht : 0 ≤ (m.net.shapers.get j).tokens) :
    ((l.foldl (fun m s => m.wheelStep d s) m).net.shapers.get j).slot = none ∧
      ((l.foldl (fun m s => m.wheelStep d s) m).net.shapers.get j).parked = false := by
  induction l generalizing m with
  | nil => exact absurd hl List.not_mem_nil
  | cons s l ih =>
    rw [List.foldl_cons]
    by_cases hj : j = s
    · subst hj
      refine Module.offWheel_wheelSteps l ?_
      unfold Module.wheelStep
      dsimp only
      rw [hs]
      dsimp only
      rw [if_pos (by simp [hd, hn]), if_neg (by omega)]
      simp
    · have hother := Module.shaper_wheelStep_other m d hj
      exact ih ((List.mem_cons.mp hl).resolve_left hj) (by rw [hother, hs]) (by rwa [Module.refill_wheelStep])
        (by rwa [hother])

end

/-- The conversion of a die's bitmap leaves MODE 2, with the free cells in chains of their pool's length. -/
theorem poolConversionDone_chains {d : Nat} {m : Module} (hd : d < 8) (hm : (m.die d).mode < 2) (hw : m.pwr.main = true) :
    let x := (poolConversionDone d m).die d
    x.mode = 2 ∧ x.cells.Perm (firstFree (m.die d).bitmap 262144) ∧ (∀ l ∈ x.large, l.length = 9) ∧
      ∀ l ∈ x.medium, l.length = 4 := by
  obtain ⟨u, w, e⟩ := poolConversionDone_eq hd hm hw
  dsimp only
  rw [e]
  exact ⟨rfl, Die.cells_convert _ _ _, Die.length_convert _ _ _⟩

/-- RECOVER leaves a bitmap of the cells that are free, and no chain. -/
theorem recover_bitmap {d : Nat} {m : Module} (hd : d < 8) (hw : m.pwr.main = true) (hr : m.recoverOk d = true) :
    ((recover d m).die d).mode = 1 ∧ ((recover d m).die d).cells = [] ∧ ∀ c, c < 262144 →
      (((recover d m).die d).bitmap.getLsbD c = true ↔ c ∉ (m.die d).retired ∧ ∀ k ∈ m.net.pkts, k.die = d → c ∉ k.chain) := by
  rw [recover_eq hd hw hr]
  refine ⟨?_, ?_, fun c hc => free_rebuildPool m d hc⟩ <;> rw [Module.rebuildPool, Module.die_setDie_same]
  rfl

theorem resetRing_counts {d : Nat} {m : Module} (hd : d < 8) (hw : m.pwr.main = true) :
    ((resetRing d m).die d).ring = { (m.die d).ring with seq := 0, written := 0, lost := 0, stopped := false } := by
  rw [resetRing_eq hd hw, Module.ringReset, Module.die_setDie_same]

/-- A port of a die is admitted where it was, and where the mask names it and it is ACTIVE. -/
theorem admitSet_admits {d mask j : Nat} {m : Module} (hd : d < 8) (hw : m.pwr.main = true) (hj : j < 32) :
    bitAt (admitSet d mask m).net.admitted (32 * d + j) =
      (bitAt m.net.admitted (32 * d + j) || (bitAt mask j && m.active (32 * d + j))) := by
  have hmask : (onesOf mask 32).contains j = bitAt mask j := by
    rw [Bool.eq_iff_iff, List.contains_iff_mem, mem_onesOf]
    exact and_iff_right hj
  rw [admitSet_eq mask hd hw, ← hmask]
  exact bitAt_foldl_setBit m.active d _ _ j

/-- A HEADWIND received limits its VC on every die, for HOLD_US. -/
theorem headwindReceived_limits {m : Module} {k : Pkt} (hw : m.pwr.main = true) (hst : m.pwr.st ≠ 4) (ht : k.h.type = 0x24)
    (hi : k.h.intact = true) (hg : k.good = true) (hl : k.pl.length = 16) {d : Nat} (hd : d < 8) :
    ((headwindReceived k m).die d).Limited (k.h.tw % 8) (fieldBE k.pl 9 1) (m.ticks + us (fieldBE k.pl 10 2)) := by
  have hticks : ((m.taken k).count (swBlk ((k.port.getD 0) / 32) 6) 0xE30).ticks = m.ticks := by
    rw [Module.ticks, Module.count_time]
    rfl
  rw [headwindReceived_eq hw hst ht hi hg hl, ← hticks]
  exact Module.limited_throttleAll _ _ _ _ _ _ hd

/-- The limits of a die after one of them has ended. -/
theorem headwindHoldExpiry_ends {m : Module} {d i : Nat} {t : Throttle} (h : (m.die d).throttles[i]? = some t) :
    ((headwindHoldExpiry d i m).die d).throttles = (m.die d).throttles.eraseIdx i ∧
      Waited m (headwindHoldExpiry d i m) t.until_ ∧ ∀ e, e ≠ d → (headwindHoldExpiry d i m).die e = m.die e := by
  rw [headwindHoldExpiry_eq h]
  refine ⟨?_, rfl, fun e he => Module.die_setDie_other _ he _⟩
  rw [Module.die_setDie_same]

end Sys2Proof.Machine

namespace Sys2Proof.Proofs
open Sys2Proof.Machine Sys2Proof.Claims

/-- Settles O23: each row that executes is an equation about the dies, the registers or the tables, and the chains, bits, limits
and tokens are read off it. -/
theorem poolsLimitsAndTokens : Obligations.PoolsLimitsAndTokens := by
  unfold Obligations.PoolsLimitsAndTokens
  refine ⟨fun s d mask blk off a b => ⟨fun hd hm => ?_, fun hd hm hw => ?_, fun hd hw hr => ?_, fun hd hw => ?_,
    fun hd hw => ?_, fun f i h hf => ?_⟩, fun s k d i t => ⟨fun hw hst ht hi hg hl => ?_, fun h => ?_, fun hw => ?_,
    fun hd => ?_⟩⟩
  · have h := rebalanced_rebalancerStep d s.m
    exact completes_withM (rebalancerStep d) rfl ⟨h.cells, h.mode.trans hm, h.others, large_rebalancerStep hd hm⟩
  · exact completes_withM (poolConversionDone d) rfl (poolConversionDone_chains hd hm hw)
  · exact completes_withM (recover d) rfl (recover_bitmap hd hw hr)
  · refine completes_withM (resetRing d) rfl ?_
    rw [resetRing_counts hd hw]
    exact ⟨rfl, rfl, rfl, rfl, rfl⟩
  · exact completes_withM (admitSet d mask) rfl fun j hj => admitSet_admits hd hw hj
  · refine completes_withM (counterClear blk off) rfl ?_
    rw [counterClear_eq h hf]
    exact ⟨s.m.clearRegs_mem blk a b, fun o lo ha hb ho hl => s.m.reg_clearRegs ha hb ho hl⟩
  · exact completes_withM (headwindReceived k) rfl fun d hd => headwindReceived_limits hw hst ht hi hg hl hd
  · exact completes_withM (headwindHoldExpiry d i) rfl (headwindHoldExpiry_ends h)
  · obtain ⟨heads, e⟩ := shaperRefill_eq hw
    refine completes_withM shaperRefill rfl ?_
    rw [e]
    refine ⟨rfl, rfl, fun j hj => ?_, fun j hj => ?_⟩
    · have hget := s.m.boundary.get_refilled_shapers hj
      dsimp only
      rw [hget]
      exact s.m.boundary.refilledShaper_rates j _
    · have hget := s.m.boundary.get_refilled_policers hj
      dsimp only
      rw [hget]
      exact ⟨rfl, rfl, rfl, rfl⟩
  · refine completes_withM (timingWheelSlot d) rfl fun j n hj hs hn => ?_
    have hset : s.m.net.shapers.get j ≠ default := fun h => by
      rw [h] at hs
      exact Option.some_ne_none n hs.symm
    rw [timingWheelSlot_eq hd]
    exact ⟨Module.leavesWheel_wheelSteps (Tab.mem_keys hset) hj hs hn,
      fun ht => Module.onWheel_wheelSteps _ ht (Option.isSome_of_eq_some hs)⟩

end Sys2Proof.Proofs
end

section
/-!
Route entries, Eddy sets, pinned entries and multicast entries (R147, R150, R152, R154, R257): the tables under the commands
that write and read them, and the route entries through the rerouting of the packets on hold (R172).
-/
namespace Sys2Proof.Machine
open Sys2Proof.Claims

/-! ### Rows written in order -/

/-- Consecutive rows written one after another. -/
theorem Tab.get_putRange {α : Type} [Inhabited α] [DecidableEq α] (v : Nat → α) (f n : Nat) (t : Tab α) (c : Nat) :
    ((List.range n).foldl (fun t i => t.put (f + i) (v i)) t).get c =
      if f ≤ c ∧ c < f + n then v (c - f) else t.get c := by
  have hkeys : (List.range n).foldl (fun t i => t.put (f + i) (v i)) t =
      ((List.range n).map (f + ·)).foldl (fun t k => t.put k (v (k - f))) t := by
    simp [List.foldl_map]
  have hnodup : ((List.range n).map (f + ·)).Nodup := List.nodup_range.map fun a b h => by simpa using h
  have hmem : c ∈ (List.range n).map (f + ·) ↔ f ≤ c ∧ c < f + n := by
    simp only [List.mem_map, List.mem_range]
    exact ⟨by rintro ⟨i, hi, rfl⟩; omega, fun h => ⟨c - f, by omega, by omega⟩⟩
  rw [hkeys, Tab.get_foldl_put (fun k _ => v (k - f)) hnodup t c]
  simp only [hmem]

theorem zipIdx_map_range {α : Type} (g : Nat → α) (n : Nat) :
    ((List.range n).map g).zipIdx = (List.range n).map fun i => (g i, i) :=
  List.ext_getElem (by simp) fun i _ _ => by simp

/-! ### Pinned entries (R154) -/

theorem pinPut_full {t : Tab (List Pin)} {e : Pin} (h : 4 ≤ (t.get e.bucket).length) : pinPut t e = none := by
  simp [pinPut, h]

theorem pinPut_room {t : Tab (List Pin)} {e : Pin} (h : (t.get e.bucket).length < 4) :
    pinPut t e = some (t.put e.bucket ((t.get e.bucket).filter (fun x => !x.same e) ++ [e])) := by
  simp [pinPut, Nat.not_le.mpr h]

/-! ### The switches' state through a lookup (R145, R148, R149, R151, R152) -/

theorem Module.net_raise (m : Module) {src : Nat} (hs : src < 64) (blk detail : Nat) : (m.raise src blk detail).net = m.net :=
  ((Module.Reported.refl m).raise hs blk detail false).net

/-- Both outcomes of a choice leave the switches' state. -/
theorem Module.net_ite {α : Type} {p : Prop} [Decidable p] {a b : Module × α} {n : Net} (ha : a.1.net = n) (hb : b.1.net = n) :
    (if p then a else b).1.net = n := by
  split
  · exact ha
  · exact hb

theorem Module.calmEgress_net (m : Module) (d : Nat) (h : Hdr) (inPort : Option Nat) (came : Bool) :
    (m.calmEgress d h inPort came).1.net = m.net := by
  unfold Module.calmEgress
  refine net_ite rfl (net_ite ?_ (net_ite rfl rfl))
  exact (Module.net_raise _ (by decide) _ _).trans (m.count_net _ _ _)

theorem Module.noRoute_net (m : Module) (d e : Nat) : (m.noRoute d e).1.net = m.net := by
  unfold Module.noRoute
  dsimp only
  split
  · exact m.count_net _ _ _
  · exact (Module.net_raise _ (by decide) _ _).trans (m.count_net _ _ _)

theorem Module.tradewind_net (m : Module) (d : Nat) (h : Hdr) (chip : Nat) (inPort : Option Nat) :
    (m.tradewind d h chip inPort).1.net = m.net := by
  unfold Module.tradewind
  refine net_ite (m.noRoute_net d _) (net_ite (net_ite rfl rfl) (net_ite (m.count_net _ _ _) (net_ite ?_ (m.noRoute_net d _))))
  rw [Module.calmEgress_net, Module.count_net]

theorem Module.eddyDraw_net (m : Module) (d g : Nat) (h : Hdr) : (m.eddyDraw d g h).1.net = m.net := by
  unfold Module.eddyDraw Module.drawEddy
  dsimp only
  split
  · exact Module.count_net _ _ _ _
  · rfl

theorem Module.policy_net (m : Module) (d g : Nat) (h : Hdr) : (m.policy d g h).1.net = m.net := by
  have hdraw := m.eddyDraw_net d g h
  unfold Module.policy
  refine net_ite rfl (net_ite hdraw (net_ite rfl (net_ite hdraw (net_ite rfl ?_))))
  rw [Module.eddyDraw_net, Module.count_net]

theorem Module.byTable_net (m : Module) (d : Nat) (h : Hdr) (inPort : Option Nat) : (m.byTable d h inPort).1.net = m.net :=
  net_ite (m.tradewind_net d h _ inPort) (m.tradewind_net d h _ inPort)

theorem Module.afterDraw_net (m : Module) (d : Nat) (h : Hdr) (inPort : Option Nat) :
    (m.afterDraw d h inPort).1.net = m.net :=
  net_ite rfl (m.byTable_net d _ inPort)

/-- A decision counts, reports and draws; the tables and the buffered packets stay. -/
theorem Module.decide_net (m : Module) (d g : Nat) (h : Hdr) (inPort : Option Nat) (first : Bool) :
    (m.decide d g h inPort first).1.net = m.net := by
  unfold Module.decide
  refine net_ite (net_ite rfl rfl) (net_ite (m.calmEgress_net d h inPort true) ?_)
  dsimp only
  generalize (if (h.mode == 1 && m.isOwn h.eddy) = true then h.setMode 0 else h) = k
  refine net_ite rfl ?_
  split
  · refine net_ite (m.count_net _ _ _) ?_
    rw [Module.tradewind_net, Module.count_net, Module.count_net]
  · refine net_ite ?_ (m.byTable_net d k inPort)
    rw [Module.afterDraw_net, Module.policy_net]

/-! ### Route entries through the handling of packets (R119, R137, R164, R172, R174) -/

theorem Module.route_throttleAll (m : Module) (dest vc part rate hold : Nat) :
    (m.throttleAll dest vc part rate hold).net.route = m.net.route :=
  List.foldlRecOn _ _ (motive := fun n : Module => n.net.route = m.net.route) rfl fun _ h _ _ => h

theorem Module.route_originate (m : Module) (p : Pkt) (die out : Option Nat) :
    (m.originate p die out).net.route = m.net.route := by
  obtain ⟨_, _, _, _, e⟩ := m.originate_eq p die out
  rw [e]

theorem Module.route_headwind (m : Module) (d : Nat) (h : Hdr) (reason port q : Nat) :
    (m.headwind d h reason port q).net.route = m.net.route := by
  unfold Module.headwind
  dsimp only
  split
  · rfl
  split
  · rfl
  split
  · exact Module.route_throttleAll _ _ _ _ _ _
  · rw [Module.route_originate, Module.count_net]
    rfl

theorem Module.redDecide_net (m : Module) (eg prof avg d g : Nat) : (m.redDecide eg prof avg d g).1.net = m.net :=
  net_ite rfl (net_ite rfl rfl)

theorem Module.detect_net (m : Module) (d g p v c : Nat) (h : Hdr) : (m.detect d g p v c h).1.net = m.net := by
  unfold Module.detect
  dsimp only
  refine net_ite rfl (net_ite (m.count_net _ _ _) (net_ite (m.redDecide_net _ _ _ d g) (net_ite ?_ ?_)))
  · rw [Module.count_net, Module.redDecide_net]
  · rw [Module.count_net, Module.redDecide_net]

theorem Module.averaged_net (m : Module) (p v q : Nat) : (m.averaged p v q).net = m.net := by
  unfold Module.averaged
  split <;> rfl

theorem Module.route_enqueue (m : Module) (id : Nat) (c : Copy) : (m.enqueue id c).net.route = m.net.route := by
  unfold Module.enqueue
  dsimp only
  split
  · exact (Module.routed_newHead _ _).route
  · rfl

theorem Module.Recorded.route {a b : Module} (h : a.Recorded b) : b.net.route = a.net.route := by rw [h.net]

theorem Module.Housekept.route {a b : Module} (h : a.Housekept b) : b.net.route = a.net.route := by rw [h]

theorem Module.route_putCopy (m : Module) (id d g p v : Nat) (h : Hdr) (hold : Option Nat) (fixed : Bool) :
    (m.putCopy id d g p v h hold fixed).net.route = m.net.route := by
  unfold Module.putCopy
  split
  · rfl
  next b _ =>
    have hd : (m.detect d g p v b.cells h).1.net.route = m.net.route := by rw [Module.detect_net]
    dsimp only
    split
    · exact (Module.recorded_record _ _ _).route.trans hd
    · rw [(Module.recorded_passRecord _ _ _ _ _ _).route, Module.route_enqueue, Module.averaged_net]
      split
      · rw [Module.route_headwind, hd]
      · exact hd

theorem Module.route_pushLocal (m : Module) (d id : Nat) : (m.pushLocal d id).net.route = m.net.route :=
  (m.recorded_pushLocal d id).route

theorem Module.route_apply (m : Module) (id d g : Nat) (x : Dec) (held : Option (Nat × Nat)) :
    (m.apply id d g x held).net.route = m.net.route := by
  unfold Module.apply
  split
  case h_1 => exact m.route_putCopy _ _ _ _ _ _ _ _
  case h_2 => exact m.route_putCopy _ _ _ _ _ _ _ _
  case h_3 =>
    dsimp only
    split
    · exact (Module.recorded_passRecord _ _ _ _ _ _).route.trans (Module.route_pushLocal _ _ _)
    · exact Module.route_pushLocal _ _ _
  case h_4 =>
    split
    · exact (m.recorded_record _ _).route
    · rfl

theorem Module.route_discardIfNone (m : Module) (id : Nat) : (m.discardIfNone id).net.route = m.net.route := by
  unfold Module.discardIfNone
  split
  · split
    · exact (m.housekept_freeBp id).route
    · rfl
  · rfl

theorem Module.route_redecide (m : Module) (b : BPkt) (c : Copy) : (m.redecide b c).net.route = m.net.route := by
  have hdrop := (m.routed_dropCopy b.id c).route
  unfold Module.redecide
  dsimp only
  split
  · rw [Module.route_discardIfNone, Module.count_net, hdrop]
  split
  · rw [Module.route_discardIfNone, Module.count_net, hdrop]
  split
  · rw [Module.route_discardIfNone, Module.count_net, hdrop]
  · rw [Module.route_discardIfNone, Module.route_apply, Module.decide_net, hdrop]

/-- The packets on hold take other ports; the route entries stay. -/
theorem Module.route_rehold (m : Module) : m.rehold.net.route = m.net.route :=
  List.foldlRecOn _ _ (motive := fun n : Module => n.net.route = m.net.route) rfl fun _ h b _ =>
    List.foldlRecOn _ _ (motive := fun k : Module => k.net.route = m.net.route) h fun k hk c _ =>
      (k.route_redecide b c).trans hk

/-! ### Commands that change the tables (R430, R435) -/

/-- What a reply leaves of the switches' state: everything but the packets that the module originates. -/
def Net.Replied (a b : Net) : Prop := b = { a with orig := b.orig }

section
variable {a b : Net} (h : a.Replied b)
include h

theorem Net.Replied.route : b.route = a.route := by rw [h]
theorem Net.Replied.eddySize : b.eddySize = a.eddySize := by rw [h]
theorem Net.Replied.eddyChip : b.eddyChip = a.eddyChip := by rw [h]
theorem Net.Replied.pins : b.pins = a.pins := by rw [h]
theorem Net.Replied.mcast : b.mcast = a.mcast := by rw [h]

end

theorem Module.replied_replyFinal (m : Module) (r : CmdReq) (st : Nat) (data : Bytes) :
    m.net.Replied (m.replyFinal r st data).net := by
  cases hs : r.side with
  | false =>
    obtain ⟨_, _, _, _, _, e⟩ := m.replyFinal_host hs st data
    rw [e]
    rfl
  | true =>
    obtain ⟨_, _, e⟩ := m.replyFinal_side hs st data
    rw [e]
    rfl

theorem begun_net (m : Module) (r : CmdReq) : (begun m r).net = m.net := (m.reported_begun r).net

/-- A command that has ended: its answer, and the tables as they stand before it. -/
structure Ended (n : Net) (r : CmdReq) (st : Nat) (data : Bytes) (m : Module) : Prop where
  answered : Answered m r st data
  net : n.Replied m.net

theorem Module.ended_replyFinal (m : Module) (r : CmdReq) {st : Nat} (hst : st ≠ St.busy) (data : Bytes) :
    Ended m.net r st data (m.replyFinal r st data) :=
  ⟨m.answered_replyFinal r hst data, m.replied_replyFinal r st data⟩

section
variable {m n : Module} {r : CmdReq} {u : Nat} {f : Module → Module × Nat × Bytes} (hown : m.mayChange r u = true)
include hown

/-- A change of a unit of the command's own master ends with what it makes of the tables. -/
theorem ended_change_ok (hf : f (begun m r) = (n, St.ok, [])) : Ended n.net r St.ok [] ((begun m r).change r [u] f) := by
  rw [Module.change_ok (by simp [begun_mayChange, hown]) hf, ← (n.reported_claim r [u]).net]
  exact Module.ended_replyFinal _ r (by decide) []

theorem ended_tables_ok {n : Net} (hf : f (begun m r) = ({ begun m r with net := n }, St.ok, [])) :
    Ended n r St.ok [] ((begun m r).change r [u] f) :=
  ended_change_ok (n := { begun m r with net := n }) hown hf

theorem ended_change_noResource (hf : f (begun m r) = (n, St.noResource, [])) :
    Ended n.net r St.noResource [] ((begun m r).change r [u] f) := by
  rw [Module.change_failed (by simp [begun_mayChange, hown]) hf (by decide)]
  exact n.ended_replyFinal r (by decide) []

end

/-! ### ROUTE_WRITE and ROUTE_READ (R147, R150, R152) -/

/-- The route entries with those of ROUTE_WRITE. -/
def routesWritten (r : CmdReq) (t : Tab Nat) : Tab Nat :=
  (List.range (r.u 12 2)).foldl (fun (t : Tab Nat) i => t.put (r.u 8 4 + i) (r.u (16 + 8 * i) 8 % 2 ^ 55)) t

/-- Position `i` of the Eddy set in ROUTE_WRITE; 131,071 is none. -/
def eddyWritten (r : CmdReq) (i : Nat) : Option Nat :=
  if r.u (16 + 4 * i) 4 == 131071 then none else some (r.u (16 + 4 * i) 4)

theorem eddyWritten_getD (r : CmdReq) (i : Nat) : (eddyWritten r i).getD 131071 = r.u (16 + 4 * i) 4 := by
  unfold eddyWritten
  split
  next h => exact (beq_iff_eq.mp h).symm
  · rfl

/-- The Eddy positions with those of ROUTE_WRITE, over those that its set keeps. -/
def eddySetWritten (r : CmdReq) (t : Tab (Option Nat)) : Tab (Option Nat) :=
  (List.range (r.u 12 2)).foldl (fun (t : Tab (Option Nat)) i => t.put (1024 * r.u 1 1 + r.u 8 4 + i) (eddyWritten r i))
    (t.keep fun x _ => !(1024 * r.u 1 1 + r.u 2 2 ≤ x && x < 1024 * r.u 1 1 + 1024))

/-- The switches' state with the Eddy set of ROUTE_WRITE. -/
def Net.withEddySet (n : Net) (r : CmdReq) : Net :=
  { n with eddyChip := eddySetWritten r n.eddyChip, eddySize := n.eddySize.put (r.u 1 1) (r.u 2 2) }

theorem Net.eddyChip_withEddySet (n : Net) (r : CmdReq) : (n.withEddySet r).eddyChip = eddySetWritten r n.eddyChip := rfl
theorem Net.eddySize_withEddySet (n : Net) (r : CmdReq) :
    (n.withEddySet r).eddySize = n.eddySize.put (r.u 1 1) (r.u 2 2) := rfl

/-- The switches' state with a bucket of pinned entries. -/
def Net.withBucket (n : Net) (k : Nat) (l : List Pin) : Net := { n with pins := n.pins.put k l }

theorem Net.pins_withBucket (n : Net) (k : Nat) (l : List Pin) : (n.withBucket k l).pins = n.pins.put k l := rfl

/-- The multicast entry of MCAST_CONFIG. -/
def mcastWritten (r : CmdReq) : MEntry where
  word0 := r.u 8 8 % 2 ^ 17
  ports := (List.range 4).foldl (fun a k => a + r.u (16 + 8 * k) 8 * 2 ^ (64 * k)) 0

section
variable {m : Module} {r : CmdReq}

theorem routeWrite_ended
    (h : Runs m r 0x0301 [(0, 1, 8), (1, 1, 8), (2, 2, 16), (8, 4, 32), (12, 2, 16), (16, 8 * r.u 12 2, 64 * r.u 12 2)])
    (h0 : r.u 0 1 = 0) (hn : r.u 12 2 ≤ 252) (hf : r.u 8 4 + r.u 12 2 ≤ 131072) (hown : m.mayChange r (unit 0x0C 0) = true) :
    ∃ n : Net, n.route = routesWritten r m.net.route ∧ Ended n r St.ok [] (routeWrite r m) := by
  have hrow : (r.u 0 1 != 1) = true := by simp [h0]
  unfold routeWrite
  dsimp only
  rw [hrow, Module.command_runs h, if_neg (by simp [h0]; omega)]
  refine ⟨_, ?_, ended_change_ok hown rfl⟩
  rw [Module.route_rehold, begun_net]
  rfl

theorem eddySetWrite_ended
    (h : Runs m r 0x0301 [(0, 1, 8), (1, 1, 8), (2, 2, 16), (8, 4, 32), (12, 2, 16), (16, 4 * r.u 12 2, 32 * r.u 12 2)])
    (h0 : r.u 0 1 = 1) (hk : r.u 1 1 < 64) (hsize : r.u 2 2 ≤ 1024) (hn : r.u 12 2 ≤ 504) (hf : r.u 8 4 + r.u 12 2 ≤ r.u 2 2)
    (hchips : ∀ i, i < r.u 12 2 → r.u (16 + 4 * i) 4 ≤ 131071) (hown : m.mayChange r (unit 0x0C 0) = true) :
    Ended (m.net.withEddySet r) r St.ok [] (eddySetWrite r m) := by
  have hrow : (r.u 0 1 == 1) = true := by simp [h0]
  have hlegal : ((List.range (r.u 12 2)).map fun i => r.u (16 + 4 * i) 4).any (131071 < ·) = false := by
    simpa using hchips
  unfold eddySetWrite
  dsimp only
  rw [hrow, Module.command_runs h, hlegal, if_neg (by simp; omega), ← begun_net m r]
  refine ended_tables_ok hown ?_
  rw [zipIdx_map_range, List.foldl_map]
  rfl

theorem routeRead_ended (h : Runs m r 0x0302 [(0, 1, 1), (1, 1, 8), (8, 4, 32), (12, 2, 16)]) (h0 : r.u 0 1 = 0)
    (hn : r.u 12 2 ≤ 252) (hf : r.u 8 4 + r.u 12 2 ≤ 131072) :
    Ended m.net r St.ok ((List.range (r.u 12 2)).flatMap fun i => beBytes 8 (m.net.route.get (r.u 8 4 + i)))
      (routeRead r m) := by
  unfold routeRead
  rw [Module.command_runs h]
  dsimp only
  rw [if_pos (by simp [h0]), if_neg (by simp; omega), ← begun_net m r]
  exact Module.ended_replyFinal _ r (by decide) _

/-! ### PIN_WRITE (R154) -/

section
variable (h : Runs m r 0x0303 (pinLay r)) (h1 : r.u 1 1 = 1) (hok : pinOk r = true)
  (hown : m.mayChange r (unit 0x0D 0) = true)
include h h1 hok hown

theorem pinWrite_room (h0 : r.u 0 1 = 0) (hroom : (m.net.pins.get (pinAt r 0).bucket).length < 4) :
    Ended (m.net.withBucket (pinAt r 0).bucket
        ((m.net.pins.get (pinAt r 0).bucket).filter (fun x => !x.same (pinAt r 0)) ++ [pinAt r 0]))
      r St.ok [] (pinWrite r m) := by
  have hrow : (r.u 0 1 != 1) = true := by simp [h0]
  unfold pinWrite
  rw [hrow, Module.command_runs h, if_neg (by simp [h0, hok])]
  rw [← begun_net m r] at hroom ⊢
  refine ended_tables_ok hown ?_
  rw [h1]
  simp only [List.range_one, List.foldl_cons, List.foldl_nil, Option.bind_some, pinPut_room hroom, Net.withBucket]

theorem pinWrite_full (h0 : r.u 0 1 = 0) (hfull : 4 ≤ (m.net.pins.get (pinAt r 0).bucket).length) :
    Ended m.net r St.noResource [] (pinWrite r m) := by
  have hrow : (r.u 0 1 != 1) = true := by simp [h0]
  unfold pinWrite
  rw [hrow, Module.command_runs h, if_neg (by simp [h0, hok])]
  rw [← begun_net m r] at hfull ⊢
  refine ended_change_noResource hown ?_
  rw [h1]
  simp only [List.range_one, List.foldl_cons, List.foldl_nil, Option.bind_some, pinPut_full hfull]

theorem pinRemove_ended (h0 : r.u 0 1 = 1) :
    Ended (m.net.withBucket (pinAt r 0).bucket
        ((m.net.pins.get (pinAt r 0).bucket).filter fun x => !x.same (pinAt r 0))) r St.ok [] (pinRemove r m) := by
  have hrow : (r.u 0 1 == 1) = true := by simp [h0]
  unfold pinRemove
  rw [hrow, Module.command_runs h, if_neg (by simp [hok]), ← begun_net m r]
  refine ended_tables_ok hown ?_
  rw [h1]
  rfl

end

/-! ### MCAST_CONFIG (R257) -/

theorem mcastConfig_ended (h : Runs m r 0x0505 ([(0, 2, 14)] ++ (List.range 5).map fun i => (8 + 8 * i, 8, 64)))
    (hvc : 2 ≤ bits (r.u 8 8) 14 12) (hown : m.mayChange r (unit 3 (r.u 0 2)) = true) :
    Ended { m.net with mcast := m.net.mcast.put (r.u 0 2) (mcastWritten r) } r St.ok [] (mcastConfig r m) := by
  have hw : ¬ bits (r.u 8 8 % 2 ^ 17) 14 12 < 2 := by
    simp only [bits] at hvc ⊢
    omega
  unfold mcastConfig
  dsimp only
  rw [Module.command_runs h, if_neg hw, ← begun_net m r]
  exact ended_tables_ok hown rfl

end

end Sys2Proof.Machine

namespace Sys2Proof.Proofs
open Sys2Proof.Machine Sys2Proof.Claims

/-- Settles O34: each command ends with its rows in its table, and neither its reply nor the rerouting of the packets on hold
changes a table. -/
theorem tablesReadAsWritten : Obligations.TablesReadAsWritten := by
  unfold Obligations.TablesReadAsWritten
  intro s r
  refine ⟨fun h h0 hn hf hown => ?_, fun h h0 hk hsize hn hf hchips hown => ?_, fun h h0 hn hf => ?_,
    fun h h0 h1 hok hown => ⟨fun hroom => ?_, fun hfull => ?_⟩, fun h h0 h1 hok hown => ?_, fun h hvc hown => ?_⟩
  · refine completes_withM (routeWrite r) rfl ?_
    obtain ⟨n, hroute, he⟩ := routeWrite_ended h h0 hn hf hown
    refine ⟨he.answered, fun c => ?_⟩
    rw [he.net.route, hroute]
    exact Tab.get_putRange (fun i => r.u (16 + 8 * i) 8 % 2 ^ 55) (r.u 8 4) (r.u 12 2) s.m.net.route c
  · refine completes_withM (eddySetWrite r) rfl ?_
    have he := eddySetWrite_ended h h0 hk hsize hn hf hchips hown
    rw [he.net.eddySize, he.net.eddyChip, Net.eddySize_withEddySet, Net.eddyChip_withEddySet]
    refine ⟨he.answered, Tab.get_put_same _ _ _, fun i hi => ?_⟩
    rw [eddySetWritten, Tab.get_putRange, if_pos (by omega), Nat.add_sub_cancel_left, eddyWritten_getD]
  · refine completes_withM (routeRead r) rfl ?_
    have he := routeRead_ended h h0 hn hf
    exact ⟨he.net.route, he.answered⟩
  · refine completes_withM (pinWrite r) rfl ?_
    have he := pinWrite_room h h1 hok hown h0 hroom
    rw [he.net.pins, Net.pins_withBucket]
    refine ⟨he.answered, ?_, fun k hk => Tab.get_put_other _ hk _⟩
    rw [Tab.get_put_same]
    exact List.mem_append_right _ (List.mem_singleton_self _)
  · refine completes_withM (pinWrite r) rfl ?_
    have he := pinWrite_full h h1 hok hown h0 hfull
    exact ⟨he.answered, he.net.pins⟩
  · refine completes_withM (pinRemove r) rfl ?_
    have he := pinRemove_ended h h1 hok hown h0
    rw [he.net.pins, Net.pins_withBucket]
    refine ⟨he.answered, fun x hx => ?_, fun k hk => Tab.get_put_other _ hk _⟩
    rw [Tab.get_put_same, List.mem_filter] at hx
    simpa using hx.2
  · refine completes_withM (mcastConfig r) rfl ?_
    have he := mcastConfig_ended h hvc hown
    rw [he.net.mcast]
    dsimp only
    rw [Tab.get_put_same]
    exact ⟨he.answered, rfl, rfl, fun k hk => Tab.get_put_other _ hk _⟩

end Sys2Proof.Proofs
end

section
/-!
The groups of the collective engine under the commands that create, fill, plan and delete them (R223 to R225, R228, R230), and
what counters, events, packets of the module's own and tracker entries leave of the engine.
-/
namespace Sys2Proof.Machine
open Sys2Proof.Claims

/-! ### What is beside the collective engine -/

/-- What counters, events, packets that the module originates and tracker entries leave: the groups and contexts, the memory,
the time block, the packets handed over, the owners of units, and the fields that set the collective engine. -/
structure Module.Beside (a b : Module) : Prop where
  coll : b.coll = a.coll
  mem : b.mem = a.mem
  time : b.time = a.time
  handed : b.net.handed = a.net.handed
  owners : b.vane.owners = a.vane.owners
  cfg : ∀ off lo, off < 0x100 → lo < 64 → b.collReg off lo = a.collReg off lo

theorem Module.Beside.refl (a : Module) : a.Beside a := ⟨rfl, rfl, rfl, rfl, rfl, fun _ _ _ _ => rfl⟩

theorem Module.Beside.trans {a b c : Module} (h : a.Beside b) (h' : b.Beside c) : a.Beside c :=
  ⟨h'.coll.trans h.coll, h'.mem.trans h.mem, h'.time.trans h.time, h'.handed.trans h.handed, h'.owners.trans h.owners,
    fun off lo ho hl => (h'.cfg off lo ho hl).trans (h.cfg off lo ho hl)⟩

theorem Module.Beside.ite {a b c : Module} {p : Prop} [Decidable p] (hb : p → a.Beside b) (hc : ¬ p → a.Beside c) :
    a.Beside (if p then b else c) := by
  split
  · exact hb ‹_›
  · exact hc ‹_›

theorem Module.Beside.foldl {α : Type} {f : Module → α → Module} {a b : Module} (hf : ∀ m x, Module.Beside m (f m x))
    (l : List α) (h : a.Beside b) : a.Beside (l.foldl f b) :=
  List.foldlRecOn l f (motive := fun n => a.Beside n) h fun n h x _ => h.trans (hf n x)

section
variable {a b : Module} (h : a.Beside b)
include h

/-- A counter is no field that sets the engine: those stand below offset 0x100 of its block. -/
theorem Module.Beside.count {blk off : Nat} (n : Nat) (hb : blk ≠ hubBlk 1 ∨ 0x100 ≤ off) (ho : off < 2 ^ 26) :
    a.Beside (b.count blk off n) := by
  refine h.trans ⟨b.count_coll _ _ _, b.count_mem _ _ _, b.count_time _ _ _, by rw [b.count_net], by rw [b.count_vane],
    fun off' lo ho' hl => ?_⟩
  unfold Module.collReg
  obtain ⟨v, e⟩ | e := b.count_cases blk off n <;> rw [e]
  refine b.reg_setReg_other _ _ _ _ fun hk => ?_
  obtain ⟨hblk, hoff, -⟩ := regKey_inj (by omega) hl ho (by decide) hk
  omega

theorem Module.Beside.vane {v : Vane} (hv : v.owners = b.vane.owners) : a.Beside { b with vane := v } :=
  h.trans ⟨rfl, rfl, rfl, rfl, hv, fun _ _ _ _ => rfl⟩

theorem Module.Beside.orig (l : List Orig) : a.Beside { b with net := { b.net with orig := l } } :=
  h.trans ⟨rfl, rfl, rfl, rfl, rfl, fun _ _ _ _ => rfl⟩

theorem Module.Beside.store (x : Store) : a.Beside { b with store := x } :=
  h.trans ⟨rfl, rfl, rfl, rfl, rfl, fun _ _ _ _ => rfl⟩

theorem Module.Beside.wake (cause : Nat) : a.Beside (b.wake cause) := by
  obtain ⟨-, e⟩ | e := b.wake_cases cause <;> rw [e]
  · exact h.trans ⟨rfl, rfl, rfl, rfl, rfl, fun _ _ _ _ => rfl⟩
  · exact h

theorem Module.Beside.eventTo (slot code : Nat) (pl : Bytes) : a.Beside (b.eventTo slot code pl) := by
  unfold Module.eventTo
  refine .ite (fun _ => h.vane rfl) fun _ => .count (h.vane ?_) 1 (.inl (by decide)) (by decide)
  rfl

theorem Module.Beside.event (code : Nat) (pl : Bytes) : a.Beside (b.event code pl) := by
  refine .foldl (fun n slot => ?_) _ h
  have hn := (Module.Beside.refl n).eventTo slot code pl
  exact .ite (fun _ => .ite (fun _ => hn) fun _ => hn.wake 1) fun _ => .refl n

theorem Module.Beside.originate (p : Pkt) (die out : Option Nat) (ev : Bool) (outs : List (Option Nat × Hdr)) :
    a.Beside (b.originate p die out ev outs) := by
  obtain ⟨-, e⟩ | ⟨-, e⟩ := b.originate_cases p die out ev outs <;> rw [e]
  · exact (h.orig _).wake 1
  · exact h

theorem Module.Beside.updEntry (i : Nat) (f : TEnt → TEnt) : a.Beside (b.updEntry i f) :=
  h.trans ⟨rfl, rfl, rfl, rfl, rfl, fun _ _ _ _ => rfl⟩

end

/-! ### Groups by command (R430, R435) -/

theorem Module.setOwner_coll (m : Module) (u : Nat) (o : Option Bool) : (m.setOwner u o).coll = m.coll := by
  unfold Module.setOwner
  split
  · rfl
  · dsimp only
    rw [((Module.Beside.refl _).event _ _).coll]
    split <;> rfl

/-- A unit other than a tracker entry has the owner that it was given. -/
theorem Module.owner_setOwner (m : Module) {u : Nat} (hu : u / 2 ^ 24 ≠ 5) (o : Option Bool) :
    (m.setOwner u o).owner u = o := by
  have hu' : ¬ (u / 2 ^ 24 == 5) = true := by simpa using hu
  unfold Module.setOwner
  split
  next h => exact beq_iff_eq.mp h
  · dsimp only
    rw [Module.owner, if_neg hu', ((Module.Beside.refl _).event _ _).owners]
    exact Tab.get_put_same _ _ _

theorem Module.claim_coll (m : Module) (r : CmdReq) (us : List Nat) : (m.claim r us).coll = m.coll := by
  refine List.foldlRecOn us _ (motive := fun n : Module => n.coll = m.coll) rfl fun n hn u _ => ?_
  split
  · exact (n.setOwner_coll _ _).trans hn
  · exact hn

theorem Module.replyFinal_beside (m : Module) (r : CmdReq) (st : Nat) : m.Beside (m.replyFinal r st) := by
  cases hs : r.side with
  | false =>
    obtain ⟨_, _, _, _, _, e⟩ := m.replyFinal_host hs st []
    rw [e]
    exact ⟨rfl, rfl, rfl, rfl, rfl, fun _ _ _ _ => rfl⟩
  | true =>
    obtain ⟨_, _, e⟩ := m.replyFinal_side hs st []
    rw [e]
    exact ⟨rfl, rfl, rfl, rfl, rfl, fun _ _ _ _ => rfl⟩

theorem begun_coll (m : Module) (r : CmdReq) : (begun m r).coll = m.coll := by
  obtain ⟨v, g, e, -⟩ := begun_eq m r
  rw [e]

theorem begun_grp (m : Module) (r : CmdReq) (g : Nat) : (begun m r).grp g = m.grp g := by
  unfold Module.grp
  rw [begun_coll]

theorem begun_groupBusy (m : Module) (r : CmdReq) (g : Nat) : (begun m r).groupBusy g = m.groupBusy g := by
  unfold Module.groupBusy
  rw [begun_coll]

/-- A command that has ended: its answer, and the groups and contexts. -/
structure CollEnded (c : Coll) (r : CmdReq) (st : Nat) (m : Module) : Prop where
  answered : Answered m r st
  coll : m.coll = c

/-- The engine's state with a group's record. -/
def Coll.withGroup (c : Coll) (g : Nat) (x : Group) : Coll := { c with groups := c.groups.put g x }

theorem CollEnded.grp_same {c : Coll} {g st : Nat} {x : Group} {r : CmdReq} {m : Module}
    (h : CollEnded (c.withGroup g x) r st m) : m.grp g = x := by
  unfold Module.grp
  rw [h.coll]
  exact Tab.get_put_same _ _ _

theorem CollEnded.grp_other {a : Module} {g st : Nat} {x : Group} {r : CmdReq} {m : Module}
    (h : CollEnded (a.coll.withGroup g x) r st m) {k : Nat} (hk : k ≠ g) : m.grp k = a.grp k := by
  unfold Module.grp
  rw [h.coll]
  exact Tab.get_put_other _ hk _

theorem Module.collEnded_replyFinal (m : Module) (r : CmdReq) {st : Nat} (hst : st ≠ St.busy) :
    CollEnded m.coll r st (m.replyFinal r st) :=
  ⟨m.answered_replyFinal r hst, (m.replyFinal_beside r st).coll⟩

/-- A change of the group that a command's own master may change. -/
theorem collEnded_change {m : Module} {r : CmdReq} {g : Nat} {x : Group} (hown : m.mayChange r (unit 2 g) = true)
    {f : Module → Module × Nat × Bytes} (hf : f (begun m r) = ((begun m r).setGrp g x, St.ok, [])) :
    CollEnded (m.coll.withGroup g x) r St.ok ((begun m r).change r [unit 2 g] f) := by
  rw [Module.change_ok (by simp [begun_mayChange, hown]) hf, ← begun_coll m r]
  have hc : (((begun m r).setGrp g x).claim r [unit 2 g]).coll = (begun m r).coll.withGroup g x := Module.claim_coll _ _ _
  rw [← hc]
  exact Module.collEnded_replyFinal _ r (by decide)

/-- The layout of GROUP_PLAN with `n` children and local members. -/
def planLay (n : Nat) : List (Nat × Nat × Nat) :=
  [(0, 2, 16), (2, 1, 8), (3, 1, 8), (4, 4, 17), (8, 1, 3), (9, 1, 1), (10, 1, 8), (12, 2, 16), (14, 1, 2), (16, 12 * n, 96 * n)]

/-- The group that GROUP_MEMBERS leaves. -/
def Group.withMembers (x : Group) (r : CmdReq) : Group :=
  { x with epoch := r.u 4 4, n := r.u 8 4, low := r.u 12 4, done := [], empties := [], refused := [] }

/-- The plan entry of a GROUP_PLAN with one child and no local member. -/
def oneChild (r : CmdReq) : Plan where
  nplanes := r.u 3 1
  parent := r.u 4 4
  kids := [⟨r.u 16 4, r.u 20 4, r.u 24 4⟩]
  locals := []
  base := r.u 8 1
  spread := r.u 9 1

section
variable {m : Module} {r : CmdReq}

theorem groupCreate_ended (h : Runs m r 0x0501 [(0, 2, 16), (2, 2, 12), (4, 1, 8)]) (hused : (m.grp (r.u 0 2)).used = false)
    (hvc : r.u 4 1 = 2 ∨ (4 ≤ r.u 4 1 ∧ r.u 4 1 ≤ 7)) (hroom : (m.coll.groups.cells.filter fun c => c.2.used).length < 4096) :
    CollEnded (m.coll.withGroup (r.u 0 2) { used := true, part := r.u 2 2, vc := r.u 4 1 }) r St.ok (groupCreate r m) := by
  have hvc' : (r.u 4 1 == 2 || (4 ≤ r.u 4 1 && r.u 4 1 ≤ 7)) = true := by simpa using hvc
  unfold groupCreate
  rw [Module.command_runs h]
  dsimp only
  rw [begun_grp, begun_coll, if_neg (by simp [hused, hvc']), if_neg (by omega), ← begun_coll m r]
  have hc (x : Group) : (((begun m r).setGrp (r.u 0 2) x).claim r [unit 2 (r.u 0 2)]).coll =
      (begun m r).coll.withGroup (r.u 0 2) x := Module.claim_coll _ _ _
  rw [← hc]
  exact Module.collEnded_replyFinal _ r (by decide)

theorem groupMembers_ended (h : Runs m r 0x0502 [(0, 2, 16), (4, 4, 32), (8, 4, 18), (12, 4, 32)])
    (hused : (m.grp (r.u 0 2)).used = true) (hown : m.mayChange r (unit 2 (r.u 0 2)) = true)
    (hbusy : m.groupBusy (r.u 0 2) = false) (hd : (r.u 4 4 + 2 ^ 32 - (m.grp (r.u 0 2)).epoch) % 2 ^ 32 ≠ 0)
    (hd' : (r.u 4 4 + 2 ^ 32 - (m.grp (r.u 0 2)).epoch) % 2 ^ 32 < 2 ^ 31) (hn : r.u 8 4 ≠ 0) (hn' : r.u 8 4 ≤ 131072) :
    CollEnded (m.coll.withGroup (r.u 0 2) ((m.grp (r.u 0 2)).withMembers r)) r St.ok (groupMembers r m) := by
  unfold groupMembers
  rw [Module.command_runs h]
  dsimp only
  rw [begun_grp, if_neg (by simp [hused])]
  refine collEnded_change hown ?_
  rw [begun_groupBusy, hbusy, if_neg (by decide), if_neg (by simp [hn]; omega)]
  rfl

theorem groupPlan_ended (h : Runs m r 0x0503 (planLay (r.u 10 1 + r.u 12 2))) (hused : (m.grp (r.u 0 2)).used = true)
    (hp : r.u 2 1 < r.u 3 1) (hp8 : r.u 3 1 ≤ 8) (hnc : r.u 10 1 = 1) (hnl : r.u 12 2 = 0) (happ : r.u 14 1 = 0)
    (hchip : r.u 16 4 ≤ 131071) (hlo : r.u 20 4 ≤ 131071) (hhi : r.u 24 4 ≤ 131071)
    (hown : m.mayChange r (unit 2 (r.u 0 2)) = true) (hplans : (m.grp (r.u 0 2)).plans.cells = []) :
    CollEnded (m.coll.withGroup (r.u 0 2)
      { m.grp (r.u 0 2) with plans := (m.grp (r.u 0 2)).plans.put (r.u 2 1) (some (oneChild r)) }) r St.ok (groupPlan r m) := by
  have hone : List.range (r.u 10 1) = [0] := by rw [hnc]; rfl
  have hnone : List.range (r.u 12 2) = [] := by rw [hnl]; rfl
  have hnew : bitAt (r.u 14 1) 0 = false := by rw [happ]; rfl
  unfold groupPlan
  dsimp only
  rw [← planLay, Module.command_runs h, begun_grp, if_neg]
  · refine collEnded_change hown ?_
    simp only [hone, hnone, hnew, hplans, List.map_cons, List.map_nil, List.filter_nil, List.any_nil, List.nil_append,
      Bool.false_eq_true, if_false]
    rfl
  · simp only [hone, hnone, hused, planWords, List.map_cons, List.map_nil, List.any_cons, List.any_nil]
    simp
    omega

theorem groupPlan_refused (h : Runs m r 0x0503 (planLay (r.u 10 1 + r.u 12 2))) (hnc : r.u 10 1 = 0) (hnl : r.u 12 2 = 1)
    (hn : (m.grp (r.u 0 2)).n ≤ r.u 16 4) : CollEnded m.coll r St.badParam (groupPlan r m) := by
  have hone : List.range (r.u 12 2) = [0] := by rw [hnl]; rfl
  unfold groupPlan
  dsimp only
  rw [← planLay, Module.command_runs h, begun_grp, if_pos, ← begun_coll m r]
  · exact Module.collEnded_replyFinal _ r (by decide)
  · simp [hone, hnc, planWords, hn]

section
variable (h : Runs m r 0x0504 [(0, 2, 16)]) (hused : (m.grp (r.u 0 2)).used = true)
  (hown : m.mayChange r (unit 2 (r.u 0 2)) = true)
include h hused hown

theorem groupDelete_idle (hbusy : m.groupBusy (r.u 0 2) = false) :
    CollEnded (m.coll.withGroup (r.u 0 2) {}) r St.ok (groupDelete r m) ∧
      (groupDelete r m).owner (unit 2 (r.u 0 2)) = none := by
  have hlt : r.u 0 2 < 2 ^ 24 := (fieldBE_lt r.body 0 2).trans (by decide)
  have hcls : unit 2 (r.u 0 2) / 2 ^ 24 ≠ 5 := by
    unfold unit
    omega
  unfold groupDelete
  rw [Module.command_runs h]
  dsimp only
  rw [begun_grp, begun_mayChange, begun_groupBusy, hbusy, if_neg (by simp [hused]), if_neg (by simp [hown]),
    if_neg (by decide), ← begun_coll m r]
  constructor
  · have hc : (((begun m r).setGrp (r.u 0 2) {}).setOwner (unit 2 (r.u 0 2)) none).coll =
        (begun m r).coll.withGroup (r.u 0 2) {} := Module.setOwner_coll _ _ _
    rw [← hc]
    exact Module.collEnded_replyFinal _ r (by decide)
  · rw [Module.owner, if_neg (by simpa using hcls), (Module.replyFinal_beside _ _ _).owners]
    have ho := ((begun m r).setGrp (r.u 0 2) {}).owner_setOwner hcls none
    rwa [Module.owner, if_neg (by simpa using hcls)] at ho

theorem groupDelete_busy (hbusy : m.groupBusy (r.u 0 2) = true) : (groupDelete r m).coll = m.coll := by
  unfold groupDelete
  rw [Module.command_runs h]
  dsimp only
  rw [begun_grp, begun_mayChange, begun_groupBusy, hbusy, if_neg (by simp [hused]), if_neg (by simp [hown]), if_pos rfl,
    (Module.replyFinal_beside _ _ _).coll, begun_coll]

end
end

end Sys2Proof.Machine

namespace Sys2Proof.Proofs
open Sys2Proof.Machine Sys2Proof.Claims

/-- Settles O36: each command ends with its group's record in the table, and neither the change of owner nor the reply touches a
group. -/
theorem groupsFollowTheirCommands : Obligations.GroupsFollowTheirCommands := by
  unfold Obligations.GroupsFollowTheirCommands
  intro s r
  refine ⟨fun h hused hvc hroom => ?_, fun h hused hown hbusy hd hd' hn hn' => ?_,
    fun h hused hp hp8 hnc hnl happ hchip hlo hhi hown hplans => ?_, fun h _ hnc hnl hn => ?_, fun h hused hown hbusy => ?_,
    fun h hused hown hbusy => ?_⟩
  · refine completes_withM (groupCreate r) rfl ?_
    have he := groupCreate_ended h hused hvc hroom
    rw [he.grp_same]
    exact ⟨he.answered, rfl, rfl, rfl, fun k hk => he.grp_other hk⟩
  · refine completes_withM (groupMembers r) rfl ?_
    have he := groupMembers_ended h hused hown hbusy hd hd' hn hn'
    rw [he.grp_same]
    exact ⟨he.answered, rfl, rfl, rfl, rfl, rfl, fun k hk => he.grp_other hk⟩
  · refine completes_withM (groupPlan r) rfl ?_
    have he := groupPlan_ended h hused hp hp8 hnc hnl happ hchip hlo hhi hown hplans
    rw [he.grp_same]
    exact ⟨he.answered, Tab.get_put_same _ _ _⟩
  · refine completes_withM (groupPlan r) rfl ?_
    have he := groupPlan_refused h hnc hnl hn
    exact ⟨he.answered, he.coll⟩
  · refine completes_withM (groupDelete r) rfl ?_
    obtain ⟨he, howner⟩ := groupDelete_idle h hused hown hbusy
    rw [he.grp_same]
    exact ⟨he.answered, rfl, howner, fun k hk => he.grp_other hk⟩
  · exact completes_withM (groupDelete r) rfl (groupDelete_busy h hused hown hbusy)

end Sys2Proof.Proofs
end

section
/-!
Events of the collective engine in a context of one plane: what an event leaves beside the context of its handle, and the
passes that find nothing to do: before the launch count, and while every retained tile waits for its acknowledgement (R242 to
R251, R255).
-/
namespace Sys2Proof.Machine
open Sys2Proof.Claims

/-! ### What is beside the collective engine -/

section
variable {a b : Module} (s : a.Beside b)
include s

theorem Module.Beside.collCount {off : Nat} (n : Nat) (ho : 0x100 ≤ off) (ho' : off < 2 ^ 26) :
    a.Beside (b.collCount off n) :=
  s.count n (.inr ho) ho'

theorem Module.Beside.toChip (i chip type tw off : Nat) (pl : Bytes) (die : Option Nat) :
    a.Beside (b.toChip i chip type tw off pl die) :=
  s.originate _ _ _ _ _

theorem Module.Beside.collFailed (i plane reason status member : Nat) (chunk : Option Nat) :
    a.Beside (b.collFailed i plane reason status member chunk) :=
  s.event _ _

theorem Module.Beside.syncEntry (i : Nat) : a.Beside (b.syncEntry i) := .ite (fun _ => s.updEntry _ _) fun _ => s

theorem Module.Beside.planeNotice (i p status chip : Nat) : a.Beside (b.planeNotice i p status chip) :=
  (s.toChip i chip 0x13 status (planeOff p) [] none).collCount 1 (by decide) (by decide)

theorem Module.Beside.freshTile (k : Nat) : a.Beside (b.freshTile k) := s.store _

theorem Module.Beside.countRead (k : Nat) : a.Beside (b.countRead k) := by
  have ho : 0x100 < 2 ^ 26 := by decide
  exact Module.Beside.count s 1 (.inr (Nat.le_refl _)) ho

theorem Module.Beside.countWrite (k : Nat) : a.Beside (b.countWrite k) := by
  have ho : 0x108 < 2 ^ 26 := by decide
  exact Module.Beside.count s 1 (.inr (by decide)) ho

theorem Module.Beside.flt (f : Flt) : a.Beside { b with flt := f } :=
  s.trans ⟨rfl, rfl, rfl, rfl, rfl, fun _ _ _ _ => rfl⟩

theorem Module.Beside.keep (k : Keep) : a.Beside { b with keep := k } :=
  s.trans ⟨rfl, rfl, rfl, rfl, rfl, fun _ _ _ _ => rfl⟩

theorem Module.Beside.trk (k : Trk) : a.Beside { b with trk := k } :=
  s.trans ⟨rfl, rfl, rfl, rfl, rfl, fun _ _ _ _ => rfl⟩

theorem Module.Beside.writeHistory (r : Rec) (close : Nat) : a.Beside (b.writeHistory r close) := by
  unfold Module.writeHistory
  split
  · exact Module.Beside.keep s _
  · exact s

theorem Module.Beside.fatalIf (p : Bool) (r : Rec) : a.Beside (if p then b.enterFatal r else (b, r)).1 := by
  cases p
  · exact s
  · exact s.trans ⟨rfl, rfl, rfl, rfl, rfl, fun _ _ _ _ => rfl⟩

theorem Module.Beside.raise {src : Nat} (hs : src < 64) (blk detail : Nat) (inj : Bool) :
    a.Beside (b.raise src blk detail inj) := by
  have hb : mgtBlk 3 ≠ hubBlk 1 := by decide
  have hc := s.count (blk := mgtBlk 3) (off := 0x200 + 8 * src) 1 (.inl hb) (by omega)
  unfold Module.raise
  refine .ite (fun _ => s) fun _ => ?_
  dsimp only
  split
  · exact (((((hc.flt _).count 1 (.inl hb) (by decide)).fatalIf _ _).flt _).writeHistory _ _).event _ _
  · refine .ite (fun _ => .event ?_ _ _) fun _ => ?_ <;>
    · refine .ite (fun _ => .writeHistory ?_ _ _) fun _ => ?_ <;>
      exact .flt (.fatalIf (.ite (fun _ => hc.count 1 (.inl hb) (by decide)) fun _ => hc) _ _) _

theorem Module.Beside.poison (handle tile k use : Nat) : a.Beside (b.poison handle tile k use) := by
  unfold Module.poison
  refine .raise (.event ?_ _ _) (by decide) _ _ _
  refine .count (off := 0x118) (s.store { b.store with poisoned := b.store.poisoned.put k true }) 1 (.inr ?_) ?_ <;> decide

theorem Module.Beside.check1 (handle tile k use : Nat) : a.Beside (b.check1 handle tile k use) := by
  obtain e | ⟨-, e⟩ | ⟨-, e | e⟩ := b.check1_cases handle tile k use <;> rw [e]
  · exact s
  · refine .count (off := 0x110) (s.store _) 1 (.inr ?_) ?_ <;> decide
  · exact s.poison _ _ _ _
  · exact (s.raise (by split <;> decide) _ _ _).poison _ _ _ _

theorem Module.Beside.lossDown (i p off : Nat) : a.Beside (b.lossDown i p off) := by
  unfold Module.lossDown
  exact .foldl (fun n _ => (Module.Beside.refl n).originate _ _ _ _ _) _
    (.foldl (fun n _ => (Module.Beside.refl n).toChip _ _ _ _ _ _ _) _ s)

theorem Module.Beside.now : b.now = a.now := by rw [Module.now, s.time, Module.now]
theorem Module.Beside.ticks : b.ticks = a.ticks := by rw [Module.ticks, s.time, Module.ticks]
theorem Module.Beside.ctx (i : Nat) : b.ctx i = a.ctx i := by rw [Module.ctx, s.coll, Module.ctx]

end

/-! ### A context of one plane -/

/-- A context with `y` as its one plane. -/
def Ctx.one (c : Ctx) (y : Plane) : Ctx := { c with planes := [y] }

theorem Ctx.one_of_planes {c : Ctx} {y : Plane} (h : c.planes = [y]) : c.one y = c := by
  rw [Ctx.one, ← h]

theorem Ctx.geo_one {c : Ctx} {y : Plane} (h : c.planes = [y]) (z : Plane) : (c.one z).geo = c.geo := by
  rw [← Ctx.one_of_planes h]
  rfl

/-- The plane with its data timer started again, where it has one or a data packet came. -/
def Plane.touched (y : Plane) (data : Bool) (due : Nat) : Plane :=
  if (y.dataOn || data) && y.runs then { y with dataOn := true, dataDue := some due } else y

/-- The plane with another state of its data timer. -/
def Plane.timed (y : Plane) (on : Bool) (due : Option Nat) : Plane := { y with dataOn := on, dataDue := due }

theorem Plane.touched_eq (y : Plane) (data : Bool) (due : Nat) : ∃ o d, y.touched data due = y.timed o d := by
  unfold Plane.touched
  split
  · exact ⟨_, _, rfl⟩
  · exact ⟨y.dataOn, y.dataDue, rfl⟩

theorem Plane.touched_off {y : Plane} (h : y.dataOn = false) (due : Nat) : y.touched false due = y := by
  simp [Plane.touched, h]

/-- `b` is `a` with another context of handle `h`, beside counters, packets and the like. -/
structure Module.Turned (h : Nat) (a b : Module) (c : Ctx) : Prop where
  ctx : b.ctx h = c
  others : OtherCtxs h a b
  mem : b.mem = a.mem
  time : b.time = a.time
  handed : b.net.handed = a.net.handed
  cfg : ∀ off lo, off < 0x100 → lo < 64 → b.collReg off lo = a.collReg off lo

theorem Module.turned_refl {m : Module} {h : Nat} {c : Ctx} (hc : m.ctx h = c) : m.Turned h m c :=
  ⟨hc, fun _ _ => rfl, rfl, rfl, rfl, fun _ _ _ _ => rfl⟩

section
variable {h : Nat} {a b : Module} {c : Ctx} (t : a.Turned h b c)
include t

theorem Module.Turned.beside {d : Module} (s : b.Beside d) : a.Turned h d c :=
  ⟨(s.ctx h).trans t.ctx, fun j hj => (s.ctx j).trans (t.others j hj), s.mem.trans t.mem, s.time.trans t.time,
    s.handed.trans t.handed, fun off lo ho hl => (s.cfg off lo ho hl).trans (t.cfg off lo ho hl)⟩

theorem Module.Turned.updCtx (f : Ctx → Ctx) : a.Turned h (b.updCtx h f) (f c) :=
  ⟨by rw [Module.ctx_updCtx_same, t.ctx], fun j hj => (b.ctx_updCtx_other hj f).trans (t.others j hj), t.mem, t.time, t.handed,
    t.cfg⟩

theorem Module.Turned.now : b.now = a.now := by rw [Module.now, t.time, Module.now]
theorem Module.Turned.ticks : b.ticks = a.ticks := by rw [Module.ticks, t.time, Module.ticks]

theorem Module.Turned.cplan (hp : c.plans = (a.ctx h).plans) (p : Nat) : b.cplan h p = a.cplan h p := by
  rw [Module.cplan, t.ctx, hp, Module.cplan]

end

section
variable {h : Nat} {a b : Module} {c : Ctx} {y : Plane} (t : a.Turned h b (c.one y))
include t

theorem Module.Turned.plane : b.plane h 0 = y := by
  rw [Module.plane, t.ctx]
  rfl

theorem Module.Turned.updPlane (f : Plane → Plane) : a.Turned h (b.updPlane h 0 f) (c.one (f y)) :=
  Module.Turned.updCtx t fun c => { c with planes := modAt c.planes 0 f }

theorem Module.Turned.touch (data : Bool) :
    a.Turned h (b.touch h 0 data) (c.one (y.touched data (b.ticks + us (b.collReg 0x020 0)))) := by
  have e := Module.Turned.updCtx t fun c => { c with planes := c.planes.zipIdx.map fun y =>
    if (y.1.dataOn || (data && y.2 == 0)) && y.1.runs then
      { y.1 with dataOn := true, dataDue := some (b.ticks + us (b.collReg 0x020 0)) } else y.1 }
  cases data <;> exact e

end

/-! ### Passes that find nothing to do -/

/-- The context and its plane wait: no tile step may go on, and no retained tile may be sent or freed. -/
structure Ctx.Still (c : Ctx) (y : Plane) : Prop where
  sig : c.sig.isSome = true
  summary : c.launched = false ∨ y.summary = true
  checked : y.checked = false
  steps : ∀ x ∈ y.steps, c.launched = false ∧ x.sent = false ∧
    ∀ k, (x.pieces.filter (·.1 == k)).length < (c.one y).geo.r.npieces ((c.one y).geo.inElems x.tile)
  rets : ∀ x ∈ y.rets, (x.dsts.all (·.acked)) = false ∧ (c.launched = false ∨ ∀ d ∈ x.dsts, d.due.isSome = true)
  xwait : y.xwait = [] ∨ (c.one y).geo.xchg = false

/-- Steps that each leave the state leave it together. -/
theorem foldl_fixed {α β : Type} {f : α → β → α} {l : List β} {a : α} (h : ∀ x ∈ l, f a x = a) : l.foldl f a = a :=
  List.foldlRecOn l f (motive := fun b => b = a) rfl fun b hb x hx => by rw [hb, h x hx]

section
variable {m : Module} {h : Nat} {c : Ctx} {y : Plane} (hc : m.ctx h = c.one y)
include hc

theorem Module.plane_one : m.plane h 0 = y := (Module.turned_refl hc).plane

theorem Module.summaryPass_still (hs : c.launched = false ∨ y.summary = true) : m.summaryPass h 0 = m := by
  unfold Module.summaryPass
  dsimp only
  rw [Module.plane_one hc, hc, if_pos]
  obtain hl | hl := hs
  · simp [Ctx.one, hl]
  · simp [hl]

/-- No child's PARTIAL of the step is complete. -/
theorem Module.joinKids_still {t : Nat} (hs : ∀ x ∈ y.steps, x.tile = t →
    ∀ k, (x.pieces.filter (·.1 == k)).length < (c.one y).geo.r.npieces ((c.one y).geo.inElems t)) :
    m.joinKids h 0 t = m := by
  unfold Module.joinKids
  refine foldl_fixed fun k _ => ?_
  rw [Module.plane_one hc, hc]
  split
  · rfl
  next x hx =>
    have hlt := hs x (List.mem_of_find?_eq_some hx) (by simpa using List.find?_some hx) k
    dsimp only
    rw [if_pos]
    simp [hlt]

theorem Module.stepPass_still (hl : c.launched = false) {t : Nat} (hs : ∀ x ∈ y.steps, x.tile = t →
    ∀ k, (x.pieces.filter (·.1 == k)).length < (c.one y).geo.r.npieces ((c.one y).geo.inElems t)) :
    m.stepPass h 0 t = m := by
  have hl' : (c.one y).launched = false := hl
  unfold Module.stepPass
  dsimp only
  rw [Module.joinKids_still hc hs]
  split
  · rfl
  · rw [if_pos]
    simp [hc, hl']

theorem Module.rootPass_still (hs : ∀ x ∈ y.steps, x.sent = false) : m.rootPass h 0 = m := by
  have hnone : y.steps.filter (·.sent) = [] := List.filter_eq_nil_iff.mpr fun x hx => by simp [hs x hx]
  unfold Module.rootPass
  dsimp only
  rw [Module.plane_one hc, hnone]
  simp only [List.map_nil, List.eraseDups_nil, List.foldl_nil]
  rw [Module.plane_one hc]
  refine foldl_fixed fun x hx => ?_
  obtain ⟨hx, hsent⟩ := List.mem_filter.mp hx
  simp [hs x hx] at hsent

theorem Module.sendRet_still {x : Ret} (ha : (x.dsts.all (·.acked)) = false)
    (hd : c.launched = false ∨ ∀ d ∈ x.dsts, d.due.isSome = true) : m.sendRet h 0 x = m := by
  have hnone : (x.dsts.filter fun d => d.due.isNone && !d.acked && m.gate h 0 d) = [] := by
    refine List.filter_eq_nil_iff.mpr fun d hmem => ?_
    obtain hl | hd := hd
    · simp [Module.gate, hc, Ctx.one, hl]
    · have hdue := hd d hmem
      rw [Option.isSome_iff_ne_none, ne_eq, ← Option.isNone_iff_eq_none] at hdue
      simp [hdue]
  unfold Module.sendRet
  rw [hnone]
  simp [ha]

theorem Module.sendPass_still (hr : ∀ x ∈ y.rets, (x.dsts.all (·.acked)) = false ∧
    (c.launched = false ∨ ∀ d ∈ x.dsts, d.due.isSome = true)) : m.sendPass h 0 = m := by
  unfold Module.sendPass
  rw [Module.plane_one hc]
  refine foldl_fixed fun x hx => ?_
  rw [Module.sendRet_still hc (hr x hx).1 (hr x hx).2, ite_self]

theorem Module.donePass_unchecked (hy : y.checked = false) : m.donePass h 0 = m := by
  unfold Module.donePass
  rw [Module.plane_one hc, if_pos (by simp [hy])]

/-- A plane that is over is not advanced. -/
theorem Module.advPlane_over (hr : y.runs = false) : m.advPlane h 0 = m := by
  unfold Module.advPlane
  rw [Module.plane_one hc, if_pos (by simp [hr])]

/-- The passes of a plane that waits, up to its end. -/
theorem Module.advPlane_waits (hu : c.used = true) (hr : y.runs = true) (hs : c.Still { y with checked := false }) :
    m.advPlane h 0 = m.donePass h 0 := by
  have hx : (if (c.one y).geo.xchg then m.xchgPass h 0 else m) = m := by
    obtain hx | hx := hs.xwait
    · have hw : y.xwait = [] := hx
      unfold Module.xchgPass
      rw [Module.plane_one hc, hw, List.foldl_nil, ite_self]
    · exact if_neg (by rw [show (c.one y).geo.xchg = false from hx]; decide)
  have hsteps (t : Nat) (x : TStep) (hx : x ∈ y.steps) (ht : x.tile = t) :
      ∀ k, (x.pieces.filter (·.1 == k)).length < (c.one y).geo.r.npieces ((c.one y).geo.inElems t) :=
    ht ▸ (hs.steps x hx).2.2
  have hred : (if (m.ctx h).geo.reduce then
        let m := ((m.plane h 0).steps.map (·.tile)).foldl (fun m t => m.stepPass h 0 t) m
        if (m.cplan h 0).isRoot then m.rootPass h 0 else m
      else if (m.ctx h).geo.xchg then m.xchgPass h 0 else m) = m := by
    have hfold : ((m.plane h 0).steps.map (·.tile)).foldl (fun m t => m.stepPass h 0 t) m = m := by
      rw [Module.plane_one hc]
      refine foldl_fixed fun t ht => ?_
      obtain ⟨x, hx, rfl⟩ := List.mem_map.mp ht
      exact Module.stepPass_still hc (hs.steps x hx).1 (hsteps x.tile)
    dsimp only
    rw [hfold, Module.rootPass_still hc fun x hx => (hs.steps x hx).2.1, hc, hx, ite_self, ite_self]
  have hsig : ((m.ctx h).sig).isNone = false := by
    have := hs.sig
    rw [hc]
    simpa [Ctx.one, Option.isSome_iff_ne_none] using this
  have hused : (m.ctx h).used = true := by
    rw [hc]
    exact hu
  unfold Module.advPlane
  rw [if_neg (by rw [Module.plane_one hc, hused, hr]; decide), Module.summaryPass_still hc hs.summary]
  dsimp only at hred ⊢
  rw [hred, if_neg (by rw [hused]; decide), if_neg (by rw [hsig]; decide), Module.sendPass_still hc hs.rets]

theorem Module.advPlane_still (hu : c.used = true) (hs : c.Still y) : m.advPlane h 0 = m := by
  cases hr : y.runs with
  | false => exact Module.advPlane_over hc hr
  | true =>
    have hy : { y with checked := false } = y := by
      rw [← hs.checked]
    rw [Module.advPlane_waits hc hu hr (hy.symm ▸ hs), Module.donePass_unchecked hc hs.checked]

/-- One plane advanced once, or twice in an exchange; the launch count has come before, or is still to come. -/
theorem Module.advance_one (hu : c.used = true) (hl : c.launched = true ∨ m.now < sgLaunch (c.sig.getD [])) :
    m.advance h = (if c.sig.isSome && (c.one y).geo.xchg then (m.advPlane h 0).advPlane h 0 else m.advPlane h 0).syncEntry h := by
  have hused : (c.one y).used = true := hu
  have hrange : List.range (c.one y).planes.length = [0] := rfl
  unfold Module.advance
  rw [hc]
  dsimp only
  rw [hused, if_neg (by decide), hrange,
    if_pos (by simpa using show (c.one y).launched = true ∨ m.now < sgLaunch ((c.one y).sig.getD []) from hl)]
  change Module.syncEntry (List.foldl _ _ (if c.sig.isSome && (c.one y).geo.xchg then _ else _)) h = _
  split <;> rfl

theorem Module.advance_fixed (hu : c.used = true) (hl : c.launched = true ∨ m.now < sgLaunch (c.sig.getD []))
    (hp : m.advPlane h 0 = m) : m.advance h = m.syncEntry h := by
  rw [Module.advance_one hc hu hl, hp, hp, ite_self]

theorem Module.advance_still (hu : c.used = true) (hl : c.launched = true ∨ m.now < sgLaunch (c.sig.getD []))
    (hs : c.Still y) : m.advance h = m.syncEntry h :=
  Module.advance_fixed hc hu hl (Module.advPlane_still hc hu hs)

end

/-! ### The end of an event (R255, R329) -/

/-- No tile step of a context waits at its root for room in the retention area. -/
def Ctx.Unsent (c : Ctx) : Prop := ∀ y ∈ c.planes, ∀ x ∈ y.steps, x.sent = false

theorem Module.resume_unsent {m : Module} (hm : ∀ j, (m.ctx j).Unsent) : m.resume = m := by
  unfold Module.resume
  refine foldl_fixed fun j _ => if_neg ?_
  have hnone : ((m.ctx j).planes.any fun y => y.runs && y.steps.any (·.sent)) = false := by
    simp only [List.any_eq_false, Bool.and_eq_true, List.any_eq_true, not_and, not_exists]
    exact fun y hy _ x hx => by simp [hm j y hy x hx]
  simp [hnone]

theorem Module.swept_eq (m x : Module) : ∃ v, m.swept x = { x with store := v } := by
  unfold Module.swept
  split
  · refine List.foldlRecOn _ _ (motive := fun n : Module => ∃ v, n = { x with store := v }) ⟨x.store, rfl⟩
      fun n ⟨v, hv⟩ k _ => ?_
    obtain ⟨-, e⟩ | ⟨-, e⟩ := n.freeRes_cases k <;> rw [e]
    · exact ⟨v, hv⟩
    · exact ⟨(n.freeRes k).store, by rw [hv]⟩
  · exact ⟨x.store, rfl⟩

/-- The end of an event changes the store alone, where no tile step waits for room. -/
theorem Module.collEvent_eq {m : Module} {f : Module → Module} (hf : ∀ j, ((f m).ctx j).Unsent) :
    ∃ v, m.collEvent f = { f m with store := v } := by
  unfold Module.collEvent
  rw [Module.resume_unsent hf]
  exact m.swept_eq _

theorem Module.unsent_of_others {m b : Module} {h : Nat} (hr : Rests m) (ho : OtherCtxs h m b) (hb : (b.ctx h).Unsent) (j : Nat) :
    (b.ctx j).Unsent := by
  by_cases hj : j = h
  · exact hj ▸ hb
  · rw [ho j hj]
    exact hr.1 j

/-- A packet that reaches its open context: the row performs its effect as one event. -/
theorem Module.collIn_reaches {m : Module} {p : Pkt} {type : Nat} (hr : Reaches m p type) (alloc : Bool) (f : Module → Module) :
    (m.taken p).collIn p alloc f = (m.taken p).collEvent f := by
  obtain ⟨⟨-, hgood, hfence, haddr⟩, -, hused, hpart, hdist, hempty, hdone, hctx, -⟩ := hr
  have hf' : (m.taken p).fromFenced p = false := hfence
  have ha' : (m.taken p).addressed p.h = true := haddr
  have hg' : (m.taken p).grp (p.h.tag / 65536) = m.grp (p.h.tag / 65536) := rfl
  have hd' : (m.taken p).handleDist p.h.tag = m.handleDist p.h.tag := rfl
  have hs' : (m.taken p).handleSeq p.h.tag = m.handleSeq p.h.tag := rfl
  have hc' : (m.taken p).ctx p.h.tag = m.ctx p.h.tag := rfl
  unfold Module.collIn
  dsimp only
  rw [hf', ha', hg', hd', hs', hc', hgood, hused, hctx, hempty, hdone, if_neg (by decide), if_neg (by decide),
    if_neg (by simp [hpart])]
  cases alloc
  · rfl
  · rw [if_neg (by decide), if_neg (by omega), if_neg (by omega), if_neg (by decide), if_neg (by decide), if_pos rfl]

theorem Rests.taken {m : Module} (h : Rests m) (p : Pkt) : Rests (m.taken p) := h

/-- The row of a packet that reaches its open context: its effect, beside the store. -/
theorem Module.row_reaches {m : Module} {p : Pkt} {type : Nat} (hr : Reaches m p type) (alloc : Bool) {f : Module → Module}
    (ho : OtherCtxs p.h.tag m (f (m.taken p))) (hu : ((f (m.taken p)).ctx p.h.tag).Unsent)
    (hh : (f (m.taken p)).net.handed = m.net.handed.erase p) :
    ∃ v, m.perform p type (fun m => m.collIn p alloc f) = { f (m.taken p) with store := v } := by
  obtain ⟨v, e⟩ := Module.collEvent_eq (Module.unsent_of_others (Rests.taken hr.2.1 p) ho hu)
  have ei : (m.taken p).collIn p alloc f = { f (m.taken p) with store := v } := (Module.collIn_reaches hr alloc f).trans e
  refine ⟨v, ?_⟩
  rw [Module.perform_eq hr.1.1 (by rw [ei]; exact hh), ei]

/-- The row of a packet whose effect leaves the engine's state. -/
theorem Module.row_beside {m : Module} {p : Pkt} {type : Nat} (hr : Reaches m p type) (alloc : Bool) {f : Module → Module}
    {n : Module} (e : f (m.taken p) = n) (s : (m.taken p).Beside n) :
    ∃ v, m.perform p type (fun m => m.collIn p alloc f) = { n with store := v } := by
  have hrow := Module.row_reaches hr alloc (f := f) (fun j _ => by rw [e]; exact s.ctx j)
    (by rw [e, s.ctx]; exact hr.2.1.1 _) (by rw [e]; exact s.handed)
  rwa [e] at hrow

theorem Module.Turned.event {m : Module} {h : Nat} {f : Module → Module} {c : Ctx} (t : m.Turned h (f m) c) (hr : Rests m)
    (hc : c.Unsent) : m.Turned h (m.collEvent f) c := by
  obtain ⟨v, e⟩ := Module.collEvent_eq (Module.unsent_of_others hr t.others (t.ctx ▸ hc))
  rw [e]
  exact t.beside ((Module.Beside.refl _).store v)

theorem Module.Turned.row {m : Module} {p : Pkt} {type : Nat} {c : Ctx} (hr : Reaches m p type) (alloc : Bool) {f : Module → Module}
    (t : (m.taken p).Turned p.h.tag (f (m.taken p)) c) (hc : c.Unsent) :
    (m.taken p).Turned p.h.tag (m.perform p type fun m => m.collIn p alloc f) c := by
  obtain ⟨v, e⟩ := Module.row_reaches hr alloc t.others (t.ctx ▸ hc) t.handed
  rw [e]
  exact t.beside ((Module.Beside.refl _).store v)

end Sys2Proof.Machine
end

section
/-!
The end of a plane and of its context, and what a failure, a notice and the check leave of a context of one plane (R244, R251,
R281, R282).
-/
namespace Sys2Proof.Machine
open Sys2Proof.Claims

/-! ### The end of a context (R251, R282) -/

/-- `b` is `a` with another context of handle `h`, and whatever befell its memory, tracker and groups. -/
structure Module.Apart (h : Nat) (a b : Module) (c : Ctx) : Prop where
  ctx : b.ctx h = c
  others : OtherCtxs h a b
  time : b.time = a.time
  handed : b.net.handed = a.net.handed

theorem Module.Turned.apart {h : Nat} {a b : Module} {c : Ctx} (t : a.Turned h b c) : a.Apart h b c :=
  ⟨t.ctx, t.others, t.time, t.handed⟩

theorem Module.Apart.ite {h : Nat} {a b b' : Module} {c : Ctx} {q : Prop} [Decidable q] (hb : q → a.Apart h b c)
    (hb' : ¬ q → a.Apart h b' c) : a.Apart h (if q then b else b') c := by
  split
  · exact hb ‹_›
  · exact hb' ‹_›

theorem Module.bytesStored_storeTile (m : Module) (i t off : Nat) (d : Bytes) :
    ∃ addr d' flip, m.BytesStored (m.storeTile i t off d) i addr d' flip := by
  cases hf : (m.obj i).firstWrite t with
  | true => exact ⟨_, _, _, Module.storeTile_first hf off d⟩
  | false => exact ⟨_, _, _, Module.storeTile_again hf off d⟩

theorem Module.Beside.closeEntry {a b : Module} (s : a.Beside b) (i : Nat) : a.Beside (b.closeEntry i) := by
  unfold Module.closeEntry
  split
  · exact s
  next e _ =>
    refine .ite (fun _ => ?_) fun _ => s
    refine .count (off := if e.st == 4 then 0x110 else 0x108) ?_ 1 (.inl (by decide)) (by split <;> decide)
    exact (s.updEntry _ _).trk _

section
variable {h : Nat} {a b : Module} {c : Ctx} (t : a.Apart h b c)
include t

theorem Module.Apart.beside {d : Module} (s : b.Beside d) : a.Apart h d c :=
  ⟨(s.ctx h).trans t.ctx, fun j hj => (s.ctx j).trans (t.others j hj), s.time.trans t.time, s.handed.trans t.handed⟩

theorem Module.Apart.updCtx (f : Ctx → Ctx) : a.Apart h (b.updCtx h f) (f c) :=
  ⟨by rw [Module.ctx_updCtx_same, t.ctx], fun j hj => (b.ctx_updCtx_other hj f).trans (t.others j hj), t.time, t.handed⟩

theorem Module.Apart.storeTile (i k off : Nat) (d : Bytes) : a.Apart h (b.storeTile i k off d) c := by
  obtain ⟨_, _, _, _, _, _, _, _, -, e⟩ := b.bytesStored_storeTile i k off d
  rw [e]
  exact ⟨t.ctx, t.others, t.time, t.handed⟩

theorem Module.Apart.check1 (handle tile k use : Nat) : a.Apart h (b.check1 handle tile k use) c :=
  t.beside ((Module.Beside.refl _).check1 _ _ _ _)

theorem Module.Apart.land (handle k off part : Nat) (d : Bytes) : a.Apart h (b.land handle k off part d).1 c := by
  unfold Module.land
  split
  · exact t
  next i _ =>
    have tn : a.Apart h (if b.landStatus handle k part == St.ok && d.length != 2048 then
        b.check1 handle k (b.present (b.obj i) k) 3 else b) c := by
      split
      · exact t.check1 _ _ _ _
      · exact t
    exact .ite (fun _ => tn.storeTile _ _ _ _) fun _ => tn

theorem Module.Apart.landComplete (handle p part : Nat) (pl : Bytes) : a.Apart h (b.landComplete handle p part pl) c := by
  have tl := t.land handle 0 (64 * p) part pl
  unfold Module.landComplete
  split
  next m st e =>
    rw [e] at tl
    split
    · exact tl
    · split
      · exact tl.storeTile _ _ _ _
      · exact tl

theorem Module.Apart.completeTo (p status : Nat) (pl : Bytes) (l : Loc) : a.Apart h (b.completeTo h p status pl l) c := by
  have hb : swBlk (l.port / 32) 10 ≠ hubBlk 1 ∨ 0x100 ≤ 0x120 := .inr (by decide)
  unfold Module.completeTo
  split
  · exact t.beside ((Module.Beside.refl _).count 1 hb (by decide))
  · split
    · exact t.landComplete _ _ _ _
    · exact t.beside ((Module.Beside.refl _).originate _ _ _ _ _)

theorem Module.Apart.foldl {α : Type} {f : Module → α → Module} (hf : ∀ m x, a.Apart h m c → a.Apart h (f m x) c) (l : List α) :
    a.Apart h (l.foldl f b) c :=
  List.foldlRecOn l f (motive := fun n => a.Apart h n c) t fun n hn x _ => hf n x hn

/-- A number done changes its group alone. -/
theorem Module.Apart.seqDone (g seq : Nat) : a.Apart h (b.seqDone g seq) c := by
  unfold Module.seqDone
  dsimp only
  split
  · exact t
  · exact ⟨t.ctx, t.others, t.time, t.handed⟩

/-- The context of the handle is gone. -/
theorem Module.Apart.freeCtx : a.Apart h (b.freeCtx h) {} := by
  have td : a.Apart h { b.syncEntry h with coll := { (b.syncEntry h).coll with ctxs := (b.syncEntry h).coll.ctxs.del h } } {} := by
    have ts := t.beside ((Module.Beside.refl _).syncEntry h)
    exact ⟨Tab.get_del_same _ _, fun j hj => (Tab.get_del_other _ hj).trans (ts.others j hj), ts.time, ts.handed⟩
  have tc := (td.seqDone (h / 65536) (b.ctx h).seq).beside ((Module.Beside.refl _).collCount (off := 0x108) 1 (by decide) (by decide))
  have hb : hubBlk 2 ≠ hubBlk 1 := by decide
  unfold Module.freeCtx
  dsimp only
  have te := (tc.beside (.ite (p := ((b.ctx h).sig.isSome && (b.ctx h).geo.op == 7) = true)
    (fun _ => (Module.Beside.refl _).count (blk := hubBlk 2) (off := 0x128) 1 (.inl hb) (by decide)) fun _ => .refl _)).beside
    ((Module.Beside.refl _).updEntry (b.ctx h).entry fun e => { e with status := (b.ctx h).status, ended := true })
  split
  · split
    · exact te.beside ((Module.Beside.refl _).closeEntry _)
    · exact te
  · exact te

end

theorem Module.Apart.updPlane {h : Nat} {a b : Module} {c : Ctx} {y : Plane} (t : a.Apart h b (c.one y)) (f : Plane → Plane) :
    a.Apart h (b.updPlane h 0 f) (c.one (f y)) :=
  t.updCtx fun c => { c with planes := modAt c.planes 0 f }

/-- With its last plane the context ends. -/
theorem Module.Apart.lastPlane {h : Nat} {a b : Module} {c : Ctx} (t : a.Apart h b c)
    (hc : (c.planes.all fun y => !y.on || y.ended) = true) :
    a.Apart h (if (b.ctx h).planes.all fun y => !y.on || y.ended then b.freeCtx h else b.syncEntry h) {} := by
  rw [t.ctx, if_pos hc]
  exact t.freeCtx

/-- The one plane of a context ends: the context is gone. -/
theorem Module.Apart.endPlane {h : Nat} {a b : Module} {c : Ctx} {y : Plane} (t : a.Apart h b (c.one y)) (status : Nat) (pl : Bytes) :
    a.Apart h (b.endPlane h 0 status pl) {} := by
  have tk := t.beside (.foldl (fun n k => (Module.Beside.refl n).toChip h k.chip 0x12 (w7 status 4) 0 pl none)
    (b.cplan h 0).kids (.refl b))
  have tl (l : List Loc) := tk.foldl (fun m x (tm : a.Apart h m _) => tm.completeTo 0 status pl x) l
  unfold Module.endPlane
  exact Module.Apart.lastPlane (((tl _).beside ((Module.Beside.refl _).updEntry _ _)).updPlane _ |>.updCtx _) (by simp [Ctx.one])

theorem Module.Apart.event {m : Module} {h : Nat} {f : Module → Module} {c : Ctx} (t : m.Apart h (f m) c) (hr : Rests m)
    (hc : c.Unsent) : m.Apart h (m.collEvent f) c := by
  obtain ⟨v, e⟩ := Module.collEvent_eq (Module.unsent_of_others hr t.others (t.ctx ▸ hc))
  rw [e]
  exact ⟨t.ctx, t.others, t.time, t.handed⟩

theorem Module.Apart.row {m : Module} {p : Pkt} {type : Nat} {c : Ctx} (hr : Reaches m p type) (alloc : Bool) {f : Module → Module}
    (t : (m.taken p).Apart p.h.tag (f (m.taken p)) c) (hc : c.Unsent) :
    (m.taken p).Apart p.h.tag (m.perform p type fun m => m.collIn p alloc f) c := by
  obtain ⟨v, e⟩ := Module.row_reaches hr alloc t.others (t.ctx ▸ hc) t.handed
  rw [e]
  exact ⟨t.ctx, t.others, t.time, t.handed⟩

/-! ### A plane told of, and done -/

/-- The plane over with a status, and its notice to the parent running. -/
def Plane.noticed (y : Plane) (status due : Nat) : Plane :=
  { y with fail := if status == St.chunkLost then y.fail else some status, sub := some status, probes := 0, probeDue := some due }

/-- The plane with another notice to the parent, and its repeats. -/
def Plane.probing (y : Plane) (sub : Option Nat) (probes : Nat) (due : Option Nat) : Plane :=
  { y with sub := sub, probes := probes, probeDue := due }

section
variable {h : Nat} {a b : Module} {c : Ctx} {y : Plane} (t : a.Turned h b (c.one y))
include t

theorem Module.Turned.noticeUp (status : Nat) : ∃ due, a.Turned h (b.noticeUp h 0 status) (c.one (y.noticed status due)) :=
  ⟨_, (t.beside ((Module.Beside.refl _).planeNotice _ _ _ _)).updPlane _⟩

/-- A running plane fails at a module that is not its root. -/
theorem Module.Turned.planeFail (hp : c.plans = (a.ctx h).plans) (hroot : (a.cplan h 0).isRoot = false) (hr : y.runs = true)
    (status reason member : Nat) :
    ∃ due, a.Turned h (b.planeFail h 0 status reason member) (c.one (y.noticed status due)) := by
  have tf := t.beside ((Module.Beside.refl _).collFailed h 0 reason status member none)
  unfold Module.planeFail
  dsimp only
  rw [t.plane, hr, if_pos rfl, t.cplan hp, hroot, if_neg (by decide)]
  exact tf.noticeUp status

/-- A plane that is done says so to its parent, or goes on. -/
theorem Module.Turned.donePass (hp : c.plans = (a.ctx h).plans) (hroot : (a.cplan h 0).isRoot = false) :
    ∃ st n due, a.Turned h (b.donePass h 0) (c.one (y.probing st n due)) := by
  unfold Module.donePass
  dsimp only
  rw [t.plane, t.cplan hp, hroot]
  split
  · exact ⟨y.sub, y.probes, y.probeDue, t⟩
  · rw [if_neg (by decide)]
    split
    · exact ⟨y.sub, y.probes, y.probeDue, t⟩
    · exact ⟨_, _, _, (t.beside ((Module.Beside.refl _).toChip _ _ _ _ _ _ _)).updPlane _⟩

/-- A plane found checked, in a collective that is no barrier, has its data timer, which starts here or has started. -/
theorem Module.Turned.check_ (hop : (c.one y).geo.op ≠ 7) : ∃ due, a.Turned h (b.check_ h 0)
    (c.one { y.timed true (if y.dataOn then y.dataDue else some due) with checked := true }) := by
  have tk := t.beside (.foldl (fun n k => (Module.Beside.refl n).toChip h k.chip 0x12 (w7 0 3) 0 [] none)
    (b.cplan h 0).kids (.refl b))
  have hne : ((c.one y).geo.op != 7) = true := by simpa using hop
  have heq : ((c.one y).geo.op == 7) = false := by simpa using hop
  unfold Module.check_
  dsimp only
  rw [tk.ctx, hne, heq]
  simp only [Bool.or_true, Bool.or_false]
  exact ⟨_, tk.updPlane _⟩

end

end Sys2Proof.Machine
end

section
/-!
A context of one plane that stages for its launch count: what it has open, and what it keeps of an event (R246).
-/
namespace Sys2Proof.Machine
open Sys2Proof.Claims

section
variable {m : Module} {h : Nat} {c : Ctx} {y : Plane} {sg : Bytes} (s : Staging m h c y sg)
include s

theorem Staging.ctx : m.ctx h = c := s.1
theorem Staging.used : c.used = true := s.2.1
theorem Staging.planes : c.planes = [y] := s.2.2.1
theorem Staging.launched : c.launched = false := s.2.2.2.1
theorem Staging.sig : c.sig = some sg := s.2.2.2.2.1

theorem Staging.one : m.ctx h = c.one y := by
  rw [Ctx.one_of_planes (Staging.planes s), Staging.ctx s]

theorem Staging.plans : c.plans = (m.ctx h).plans := by rw [Staging.ctx s]

theorem Staging.geo (z : Plane) : (c.one z).geo = c.geo := Ctx.geo_one (Staging.planes s) z

theorem Staging.runs : y.runs = true := by
  obtain ⟨-, -, -, -, -, -, hon, hend, hfail, -⟩ := s
  simp [Plane.runs, hon, hend, hfail]

theorem Staging.due : c.launched = true ∨ m.now < sgLaunch (c.sig.getD []) := by
  obtain ⟨-, -, -, -, hsig, hnow, -⟩ := s
  rw [hsig]
  exact .inr hnow

/-- A context whose signature has come, and a plane of it, wait as long as no tile step is sent, every child's PARTIAL is
incomplete and every retained tile is awaited. -/
theorem Staging.still_of {z : Plane} (hchk : z.checked = false) (hx : z.xwait = [])
    (hst : ∀ x ∈ z.steps, x.sent = false ∧
      ∀ k, (x.pieces.filter (·.1 == k)).length < (c.one z).geo.r.npieces ((c.one z).geo.inElems x.tile))
    (hr : ∀ x ∈ z.rets, (x.dsts.all (·.acked)) = false) : c.Still z :=
  ⟨by rw [Staging.sig s]; rfl, .inl (Staging.launched s), hchk, fun x hx => ⟨Staging.launched s, hst x hx⟩,
    fun x hx => ⟨hr x hx, .inl (Staging.launched s)⟩, .inl hx⟩

theorem Staging.still : c.Still y := by
  obtain ⟨-, -, -, -, -, -, -, -, -, hchk, hsteps, hrets, -, hx, -⟩ := id s
  exact Staging.still_of s hchk hx (by rw [hsteps]; nofun) (by rw [hrets]; nofun)

theorem Staging.checked : y.checked = false := (Staging.still s).checked

end

theorem Ctx.Still.unsent {c : Ctx} {y : Plane} (hs : c.Still y) : (c.one y).Unsent := fun z hz x hx => by
  obtain rfl := List.mem_singleton.mp hz
  exact (hs.steps x hx).2.1

theorem Ctx.unsent_one {c : Ctx} {y : Plane} (hs : ∀ x ∈ y.steps, x.sent = false) : (c.one y).Unsent := fun z hz => by
  obtain rfl := List.mem_singleton.mp hz
  exact hs

theorem Ctx.unsent_default : ({} : Ctx).Unsent := fun _ hz => absurd hz List.not_mem_nil

theorem Ctx.geo_op {c : Ctx} {sg : Bytes} (h : c.sig = some sg) : c.geo.op = sgOp sg := by
  simp [Ctx.geo, Ctx.blind, h]

theorem Geo.xchg_reduce {g : Geo} (h : g.op < 3) : g.xchg = false := by
  unfold Geo.xchg
  simp only [Bool.or_eq_false_iff, beq_eq_false_iff_ne, ne_eq]
  omega

theorem Plane.touched_due {y : Plane} (hr : y.runs = true) (data : Bool) (due : Nat) :
    (y.touched data due).dataOn = true → (y.touched data due).dataDue.isSome = true := by
  unfold Plane.touched
  cases hon : y.dataOn <;> cases data <;> simp [hr, hon]

/-- A plane that waits is as it was after the passes of its context. -/
theorem Module.Turned.advance {h : Nat} {a b : Module} {c : Ctx} {y : Plane} (t : a.Turned h b (c.one y)) (hu : c.used = true)
    (hl : c.launched = true ∨ a.now < sgLaunch (c.sig.getD [])) (hs : c.Still y) : a.Turned h (b.advance h) (c.one y) := by
  rw [Module.advance_still t.ctx hu (by rw [t.now]; exact hl) hs]
  exact t.beside ((Module.Beside.refl _).syncEntry h)

/-- So is one that is over. -/
theorem Module.Turned.advance_over {h : Nat} {a b : Module} {c : Ctx} {y : Plane} (t : a.Turned h b (c.one y)) (hu : c.used = true)
    (hl : c.launched = true ∨ a.now < sgLaunch (c.sig.getD [])) (hr : y.runs = false) : a.Turned h (b.advance h) (c.one y) := by
  rw [Module.advance_fixed t.ctx hu (by rw [t.now]; exact hl) (Module.advPlane_over t.ctx hr)]
  exact t.beside ((Module.Beside.refl _).syncEntry h)

theorem Reaches.isKind {m : Module} {p : Pkt} {type kind : Nat} (hr : Reaches m p type) (hk : kindOf p = kind) :
    isKind p type kind = true := by
  have ht : p.h.type = type := hr.1.1.2.1
  simp [Machine.isKind, ht, hk]

end Sys2Proof.Machine
end

section
/-!
The check of a plane and its end (R244, R251, R281, R282, R286, R288).
-/
namespace Sys2Proof.Machine
open Sys2Proof.Claims

/-! ### SUMMARY, CHECKED and COMPLETE -/

theorem Plane.noticed_runs (y : Plane) {status : Nat} (hst : status ≠ St.chunkLost) (due : Nat) :
    (y.noticed status due).runs = false := by
  simp [Plane.noticed, Plane.runs, hst]

/-- The plane with a child's SUMMARY, as the engine keeps it, and with the first one, of 32 bytes. -/
def Plane.addSum (y : Plane) (p : Pkt) : Plane :=
  { y with
    wide := y.wide || 64 ≤ p.pl.length
    sums := y.sums ++ [(p.h.src, fieldBE p.pl 16 4 % 2 ^ 18, if 64 ≤ p.pl.length then fieldBE p.pl 32 16 else 0,
      if 64 ≤ p.pl.length then fieldBE p.pl 48 16 else 0)] }
def Plane.withSum (y : Plane) (p : Pkt) : Plane := { y with sums := [(p.h.src, fieldBE p.pl 16 4 % 2 ^ 18, 0, 0)] }

theorem Plane.addSum_short {y : Plane} {p : Pkt} (hlen : p.pl.length = 32) (hsums : y.sums = []) : y.addSum p = y.withSum p := by
  simp [Plane.addSum, Plane.withSum, hlen, hsums]

theorem Ctx.Still.withSum {c : Ctx} {y : Plane} (s : c.Still y) (p : Pkt) : c.Still (y.withSum p) :=
  ⟨s.sig, s.summary, s.checked, s.steps, s.rets, s.xwait⟩

section
variable {m : Module} {p : Pkt} {c : Ctx} {y : Plane} {sg : Bytes} (hoff : p.h.offset % 8 = 0) (s : Staging m p.h.tag c y sg)
include hoff s

section
variable {k : Child} {dig : Bytes}
  (hkid : (m.cplan p.h.tag 0).kids.find? (·.chip == p.h.src) = some k) (hlen : p.pl.length = 32) (hsums : y.sums = [])
  (hon : y.dataOn = false) (hn : fieldBE p.pl 16 4 % 2 ^ 18 ≤ k.hi + 1 - k.lo)
include hkid hlen hsums hon hn

theorem applySummary_digest : ∃ n : Module, (m.taken p).Turned p.h.tag n (c.one (y.withSum p)) ∧
    (m.taken p).applySummary p.h.tag p = n.digestIn p.h.tag 0 (p.pl.take 16) 131071 := by
  have t0 : (m.taken p).Turned p.h.tag (m.taken p) (c.one y) := Module.turned_refl (Staging.one s)
  have t := (t0.touch false).updPlane (·.addSum p)
  rw [Plane.touched_off hon, Plane.addSum_short hlen hsums] at t
  refine ⟨_, t, ?_⟩
  unfold Module.applySummary
  dsimp only
  rw [hoff, t0.plane, show (m.taken p).cplan p.h.tag 0 = m.cplan p.h.tag 0 from rfl, hkid]
  dsimp only
  rw [if_neg (by simp [Staging.runs s, hlen, hsums]), if_neg (by omega)]
  rfl

section
variable (hr : Reaches m p 0x11) (hk : kindOf p = 4) (hdig : y.first = some dig)
include hr hk hdig

theorem summary_kept (hd : dig = p.pl.take 16) :
    (m.taken p).Turned p.h.tag (summary p m) (c.one (y.withSum p)) := by
  obtain ⟨n, t, e⟩ := applySummary_digest hoff s hkid hlen hsums hon hn
  have still : c.Still (y.withSum p) := (Staging.still s).withSum p
  have hf : (y.withSum p).first = some dig := hdig
  unfold summary
  rw [if_neg (by simp [Reaches.isKind hr hk])]
  refine Module.Turned.row hr true ?_ still.unsent
  rw [e, Module.digestIn, t.plane, hf]
  dsimp only
  rw [if_pos (by simp [hd])]
  exact t.advance (Staging.used s) (Staging.due s) still

theorem summary_mismatch (hroot : (m.cplan p.h.tag 0).isRoot = false) (hd : dig ≠ p.pl.take 16) :
    ∃ due, (m.taken p).Turned p.h.tag (summary p m) (c.one ((y.withSum p).noticed St.mismatch due)) := by
  obtain ⟨n, t, e⟩ := applySummary_digest hoff s hkid hlen hsums hon hn
  have still : c.Still (y.withSum p) := (Staging.still s).withSum p
  have hf : (y.withSum p).first = some dig := hdig
  have hy : (y.withSum p).on = true := (s.2.2.2.2.2.2.1 :)
  have hruns := Staging.runs s
  obtain ⟨due, tf⟩ := t.planeFail (Staging.plans s) hroot hruns St.mismatch 1 131071
  unfold summary
  rw [if_neg (by simp [Reaches.isKind hr hk])]
  refine ⟨due, Module.Turned.row hr true ?_ (Ctx.unsent_one fun x hx => (still.steps x hx).2.1)⟩
  rw [e, Module.digestIn, t.plane, hf]
  dsimp only
  rw [if_neg (by simp [hd, hy])]
  exact tf.advance_over (Staging.used s) (Staging.due s) ((y.withSum p).noticed_runs (by decide) due)

end
end

/-- CHECKED from the parent. -/
theorem checked_kept (hop : sgOp sg < 3) (hroot : (m.cplan p.h.tag 0).isRoot = false) (hr : Reaches m p 0x12) (hk : kindOf p = 3)
    (hpar : (m.cplan p.h.tag 0).parent = p.h.src) : ∃ due st n pd, due.isSome = true ∧
      (m.taken p).Turned p.h.tag (checked p m) (c.one ({ y.timed true due with checked := true }.probing st n pd)) := by
  have t0 : (m.taken p).Turned p.h.tag (m.taken p) (c.one y) := Module.turned_refl (Staging.one s)
  have hop' : c.geo.op < 3 := by rw [Ctx.geo_op (Staging.sig s)]; exact hop
  have still := Staging.still s
  have hruns := Staging.runs s
  have tt := t0.touch false
  have hdue := Plane.touched_due hruns false ((m.taken p).ticks + us ((m.taken p).collReg 0x020 0))
  obtain ⟨o, d, e⟩ := y.touched_eq false ((m.taken p).ticks + us ((m.taken p).collReg 0x020 0))
  rw [e] at tt hdue
  obtain ⟨due, tc⟩ := tt.check_ (by rw [Staging.geo s]; omega)
  obtain ⟨st, n, pd, td⟩ := tc.donePass (Staging.plans s) hroot
  refine ⟨if o then d else some due, st, n, pd, ?_, ?_⟩
  · cases o with
    | false => rfl
    | true => exact hdue rfl
  · unfold checked
    rw [if_neg (by simp [Reaches.isKind hr hk])]
    refine Module.Turned.row hr false ?_ (Ctx.unsent_one fun x hx => (still.steps x hx).2.1)
    dsimp only
    rw [hoff, t0.plane, still.checked, hruns, show ((m.taken p).cplan p.h.tag 0).parent = p.h.src from hpar,
      if_neg (by simp), Module.advance_one tc.ctx (Staging.used s) (by rw [tc.now]; exact Staging.due s), Staging.geo s,
      Geo.xchg_reduce hop', Bool.and_false, if_neg (by decide),
      Module.advPlane_waits tc.ctx (Staging.used s) hruns
        ⟨still.sig, still.summary, rfl, still.steps, still.rets, still.xwait⟩]
    exact td.beside ((Module.Beside.refl _).syncEntry _)

/-- COMPLETE from the parent. -/
theorem complete_freed (hr : Reaches m p 0x12) (hk : kindOf p = 4)
    (hpar : (m.cplan p.h.tag 0).parent = p.h.src) : (m.taken p).Apart p.h.tag (complete p m) {} := by
  have t0 : (m.taken p).Turned p.h.tag (m.taken p) (c.one y) := Module.turned_refl (Staging.one s)
  have hy : y.on = true ∧ y.ended = false := ⟨s.2.2.2.2.2.2.1, s.2.2.2.2.2.2.2.1⟩
  unfold complete
  rw [if_neg (by simp [Reaches.isKind hr hk])]
  refine Module.Apart.row hr false ?_ Ctx.unsent_default
  dsimp only
  rw [hoff, t0.plane, hy.1, hy.2, show ((m.taken p).cplan p.h.tag 0).parent = p.h.src from hpar, if_neg (by simp)]
  exact (t0.touch false).apart.endPlane _ _

end

end Sys2Proof.Machine

namespace Sys2Proof.Proofs
open Sys2Proof.Machine Sys2Proof.Claims

/-- Settles O51: a SUMMARY and CHECKED leave a plane that waits, or one that is over; COMPLETE leaves no context. -/
theorem planesAreCheckedAndEnd : Obligations.PlanesAreCheckedAndEnd := by
  unfold Obligations.PlanesAreCheckedAndEnd
  intro s p c y sg dig k h n hoff hs hop hroot
  refine ⟨fun hr hk hkid hlen hsums hon hdig hn => ⟨fun hd => ?_, fun hd => ?_⟩, fun hr hk hpar => ?_, fun hr hk hpar => ?_⟩
  · have t := summary_kept hoff hs hkid hlen hsums hon hn hr hk hdig hd
    exact completes_withM (summary p) rfl ⟨t.others, t.plane⟩
  · obtain ⟨due, t⟩ := summary_mismatch hoff hs hkid hlen hsums hon hn hr hk hdig hroot hd
    refine completes_withM (summary p) rfl ⟨t.others, ?_⟩
    rw [t.plane]
    exact ⟨rfl, rfl⟩
  · obtain ⟨due, _, _, _, hdue, t⟩ := checked_kept hoff hs hop hroot hr hk hpar
    obtain ⟨-, -, -, -, -, -, -, -, -, -, hsteps, -⟩ := hs
    refine completes_withM (checked p) rfl ⟨t.others, ?_⟩
    rw [t.plane]
    exact ⟨rfl, hsteps, hdue, t.mem⟩
  · have t := complete_freed hoff hs hr hk hpar
    exact completes_withM (complete p) rfl ⟨t.others, by rw [t.ctx]⟩

end Sys2Proof.Proofs
end

section
/-!
Fields of the packets that the collective engine makes (R85, R86, R238, R251).
-/
namespace Sys2Proof
open Sys2Proof.Machine

/-! ### Headers of the module's own packets -/

section
variable {type vc dest src part tag tw off : Nat} (pl : Bytes)

/-- HDR_CHECK and the length leave the first word, the offset's words and the TYPE_WORD of a header. -/
theorem Hdr.made_type (h : Hdr) : (Pkt.make h pl).h.type = h.type := rfl
theorem Hdr.made_dest (h : Hdr) : (Pkt.make h pl).h.dest = h.dest := rfl
theorem Hdr.made_tw (h : Hdr) : (Pkt.make h pl).h.tw = h.tw := rfl

theorem Hdr.setCheck_offset (h : Hdr) (v : Nat) : (h.setCheck v).offset = h.offset := by
  simp only [Hdr.offset, Hdr.setCheck, wbits, wset, bits, setBits, BitVec.toNat_ofNat]
  omega

theorem Hdr.made_offset (h : Hdr) : (Pkt.make h pl).h.offset = h.offset := by
  unfold Pkt.make Hdr.sealed
  rw [Hdr.setCheck_offset]
  rfl

theorem mkHdr_type (ht : type < 256) (hv : vc < 8) (hd : dest < 2 ^ 17) :
    (mkHdr type vc dest src part tag tw off).type = type := by
  simp only [Hdr.type, mkHdr, Hdr.setOffset, wbits, bits, BitVec.toNat_ofNat]
  omega

theorem mkHdr_dest (hd : dest < 2 ^ 17) : (mkHdr type vc dest src part tag tw off).dest = dest := by
  simp only [Hdr.dest, mkHdr, Hdr.setOffset, wbits, bits, BitVec.toNat_ofNat]
  omega

theorem mkHdr_tw (ht : tw < 2 ^ 32) : (mkHdr type vc dest src part tag tw off).tw = tw := by
  simp only [Hdr.tw, mkHdr, Hdr.setOffset, BitVec.toNat_ofNat]
  omega

theorem mkHdr_offset (ho : off < 2 ^ 47) : (mkHdr type vc dest src part tag tw off).offset = off := by
  simp only [Hdr.offset, mkHdr, Hdr.setOffset, wbits, wset, bits, setBits, BitVec.toNat_ofNat]
  omega

end

theorem Hdr.src_lt (h : Hdr) : h.src < 2 ^ 17 := Nat.mod_lt _ (by decide)

theorem Hdr.offset_lt (h : Hdr) : h.offset < 2 ^ 47 := by
  have hw := h.w5.isLt
  have hb : wbits h.w4 14 0 < 2 ^ 15 := Nat.mod_lt _ (by decide)
  unfold Hdr.offset
  omega

end Sys2Proof
end

section
/-!
Acknowledgements, notices and the failure timers of collectives (R250, R251, R281, R289 to R292, R294, R298).
-/
namespace Sys2Proof.Machine
open Sys2Proof.Claims

/-! ### Packets sent -/

/-- A packet of the module's own is the last that waits to be sent. -/
theorem Module.originate_orig {m : Module} (hf : m.fabricUp = true) (k : Pkt) (die out : Option Nat) :
    (m.originate k die out).net.orig = m.net.orig ++ [Orig.mk k die out false []] := by
  obtain ⟨-, e⟩ | ⟨hf', -⟩ := m.originate_cases k die out false []
  · rw [e, Module.wake_net]
  · rw [hf] at hf'
    cases hf'

/-! ### Acknowledgements (R250) -/

/-- A retained tile with the entry of a destination changed, and a plane with that tile so changed. -/
def Ret.updDst (x : Ret) (d : RDst) (f : RDst → RDst) : Ret :=
  { x with dsts := x.dsts.map fun e => if e.role == d.role && e.id == d.id then f e else e }
def Plane.updDst (y : Plane) (tile : Nat) (d : RDst) (f : RDst → RDst) : Plane :=
  { y with rets := y.rets.map fun x => if x.tile == tile then x.updDst d f else x }

theorem Module.Turned.updDst {h : Nat} {a b : Module} {c : Ctx} {y : Plane} (t : a.Turned h b (c.one y)) (tile : Nat) (d : RDst)
    (f : RDst → RDst) : a.Turned h (b.updDst h 0 tile d f) (c.one (y.updDst tile d f)) :=
  t.updPlane _

/-- A plane with other retained tiles. -/
def Plane.withRets (y : Plane) (l : List Ret) : Plane := { y with rets := l }

theorem Plane.updDst_one {y : Plane} {x : Ret} (hy : y.rets = [x]) (d : RDst) (f : RDst → RDst) :
    y.updDst x.tile d f = y.withRets [x.updDst d f] := by
  simp [Plane.updDst, Plane.withRets, hy]

theorem Ctx.unsent_bare {c : Ctx} {y : Plane} (h : y.steps = []) : (c.one y).Unsent :=
  Ctx.unsent_one (by rw [h]; nofun)

/-- An acknowledgement with OK of the destination that is found at the retained tile. -/
theorem Module.ackDst_ok {m : Module} {h : Nat} {c : Ctx} {y : Plane} {x : Ret} {d q : RDst} (hc : m.ctx h = c.one y)
    (hrets : y.rets = [x]) (hd : x.dsts.find? (fun e => e.role == q.role && e.id == q.id && !e.acked && e.due.isSome) = some d) :
    m.ackDst h 0 x.tile q St.ok = m.updDst h 0 x.tile d fun e => { e with acked := true } := by
  unfold Module.ackDst
  rw [Module.plane_one hc, hrets, List.find?_cons_of_pos (by simp)]
  dsimp only
  rw [hd]
  exact if_pos rfl

/-- A launched plane of an all-reduce, with one retained tile of which something is awaited, waits. -/
theorem Ctx.still_launched {c : Ctx} {y : Plane} {x : Ret} (hsig : c.sig.isSome = true) (hop : (c.one y).geo.op = 0)
    (hsum : y.summary = true) (hchk : y.checked = false) (hsteps : y.steps = []) (hrets : y.rets = [x])
    (hall : (x.dsts.all (·.acked)) = false) (hdue : ∀ d ∈ x.dsts, d.due.isSome = true) : c.Still y := by
  refine ⟨hsig, .inr hsum, hchk, by rw [hsteps]; nofun, fun z hz => ?_, .inr (Geo.xchg_reduce (by omega))⟩
  rw [hrets, List.mem_singleton] at hz
  exact hz ▸ ⟨hall, .inr hdue⟩

theorem Plane.runs_of {y : Plane} (hon : y.on = true) (hend : y.ended = false) (hfail : y.fail = none) : y.runs = true := by
  simp [Plane.runs, hon, hend, hfail]

section
variable {m : Module} {p : Pkt} {c : Ctx} {y : Plane} {sg : Bytes} {l : Loc} {x : Ret} {d e : RDst}

theorem collAck_kept (hr : Reaches m p 0x13) (hst : statusOf p = St.ok) (hc : m.ctx p.h.tag = c) (hp : c.planes = [y])
    (hl : c.launched = true) (hsig : c.sig = some sg) (hop : c.geo.op = 0) (hloc : c.sender (m.cplan p.h.tag 0) p = some l)
    (hruns : y.runs = true) (hsum : y.summary = true) (hchk : y.checked = false) (hsteps : y.steps = []) (hrets : y.rets = [x])
    (htile : x.tile = p.h.offset / 2048) (hd : x.dsts = [d, e]) (hrole : d.role = 0) (hid : d.id = l.member)
    (hack : d.acked = false) (hdue : d.due.isSome = true) (hrole' : e.role = 1) (hack' : e.acked = false)
    (hdue' : e.due.isSome = true) : ∃ o due, (m.taken p).Turned p.h.tag (collAck p m)
      (c.one ((y.timed o due).withRets [{ x with dsts := [{ d with acked := true }, e] }])) := by
  have hone : m.ctx p.h.tag = c.one y := by rw [Ctx.one_of_planes hp, hc]
  have hu : c.used = true := hc ▸ hr.2.2.2.2.2.2.2.1
  have hlocal : m.fromLocal p.h.tag p = true := by
    simp [Module.fromLocal, hc, hp, hloc]
  have hclass : m.ackClass p = 0 := if_pos hlocal
  have t0 : (m.taken p).Turned p.h.tag (m.taken p) (c.one y) := Module.turned_refl hone
  have tt := t0.touch false
  obtain ⟨o, due, ey⟩ := y.touched_eq false ((m.taken p).ticks + us ((m.taken p).collReg 0x020 0))
  rw [ey] at tt
  have td := tt.updDst x.tile d fun e => { e with acked := true }
  have hrets' : (y.timed o due).rets = [x] := hrets
  have hx : x.updDst d (fun e => { e with acked := true }) = { x with dsts := [{ d with acked := true }, e] } := by
    simp [Ret.updDst, hd, hrole, hrole']
  rw [Plane.updDst_one hrets', hx] at td
  have hruns' : (y.timed o due).runs = true := hruns
  have hgeo (z : Plane) : (c.one z).geo = c.geo := Ctx.geo_one hp z
  have hof : (c.one y).geo.ofMember l.member (p.h.offset / 2048) = x.tile := by
    rw [hgeo, Geo.ofMember, hop, htile, if_neg (by decide)]
  have hfind : x.dsts.find? (fun z => z.role == 0 && z.id == l.member && !z.acked && z.due.isSome) = some d := by
    rw [hd, List.find?_cons_of_pos (by simp [hrole, hid, hack, hdue])]
  have still : c.Still ((y.timed o due).withRets [{ x with dsts := [{ d with acked := true }, e] }]) :=
    Ctx.still_launched (by rw [hsig]; rfl) (by rw [hgeo]; exact hop) hsum hchk hsteps rfl (by simp [hack'])
      (by simp [hdue, hdue'])
  refine ⟨o, due, ?_⟩
  unfold collAck
  rw [if_neg (by rw [hr.1.1.2.1, hclass]; decide)]
  refine Module.Turned.row hr false ?_ (Ctx.unsent_bare hsteps)
  dsimp only
  rw [if_pos (show (m.taken p).fromLocal p.h.tag p = true from hlocal), show (m.taken p).ctx p.h.tag = c.one y from hone,
    if_neg (by simp [Ctx.one, hsig]), show List.range (c.one y).planes.length = [0] from rfl, List.foldl_cons, List.foldl_nil,
    tt.cplan (by rw [← hc]; rfl), show (c.one y).sender ((m.taken p).cplan p.h.tag 0) p = some l from hloc]
  dsimp only
  rw [tt.plane, hruns', if_neg (by decide), hgeo, Geo.xchg_reduce (by omega), if_neg (by decide), ← hgeo y, hof, hst,
    Module.ackDst_ok tt.ctx hrets' hfind]
  exact td.advance hu (.inl hl) still

end

/-! ### Notices (R251, R281, R292, R294, R298) -/

/-- A plane with other notices of its children. -/
abbrev Plane.withKids (y : Plane) (l : List (Nat × Nat)) : Plane := { y with kidsDone := l }

theorem Module.fromLocal_ackClass {m : Module} {p : Pkt} (hloc : m.fromLocal p.h.tag p = false) (hoff : p.h.offset = planeOff 0) :
    m.ackClass p = if statusOf p = St.ok then 1
      else if statusOf p = St.busy ∨ statusOf p = St.alreadyComplete then 0 else 2 := by
  have hpo : isPlaneOff p.h.offset = true := by rw [hoff]; decide
  by_cases hs : statusOf p = St.ok
  · simp [Module.ackClass, hloc, hpo, hs]
  · simp [Module.ackClass, hloc, hpo, hs]

/-- A plane with other chunks told lost. -/
abbrev Plane.withTold (y : Plane) (l : List Nat) : Plane := { y with told := l }

theorem Ctx.planeOf_one {c : Ctx} {y : Plane} (hp : c.planes = [y]) (hop : c.geo.op < 3) (k : Nat) : c.geo.planeOf k = 0 := by
  have hnp : c.geo.np = 1 := by simp [Ctx.geo, hp]
  unfold Geo.planeOf
  rw [hnp, if_neg (by simp; omega), Nat.mod_one]

/-- The first loss notice of a chunk, at a plane without tile steps. -/
theorem Module.Turned.lossTold {h : Nat} {a b : Module} {c : Ctx} {y : Plane} {p : Pkt} (t : a.Turned h b (c.one y))
    (hruns : y.runs = true) (hk : (c.one y).geo.chunkOfRes (p.h.offset / 2048) < (c.one y).geo.chunks) (htold : y.told = [])
    (hsteps : y.steps = []) : a.Turned h (b.lossTold h 0 p)
      (c.one (y.withTold [(c.one y).geo.chunkOfRes (p.h.offset / 2048)])) := by
  have hf (k : Nat) : { y with told := y.told ++ [k], steps := y.steps.filter fun s => (c.one y).geo.chunkOfIn s.tile != k } =
      y.withTold [k] := by
    simp [hsteps, htold]
  rw [← hf]
  unfold Module.lossTold
  dsimp only
  rw [t.plane, t.ctx, hruns, if_neg (by simp [htold]; omega)]
  exact t.updPlane _

/-- The first notice of a child at a plane that runs, at a module that is not its root. -/
theorem Module.Turned.noticeIn {h : Nat} {a b : Module} {c : Ctx} {y : Plane} (t : a.Turned h b (c.one y))
    (hp : c.plans = (a.ctx h).plans) (hroot : (a.cplan h 0).isRoot = false) (hruns : y.runs = true) (hend : y.ended = false)
    (hkids : y.kidsDone = []) (p : Pkt) : ∃ due, a.Turned h (b.noticeIn h 0 p)
      (c.one ((y.withKids [(p.h.src, statusOf p)]).noticed (statusOf p) due)) := by
  have tk := t.updPlane fun y => y.withKids (y.kidsDone ++ [(p.h.src, statusOf p)])
  rw [hkids, List.nil_append] at tk
  obtain ⟨due, tn⟩ := tk.noticeUp (statusOf p)
  refine ⟨due, ?_⟩
  unfold Module.noticeIn
  dsimp only
  rw [t.plane, hkids, if_neg (by simp), tk.cplan hp, hroot, if_neg (by decide), hend, if_neg (by decide), hruns, if_pos rfl]
  exact tn

section
variable {m : Module} {p : Pkt} {c : Ctx} {y : Plane} {sg : Bytes} (s : Staging m p.h.tag c y sg)
include s

section
variable (hr : Reaches m p 0x13) (hloc : m.fromLocal p.h.tag p = false) (hoff : p.h.offset = planeOff 0)
  (hkid : (m.cplan p.h.tag 0).kidChips.contains p.h.src = true)
include hr hloc hoff hkid

theorem subtreeDone_first (hon : y.dataOn = false) (hst : statusOf p = St.ok) (hkids : y.kidsDone = []) :
    (m.taken p).Turned p.h.tag (subtreeDone p m) (c.one (y.withKids [(p.h.src, St.ok)])) := by
  have t0 : (m.taken p).Turned p.h.tag (m.taken p) (c.one y) := Module.turned_refl (Staging.one s)
  have still := Staging.still s
  have hy : y.on = true := s.2.2.2.2.2.2.1
  have hq : p.h.offset % 8 = 0 := by rw [hoff]; decide
  have hclass : m.ackClass p = 1 := by rw [Module.fromLocal_ackClass hloc hoff, if_pos hst]
  have tk := (t0.touch false).updPlane fun y => y.withKids (y.kidsDone ++ [(p.h.src, St.ok)])
  rw [Plane.touched_off hon, hkids, List.nil_append] at tk
  unfold subtreeDone
  rw [if_neg (by rw [hr.1.1.2.1, hclass]; decide)]
  refine Module.Turned.row hr false ?_ (Ctx.unsent_one fun x hx => (still.steps x hx).2.1)
  dsimp only
  rw [hq, t0.plane, show ((m.taken p).cplan p.h.tag 0).kidChips.contains p.h.src = true from hkid, hy, if_neg (by decide),
    if_neg (by simp [Plane.kidDone, hkids])]
  exact tk.advance (Staging.used s) (Staging.due s)
    ⟨still.sig, still.summary, still.checked, still.steps, still.rets, still.xwait⟩

/-- A repeated SUBTREE_DONE is answered BUSY. -/
theorem subtreeDone_repeat (hst : statusOf p = St.ok) (hkids : (y.kidsDone.any (·.1 == p.h.src)) = true) :
    ∃ v, subtreeDone p m = { (m.taken p).toChip p.h.tag p.h.src 0x13 St.busy p.h.offset with store := v } := by
  have hone := Staging.one s
  have hy : y.on = true := s.2.2.2.2.2.2.1
  have hq : p.h.offset % 8 = 0 := by rw [hoff]; decide
  have hclass : m.ackClass p = 1 := by rw [Module.fromLocal_ackClass hloc hoff, if_pos hst]
  have hpl : (m.taken p).plane p.h.tag 0 = y := Module.plane_one hone
  unfold subtreeDone
  rw [if_neg (by rw [hr.1.1.2.1, hclass]; decide)]
  refine Module.row_beside hr false ?_ ((Module.Beside.refl _).toChip _ _ _ _ _ _ _)
  dsimp only
  rw [hq, hpl, show ((m.taken p).cplan p.h.tag 0).kidChips.contains p.h.src = true from hkid, hy, if_neg (by decide)]
  exact if_pos hkids

theorem failureNotice_first (hpar : (m.cplan p.h.tag 0).parent ≠ p.h.src) (hroot : (m.cplan p.h.tag 0).isRoot = false)
    (hon : y.dataOn = false) (hst : statusOf p ≠ St.ok) (hst1 : statusOf p ≠ St.busy)
    (hst2 : statusOf p ≠ St.alreadyComplete) (hst3 : statusOf p ≠ St.chunkLost) (hkids : y.kidsDone = []) :
    ∃ due, (m.taken p).Turned p.h.tag (failureNotice p m)
      (c.one ((y.withKids [(p.h.src, statusOf p)]).noticed (statusOf p) due)) := by
  have t0 : (m.taken p).Turned p.h.tag (m.taken p) (c.one y) := Module.turned_refl (Staging.one s)
  have still := Staging.still s
  have hruns := Staging.runs s
  have hy : y.on = true ∧ y.ended = false := ⟨s.2.2.2.2.2.2.1, s.2.2.2.2.2.2.2.1⟩
  have hpo : isPlaneOff p.h.offset = true := by rw [hoff]; decide
  have hplans := Staging.plans s
  have hq : (m.taken p).noticePlane p.h.tag p = 0 := by
    unfold Module.noticePlane
    dsimp only
    rw [if_pos (by simp [hpo]), hoff]
    decide
  have hclass : m.ackClass p = 2 := by
    rw [Module.fromLocal_ackClass hloc hoff, if_neg hst, if_neg (by simp [hst1, hst2])]
  have tt := t0.touch false
  rw [Plane.touched_off hon] at tt
  obtain ⟨due, tn⟩ := tt.noticeIn hplans hroot hruns hy.2 hkids p
  refine ⟨due, ?_⟩
  unfold failureNotice
  rw [if_neg (by rw [hr.1.1.2.1, hclass]; decide)]
  refine Module.Turned.row hr false ?_ (Ctx.unsent_one fun x hx => (still.steps x hx).2.1)
  dsimp only
  rw [hq, t0.plane, if_neg (by simp [hst3]), hy.1, if_neg (by decide), tt.cplan hplans,
    show ((m.taken p).cplan p.h.tag 0) = m.cplan p.h.tag 0 from rfl, if_neg (by simpa using hpar), hkid,
    if_neg (by decide), if_pos (by simp [hpo])]
  exact tn

end

theorem lossNotice_kept (hop : c.geo.op < 3) (hr : Reaches m p 0x12) (hk : kindOf p = 0) (hst : statusOf p = St.chunkLost)
    (hpar : (m.cplan p.h.tag 0).parent = p.h.src) (hchunk : c.geo.chunkOfRes (p.h.offset / 2048) < c.geo.chunks) :
    ∃ o due, (m.taken p).Turned p.h.tag (lossNotice p m)
      (c.one ((y.timed o due).withTold [c.geo.chunkOfRes (p.h.offset / 2048)])) := by
  have t0 : (m.taken p).Turned p.h.tag (m.taken p) (c.one y) := Module.turned_refl (Staging.one s)
  have still := Staging.still s
  have hruns := Staging.runs s
  obtain ⟨-, -, hplanes, -, hsig, -, hon, hend, -, -, hsteps, -, -, -, -, -, htold, -⟩ := id s
  have tt := (t0.touch false).beside ((Module.Beside.refl _).lossDown p.h.tag 0 p.h.offset)
  obtain ⟨o, due, ey⟩ := y.touched_eq false ((m.taken p).ticks + us ((m.taken p).collReg 0x020 0))
  rw [ey] at tt
  have hq : c.geo.planeOf (c.geo.chunkOfRes (p.h.offset / 2048)) = 0 := Ctx.planeOf_one hplanes hop _
  have hgeo (z : Plane) : (c.one z).geo = c.geo := Staging.geo s z
  have tl := tt.lossTold (p := p) (show (y.timed o due).runs = true from hruns) (by rw [hgeo]; exact hchunk) htold hsteps
  rw [hgeo] at tl
  refine ⟨o, due, ?_⟩
  unfold lossNotice
  rw [if_neg (by simp [Reaches.isKind hr hk, hst])]
  refine Module.Turned.row hr false ?_ (Ctx.unsent_bare hsteps)
  dsimp only
  rw [show (m.taken p).ctx p.h.tag = c.one y from Staging.one s, hgeo, hq, show (c.one y).sig = some sg from hsig,
    Option.isNone_some, if_neg Bool.false_ne_true, t0.plane, hon, hend,
    show ((m.taken p).cplan p.h.tag 0).parent = p.h.src from hpar, if_neg (by simp), Option.isSome_some, if_pos rfl]
  exact tl.advance (Staging.used s) (Staging.due s)
    ⟨still.sig, still.summary, still.checked, still.steps, still.rets, still.xwait⟩

end

/-- The module with the time at which it answered a handle without a context. -/
def Module.noted (m : Module) (h : Nat) : Module :=
  { m with coll := { m.coll with noticed := m.coll.noticed.put h (m.ticks + 1) } }

/-- The answer to a packet that names no context. -/
def Module.lostAnswer (m : Module) (p : Pkt) : Pkt :=
  Pkt.make (mkHdr 0x13 (m.collVc p (p.h.tag / 65536)) p.h.src m.chip p.h.part p.h.tag St.contextLost p.h.offset) []

theorem Module.lostAnswer_fields {m : Module} {p : Pkt} (hvc : m.collVc p (p.h.tag / 65536) < 8) :
    (m.lostAnswer p).h.type = 0x13 ∧ (m.lostAnswer p).h.dest = p.h.src ∧ (m.lostAnswer p).h.tw = St.contextLost ∧
      (m.lostAnswer p).h.offset = p.h.offset :=
  ⟨(Hdr.made_type _ _).trans (mkHdr_type (by decide) hvc p.h.src_lt), (Hdr.made_dest _ _).trans (mkHdr_dest p.h.src_lt),
    (Hdr.made_tw _ _).trans (mkHdr_tw (by decide)), (Hdr.made_offset _ _).trans (mkHdr_offset p.h.offset_lt)⟩

theorem neverAnswered_ok {p : Pkt} (hst : statusOf p = St.ok) : neverAnswered p = false := by
  have hst' : p.h.tw % 65536 = St.ok := hst
  have hne : (St.ok == St.busy || St.ok == St.contextLost || (St.ok == St.chunkLost && !isPlaneOff p.h.offset)) = false := rfl
  unfold neverAnswered
  dsimp only
  rw [hst', hne, Bool.and_false]

theorem Module.noRecord_first {m : Module} {p : Pkt} (ht : p.h.type = 0x13) (hst : statusOf p = St.ok)
    (hlast : m.coll.noticed.get p.h.tag = 0) : ∃ plane, m.noRecord p =
      ((((m.collCount 0x1C0).noted p.h.tag).originate (((m.collCount 0x1C0).noted p.h.tag).lostAnswer p)).collCount 0x180).collFailed
        p.h.tag plane 11 St.contextLost := by
  have s1 : m.Beside (m.collCount 0x1C0) := (Module.Beside.refl m).collCount 1 (by decide) (by decide)
  have hh : collHandle p = p.h.tag := if_neg (by simp [ht])
  unfold Module.noRecord
  dsimp only
  rw [hh, neverAnswered_ok hst, show (m.collCount 0x1C0).coll.noticed.get p.h.tag = 0 by rw [s1.coll]; exact hlast,
    if_neg (by simp [ht]), if_neg (by decide), if_neg (by simp)]
  exact ⟨_, rfl⟩

/-- A packet that names no context is answered CONTEXT_LOST, for the first time. -/
theorem Module.noRecord_answers {m : Module} {p : Pkt} (ht : p.h.type = 0x13) (hst : statusOf p = St.ok)
    (hlast : m.coll.noticed.get p.h.tag = 0) (hvc : m.collVc p (p.h.tag / 65536) < 8) :
    (m.noRecord p).coll = { m.coll with noticed := m.coll.noticed.put p.h.tag (m.ticks + 1) } ∧
      (m.noRecord p).net.handed = m.net.handed ∧
      (m.fabricUp = true → ∃ o : Orig, (m.noRecord p).net.orig = m.net.orig ++ [o] ∧ o.pkt.h.type = 0x13 ∧
        o.pkt.h.dest = p.h.src ∧ o.pkt.h.tw = St.contextLost ∧ o.pkt.h.offset = p.h.offset) := by
  have s1 : m.Beside (m.collCount 0x1C0) := (Module.Beside.refl m).collCount 1 (by decide) (by decide)
  obtain ⟨plane, e⟩ := Module.noRecord_first ht hst hlast
  have s2 := (((Module.Beside.refl ((m.collCount 0x1C0).noted p.h.tag)).originate
    (((m.collCount 0x1C0).noted p.h.tag).lostAnswer p) none none false []).collCount (off := 0x180) 1 (by decide) (by decide)).collFailed
      p.h.tag plane 11 St.contextLost 131071 none
  have hvc' : ((m.collCount 0x1C0).noted p.h.tag).collVc p (p.h.tag / 65536) < 8 := by
    have hg : (m.collCount 0x1C0).coll.groups = m.coll.groups := congrArg Coll.groups s1.coll
    unfold Module.collVc Module.grp
    rw [show ((m.collCount 0x1C0).noted p.h.tag).coll.groups = m.coll.groups from hg]
    exact hvc
  rw [e]
  refine ⟨?_, s2.handed.trans s1.handed, fun hf =>
    ⟨Orig.mk (((m.collCount 0x1C0).noted p.h.tag).lostAnswer p) none none false [], ?_, Module.lostAnswer_fields hvc'⟩⟩
  · rw [s2.coll, Module.noted, s1.coll, s1.ticks]
  · have hf' : ((m.collCount 0x1C0).noted p.h.tag).fabricUp = true := by
      unfold Module.fabricUp Module.noted Module.collCount
      rw [Module.count_pwr]
      exact hf
    rw [Module.collFailed, (Module.sameStore_event _ _ _).net, Module.collCount, Module.count_net, Module.originate_orig hf']
    unfold Module.noted Module.collCount
    rw [Module.count_net]

theorem noContextAnswer_eq {m : Module} {p : Pkt} (ha : Arrives m p 0x13) (hu : m.unrecorded p = true) (hst : statusOf p = St.ok)
    (hlast : m.coll.noticed.get p.h.tag = 0) (hvc : m.collVc p (p.h.tag / 65536) < 8) :
    noContextAnswer p m = (m.taken p).noRecord p := by
  obtain ⟨hperf, hgood, hfence, haddr⟩ := ha
  have ht : p.h.type = 0x13 := hperf.2.1
  have hn := Module.noRecord_answers (m := m.taken p) ht hst hlast hvc
  unfold noContextAnswer
  rw [hu, hgood, hfence, haddr, if_pos (by decide), ht]
  exact Module.perform_eq hperf hn.2.1

/-! ### Failure timers (R289 to R292) -/

section
variable {m : Module} {h t : Nat} {c : Ctx} {y : Plane} {sg : Bytes}

theorem joinTimeout_fails (hw : m.working = true) (hrest : Rests m) (hroot : (m.cplan h 0).isRoot = false)
    (s : Staging m h c y sg) (hdue : c.joinDue = some t) (hsum : y.summary = false) :
    ∃ due, (m.pass t).Turned h (joinTimeout h m) ({ c with joinDue := none }.one (y.noticed St.timeout due)) := by
  have hone := Staging.one s
  have hruns := Staging.runs s
  have hplans := Staging.plans s
  obtain ⟨-, hu, hp, -, -, -, -, -, -, -, hsteps, -⟩ := id s
  have t0 : (m.pass t).Turned h (m.pass t) (c.one y) := Module.turned_refl hone
  have t1 : (m.pass t).Turned h ((m.pass t).updCtx h fun c => { c with joinDue := none }) ({ c with joinDue := none }.one y) :=
    Module.Turned.updCtx t0 _
  obtain ⟨due, tf⟩ := t1.planeFail hplans hroot hruns St.timeout 4 131071
  refine ⟨due, ?_⟩
  unfold joinTimeout
  dsimp only
  rw [hone, show (c.one y).joinDue = some t from hdue]
  dsimp only
  rw [if_neg]
  · refine Module.Turned.event ?_ hrest (Ctx.unsent_bare hsteps)
    rw [show List.range (c.one y).planes.length = [0] from rfl, List.foldl_cons, List.foldl_nil, if_pos]
    · exact tf
    · rw [t1.ctx, t1.plane, hruns, t1.cplan hplans, show (m.pass t).cplan h 0 = m.cplan h 0 from rfl, hroot,
        if_neg Bool.false_ne_true, hsum, show (({ c with joinDue := none } : Ctx).one y).used = true from hu]
      rfl
  · rw [show List.range (c.one y).planes.length = [0] from rfl, List.any_cons, List.any_nil, hroot, Module.plane_one hone, hruns,
      if_neg Bool.false_ne_true, hsum, hw, show (c.one y).used = true from hu]
    decide

end

end Sys2Proof.Machine
end

section
/-!
The data timer, the acknowledgement timers and the notice timer of a plane (R290 to R292).
-/
namespace Sys2Proof.Machine
open Sys2Proof.Claims

/-! ### Chunks given up (R290) -/

/-- A plane with other chunks given up, and other chunks told of to the parent. -/
abbrev Plane.given (y : Plane) (gone lost : List Nat) : Plane := { y with gone := gone, lost := lost }

section
variable {h : Nat} {a b : Module} {c : Ctx} {y : Plane} (t : a.Turned h b (c.one y)) (hp : c.plans = (a.ctx h).plans)
  (hroot : (a.cplan h 0).isRoot = false) (hruns : y.runs = true)
include t hp hroot hruns

theorem Module.Turned.chunkLoss (k reason member : Nat) :
    ∃ lost, a.Turned h (b.chunkLoss h 0 k reason member) (c.one (y.given y.gone lost)) := by
  have tf := t.beside ((Module.Beside.refl _).collFailed h 0 reason St.chunkLost member (some k))
  unfold Module.chunkLoss
  rw [t.plane, hruns, if_pos rfl]
  unfold Module.chunkUp
  rw [tf.cplan hp, hroot, if_neg Bool.false_ne_true]
  split
  · exact ⟨y.lost, tf⟩
  · have tu := tf.updPlane fun y => { y with lost := y.lost ++ [k] }
    exact ⟨y.lost ++ [k], tu.beside (((Module.Beside.refl _).toChip _ _ _ _ _ _ _).collCount 1 (by decide) (by decide))⟩

/-- A chunk given up at a plane that holds nothing of it. -/
theorem Module.Turned.giveUp (hrets : y.rets = []) (hsteps : y.steps = []) (hhalves : y.halves = []) (k reason : Nat) :
    ∃ lost, a.Turned h (b.giveUp h 0 k reason) (c.one (y.given (y.gone ++ [k]) lost)) := by
  have hf (g : Geo) (q : Half → Nat) : { y with
      gone := y.gone ++ [k], steps := y.steps.filter (fun s => g.chunkOfIn s.tile != k),
      halves := y.halves.filter (fun z => q z != k) } = y.given (y.gone ++ [k]) y.lost := by
    simp [hsteps, hhalves]
  unfold Module.giveUp
  dsimp only
  rw [t.plane, hrets, List.filter_nil, List.foldl_nil]
  have tu := t.updPlane fun z => { z with
    gone := z.gone ++ [k], steps := z.steps.filter (fun s => (b.ctx h).geo.chunkOfIn s.tile != k),
    halves := z.halves.filter (fun z => b.halfChunk h 0 z != k) }
  rw [hf] at tu
  exact tu.chunkLoss hp hroot hruns k reason 131071

theorem Module.Turned.giveUps (hrets : y.rets = []) (hsteps : y.steps = []) (hhalves : y.halves = []) (reason : Nat) (l : List Nat) :
    ∃ lost, a.Turned h (l.foldl (fun m k => m.giveUp h 0 k reason) b) (c.one (y.given (y.gone ++ l) lost)) := by
  induction l generalizing b y with
  | nil => exact ⟨y.lost, by simpa using t⟩
  | cons k l ih =>
    obtain ⟨lost, tk⟩ := t.giveUp hp hroot hruns hrets hsteps hhalves k reason
    obtain ⟨lost', tl⟩ := ih tk hruns hrets hsteps hhalves
    exact ⟨lost', by simpa using tl⟩

end

/-- A plane of a reduction that has begun nothing awaits every chunk that has an input tile. -/
theorem Module.mem_awaited {m : Module} {h : Nat} {c : Ctx} {y : Plane} (hc : m.ctx h = c.one y) (hop : (c.one y).geo.op < 3)
    (hgone : y.gone = []) (htold : y.told = []) (hsteps : y.steps = []) (hdone : y.stepsDone.cells = []) {k : Nat}
    (hk : k < (c.one y).geo.chunks) (hins : (c.one y).geo.insOf k ≠ []) : k ∈ m.awaited h 0 := by
  have hred : (c.one y).geo.reduce = true := by simp [Geo.reduce]; omega
  have hplane : k ∈ (c.one y).geo.planeChunks 0 := by
    refine List.mem_filter.mpr ⟨List.mem_range.mpr hk, ?_⟩
    rw [← Ctx.one_of_planes (c := c.one y) (y := y) rfl, Ctx.planeOf_one (y := y) rfl (by exact hop)]
    rfl
  unfold Module.awaited
  dsimp only
  rw [hc, Module.plane_one hc]
  refine List.mem_filter.mpr ⟨hplane, ?_⟩
  rw [if_pos hred, hgone, htold, hsteps]
  obtain ⟨x, hx⟩ := List.exists_mem_of_ne_nil _ hins
  have hget : y.stepsDone.get x = false := by
    unfold Tab.get
    rw [hdone]
    rfl
  have hany : (((c.one y).geo.insOf k).any fun t => !y.stepsDone.get t && true) = true :=
    List.any_eq_true.mpr ⟨x, hx, by rw [hget]; rfl⟩
  simp only [List.contains_nil, Bool.not_false, Bool.true_and, List.find?_nil, hany, Bool.true_or]

/-! ### A retained tile sent again (R291, R293) -/

/-- The check of a sound tile changes a counter and its damage at most. -/
theorem Module.check1_corrects {m : Module} {k : Nat} (hd : m.store.damaged.get k < 2) (tile use : Nat) :
    ∃ g d, m.check1 0 tile k use = { m with regs := g, store := { m.store with damaged := d } } := by
  unfold Module.check1
  dsimp only
  split
  · exact ⟨m.regs, m.store.damaged, rfl⟩
  · rw [if_pos (by simp_all; omega)]
    obtain ⟨g, e⟩ := Module.count_eq_regs { m with store := { m.store with damaged := m.store.damaged.del k } }
      (memBlk (m.unitOf k)) 0x110 1
    exact ⟨g, _, e⟩

theorem Module.checkRes_sound {m : Module} {tile : Nat} (hd : m.store.damaged.get (resKey tile) < 2) (use : Nat) :
    m.checkRes tile use = m.check1 0 tile (resKey tile) use := by
  obtain ⟨g, d, e⟩ := Module.check1_corrects hd tile use
  have hp : ({ m with regs := g, store := { m.store with damaged := d } } : Module).isPoisoned (resKey tile) =
      m.isPoisoned (resKey tile) := rfl
  unfold Module.checkRes
  rw [e]
  dsimp only
  rw [hp, if_neg (by simp)]

/-- A retained tile that is sound and in reach can be had. -/
theorem Module.useRet_sound {m : Module} {x : Ret} (hl : m.placeLost x.place = false)
    (hd : m.store.damaged.get (resKey x.place) < 2) : ∃ n, m.useRet x = (n, true) ∧ m.Beside n := by
  have hdown : m.placeDown x.place = false := (Bool.or_eq_false_iff.mp hl).2
  obtain ⟨g, d, e⟩ := Module.check1_corrects hd x.place 2
  have s := ((Module.Beside.refl m).check1 0 x.place (resKey x.place) 2).countRead (resKey x.place)
  have hlost : ((m.check1 0 x.place (resKey x.place) 2).countRead (resKey x.place)).placeLost x.place = false := by
    rw [e, Module.countRead]
    obtain ⟨g', e'⟩ := Module.count_eq_regs ({ m with regs := g, store := { m.store with damaged := d } } : Module)
      (memBlk (({ m with regs := g, store := { m.store with damaged := d } } : Module).unitOf (resKey x.place))) 0x100 1
    rw [e']
    exact hl
  refine ⟨_, ?_, s⟩
  unfold Module.useRet
  rw [hdown, if_neg Bool.false_ne_true, Module.checkRes_sound hd]
  dsimp only
  rw [hlost]
  rfl

theorem Module.Beside.sendTo {a b : Module} (s : a.Beside b) (h p : Nat) (x : Ret) (ds : List RDst) : a.Beside (b.sendTo h p x ds) := by
  have hone (m : Module) (k : Pkt) (die out : Option Nat) (l : List (Option Nat × Hdr)) : m.Beside (m.originate k die out false l) :=
    (Module.Beside.refl m).originate _ _ _ _ _
  unfold Module.sendTo
  dsimp only
  refine .ite (fun _ => s) fun _ => .ite (fun _ => ?_) fun _ => ?_
  · split
    · refine .foldl (fun n _ => hone n _ _ _ _) _ ?_
      split
      · exact .foldl (fun n _ => hone n _ _ _ _) _ s
      · exact .originate (.foldl (fun n _ => hone n _ _ _ _) _ s) _ _ _ _ _
    · refine .originate (.foldl (fun n _ => hone n _ _ _ _) _ ?_) _ _ _ _ _
      split
      · exact .foldl (fun n _ => hone n _ _ _ _) _ s
      · exact .originate (.foldl (fun n _ => hone n _ _ _ _) _ s) _ _ _ _ _
  · split
    · exact .foldl (fun n _ => hone n _ _ _ _) _ s
    · exact .originate (.foldl (fun n _ => hone n _ _ _ _) _ s) _ _ _ _ _

/-- A retained tile sent again to a destination. -/
theorem Module.Turned.resend {h : Nat} {a b : Module} {c : Ctx} {y : Plane} {x : Ret} {d : RDst} (t : a.Turned h b (c.one y))
    (hl : b.placeLost x.place = false) (hd : b.store.damaged.get (resKey x.place) < 2)
    (hn : d.resends < b.collReg 0x028 17) : a.Turned h (b.resend h 0 x d)
      (c.one (y.updDst x.tile d fun e => { e with resends := e.resends + 1, due := some (b.ticks + us (b.collReg 0x028 0)) })) := by
  obtain ⟨n, e, s⟩ := Module.useRet_sound hl hd
  have su := (s.collCount (off := 0x198) 1 (by decide) (by decide)).sendTo h 0 x [d]
  have hdue : n.ackDue = b.ticks + us (b.collReg 0x028 0) := by
    rw [Module.ackDue, s.ticks, s.cfg _ _ (by decide) (by decide)]
  unfold Module.resend
  rw [if_neg (by omega), e]
  dsimp only
  rw [hdue]
  exact (t.beside su).updDst _ _ _

section
variable {m : Module} {h t : Nat} {c : Ctx} {y : Plane} {sg : Bytes} (hw : m.working = true) (hrest : Rests m)
include hw hrest

theorem dataTimeout_gone (hroot : (m.cplan h 0).isRoot = false) (s : Staging m h c y sg) (hop : c.geo.op < 3)
    (hdue : y.dataDue = some t) (hnow : m.now + (t - m.ticks) < sgLaunch sg) : ∃ gone lost,
      (∀ k, k < c.geo.chunks → c.geo.insOf k ≠ [] → k ∈ gone) ∧
      (m.pass t).Turned h (dataTimeout h 0 m) (c.one ((y.timed y.dataOn none).given gone lost)) := by
  have hone := Staging.one s
  have hruns := Staging.runs s
  have hplans := Staging.plans s
  have still := Staging.still s
  have hgeo (z : Plane) : (c.one z).geo = c.geo := Staging.geo s z
  obtain ⟨-, hu, hp, hl, hsig, -, -, -, -, -, hsteps, hrets, hhalves, hx, hdone, hgone, htold, -⟩ := id s
  have t0 : (m.pass t).Turned h (m.pass t) (c.one y) := Module.turned_refl hone
  have t1 := t0.updPlane fun y => y.timed y.dataOn none
  obtain ⟨lost, tg⟩ := t1.giveUps hplans hroot hruns hrets hsteps hhalves 5
    (((m.pass t).updPlane h 0 fun y => y.timed y.dataOn none).awaited h 0)
  refine ⟨y.gone ++ ((m.pass t).updPlane h 0 fun y => y.timed y.dataOn none).awaited h 0, lost, fun k hk hins =>
    List.mem_append_right _ (Module.mem_awaited t1.ctx ?_ hgone htold hsteps hdone ?_ ?_), ?_⟩
  · rw [hgeo]; exact hop
  · rw [hgeo]; exact hk
  · rw [hgeo]; exact hins
  · unfold dataTimeout
    dsimp only
    rw [Module.plane_one hone, hdue, hone]
    dsimp only
    rw [if_neg (by simp [hw, hruns, Ctx.one, hu])]
    refine Module.Turned.event ?_ hrest (Ctx.unsent_bare hsteps)
    rw [show (c.one y).sig = some sg from hsig, Option.isNone_some, if_neg Bool.false_ne_true, hgeo, Geo.xchg_reduce hop,
      if_neg Bool.false_ne_true]
    exact tg.advance hu (.inr (by rw [hsig]; exact hnow))
      ⟨still.sig, still.summary, still.checked, still.steps, still.rets, still.xwait⟩

theorem ackTimeout_resends {x : Ret} {d : RDst} (hc : m.ctx h = c) (hu : c.used = true) (hp : c.planes = [y])
    (hl : c.launched = true) (hsig : c.sig = some sg) (hop : c.geo.op = 0) (hruns : y.runs = true) (hsum : y.summary = true)
    (hchk : y.checked = false) (hsteps : y.steps = []) (hrets : y.rets = [x]) (hd : x.dsts = [d]) (hack : d.acked = false)
    (hdue : d.due = some t) (hlost : m.placeLost x.place = false) (hdam : m.store.damaged.get (resKey x.place) < 2)
    (hn : d.resends < m.collReg 0x028 17) : (m.pass t).Turned h (ackTimeout h 0 (2048 * x.tile) m)
      (c.one (y.withRets [{ x with
        dsts := [{ d with resends := d.resends + 1, due := some ((m.pass t).ticks + us (m.collReg 0x028 0)) }] }])) := by
  have hone : m.ctx h = c.one y := by rw [Ctx.one_of_planes hp, hc]
  have t0 : (m.pass t).Turned h (m.pass t) (c.one y) := Module.turned_refl hone
  have tr := t0.resend (x := x) (d := d) hlost hdam hn
  have hx (f : RDst → RDst) : x.updDst d f = { x with dsts := [f d] } := by
    simp [Ret.updDst, hd]
  rw [Plane.updDst_one hrets, hx] at tr
  have htile : 2048 * x.tile / 2048 = x.tile := Nat.mul_div_cancel_left _ (by decide)
  have hfind : y.rets.find? (·.tile == x.tile) = some x := by
    rw [hrets, List.find?_cons_of_pos (by simp)]
  have hds : (x.dsts.filter fun d => !d.acked && d.due.isSome) = [d] := by
    rw [hd, List.filter_cons_of_pos (by simp [hack, hdue]), List.filter_nil]
  unfold ackTimeout
  dsimp only
  rw [Module.plane_one hone, htile, hfind]
  dsimp only
  rw [hds, List.map_singleton, hdue]
  dsimp only
  rw [if_neg (by simp [hw, hruns])]
  refine Module.Turned.event ?_ hrest (Ctx.unsent_bare hsteps)
  rw [List.foldl_nil, Option.getD_some, List.filter_cons_of_pos (by simp [hdue]), List.filter_nil, List.foldl_cons, List.foldl_nil,
    t0.plane, hfind]
  dsimp only
  rw [hruns, if_pos rfl]
  exact tr.advance hu (.inl hl) (Ctx.still_launched (by rw [hsig]; rfl) (by rw [Ctx.geo_one hp]; exact hop) hsum hchk hsteps rfl
    (by simp [hack]) (by simp))

/-- The notice to the parent is repeated. -/
theorem probeTimer_repeats {st : Nat} (hroot : (m.cplan h 0).isRoot = false) (hc : m.ctx h = c) (hp : c.planes = [y])
    (hon : y.on = true) (hend : y.ended = false) (hsub : y.sub = some st) (hdue : y.probeDue = some t)
    (hn : y.probes < m.collReg 0x02C 14) :
    (m.pass t).Turned h (probeTimer h 0 m)
      (c.one (y.probing y.sub (y.probes + 1) (some ((m.pass t).ticks + ms (m.collReg 0x02C 0))))) := by
  have hone : m.ctx h = c.one y := by rw [Ctx.one_of_planes hp, hc]
  have t0 : (m.pass t).Turned h (m.pass t) (c.one y) := Module.turned_refl hone
  have s1 := ((Module.Beside.refl (m.pass t)).toChip h ((m.pass t).cplan h 0).parent 0x13 st (planeOff 0) [] none).collCount
    (off := 0x1A8) 1 (by decide) (by decide)
  have s2 := Module.Beside.ite (p := (st == St.ok) = true) (fun _ => s1) fun _ => s1.collCount (off := 0x180) 1 (by decide) (by decide)
  unfold probeTimer
  dsimp only
  rw [Module.plane_one hone, hsub, hdue]
  dsimp only
  rw [if_neg (by simp [hw, hon, hend, hroot])]
  refine Module.Turned.event ?_ hrest (Ctx.unsent_one (hrest.1 h y (by rw [hc, hp]; exact List.mem_singleton_self y)))
  rw [if_neg (show ¬ (m.pass t).collReg 0x02C 14 ≤ y.probes from Nat.not_le.mpr hn), s2.ticks,
    s2.cfg 0x02C 0 (by decide) (by decide), show (m.pass t).collReg 0x02C 0 = m.collReg 0x02C 0 from rfl, ← hsub]
  exact (t0.beside s2).updPlane fun y => y.probing y.sub (y.probes + 1) (some ((m.pass t).ticks + ms (m.collReg 0x02C 0)))

theorem probeTimer_ends {st : Nat} (hroot : (m.cplan h 0).isRoot = false) (hc : m.ctx h = c) (hp : c.planes = [y])
    (hon : y.on = true) (hend : y.ended = false) (hsub : y.sub = some st) (hdue : y.probeDue = some t)
    (hn : m.collReg 0x02C 14 ≤ y.probes) : (m.pass t).Apart h (probeTimer h 0 m) {} := by
  have hone : m.ctx h = c.one y := by rw [Ctx.one_of_planes hp, hc]
  have t0 : (m.pass t).Turned h (m.pass t) (c.one y) := Module.turned_refl hone
  have tf := t0.beside ((Module.Beside.refl _).collFailed h 0 10 St.contextLost 131071 none)
  unfold probeTimer
  dsimp only
  rw [Module.plane_one hone, hsub, hdue]
  dsimp only
  rw [if_neg (by simp [hw, hon, hend, hroot])]
  refine Module.Apart.event ?_ hrest Ctx.unsent_default
  rw [if_pos (show (m.pass t).collReg 0x02C 14 ≤ y.probes from hn)]
  exact tf.apart.endPlane _ _

end

end Sys2Proof.Machine

namespace Sys2Proof.Proofs
open Sys2Proof.Machine Sys2Proof.Claims

/-- Settles O54: what each row leaves of the context's one plane, which then waits or is over. -/
theorem noticesAndFailureTimers : Obligations.NoticesAndFailureTimers := by
  unfold Obligations.NoticesAndFailureTimers
  refine ⟨fun s p c y sg l x d e => ⟨?_, ?_, ?_, ?_⟩, fun s h t st c y sg x d => ?_⟩
  · intro hr hst hc hp hl hsig hop hloc hon hend hfail hsum hchk hsteps hrets htile hd hrole hid hack hdue hrole' hack' hdue'
    obtain ⟨o, due, tk⟩ := collAck_kept hr hst hc hp hl hsig hop hloc (Plane.runs_of hon hend hfail) hsum hchk hsteps hrets htile hd
      hrole hid hack hdue hrole' hack' hdue'
    refine completes_withM (collAck p) rfl ⟨tk.others, tk.mem, ?_⟩
    rw [tk.plane]
    rfl
  · intro hs hop hr hloc hoff hpar hroot hkid hon hsum
    refine ⟨fun hst hkids => ?_, fun hst hkids hvc => ?_, fun h0 h1 h2 h3 hkids => ?_⟩
    · have tk := subtreeDone_first hs hr hloc hoff hkid hon hst hkids
      exact completes_withM (subtreeDone p) rfl ⟨tk.others, tk.plane⟩
    · obtain ⟨v, ev⟩ := subtreeDone_repeat hs hr hloc hoff hkid hst hkids
      have sb := (Module.Beside.refl (s.m.taken p)).toChip p.h.tag p.h.src 0x13 St.busy p.h.offset [] none
      refine completes_withM (subtreeDone p) rfl ?_
      rw [ev]
      refine ⟨sb.coll, fun hf => ⟨Orig.mk _ none none false [], Module.originate_orig (m := s.m.taken p) hf _ none none, ?_, ?_, ?_⟩⟩
      · exact (Hdr.made_type _ _).trans (mkHdr_type (by decide) hvc p.h.src_lt)
      · exact (Hdr.made_dest _ _).trans (mkHdr_dest p.h.src_lt)
      · exact (Hdr.made_tw _ _).trans (mkHdr_tw (by decide))
    · obtain ⟨due, tk⟩ := failureNotice_first hs hr hloc hoff hkid hpar hroot hon h0 h1 h2 h3 hkids
      refine completes_withM (failureNotice p) rfl ⟨tk.others, ?_⟩
      rw [tk.plane]
      exact ⟨if_neg (by simpa using h3), rfl, rfl, rfl⟩
  · intro hs hop hnp hr hk hst hpar hroot hchunk
    obtain ⟨o, due, tk⟩ := lossNotice_kept hs hop hr hk hst hpar hchunk
    obtain ⟨-, -, -, -, -, -, -, -, -, -, -, -, -, -, -, hgone, -⟩ := hs
    refine completes_withM (lossNotice p) rfl ⟨tk.others, ?_⟩
    rw [tk.plane]
    exact ⟨rfl, hgone, tk.mem⟩
  · intro ha hu hst hlast hvc
    have hn := Module.noRecord_answers (m := s.m.taken p) ha.1.2.1 hst hlast hvc
    refine completes_withM (noContextAnswer p) rfl ?_
    rw [noContextAnswer_eq ha hu hst hlast hvc, hn.1]
    exact ⟨rfl, rfl, Tab.get_put_same _ _ _, hn.2.2⟩
  · intro g wait hw hrest hroot
    refine ⟨fun hs hop hdue hsum => ?_, fun hs hop hnp hlost hdue hnow => ?_,
      fun hc hu hp hl hsig hop hon hend hfail hsum hchk hsteps hrets hd hack hdue hlost hdam hn => ?_,
      fun hc hu hp hon hend hsub hdue => ⟨fun hn => ?_, fun hn => ?_⟩⟩
    · obtain ⟨due, tk⟩ := joinTimeout_fails hw hrest hroot hs hdue hsum
      refine completes_withM (joinTimeout h) rfl ⟨tk.others, tk.now, ?_, ?_⟩
      · rw [tk.ctx]
        rfl
      · rw [tk.plane]
        exact ⟨rfl, rfl⟩
    · obtain ⟨gone, lost, hgone, tk⟩ := dataTimeout_gone hw hrest hroot hs hop hdue hnow
      refine completes_withM (dataTimeout h 0) rfl ⟨tk.others, tk.now, ?_⟩
      rw [tk.plane]
      exact ⟨rfl, tk.mem, hgone⟩
    · have tk := ackTimeout_resends hw hrest hc hu hp hl hsig hop (Plane.runs_of hon hend hfail) hsum hchk hsteps hrets hd hack hdue
        hlost hdam hn
      refine completes_withM (ackTimeout h 0 (2048 * x.tile)) rfl ⟨tk.others, tk.now, ?_⟩
      rw [tk.plane, tk.ticks]
      exact ⟨rfl, tk.mem⟩
    · have tk := probeTimer_repeats hw hrest hroot hc hp hon hend hsub hdue hn
      refine completes_withM (probeTimer h 0) rfl ⟨tk.others, tk.now, ?_⟩
      rw [tk.plane, tk.ticks]
      rfl
    · have tk := probeTimer_ends hw hrest hroot hc hp hon hend hsub hdue hn
      refine completes_withM (probeTimer h 0) rfl ⟨tk.others, ?_, ?_⟩
      · rw [Waited, Module.now, tk.time]
        rfl
      · rw [tk.ctx]

end Sys2Proof.Proofs
end

section
/-!
What a reduction of one plane keeps of its contributions, pieces, anchors, masks and results (R238 to R247, R250).
-/
namespace Sys2Proof.Machine
open Sys2Proof.Claims

/-! ### Rows of data packets -/

theorem Module.Turned.dataRow {m : Module} {p : Pkt} {type kind : Nat} {c : Ctx} (hr : Reaches m p type) (hk : kindOf p = kind)
    (t : (m.taken p).Turned p.h.tag (((m.taken p).applyData p.h.tag p).advance p.h.tag) c) (hc : c.Unsent) :
    (m.taken p).Turned p.h.tag (m.dataRow p type kind) c := by
  have hwait : m.collWait p = false := hr.2.2.2.2.2.2.2.2
  unfold Module.dataRow
  rw [Reaches.isKind hr hk, hwait, if_neg (by decide)]
  exact Module.Turned.row hr (type != 0x12) t hc

theorem Plane.touched_true {y : Plane} (hr : y.runs = true) (due : Nat) : y.touched true due = y.timed true (some due) := by
  simp [Plane.touched, hr, Plane.timed]

/-- A data packet at a plane that runs starts its data timer. -/
theorem Module.Turned.touchData {h : Nat} {a b : Module} {c : Ctx} {y : Plane} (t : a.Turned h b (c.one y)) (hr : y.runs = true) :
    ∃ due, a.Turned h (b.touch h 0 true) (c.one (y.timed true (some due))) :=
  ⟨_, Plane.touched_true hr _ ▸ t.touch true⟩

theorem swBlk_ne_hubBlk (d : Nat) : swBlk d 7 ≠ hubBlk 1 := by
  unfold swBlk hubBlk
  omega

section
variable {a b : Module} (s : a.Beside b)
include s

theorem Module.Beside.red (d : Nat) {off : Nat} (n : Nat) (ho : off < 2 ^ 26) : a.Beside (b.count (swBlk d 7) off n) :=
  s.count n (.inl (swBlk_ne_hubBlk d)) ho

theorem Module.Beside.redEvents (d : Nat) (c : Cnt) : a.Beside (b.redEvents d c) :=
  ((s.red d _ (by decide)).red d _ (by decide)).red d _ (by decide)

end

section
variable {m : Module} {h : Nat} {p : Pkt} {sg : Bytes} (hsig : (m.ctx h).sig = some sg) (again : Bool)
include hsig

theorem Module.applyData_contrib (ht : p.h.type = 0x11) (hk : kindOf p = 0) :
    m.applyData h p again = m.applyContrib h p again := by
  simp [Module.applyData, hsig, ht, hk]

theorem Module.applyData_mask (ht : p.h.type = 0x11) (hk : kindOf p = 1)
    (hl : ((List.range (m.ctx h).planes.length).any fun q => ((m.ctx h).sender (m.cplan h q) p).isSome) = true) :
    m.applyData h p again = m.applyContrib h p again := by
  simp only [Module.applyData, hsig, ht, hk, hl]
  simp

theorem Module.applyData_partial (ht : p.h.type = 0x11) (hk : kindOf p = 2) : m.applyData h p again = m.applyPartial h p := by
  simp [Module.applyData, hsig, ht, hk]

theorem Module.applyData_anchorUp (ht : p.h.type = 0x11) (hk : kindOf p = 3) : m.applyData h p again = m.applyAnchorUp h p := by
  simp [Module.applyData, hsig, ht, hk]

theorem Module.applyData_gather (ht : p.h.type = 0x11) (hk : kindOf p = 5) : m.applyData h p again = m.applyGather h p := by
  simp [Module.applyData, hsig, ht, hk]

theorem Module.applyData_send (ht : p.h.type = 0x14) (hk : kindOf p = 0) : m.applyData h p again = m.applySend h p := by
  simp [Module.applyData, hsig, ht, hk]

theorem Module.applyData_carry (ht : p.h.type = 0x14) (hk : kindOf p = 1) : m.applyData h p again = m.applyCarry h p := by
  simp [Module.applyData, hsig, ht, hk]

theorem Module.applyData_row (ht : p.h.type = 0x14) (hk : kindOf p = 3) : m.applyData h p again = m.applyDecl h p true := by
  simp [Module.applyData, hsig, ht, hk]

theorem Module.applyData_column (ht : p.h.type = 0x14) (hk : kindOf p = 4) : m.applyData h p again = m.applyDecl h p false := by
  simp [Module.applyData, hsig, ht, hk]

theorem Module.applyData_anchorDown (ht : p.h.type = 0x12) (hk : kindOf p = 2) :
    m.applyData h p again = m.applyAnchorDown h p := by
  simp [Module.applyData, Machine.isKind, hsig, ht, hk]

theorem Module.applyData_result (ht : p.h.type = 0x12) (hk : kindOf p < 2) : m.applyData h p again = m.applyResult h p := by
  have hk2 : kindOf p ≠ 2 := by omega
  simp [Module.applyData, Machine.isKind, hsig, ht, hk2]

end

/-! ### One tile step -/

/-- A plane with other tile steps, and with other halves of tiles. -/
abbrev Plane.withSteps (y : Plane) (l : List TStep) : Plane := { y with steps := l }
abbrev Plane.withHalves (y : Plane) (l : List Half) : Plane := { y with halves := l }

section
variable {h : Nat} {a b : Module} {c : Ctx} {y : Plane} {x : TStep} (t : a.Turned h b (c.one y))
include t

theorem Module.Turned.openStep (hs : y.steps = []) (tile : Nat) :
    ∃ adm, a.Turned h (b.openStep h 0 tile) (c.one (y.withSteps [{ tile := tile, admitted := adm }])) := by
  unfold Module.openStep
  rw [t.plane, hs, List.any_nil, if_neg Bool.false_ne_true]
  have tu := t.updPlane fun y => y.withSteps (insertBy (·.tile) { tile := tile, admitted := b.canAdmit h 0 tile } y.steps)
  rw [hs] at tu
  exact ⟨_, tu⟩

section
variable (hs : y.steps = [x])
include hs

theorem Module.Turned.updStep (f : TStep → TStep) : a.Turned h (b.updStep h 0 x.tile f) (c.one (y.withSteps [f x])) := by
  have tu := t.updPlane fun y => y.withSteps (y.steps.map fun s => if s.tile == x.tile then f s else s)
  rw [hs, List.map_singleton, if_pos (beq_self_eq_true _)] at tu
  exact tu

/-- The partial of a tile step after the contributions that it holds. -/
def TStep.added (x : TStep) (g : Geo) (anch : List Nat) : TStep :=
  { x with
    raws := []
    part := (x.raws.map fun q => contribPart g.r anch q.bytes (if q.absent then some 0 else q.mask) (g.inElems x.tile)).foldl
      (joinPart g.r) x.part }

theorem Module.Turned.addRaws (anch : List Nat) :
    a.Turned h (b.addRaws h 0 x.tile anch) (c.one (y.withSteps [x.added (c.one y).geo anch])) := by
  unfold Module.addRaws
  rw [t.plane, hs, List.find?_cons_of_pos (by simp)]
  dsimp only
  rw [t.ctx]
  exact (t.beside ((Module.Beside.refl _).redEvents _ _)).updStep hs fun s => { s with
    raws := []
    part := (x.raws.map fun q => contribPart (c.one y).geo.r anch q.bytes (if q.absent then some 0 else q.mask)
      ((c.one y).geo.inElems x.tile)).foldl (joinPart (c.one y).geo.r) s.part }

end
end

/-- A tile step after its first contribution, which is whole. -/
structure TStep.First (x : TStep) (g : Geo) (member tile : Nat) (bytes : Bytes) : Prop where
  tile_eq : x.tile = tile
  got : x.got = [member]
  sent : x.sent = false
  pieces : x.pieces = []
  waits : x.admitted = false ∨ g.r.staged = true → x.raws.map (·.bytes) = [bytes]
  adds : x.admitted = true → g.r.staged = false → x.raws = [] ∧
    x.part = joinPart g.r {} (contribPart g.r (suppliedAnchors g.r (g.inElems tile)) bytes none (g.inElems tile))

/-- The tile step with one more contribution, which it holds as received. -/
def TStep.take (x : TStep) (q : Raw) : TStep := { x with got := x.got ++ [q.member], raws := x.raws ++ [q] }

theorem TStep.first_held {g : Geo} {tile member : Nat} {adm : Bool} {q : Raw} (hq : q.member = member)
    (h : ¬ (adm && !g.r.staged) = true) :
    (({ tile := tile, admitted := adm } : TStep).take q).First g member tile q.bytes :=
  ⟨rfl, by simp [TStep.take, hq], rfl, rfl, fun _ => rfl, fun ha hst => absurd (by simp [show adm = true from ha, hst]) h⟩

theorem TStep.first_added {g : Geo} {tile member : Nat} {adm : Bool} {q : Raw} (hq : q.member = member)
    (h : (adm && !g.r.staged) = true) (habs : q.absent = false) (hmask : q.mask = none) :
    ((({ tile := tile, admitted := adm } : TStep).take q).added g (suppliedAnchors g.r (g.inElems tile))).First g member tile
      q.bytes := by
  obtain ⟨hadm, hst⟩ := Bool.and_eq_true_iff.mp h
  refine ⟨rfl, by simp [TStep.take, TStep.added, hq], rfl, rfl, fun hw => ?_, fun _ _ => ⟨rfl, ?_⟩⟩
  · obtain hw | hw := hw
    · exact absurd hadm (by rw [show adm = false from hw]; decide)
    · exact absurd hst (by rw [hw]; decide)
  · simp [TStep.take, TStep.added, habs, hmask]

section
variable {h : Nat} {a b : Module} {c : Ctx} {y : Plane} (t : a.Turned h b (c.one y))
include t

/-- A contribution taken by a tile step that has just been opened. -/
theorem Module.Turned.takeFirst {tile : Nat} {adm : Bool} (hs : y.steps = [{ tile := tile, admitted := adm }]) (q : Raw)
    (habs : q.absent = false) (hmask : q.mask = none) :
    ∃ x : TStep, x.First (c.one y).geo q.member tile q.bytes ∧
      a.Turned h (if adm && !(c.one y).geo.r.staged then (b.updStep h 0 tile (·.take q)).addRaws h 0 tile
          (suppliedAnchors (c.one y).geo.r ((c.one y).geo.inElems tile)) else b.updStep h 0 tile (·.take q))
        (c.one (y.withSteps [x])) := by
  have tu := t.updStep hs (·.take q)
  by_cases hadd : (adm && !(c.one y).geo.r.staged) = true
  · rw [if_pos hadd]
    exact ⟨_, TStep.first_added rfl hadd habs hmask, tu.addRaws rfl _⟩
  · rw [if_neg hadd]
    exact ⟨_, TStep.first_held rfl hadd, tu⟩

theorem Module.Turned.contribIn (hs : y.steps = []) (hdone : y.stepsDone.cells = []) (hgone : y.gone = []) (member tile : Nat)
    (bytes : Bytes) (again : Bool) : ∃ x : TStep, x.First (c.one y).geo member tile bytes ∧
      a.Turned h (b.contribIn h 0 member tile false none bytes again) (c.one (y.withSteps [x])) := by
  have hget : y.stepsDone.get tile = false := by
    unfold Tab.get
    rw [hdone]
    rfl
  obtain ⟨adm, tn⟩ := (t.beside ((Module.Beside.refl b).red (b.stepDie h 0 tile) (off := 0x000) 1 (by decide))).openStep hs tile
  have hany : ([({ tile := tile, admitted := adm } : TStep)].any fun s => s.tile == tile && s.admitted) = adm := by simp
  unfold Module.contribIn
  dsimp only
  rw [t.plane, hget, hgone, hs, if_neg (by simp), if_neg Bool.false_ne_true, t.ctx, tn.plane, hany]
  generalize (if adm = true then none else Module.stagePlace _) = place
  cases place with
  | none => exact Module.Turned.takeFirst tn rfl { member := member, bytes := bytes } rfl rfl
  | some k =>
    exact Module.Turned.takeFirst (tn.beside ((((Module.Beside.refl _).freshTile _).countWrite _).collCount (off := 0x138) _
      (by decide) (by decide))) rfl { member := member, place := some k, bytes := bytes } rfl rfl

end

/-! ### Tiles and masks (R239) -/

theorem Module.pair_whole (m : Module) (h q : Nat) {p : Pkt} (hk : kindOf p ≠ 1) (hm : isMasked p = false)
    (ha : isAbsent p = false) : m.pair h q p = (m, some (false, none, p.pl)) := by
  unfold Module.pair
  dsimp only
  rw [hm, ha, if_pos (by simp [hk])]

/-- A MASK waits for its tile. -/
structure Half.MaskOf (x : Half) (p : Pkt) : Prop where
  mask : x.mask = true
  off : x.off = p.h.offset
  bytes : x.bytes = p.pl

theorem Module.Turned.pair_mask {h : Nat} {a b : Module} {c : Ctx} {y : Plane} {p : Pkt} (t : a.Turned h b (c.one y))
    (hk : kindOf p = 1) (hh : y.halves = []) : ∃ (n : Module) (x : Half), b.pair h 0 p = (n, none) ∧ x.MaskOf p ∧
      a.Turned h n (c.one (y.withHalves [x])) := by
  have tu (x : Half) (f : Half → Bool) := t.updPlane fun y => y.withHalves ((y.halves.filter f) ++ [x])
  simp only [hh, List.filter_nil, List.nil_append] at tu
  unfold Module.pair
  dsimp only
  rw [hk, if_neg (by simp), t.plane, hh, List.find?_nil]
  exact ⟨_, _, rfl, ⟨rfl, rfl, rfl⟩, tu _ _⟩

theorem tileForm_whole {p : Pkt} (hoff : p.h.offset % 2048 = 0) (hk : kindOf p ≠ 1) (ha : isAbsent p = false)
    (hlen : p.pl.length = 2048) : tileForm p = true := by
  simp [tileForm, hoff, hk, ha, hlen]

theorem tileForm_mask {p : Pkt} (hoff : p.h.offset % 2048 = 0) (hk : kindOf p = 1) : tileForm p = true := by
  simp [tileForm, hoff, hk]

theorem npieces_pos (r : Red) (n : Nat) : 0 < r.npieces n := Nat.succ_pos _

/-- What a tile packet and its MASK leave, by what has arrived of the pair. -/
def paired (z : Module × Option (Bool × Option Nat × Bytes)) (f : Module → Bool → Option Nat → Bytes → Module) : Module :=
  z.2.elim z.1 fun x => f z.1 x.1 x.2.1 x.2.2

/-! ### Packets of local members and of children, before the launch count -/

/-- A plane with one tile step that holds no complete PARTIAL of a child waits. -/
theorem Staging.still_step {m : Module} {h : Nat} {c : Ctx} {y z : Plane} {sg : Bytes} {x : TStep} (s : Staging m h c y sg)
    (hchk : z.checked = false) (hx : z.xwait = []) (hrets : z.rets = []) (hsteps : z.steps = [x]) (hsent : x.sent = false)
    (hp : x.pieces.length < c.geo.r.npieces (c.geo.inElems x.tile)) : c.Still z := by
  refine Staging.still_of s hchk hx (fun w hw => ?_) (by rw [hrets]; nofun)
  rw [hsteps, List.mem_singleton] at hw
  rw [hw, Staging.geo s]
  exact ⟨hsent, fun k => Nat.lt_of_le_of_lt (List.length_filter_le _ _) hp⟩

section
variable {m : Module} {p : Pkt} {c : Ctx} {y : Plane} {sg : Bytes} (s : Staging m p.h.tag c y sg)
include s

/-- A data packet leaves the plane waiting. -/
theorem Staging.data {type kind : Nat} {z : Plane} (hr : Reaches m p type) (hk : kindOf p = kind) (still : c.Still z)
    (t : (m.taken p).Turned p.h.tag ((m.taken p).applyData p.h.tag p) (c.one z)) :
    (m.taken p).Turned p.h.tag (m.dataRow p type kind) (c.one z) :=
  Module.Turned.dataRow hr hk (t.advance (Staging.used s) (Staging.due s) still) still.unsent

theorem Staging.sig_taken : ((m.taken p).ctx p.h.tag).sig = some sg := by
  rw [show (m.taken p).ctx p.h.tag = c from Staging.ctx s, Staging.sig s]

section
variable {l : Loc} (hop : c.geo.op < 3) (htot : p.h.offset / 2048 * c.geo.r.ei < c.geo.total)
  (hloc : c.sender (m.cplan p.h.tag 0) p = some l)
include hop htot hloc

/-- A member's CONTRIB or its MASK: what its pair leaves. -/
theorem applyContrib_pair (hform : tileForm p = true) (again : Bool) :
    (m.taken p).applyContrib p.h.tag p again =
      paired (((m.taken p).touch p.h.tag 0 true).pair p.h.tag 0 p) fun n a k d =>
        n.contribIn p.h.tag 0 l.member (p.h.offset / 2048) a k d again := by
  have hred : c.geo.reduce = true := by simp [Geo.reduce]; omega
  have hplane : c.tilePlane (p.h.offset / 2048) = 0 := by
    unfold Ctx.tilePlane
    dsimp only
    rw [if_pos hred, Ctx.planeOf_one (Staging.planes s) hop]
  have hruns := Staging.runs s
  unfold Module.applyContrib
  dsimp only
  rw [show (m.taken p).ctx p.h.tag = c from Staging.ctx s, hplane, show (m.taken p).cplan p.h.tag 0 = m.cplan p.h.tag 0 from rfl,
    hloc]
  dsimp only
  rw [show (m.taken p).plane p.h.tag 0 = y from Module.plane_one (Staging.one s), hruns, hform, if_neg (by decide), if_pos hred,
    if_neg (by omega)]
  generalize Module.pair _ _ _ _ = z
  obtain ⟨n, _ | ⟨a, k, d⟩⟩ := z <;> rfl

section
variable (hoff : p.h.offset % 2048 = 0) (hr : Reaches m p 0x11)
include hoff hr

theorem contrib_kept (hk : kindOf p = 0) (hm : isMasked p = false) (ha : isAbsent p = false) (hlen : p.pl.length = 2048) :
    ∃ (x : TStep) (due : Option Nat), x.First c.geo l.member (p.h.offset / 2048) p.pl ∧
      (m.taken p).Turned p.h.tag (contrib p m) (c.one ((y.timed true due).withSteps [x])) := by
  have t0 : (m.taken p).Turned p.h.tag (m.taken p) (c.one y) := Module.turned_refl (Staging.one s)
  have still := Staging.still s
  have hruns := Staging.runs s
  have hk1 : kindOf p ≠ 1 := by omega
  obtain ⟨-, -, -, -, -, -, -, -, -, hchk, hsteps, hrets, -, hx, hdone, hgone, -, -⟩ := id s
  obtain ⟨due, tt⟩ := t0.touchData hruns
  obtain ⟨x, hfirst, tc⟩ := tt.contribIn hsteps hdone hgone l.member (p.h.offset / 2048) p.pl false
  rw [Staging.geo s] at hfirst
  refine ⟨x, some due, hfirst, Staging.data s hr hk ?_ ?_⟩
  · exact Staging.still_step s hchk hx hrets rfl hfirst.sent (by rw [hfirst.pieces]; exact npieces_pos _ _)
  · rw [Module.applyData_contrib (Staging.sig_taken s) _ hr.1.1.2.1 hk, applyContrib_pair s hop htot hloc (tileForm_whole hoff hk1 ha hlen),
      Module.pair_whole _ _ _ hk1 hm ha]
    exact tc

theorem collMask_kept (hk : kindOf p = 1) : ∃ (x : Half) (due : Option Nat), x.MaskOf p ∧
    (m.taken p).Turned p.h.tag (collMask p m) (c.one ((y.timed true due).withHalves [x])) := by
  have t0 : (m.taken p).Turned p.h.tag (m.taken p) (c.one y) := Module.turned_refl (Staging.one s)
  have still := Staging.still s
  have hruns := Staging.runs s
  obtain ⟨-, -, hplanes, -, -, -, -, -, -, -, -, -, hhalves, -⟩ := id s
  obtain ⟨due, tt⟩ := t0.touchData hruns
  obtain ⟨n, x, hpair, hx, tn⟩ := tt.pair_mask hk hhalves
  refine ⟨x, some due, hx, Staging.data s hr hk ⟨still.sig, still.summary, still.checked, still.steps, still.rets, still.xwait⟩ ?_⟩
  have hlocal : ((List.range c.planes.length).any fun q => (c.sender ((m.taken p).cplan p.h.tag q) p).isSome) = true := by
    rw [hplanes]
    simp only [List.length_singleton, List.range_one, List.any_cons, List.any_nil, Bool.or_false]
    rw [show (m.taken p).cplan p.h.tag 0 = m.cplan p.h.tag 0 from rfl, hloc]
    rfl
  rw [Module.applyData_mask (Staging.sig_taken s) _ hr.1.1.2.1 hk (Staging.ctx s ▸ hlocal),
    applyContrib_pair s hop htot hloc (tileForm_mask hoff hk), hpair]
  exact tn

end
end
end

end Sys2Proof.Machine
end

section
/-!
What a reduction keeps of its children's packets and of its results, and the steps of a tile step (R240 to R247, R250).
-/
namespace Sys2Proof.Machine
open Sys2Proof.Claims

/-! ### A tile retained (R250) -/

/-- A context that has retained another number of tiles. -/
abbrev Ctx.withRetained (c : Ctx) (n : Nat) : Ctx := { c with retained := n }

theorem Module.Turned.retain {h : Nat} {a b : Module} {c : Ctx} {y : Plane} (t : a.Turned h b (c.one y)) (x : Ret) :
    ∃ place crc dig, a.Turned h (b.retain h 0 x) ((c.withRetained (c.retained + 1)).one
      (y.withRets (y.rets ++ [{ x with place := place, crc := crc, dig := dig }]))) := by
  have tu (k : Nat) (z : Ret) := ((t.beside (((Module.Beside.refl b).freshTile k).countWrite k)).updPlane fun y =>
    y.withRets (y.rets ++ [z])).updCtx fun c => { c with retained := c.retained + 1 }
  unfold Module.retain
  dsimp only
  exact ⟨_, _, _, (tu _ _).beside ((Module.Beside.refl _).collCount 1 (by decide) (by decide))⟩

theorem Module.Turned.dstsOf {h : Nat} {a b : Module} {c : Ctx} (t : a.Turned h b c) (hp : c.plans = (a.ctx h).plans)
    (hg : c.geo = (a.ctx h).geo) (r : Nat) (src : Option Nat) : b.dstsOf h 0 r src = a.dstsOf h 0 r src := by
  unfold Module.dstsOf
  rw [t.ctx, t.cplan hp, hg]

/-- A destination has acknowledged nothing at first. -/
theorem Module.dstsOf_unacked (m : Module) (h q r : Nat) (src : Option Nat) : ∀ d ∈ m.dstsOf h q r src, d.acked = false := by
  intro d hd
  unfold Module.dstsOf at hd
  dsimp only at hd
  rw [List.mem_append, List.mem_append, List.mem_map, List.mem_map] at hd
  obtain (⟨_, -, rfl⟩ | ⟨_, -, rfl⟩) | hd := hd
  · rfl
  · rfl
  · split at hd
    · rw [List.mem_singleton] at hd
      rw [hd]
    · cases hd

theorem Module.dstsOf_awaited {m : Module} {h q r : Nat} {src : Option Nat} (hne : (m.dstsOf h q r src).isEmpty = false) :
    ((m.dstsOf h q r src).all (·.acked)) = false := by
  obtain ⟨d, hd⟩ := List.exists_mem_of_ne_nil _ (by simpa using hne : m.dstsOf h q r src ≠ [])
  exact List.all_eq_false.mpr ⟨d, hd, by rw [m.dstsOf_unacked h q r src d hd]; decide⟩

section
variable {m : Module} {p : Pkt} {c : Ctx} {y : Plane} {sg : Bytes} (s : Staging m p.h.tag c y sg)
include s

/-- A data packet whose tile is retained leaves the plane waiting, as long as a destination is to acknowledge it. -/
theorem Staging.data_retained {type kind n : Nat} {z : Plane} {x : Ret} (hr : Reaches m p type) (hk : kindOf p = kind)
    (hz : z.rets = [x]) (hsteps : z.steps = []) (hchk : z.checked = false) (hx : z.xwait = [])
    (hack : (x.dsts.all (·.acked)) = false)
    (t : (m.taken p).Turned p.h.tag ((m.taken p).applyData p.h.tag p) ((c.withRetained n).one z)) :
    (m.taken p).Turned p.h.tag (m.dataRow p type kind) ((c.withRetained n).one z) := by
  have still : c.Still z := Staging.still_of s hchk hx (by rw [hsteps]; nofun) fun w hw => by
    rw [hz, List.mem_singleton] at hw
    rw [hw, hack]
  have hu := Staging.used s
  have hl := Staging.due s
  exact Module.Turned.dataRow hr hk (t.advance hu hl
    ⟨still.sig, still.summary, still.checked, still.steps, still.rets, still.xwait⟩) (Ctx.unsent_bare hsteps)

end

/-! ### Pieces and anchors of children (R240, R245) -/

theorem Plane.stepsDone_none {y : Plane} (h : y.stepsDone.cells = []) (tile : Nat) : y.stepsDone.get tile = false := by
  unfold Tab.get
  rw [h]
  rfl

theorem Geo.reduce_of {g : Geo} (h : g.op < 3) : g.reduce = true := by
  simp [Geo.reduce]
  omega

section
variable {m : Module} {p : Pkt} {c : Ctx} {y : Plane} {sg : Bytes} (s : Staging m p.h.tag c y sg) (hop : c.geo.op < 3)
  (hoff : p.h.offset % 2048 = 0)
include s hop hoff

section
variable (hr : Reaches m p 0x11) (htot : p.h.offset / 2048 * c.geo.r.ei < c.geo.total)
  (hkid : (m.cplan p.h.tag 0).kidChips.contains p.h.src = true)
include hr htot hkid

theorem partialPiece_kept (hk : kindOf p = 2) (hn : 2 ≤ c.geo.r.npieces (c.geo.inElems (p.h.offset / 2048))) :
    ∃ (adm : Bool) (due : Option Nat), (m.taken p).Turned p.h.tag (partialPiece p m) (c.one ((y.timed true due).withSteps
      [{ tile := p.h.offset / 2048, admitted := adm, pieces := [(p.h.src, bits p.h.tw 25 21, p.pl)] }])) := by
  have t0 : (m.taken p).Turned p.h.tag (m.taken p) (c.one y) := Module.turned_refl (Staging.one s)
  have hruns := Staging.runs s
  obtain ⟨-, -, hplanes, -, -, -, -, -, -, hchk, hsteps, hrets, -, hx, hdone, hgone, -, -⟩ := id s
  obtain ⟨due, tt⟩ := t0.touchData hruns
  obtain ⟨adm, tn⟩ := tt.openStep hsteps (p.h.offset / 2048)
  have tu := tn.updStep rfl fun s =>
    if s.kids.contains p.h.src || s.pieces.any (fun q => q.1 == p.h.src && q.2.1 == bits p.h.tw 25 21) then s
    else { s with pieces := s.pieces ++ [(p.h.src, bits p.h.tw 25 21, p.pl)] }
  refine ⟨adm, some due, Staging.data s hr hk (Staging.still_step s hchk hx hrets rfl rfl hn) ?_⟩
  rw [Module.applyData_partial (Staging.sig_taken s) _ hr.1.1.2.1 hk]
  unfold Module.applyPartial
  dsimp only
  rw [show (m.taken p).ctx p.h.tag = c from Staging.ctx s, Ctx.planeOf_one hplanes hop, t0.plane,
    show (m.taken p).cplan p.h.tag 0 = m.cplan p.h.tag 0 from rfl, Geo.reduce_of hop, hoff, hruns, hkid, Plane.stepsDone_none hdone,
    hgone, if_neg (by simp [htot])]
  exact tu

theorem anchorUp_kept (hk : kindOf p = 3) (hst : c.geo.r.staged = true)
    (hbad : badAnchor c.geo.r (anchorsFrom c.geo.r (c.geo.inElems (p.h.offset / 2048)) p.pl) = false) :
    ∃ (adm : Bool) (due : Option Nat), (m.taken p).Turned p.h.tag (anchorUp p m) (c.one ((y.timed true due).withSteps
      [{ tile := p.h.offset / 2048, admitted := adm,
         kidAnch := [(p.h.src, anchorsFrom c.geo.r (c.geo.inElems (p.h.offset / 2048)) p.pl)] }])) := by
  have t0 : (m.taken p).Turned p.h.tag (m.taken p) (c.one y) := Module.turned_refl (Staging.one s)
  have hruns := Staging.runs s
  obtain ⟨-, -, hplanes, -, -, -, -, -, -, hchk, hsteps, hrets, -, hx, hdone, hgone, -, -⟩ := id s
  obtain ⟨due, tt⟩ := t0.touchData hruns
  obtain ⟨adm, tn⟩ := tt.openStep hsteps (p.h.offset / 2048)
  have tu (d n : Nat) := (tn.beside ((Module.Beside.refl _).red d (off := 0x030) n (by decide))).updStep rfl fun s =>
    if s.kidAnch.any (·.1 == p.h.src) then s
    else { s with kidAnch := s.kidAnch ++ [(p.h.src, anchorsFrom c.geo.r (c.geo.inElems (p.h.offset / 2048)) p.pl)] }
  refine ⟨adm, some due, Staging.data s hr hk (Staging.still_step s hchk hx hrets rfl rfl (npieces_pos _ _)) ?_⟩
  rw [Module.applyData_anchorUp (Staging.sig_taken s) _ hr.1.1.2.1 hk]
  unfold Module.applyAnchorUp
  dsimp only
  rw [show (m.taken p).ctx p.h.tag = c from Staging.ctx s, Ctx.planeOf_one hplanes hop, t0.plane,
    show (m.taken p).cplan p.h.tag 0 = m.cplan p.h.tag 0 from rfl, Geo.reduce_of hop, hst, hoff, hruns, hkid,
    Plane.stepsDone_none hdone, hgone, if_neg (by simp [htot]), hbad, if_neg Bool.false_ne_true]
  exact tu _ _

end

/-! ### Results of the parent (R247, R250) -/

/-- The whole result tile of a packet, for some destinations. -/
def wholeRet (p : Pkt) (ds : List RDst) : Ret := { tile := p.h.offset / 2048, bytes := p.pl, dsts := ds }

section
variable (hr : Reaches m p 0x12) (hpar : (m.cplan p.h.tag 0).parent = p.h.src)
  (ht : p.h.offset / 2048 < c.geo.resTiles)
include hr hpar ht

theorem resultMask_kept (hk : kindOf p = 1) : ∃ (x : Half) (due : Option Nat), x.MaskOf p ∧
    (m.taken p).Turned p.h.tag (resultMask p m) (c.one ((y.timed true due).withHalves [x])) := by
  have t0 : (m.taken p).Turned p.h.tag (m.taken p) (c.one y) := Module.turned_refl (Staging.one s)
  have still := Staging.still s
  have hruns := Staging.runs s
  obtain ⟨-, -, hplanes, -, -, -, -, -, -, -, -, -, hhalves, -, -, hgone, -⟩ := id s
  obtain ⟨due, tt⟩ := t0.touchData hruns
  obtain ⟨n, x, hpair, hx, tn⟩ := tt.pair_mask hk hhalves
  refine ⟨x, some due, hx, Staging.data s hr hk ⟨still.sig, still.summary, still.checked, still.steps, still.rets, still.xwait⟩ ?_⟩
  rw [Module.applyData_result (Staging.sig_taken s) _ hr.1.1.2.1 (by omega)]
  unfold Module.applyResult
  dsimp only
  rw [show (m.taken p).ctx p.h.tag = c from Staging.ctx s, Ctx.planeOf_one hplanes hop, t0.plane,
    show (m.taken p).cplan p.h.tag 0 = m.cplan p.h.tag 0 from rfl, Geo.reduce_of hop, hruns, tileForm_mask hoff hk, hgone, hpar,
    if_neg (by simp [ht]), hpair]
  exact tn

theorem resultTile_kept (hk : kindOf p = 0) (hst : statusOf p = St.ok) (hm : isMasked p = false) (ha : isAbsent p = false)
    (hlen : p.pl.length = 2048) (hds : (m.dstsOf p.h.tag 0 (p.h.offset / 2048)).isEmpty = false) :
    ∃ (n place : Nat) (crc : Word) (dig : Bytes) (due : Option Nat), (m.taken p).Turned p.h.tag (resultTile p m)
      ((c.withRetained n).one ((y.timed true due).withRets
        [{ wholeRet p (m.dstsOf p.h.tag 0 (p.h.offset / 2048)) with place := place, crc := crc, dig := dig }])) := by
  have t0 : (m.taken p).Turned p.h.tag (m.taken p) (c.one y) := Module.turned_refl (Staging.one s)
  have hruns := Staging.runs s
  have hplans := Staging.plans s
  have hk1 : kindOf p ≠ 1 := by omega
  obtain ⟨-, -, hplanes, -, -, -, -, -, -, hchk, hsteps, hrets, -, hx, -, hgone, -, hfin⟩ := id s
  have hget : y.fin.get (p.h.offset / 2048) = false := by
    unfold Tab.get
    rw [hfin]
    rfl
  obtain ⟨due, tt⟩ := t0.touchData hruns
  have hdst := tt.dstsOf hplans (by rw [show (m.taken p).ctx p.h.tag = c from Staging.ctx s, Staging.geo s]) (p.h.offset / 2048) none
  obtain ⟨place, crc, dig, tr⟩ := tt.retain (wholeRet p (m.dstsOf p.h.tag 0 (p.h.offset / 2048)))
  refine ⟨c.retained + 1, place, crc, dig, some due, ?_⟩
  rw [show (y.timed true (some due)).rets = [] from hrets, List.nil_append] at tr
  unfold resultTile
  rw [hst, if_pos (beq_self_eq_true _)]
  refine Staging.data_retained s hr hk rfl hsteps hchk hx (Module.dstsOf_awaited hds) ?_
  rw [Module.applyData_result (Staging.sig_taken s) _ hr.1.1.2.1 (by omega)]
  unfold Module.applyResult
  dsimp only
  rw [show (m.taken p).ctx p.h.tag = c from Staging.ctx s, Ctx.planeOf_one hplanes hop, t0.plane,
    show (m.taken p).cplan p.h.tag 0 = m.cplan p.h.tag 0 from rfl, Geo.reduce_of hop, hruns, tileForm_whole hoff hk1 ha hlen, hgone,
    hpar, if_neg (by simp [ht]), Module.pair_whole _ _ _ hk1 hm ha]
  dsimp only
  rw [tt.plane, show (y.timed true (some due)).fin = y.fin from rfl, hget, show (y.timed true (some due)).rets = [] from hrets,
    List.any_nil, Bool.or_self, if_neg Bool.false_ne_true, hdst]
  exact tr.beside ((Module.Beside.refl _).toChip _ _ _ _ _ _ _)

end
end

/-! ### A tile step admitted, and its anchors agreed (R242, R245) -/

/-- The module with one tile step at plane 0 of a context. -/
abbrev Module.withStep (m : Module) (h : Nat) (x : TStep) : Module := m.updPlane h 0 fun y => y.withSteps [x]

section
variable {m : Module} {h : Nat} {c : Ctx} {y : Plane} {sg : Bytes} {x : TStep} (s : Staging m h c y sg)
include s

theorem Staging.withStep : m.Turned h (m.withStep h x) (c.one (y.withSteps [x])) :=
  (Module.turned_refl (Staging.one s)).updPlane _

theorem Staging.withStep_cells (hcells : m.coll.ctxs.cells = [(h, c)]) :
    (m.withStep h x).coll.ctxs.cells = [(h, c.one (y.withSteps [x]))] := by
  have hv : { m.ctx h with planes := modAt (m.ctx h).planes 0 fun y => y.withSteps [x] } = c.one (y.withSteps [x]) := by
    rw [Staging.one s]
    rfl
  have hused := Staging.used s
  have hne : c.one (y.withSteps [x]) ≠ default := fun e => by
    have hu : (c.one (y.withSteps [x])).used = true := hused
    rw [e] at hu
    cases hu
  change (m.coll.ctxs.put h { m.ctx h with planes := modAt (m.ctx h).planes 0 fun y => y.withSteps [x] }).cells = _
  rw [hv]
  unfold Tab.put
  rw [if_neg hne, hcells]
  simp [insertCell]

theorem Staging.still_withStep {f : TStep} (hsent : f.sent = false) (hp : f.pieces = []) : c.Still (y.withSteps [f]) := by
  obtain ⟨-, -, -, -, -, -, -, -, -, hchk, -, hrets, -, hx, -⟩ := id s
  exact Staging.still_step s hchk hx hrets rfl hsent (by rw [hp]; exact npieces_pos _ _)

theorem Staging.rests_withStep (hrest : Rests m) (hsent : x.sent = false) : Rests (m.withStep h x) := by
  refine ⟨fun j => ?_, hrest.2⟩
  have t := Staging.withStep s (x := x)
  exact Module.unsent_of_others hrest t.others (by
    rw [t.ctx]
    exact Ctx.unsent_one (by simpa using hsent)) j

end

section
variable {h : Nat} {a b : Module} {c : Ctx} {y : Plane} {x : TStep} (t : a.Turned h b (c.one y)) (hs : y.steps = [x])
include t hs

/-- A tile step without contributions is admitted. -/
theorem Module.Turned.admitStep (hraws : x.raws = []) :
    a.Turned h (b.admitStep h 0 x.tile) (c.one (y.withSteps [{ x with admitted := true }])) := by
  have tu := t.updStep hs fun s => { s with
    admitted := true, got := s.got.filter fun k => !([] : List Raw).any (·.member == k),
    raws := (s.raws.filter fun q => !([] : List Raw).contains q).map fun q => { q with place := none } }
  have hx : { x with
      admitted := true, got := x.got.filter fun k => !([] : List Raw).any (·.member == k),
      raws := (x.raws.filter fun q => !([] : List Raw).contains q).map fun q => { q with place := none } } =
        { x with admitted := true } := by
    simp [hraws]
  have hadd (anch : List Nat) : ({ x with admitted := true } : TStep).added (c.one y).geo anch = { x with admitted := true } := by
    simp [TStep.added, hraws]
  rw [hx] at tu
  have ta (anch : List Nat) := Module.Turned.addRaws tu rfl anch
  simp only [show (c.one (y.withSteps [{ x with admitted := true }])).geo = (c.one y).geo from rfl, hadd] at ta
  have hnone (f : Raw → Bool) : x.raws.filter f = [] := by rw [hraws, List.filter_nil]
  have hfold (f : Module → Raw → Module) : x.raws.foldl f b = b := by rw [hraws, List.foldl_nil]
  unfold Module.admitStep
  rw [t.plane, hs, List.find?_cons_of_pos (by simp)]
  dsimp only
  rw [hnone, hfold]
  split
  · exact tu
  · exact ta _

/-- Agreed anchors come into force at a module without children. -/
theorem Module.Turned.agree (hp : c.plans = (a.ctx h).plans) (hkids : (a.cplan h 0).kids = []) (anch : List Nat) :
    a.Turned h (b.agree h 0 x.tile anch) (c.one (y.withSteps [({ x with agreed := some anch } : TStep).added (c.one y).geo anch])) := by
  have tu := t.updStep hs fun s => { s with agreed := some anch }
  have ta := Module.Turned.addRaws tu rfl anch
  unfold Module.agree
  dsimp only
  rw [tu.cplan hp, hkids, List.foldl_nil]
  exact ta

end

section
variable {m : Module} {h d : Nat} {c : Ctx} {y : Plane} {sg : Bytes} {x : TStep} (s : Staging m h c y sg)
  (hsent : x.sent = false) (hpieces : x.pieces = [])
include s hsent hpieces

theorem tileStepAdmit_admits (hrest : Rests m) (hcells : m.coll.ctxs.cells = [(h, c)]) (hw : m.working = true)
    (hadm : x.admitted = false) (hraws : x.raws = []) (hd : (m.withStep h x).stepDie h 0 x.tile = d)
    (hcan : (m.withStep h x).canAdmit h 0 x.tile = true) :
    (m.withStep h x).Turned h (tileStepAdmit d (m.withStep h x)) (c.one (y.withSteps [{ x with admitted := true }])) := by
  have hruns : (y.withSteps [x]).runs = true := (Staging.runs s :)
  have hwaits : ((m.withStep h x).coll.ctxs.cells.flatMap fun c => c.2.planes.zipIdx.flatMap fun y =>
      (y.1.steps.filter fun s => !s.admitted && y.1.runs).map fun s => (c.1, y.2, s.tile)) = [(h, 0, x.tile)] := by
    rw [Staging.withStep_cells s hcells]
    simp only [Ctx.one, List.flatMap_cons, List.flatMap_nil, List.append_nil, List.zipIdx_cons, List.zipIdx_nil]
    rw [List.filter_cons_of_pos (by rw [hadm, hruns]; rfl)]
    rfl
  have t0 : (m.withStep h x).Turned h (m.withStep h x) (c.one (y.withSteps [x])) := Module.turned_refl (Staging.withStep s).ctx
  have hdue := Staging.due s
  have ta := t0.admitStep rfl hraws
  have still : c.Still (y.withSteps [{ x with admitted := true }]) := Staging.still_withStep s hsent hpieces
  unfold tileStepAdmit
  dsimp only
  rw [show (m.withStep h x).working = true from hw, if_neg (by decide), hwaits, List.find?_cons_of_pos (by simp [hd, hcan])]
  exact Module.Turned.event (ta.advance (Staging.used s) hdue still) (Staging.rests_withStep s hrest hsent) still.unsent

end

section
variable {m : Module} {p : Pkt} {c : Ctx} {y : Plane} {sg : Bytes} {x : TStep} (s : Staging m p.h.tag c y sg)
include s

theorem anchorDown_agrees (hop : c.geo.op < 3) (hsent : x.sent = false) (hpieces : x.pieces = [])
    (hkids : (m.cplan p.h.tag 0).kids = []) (hr : Reaches (m.withStep p.h.tag x) p 0x12) (hk : kindOf p = 2)
    (hoff : p.h.offset = 2048 * x.tile) (htot : x.tile * c.geo.r.ei < c.geo.total) (hst : c.geo.r.staged = true)
    (hpar : (m.cplan p.h.tag 0).parent = p.h.src) (hag : x.agreed = none)
    (hbad : badAnchor c.geo.r (anchorsFrom c.geo.r (c.geo.inElems x.tile) p.pl) = false) :
    ∃ due, ((m.withStep p.h.tag x).taken p).Turned p.h.tag (anchorDown p (m.withStep p.h.tag x)) (c.one ((y.timed true due).withSteps
      [({ x with agreed := some (anchorsFrom c.geo.r (c.geo.inElems x.tile) p.pl) } : TStep).added c.geo
        (anchorsFrom c.geo.r (c.geo.inElems x.tile) p.pl)])) := by
  have hctx : (m.withStep p.h.tag x).ctx p.h.tag = c.one (y.withSteps [x]) := (Staging.withStep s).ctx
  have t0 : ((m.withStep p.h.tag x).taken p).Turned p.h.tag ((m.withStep p.h.tag x).taken p) (c.one (y.withSteps [x])) :=
    Module.turned_refl hctx
  have hruns : (y.withSteps [x]).runs = true := (Staging.runs s :)
  have hplans : c.plans = ((m.withStep p.h.tag x).ctx p.h.tag).plans := by rw [hctx]; rfl
  have hplans0 := Staging.plans s
  have hplan : ((m.withStep p.h.tag x).taken p).cplan p.h.tag 0 = m.cplan p.h.tag 0 :=
    (Staging.withStep s (x := x)).cplan hplans0 0
  have hdue := Staging.due s
  have hgeo (z : Plane) : (c.one z).geo = c.geo := Staging.geo s z
  have hoff0 : p.h.offset % 2048 = 0 := by omega
  have htile : p.h.offset / 2048 = x.tile := by omega
  have hsig0 := Staging.sig s
  have hsig : (((m.withStep p.h.tag x).taken p).ctx p.h.tag).sig = some sg := by
    rw [t0.ctx]
    exact hsig0
  have still : c.Still (y.withSteps [({ x with agreed := some (anchorsFrom c.geo.r (c.geo.inElems x.tile) p.pl) } : TStep).added c.geo
      (anchorsFrom c.geo.r (c.geo.inElems x.tile) p.pl)]) := Staging.still_withStep s hsent hpieces
  obtain ⟨due, tt⟩ := t0.touchData hruns
  have ta (d n : Nat) := Module.Turned.agree (tt.beside ((Module.Beside.refl _).red d (off := 0x030) n (by decide))) rfl hplans
    (by rw [hplan]; exact hkids) (anchorsFrom c.geo.r (c.geo.inElems x.tile) p.pl)
  rw [hgeo] at ta
  refine ⟨some due, Module.Turned.dataRow hr hk ?_ (Ctx.unsent_one fun z hz => (still.steps z hz).2.1)⟩
  rw [Module.applyData_anchorDown hsig _ hr.1.1.2.1 hk]
  unfold Module.applyAnchorDown
  dsimp only
  rw [t0.ctx, hgeo, htile, Ctx.planeOf_one (Staging.planes s) hop, t0.plane, hplan, Geo.reduce_of hop, hst, hoff0, hruns, hpar,
    if_neg (by simp [htot, hag]), hbad, if_neg Bool.false_ne_true]
  exact (ta _ _).advance (Staging.used s) hdue ⟨still.sig, still.summary, still.checked, still.steps, still.rets, still.xwait⟩

end

end Sys2Proof.Machine

namespace Sys2Proof.Proofs
open Sys2Proof.Machine Sys2Proof.Claims

/-- Settles O52: each packet leaves what it brings at the plane's one tile step, its halves or its retained tiles, and the plane
waits for its launch count. -/
theorem reductionsTakeTheirTiles : Obligations.ReductionsTakeTheirTiles := by
  unfold Obligations.ReductionsTakeTheirTiles
  refine ⟨fun s p c y sg l => ?_, fun s p h d c y sg x => ?_⟩
  · intro h g t off In hoff hs hop hnp
    have hst := hs
    obtain ⟨-, -, -, -, -, -, -, -, -, -, hsteps, hrets, -⟩ := hst
    refine ⟨fun hr htot => ⟨fun hloc => ⟨fun hk hm ha hlen => ?_, fun hk => ?_⟩, fun hkid hn => ⟨fun hk => ?_, fun hk hst hbad => ?_⟩⟩,
      fun hr hpar hroot ht => ⟨fun hk hst hm ha hlen hds => ?_, fun hk => ?_⟩⟩
    · obtain ⟨x, due, hx, tk⟩ := contrib_kept hs hop htot hloc hoff hr hk hm ha hlen
      refine completes_withM (contrib p) rfl ⟨tk.others, tk.mem, ?_⟩
      rw [tk.plane]
      exact ⟨x, rfl, hx.tile_eq, hx.got, fun h => hx.waits (.inl h), fun _ h => hx.waits (.inr h), hx.adds⟩
    · obtain ⟨x, due, hx, tk⟩ := collMask_kept hs hop htot hloc hoff hr hk
      refine completes_withM (collMask p) rfl ⟨tk.others, tk.mem, ?_⟩
      rw [tk.plane]
      exact ⟨hsteps, x, rfl, hx.mask, hx.off, hx.bytes⟩
    · obtain ⟨adm, due, tk⟩ := partialPiece_kept hs hop hoff hr htot hkid hk hn
      refine completes_withM (partialPiece p) rfl ⟨tk.others, tk.mem, ?_⟩
      rw [tk.plane]
      exact ⟨_, rfl, rfl, rfl, rfl⟩
    · obtain ⟨adm, due, tk⟩ := anchorUp_kept hs hop hoff hr htot hkid hk hst hbad
      refine completes_withM (anchorUp p) rfl ⟨tk.others, tk.mem, ?_⟩
      rw [tk.plane]
      exact ⟨_, rfl, rfl, rfl, rfl⟩
    · obtain ⟨n, place, crc, dig, due, tk⟩ := resultTile_kept hs hop hoff hr hpar ht hk hst hm ha hlen hds
      refine completes_withM (resultTile p) rfl ⟨tk.others, tk.mem, ?_⟩
      rw [tk.plane]
      exact ⟨_, rfl, rfl, rfl, rfl, hsteps⟩
    · obtain ⟨x, due, hx, tk⟩ := resultMask_kept hs hop hoff hr hpar ht hk
      refine completes_withM (resultMask p) rfl ⟨tk.others, tk.mem, ?_⟩
      rw [tk.plane]
      exact ⟨hrets, x, rfl, hx.mask, hx.off, hx.bytes⟩
  · intro g hs hrest hop hnp hkids hsent hpieces hc on k
    refine ⟨fun hcells hw hadm hraws hd hcan => ?_, fun hr htag hk hoff htot hst hpar hroot hag hbad => ?_⟩
    · have tk := tileStepAdmit_admits hs hsent hpieces hrest hcells hw hadm hraws hd hcan
      exact completes_withM (tileStepAdmit d) rfl ⟨congrArg Plane.steps tk.plane, tk.mem⟩
    · subst htag
      obtain ⟨due, tk⟩ := anchorDown_agrees hs hop hsent hpieces hkids hr hk hoff htot hst hpar hag hbad
      exact completes_withM (anchorDown p) rfl ⟨tk.mem, fun j hj => (tk.others j hj).trans ((Staging.withStep hs).others j hj),
        _, congrArg Plane.steps tk.plane, rfl, rfl, rfl, rfl⟩

end Sys2Proof.Proofs
end

section
/-!
Tiles of gathers and of exchanges, and declarations, before the launch count (R249, R250, R270 to R273).
-/
namespace Sys2Proof.Machine
open Sys2Proof.Claims

/-! ### Gathers (R249) -/

theorem Geo.planeOf_np {g : Geo} (hnp : g.np = 1) (k : Nat) : g.planeOf k = 0 := by
  unfold Geo.planeOf
  rw [hnp, Nat.mod_one, Nat.mod_one, ite_self]

/-- A whole tile is held with its elements beyond the count as 0. -/
theorem Geo.gathered_whole (g : Geo) (r : Nat) (pl : Bytes) :
    g.gathered r false none pl = (false, none, cutTile g.r.inF (g.resElems r) pl) := rfl

theorem Module.Turned.putDigs {h : Nat} {a b : Module} {c : Ctx} {y : Plane} (t : a.Turned h b (c.one y)) (q : Bool)
    (f : Tab Bytes → Tab Bytes) : ∃ digs, a.Turned h (if q then b.updPlane h 0 fun y => { y with digs := f y.digs } else b)
      (c.one { y with digs := digs }) := by
  cases q
  · exact ⟨y.digs, t⟩
  · exact ⟨_, t.updPlane _⟩

section
variable {m : Module} {p : Pkt} {c : Ctx} {y : Plane} {sg : Bytes} (s : Staging m p.h.tag c y sg)
  (hoff : p.h.offset % 2048 = 0) (hnp : c.geo.np = 1)
include s hoff hnp

/-- A tile of a tree neighbour, as it is retained. -/
def gatherRet (g : Geo) (p : Pkt) (ds : List RDst) : Ret :=
  { tile := p.h.offset / 2048, bytes := cutTile g.r.inF (g.resElems (p.h.offset / 2048)) p.pl, dsts := ds }

theorem collGather_kept (hr : Reaches m p 0x11) (hk : kindOf p = 5) (hop : c.geo.op = 3 ∨ c.geo.op = 4)
    (hkid : (m.cplan p.h.tag 0).kidChips.contains p.h.src = true) (ht : p.h.offset / 2048 < c.geo.resTiles)
    (hm : isMasked p = false) (ha : isAbsent p = false) (hlen : p.pl.length = 2048)
    (hds : (m.dstsOf p.h.tag 0 (p.h.offset / 2048) (some p.h.src)).isEmpty = false) :
    ∃ (n place : Nat) (crc : Word) (dig : Bytes) (z : Plane), (m.taken p).Turned p.h.tag (collGather p m)
      ((c.withRetained n).one (z.withRets [{ gatherRet c.geo p (m.dstsOf p.h.tag 0 (p.h.offset / 2048) (some p.h.src)) with
        place := place, crc := crc, dig := dig }])) := by
  have t0 : (m.taken p).Turned p.h.tag (m.taken p) (c.one y) := Module.turned_refl (Staging.one s)
  have hruns := Staging.runs s
  have hplans := Staging.plans s
  have hk1 : kindOf p ≠ 1 := by omega
  have hgather : c.geo.gather = true := by
    unfold Geo.gather
    obtain h | h := hop <;> rw [h] <;> rfl
  obtain ⟨-, -, -, -, -, -, -, -, -, hchk, hsteps, hrets, -, hx, -, hgone, -, hfin⟩ := id s
  have hget : y.fin.get (p.h.offset / 2048) = false := by
    unfold Tab.get
    rw [hfin]
    rfl
  obtain ⟨due, tt⟩ := t0.touchData hruns
  have hgeo : (c.one (y.timed true (some due))).geo = c.geo := Staging.geo s _
  have hdst := tt.dstsOf hplans (by rw [show (m.taken p).ctx p.h.tag = c from Staging.ctx s, hgeo]) (p.h.offset / 2048)
    (some p.h.src)
  obtain ⟨digs, td⟩ := tt.putDigs (m.cplan p.h.tag 0).isRoot fun l => l.put (p.h.offset / 2048) (c.geo.digest
    (gatherRet c.geo p (m.dstsOf p.h.tag 0 (p.h.offset / 2048) (some p.h.src))))
  obtain ⟨place, crc, dig, tr⟩ := td.retain (gatherRet c.geo p (m.dstsOf p.h.tag 0 (p.h.offset / 2048) (some p.h.src)))
  refine ⟨c.retained + 1, place, crc, dig, { y.timed true (some due) with digs := digs }, ?_⟩
  rw [show ({ y.timed true (some due) with digs := digs } : Plane).rets = [] from hrets, List.nil_append] at tr
  refine Staging.data_retained s hr hk rfl hsteps hchk hx (Module.dstsOf_awaited hds) ?_
  rw [Module.applyData_gather (Staging.sig_taken s) _ hr.1.1.2.1 hk]
  unfold Module.applyGather
  dsimp only
  rw [show (m.taken p).ctx p.h.tag = c from Staging.ctx s, Geo.planeOf_np hnp, t0.plane,
    show (m.taken p).cplan p.h.tag 0 = m.cplan p.h.tag 0 from rfl, hgather, hruns, tileForm_whole hoff hk1 ha hlen, hgone,
    hkid, if_neg (by simp [ht]), Module.pair_whole _ _ _ hk1 hm ha]
  dsimp only
  unfold Module.gatherIn
  dsimp only
  rw [tt.plane, show (y.timed true (some due)).fin = y.fin from rfl, hget, show (y.timed true (some due)).rets = [] from hrets,
    List.any_nil, Bool.or_self, if_neg Bool.false_ne_true, tt.ctx, hgeo, Geo.gathered_whole, hdst, tt.cplan hplans]
  exact tr.beside ((Module.Beside.refl _).toChip _ _ _ _ _ _ _)

end

end Sys2Proof.Machine
end

section
/-!
Tiles of an exchange wait in the staging area for the launch count (R271).
-/
namespace Sys2Proof.Machine
open Sys2Proof.Claims

/-! ### Places of the staging area -/

/-- The places of the staging area that a context uses. -/
def Ctx.places (c : Ctx) : List Nat :=
  c.xpark.filterMap (·.place) ++ c.planes.flatMap fun y =>
    (y.steps.flatMap fun s => s.raws.filterMap (·.place)) ++ y.xwait.filterMap (·.place)

theorem flatMap_insertCell {α β : Type} {f : α → List β} {d v : α} {k : Nat} (hv : f v = []) :
    ∀ l : List (Nat × α), f (lookupCell d k l) = [] → ((insertCell k v l).flatMap fun c => f c.2) = l.flatMap fun c => f c.2
  | [], _ => by simp [insertCell, hv]
  | x :: l, hl => by
    unfold insertCell
    unfold lookupCell at hl
    split
    · simp [hv]
    · split
      next hk =>
        rw [if_pos hk] at hl
        simp [hv, hl]
      next hk =>
        rw [if_neg hk] at hl
        rw [List.flatMap_cons, List.flatMap_cons, flatMap_insertCell hv l hl]

theorem Module.resUnit_congr {a b : Module} (hd : b.dies = a.dies) (k : Nat) : b.resUnit k = a.resUnit k := by
  have hdie (d : Nat) : b.die d = a.die d := by
    unfold Module.die
    rw [hd]
  have hof : b.ringOf k = a.ringOf k := by
    unfold Module.ringOf Module.ringLen
    simp only [hdie]
  unfold Module.resUnit
  rw [hof]

theorem Module.placeDown_congr {a b : Module} (hd : b.dies = a.dies) (hf : b.flt = a.flt) (k : Nat) :
    b.placeDown k = a.placeDown k := by
  unfold Module.placeDown Module.dieFenced
  rw [hf, Module.resUnit_congr hd]

/-- What the engine reads of the module for a place of the staging area, and the packets that wait to be sent, stay. -/
structure Module.Roomy (a b : Module) : Prop where
  places : b.stagePlaces = a.stagePlaces
  poisoned : b.store.poisoned = a.store.poisoned
  resOut : b.store.resOut = a.store.resOut
  dies : b.dies = a.dies
  flt : b.flt = a.flt
  orig : b.net.orig = a.net.orig

theorem Module.Roomy.refl (a : Module) : a.Roomy a := ⟨rfl, rfl, rfl, rfl, rfl, rfl⟩

section
variable {a b : Module} (r : a.Roomy b)
include r

theorem Module.Roomy.count (blk off n : Nat) : a.Roomy (b.count blk off n) := by
  obtain ⟨g, e⟩ := b.count_eq_regs blk off n
  rw [e]
  exact ⟨r.places, r.poisoned, r.resOut, r.dies, r.flt, r.orig⟩

/-- A context that uses no place of the staging area is put for another. -/
theorem Module.Roomy.updCtx {h : Nat} {f : Ctx → Ctx} (hu : (f (b.ctx h)).used = true) (hf : (f (b.ctx h)).places = [])
    (hb : (b.ctx h).places = []) : a.Roomy (b.updCtx h f) := by
  refine ⟨Eq.trans ?_ r.places, r.poisoned, r.resOut, r.dies, r.flt, r.orig⟩
  have hne : f (b.ctx h) ≠ default := fun e => by
    rw [e] at hu
    cases hu
  change (b.coll.ctxs.put h (f (b.ctx h))).cells.flatMap (fun c => c.2.places) = b.coll.ctxs.cells.flatMap fun c => c.2.places
  unfold Tab.put
  rw [if_neg hne]
  exact flatMap_insertCell hf _ hb

theorem Module.Roomy.resUnit (k : Nat) : b.resUnit k = a.resUnit k := Module.resUnit_congr r.dies k

theorem Module.Roomy.stagePlace (hb : b.stageBase = a.stageBase) (he : b.stageEnd = a.stageEnd) : b.stagePlace = a.stagePlace := by
  have hgone (k : Nat) : b.resGone k = a.resGone k := by
    unfold Module.resGone Module.resExt
    rw [r.resOut, r.resUnit]
  have hpois (k : Nat) : b.isPoisoned k = a.isPoisoned k := by
    unfold Module.isPoisoned
    rw [r.poisoned]
  unfold Module.stagePlace Module.resPlace
  simp only [hb, he, r.places, r.resOut, r.poisoned, hgone, hpois]

end

theorem Module.Turned.stagePlace {h : Nat} {a b : Module} {c : Ctx} (t : a.Turned h b c) (r : a.Roomy b) :
    b.stagePlace = a.stagePlace := by
  have hb : b.stageBase = a.stageBase := congrArg (· * 2 ^ 19) (t.cfg 0x004 0 (by decide) (by decide))
  refine r.stagePlace hb ?_
  unfold Module.stageEnd
  rw [hb, t.cfg 0x008 0 (by decide) (by decide)]

/-! ### An exchange tile that waits (R271) -/

/-- A plane with other exchange tiles that wait. -/
abbrev Plane.withXwait (y : Plane) (l : List XTile) : Plane := { y with xwait := l }

/-- What `xchgPlace` does for a tile without a place: the place given is whole, and the packets that wait stay. -/
theorem Module.xchgPlace_none {m : Module} {x : XTile} (hx : x.place = none) : ∃ n, m.xchgPlace x = (n, { x with place := m.stagePlace }) ∧
    m.Beside n ∧ n.net.orig = m.net.orig ∧ n.dies = m.dies ∧ n.flt = m.flt ∧
    ∀ k, m.stagePlace = some k → n.isPoisoned (resKey k) = false := by
  have hxe : x = { x with place := none } := by rw [← hx]
  unfold Module.xchgPlace
  rw [hx]
  cases hs : m.stagePlace with
  | none => exact ⟨m, congrArg (Prod.mk m) hxe, .refl m, rfl, rfl, rfl, nofun⟩
  | some k =>
    obtain ⟨g, e⟩ := (m.freshTile (resKey k)).count_eq_regs (memBlk ((m.freshTile (resKey k)).unitOf (resKey k))) 0x108 1
    have e' : (m.freshTile (resKey k)).countWrite (resKey k) = { m.freshTile (resKey k) with regs := g } := e
    refine ⟨_, rfl, ((Module.Beside.refl m).freshTile _).countWrite _, ?_, ?_, ?_, fun j hj => ?_⟩
    · rw [e']; rfl
    · rw [e']; rfl
    · rw [e']; rfl
    · rw [e', ← Option.some.inj hj]
      exact Module.isPoisoned_freshTile m (resKey k)

section
variable {h : Nat} {a b : Module} {c : Ctx} {y : Plane} {x : XTile} (t : a.Turned h b (c.one (y.withXwait [x])))
  (hl : c.launched = false) (hruns : y.runs = true) (hdst : x.dst < 2 ^ 17)
include t hl hruns hdst

/-- Before the launch count a waiting tile that is not lost goes back to those that wait, in the staging area. -/
theorem Module.Turned.xchgPass_eq (hlost : x.place.any b.placeLost = false) :
    b.xchgPass h 0 = (b.updPlane h 0 fun y => { y with xwait := y.xwait.erase x }).xchgStage h 0 x := by
  have te := t.updPlane fun y => { y with xwait := y.xwait.erase x }
  have hlost' : x.place.any (b.updPlane h 0 fun y => { y with xwait := y.xwait.erase x }).placeLost = false := hlost
  have htile : (b.updPlane h 0 fun y => { y with xwait := y.xwait.erase x }).xchgTile h 0 x =
      (b.updPlane h 0 fun y => { y with xwait := y.xwait.erase x }, some x) := by
    unfold Module.xchgTile
    dsimp only
    rw [if_neg (by omega), te.ctx, if_pos (by simp [Ctx.one, hl])]
  unfold Module.xchgPass
  rw [t.plane, List.foldl_cons, List.foldl_nil, t.plane, show (y.withXwait [x]).runs = true from hruns, if_pos rfl]
  dsimp only
  rw [hlost', if_neg Bool.false_ne_true, htile]

end

theorem Ctx.places_one {c : Ctx} {y : Plane} (hpark : c.xpark = []) (hsteps : y.steps = [])
    (hx : y.xwait.filterMap (·.place) = []) : (c.one y).places = [] := by
  simp [Ctx.places, Ctx.one, hpark, hsteps, hx]

theorem Geo.reduce_xchg {g : Geo} (h : g.xchg = true) : g.reduce = false := by
  unfold Geo.xchg at h
  unfold Geo.reduce
  simp only [Bool.or_eq_true, beq_iff_eq] at h
  simp only [decide_eq_false_iff_not]
  omega

/-- The passes of a plane of an exchange that is neither launched nor checked are those of its waiting tiles. -/
theorem Module.advPlane_exchange {m : Module} {h : Nat} {c : Ctx} {y z : Plane} (hc : m.ctx h = c.one y) (hu : c.used = true)
    (hruns : y.runs = true) (hsig : c.sig.isSome = true) (hl : c.launched = false) (hx : (c.one y).geo.xchg = true)
    (hc' : (m.xchgPass h 0).ctx h = c.one z) (hrets : z.rets = []) (hchk : z.checked = false) :
    m.advPlane h 0 = m.xchgPass h 0 := by
  have hused : (m.ctx h).used = true := by rw [hc]; exact hu
  have hnone : (m.ctx h).sig.isNone = false := by
    rw [hc]
    simpa [Ctx.one, Option.isSome_iff_ne_none] using hsig
  unfold Module.advPlane
  rw [if_neg (by rw [Module.plane_one hc, hused, hruns]; decide), Module.summaryPass_still hc (.inl hl)]
  dsimp only
  rw [if_neg (by rw [hused]; decide), if_neg (by rw [hnone]; decide), hc, Geo.reduce_xchg hx, if_neg Bool.false_ne_true, hx, if_pos rfl,
    Module.sendPass_still hc' (by rw [hrets]; nofun), Module.donePass_unchecked hc' hchk]

/-- A waiting tile goes back among those that wait, with the place that it gets. -/
theorem Module.Turned.xchgStage {h : Nat} {a b n : Module} {c : Ctx} {y : Plane} {x z : XTile} (t : a.Turned h b (c.one y))
    (hx : y.xwait = []) (e : b.xchgPlace x = (n, z)) (s : b.Beside n) :
    a.Turned h (b.xchgStage h 0 x) (c.one (y.withXwait [z])) := by
  have tu := (t.beside s).updPlane fun y => y.withXwait (y.xwait ++ [z])
  rw [hx, List.nil_append] at tu
  unfold Module.xchgStage
  rw [e]
  exact tu

/-- What the pass of a waiting tile without a place leaves of the module: the place that it gets is whole. -/
structure Module.Passed (a b : Module) (place : Option Nat) : Prop where
  orig : b.net.orig = a.net.orig
  dies : b.dies = a.dies
  flt : b.flt = a.flt
  whole : ∀ k, place = some k → b.isPoisoned (resKey k) = false
  room : place = none → a.Roomy b

section
variable {h : Nat} {a b : Module} {c : Ctx} {y : Plane} {x : XTile} (t : a.Turned h b (c.one (y.withXwait [x])))
  (hu : c.used = true) (hl : c.launched = false) (hpark : c.xpark = []) (hruns : y.runs = true) (hsteps : y.steps = [])
  (hdst : x.dst < 2 ^ 17)
include t hl hruns hdst

theorem Module.Turned.xchgPass_placed {k : Nat} (hplace : x.place = some k) (hlost : b.placeLost k = false) :
    a.Turned h (b.xchgPass h 0) (c.one (y.withXwait [x])) ∧ (b.xchgPass h 0).net.orig = b.net.orig := by
  have te := t.updPlane fun y => y.withXwait (y.xwait.erase x)
  rw [show (y.withXwait [x]).xwait.erase x = [] from List.erase_cons_head x []] at te
  have ep : (b.updPlane h 0 fun y => y.withXwait (y.xwait.erase x)).xchgPlace x =
      (b.updPlane h 0 fun y => y.withXwait (y.xwait.erase x), x) := by
    unfold Module.xchgPlace
    rw [hplace]
  rw [t.xchgPass_eq hl hruns hdst (by rw [hplace]; exact hlost)]
  refine ⟨te.xchgStage rfl ep (.refl _), ?_⟩
  unfold Module.xchgStage
  rw [ep]
  rfl

include hu hpark hsteps

theorem Module.Turned.xchgPass_none (hnone : x.place = none) :
    a.Turned h (b.xchgPass h 0) (c.one (y.withXwait [{ x with place := b.stagePlace }])) ∧
      b.Passed (b.xchgPass h 0) b.stagePlace := by
  have te := t.updPlane fun y => y.withXwait (y.xwait.erase x)
  rw [show (y.withXwait [x]).xwait.erase x = [] from List.erase_cons_head x []] at te
  have r1 : b.Roomy (b.updPlane h 0 fun y => y.withXwait (y.xwait.erase x)) := by
    refine (Module.Roomy.refl b).updCtx ?_ ?_ ?_
    · rw [t.ctx]
      exact hu
    · rw [t.ctx]
      exact Ctx.places_one (y := (y.withXwait [x]).withXwait ([x].erase x)) hpark hsteps (by simp)
    · rw [t.ctx]
      exact Ctx.places_one hpark hsteps (by simp [hnone])
  have hsp : (b.updPlane h 0 fun y => y.withXwait (y.xwait.erase x)).stagePlace = b.stagePlace :=
    Module.Turned.stagePlace ((Module.turned_refl t.ctx).updPlane _) r1
  obtain ⟨n, ep, sb, horig, hdies, hflt, hwhole⟩ :=
    Module.xchgPlace_none (m := b.updPlane h 0 fun y => y.withXwait (y.xwait.erase x)) hnone
  rw [hsp] at ep hwhole
  rw [t.xchgPass_eq hl hruns hdst (by rw [hnone]; rfl)]
  refine ⟨te.xchgStage rfl ep sb, ?_⟩
  unfold Module.xchgStage
  rw [ep]
  refine ⟨horig, hdies, hflt, hwhole, fun hs => ?_⟩
  have hn : n = b.updPlane h 0 fun y => y.withXwait (y.xwait.erase x) := by
    unfold Module.xchgPlace at ep
    rw [hnone, hsp, hs] at ep
    exact (congrArg Prod.fst ep).symm
  rw [hn]
  refine r1.updCtx ?_ ?_ ?_
  · rw [te.ctx]
    exact hu
  · rw [te.ctx, hs]
    exact Ctx.places_one (y := (y.withXwait []).withXwait ([] ++ [{ x with place := none }])) hpark hsteps rfl
  · rw [te.ctx]
    exact Ctx.places_one hpark hsteps rfl

end

/-- An exchange tile that has just come, before the launch count: it waits in a tile of the staging area, where one is free. -/
theorem Module.Turned.advance_exchange {h : Nat} {a b : Module} {c : Ctx} {y : Plane} {x : XTile}
    (t : a.Turned h b (c.one (y.withXwait [x]))) (hu : c.used = true) (hl : c.launched = false) (hsig : c.sig.isSome = true)
    (hnow : a.now < sgLaunch (c.sig.getD [])) (hx : (c.one y).geo.xchg = true) (hpark : c.xpark = []) (hruns : y.runs = true)
    (hchk : y.checked = false) (hsteps : y.steps = []) (hrets : y.rets = []) (hdst : x.dst < 2 ^ 17) (hnone : x.place = none)
    (hdown : b.stagePlace.any b.placeDown = false) :
    a.Turned h (b.advance h) (c.one (y.withXwait [{ x with place := b.stagePlace }])) ∧ (b.advance h).net.orig = b.net.orig := by
  obtain ⟨t2, hp2⟩ := t.xchgPass_none hu hl hpark hruns hsteps hdst hnone
  have h2 : a.Turned h ((b.xchgPass h 0).xchgPass h 0) (c.one (y.withXwait [{ x with place := b.stagePlace }])) ∧
      ((b.xchgPass h 0).xchgPass h 0).net.orig = b.net.orig := by
    cases hs : b.stagePlace with
    | none =>
      rw [hs] at t2 hp2
      have hsp : (b.xchgPass h 0).stagePlace = none := by
        have tb : b.Turned h (b.xchgPass h 0) _ := (Module.turned_refl t.ctx).xchgPass_none hu hl hpark hruns hsteps hdst hnone |>.1
        rw [tb.stagePlace (hp2.room rfl), hs]
      obtain ⟨t3, hp3⟩ := t2.xchgPass_none hu hl hpark hruns hsteps hdst rfl
      rw [hsp] at t3
      exact ⟨t3, hp3.orig.trans hp2.orig⟩
    | some k =>
      rw [hs] at t2 hp2 hdown
      have hlost : (b.xchgPass h 0).placeLost k = false := by
        unfold Module.placeLost
        rw [hp2.whole k rfl, Module.placeDown_congr hp2.dies hp2.flt]
        exact hdown
      obtain ⟨t3, ho⟩ := t2.xchgPass_placed hl hruns hdst rfl hlost
      exact ⟨t3, ho.trans hp2.orig⟩
  rw [Module.advance_one t.ctx hu (.inr (by rw [t.now]; exact hnow)), if_pos (by rw [hsig]; exact hx),
    Module.advPlane_exchange t.ctx hu hruns hsig hl hx t2.ctx hrets hchk,
    Module.advPlane_exchange t2.ctx hu hruns hsig hl hx h2.1.ctx hrets hchk]
  refine ⟨h2.1.beside ((Module.Beside.refl _).syncEntry h), ?_⟩
  unfold Module.syncEntry
  dsimp only
  split
  · exact h2.2
  · exact h2.2

end Sys2Proof.Machine
end

section
/-!
SEND and CARRY tiles of an exchange, and its declarations (R270 to R273).
-/
namespace Sys2Proof.Machine
open Sys2Proof.Claims

/-! ### SEND and CARRY tiles (R271) -/

theorem Module.Roomy.touch {a b : Module} {h : Nat} {c : Ctx} {y : Plane} (r : a.Roomy b) (hc : b.ctx h = c.one y)
    (hu : c.used = true) (hpark : c.xpark = []) (hsteps : y.steps = []) (hx : y.xwait = []) : a.Roomy (b.touch h 0 true) := by
  obtain ⟨o, d, e⟩ := y.touched_eq true (b.ticks + us (b.collReg 0x020 0))
  have hy : (c.one (y.touched true (b.ticks + us (b.collReg 0x020 0)))).places = [] := by
    rw [e]
    exact Ctx.places_one hpark hsteps (by simp [Plane.timed, hx])
  unfold Module.touch
  refine r.updCtx ?_ ?_ ?_
  · rw [hc]
    exact hu
  · rw [hc]
    exact hy
  · rw [hc]
    exact Ctx.places_one hpark hsteps (by simp [hx])

theorem Module.dataRow_reaches {m : Module} {p : Pkt} {type kind : Nat} (hr : Reaches m p type) (hk : kindOf p = kind)
    (ho : OtherCtxs p.h.tag m (((m.taken p).applyData p.h.tag p).advance p.h.tag))
    (hu : ((((m.taken p).applyData p.h.tag p).advance p.h.tag).ctx p.h.tag).Unsent)
    (hh : (((m.taken p).applyData p.h.tag p).advance p.h.tag).net.handed = m.net.handed.erase p) :
    ∃ v, m.dataRow p type kind = { ((m.taken p).applyData p.h.tag p).advance p.h.tag with store := v } := by
  have hwait : m.collWait p = false := hr.2.2.2.2.2.2.2.2
  unfold Module.dataRow
  rw [Reaches.isKind hr hk, hwait, if_neg (by decide)]
  exact Module.row_reaches hr (type != 0x12) (f := fun m => (m.applyData p.h.tag p).advance p.h.tag) ho hu hh

/-- The sender of a packet is one of the plane's local members. -/
theorem Ctx.sender_mem {c : Ctx} {x : Plan} {pk : Pkt} {l : Loc} (h : c.sender x pk = some l) : l ∈ x.locals := by
  unfold Ctx.sender at h
  split at h
  · cases h
  · split at h
    · exact List.mem_of_find?_eq_some h
    · split at h
      · cases h
      · exact List.mem_of_find?_eq_some h

/-- A SEND tile of an ALL_TO_ALL goes on at once (R271). -/
theorem Module.applySend_eq {m : Module} {h : Nat} {pk : Pkt} {c : Ctx} {q : Nat} {l : Loc} (hc : m.ctx h = c)
    (hfind : ((List.range c.planes.length).findSome? fun q => (c.sender (m.cplan h q) pk).map fun l => (q, l)) = some (q, l))
    (hop : c.geo.op = 5) (hoff : pk.h.offset % 2048 = 0) : m.applySend h pk =
      ((m.count (hubBlk 2) 0x100).touch h (match c.sendBlock l.member (pk.h.offset / 2048) with
        | some (j, b) =>
          if ((m.count (hubBlk 2) 0x100).cplan h ((l.member + j + b) % max c.planes.length 1)).locals.any fun x =>
            x.member == l.member then (l.member + j + b) % max c.planes.length 1 else q
        | none => q) true).xchgRoute h { src := l.member, b := pk.h.offset / 2048, bytes := pk.pl } := by
  have hx : c.geo.xchg = true := by
    unfold Geo.xchg
    rw [hop]
    rfl
  subst hc
  have hbad : (!(m.ctx h).geo.xchg || pk.h.offset % 2048 != 0) ≠ true := by simp [hx, hoff]
  have hgo : ((m.ctx h).geo.op == 5 || declared (m.ctx h).rows l.member (m.ctx h).n && !(m.ctx h).barred.contains l.member) = true := by
    simp [hop]
  unfold Module.applySend
  extract_lets c g
  rw [show List.findSome? _ (List.range c.planes.length) = _ from hfind]
  exact (if_neg hbad).trans (if_pos hgo)

section
variable {m : Module} {p : Pkt} {c : Ctx} {y : Plane} {sg : Bytes} (s : Staging m p.h.tag c y sg)
  (hx : c.geo.xchg = true) (hpark : c.xpark = []) (hdown : m.stagePlace.any m.placeDown = false)
include s hx hpark hdown

/-- The module after an exchange tile has come to plane 0. -/
def Module.waiting (m : Module) (h : Nat) (x : XTile) : Module :=
  ((m.count (hubBlk 2) 0x100).touch h 0 true).updPlane h 0 fun y => { y with xwait := y.xwait ++ [x] }

/-- An exchange tile waits for the launch count. -/
theorem Staging.exchange {type kind : Nat} {x : XTile} (hr : Reaches m p type) (hk : kindOf p = kind) (hdst : x.dst < 2 ^ 17)
    (hnone : x.place = none) (e : (m.taken p).applyData p.h.tag p = (m.taken p).waiting p.h.tag x) :
    ∃ due, (m.taken p).Turned p.h.tag (m.dataRow p type kind)
        (c.one ((y.timed true due).withXwait [{ x with place := m.stagePlace }])) ∧
      (m.dataRow p type kind).net.orig = m.net.orig := by
  have t0 : (m.taken p).Turned p.h.tag (m.taken p) (c.one y) := Module.turned_refl (Staging.one s)
  have hruns := Staging.runs s
  have hgeo (z : Plane) : (c.one z).geo = c.geo := Staging.geo s z
  obtain ⟨-, hu, -, hl, hsig, hnow, -, -, -, hchk, hsteps, hrets, -, hxw, -⟩ := id s
  have hb2 : hubBlk 2 ≠ hubBlk 1 := by decide
  have tc := t0.beside ((Module.Beside.refl _).count (blk := hubBlk 2) (off := 0x100) 1 (.inl hb2) (by decide))
  obtain ⟨due, tt⟩ := tc.touchData hruns
  have tw : (m.taken p).Turned p.h.tag ((m.taken p).waiting p.h.tag x) (c.one ((y.timed true (some due)).withXwait [x])) := by
    have tu := tt.updPlane fun y => y.withXwait (y.xwait ++ [x])
    rw [show (y.timed true (some due)).xwait = [] from hxw, List.nil_append] at tu
    exact tu
  have room : (m.taken p).Roomy ((m.taken p).waiting p.h.tag x) := by
    have rt := ((Module.Roomy.refl (m.taken p)).count (hubBlk 2) 0x100 1).touch tc.ctx hu hpark hsteps hxw
    unfold Module.waiting
    refine Module.Roomy.updCtx rt ?_ ?_ ?_
    · rw [tt.ctx]
      exact hu
    · rw [tt.ctx]
      exact Ctx.places_one (y := (y.timed true (some due)).withXwait (y.xwait ++ [x])) hpark hsteps (by simp [hxw, hnone])
    · rw [tt.ctx]
      exact Ctx.places_one hpark hsteps (by simp [Plane.timed, hxw])
  have hsp : ((m.taken p).waiting p.h.tag x).stagePlace = m.stagePlace := tw.stagePlace room
  have hdown' : ((m.taken p).waiting p.h.tag x).stagePlace.any ((m.taken p).waiting p.h.tag x).placeDown = false := by
    rw [hsp, funext (Module.placeDown_congr room.dies room.flt)]
    exact hdown
  obtain ⟨ta, ho⟩ := tw.advance_exchange hu hl (by rw [hsig]; rfl) (by rw [hsig]; exact hnow) (by rw [hgeo]; exact hx) hpark hruns
    hchk hsteps hrets hdst hnone hdown'
  rw [hsp] at ta
  rw [← e] at ta ho
  have hbare : (c.one ((y.timed true (some due)).withXwait [{ x with place := m.stagePlace }])).Unsent := Ctx.unsent_bare hsteps
  obtain ⟨v, ev⟩ := Module.dataRow_reaches hr hk ta.others (by rw [ta.ctx]; exact hbare) ta.handed
  refine ⟨some due, Module.Turned.dataRow hr hk ta hbare, ?_⟩
  rw [ev]
  exact ho.trans (by rw [e]; exact room.orig)

section
variable (hr : Reaches m p 0x14) (hxlost : y.xlost = false) (hoff : p.h.offset % 2048 = 0)
include hr hxlost hoff

theorem xchgCarry_kept (hk : kindOf p = 1) (hkid : (m.cplan p.h.tag 0).kidChips.contains p.h.src = true) :
    ∃ due, (m.taken p).Turned p.h.tag (xchgCarry p m) (c.one ((y.timed true due).withXwait
        [{ src := bits p.h.offset 46 30, dst := bits p.h.tw 16 0, b := bits p.h.offset 29 11, bytes := p.pl
           place := m.stagePlace }])) ∧ (xchgCarry p m).net.orig = m.net.orig := by
  have t0 : (m.taken p).Turned p.h.tag (m.taken p) (c.one y) := Module.turned_refl (Staging.one s)
  have hruns := Staging.runs s
  have hb2 : hubBlk 2 ≠ hubBlk 1 := by decide
  have tc := t0.beside ((Module.Beside.refl _).count (blk := hubBlk 2) (off := 0x100) 1 (.inl hb2) (by decide))
  have hdst : bits p.h.tw 16 0 < 2 ^ 17 := Nat.mod_lt _ (by decide)
  refine Staging.exchange s hx hpark hdown
    (x := { src := bits p.h.offset 46 30, dst := bits p.h.tw 16 0, b := bits p.h.offset 29 11, bytes := p.pl }) hr hk hdst rfl ?_
  rw [Module.applyData_carry (Staging.sig_taken s) _ hr.1.1.2.1 hk]
  unfold Module.applyCarry
  dsimp only
  rw [show (m.taken p).ctx p.h.tag = c from Staging.ctx s, Staging.planes s, List.length_singleton, Nat.max_self, Nat.mod_one,
    show (m.taken p).cplan p.h.tag 0 = m.cplan p.h.tag 0 from rfl, if_neg (by rw [hx, hkid, hoff]; simp), tc.plane,
    if_neg (by simp [hruns, hxlost])]
  rfl

theorem xchgSend_kept {l : Loc} (hk : kindOf p = 0) (hop : c.geo.op = 5) (hloc : c.sender (m.cplan p.h.tag 0) p = some l)
    (hblk : 0 < c.geo.count / c.geo.r.ei) (hdst : p.h.offset / 2048 / (c.geo.count / c.geo.r.ei) < 2 ^ 17) :
    ∃ due, (m.taken p).Turned p.h.tag (xchgSend p m) (c.one ((y.timed true due).withXwait
        [{ src := l.member, dst := p.h.offset / 2048 / (c.geo.count / c.geo.r.ei)
           b := p.h.offset / 2048 % (c.geo.count / c.geo.r.ei), bytes := p.pl, place := m.stagePlace }])) ∧
      (xchgSend p m).net.orig = m.net.orig := by
  have t0 : (m.taken p).Turned p.h.tag (m.taken p) (c.one y) := Module.turned_refl (Staging.one s)
  have hruns := Staging.runs s
  have hplans := Staging.plans s
  have hb2 : hubBlk 2 ≠ hubBlk 1 := by decide
  have tc := t0.beside ((Module.Beside.refl _).count (blk := hubBlk 2) (off := 0x100) 1 (.inl hb2) (by decide))
  have tt := tc.touchData hruns
  obtain ⟨due, tt⟩ := tt
  have hsb (z : Plane) : (c.one z).sendBlock l.member (p.h.offset / 2048) =
      some (p.h.offset / 2048 / (c.geo.count / c.geo.r.ei), p.h.offset / 2048 % (c.geo.count / c.geo.r.ei)) := by
    unfold Ctx.sendBlock
    dsimp only
    rw [Staging.geo s, hop, if_pos (beq_self_eq_true _), if_neg (by rw [beq_iff_eq]; omega)]
  have hany : ((m.cplan p.h.tag 0).locals.any fun x => x.member == l.member) = true :=
    List.any_eq_true.mpr ⟨l, Ctx.sender_mem hloc, beq_self_eq_true _⟩
  refine Staging.exchange s hx hpark hdown
    (x := { src := l.member, dst := p.h.offset / 2048 / (c.geo.count / c.geo.r.ei)
            b := p.h.offset / 2048 % (c.geo.count / c.geo.r.ei), bytes := p.pl }) hr hk hdst rfl ?_
  rw [Module.applyData_send (Staging.sig_taken s) _ hr.1.1.2.1 hk]
  have hmax (z : Plane) (n : Nat) : n % max (c.one z).planes.length 1 = 0 := Nat.mod_one n
  have hfind : ((List.range c.planes.length).findSome? fun q => (c.sender ((m.taken p).cplan p.h.tag q) p).map fun l => (q, l)) =
      some (0, l) := by
    rw [Staging.planes s]
    simp only [List.length_singleton, List.range_one, List.findSome?_cons]
    rw [show (m.taken p).cplan p.h.tag 0 = m.cplan p.h.tag 0 from rfl, hloc]
    rfl
  rw [Module.applySend_eq (m := m.taken p) (Staging.ctx s) hfind hop hoff]
  rw [← Ctx.one_of_planes (Staging.planes s), hsb]
  dsimp only
  rw [hmax, ite_self]
  unfold Module.xchgRoute
  dsimp only
  rw [tt.ctx, hsb]
  dsimp only
  rw [hmax, tt.cplan hplans, show (m.taken p).cplan p.h.tag 0 = m.cplan p.h.tag 0 from rfl, hany, if_neg (by decide), tt.plane,
    if_neg (by simp [Plane.timed, hxlost]; exact hruns), Staging.geo s]
  rfl

end
end

end Sys2Proof.Machine
end

section
/-!
Declarations of an ALL_TO_ALLV (R270, R273).
-/
namespace Sys2Proof.Machine
open Sys2Proof.Claims

/-! ### ROW and COLUMN declarations (R270, R273) -/

/-- A context with other rows, or other columns, declared. -/
def Ctx.declare (c : Ctx) (row : Bool) (l : List Decl) : Ctx := if row then { c with rows := l } else { c with cols := l }

/-- The declaration tile of a packet. -/
def declOf (p : Pkt) (l : Loc) : Decl := { member := l.member, k := p.h.offset / 2048, bytes := p.pl }

/-- A declaration kept, unless its member has declared that part before. -/
def addDecl (x : Decl) (l : List Decl) : List Decl := if l.any fun d => d.member == x.member && d.k == x.k then l else l ++ [x]

theorem Ctx.declare_first {c : Ctx} (hrows : c.rows = []) (hcols : c.cols = []) {row : Bool} {x : Decl} {y : Plane} :
    (if row then { c.one y with rows := addDecl x (c.one y).rows } else { c.one y with cols := addDecl x (c.one y).cols }) =
      (c.declare row [x]).one y := by
  cases row <;> simp [Ctx.one, Ctx.declare, addDecl, hrows, hcols]

/-- The module after a declaration has come to plane 0, and after it has then been checked. -/
def Module.declaring (m : Module) (h : Nat) (row : Bool) (x : Decl) : Module :=
  (m.touch h 0 true).updCtx h fun c => if row then { c with rows := addDecl x c.rows } else { c with cols := addDecl x c.cols }
def Module.declareEnd (m : Module) (h : Nat) (row : Bool) (l : Loc) : Module :=
  if !declared (if row then (m.ctx h).rows else (m.ctx h).cols) l.member (m.ctx h).n then m
  else if (m.ctx h).badDecl (if row then (m.ctx h).rows else (m.ctx h).cols) l.member then m.barMember h l
  else if row then m.xchgUnpark h l.member
  else m

section
variable {c : Ctx} {y : Plane} (hp : c.planes = [y]) (row : Bool) (l : List Decl) (z : Plane)
include hp

theorem Ctx.geo_declare : ((c.declare row l).one z).geo = c.geo := by
  rw [← Ctx.geo_one hp z]
  cases row <;> rfl

theorem Ctx.n_declare : ((c.declare row l).one z).n = c.n := by
  rw [← Ctx.one_of_planes hp]
  cases row <;> rfl

theorem Ctx.badDecl_declare (q : List Decl) (mem : Nat) : ((c.declare row l).one z).badDecl q mem = c.badDecl q mem := by
  unfold Ctx.badDecl
  rw [Ctx.geo_declare hp, Ctx.n_declare hp]

end

theorem Module.Apart.advance {h : Nat} {a b : Module} {c : Ctx} {y : Plane} (t : a.Apart h b (c.one y)) (hu : c.used = true)
    (hl : c.launched = true ∨ a.now < sgLaunch (c.sig.getD [])) (hs : c.Still y) : a.Apart h (b.advance h) (c.one y) := by
  have hnow : b.now = a.now := by rw [Module.now, t.time, Module.now]
  rw [Module.advance_still t.ctx hu (by rw [hnow]; exact hl) hs]
  exact t.beside ((Module.Beside.refl _).syncEntry h)

theorem Module.Apart.dataRow {m : Module} {p : Pkt} {type kind : Nat} {c : Ctx} (hr : Reaches m p type) (hk : kindOf p = kind)
    (t : (m.taken p).Apart p.h.tag (((m.taken p).applyData p.h.tag p).advance p.h.tag) c) (hc : c.Unsent) :
    (m.taken p).Apart p.h.tag (m.dataRow p type kind) c := by
  obtain ⟨v, e⟩ := Module.dataRow_reaches hr hk t.others (by rw [t.ctx]; exact hc) t.handed
  rw [e]
  exact ⟨t.ctx, t.others, t.time, t.handed⟩

theorem Ctx.Still.timed {c : Ctx} {y : Plane} (s : c.Still y) {on : Bool} {due : Option Nat} : c.Still (y.timed on due) :=
  ⟨s.sig, s.summary, s.checked, s.steps, s.rets, s.xwait⟩

theorem Ctx.Still.declare {c : Ctx} {y : Plane} (s : c.Still y) (row : Bool) (l : List Decl) : (c.declare row l).Still y := by
  cases row <;> exact ⟨s.sig, s.summary, s.checked, s.steps, s.rets, s.xwait⟩

theorem Ctx.declare_waits {c : Ctx} (row : Bool) (l : List Decl) : (c.declare row l).used = c.used ∧
    (c.declare row l).launched = c.launched ∧ (c.declare row l).sig = c.sig ∧ (c.declare row l).xpark = c.xpark := by
  cases row <;> exact ⟨rfl, rfl, rfl, rfl⟩

theorem Module.Turned.xchgUnpark {h : Nat} {a b : Module} {c : Ctx} (t : a.Turned h b c) (hp : c.xpark = []) (mem : Nat) :
    a.Turned h (b.xchgUnpark h mem) c := by
  have tu := t.updCtx fun c => { c with xpark := c.xpark.filter (·.src != mem) }
  unfold Module.xchgUnpark
  rw [t.ctx, hp, List.filter_nil, List.foldl_nil]
  rwa [hp, List.filter_nil, ← hp] at tu

/-- The plane with other members joined. -/
def Plane.withJoined (y : Plane) (l : List Nat) : Plane := { y with joined := l }

/-- A context that bars one member more. -/
def Ctx.bar (c : Ctx) (mem : Nat) : Ctx := { c with barred := c.barred ++ [mem] }

theorem Module.Apart.barMember {h : Nat} {a b : Module} {c : Ctx} {y : Plane} (t : a.Apart h b (c.one y)) (l : Loc) :
    a.Apart h (b.barMember h l) ((c.bar l.member).one (y.withJoined (y.joined.filter (· != l.member)))) := by
  have tc := (t.beside ((Module.Beside.refl _).collFailed h 0xFF 2 St.badParam l.member none)).completeTo 0 St.badParam
    (b.ownComplete St.badParam 0xFF (b.ctx h).seq) l
  exact tc.updCtx fun c => { c with barred := c.barred ++ [l.member],
                                    planes := c.planes.map fun y => y.withJoined (y.joined.filter (· != l.member)) }

theorem Ctx.Still.barred {c : Ctx} {y : Plane} (s : c.Still y) (mem : Nat) (l : List Nat) :
    (c.bar mem).Still (y.withJoined l) :=
  ⟨s.sig, s.summary, s.checked, s.steps, s.rets, s.xwait⟩

theorem Module.applyData_decl {m : Module} {h : Nat} {p : Pkt} {sg : Bytes} (hsig : (m.ctx h).sig = some sg) (ht : p.h.type = 0x14)
    {row : Bool} (hk : kindOf p = if row then 3 else 4) (again : Bool := false) : m.applyData h p again = m.applyDecl h p row := by
  cases row
  · exact Module.applyData_column hsig _ ht hk
  · exact Module.applyData_row hsig _ ht hk

section
variable {m : Module} {p : Pkt} {c : Ctx} {y : Plane} {sg : Bytes} {l : Loc} (s : Staging m p.h.tag c y sg)
  (hoff : p.h.offset % 2048 = 0) (hop : c.geo.op = 6) (hloc : c.sender (m.cplan p.h.tag 0) p = some l)
  (ht : p.h.offset / 2048 < ceilDiv c.n 512) (hrows : c.rows = []) (hcols : c.cols = []) (hbarred : c.barred = [])
include s hoff hop hloc ht hrows hcols hbarred

/-- A declaration is kept, and where it is complete it is checked. -/
theorem applyDecl_kept (row : Bool) : ∃ (due : Option Nat) (n : Module),
    (m.taken p).Turned p.h.tag n ((c.declare row [declOf p l]).one (y.timed true due)) ∧
      (m.taken p).applyDecl p.h.tag p row =
        if declared [declOf p l] l.member c.n && c.badDecl [declOf p l] l.member then n.barMember p.h.tag l
        else if declared [declOf p l] l.member c.n && row then n.xchgUnpark p.h.tag l.member else n := by
  have t0 : (m.taken p).Turned p.h.tag (m.taken p) (c.one y) := Module.turned_refl (Staging.one s)
  have hruns := Staging.runs s
  obtain ⟨due, tt⟩ := t0.touchData hruns
  have hcplan : (m.taken p).cplan p.h.tag 0 = m.cplan p.h.tag 0 := rfl
  have hfind : ((List.range c.planes.length).find? fun q => (c.sender ((m.taken p).cplan p.h.tag q) p).isSome) = some 0 := by
    rw [Staging.planes s, List.length_singleton, List.range_one, List.find?_cons_of_pos]
    rw [hcplan, hloc, Option.isSome_some]
  have tn : (m.taken p).Turned p.h.tag ((m.taken p).declaring p.h.tag row (declOf p l)) _ := tt.updCtx _
  rw [Ctx.declare_first hrows hcols] at tn
  refine ⟨some due, _, tn, ?_⟩
  have hq : (if row then ((c.declare row [declOf p l]).one (y.timed true (some due))).rows
      else ((c.declare row [declOf p l]).one (y.timed true (some due))).cols) = [declOf p l] := by
    cases row <;> rfl
  have e : (m.taken p).applyDecl p.h.tag p row =
      ((m.taken p).declaring p.h.tag row (declOf p l)).declareEnd p.h.tag row l := by
    unfold Module.applyDecl
    dsimp only
    rw [show (m.taken p).ctx p.h.tag = c from Staging.ctx s, hfind]
    dsimp only
    rw [hcplan, hloc]
    dsimp only
    rw [if_neg (by simp [hop, hoff, hbarred, ht])]
    rfl
  rw [e, Module.declareEnd, tn.ctx, hq, Ctx.badDecl_declare (Staging.planes s), Ctx.n_declare (Staging.planes s)]
  cases declared [declOf p l] l.member c.n <;> simp

section
variable (hr : Reaches m p 0x14)
include hr

/-- A declaration that is not bad is kept, and the plane waits. -/
theorem declaration_kept (row : Bool) (hpark : c.xpark = []) (hk : kindOf p = if row then 3 else 4)
    (hgood : (declared [declOf p l] l.member c.n && c.badDecl [declOf p l] l.member) = false) :
    ∃ due, (m.taken p).Turned p.h.tag (m.dataRow p 0x14 (if row then 3 else 4))
      ((c.declare row [declOf p l]).one (y.timed true due)) := by
  obtain ⟨due, n, tn, e⟩ := applyDecl_kept s hoff hop hloc ht hrows hcols hbarred row
  obtain ⟨hused, hlaunched, hsig, hparked⟩ := c.declare_waits row [declOf p l]
  have hdue : (c.declare row [declOf p l]).launched = true ∨ m.now < sgLaunch ((c.declare row [declOf p l]).sig.getD []) := by
    rw [hlaunched, hsig]
    exact Staging.due s
  have td : (m.taken p).Turned p.h.tag ((m.taken p).applyData p.h.tag p) ((c.declare row [declOf p l]).one (y.timed true due)) := by
    rw [Module.applyData_decl (Staging.sig_taken s) hr.1.1.2.1 hk, e, hgood, if_neg Bool.false_ne_true]
    split
    · exact tn.xchgUnpark (hparked.trans hpark) _
    · exact tn
  have still : (c.declare row [declOf p l]).Still (y.timed true due) := (Staging.still s).timed.declare row _
  exact ⟨due, (td.advance (hused.trans (Staging.used s)) hdue still).dataRow hr hk
    still.unsent⟩

/-- A complete declaration that is too large bars its member. -/
theorem declaration_bars (hk : kindOf p = 3)
    (hbad : (declared [declOf p l] l.member c.n && c.badDecl [declOf p l] l.member) = true) :
    ∃ z, (m.taken p).Apart p.h.tag (m.dataRow p 0x14 3)
      (((c.declare true [declOf p l]).bar l.member).one z) := by
  obtain ⟨due, n, tn, e⟩ := applyDecl_kept s hoff hop hloc ht hrows hcols hbarred true
  obtain ⟨hused, hlaunched, hsig, -⟩ := c.declare_waits true [declOf p l]
  have hdue : (c.declare true [declOf p l]).launched = true ∨ m.now < sgLaunch ((c.declare true [declOf p l]).sig.getD []) := by
    rw [hlaunched, hsig]
    exact Staging.due s
  have still : (c.declare true [declOf p l]).Still (y.timed true due) := (Staging.still s).timed.declare true _
  have tb := (tn.apart.barMember l).advance (hused.trans (Staging.used s)) hdue (still.barred _ _)
  rw [hbad, if_pos rfl] at e
  rw [← e, ← Module.applyData_row (Staging.sig_taken s) false hr.1.1.2.1 hk] at tb
  exact ⟨_, tb.dataRow hr hk (still.barred _ _).unsent⟩

end

end

end Sys2Proof.Machine

namespace Sys2Proof.Proofs
open Sys2Proof.Machine Sys2Proof.Claims

/-- Settles O53: a tile is retained, or waits in its place for the launch count; a declaration is kept, or bars its member. -/
theorem gathersAndExchanges : Obligations.GathersAndExchanges := by
  unfold Obligations.GathersAndExchanges
  intro s p c y sg l h g t x bad blk place In hoff hs hnp hbarred hpark hsub hxlost hdown
  have hxchg (hop : g.op = 5 ∨ g.op = 6) : c.geo.xchg = true := by
    unfold Geo.xchg
    obtain h | h := hop <;> rw [show c.geo.op = _ from h] <;> rfl
  refine ⟨fun hr hk hop hkid ht hm ha hlen hds => ?_, fun hr => ⟨fun hk hop hloc hblk hdst => ?_, fun hk hop hkid => ?_,
    fun hop hloc ht hrows hcols => ⟨fun hk hgood => ?_, fun hk hgood => ?_, fun hk hbad => ?_⟩⟩⟩
  · obtain ⟨n, place, crc, dig, z, tk⟩ := collGather_kept hs hoff hnp hr hk hop hkid ht hm ha hlen hds
    refine completes_withM (collGather p) rfl ⟨tk.others, tk.mem, ?_⟩
    beta_reduce
    rw [show (collGather p s.m).plane h 0 = _ from tk.plane]
    exact ⟨_, rfl, rfl, rfl, rfl, rfl, rfl⟩
  · obtain ⟨due, tk, ho⟩ := xchgSend_kept hs (hxchg (.inl hop)) hpark hdown hr hxlost hoff hk hop hloc hblk hdst
    refine completes_withM (xchgSend p) rfl ⟨tk.others, tk.mem, ho, ?_⟩
    rw [show (xchgSend p s.m).plane h 0 = _ from tk.plane]
  · obtain ⟨due, tk, ho⟩ := xchgCarry_kept hs (hxchg (.inl hop)) hpark hdown hr hxlost hoff hk hkid
    refine completes_withM (xchgCarry p) rfl ⟨tk.others, tk.mem, ho, ?_⟩
    rw [show (xchgCarry p s.m).plane h 0 = _ from tk.plane]
  · obtain ⟨due, tk⟩ := declaration_kept hs hoff hop hloc ht hrows hcols hbarred hr true hpark hk hgood
    refine completes_withM (xchgRow p) rfl ⟨tk.others, tk.mem, ?_⟩
    beta_reduce
    rw [show (xchgRow p s.m).ctx h = _ from tk.ctx]
    exact ⟨rfl, hcols⟩
  · obtain ⟨due, tk⟩ := declaration_kept hs hoff hop hloc ht hrows hcols hbarred hr false hpark hk hgood
    refine completes_withM (xchgColumn p) rfl ⟨tk.others, tk.mem, ?_⟩
    beta_reduce
    rw [show (xchgColumn p s.m).ctx h = _ from tk.ctx]
    exact ⟨rfl, hrows⟩
  · obtain ⟨z, tk⟩ := declaration_bars hs hoff hop hloc ht hrows hcols hbarred hr hk hbad
    refine completes_withM (xchgRow p) rfl ⟨tk.others, ?_⟩
    rw [show (xchgRow p s.m).ctx h = _ from tk.ctx]
    exact congrArg (· ++ [l.member]) hbarred

end Sys2Proof.Proofs
end

section
/-!
Joins: their place in the window of sequence numbers, the answers to them, and the first join of an open context (R232, R235, R236,
R286, R287).
-/
namespace Sys2Proof.Machine
open Sys2Proof.Claims

/-! ### The row of a join -/

theorem collJoin_eq {m : Module} {p : Pkt} (ha : Arrives m p 0x10) (hu : ∀ j, (((m.taken p).joinIn p).ctx j).Unsent)
    (hh : ((m.taken p).joinIn p).net.handed = m.net.handed.erase p) :
    ∃ v, collJoin p m = { (m.taken p).joinIn p with store := v } := by
  obtain ⟨hperf, hgood, hfence, haddr⟩ := ha
  obtain ⟨v, e⟩ := Module.collEvent_eq (m := m.taken p) (f := fun m => m.joinIn p) hu
  have hrow : (if !p.good || (m.taken p).fromFenced p || !(m.taken p).addressed p.h then m.taken p
      else (m.taken p).collEvent fun m => m.joinIn p) = { (m.taken p).joinIn p with store := v } := by
    rw [if_neg, e]
    rw [hgood, show (m.taken p).fromFenced p = m.fromFenced p from rfl, hfence,
      show (m.taken p).addressed p.h = m.addressed p.h from rfl, haddr]
    decide
  refine ⟨v, ?_⟩
  unfold collJoin
  rw [Module.perform_eq hperf (by rw [hrow]; exact hh), hrow]

/-! ### Answers (R253, R298) -/

/-- Where the fabric is up, the last packet that waits to be sent is a COMPLETE for the context to the join's sender, by the join's
port, with a status. -/
def JoinAnswered (a b : Module) (p : Pkt) (q st : Nat) : Prop :=
  a.fabricUp = true → ∃ o : Orig, b.net.orig = a.net.orig ++ [o] ∧ o.pkt.h.type = 0x12 ∧ o.pkt.h.dest = p.h.src ∧
    o.out = some q ∧ fieldBE o.pkt.pl 0 2 = st ∧ byteAt o.pkt.pl 2 = 0xFF

theorem completePl_status {status : Nat} (hst : status < 65536) (plane : Nat) (c : Cnt) (seq ftc : Nat) (tail : Bytes) :
    fieldBE (completePl status plane c seq ftc tail) 0 2 = status := by
  have h (t : Bytes) : fieldBE (beBytes 2 status ++ t) 0 2 = status :=
    (fieldBE_append [] t 2 status).trans (Nat.mod_eq_of_lt hst)
  simp only [completePl, List.append_assoc]
  exact h _

theorem completePl_plane (status plane : Nat) (c : Cnt) (seq ftc : Nat) (tail : Bytes) :
    byteAt (completePl status plane c seq ftc tail) 2 = plane % 256 := by
  simp [completePl, byteAt, beBytes]

section
variable {m : Module} {p : Pkt} {q : Nat} (hport : p.port = some q) (hq : q < 256)
include hport hq

theorem Module.beside_answerJoin (st : Nat) : m.Beside (m.answerJoin p st) := by
  unfold Module.answerJoin
  dsimp only
  rw [hport]
  dsimp only
  rw [if_pos hq]
  exact (Module.Beside.refl m).originate _ _ _ _ _

theorem Module.answerJoin_answers {st : Nat} (hg : p.h.tag < 65536) (hu : (m.grp p.h.tag).used = true)
    (hvc : (m.grp p.h.tag).vc < 8) (hst : st < 65536) : JoinAnswered m (m.answerJoin p st) p q st := by
  intro hf
  have hv : m.collVc p p.h.tag < 8 := by
    unfold Module.collVc
    rw [if_pos (by simp [hg, hu])]
    exact hvc
  unfold Module.answerJoin
  dsimp only
  rw [hport]
  dsimp only
  rw [if_pos hq]
  refine ⟨_, Module.originate_orig hf _ _ _, ?_, ?_, rfl, completePl_status hst _ _ _ _ _, completePl_plane _ _ _ _ _ _⟩
  · rw [Hdr.made_type, mkHdr_type (by decide) hv (Hdr.src_lt _)]
  · rw [Hdr.made_dest, mkHdr_dest (Hdr.src_lt _)]

/-- A join that is answered, and that turns no context. -/
theorem collJoin_answers {n : Module} {st : Nat} (ha : Arrives m p 0x10) (hr : Rests m) (hg : p.h.tag < 65536)
    (e : (m.taken p).joinIn p = n.answerJoin p st) (hctxs : n.coll.ctxs = m.coll.ctxs) (hnet : n.net = (m.taken p).net)
    (hpwr : n.pwr = m.pwr) (hu : (n.grp p.h.tag).used = true) (hvc : (n.grp p.h.tag).vc < 8) (hst : st < 65536) :
    (collJoin p m).coll = n.coll ∧ JoinAnswered m (collJoin p m) p q st := by
  have hb := Module.beside_answerJoin (m := n) hport hq st
  have hctx (j : Nat) : ((m.taken p).joinIn p).ctx j = m.ctx j := by
    rw [e, hb.ctx j, Module.ctx, hctxs, Module.ctx]
  obtain ⟨v, ev⟩ := collJoin_eq ha (fun j => by rw [hctx j]; exact hr.1 j) (by rw [e, hb.handed, hnet]; rfl)
  rw [ev, e]
  refine ⟨hb.coll, fun hf => ?_⟩
  have hf' : n.fabricUp = true := by
    rw [Module.fabricUp, hpwr]
    exact hf
  obtain ⟨o, ho, hrest⟩ := Module.answerJoin_answers hport hq hg hu hvc hst hf'
  exact ⟨o, ho.trans (by rw [hnet]; rfl), hrest⟩

end

/-! ### The window (R232, R235) -/

/-- The distance of a join's number above LOW of its group. -/
def Module.joinDist (m : Module) (p : Pkt) : Nat := (p.h.tw + 2 ^ 32 - (m.grp p.h.tag).low) % 2 ^ 32

section
variable {m : Module} {p : Pkt} (hg : p.h.tag < 65536) (hu : (m.grp p.h.tag).used = true)
  (hpart : (m.grp p.h.tag).part = p.h.part)
include hg hu hpart

theorem Module.joinIn_refused (href : (m.grp p.h.tag).isRefused p.h.tw = true) (hd : 2 ^ 31 ≤ m.joinDist p ∨ m.joinDist p < 64) :
    m.joinIn p = m.answerJoin p St.noResource := by
  unfold Module.joinDist at hd
  unfold Module.joinIn
  dsimp only
  rw [if_neg (by simp [hg, hu]), if_neg (by simp [hpart]), if_pos (by simpa [href] using hd)]

theorem Module.joinIn_below (href : (m.grp p.h.tag).isRefused p.h.tw = false) (hd : 2 ^ 31 ≤ m.joinDist p) :
    m.joinIn p = (m.collCount 0x120).answerJoin p St.alreadyComplete := by
  unfold Module.joinDist at hd
  unfold Module.joinIn
  dsimp only
  rw [if_neg (by simp [hg, hu]), if_neg (by simp [hpart]), if_neg (by simp [href]), if_pos hd]

theorem Module.joinIn_above (hd : 64 ≤ m.joinDist p) (hd' : m.joinDist p < 2 ^ 31) :
    m.joinIn p = (m.collCount 0x128).answerJoin p St.busy := by
  unfold Module.joinDist at hd hd'
  unfold Module.joinIn
  dsimp only
  rw [if_neg (by simp [hg, hu]), if_neg (by simp [hpart]),
    if_neg (by simp only [Bool.and_eq_true, Bool.or_eq_true, decide_eq_true_eq]; omega), if_neg (by omega), if_pos hd]

/-- A valid join in the window, of a number that is neither done nor refused. -/
theorem Module.joinIn_window (href : (m.grp p.h.tag).isRefused p.h.tw = false) (hd : m.joinDist p < 64)
    (hempty : ((m.grp p.h.tag).empties.find? fun x => x.1 == p.h.tw) = none)
    (hdone : (m.grp p.h.tag).done.contains p.h.tw = false) (hlen : p.pl.length = 48)
    (hvalid : joinValid p.pl (m.grp p.h.tag).n = true) (hps : (joinPlanes
      (if (m.ctx (p.h.tag * 65536 + p.h.tw % 65536)).used then (m.ctx (p.h.tag * 65536 + p.h.tw % 65536)).plans
        else (m.grp p.h.tag).plans) p).isEmpty = false) :
    (sgCount p.pl = 0 → m.joinIn p = m.joinEmpty p (p.h.tag * 65536 + p.h.tw % 65536)) ∧
    (0 < sgCount p.pl → (m.ctx (p.h.tag * 65536 + p.h.tw % 65536)).used = true →
      m.joinIn p = m.joinCtx (p.h.tag * 65536 + p.h.tw % 65536) p) := by
  unfold Module.joinDist at hd
  unfold Module.joinIn
  dsimp only
  rw [if_neg (by simp [hg, hu]), if_neg (by simp [hpart]), if_neg (by simp [href]), if_neg (by omega), if_neg (by omega), hempty,
    hdone, hps]
  dsimp only
  rw [if_neg Bool.false_ne_true, if_neg (by simp [hlen, hvalid]), if_neg Bool.false_ne_true]
  refine ⟨fun hc => ?_, fun hc hused => ?_⟩
  · rw [if_pos (by simp [hc])]
  · rw [if_neg (by simp only [beq_iff_eq]; omega), if_pos hused]

end

/-! ### Joins of no elements (R236) -/

/-- A plane that holds a digest has met it before. -/
theorem Module.digestIn_met {m : Module} {h p : Nat} {dig : Bytes} (hf : (m.plane h p).first = some dig) (member : Nat) :
    m.digestIn h p dig member = m := by
  unfold Module.digestIn
  rw [hf]
  dsimp only
  rw [if_pos (by simp)]

theorem Group.advance_stays {g : Group} (h : g.done.contains g.low = false) (k : Nat) : g.advance k = g := by
  cases k with
  | zero => rfl
  | succ k => rw [Group.advance, if_neg (by rw [h]; decide)]

/-- The group after a join of no elements. -/
abbrev Group.withEmpty (g : Group) (seq : Nat) (dig : Bytes) : Group :=
  { g with empties := g.empties ++ [(seq, dig)], done := g.done ++ [seq] }

theorem Module.joinEmpty_eq {m : Module} {p : Pkt} {h : Nat}
    (hps : ∀ i ∈ joinPlanes (m.ctx h).plans p, (m.ctx h).used = true → (m.plane h i).first = some (sigDigest p.pl))
    (hd : m.joinDist p < 64) (hd1 : 1 ≤ m.joinDist p) (hdone : (m.grp p.h.tag).done.contains p.h.tw = false)
    (hlow : (m.grp p.h.tag).done.contains (m.grp p.h.tag).low = false) : ∃ n : Module, n.coll.ctxs = m.coll.ctxs ∧
      n.net = m.net ∧ n.pwr = m.pwr ∧ n.grp p.h.tag = (m.grp p.h.tag).withEmpty p.h.tw (sigDigest p.pl) ∧
      m.joinEmpty p h = n.answerJoin p St.okEmpty := by
  unfold Module.joinDist at hd hd1
  have hne : p.h.tw ≠ (m.grp p.h.tag).low := fun e => by
    rw [e] at hd1
    omega
  have hfold : (joinPlanes (m.ctx h).plans p).foldl (fun (m : Module) q =>
      if (m.ctx h).used then m.digestIn h q (sigDigest p.pl) (joinMember p.pl) else m) m = m :=
    foldl_fixed fun i hi => ite_eq_right_iff.mpr fun hused => Module.digestIn_met (hps i hi hused) _
  have hdone' : ((m.grp p.h.tag).withEmpty p.h.tw (sigDigest p.pl)).done.contains
      ((m.grp p.h.tag).withEmpty p.h.tw (sigDigest p.pl)).low = false := by
    change ((m.grp p.h.tag).done ++ [p.h.tw]).contains (m.grp p.h.tag).low = false
    rw [List.contains_append, hlow]
    simpa using Ne.symm hne
  have hput (n : Module) (x : Group) : (n.setGrp p.h.tag x).grp p.h.tag = x := Tab.get_put_same _ _ _
  refine ⟨(m.setGrp p.h.tag { m.grp p.h.tag with empties := (m.grp p.h.tag).empties ++ [(p.h.tw, sigDigest p.pl)] }).setGrp p.h.tag
    ((m.grp p.h.tag).withEmpty p.h.tw (sigDigest p.pl)), rfl, rfl, rfl, hput _ _, ?_⟩
  unfold Module.joinEmpty
  dsimp only
  rw [hfold, if_pos hd]
  unfold Module.seqDone
  dsimp only
  rw [hput, if_neg (by rw [hdone]; simp only [Bool.or_false, decide_eq_true_eq]; omega)]
  rw [Group.advance_stays hdone']

/-! ### The first join of an open context (R232, R286, R287) -/

theorem Module.syncEntry_net (m : Module) (h : Nat) : (m.syncEntry h).net = m.net := by
  unfold Module.syncEntry
  dsimp only
  split <;> rfl

/-- The launch count stands in the signature. -/
theorem sgLaunch_take (l : Bytes) : sgLaunch (l.take 40) = sgLaunch l := by
  simp [sgLaunch, fieldBE, slice, List.drop_take, List.take_take]

/-- A context that has its signature and waits for its launch count, and a plane that a first member has joined. -/
def Ctx.signed (c : Ctx) (sg : Bytes) : Ctx := { c with sig := some sg, launched := false }
def Plane.joinedBy (pl : Bytes) : Plane := { on := true, joined := [joinMember pl], first := some (sigDigest pl) }

/-- The module after a join has given the context its signature, after the join's member has joined plane 0, and at the join's
end, with the packets that came before the signature. -/
def Module.takesSig (m : Module) (h : Nat) (p : Pkt) : Module :=
  (m.collCount 0x110).updCtx h fun c => { c with sig := some (p.pl.take 40), launched := false }
def Module.takesMember (m : Module) (h : Nat) (p : Pkt) : Module :=
  if (m.ctx h).used then
    (m.updPlane h 0 fun y => { y with joined := y.joined ++ [joinMember p.pl] }).digestIn h 0 (sigDigest p.pl) (joinMember p.pl)
  else m
def Module.joinEnd (m : Module) (h : Nat) : Module :=
  let n := (m.ctx h).early.foldl (fun m k => if (m.ctx h).used then m.takeEarly h k else m)
    (m.updCtx h fun c => { c with early := [] })
  if (n.ctx h).used then (n.touch h 0 false).advance h else n

section
variable {h : Nat} {a b : Module} {c : Ctx} {y : Plane} {p : Pkt} (t : a.Turned h b (c.one y)) (hu : c.used = true)
include t hu

theorem Module.takesMember_eq (hf : y.first = none) : b.takesMember h p =
    (b.updPlane h 0 fun y => { y with joined := y.joined ++ [joinMember p.pl] }).updPlane h 0
      fun y => { y with first := some (sigDigest p.pl) } := by
  unfold Module.takesMember
  rw [t.ctx, if_pos (show (c.one y).used = true from hu)]
  unfold Module.digestIn
  rw [(t.updPlane _).plane, hf]

/-- The first member that joins a plane leaves its digest there. -/
theorem Module.Turned.takesMember (hf : y.first = none) (hj : y.joined = []) :
    a.Turned h (b.takesMember h p) (c.one { y with joined := [joinMember p.pl], first := some (sigDigest p.pl) }) := by
  have tj := (t.updPlane fun y => { y with joined := y.joined ++ [joinMember p.pl] }).updPlane
    fun y => { y with first := some (sigDigest p.pl) }
  rw [Module.takesMember_eq t hu hf]
  rwa [hj, List.nil_append] at tj

/-- Where no packet came before the signature, a plane that waits is as it was after the join. -/
theorem Module.Turned.joinEnd (he : c.early = []) (hon : y.dataOn = false)
    (hl : c.launched = true ∨ a.now < sgLaunch (c.sig.getD [])) (hs : c.Still y) :
    a.Turned h (b.joinEnd h) (c.one y) ∧ (b.joinEnd h).net = b.net := by
  have te : a.Turned h (b.updCtx h fun c => { c with early := [] }) (c.one y) := by
    have te := t.updCtx fun c => { c with early := [] }
    rwa [show ({ c.one y with early := [] } : Ctx) = c.one y by rw [← he]; rfl] at te
  have tt := te.touch false
  rw [Plane.touched_off hon] at tt
  have hn : b.joinEnd h = ((b.updCtx h fun c => { c with early := [] }).touch h 0 false).advance h := by
    unfold Module.joinEnd
    rw [t.ctx, show (c.one y).early = [] from he, List.foldl_nil]
    dsimp only
    rw [te.ctx, if_pos (show (c.one y).used = true from hu)]
  rw [hn]
  refine ⟨tt.advance hu hl hs, ?_⟩
  rw [Module.advance_still tt.ctx hu (by rw [tt.now]; exact hl) hs, Module.syncEntry_net]
  rfl

end

section
variable {m : Module} {p : Pkt} {h : Nat} {c : Ctx} {q : Nat} (hc : m.ctx h = c.one { on := true }) (hu : c.used = true)
  (hsig : c.sig = none) (hearly : c.early = []) (hlaunch : m.now < sgLaunch p.pl)
  (hport : p.port = some q) (hq : q < 256) (hps : joinPlanes c.plans p = [0])
include hc hu hsig hearly hlaunch hport hq hps

theorem Module.joinCtx_first : m.Turned h (m.joinCtx h p) ((c.signed (p.pl.take 40)).one (.joinedBy p.pl)) ∧
    (m.joinCtx h p).net.orig = m.net.orig := by
  have tc := (Module.turned_refl hc).beside ((Module.Beside.refl m).collCount (off := 0x110) 1 (by decide) (by decide))
  have hl : (sgLaunch p.pl == 0 || Decidable.decide (sgLaunch p.pl ≤ (m.collCount 0x110).now)) = false := by
    rw [tc.now]
    simp only [Bool.or_eq_false_iff, beq_eq_false_iff_ne, decide_eq_false_iff_not]
    omega
  have hps' : joinPlanes (m.ctx h).plans p = [0] := by rw [hc]; exact hps
  have hplane : m.plane h 0 = { on := true } := Module.plane_one hc
  have hnone : (((m.collCount 0x110).ctx h).sig).isNone = true := by
    rw [tc.ctx]
    exact Option.isNone_iff_eq_none.mpr hsig
  have e : m.joinCtx h p = ((m.takesSig h p).takesMember h p).joinEnd h := by
    unfold Module.joinCtx
    dsimp only
    rw [hps', if_neg (by simp [hplane]), hnone, if_pos rfl, if_pos rfl, hl, hport]
    simp only [show ¬ 256 ≤ q by omega, if_false]
    rfl
  have ts : m.Turned h (m.takesSig h p) ((c.signed (p.pl.take 40)).one { on := true }) := tc.updCtx _
  have tj : m.Turned h ((m.takesSig h p).takesMember h p) ((c.signed (p.pl.take 40)).one (.joinedBy p.pl)) :=
    ts.takesMember hu rfl rfl
  have still : (c.signed (p.pl.take 40)).Still (.joinedBy p.pl) := ⟨rfl, .inl rfl, rfl, nofun, nofun, .inl rfl⟩
  obtain ⟨te, he⟩ := tj.joinEnd hu hearly rfl (.inr (by rw [← sgLaunch_take] at hlaunch; exact hlaunch)) still
  rw [e]
  refine ⟨te, (congrArg Net.orig he).trans ?_⟩
  rw [Module.takesMember_eq ts hu rfl]
  exact congrArg Net.orig (Module.count_net _ _ _ _)

end

theorem collJoin_first {m : Module} {p : Pkt} {c : Ctx} {q : Nat} (ha : Arrives m p 0x10) (hr : Rests m)
    (hc : m.ctx (p.h.tag * 65536 + p.h.tw % 65536) = c.one { on := true }) (hu : c.used = true) (hsig : c.sig = none)
    (hearly : c.early = []) (hlaunch : m.now < sgLaunch p.pl) (hport : p.port = some q) (hq : q < 256)
    (hps : joinPlanes c.plans p = [0])
    (e : (m.taken p).joinIn p = (m.taken p).joinCtx (p.h.tag * 65536 + p.h.tw % 65536) p) :
    (m.taken p).Turned (p.h.tag * 65536 + p.h.tw % 65536) (collJoin p m) ((c.signed (p.pl.take 40)).one (.joinedBy p.pl)) ∧
      (collJoin p m).net.orig = m.net.orig := by
  obtain ⟨t, ho⟩ := Module.joinCtx_first (m := m.taken p) hc hu hsig hearly hlaunch hport hq hps
  rw [← e] at t ho
  have hbare : ((c.signed (p.pl.take 40)).one (.joinedBy p.pl)).Unsent := Ctx.unsent_bare rfl
  obtain ⟨v, ev⟩ := collJoin_eq ha (Module.unsent_of_others hr t.others (t.ctx ▸ hbare)) t.handed
  rw [ev]
  exact ⟨t.beside ((Module.Beside.refl _).store v), ho⟩

end Sys2Proof.Machine

namespace Sys2Proof.Proofs
open Sys2Proof.Machine Sys2Proof.Claims

/-- Settles O50: a join's place in the window decides its answer; one of no elements leaves its number done, and the first one of an
open context leaves the signature there. -/
theorem joinsFollowTheWindow : Obligations.JoinsFollowTheWindow := by
  unfold Obligations.JoinsFollowTheWindow
  intro s p c y q gno g d h open_ ps Sent Turned ha hr hg hu hpart hport hq hvc
  have answered {n : Machine.Module} {st : Nat} (e : (s.m.taken p).joinIn p = n.answerJoin p st)
      (hcoll : n.coll = s.m.coll) (hnet : n.net = (s.m.taken p).net) (hpwr : n.pwr = s.m.pwr) (hst : st < 65536) : Turned st := by
    have hgrp : n.grp p.h.tag = s.m.grp p.h.tag := congrArg (·.groups.get p.h.tag) hcoll
    have hj := collJoin_answers hport hq ha hr hg e (congrArg Coll.ctxs hcoll) hnet hpwr (by rw [hgrp]; exact hu)
      (by rw [hgrp]; exact hvc) hst
    exact completes_withM (collJoin p) rfl ⟨hj.1.trans hcoll, hj.2⟩
  have hu' : ((s.m.taken p).grp p.h.tag).used = true := hu
  refine ⟨fun href hd => ?_, fun href hd => ?_, fun hd hd' => ?_, fun href hd hempty hdone hlen hvalid =>
    ⟨fun hd1 hc hps hmet hlow => ?_, fun hctx hused hsig hp hearly hlaunch hy hps hc hop => ?_⟩⟩
  · exact answered (Module.joinIn_refused hg hu' hpart href hd) rfl rfl rfl (by decide)
  · exact answered (Module.joinIn_below hg hu' hpart href hd) (Module.count_coll _ _ _ _) (Module.count_net _ _ _ _)
      (Module.count_pwr _ _ _ _) (by decide)
  · exact answered (Module.joinIn_above hg hu' hpart hd hd') (Module.count_coll _ _ _ _) (Module.count_net _ _ _ _)
      (Module.count_pwr _ _ _ _) (by decide)
  · have hj := (Module.joinIn_window hg hu' hpart href hd hempty hdone hlen hvalid hps).1 hc
    have hmet' : ∀ i ∈ joinPlanes ((s.m.taken p).ctx h).plans p, ((s.m.taken p).ctx h).used = true →
        ((s.m.taken p).plane h i).first = some (sigDigest p.pl) := fun i hi hopen => by
      refine hmet i ?_ hopen
      change i ∈ joinPlanes (if (s.m.ctx h).used then (s.m.ctx h).plans else g.plans) p
      rwa [if_pos (show (s.m.ctx h).used = true from hopen)]
    obtain ⟨n, hctxs, hnet, hpwr, hgrp, en⟩ := Module.joinEmpty_eq hmet' hd hd1 hdone hlow
    have hans := collJoin_answers hport hq ha hr hg (hj.trans en) hctxs hnet hpwr (by rw [hgrp]; exact hu) (by rw [hgrp]; exact hvc)
      (by decide)
    have hgrp' : (collJoin p s.m).grp gno = g.withEmpty p.h.tw (sigDigest p.pl) :=
      (congrArg (·.groups.get p.h.tag) hans.1).trans hgrp
    refine completes_withM (collJoin p) rfl ⟨hans.2, (congrArg Coll.ctxs hans.1).trans hctxs, ?_⟩
    rw [hgrp']
    exact ⟨rfl, rfl, rfl⟩
  · have hopen : (s.m.ctx h).used = true := by
      rw [hctx]
      exact hused
    have hps' : ps = joinPlanes c.plans p := by
      change joinPlanes (if (s.m.ctx h).used then (s.m.ctx h).plans else g.plans) p = _
      rw [if_pos hopen, hctx]
    have hj := (Module.joinIn_window hg hu' hpart href hd hempty hdone hlen hvalid (by
      change ps.isEmpty = false
      rw [hps]
      rfl)).2 hc hopen
    have hone : s.m.ctx h = c.one { on := true } := by
      rw [hctx, Ctx.one_of_planes (hp.trans (by rw [hy]))]
    obtain ⟨t, ho⟩ := collJoin_first ha hr hone hused hsig hearly hlaunch hport hq (hps'.symm.trans hps) hj
    refine completes_withM (collJoin p) rfl ⟨t.others, ?_⟩
    rw [show (collJoin p s.m).ctx h = _ from t.ctx, show (collJoin p s.m).plane h 0 = _ from t.plane]
    exact ⟨rfl, rfl, rfl, rfl, ho, t.mem⟩

end Sys2Proof.Proofs
end
